-- ==== Sys2Proof/Word.lean ====
section
/-! DEFINITION. The word types of the machine and the sparse table type that State is made of. -/

namespace Sys2Proof

/-- The smallest addressable unit (00 R3). -/
abbrev Byte := BitVec 8
/-- A 64-bit word: s registers, special registers, record words. -/
abbrev W64 := BitVec 64
/-- A 32-bit word: constant-bank words, source fields, record words. -/
abbrev W32 := BitVec 32
/-- A tile register: 4,096 bytes, byte 0 lowest (02 R50). -/
abbrev Tile := BitVec 32768
/-- A mask register: one bit for each of up to 4,096 elements (04 R104). -/
abbrev Mask := BitVec 4096
/-- A bundle of 64 bytes (02 R33), also the size of a tuple image, a descriptor or a record. -/
abbrev Line := BitVec 512
/-- A device address (02 R33, 01 R23). -/
abbrev DevAddr := BitVec 57
/-- A local address (01 R22). -/
abbrev LocAddr := BitVec 48

/-- A sparse table: keys strictly rising, no entry equal to the default of the table.
An unlisted key holds the default. -/
abbrev Tbl (α : Type) := List (Nat × α)

/-- Memory is a sparse table of bytes whose default is zero (log 2). -/
abbrev Memory := Tbl Byte

end Sys2Proof
end

