-- ==== Sys2Proof/Config.lean ====
section
/-! DEFINITION. What the manual leaves open: free values, each an opaque constant (log 5). -/

namespace Sys2Proof.Config

/-- A free value for each count of the module's counter (log 5): which turn comes next when the agenda is
empty, which free frame a Zither takes (09 R278), the salt of a signature (14 R350). -/
opaque freeValue : Nat → Nat

/-- The choice that the implementation makes among the FP32 results within the bound of a special function
(05 R154), by function and operand bits. -/
opaque specialChoice : Nat → Nat → Nat

/-- The module's serial number (14 R350). -/
opaque serial : Nat

/-- The bytes of a public key (modulus, exponent) of which the fuses hold the digest (14 R349). -/
opaque keyBytes : Nat → Nat → List (BitVec 8)

/-- The security version that a firmware image carries (14 R349). -/
opaque imageVersion : List (BitVec 8) → BitVec 32

/-- The identity key pair generated at manufacture, modulus and private exponent, and its certificate (14 R350). -/
opaque identityModulus : Nat
opaque identityPrivate : Nat
opaque certificate : List (BitVec 8)

/-- How the contents of a summary entry of a type are laid out in its bytes (15 R381). -/
opaque summaryEntry : Nat → List Nat → Nat

end Sys2Proof.Config
end

