-- ==== Sys2Proof/Machine/Bits.lean ====
section
/-! DEFINITION. Bit-field, sign-extension and byte-order helpers over Nat and Int. -/

namespace Sys2Proof

/-- Bits `lo + n - 1` down to `lo` of `w`, as an unsigned value (00 R2, R6). -/
def fld (w lo n : Nat) : Nat := w / 2 ^ lo % 2 ^ n

/-- Bit `i` of `w`. -/
def bitAt (w i : Nat) : Bool := w / 2 ^ i % 2 == 1

/-- The signed value of the low `n` bits of `w`. -/
def signed (n w : Nat) : Int :=
  let v := w % 2 ^ n
  if 2 ^ n ≤ 2 * v then (v : Int) - (2 ^ n : Nat) else v

/-- An exact integer taken modulo 2^n (an explicit bit slice of R6). -/
def wrapN (n : Nat) (x : Int) : Nat := (x % ((2 ^ n : Nat) : Int)).toNat

/-- `w` widened from `n` bits to 64 bits with sign extension. -/
def sext64 (n w : Nat) : Nat := wrapN 64 (signed n w)

/-- `sat` of R6. -/
def satI (v lo hi : Int) : Int := if v < lo then lo else if hi < v then hi else v

/-- The number of one bits among the low `n` bits of `w`. -/
def popN : Nat → Nat → Nat
  | 0, _ => 0
  | n + 1, w => w % 2 + popN n (w / 2)

/-- The low `n` bits of `w` in reversed order (`rev_b` of 04 R130). -/
def revN : Nat → Nat → Nat
  | 0, _ => 0
  | n + 1, w => (w % 2) * 2 ^ n + revN n (w / 2)

/-- Place a field of `n` bits holding `v` at bit `lo` of `w`, replacing what stood there. -/
def putFld (w lo n v : Nat) : Nat :=
  w - fld w lo n * 2 ^ lo + (v % 2 ^ n) * 2 ^ lo

/-- Little-endian bytes of `w`, lowest first (00 R3). -/
def toBytes : Nat → Nat → List Byte
  | 0, _ => []
  | n + 1, w => BitVec.ofNat 8 w :: toBytes n (w / 256)

/-- The value of little-endian bytes, lowest first (00 R3). -/
def ofBytes : List Byte → Nat
  | [] => 0
  | b :: bs => b.toNat + 256 * ofBytes bs

/-- Exclusive or of two naturals read as bit patterns. -/
def xorN (a b : Nat) : Nat := Nat.xor a b
/-- The bitwise or. -/
def orN (a b : Nat) : Nat := Nat.lor a b

end Sys2Proof
end

