-- ==== Sys2Proof/Syntax.lean ====
section
/-! DEFINITION. The instruction syntax: one constructor of Instr for each row of the opcode table.
Slot, control and address ops are parts of a bundle (02 R33 to R35), chain records are parts of a
command chain (09 R253), management commands are mailbox records (15 R356), and the other rows are
events of the machine, named with the unit they happen at. -/

namespace Sys2Proof

/-- The operand a source field names (02 R42). -/
inductive Src where
  /-- v0 to v31. -/
  | tile (n : Fin 32)
  /-- The head of qlx, popped. -/
  | qlx
  /-- The head of qxs, popped. -/
  | qxs
  /-- p0 to p7 read as a mask tile. -/
  | mask (n : Fin 8)
  /-- s0 to s63. -/
  | s (n : Fin 64)
  /-- a0 to a15. -/
  | a (n : Fin 16)
  /-- m0 to m15. -/
  | m (n : Fin 16)
  /-- A constant-bank word. -/
  | k (n : Fin 16384)
  /-- A literal field. -/
  | lit (w : W32)
  deriving DecidableEq, Repr

/-- The destination a destination code names (02 R44). -/
inductive Dst where
  | v (n : Fin 32)
  | qlx
  | qxs
  | p (n : Fin 8)
  | s (n : Fin 64)
  | a (n : Fin 16)
  | m (n : Fin 16)
  /-- 0xFF: the result is discarded. -/
  | none
  deriving DecidableEq, Repr

/-- The type codes of 02 R45. -/
inductive Ty where
  | i8 | i16 | i32 | i64 | f32 | bf16 | f16 | n8 | n16 | n32 | f4 | a8 | nw8
  deriving DecidableEq, Repr

/-- The operand fields of a slot op (02 R35). -/
structure SlotOp where
  dst : Dst
  a : Src
  b : Src
  c : Src
  ty : Ty
  pred : Fin 8
  opx : Fin 8
  deriving DecidableEq, Repr

/-- The test of BRP (02 R40). -/
inductive MaskTest where
  | any | all | none
  deriving DecidableEq, Repr

/-- The data queues of a job (01 R15). -/
inductive QName where
  | qlx | qxs
  deriving DecidableEq, Repr

/-- The count of LOOP (02 R40). -/
inductive LoopCount where
  | imm (n : BitVec 24)
  | reg (n : Fin 64)
  deriving DecidableEq, Repr

/-- The register that JMPI names: s0 to s63 or a0 to a15 (02 R40). -/
inductive JmpReg where
  | s (n : Fin 64)
  | a (n : Fin 16)
  deriving DecidableEq, Repr

/-- The streams of a core in the order L, X, S (02 R58). -/
inductive StreamName where
  | l | x | s
  deriving DecidableEq, Repr

/-- A stream of a core of a die. -/
structure Who where
  die : Fin 16
  core : Fin 128
  stream : StreamName
  deriving DecidableEq, Repr

/-- The engine classes (09 R253). -/
inductive EngClass where
  | copy | kantele | zither | chain
  deriving DecidableEq, Repr

/-- A chain record of 32 bytes: the fields of word 0 and words 1 to 7 (09 R253, R254). -/
structure Rec where
  cls : EngClass
  bufs : BitVec 16
  last : Bool
  ntf : Bool
  sig : Bool
  byt : Bool
  w1 : W32
  w2 : W32
  w3 : W32
  w4 : W32
  w5 : W32
  w6 : W32
  w7 : W32
  deriving DecidableEq, Repr

/-- A mailbox record: words 0 to 4 of a management command (15 R356, R357). -/
structure Mgmt where
  w0 : W64
  w1 : W64
  w2 : W64
  w3 : W64
  w4 : W64
  deriving DecidableEq, Repr

/-- What names a chain: the chain slot of a core, or the chain of a COPY node (11 R299). -/
inductive ChainId where
  | job (die : Fin 16) (core : Fin 128) (slot : Fin 16)
  | node (die : Fin 16) (ctx : Fin 64) (graph : DevAddr) (node : BitVec 16)
  deriving DecidableEq, Repr

/-- An engine that holds a queue of chains (09 R259). -/
inductive EngineId where
  | copy (die : Fin 16) (n : Fin 8)
  | kantele (die : Fin 16) (cluster : Fin 8)
  | zither (z : Fin 8)
  | chain (die : Fin 16) (cluster : Fin 8)
  deriving DecidableEq, Repr

/-- Where requests to a home engine combine: the router of a cluster, or the later routers and bridges on the way to
the home engine of a die, taken together (08 R233, log 39). -/
inductive RouterId where
  | cluster (die : Fin 16) (cluster : Fin 8)
  | later (home : Fin 16)
  deriving DecidableEq, Repr

/-- The router of a cluster of a die, or without one the later routers on the way to the die. -/
def RouterId.of (die : Fin 16) : Option (Fin 8) → RouterId
  | some k => .cluster die k
  | none => .later die

/-- A posted remote write as it arrives at its target: who sent it and one line of data with its
byte mask (09 R285, 14 R347, 17 R385). -/
structure RemoteWrite where
  srcDev : BitVec 10
  srcCtx : Fin 64
  srcWin : Fin 64
  epoch : BitVec 32
  pctx : Fin 64
  pwin : Fin 64
  offset : BitVec 64
  data : Line
  bytes : BitVec 64
  deriving DecidableEq, Repr

/-- A marker copy of a fence epoch as it arrives at its target (09 R290). -/
structure Marker where
  srcDev : BitVec 10
  srcCtx : Fin 64
  srcWin : Fin 64
  srcJob : BitVec 32
  epoch : BitVec 32
  pctx : Fin 64
  pwin : Fin 64
  bytes : BitVec 48
  copies : BitVec 16
  deriving DecidableEq, Repr

/-- What a flit carries (09 R285). -/
inductive FlitBody where
  /-- Bytes 8 to 15 and the entry at the target that they name (14 R347), and the payload: the offset of the first of up to
  three consecutive lines, the lines, their byte masks (17 R385). -/
  | write (srcCtx srcWin : Fin 64) (epoch : BitVec 32) (pctx pwin : Fin 64) (payload : BitVec 1792)
  | marker (m : Marker)
  /-- A multicast packet of a device on its way to a relay, or the copy that a relay made for one member (09 R276, R291); `cmd`
  says which command of the origin sent it (log 92). -/
  | multicast (origin : BitVec 10) (cmd : Nat) (group : BitVec 8) (version : BitVec 8) (ctx : Fin 64) (copy : Bool)
      (offset : BitVec 40) (data : List Byte)
  | multicastAck (cmd : Nat) (group : BitVec 8)
  | ack (upto : BitVec 24)
  | nak (first : BitVec 24)
  /-- A landing acknowledgement: bytes of a window that return, or a refusal (09 R287, 14 R347). -/
  | landing (ctx : Fin 64) (win : Fin 64) (bytes : BitVec 32) (refused : Bool)
  deriving DecidableEq, Repr

/-- A flit (09 R285): sequence number, key index (set as it first leaves), destination and source device, contents, and the port of the pair
whose sequence it belongs to (15 R374; log 13). -/
structure Flit where
  pair : Fin 72
  seq : BitVec 24
  key : Fin 4
  dst : BitVec 10
  src : BitVec 10
  body : FlitBody
  deriving DecidableEq, Repr

/-- What the second-level check of a stacked-DRAM line finds (15 R366). -/
inductive LineCheck where
  | clean
  | oneSymbol (sym : Fin 72) (again : Bool)
  | uncorrectable
  deriving DecidableEq, Repr

/-- Who asked for a line: the fetch or the atomic of a stream, a chain with the device address that it accesses, or none
that a fault could reach (15 R366, R368). -/
inductive LineUser where
  | none
  | fetch (w : Who)
  | atomic (w : Who)
  | chain (c : ChainId) (dev : DevAddr)
  deriving DecidableEq, Repr

/-- What the transfers of one stacked-DRAM line meet (15 R366): the outcome of each CRC test in order (missing entries
pass), the second-level check, the wires that each repair finds failing, and the requester. -/
structure LineFaults where
  crc : List Bool
  check : LineCheck
  wires : List (List (Fin 512))
  user : LineUser
  deriving DecidableEq, Repr

/-- A firmware image as a boot stage meets it (14 R349): its bytes, the public key that comes with it, its signature. -/
structure FwImage where
  bytes : List Byte
  modulus : Nat
  exponent : Nat
  signature : Nat
  deriving DecidableEq, Repr

/-- The domain that a correctable scratchpad error freezes (15 R365). -/
inductive FreezeDomain where
  | unit (die : Fin 16) (core : Fin 128)
  | cluster (die : Fin 16) (cluster : Fin 8)
  | slice (die : Fin 16) (slice : Fin 16)
  deriving DecidableEq, Repr

/-- A correctable scratchpad error: its domain, and its line in the scratchpad when it has come back after a write-back
(15 R365, R372). -/
structure ScratchpadError where
  domain : FreezeDomain
  lasting : Option Nat
  deriving DecidableEq, Repr

/-- One constructor for each row of the opcode table. The rows without operands stand last. A management
command carries none: its record stands in the mailbox (15 R356). -/
inductive Instr where
  /-- R133: Branches unconditionally to a bundle offset. -/
  | br (off : W32)
  /-- R133: Branches when the named s register is zero. -/
  | brz (r : Fin 64) (off : BitVec 24)
  /-- R133: Branches when the named s register is non-zero. -/
  | brnz (r : Fin 64) (off : BitVec 24)
  /-- R133: In X, branches on a mask test: any, all or none of the elements true. -/
  | brp (p : Fin 8) (t : MaskTest) (off : BitVec 24)
  /-- R134: Branches when the named data queue holds no entry, and never blocks. -/
  | brqe (q : QName) (off : BitVec 24)
  /-- R135: Pushes a counted loop entry on the loop stack, or skips the body when the count is 0. -/
  | loop (n : LoopCount) (last : BitVec 16)
  /-- R138: Pushes the return address on the call stack and transfers control. -/
  | call (off : W32)
  /-- R138: Transfers control to the address held in a scalar or address register. -/
  | jmpi (r : JmpReg)
  /-- R310: Makes the job a member of a group object and acquires the group's clock. -/
  | join (g : Fin 1024)
  /-- R310: Releases into the group, removes the job from it and tests the phase. -/
  | leave (g : Fin 1024)
  /-- R310: Arrives at the group's phase and waits for that phase to complete. -/
  | gbar (g : Fin 1024)
  /-- R308: Waits until a signal object is 0 or less, then acquires its clock. -/
  | waits (r : Fin 64)
  /-- R241: Waits for the target phase of a barrier slot to complete, then acquires the slot's done clock. -/
  | waitb (slot : Fin 256)
  /-- R360: Raises USER with the given argument and holds the stream. -/
  | trap (n : BitVec 16)
  /-- R324: Opens a non-pre-emptible region for the job, with a bound of 1 to 200 µs. -/
  | npre (us : BitVec 8)
  /-- R130: Adds a signed immediate to an address register after the bundle. -/
  | ainc (a : Fin 16) (imm : W32)
  /-- R130: Modulo post-increment of an address register within an aligned block. -/
  | amod (a : Fin 16) (m : Fin 16)
  /-- R130: Bit-reversed post-increment of an address register. -/
  | abrv (a : Fin 16) (m : Fin 16)
  /-- R130: Circular-buffer post-increment of an address register. -/
  | acir (a : Fin 16) (m : Fin 16)
  /-- R41: Sets an address register to a 36-bit value. -/
  | aset (a : Fin 16) (hi : BitVec 4) (lo : W32)
  /-- R41: Writes one part of a modifier register: increment, length, base or mode. -/
  | mset (part : Fin 4) (m : Fin 16) (v : W32)
  /-- R108: Wrapping integer add. -/
  | iadd (o : SlotOp)
  /-- R108: Wrapping integer subtract. -/
  | isub (o : SlotOp)
  /-- R108: Saturating integer add. -/
  | iadds (o : SlotOp)
  /-- R108: Saturating integer subtract. -/
  | isubs (o : SlotOp)
  /-- R108: Integer multiply, low half. -/
  | imul (o : SlotOp)
  /-- R108: Integer multiply, high half. -/
  | imulh (o : SlotOp)
  /-- R108: Wrapping integer multiply-add. -/
  | imad (o : SlotOp)
  /-- R108: Shift left. -/
  | ishl (o : SlotOp)
  /-- R108: Logical shift right. -/
  | ishr (o : SlotOp)
  /-- R108: Arithmetic shift right. -/
  | isra (o : SlotOp)
  /-- R108: Bitwise and. -/
  | iand (o : SlotOp)
  /-- R108: Bitwise or. -/
  | ior (o : SlotOp)
  /-- R108: Bitwise exclusive or. -/
  | ixor (o : SlotOp)
  /-- R108: Integer minimum. -/
  | imin (o : SlotOp)
  /-- R108: Integer maximum. -/
  | imax (o : SlotOp)
  /-- R108: Integer absolute value. -/
  | iabs (o : SlotOp)
  /-- R108: Count of leading zero bits. -/
  | iclz (o : SlotOp)
  /-- R108: Population count. -/
  | ipop (o : SlotOp)
  /-- R108: Moves bits unchanged. -/
  | imov (o : SlotOp)
  /-- R109: Bit-field extract. -/
  | ibfe (o : SlotOp)
  /-- R109: Bit-field insert. -/
  | ibfi (o : SlotOp)
  /-- R110: Float add, f32 (opcode 0x20). -/
  | faddF32 (o : SlotOp)
  /-- R110: Float add, bf16 (opcode 0x21). -/
  | faddBf16 (o : SlotOp)
  /-- R110: Float add, f16 (opcode 0x22). -/
  | faddF16 (o : SlotOp)
  /-- R110: Float subtract, f32 (opcode 0x23). -/
  | fsubF32 (o : SlotOp)
  /-- R110: Float subtract, bf16 (opcode 0x24). -/
  | fsubBf16 (o : SlotOp)
  /-- R110: Float subtract, f16 (opcode 0x25). -/
  | fsubF16 (o : SlotOp)
  /-- R110: Float multiply, f32 (opcode 0x26). -/
  | fmulF32 (o : SlotOp)
  /-- R110: Float multiply, bf16 (opcode 0x27). -/
  | fmulBf16 (o : SlotOp)
  /-- R110: Float multiply, f16 (opcode 0x28). -/
  | fmulF16 (o : SlotOp)
  /-- R110: Fused multiply-add, f32 (opcode 0x29). -/
  | fmaF32 (o : SlotOp)
  /-- R110: Fused multiply-add, bf16 (opcode 0x2A). -/
  | fmaBf16 (o : SlotOp)
  /-- R110: Fused multiply-add, f16 (opcode 0x2B). -/
  | fmaF16 (o : SlotOp)
  /-- R110: Correctly rounded divide, f32 (opcode 0x2C). -/
  | fdivF32 (o : SlotOp)
  /-- R110: Correctly rounded divide, bf16 (opcode 0x2D). -/
  | fdivBf16 (o : SlotOp)
  /-- R110: Correctly rounded divide, f16 (opcode 0x2E). -/
  | fdivF16 (o : SlotOp)
  /-- R111: Float minimum, f32 (opcode 0x2F). -/
  | fminF32 (o : SlotOp)
  /-- R111: Float minimum, bf16 (opcode 0x30). -/
  | fminBf16 (o : SlotOp)
  /-- R111: Float minimum, f16 (opcode 0x31). -/
  | fminF16 (o : SlotOp)
  /-- R111: Float maximum, f32 (opcode 0x32). -/
  | fmaxF32 (o : SlotOp)
  /-- R111: Float maximum, bf16 (opcode 0x33). -/
  | fmaxBf16 (o : SlotOp)
  /-- R111: Float maximum, f16 (opcode 0x34). -/
  | fmaxF16 (o : SlotOp)
  /-- R112: Clears the sign of a float. -/
  | fabs (o : SlotOp)
  /-- R112: Inverts the sign of a float. -/
  | fneg (o : SlotOp)
  /-- R112: Float move, making NaNs canonical. -/
  | fmov (o : SlotOp)
  /-- R112: Scales a float by a power of two. -/
  | fscl (o : SlotOp)
  /-- R112: Clamps a float to a range. -/
  | fclp (o : SlotOp)
  /-- R112: Linear interpolation with a single rounding. -/
  | flrp (o : SlotOp)
  /-- R113: Integer compare into a mask or a scalar. -/
  | icmp (o : SlotOp)
  /-- R113: Float compare into a mask or a scalar. -/
  | fcmp (o : SlotOp)
  /-- R114: Selects each element from A or B by a mask. -/
  | sel (o : SlotOp)
  /-- R115: Mask and. -/
  | pand (o : SlotOp)
  /-- R115: Mask or. -/
  | por (o : SlotOp)
  /-- R115: Mask exclusive or. -/
  | pxor (o : SlotOp)
  /-- R115: Mask not. -/
  | pnot (o : SlotOp)
  /-- R115: Counts the true bits of a mask. -/
  | pcnt (o : SlotOp)
  /-- R117: Reduces by sum in the pairwise order. -/
  | rsum (o : SlotOp)
  /-- R117: Reduces by sum of squares. -/
  | rsqs (o : SlotOp)
  /-- R118: Reduces by maximum. -/
  | rmax (o : SlotOp)
  /-- R118: Reduces by minimum. -/
  | rmin (o : SlotOp)
  /-- R118: Reduces by largest magnitude along a row, a column or the whole tile. -/
  | rmxa (o : SlotOp)
  /-- R119: Chooses block scale bytes and places them in the scale bypass. -/
  | rmxaBlk (o : SlotOp)
  /-- R101: Prefix-sum scan. -/
  | rscn (o : SlotOp)
  /-- R120: Index of the maximum element. -/
  | argm (o : SlotOp)
  /-- R121: Largest k elements of each row, with their indices. -/
  | topk (o : SlotOp)
  /-- R122: Transposes a tile. -/
  | trns (o : SlotOp)
  /-- R123: Broadcasts a row or a column. -/
  | bcst (o : SlotOp)
  /-- R124: Permutes elements by an index tile. -/
  | shuf (o : SlotOp)
  /-- R125: Extracts one element into a scalar. -/
  | vext (o : SlotOp)
  /-- R125: Inserts a value into one element of a tile. -/
  | vins (o : SlotOp)
  /-- R126: Fills a tile with element indices. -/
  | iota (o : SlotOp)
  /-- R144: Converts float to float. -/
  | cvt (o : SlotOp)
  /-- R145: Converts float to integer. -/
  | cvfi (o : SlotOp)
  /-- R146: Converts integer to float. -/
  | cvif (o : SlotOp)
  /-- R149: Quantises blocks with the scale found in stage 3 of the bypass. -/
  | qblk (o : SlotOp)
  /-- R150: Dequantises blocks. -/
  | dqbk (o : SlotOp)
  /-- R151: Decodes raw F4 codes without a scale byte. -/
  | dcf4 (o : SlotOp)
  /-- R152: Extracts the leading or residual slice of NW8 blocks. -/
  | nwsl (o : SlotOp)
  /-- R153: Packs NW8 codes into bit planes. -/
  | nwpk (o : SlotOp)
  /-- R154: Computes e^x. -/
  | fexp (o : SlotOp)
  /-- R154: Computes 2^x. -/
  | fexp2 (o : SlotOp)
  /-- R154: Natural logarithm. -/
  | flog (o : SlotOp)
  /-- R154: Base-2 logarithm. -/
  | flog2 (o : SlotOp)
  /-- R154: Reciprocal. -/
  | frcp (o : SlotOp)
  /-- R154: Square root. -/
  | fsqt (o : SlotOp)
  /-- R154: Reciprocal square root. -/
  | frsq (o : SlotOp)
  /-- R154: Hyperbolic tangent. -/
  | ftnh (o : SlotOp)
  /-- R154: Sigmoid. -/
  | fsig (o : SlotOp)
  /-- R154: GELU. -/
  | fglu (o : SlotOp)
  /-- R154: Sine. -/
  | fsin (o : SlotOp)
  /-- R154: Cosine. -/
  | fcos (o : SlotOp)
  /-- R155: Softmax over each row. -/
  | fsmx (o : SlotOp)
  /-- R156: Fills a tile from the counter-based random generator. -/
  | rand (o : SlotOp)
  /-- R162: Seeds the direction of a jet. -/
  | jsed (o : SlotOp)
  /-- R163: Extracts one jet coefficient, optionally multiplied by j!. -/
  | jext (o : SlotOp)
  /-- R219: Loads a tile into qlx. -/
  | ldt (o : SlotOp)
  /-- R220: Stores a tile from qxs, or a broadcast scalar. -/
  | stt (o : SlotOp)
  /-- R221: Loads one scalar element. -/
  | lds (o : SlotOp)
  /-- R221: Stores one scalar element. -/
  | sts (o : SlotOp)
  /-- R222: Loads a block tile whose codes and scale bytes lie apart. -/
  | ldb (o : SlotOp)
  /-- R172: Loads a slice of an NW8 plane image into qlx. -/
  | ldnw (o : SlotOp)
  /-- R223: Gathers elements or rows by an index list into qlx. -/
  | gath (o : SlotOp)
  /-- R223: Scatters elements or rows by an index list. -/
  | scat (o : SlotOp)
  /-- R224: Copies bytes between local levels, or into a peer window. -/
  | tmov (o : SlotOp)
  /-- R225: Closes the job's fence epoch on a window and sends its marker copies. -/
  | wfen (o : SlotOp)
  /-- R266: Releases, then publishes claimed circular-buffer entries. -/
  | cbpb (o : SlotOp)
  /-- R266: Releases, then releases consumed circular-buffer entries. -/
  | cbrl (o : SlotOp)
  /-- R266: A consumer waits for entries to be available and acquires them. -/
  | cbwtConsumer (o : SlotOp)
  /-- R388: A producer waits for free entries, claims them and acquires the consumers' releases. -/
  | cbwtProducer (o : SlotOp)
  /-- R266: Reads a circular buffer's count and availability. -/
  | cbstGet (o : SlotOp)
  /-- R266: Initialises a buffer object from a 64-byte image. -/
  | cbstInit (o : SlotOp)
  /-- R230: Atomic fetch and add. -/
  | afad (o : SlotOp)
  /-- R232: Bounded atomic fetch and add. -/
  | afab (o : SlotOp)
  /-- R231: Atomic increment with wrap at a bound. -/
  | ainw (o : SlotOp)
  /-- R231: Atomic decrement with wrap at a bound. -/
  | adcw (o : SlotOp)
  /-- R230: Atomic compare and swap. -/
  | acas (o : SlotOp)
  /-- R230: Atomic swap. -/
  | aswp (o : SlotOp)
  /-- R230: Atomic fetch and minimum. -/
  | amin (o : SlotOp)
  /-- R230: Atomic fetch and maximum. -/
  | amax (o : SlotOp)
  /-- R230: Atomic fetch and and. -/
  | aand (o : SlotOp)
  /-- R230: Atomic fetch and or. -/
  | aor (o : SlotOp)
  /-- R230: Atomic float fetch and add. -/
  | afaf (o : SlotOp)
  /-- R230: Atomic float fetch and maximum. -/
  | afmx (o : SlotOp)
  /-- R229: The home synchronisation engine applies one arriving atomic request and sends its reply. -/
  | atomicApply (die : Fin 16) (cluster : Option (Fin 8))
  /-- R234: A router or bridge merges an arriving AFAD or AFAB with a waiting request and keeps a decombining record. -/
  | routerCombine (die : Fin 16) (cluster : Option (Fin 8))
  /-- R234: A reply arriving at a router is split among the members of its decombining record. -/
  | decombineReply (die : Fin 16) (cluster : Option (Fin 8)) (lost : List Nat)
  /-- R238: Releases, then decrements a signal object. -/
  | sdec (o : SlotOp)
  /-- R238: Releases, then adds to a signal object. -/
  | sadd (o : SlotOp)
  /-- R240: Posts an expected byte count to phase P or P + 1 of a barrier slot. -/
  | bexp (o : SlotOp)
  /-- R240: Arrives at a barrier slot as a release. -/
  | barv (o : SlotOp)
  /-- R240: Resets a barrier slot, sets its parties and makes it valid. -/
  | binv (o : SlotOp)
  /-- R210: A completing command or remote write subtracts its bytes from its captured phase and drops its hold. -/
  | barrierDelivery (die : Fin 16)
  /-- R243: Fence that orders the stream's accesses at a scope. -/
  | fenc (o : SlotOp)
  /-- R249: Deposits a tuple as a release. -/
  | tdep (o : SlotOp)
  /-- R250: Copies the oldest matching tuple, or parks. -/
  | tcpy (o : SlotOp)
  /-- R250: Takes the oldest matching tuple, or parks. -/
  | ttak (o : SlotOp)
  /-- R252: Cancels the parked tuple request of a stream of the issuing job. -/
  | tcan (o : SlotOp)
  /-- R251: Probes for a matching tuple without parking. -/
  | tprb (o : SlotOp)
  /-- R245: A slice moves an overflow tuple back into SRAM once room returns, oldest first. -/
  | tupleOverflowReturn (die : Fin 16) (slice : Fin 16)
  /-- R259: Starts a command chain on an engine and captures a barrier phase. -/
  | echn (o : SlotOp)
  /-- R262: Waits for a chain slot to reach an end state and returns its progress word. -/
  | ecwt (o : SlotOp)
  /-- R262: Cancels a chain once its current command completes. -/
  | ecnc (o : SlotOp)
  /-- R175: Requests a Kantele lease for n commands. -/
  | leas (o : SlotOp)
  /-- R177: Releases the job's Kantele lease. -/
  | lrel (o : SlotOp)
  /-- R176: A free array grants one waiting request and clears its accumulator bank. -/
  | leaseGrant (die : Fin 16) (cluster : Fin 8)
  /-- R164: Starts a chain-engine pass from a descriptor. -/
  | chn (o : SlotOp)
  /-- R168: A chain-engine pass writes its status word and delivers its bytes to its phase. -/
  | passComplete (die : Fin 16) (cluster : Fin 8)
  /-- R311: Gives a data queue a spill ring in device space, or removes it. -/
  | qspl (o : SlotOp)
  /-- R312: The eddy engine moves the oldest ring entry into a queue that has room. -/
  | eddyRefill (die : Fin 16) (core : Fin 128) (q : QName)
  /-- R274: Queues a user-level interrupt on a stream of the job. -/
  | uirq (o : SlotOp)
  /-- R270: A stream takes its oldest interrupt entry and enters its handler. -/
  | interruptTake (w : Who)
  /-- R316: Submits a draft tree to the sequence manager. -/
  | sqtr (o : SlotOp)
  /-- R317: Judges the submitted tree, accepts a path and truncates the cache. -/
  | sqac (o : SlotOp)
  /-- R319: Rolls a request's cache back to a given length. -/
  | sqrb (o : SlotOp)
  /-- R319: Saves a request's image and frees the request. -/
  | sqpm (o : SlotOp)
  /-- R320: Opens a request from an image. -/
  | sqrs (o : SlotOp)
  /-- R320: Returns a request's status without trapping. -/
  | sqst (o : SlotOp)
  /-- R340: Invalidates translations by placing in-order markers in every queue. -/
  | invm (o : SlotOp)
  /-- R140: Reads a special register. -/
  | getx (o : SlotOp)
  /-- R140: Writes a special register. -/
  | setx (o : SlotOp)
  /-- R387: A fetched bundle arrives in the stream's fetch buffer. -/
  | bundleFetch (w : Who)
  /-- R363: A bundle held on a parity error issues again 10 cycles after the register has been restored. -/
  | parityReissue (w : Who)
  /-- R257: An engine takes a queued chain and its sequencer begins walking the records. -/
  | chainStart (e : EngineId)
  /-- R269: A command completes: writes, publication, bytes, signal, interrupt and progress word. -/
  | commandComplete (c : ChainId)
  /-- R275: Copy command that moves strided runs of bytes. -/
  | cpy (r : Rec)
  /-- R276: Copy command that gathers runs by an index list. -/
  | cpg (r : Rec)
  /-- R276: Multicast copy command to a group. -/
  | cpm (r : Rec)
  /-- R180: Kantele matrix command, firing on its activation and weight entries. -/
  | mmp (r : Rec)
  /-- R181: Kantele drain of accumulator elements into an output entry. -/
  | mdr (r : Rec)
  /-- R280: Zither attention over a cache list. -/
  | atn (r : Rec)
  /-- R281: Zither append of token records to a cache list. -/
  | kap (r : Rec)
  /-- R282: Zither truncation of a cache list. -/
  | ktr (r : Rec)
  /-- R283: Zither fork of a cache list sharing a prefix. -/
  | kfk (r : Rec)
  /-- R276: Moves a page between tiers and rewrites its PTE. -/
  | mig (r : Rec)
  /-- R276: Chain-engine pass started from a chain record. -/
  | pas (r : Rec)
  /-- R256: Chain control record that jumps by a record offset. -/
  | jmp (r : Rec)
  /-- R256: Chain loop record on a counter word. -/
  | lpc (r : Rec)
  /-- R256: Skips the next record when the word is zero. -/
  | ifz (r : Rec)
  /-- R256: Skips the next record when the word is non-zero. -/
  | ifnz (r : Rec)
  /-- R256: Chain record that decrements a signal. -/
  | sgd (r : Rec)
  /-- R256: Chain record that queues a user-level interrupt. -/
  | nte (r : Rec)
  /-- R256: Chain record that ends the chain. -/
  | endRec (r : Rec)
  /-- R27: A host write of bytes 0 to 7 of a deposit slot makes a deposit at the tag's home slice. -/
  | hostDeposit (ctx : Fin 64) (slot : Fin 512) (v : W64)
  /-- R27: A host write of the take pattern removes the oldest matching tuple without parking. -/
  | hostTake (ctx : Fin 64) (v : W64)
  /-- R27: A host write to any other window offset is discarded. -/
  | registerWriteOther (ctx : Fin 64) (off : BitVec 16) (v : W64)
  /-- R26: The dispatcher's parked take wins a launch tuple, checks the payload tag and makes the entry node ready. -/
  | launch (die : Fin 16)
  /-- R294: 250 ns after a mismatch the dispatcher reads the payload tail again, up to 16 reads. -/
  | launchTagReread (die : Fin 16)
  /-- R26: An arriving line of the constant image enters the job's constant bank. -/
  | constantBankLoad (die : Fin 16) (core : Fin 128)
  /-- R304: Every 4 cycles the dispatcher takes the first node it can dispatch from the ready pool. -/
  | dispatchTick (die : Fin 16)
  /-- R307: The job ends once all its streams have exited and its chains have ended. -/
  | jobEnd (die : Fin 16) (core : Fin 128)
  /-- R301: A completed node decrements its successors' pending counts and its signal. -/
  | nodeComplete (ctx : Fin 64) (graph : DevAddr) (node : BitVec 16)
  /-- R303: A node that has waited 2^21 cycles at a level rises by one level. -/
  | poolAgeing (die : Fin 16)
  /-- R303: A node held in overflow enters the ready pool once it has room. -/
  | poolOverflowEnter (die : Fin 16)
  /-- R322: A DRAIN victim still running at the drain limit is decided again from step 2. -/
  | drainExpire (ctx : Fin 64) (graph : DevAddr) (node : BitVec 16)
  /-- R322: Once its chains, passes and lease have ended, a victim's state is saved and its node returns to the pool. -/
  | checkpointSave (ctx : Fin 64) (graph : DevAddr) (node : BitVec 16)
  /-- R324: A region whose bound runs out closes, sends NPRE_BREACH and lets the held action proceed. -/
  | npreExpire (die : Fin 16) (core : Fin 128)
  /-- R325: Every 5 µs a hot cluster steps its clock down by 0.25 GHz, or a cooled one steps it up. -/
  | thermalStep (die : Fin 16) (cluster : Fin 8) (hot : Bool)
  /-- R207: The scrubber retires tags of age 2^14 and raises old clock and view entries. -/
  | scrubSweep (die : Fin 16)
  /-- R341: A pager stream receives a TIER record and migrates the flash page. -/
  | tierFaultService (die : Fin 16) (readFails : Bool)
  /-- R386: A posted remote write arriving at the target lands under its window, slot and translation checks. -/
  | remoteWriteLand (w : RemoteWrite)
  /-- R290: A WFEN marker copy lands, and the last copy of an epoch posts its bytes and arrives. -/
  | markerLand (k : Marker)
  /-- R287: A landing acknowledgement returns a write's bytes to the window's allowance. -/
  | allowanceReturn (ctx : Fin 64) (win : Fin 64) (bytes : W32) (refused : Bool)
  /-- R285: A port detects a dark gap and begins a rotor slot, checking the first beat against its match table. -/
  | slotBoundary (port : Fin 72) (sender : Option (BitVec 10)) (matching : Fin 32)
  /-- R286: A relay sends a held flit on in the first slot in which it is matched with the target. -/
  | relaySend (port : Fin 72)
  /-- R374: A receiver checks a flit's FEC, CRC and tag and accepts it in sequence, or NAKs or discards it. -/
  | flitReceive (port : Fin 72) (f : Flit) (good : Bool)
  /-- R374: A cumulative acknowledgement frees flits from the replay buffer. -/
  | flitAck (port : Fin 72) (peer : BitVec 10) (upto : BitVec 24)
  /-- R374: On a NAK the sender re-sends every unacknowledged flit of the pair from that sequence. -/
  | flitNak (port : Fin 72) (peer : BitVec 10) (first : BitVec 24)
  /-- R374: A flit unacknowledged after two matched slots causes a replay. -/
  | flitReplayTimeout (port : Fin 72) (peer : BitVec 10)
  /-- R377: A power monitor detects that a laser module has gone dark, and the port restripes. -/
  | lossOfLight (port : Fin 72) (lm : Fin 4)
  /-- R376: A port idle for the idle time parks laser modules 3, 2 and 1. -/
  | portPark (port : Fin 72)
  /-- R376: Queue depth crossing the threshold wakes every parked module. -/
  | portWake (port : Fin 72)
  /-- R376: A woken wavelength that has settled joins the stripe set at a flit boundary. -/
  | wavelengthJoin (port : Fin 72) (wl : Fin 16)
  /-- R366: A stacked-DRAM line is transferred, CRC-checked with retries and checked by the second-level code. -/
  | stackedLineRead (addr : LocAddr) (f : LineFaults)
  /-- R365, R372: A correctable scratchpad error freezes its domain for a fixed count of cycles. -/
  | scratchpadFreeze (e : ScratchpadError)
  /-- R365: At the end of the freeze the corrected word has been written and the domain resumes. -/
  | freezeExpire (d : FreezeDomain)
  /-- R200: Resets clocks, views, tags and cyc of a die. -/
  | dieReset (die : Fin 16)
  /-- R349: Each stage verifies the signature and version of the next firmware image before running it. -/
  | boot (images : List FwImage)
  /-- R356: The host writes the event ring's read index, which frees room for events. -/
  | eventReadIndexWrite (v : W64)
  /-- R366: A line written to stacked DRAM crosses its vertical bus under CRC with up to three retries checked at the layer, and may start a bus repair. -/
  | stackedLineWrite (addr : LocAddr) (data : Line) (f : LineFaults)
  /-- R345: A bank is retired by heat, gated with GATED cause 2 until REMAP, and BANKRETIRE is sent with reason 2. -/
  | bankRetiredByHeat (die : Fin 16) (stack : Fin 2) (layer : Fin 16) (bank : Fin 32)
  /-- R138: Pops the call stack and transfers control to the popped address. -/
  | ret
  /-- R306: Rendezvous of the job's three streams, which all retire their nth RDV together. -/
  | rdv
  /-- R307: Ends the stream; the job ends when all three streams have exited. -/
  | exit
  /-- R308: Has the job's node checkpointed when a higher-priority node waits for its core. -/
  | yield
  /-- R272: Ends the user-level handler and resumes at the address in hs0. -/
  | eret
  /-- R324: Closes the job's non-pre-emptible region. -/
  | xpre
  /-- R49: Empty slot op with all bits zero. -/
  | nop
  /-- R358: A held stream's faulting bundle issues again. -/
  | disposeReplay
  /-- R358: A held stream resumes after its faulting bundle. -/
  | disposeNext
  /-- R358: The held stream's job fails. -/
  | disposeFail
  /-- R358: A held chain's command runs again from its progress word. -/
  | disposeChainReplay
  /-- R358: A held chain is stopped. -/
  | disposeChainStop
  /-- R356: Writes a stream's or chain's records to host memory. -/
  | readrec
  /-- R356: Sets the host event ring and its MSI-X vector. -/
  | evring
  /-- R380: Writes a re-synchronisation summary of the module to a host buffer. -/
  | resync
  /-- R331: Checks grants and loads a context. -/
  | ctxload
  /-- R331: Saves a context's granted bytes and unloads it. -/
  | ctxunload
  /-- R357: Writes one allowed CCB word of a resident context. -/
  | ccbset
  /-- R357: Writes a window table entry. -/
  | winset
  /-- R345: Moves a die's layer units under the new live-bank list. -/
  | remap
  /-- R325: Checkpoints every node of a hot cluster and resumes them elsewhere. -/
  | migrate
  /-- R357: Writes a port's match table. -/
  | matchset
  /-- R357: Sets a port's parking parameters. -/
  | parkset
  /-- R375: Installs a fabric key in a free key index. -/
  | keyset
  /-- R291: Creates the next version of a multicast group entry. -/
  | mcast
  /-- R350: Returns a signed attestation report for a nonce. -/
  | attest
  /-- R349: Raises the fused minimum security version. -/
  | fusemin
  deriving DecidableEq, Repr

end Sys2Proof
end

