-- ==== Sys2Proof/WellFormed.lean ====
section
/-! DEFINITION. Which instructions are legal by themselves: the static checks of 02 R40 to R48 and of
the tables 04 R108, R127, 05 R142, 08 R217 to R252, 09 R259 to R266, 11 R311, R315. Checks that depend on
tsh, jord or another register are made by the meanings. -/

namespace Sys2Proof

/-- The field of a bundle that holds an op (02 R47). -/
inductive Place where
  | control | address | slot1 | slot2 | slot3 | event
  deriving DecidableEq, Repr

/-- What a source field of an op may name. -/
inductive SrcRule where
  /-- Kind 0b00 and field 0 (R46). -/
  | unused
  /-- Every kind that R42 allows in the stream. -/
  | any
  /-- v0 to v31 or qlx. -/
  | tile
  /-- v0 to v31 or qlx, masks excluded, or a non-tile; not qlx (05 R142, JSED). -/
  | anyNoQ
  /-- p0 to p7. -/
  | mask
  /-- Kind 0b01, 0b10 or 0b11. -/
  | nontile
  /-- Kind 0b01. -/
  | reg
  /-- Kind 0b01 naming s0 to s63. -/
  | sreg
  /-- Kind 0b01 naming a0 to a15. -/
  | areg
  /-- Kind 0b11. -/
  | lit
  /-- qxs, or kind 0b01, 0b10 or 0b11 (08 R220). -/
  | store
  deriving DecidableEq, Repr

/-- Which classes of destination an op accepts (02 R44). -/
structure DstRule where
  tile : Bool := false
  qlx : Bool := false
  qxs : Bool := false
  mask : Bool := false
  scal : Bool := false
  none : Bool := false
  deriving DecidableEq, Repr

/-- The static shape of a slot op. `pick` gives the type in which a literal in A, B or C is read, or no
check of unused literal bits (02 R43). -/
structure OpShape where
  place : Place
  tys : List Ty
  opx : List Nat
  a : SrcRule
  b : SrcRule
  c : SrcRule
  dst : DstRule
  p0 : Bool
  /-- Element-wise: a scalar destination puts it in scalar form (R43, R106). -/
  elem : Bool := false
  litA : Bool := false
  litB : Bool := false
  litC : Bool := false
  deriving DecidableEq, Repr

/-- Set I of 04 R108 without i64. -/
def tysInt : List Ty := [.i8, .i16, .i32, .n8, .n16, .n32]
/-- Set I with i64, which only the scalar form accepts. -/
def tysI : List Ty := .i64 :: tysInt
/-- Set S of 04 R108. -/
def tysS : List Ty := [.i8, .i16, .i32, .i64]
/-- The IEEE formats. -/
def tysF : List Ty := [.f32, .bf16, .f16]
/-- The type field must be 0. -/
def tyZero : List Ty := [.i8]

def dstElem : DstRule := { tile := true, qxs := true, mask := false, scal := true, none := true }
def dstTileQ : DstRule := { tile := true, qxs := true, none := true }
def dstTile : DstRule := { tile := true, none := true }
def dstMask : DstRule := { mask := true, none := true }
def dstMaskS : DstRule := { mask := true, scal := true, none := true }
def dstRed : DstRule := { tile := true, qxs := true, scal := true, none := true }
def dstScal : DstRule := { scal := true, none := true }
def dstNone : DstRule := { none := true }
def dstQlx : DstRule := { qlx := true }

/-- An element-wise V op: any sources, the listed types. R44's pushes, masks written as tiles excepted. -/
def shapeV (tys : List Ty) (a b c : SrcRule) : OpShape :=
  { place := .slot1, tys := tys, opx := [0], a := a, b := b, c := c, dst := dstElem, p0 := false,
    elem := true, litA := true, litB := true, litC := true }

def shapeM (tys : List Ty) (opx : List Nat) (a b c : SrcRule) (d : DstRule) : OpShape :=
  { place := .slot2, tys := tys, opx := opx, a := a, b := b, c := c, dst := d, p0 := false }

def shapeC (tys : List Ty) (opx : List Nat) (a b c : SrcRule) (d : DstRule) (p0 : Bool) : OpShape :=
  { place := .slot3, tys := tys, opx := opx, a := a, b := b, c := c, dst := d, p0 := p0 }

def shapeMem (tys : List Ty) (opx : List Nat) (a b c : SrcRule) (d : DstRule) : OpShape :=
  { place := .slot2, tys := tys, opx := opx, a := a, b := b, c := c, dst := d, p0 := true }

def shapeSy (tys : List Ty) (opx : List Nat) (a b c : SrcRule) (d : DstRule) : OpShape :=
  { place := .slot3, tys := tys, opx := opx, a := a, b := b, c := c, dst := d, p0 := true }

/-- An atomic (08 R228): address in s, orders in bits 22:21. -/
def shapeAtom (tys : List Ty) (c : SrcRule) : OpShape :=
  { shapeSy tys [0, 1, 2, 3] .sreg .nontile c dstScal with litB := true, litC := true }

/-- A special function of 05 R142. -/
def shapeFn : OpShape :=
  { shapeC [.f32, .bf16] [0] .any .unused .unused dstElem false with elem := true, litA := true }

def tysMem : List Ty :=
  [.i8, .i16, .i32, .i64, .f32, .bf16, .f16, .n8, .n16, .n32]

/-- The place of an instruction in a bundle; `event` for everything that no bundle holds. -/
def Instr.shape : Instr → Option (SlotOp × OpShape)
  | .iadd o => some (o, shapeV tysI .any .any .unused)
  | .isub o => some (o, shapeV tysI .any .any .unused)
  | .iadds o => some (o, shapeV tysI .any .any .unused)
  | .isubs o => some (o, shapeV tysI .any .any .unused)
  | .imul o => some (o, shapeV tysI .any .any .unused)
  | .imulh o => some (o, shapeV tysI .any .any .unused)
  | .imad o => some (o, shapeV tysI .any .any .any)
  | .ishl o => some (o, shapeV tysI .any .any .unused)
  | .ishr o => some (o, shapeV tysI .any .any .unused)
  | .isra o => some (o, shapeV tysS .any .any .unused)
  | .iand o => some (o, shapeV tysI .any .any .unused)
  | .ior o => some (o, shapeV tysI .any .any .unused)
  | .ixor o => some (o, shapeV tysI .any .any .unused)
  | .imin o => some (o, shapeV tysI .any .any .unused)
  | .imax o => some (o, shapeV tysI .any .any .unused)
  | .iabs o => some (o, shapeV tysS .any .unused .unused)
  | .iclz o => some (o, shapeV tysI .any .unused .unused)
  | .ipop o => some (o, shapeV tysI .any .unused .unused)
  | .imov o => some (o, shapeV tysI .any .unused .unused)
  | .ibfe o => some (o, { shapeV tysI .any .nontile .unused with litB := false })
  | .ibfi o => some (o, { shapeV tysI .any .any .nontile with litC := false })
  | .faddF32 o | .faddBf16 o | .faddF16 o | .fsubF32 o | .fsubBf16 o | .fsubF16 o
  | .fmulF32 o | .fmulBf16 o | .fmulF16 o | .fdivF32 o | .fdivBf16 o | .fdivF16 o
  | .fminF32 o | .fminBf16 o | .fminF16 o | .fmaxF32 o | .fmaxBf16 o | .fmaxF16 o =>
    some (o, shapeV tyZero .any .any .unused)
  | .fmaF32 o | .fmaBf16 o | .fmaF16 o => some (o, shapeV tyZero .any .any .any)
  | .fabs o | .fneg o | .fmov o => some (o, shapeV tysF .any .unused .unused)
  | .fscl o => some (o, { shapeV tysF .any .nontile .unused with litB := false })
  | .fclp o | .flrp o => some (o, shapeV tysF .any .any .any)
  | .icmp o => some (o, { shapeM tysI [0, 1, 2, 3, 4, 5] .any .any .unused dstMaskS with
      elem := true, litA := true, litB := true })
  | .fcmp o => some (o, { shapeM tysF [0, 1, 2, 3, 4, 5, 6] .any .any .unused dstMaskS with
      elem := true, litA := true, litB := true })
  | .sel o => some (o, { shapeM (tysInt ++ tysF) [0] .any .any .mask dstTileQ with litA := true, litB := true })
  | .pand o | .por o | .pxor o => some (o, shapeM tyZero [0] .mask .mask .unused dstMask)
  | .pnot o => some (o, shapeM tyZero [0] .mask .unused .unused dstMask)
  | .pcnt o => some (o, { shapeM tyZero [0] .mask .unused .unused dstScal with p0 := true })
  | .rsum o | .rsqs o | .rmax o | .rmin o | .argm o =>
    some (o, shapeM (tysInt ++ tysF) [0, 1, 2] .tile .unused .unused dstRed)
  | .rmxa o => some (o, shapeM tysF [0, 1, 2] .tile .unused .unused dstRed)
  | .rmxaBlk o => some (o, { shapeM tysF [4] .tile .lit .unused dstTile with p0 := true })
  | .rscn o => some (o, shapeM (tysInt ++ tysF) [0, 1, 2] .tile .unused .unused dstTileQ)
  | .topk o => some (o, shapeM (tysInt ++ tysF) [0] .tile .nontile .unused dstTile)
  | .trns o => some (o, { shapeM (tysInt ++ tysF) [0] .tile .unused .unused dstTile with p0 := true })
  | .bcst o => some (o, shapeM (tysInt ++ tysF) [0, 1] .tile .nontile .unused dstTileQ)
  | .shuf o => some (o, shapeM (tysInt ++ tysF) [0, 2] .tile .tile .unused dstTileQ)
  | .vext o => some (o, shapeM (tysInt ++ tysF) [0] .tile .nontile .unused dstScal)
  | .vins o => some (o, { shapeM (tysInt ++ tysF) [0] .tile .nontile .nontile dstTileQ with litB := true })
  | .iota o => some (o, { shapeM (tysInt ++ tysF) [0, 1, 2] .nontile .nontile .unused dstTileQ with
      litA := true, litB := true })
  | .cvt o => some (o, { shapeC tysF [0, 1, 2] .any .unused .unused dstElem false with elem := true, litA := true })
  | .cvfi o => some (o, { shapeC tysI [0, 1, 2, 4, 5, 6] .any .unused .unused dstElem false with
      elem := true, litA := true })
  | .cvif o => some (o, { shapeC tysF [0, 1, 2, 3, 4, 5, 6] .any .unused .unused dstElem false with
      elem := true, litA := true })
  | .qblk o => some (o, shapeC tysF [0, 1, 2, 3, 4, 5] .tile .unused .unused dstTileQ true)
  | .dqbk o => some (o, shapeC tysF [0, 1, 2] .tile .unused .unused dstTileQ false)
  | .dcf4 o => some (o, shapeC tysF [0, 1, 2, 3] .tile .nontile .unused dstTileQ false)
  | .nwsl o => some (o, shapeC [.nw8] [0, 1, 2, 3] .tile .unused .unused dstTileQ true)
  | .nwpk o => some (o, shapeC [.nw8] [0] .tile .unused .unused dstTileQ true)
  | .fexp o | .fexp2 o | .flog o | .flog2 o | .frcp o | .fsqt o | .frsq o | .ftnh o | .fsig o
  | .fglu o | .fsin o | .fcos o => some (o, shapeFn)
  | .fsmx o => some (o, shapeC [.f32, .bf16] [0] .tile .unused .unused dstTileQ false)
  | .rand o => some (o, shapeC (tysInt ++ tysF) [0] .nontile .nontile .unused dstTileQ false)
  | .jsed o => some (o, { shapeC tysF [0] .anyNoQ .unused .unused dstTile false with litA := true })
  | .jext o => some (o, shapeC tysF [0, 1, 2, 3, 4, 5, 6, 7] .tile .unused .unused dstTileQ false)
  | .ldt o => some (o, shapeMem (tysMem ++ [.f4, .a8, .nw8]) [0] .areg .lit .unused dstQlx)
  | .stt o => some (o, { shapeMem (tysMem ++ [.f4, .a8, .nw8]) [0] .areg .lit .store dstNone with litC := true })
  | .lds o => some (o, shapeMem tysMem [0] .areg .lit .unused dstScal)
  | .sts o => some (o, { shapeMem tysMem [0] .areg .lit .nontile dstNone with litC := true })
  | .ldb o => some (o, shapeMem [.f4, .a8, .nw8] [0] .areg .lit .reg dstQlx)
  | .ldnw o => some (o, shapeMem [.nw8] [0, 1, 2, 3, 4] .areg .lit .nontile dstQlx)
  | .gath o => some (o, shapeMem tysMem [0, 1] .areg .reg .unused dstQlx)
  | .scat o => some (o, { shapeMem tysMem [0, 1] .areg .reg .store dstNone with litC := true })
  | .tmov o => some (o, shapeMem tyZero [0] .areg .reg .nontile dstNone)
  | .wfen o => some (o, shapeMem tyZero [0] .nontile .unused .unused dstNone)
  | .cbpb o | .cbrl o => some (o, shapeMem tyZero [0] .nontile .nontile .unused dstNone)
  | .cbwtConsumer o | .cbwtProducer o => some (o, shapeMem tyZero [0] .nontile .nontile .unused dstScal)
  | .cbstGet o => some (o, shapeMem tyZero [0] .nontile .unused .unused dstScal)
  | .cbstInit o => some (o, shapeMem tyZero [1] .nontile .reg .unused dstNone)
  | .afad o | .aswp o | .amin o | .amax o | .aand o | .aor o =>
    some (o, shapeAtom [.i32, .i64, .n32] .unused)
  | .afab o => some (o, { shapeAtom [.n32] .nontile with dst := { scal := true, none := true } })
  | .ainw o | .adcw o => some (o, shapeAtom [.n32] .unused)
  | .acas o => some (o, shapeAtom [.i32, .i64, .n32] .nontile)
  | .afaf o | .afmx o => some (o, shapeAtom [.f32] .unused)
  | .sdec o | .sadd o => some (o, shapeSy tyZero [0] .sreg .nontile .unused dstScal)
  | .bexp o => some (o, shapeSy tyZero [0, 1] .nontile .nontile .unused dstNone)
  | .barv o => some (o, shapeSy tyZero [0] .nontile .unused .unused dstScal)
  | .binv o => some (o, shapeSy tyZero [0] .nontile .nontile .unused dstNone)
  | .fenc o => some (o, shapeSy tyZero [0, 1, 2, 3, 4] .unused .unused .unused dstNone)
  | .tdep o => some (o, shapeSy tyZero [0] .reg .unused .unused dstScal)
  | .tcpy o | .ttak o | .tprb o => some (o, shapeSy tyZero [0] .reg .reg .unused dstScal)
  | .tcan o => some (o, shapeSy tyZero [0] .nontile .unused .unused dstScal)
  | .echn o => some (o, shapeSy tyZero [0, 1, 2, 3] .nontile .reg .nontile dstNone)
  | .ecwt o | .ecnc o => some (o, shapeSy tyZero [0] .nontile .unused .unused dstScal)
  | .leas o => some (o, shapeSy tyZero [0] .nontile .unused .unused dstNone)
  | .lrel o => some (o, shapeSy tyZero [0] .unused .unused .unused dstNone)
  | .chn o => some (o, shapeSy tyZero [0] .reg .unused .unused dstNone)
  | .qspl o => some (o, shapeSy tyZero [0, 1] .reg .nontile .unused dstNone)
  | .uirq o => some (o, shapeSy tyZero [0] .nontile .nontile .unused dstNone)
  | .sqtr o | .sqac o | .sqpm o => some (o, shapeSy tyZero [0] .nontile .reg .unused dstScal)
  | .sqrb o => some (o, shapeSy tyZero [0] .nontile .nontile .unused dstNone)
  | .sqrs o => some (o, shapeSy tyZero [0] .reg .unused .unused dstScal)
  | .sqst o => some (o, shapeSy tyZero [0] .nontile .unused .unused dstScal)
  | .invm o => some (o, shapeSy tyZero [0] .sreg .nontile .unused dstNone)
  | .getx o => some (o, shapeSy tyZero [0] .lit .unused .unused dstScal)
  | .setx o => some (o, shapeSy tyZero [0] .lit .nontile .unused dstNone)
  | _ => none

/-- The type in which source A's literal is read: the op's type, the source type of a conversion
(05 R142), or the type that the opcode fixes (02 R65). -/
def Instr.tyA : Instr → Ty → Ty
  | .faddF32 _, _ | .fsubF32 _, _ | .fmulF32 _, _ | .fmaF32 _, _ | .fdivF32 _, _ | .fminF32 _, _ | .fmaxF32 _, _ => .f32
  | .faddBf16 _, _ | .fsubBf16 _, _ | .fmulBf16 _, _ | .fmaBf16 _, _ | .fdivBf16 _, _ | .fminBf16 _, _
  | .fmaxBf16 _, _ => .bf16
  | .faddF16 _, _ | .fsubF16 _, _ | .fmulF16 _, _ | .fmaF16 _, _ | .fdivF16 _, _ | .fminF16 _, _ | .fmaxF16 _, _ => .f16
  | .cvt o, _ | .cvfi o, _ => if o.opx.val % 4 = 0 then .f32 else if o.opx.val % 4 = 1 then .bf16 else .f16
  | .cvif o, _ =>
    match o.opx.val with
    | 0 => .i8 | 1 => .i16 | 2 => .i32 | 3 => .i64 | 4 => .n8 | 5 => .n16 | _ => .n32
  | _, t => t

/-- Unused bits of a literal field are zero (02 R43). -/
def litOk (t : Ty) (s : Src) : Bool :=
  match s with
  | .lit w =>
    match t with
    | .i8 | .n8 => decide (w.toNat < 256)
    | .i16 | .n16 | .bf16 | .f16 => decide (w.toNat < 65536)
    | _ => true
  | _ => true

/-- Whether a source is of kind 0b01, 0b10 or 0b11. -/
def Src.nontile : Src → Bool
  | .s _ | .a _ | .m _ | .k _ | .lit _ => true
  | _ => false

/-- Whether a source fits a rule in a stream (02 R42, R46): qlx and masks in X only, qxs in S's slot 2 only. -/
def srcOk (st : StreamName) : SrcRule → Src → Bool
  | .unused, s => decide (s = .tile 0)
  | .any, s => match s with
    | .qxs => false
    | .tile _ | .qlx | .mask _ => decide (st = .x)
    | _ => true
  | .anyNoQ, s => match s with
    | .qxs | .qlx => false
    | .tile _ | .mask _ => decide (st = .x)
    | _ => true
  | .tile, s => match s with
    | .tile _ | .qlx => decide (st = .x)
    | _ => false
  | .mask, s => match s with
    | .mask _ => decide (st = .x)
    | _ => false
  | .nontile, s => s.nontile
  | .reg, s => match s with
    | .s _ | .a _ | .m _ => true
    | _ => false
  | .sreg, s => match s with
    | .s _ => true
    | _ => false
  | .areg, s => match s with
    | .a _ => true
    | _ => false
  | .lit, s => match s with
    | .lit _ => true
    | _ => false
  | .store, s => match s with
    | .qxs => decide (st = .s)
    | s => s.nontile

/-- Whether a destination fits a rule in a stream (02 R44). A write of p0 is never legal. -/
def dstOk (st : StreamName) (r : DstRule) : Dst → Bool
  | .v _ => r.tile && decide (st = .x)
  | .qlx => r.qlx && decide (st = .l)
  | .qxs => r.qxs && decide (st = .x)
  | .p n => r.mask && decide (st = .x) && decide (n ≠ 0)
  | .s _ | .a _ | .m _ => r.scal
  | .none => r.none

/-- Whether the destination is a scalar register. -/
def Dst.scal : Dst → Bool
  | .s _ | .a _ | .m _ => true
  | _ => false

/-- Scalar form (04 R106, 02 R46): a scalar destination, or 0xFF in slot 1 with only non-tile sources. -/
def scalarForm (sh : OpShape) (o : SlotOp) : Bool :=
  let nt := fun (r : SrcRule) (s : Src) => decide (r = .unused) || s.nontile
  sh.elem && (o.dst.scal ||
    (decide (sh.place = .slot1) && decide (o.dst = .none) && nt sh.a o.a && nt sh.b o.b && nt sh.c o.c))

/-- The static legality of a slot op in a stream. -/
def slotOk (st : StreamName) (i : Instr) (o : SlotOp) (sh : OpShape) : Bool :=
  let sc := scalarForm sh o
  let nt := fun (r : SrcRule) (s : Src) => decide (r = .unused) || s.nontile
  sh.tys.contains o.ty && sh.opx.contains o.opx.val &&
  srcOk st sh.a o.a && srcOk st sh.b o.b && srcOk st sh.c o.c && dstOk st sh.dst o.dst &&
  -- the predicate must be p0 in L and S, for scalar destinations, in scalar form, and where the op says so
  (decide (o.pred = 0) || !(decide (st ≠ .x) || o.dst.scal || sc || sh.p0)) &&
  -- a scalar destination of an element-wise op takes non-tile sources only
  (!(sh.elem && o.dst.scal) || (nt sh.a o.a && nt sh.b o.b && nt sh.c o.c)) &&
  -- i64 only in scalar form where the op is element-wise
  (!(sh.elem && (decide (o.ty = .i64) || decide (i.tyA o.ty = .i64))) || sc) &&
  -- L and S run slot 1 in scalar form only (R47); M and C ops run in X only
  (decide (st = .x) || !decide (sh.place = .slot1) || sc) &&
  (!sh.litA || litOk (i.tyA o.ty) o.a) && (!sh.litB || litOk (i.tyA o.ty) o.b) &&
  (!sh.litC || litOk (i.tyA o.ty) o.c)

/-- The stream rules that no shape says: which slots a stream has, and the ops bound to one stream (02 R47). -/
def inStream (st : StreamName) : Instr → Bool
  | .ldt _ | .stt _ | .lds _ | .sts _ | .ldb _ | .ldnw _ | .gath _ | .scat _ | .tmov _ | .wfen _
  | .cbpb _ | .cbrl _ | .cbwtConsumer _ | .cbwtProducer _ | .cbstGet _ | .cbstInit _ => decide (st ≠ .x)
  | .icmp _ | .fcmp _ | .sel _ | .pand _ | .por _ | .pxor _ | .pnot _ | .pcnt _ | .rsum _ | .rsqs _
  | .rmax _ | .rmin _ | .rmxa _ | .rmxaBlk _ | .rscn _ | .argm _ | .topk _ | .trns _ | .bcst _ | .shuf _
  | .vext _ | .vins _ | .iota _ | .cvt _ | .cvfi _ | .cvif _ | .qblk _ | .dqbk _ | .dcf4 _ | .nwsl _
  | .nwpk _ | .fexp _ | .fexp2 _ | .flog _ | .flog2 _ | .frcp _ | .fsqt _ | .frsq _ | .ftnh _ | .fsig _
  | .fglu _ | .fsin _ | .fcos _ | .fsmx _ | .rand _ | .jsed _ | .jext _ => decide (st = .x)
  | .brp _ _ _ => decide (st = .x)
  | .brqe .qlx _ => decide (st ≠ .s)
  | .brqe .qxs _ => decide (st ≠ .l)
  | _ => true

/-- The extra rules of one op: TOPK's even register (04 R121), ARGM and reductions to a scalar with .all
only (R116, R120), GETX and SETX numbers below 1,024 (R140), RMXA .blk's format (R119). -/
def extraOk : Instr → Bool
  | .topk o => match o.dst with
    | .v n => n.val % 2 == 0
    | _ => true
  | .rsum o | .rsqs o | .rmax o | .rmin o | .rmxa o => !o.dst.scal || o.opx.val == 2
  | .argm o => (!o.dst.scal || o.opx.val == 2) && (o.opx.val != 2 || match o.dst with
    | .v _ => false
    | .qxs => false
    | _ => true)
  | .rmxaBlk o => match o.b with
    | .lit w => decide (w.toNat < 6)
    | _ => false
  | .getx o | .setx o => match o.a with
    | .lit w => decide (w.toNat < 1024)
    | _ => false
  | .afab o => match o.dst with
    | .s _ | .none => true
    | _ => false
  | .npre us => decide (1 ≤ us.toNat ∧ us.toNat ≤ 200)
  | .loop _ last => decide (last ≠ 0)
  | .mset part _ v => part.val != 3 || decide (v.toNat < 2 ^ 20)
  | _ => true

/-- The place of an instruction in a bundle. -/
def Instr.place (i : Instr) : Place :=
  match i with
  | .br _ | .brz _ _ | .brnz _ _ | .brp _ _ _ | .brqe _ _ | .loop _ _ | .call _ | .ret | .jmpi _ | .rdv
  | .exit | .yield | .join _ | .leave _ | .gbar _ | .waits _ | .waitb _ | .trap _ | .eret | .npre _
  | .xpre => .control
  | .ainc _ _ | .amod _ _ | .abrv _ _ | .acir _ _ | .aset _ _ _ | .mset _ _ _ => .address
  | i => match i.shape with
    | some (_, sh) => sh.place
    | none => .event

/-- The static legality of an instruction in stream `st`, outside the handler (02 R48). Records, commands and
events are legal by themselves: their own rules stop or refuse them when they run. -/
def Instr.okIn (st : StreamName) (i : Instr) : Bool :=
  inStream st i && extraOk i &&
  match i.shape with
  | some (o, sh) => slotOk st i o sh
  | none => true

/-- The ops a handler bundle may hold (09 R273). -/
def Instr.okInHandler (st : StreamName) : Instr → Bool
  | .br _ | .brz _ _ | .brnz _ _ | .eret | .trap _ => true
  | .ainc _ _ | .amod _ _ | .abrv _ _ | .acir _ _ | .aset _ _ _ | .mset _ _ _ | .nop => true
  | .lds _ | .sts _ | .cbstGet _ => decide (st ≠ .x)
  | .afad _ | .afab _ | .ainw _ | .adcw _ | .acas _ | .aswp _ | .amin _ | .amax _ | .aand _ | .aor _
  | .afaf _ | .afmx _ | .sdec _ | .sadd _ | .tdep _ | .tprb _ | .getx _ | .setx _ => true
  | i => match i.shape with
    | some (o, sh) => decide (sh.place = .slot1) && scalarForm sh o
    | none => false

/-- An instruction is well formed when some stream accepts it. -/
def Instr.wf (i : Instr) : Bool := i.okIn .l || i.okIn .x || i.okIn .s

end Sys2Proof
end

