-- ==== Sys2Proof/Decode.lean ====
section
/-! DEFINITION. The decoder of bundles, chain records and management commands, and the encoder beside it,
from the encoding tables 02 R34, R35, R40 to R45, R63 to R70, 09 R253 to R256, 15 R356 to R358. -/

namespace Sys2Proof

/-- Why bits are no instruction: the field of the bundle charged by 02 R48, by its where code (15 R354). -/
inductive Bad where
  | token
  | control
  | address
  | slot1
  | slot2
  | slot3
  deriving DecidableEq, Repr

/-- A decoded bundle: token bits, the control op, the address op and the three slot ops. -/
structure Bundle where
  popL : Bool
  popR : Bool
  pushL : Bool
  pushR : Bool
  ctl : Option Instr
  adr : Option Instr
  s1 : Instr
  s2 : Instr
  s3 : Instr
  deriving DecidableEq, Repr

/-- The bundle that a `nop` line assembles (02 R72). -/
def Bundle.empty : Bundle :=
  { popL := false, popR := false, pushL := false, pushR := false, ctl := none, adr := none,
    s1 := .nop, s2 := .nop, s3 := .nop }

/-- A number below `n`, or none. -/
def fin? (n : Nat) (x : Nat) : Option (Fin n) := if h : x < n then some ⟨x, h⟩ else none

/-- A source field by its kind (02 R42). -/
def decodeSrc (kind w : Nat) : Option Src :=
  match kind with
  | 0 =>
    if h : w < 32 then some (.tile ⟨w, h⟩)
    else if w = 32 then some .qlx
    else if w = 33 then some .qxs
    else if 40 ≤ w then (fin? 8 (w - 40)).map Src.mask else none
  | 1 =>
    if h : w < 64 then some (.s ⟨w, h⟩)
    else if w < 80 then (fin? 16 (w - 64)).map Src.a
    else (fin? 16 (w - 80)).map Src.m
  | 2 => (fin? 16384 w).map Src.k
  | _ => some (.lit (BitVec.ofNat 32 w))

/-- The kind and field of a source (02 R42). -/
def encodeSrc : Src → Nat × Nat
  | .tile n => (0, n.val)
  | .qlx => (0, 32)
  | .qxs => (0, 33)
  | .mask n => (0, 40 + n.val)
  | .s n => (1, n.val)
  | .a n => (1, 64 + n.val)
  | .m n => (1, 80 + n.val)
  | .k n => (2, n.val)
  | .lit w => (3, w.toNat)

/-- A destination code (02 R44). -/
def decodeDst (c : Nat) : Option Dst :=
  if h : c < 32 then some (.v ⟨c, h⟩)
  else if c = 0x20 then some .qlx
  else if c = 0x21 then some .qxs
  else if c < 0x28 then none
  else if c < 0x30 then (fin? 8 (c - 0x28)).map Dst.p
  else if c < 0x40 then none
  else if c < 0x80 then (fin? 64 (c - 0x40)).map Dst.s
  else if c < 0x90 then (fin? 16 (c - 0x80)).map Dst.a
  else if c < 0xA0 then (fin? 16 (c - 0x90)).map Dst.m
  else if c = 0xFF then some .none else none

def encodeDst : Dst → Nat
  | .v n => n.val
  | .qlx => 0x20
  | .qxs => 0x21
  | .p n => 0x28 + n.val
  | .s n => 0x40 + n.val
  | .a n => 0x80 + n.val
  | .m n => 0x90 + n.val
  | .none => 0xFF

/-- A type code (02 R45). -/
def decodeTy : Nat → Option Ty
  | 0 => some .i8 | 1 => some .i16 | 2 => some .i32 | 3 => some .i64 | 4 => some .f32 | 5 => some .bf16
  | 6 => some .f16 | 7 => some .n8 | 8 => some .n16 | 9 => some .n32 | 10 => some .f4 | 11 => some .a8
  | 12 => some .nw8 | _ => none

def encodeTy : Ty → Nat
  | .i8 => 0 | .i16 => 1 | .i32 => 2 | .i64 => 3 | .f32 => 4 | .bf16 => 5 | .f16 => 6 | .n8 => 7
  | .n16 => 8 | .n32 => 9 | .f4 => 10 | .a8 => 11 | .nw8 => 12

/-- The op of a slot opcode (02 R64 to R69). The opcode 0x8C serves both roles of CBWT (09 R266); the decoder
names the consumer form and `Instr.asProducer` gives the other. -/
def slotOf (code : Nat) (o : SlotOp) : Option Instr :=
  match code with
  | 0x01 => some (.iadd o)
  | 0x02 => some (.isub o)
  | 0x03 => some (.iadds o)
  | 0x04 => some (.isubs o)
  | 0x05 => some (.imul o)
  | 0x06 => some (.imulh o)
  | 0x07 => some (.imad o)
  | 0x08 => some (.ishl o)
  | 0x09 => some (.ishr o)
  | 0x0A => some (.isra o)
  | 0x0B => some (.iand o)
  | 0x0C => some (.ior o)
  | 0x0D => some (.ixor o)
  | 0x0E => some (.imin o)
  | 0x0F => some (.imax o)
  | 0x10 => some (.iabs o)
  | 0x11 => some (.iclz o)
  | 0x12 => some (.ipop o)
  | 0x13 => some (.imov o)
  | 0x14 => some (.ibfe o)
  | 0x15 => some (.ibfi o)
  | 0x20 => some (.faddF32 o)
  | 0x21 => some (.faddBf16 o)
  | 0x22 => some (.faddF16 o)
  | 0x23 => some (.fsubF32 o)
  | 0x24 => some (.fsubBf16 o)
  | 0x25 => some (.fsubF16 o)
  | 0x26 => some (.fmulF32 o)
  | 0x27 => some (.fmulBf16 o)
  | 0x28 => some (.fmulF16 o)
  | 0x29 => some (.fmaF32 o)
  | 0x2A => some (.fmaBf16 o)
  | 0x2B => some (.fmaF16 o)
  | 0x2C => some (.fdivF32 o)
  | 0x2D => some (.fdivBf16 o)
  | 0x2E => some (.fdivF16 o)
  | 0x2F => some (.fminF32 o)
  | 0x30 => some (.fminBf16 o)
  | 0x31 => some (.fminF16 o)
  | 0x32 => some (.fmaxF32 o)
  | 0x33 => some (.fmaxBf16 o)
  | 0x34 => some (.fmaxF16 o)
  | 0x35 => some (.fabs o)
  | 0x36 => some (.fneg o)
  | 0x37 => some (.fmov o)
  | 0x38 => some (.fscl o)
  | 0x39 => some (.fclp o)
  | 0x3A => some (.flrp o)
  | 0x40 => some (.icmp o)
  | 0x41 => some (.fcmp o)
  | 0x42 => some (.sel o)
  | 0x43 => some (.pand o)
  | 0x44 => some (.por o)
  | 0x45 => some (.pxor o)
  | 0x46 => some (.pnot o)
  | 0x47 => some (.pcnt o)
  | 0x48 => some (.rsum o)
  | 0x49 => some (.rsqs o)
  | 0x4A => some (.rmax o)
  | 0x4B => some (.rmin o)
  | 0x4C => some (if o.opx.val == 4 then .rmxaBlk o else .rmxa o)
  | 0x4D => some (.rscn o)
  | 0x4E => some (.argm o)
  | 0x4F => some (.topk o)
  | 0x50 => some (.trns o)
  | 0x51 => some (.bcst o)
  | 0x52 => some (.shuf o)
  | 0x53 => some (.vext o)
  | 0x54 => some (.vins o)
  | 0x55 => some (.iota o)
  | 0x60 => some (.cvt o)
  | 0x61 => some (.cvfi o)
  | 0x62 => some (.cvif o)
  | 0x63 => some (.qblk o)
  | 0x64 => some (.dqbk o)
  | 0x65 => some (.dcf4 o)
  | 0x66 => some (.nwsl o)
  | 0x67 => some (.nwpk o)
  | 0x68 => some (.fexp o)
  | 0x69 => some (.fexp2 o)
  | 0x6A => some (.flog o)
  | 0x6B => some (.flog2 o)
  | 0x6C => some (.frcp o)
  | 0x6D => some (.fsqt o)
  | 0x6E => some (.frsq o)
  | 0x6F => some (.ftnh o)
  | 0x70 => some (.fsig o)
  | 0x71 => some (.fglu o)
  | 0x72 => some (.fsin o)
  | 0x73 => some (.fcos o)
  | 0x74 => some (.fsmx o)
  | 0x75 => some (.rand o)
  | 0x76 => some (.jsed o)
  | 0x77 => some (.jext o)
  | 0x80 => some (.ldt o)
  | 0x81 => some (.stt o)
  | 0x82 => some (.lds o)
  | 0x83 => some (.sts o)
  | 0x84 => some (.ldb o)
  | 0x85 => some (.ldnw o)
  | 0x86 => some (.gath o)
  | 0x87 => some (.scat o)
  | 0x88 => some (.tmov o)
  | 0x89 => some (.wfen o)
  | 0x8A => some (.cbpb o)
  | 0x8B => some (.cbrl o)
  | 0x8C => some (.cbwtConsumer o)
  | 0x8D => some (if o.opx.val == 1 then .cbstInit o else .cbstGet o)
  | 0xA0 => some (.afad o)
  | 0xA1 => some (.afab o)
  | 0xA2 => some (.ainw o)
  | 0xA3 => some (.adcw o)
  | 0xA4 => some (.acas o)
  | 0xA5 => some (.aswp o)
  | 0xA6 => some (.amin o)
  | 0xA7 => some (.amax o)
  | 0xA8 => some (.aand o)
  | 0xA9 => some (.aor o)
  | 0xAA => some (.afaf o)
  | 0xAB => some (.afmx o)
  | 0xAC => some (.sdec o)
  | 0xAD => some (.sadd o)
  | 0xAE => some (.bexp o)
  | 0xAF => some (.barv o)
  | 0xB0 => some (.binv o)
  | 0xB1 => some (.fenc o)
  | 0xB2 => some (.tdep o)
  | 0xB3 => some (.tcpy o)
  | 0xB4 => some (.ttak o)
  | 0xB5 => some (.tcan o)
  | 0xB6 => some (.tprb o)
  | 0xB7 => some (.echn o)
  | 0xB8 => some (.ecwt o)
  | 0xB9 => some (.leas o)
  | 0xBA => some (.lrel o)
  | 0xBB => some (.chn o)
  | 0xBC => some (.qspl o)
  | 0xBD => some (.ecnc o)
  | 0xBE => some (.uirq o)
  | 0xBF => some (.sqtr o)
  | 0xC0 => some (.sqac o)
  | 0xC1 => some (.sqrb o)
  | 0xC2 => some (.sqpm o)
  | 0xC3 => some (.sqrs o)
  | 0xC4 => some (.sqst o)
  | 0xC5 => some (.invm o)
  | 0xC6 => some (.getx o)
  | 0xC7 => some (.setx o)
  | _ => none

/-- The opcode and the fields of a slot op. -/
def slotCode : Instr → Option (Nat × SlotOp)
  | .iadd o => some (0x01, o)
  | .isub o => some (0x02, o)
  | .iadds o => some (0x03, o)
  | .isubs o => some (0x04, o)
  | .imul o => some (0x05, o)
  | .imulh o => some (0x06, o)
  | .imad o => some (0x07, o)
  | .ishl o => some (0x08, o)
  | .ishr o => some (0x09, o)
  | .isra o => some (0x0A, o)
  | .iand o => some (0x0B, o)
  | .ior o => some (0x0C, o)
  | .ixor o => some (0x0D, o)
  | .imin o => some (0x0E, o)
  | .imax o => some (0x0F, o)
  | .iabs o => some (0x10, o)
  | .iclz o => some (0x11, o)
  | .ipop o => some (0x12, o)
  | .imov o => some (0x13, o)
  | .ibfe o => some (0x14, o)
  | .ibfi o => some (0x15, o)
  | .faddF32 o => some (0x20, o)
  | .faddBf16 o => some (0x21, o)
  | .faddF16 o => some (0x22, o)
  | .fsubF32 o => some (0x23, o)
  | .fsubBf16 o => some (0x24, o)
  | .fsubF16 o => some (0x25, o)
  | .fmulF32 o => some (0x26, o)
  | .fmulBf16 o => some (0x27, o)
  | .fmulF16 o => some (0x28, o)
  | .fmaF32 o => some (0x29, o)
  | .fmaBf16 o => some (0x2A, o)
  | .fmaF16 o => some (0x2B, o)
  | .fdivF32 o => some (0x2C, o)
  | .fdivBf16 o => some (0x2D, o)
  | .fdivF16 o => some (0x2E, o)
  | .fminF32 o => some (0x2F, o)
  | .fminBf16 o => some (0x30, o)
  | .fminF16 o => some (0x31, o)
  | .fmaxF32 o => some (0x32, o)
  | .fmaxBf16 o => some (0x33, o)
  | .fmaxF16 o => some (0x34, o)
  | .fabs o => some (0x35, o)
  | .fneg o => some (0x36, o)
  | .fmov o => some (0x37, o)
  | .fscl o => some (0x38, o)
  | .fclp o => some (0x39, o)
  | .flrp o => some (0x3A, o)
  | .icmp o => some (0x40, o)
  | .fcmp o => some (0x41, o)
  | .sel o => some (0x42, o)
  | .pand o => some (0x43, o)
  | .por o => some (0x44, o)
  | .pxor o => some (0x45, o)
  | .pnot o => some (0x46, o)
  | .pcnt o => some (0x47, o)
  | .rsum o => some (0x48, o)
  | .rsqs o => some (0x49, o)
  | .rmax o => some (0x4A, o)
  | .rmin o => some (0x4B, o)
  | .rmxa o => some (0x4C, o)
  | .rscn o => some (0x4D, o)
  | .argm o => some (0x4E, o)
  | .topk o => some (0x4F, o)
  | .trns o => some (0x50, o)
  | .bcst o => some (0x51, o)
  | .shuf o => some (0x52, o)
  | .vext o => some (0x53, o)
  | .vins o => some (0x54, o)
  | .iota o => some (0x55, o)
  | .cvt o => some (0x60, o)
  | .cvfi o => some (0x61, o)
  | .cvif o => some (0x62, o)
  | .qblk o => some (0x63, o)
  | .dqbk o => some (0x64, o)
  | .dcf4 o => some (0x65, o)
  | .nwsl o => some (0x66, o)
  | .nwpk o => some (0x67, o)
  | .fexp o => some (0x68, o)
  | .fexp2 o => some (0x69, o)
  | .flog o => some (0x6A, o)
  | .flog2 o => some (0x6B, o)
  | .frcp o => some (0x6C, o)
  | .fsqt o => some (0x6D, o)
  | .frsq o => some (0x6E, o)
  | .ftnh o => some (0x6F, o)
  | .fsig o => some (0x70, o)
  | .fglu o => some (0x71, o)
  | .fsin o => some (0x72, o)
  | .fcos o => some (0x73, o)
  | .fsmx o => some (0x74, o)
  | .rand o => some (0x75, o)
  | .jsed o => some (0x76, o)
  | .jext o => some (0x77, o)
  | .ldt o => some (0x80, o)
  | .stt o => some (0x81, o)
  | .lds o => some (0x82, o)
  | .sts o => some (0x83, o)
  | .ldb o => some (0x84, o)
  | .ldnw o => some (0x85, o)
  | .gath o => some (0x86, o)
  | .scat o => some (0x87, o)
  | .tmov o => some (0x88, o)
  | .wfen o => some (0x89, o)
  | .cbpb o => some (0x8A, o)
  | .cbrl o => some (0x8B, o)
  | .cbwtConsumer o => some (0x8C, o)
  | .cbstGet o => some (0x8D, o)
  | .afad o => some (0xA0, o)
  | .afab o => some (0xA1, o)
  | .ainw o => some (0xA2, o)
  | .adcw o => some (0xA3, o)
  | .acas o => some (0xA4, o)
  | .aswp o => some (0xA5, o)
  | .amin o => some (0xA6, o)
  | .amax o => some (0xA7, o)
  | .aand o => some (0xA8, o)
  | .aor o => some (0xA9, o)
  | .afaf o => some (0xAA, o)
  | .afmx o => some (0xAB, o)
  | .sdec o => some (0xAC, o)
  | .sadd o => some (0xAD, o)
  | .bexp o => some (0xAE, o)
  | .barv o => some (0xAF, o)
  | .binv o => some (0xB0, o)
  | .fenc o => some (0xB1, o)
  | .tdep o => some (0xB2, o)
  | .tcpy o => some (0xB3, o)
  | .ttak o => some (0xB4, o)
  | .tcan o => some (0xB5, o)
  | .tprb o => some (0xB6, o)
  | .echn o => some (0xB7, o)
  | .ecwt o => some (0xB8, o)
  | .leas o => some (0xB9, o)
  | .lrel o => some (0xBA, o)
  | .chn o => some (0xBB, o)
  | .qspl o => some (0xBC, o)
  | .ecnc o => some (0xBD, o)
  | .uirq o => some (0xBE, o)
  | .sqtr o => some (0xBF, o)
  | .sqac o => some (0xC0, o)
  | .sqrb o => some (0xC1, o)
  | .sqpm o => some (0xC2, o)
  | .sqrs o => some (0xC3, o)
  | .sqst o => some (0xC4, o)
  | .invm o => some (0xC5, o)
  | .getx o => some (0xC6, o)
  | .setx o => some (0xC7, o)
  | .rmxaBlk o => some (0x4C, o)
  | .cbwtProducer o => some (0x8C, o)
  | .cbstInit o => some (0x8D, o)
  | _ => none

/-- CBWT's producer form of a consumer form (08 R388). -/
def Instr.asProducer : Instr → Instr
  | .cbwtConsumer o => .cbwtProducer o
  | i => i

/-- The 128 bits of a slot (02 R35, R49). -/
def decodeSlot (w : Nat) : Option Instr :=
  if fld w 0 8 = 0 then (if fld w 0 128 = 0 then some .nop else none)
  else
    match decodeSrc (fld w 8 2) (fld w 32 32), decodeSrc (fld w 10 2) (fld w 64 32),
      decodeSrc (fld w 12 2) (fld w 96 32), decodeTy (fld w 14 4), decodeDst (fld w 24 8),
      fin? 8 (fld w 18 3), fin? 8 (fld w 21 3) with
    | some a, some b, some c, some t, some d, some p, some x =>
      slotOf (fld w 0 8) { dst := d, a := a, b := b, c := c, ty := t, pred := p, opx := x }
    | _, _, _, _, _, _, _ => none

/-- The 128 bits of a slot op, or 0 for NOP and for anything that no slot holds. -/
def encodeSlot (i : Instr) : Nat :=
  match slotCode i with
  | none => 0
  | some (code, o) =>
    let a := encodeSrc o.a
    let b := encodeSrc o.b
    let c := encodeSrc o.c
    code + a.1 * 2 ^ 8 + b.1 * 2 ^ 10 + c.1 * 2 ^ 12 + encodeTy o.ty * 2 ^ 14 + o.pred.val * 2 ^ 18
      + o.opx.val * 2 ^ 21 + encodeDst o.dst * 2 ^ 24 + a.2 * 2 ^ 32 + b.2 * 2 ^ 64 + c.2 * 2 ^ 96

/-- The control op of a code and its operands (02 R40). Subfields that a row does not list are zero. -/
def decodeCtl (code c c2 : Nat) : Option (Option Instr) :=
  let z := fun (b : Bool) (i : Instr) => if b && c2 == 0 then some (some i) else none
  let off24 := BitVec.ofNat 24 (fld c 8 24)
  match code with
  | 0x00 => if c = 0 ∧ c2 = 0 then some none else none
  | 0x01 => z true (.br (BitVec.ofNat 32 c))
  | 0x02 => (fin? 64 (fld c 0 6)).bind fun r => z (fld c 6 2 == 0) (.brz r off24)
  | 0x03 => (fin? 64 (fld c 0 6)).bind fun r => z (fld c 6 2 == 0) (.brnz r off24)
  | 0x04 => (fin? 8 (fld c 0 3)).bind fun p =>
    match fld c 3 2 with
    | 0 => z (fld c 5 3 == 0) (.brp p .any off24)
    | 1 => z (fld c 5 3 == 0) (.brp p .all off24)
    | 2 => z (fld c 5 3 == 0) (.brp p .none off24)
    | _ => none
  | 0x05 =>
    if c2 = 0 then none
    else if bitAt c 7 then none
    else if bitAt c 6 then
      (fin? 64 (fld c 0 6)).bind fun r =>
        if fld c 8 24 = 0 then some (some (.loop (.reg r) (BitVec.ofNat 16 c2))) else none
    else if fld c 0 6 = 0 then some (some (.loop (.imm off24) (BitVec.ofNat 16 c2))) else none
  | 0x06 => z true (.call (BitVec.ofNat 32 c))
  | 0x07 => z (c == 0) .ret
  | 0x08 =>
    if h : fld c 0 7 < 64 then z (fld c 7 25 == 0) (.jmpi (.s ⟨fld c 0 7, h⟩))
    else (fin? 16 (fld c 0 7 - 64)).bind fun a => z (fld c 7 25 == 0) (.jmpi (.a a))
  | 0x09 => z (c == 0) .rdv
  | 0x0A => z (c == 0) .exit
  | 0x0B => z (c == 0) .yield
  | 0x0C => (fin? 1024 c).bind fun g => z true (.join g)
  | 0x0D => (fin? 1024 c).bind fun g => z true (.leave g)
  | 0x0E => (fin? 1024 c).bind fun g => z true (.gbar g)
  | 0x0F => (fin? 64 c).bind fun r => z true (.waits r)
  | 0x10 => (fin? 256 c).bind fun s => z true (.waitb s)
  | 0x11 => z (fld c 16 16 == 0) (.trap (BitVec.ofNat 16 c))
  | 0x12 => z (c == 0) .eret
  | 0x13 => z (fld c 8 24 == 0) (.npre (BitVec.ofNat 8 c))
  | 0x14 => z (c == 0) .xpre
  | 0x15 => z (fld c 1 7 == 0) (.brqe (if fld c 0 1 = 0 then .qlx else .qxs) off24)
  | _ => none

/-- Code, control operand and second operand of a control op. -/
def encodeCtl : Instr → Nat × Nat × Nat
  | .br off => (0x01, off.toNat, 0)
  | .brz r off => (0x02, r.val + off.toNat * 256, 0)
  | .brnz r off => (0x03, r.val + off.toNat * 256, 0)
  | .brp p t off => (0x04, p.val + (match t with | .any => 0 | .all => 8 | .none => 16) + off.toNat * 256, 0)
  | .loop (.imm n) last => (0x05, n.toNat * 256, last.toNat)
  | .loop (.reg r) last => (0x05, r.val + 64, last.toNat)
  | .call off => (0x06, off.toNat, 0)
  | .ret => (0x07, 0, 0)
  | .jmpi (.s r) => (0x08, r.val, 0)
  | .jmpi (.a r) => (0x08, 64 + r.val, 0)
  | .rdv => (0x09, 0, 0)
  | .exit => (0x0A, 0, 0)
  | .yield => (0x0B, 0, 0)
  | .join g => (0x0C, g.val, 0)
  | .leave g => (0x0D, g.val, 0)
  | .gbar g => (0x0E, g.val, 0)
  | .waits r => (0x0F, r.val, 0)
  | .waitb s => (0x10, s.val, 0)
  | .trap n => (0x11, n.toNat, 0)
  | .eret => (0x12, 0, 0)
  | .npre us => (0x13, us.toNat, 0)
  | .xpre => (0x14, 0, 0)
  | .brqe q off => (0x15, (match q with | .qlx => 0 | .qxs => 1) + off.toNat * 256, 0)
  | _ => (0, 0, 0)

/-- The address op of a code, its register fields and operand (02 R41). -/
def decodeAdr (code ra rm v : Nat) : Option (Option Instr) :=
  match fin? 16 ra, fin? 16 rm with
  | some a, some m =>
    match code with
    | 0 => if ra = 0 ∧ rm = 0 ∧ v = 0 then some none else none
    | 1 => if rm = 0 then some (some (.ainc a (BitVec.ofNat 32 v))) else none
    | 2 => if v = 0 then some (some (.amod a m)) else none
    | 3 => if v = 0 then some (some (.abrv a m)) else none
    | 4 => if v = 0 then some (some (.acir a m)) else none
    | 5 => some (some (.aset a (BitVec.ofNat 4 rm) (BitVec.ofNat 32 v)))
    | 6 => (fin? 4 ra).map fun p => some (.mset p m (BitVec.ofNat 32 v))
    | _ => none
  | _, _ => none

/-- Code, register fields and operand of an address op. -/
def encodeAdr : Instr → Nat × Nat × Nat × Nat
  | .ainc a v => (1, a.val, 0, v.toNat)
  | .amod a m => (2, a.val, m.val, 0)
  | .abrv a m => (3, a.val, m.val, 0)
  | .acir a m => (4, a.val, m.val, 0)
  | .aset a hi lo => (5, a.val, hi.toNat, lo.toNat)
  | .mset p m v => (6, p.val, m.val, v.toNat)
  | _ => (0, 0, 0, 0)

/-- The control field of a bundle; none when it is illegal (02 R33, R40, R48). -/
def controlField (w : Nat) : Option (Option Instr) :=
  if fld w 14 2 ≠ 0 ∨ fld w 112 16 ≠ 0 then none else decodeCtl (fld w 8 6) (fld w 16 32) (fld w 96 16)

/-- The address field of a bundle (02 R34, R41, R48). -/
def addressField (w : Nat) : Option (Option Instr) :=
  if fld w 60 4 ≠ 0 then none else decodeAdr (fld w 48 4) (fld w 52 4) (fld w 56 4) (fld w 64 32)

/-- Slot 1, 2 or 3 of a bundle (02 R35). -/
def slotField (w k : Nat) : Option Instr := decodeSlot (fld w (128 * k) 128)

/-- The 512 bits of a bundle (02 R33 to R35, R48): the bundle, or the lowest-numbered field at fault. -/
def decodeBundle (w : Nat) : Except Bad Bundle :=
  if fld w 4 4 ≠ 0 then .error .token
  else match controlField w with
  | none => .error .control
  | some ctl =>
    match addressField w with
    | none => .error .address
    | some adr =>
      match slotField w 1 with
      | none => .error .slot1
      | some s1 =>
        match slotField w 2 with
        | none => .error .slot2
        | some s2 =>
          match slotField w 3 with
          | none => .error .slot3
          | some s3 =>
            .ok { popL := bitAt w 0, popR := bitAt w 1, pushL := bitAt w 2, pushR := bitAt w 3,
                  ctl := ctl, adr := adr, s1 := s1, s2 := s2, s3 := s3 }

/-- The 512 bits of a bundle. -/
def encodeBundle (b : Bundle) : Nat :=
  let bit := fun (x : Bool) => if x then 1 else 0
  let c := match b.ctl with
    | none => (0, 0, 0)
    | some i => encodeCtl i
  let a := match b.adr with
    | none => (0, 0, 0, 0)
    | some i => encodeAdr i
  bit b.popL + bit b.popR * 2 + bit b.pushL * 4 + bit b.pushR * 8
    + c.1 * 2 ^ 8 + c.2.1 * 2 ^ 16
    + a.1 * 2 ^ 48 + a.2.1 * 2 ^ 52 + a.2.2.1 * 2 ^ 56 + a.2.2.2 * 2 ^ 64 + c.2.2 * 2 ^ 96
    + encodeSlot b.s1 * 2 ^ 128 + encodeSlot b.s2 * 2 ^ 256 + encodeSlot b.s3 * 2 ^ 384

/-- The bundle that holds one instruction in its place and nothing else. -/
def Bundle.single (i : Instr) : Bundle :=
  match i.place with
  | .control => { Bundle.empty with ctl := some i }
  | .address => { Bundle.empty with adr := some i }
  | .slot1 => { Bundle.empty with s1 := i }
  | .slot2 => { Bundle.empty with s2 := i }
  | .slot3 => { Bundle.empty with s3 := i }
  | .event => Bundle.empty

/-- The ops of a bundle in the order of their fields: control, address, slots 1, 2 and 3; NOPs left out. -/
def Bundle.ops (b : Bundle) : List Instr :=
  b.ctl.toList ++ b.adr.toList ++ [b.s1, b.s2, b.s3].filter (fun i => !decide (i = .nop))

/-- The one instruction of a bundle that holds one op, NOP for an empty one. -/
def Bundle.only (b : Bundle) : Option Instr :=
  match b.ops with
  | [] => some .nop
  | [i] => some i
  | _ => none

/-- The engine class of a code (09 R253). -/
def decodeCls : Nat → Option EngClass
  | 0 => some .copy | 1 => some .kantele | 2 => some .zither | 3 => some .chain | _ => none

def encodeCls : EngClass → Nat
  | .copy => 0 | .kantele => 1 | .zither => 2 | .chain => 3

/-- The record of a code (09 R255, R256). -/
def recOf (code : Nat) (r : Rec) : Option Instr :=
  match code with
  | 0x01 => some (.cpy r) | 0x02 => some (.cpg r) | 0x03 => some (.cpm r) | 0x04 => some (.mmp r)
  | 0x05 => some (.mdr r) | 0x06 => some (.atn r) | 0x07 => some (.kap r) | 0x08 => some (.ktr r)
  | 0x09 => some (.kfk r) | 0x0A => some (.mig r) | 0x0B => some (.pas r) | 0x10 => some (.jmp r)
  | 0x11 => some (.lpc r) | 0x12 => some (.ifz r) | 0x13 => some (.ifnz r) | 0x14 => some (.sgd r)
  | 0x15 => some (.nte r) | 0x1F => some (.endRec r) | _ => none

/-- Code and fields of a record. -/
def recCode : Instr → Option (Nat × Rec)
  | .cpy r => some (0x01, r) | .cpg r => some (0x02, r) | .cpm r => some (0x03, r) | .mmp r => some (0x04, r)
  | .mdr r => some (0x05, r) | .atn r => some (0x06, r) | .kap r => some (0x07, r) | .ktr r => some (0x08, r)
  | .kfk r => some (0x09, r) | .mig r => some (0x0A, r) | .pas r => some (0x0B, r) | .jmp r => some (0x10, r)
  | .lpc r => some (0x11, r) | .ifz r => some (0x12, r) | .ifnz r => some (0x13, r) | .sgd r => some (0x14, r)
  | .nte r => some (0x15, r) | .endRec r => some (0x1F, r) | _ => none

/-- The 256 bits of a chain record (09 R253). -/
def decodeRec (w : Nat) : Option Instr :=
  match decodeCls (fld w 8 4) with
  | none => none
  | some cls =>
    recOf (fld w 0 8)
      { cls := cls, bufs := BitVec.ofNat 16 (fld w 16 16), last := bitAt w 15, ntf := bitAt w 14,
        sig := bitAt w 13, byt := bitAt w 12, w1 := BitVec.ofNat 32 (fld w 32 32),
        w2 := BitVec.ofNat 32 (fld w 64 32), w3 := BitVec.ofNat 32 (fld w 96 32),
        w4 := BitVec.ofNat 32 (fld w 128 32), w5 := BitVec.ofNat 32 (fld w 160 32),
        w6 := BitVec.ofNat 32 (fld w 192 32), w7 := BitVec.ofNat 32 (fld w 224 32) }

/-- The 256 bits of a chain record, 0 for anything that is none. -/
def encodeRec (i : Instr) : Nat :=
  let bit := fun (x : Bool) => if x then 1 else 0
  match recCode i with
  | none => 0
  | some (code, r) =>
    code + encodeCls r.cls * 2 ^ 8 + bit r.byt * 2 ^ 12 + bit r.sig * 2 ^ 13 + bit r.ntf * 2 ^ 14
      + bit r.last * 2 ^ 15 + r.bufs.toNat * 2 ^ 16 + r.w1.toNat * 2 ^ 32 + r.w2.toNat * 2 ^ 64
      + r.w3.toNat * 2 ^ 96 + r.w4.toNat * 2 ^ 128 + r.w5.toNat * 2 ^ 160 + r.w6.toNat * 2 ^ 192
      + r.w7.toNat * 2 ^ 224

/-- What a mailbox record of eight words names (15 R356 to R358): a command, a DISPOSE whose action its target
does not allow (result 3), or an unknown command (result 5). -/
inductive MailCmd where
  | cmd (i : Instr)
  | badAction
  | unknown
  deriving DecidableEq, Repr

def decodeMail (w : Mgmt) : MailCmd :=
  match fld w.w0.toNat 0 8 with
  | 0x01 =>
    match bitAt w.w1.toNat 8, fld w.w1.toNat 24 2 with
    | false, 0 => .cmd .disposeReplay
    | false, 1 => .cmd .disposeNext
    | false, 2 => .cmd .disposeFail
    | true, 0 => .cmd .disposeChainReplay
    | true, 2 => .cmd .disposeChainStop
    | _, _ => .badAction
  | 0x02 => .cmd .readrec
  | 0x03 => .cmd .evring
  | 0x10 => .cmd .resync
  | 0x20 => .cmd .ctxload
  | 0x21 => .cmd .ctxunload
  | 0x22 => .cmd .ccbset
  | 0x23 => .cmd .winset
  | 0x30 => .cmd .remap
  | 0x31 => .cmd .migrate
  | 0x40 => .cmd .matchset
  | 0x41 => .cmd .parkset
  | 0x42 => .cmd .keyset
  | 0x43 => .cmd .mcast
  | 0x50 => .cmd .attest
  | 0x51 => .cmd .fusemin
  | _ => .unknown

/-- The instruction that the decoder reads from the bits of a table row: a chain record for 256 bits, otherwise
the one op of a bundle of 512 bits. -/
def decodeTableWord (nbits w : Nat) : Option Instr :=
  if nbits = 256 then decodeRec w
  else match decodeBundle w with
    | .ok b => b.only
    | .error _ => none

end Sys2Proof
end

