-- ==== Sys2Proof/Machine/Table.lean ====
section
/-! DEFINITION. The operations of the sparse table: lookup, update, and the canonical form. -/

namespace Sys2Proof

/-- The value at key `k`, the default `d` when the table does not list `k`. -/
def Tbl.get {α : Type} (d : α) : Tbl α → Nat → α
  | [], _ => d
  | (j, v) :: t, k => if k = j then v else Tbl.get d t k

/-- The entry that a table lists at key `k`. -/
def Tbl.find {α : Type} : Tbl α → Nat → Option α
  | [], _ => none
  | (j, v) :: t, k => if k = j then some v else Tbl.find t k

/-- Remove key `k` from a table. -/
def Tbl.del {α : Type} : Tbl α → Nat → Tbl α
  | [], _ => []
  | (j, v) :: t, k => if k = j then Tbl.del t k else (j, v) :: Tbl.del t k

/-- Insert `v` at key `k`, keeping keys in rising order. -/
def Tbl.ins {α : Type} : Tbl α → Nat → α → Tbl α
  | [], k, v => [(k, v)]
  | (j, w) :: t, k, v =>
    if k = j then (k, v) :: t
    else if k < j then (k, v) :: (j, w) :: t
    else (j, w) :: Tbl.ins t k v

/-- Set key `k` to `v`; the default leaves no entry. -/
def Tbl.set {α : Type} [DecidableEq α] (d : α) (t : Tbl α) (k : Nat) (v : α) : Tbl α :=
  if v = d then Tbl.del t k else Tbl.ins t k v

/-- Keys strictly rise. -/
def Tbl.sorted {α : Type} : Tbl α → Bool
  | [] => true
  | [_] => true
  | (j, _) :: (k, v) :: t => decide (j < k) && Tbl.sorted ((k, v) :: t)

/-- The canonical form: keys strictly rising, no entry equal to the default. -/
def Tbl.wf {α : Type} [DecidableEq α] (d : α) (t : Tbl α) : Bool :=
  Tbl.sorted t && t.all (fun e => !decide (e.2 = d))

/-- The keys a table lists. -/
def Tbl.keys {α : Type} (t : Tbl α) : List Nat := t.map Prod.fst

/-- Apply `f` to the value at `k`. -/
def Tbl.upd {α : Type} [DecidableEq α] (d : α) (t : Tbl α) (k : Nat) (f : α → α) : Tbl α :=
  Tbl.set d t k (f (Tbl.get d t k))

/-- Apply `f` to every listed value; one that becomes the default leaves no entry. -/
def Tbl.mapV {α : Type} [DecidableEq α] (d : α) (f : α → α) (t : Tbl α) : Tbl α :=
  (t.map fun e => (e.1, f e.2)).filter fun e => !decide (e.2 = d)

/-- The byte at `a`. An unlisted address reads as zero (log 2). -/
def Memory.byte (m : Memory) (a : Nat) : Byte := Tbl.get (0 : Byte) m a

/-- Store one byte. -/
def Memory.put (m : Memory) (a : Nat) (b : Byte) : Memory := Tbl.set (0 : Byte) m a b

/-- The canonical form of memory. -/
def Memory.wf (m : Memory) : Bool := Tbl.wf (0 : Byte) m

/-- `n` consecutive bytes from `a`, lowest first. -/
def Memory.bytes (m : Memory) (a : Nat) : Nat → List Byte
  | 0 => []
  | n + 1 => Memory.byte m a :: Memory.bytes m (a + 1) n

/-- The little-endian value of `n` bytes at `a` (00 R3). -/
def Memory.read (m : Memory) (a n : Nat) : Nat := ofBytes (Memory.bytes m a n)

/-- Store bytes from `a` upward, lowest first. -/
def Memory.puts (m : Memory) (a : Nat) : List Byte → Memory
  | [] => m
  | b :: bs => Memory.puts (Memory.put m a b) (a + 1) bs

/-- Store the low `n` bytes of `v` at `a`, little-endian (00 R3). -/
def Memory.write (m : Memory) (a n v : Nat) : Memory := Memory.puts m a (toBytes n v)

end Sys2Proof
end

