-- ==== Sys2Proof/Machine/State.lean ====
section
/-! DEFINITION. The state of the module as plain data: everything the spec gives the machine, the bundle in
progress, and the agenda that says which agent moves next (log 3). -/

namespace Sys2Proof.Machine

/-- A modifier register (02 R50). -/
structure MReg where
  inc : W32 := 0
  len : W32 := 0
  base : LocAddr := 0
  mode : BitVec 4 := 0
  deriving DecidableEq, Repr

/-- A loop stack entry (04 R135). -/
structure LoopEntry where
  start : DevAddr
  stop : DevAddr
  remaining : Nat
  deriving DecidableEq, Repr

/-- An entry of a data queue: its size in bytes and its bytes (01 R15). -/
structure QEntry where
  size : Nat
  data : Tile
  /-- Its SECDED meets an uncorrectable error at the pop (15 R364). -/
  bad : Bool := false
  deriving DecidableEq, Repr

/-- An interrupt queue entry (09 R270, R272): from UIRQ with its value, or from a chain slot with its code. -/
structure Irq where
  uirq : Bool
  slot : Fin 16
  code : BitVec 16
  value : W64
  deriving DecidableEq, Repr

/-- Eight 64-bit words: a trap record (15 R354) or an engine record (15 R362). -/
structure Rec8 where
  w0 : W64 := 0
  w1 : W64 := 0
  w2 : W64 := 0
  w3 : W64 := 0
  w4 : W64 := 0
  w5 : W64 := 0
  w6 : W64 := 0
  w7 : W64 := 0
  deriving DecidableEq, Repr

/-- A register that the operand log or a parity error can name (15 R363). -/
inductive RegName where
  | v (n : Fin 32)
  | p (n : Fin 8)
  | s (n : Fin 64)
  | a (n : Fin 16)
  | m (n : Fin 16)
  | hs (n : Fin 8)
  deriving DecidableEq, Repr

/-- A clock: counts by party, the key being 256 times the die plus the party number (07 R200, log 6). -/
abbrev Clock := Tbl (BitVec 16)

/-- What a stream that does not issue is waiting for, and what it has left standing elsewhere (09 R271). -/
inductive Wait where
  | none
  /-- An atomic request has been sent (08 R228). -/
  | atomic
  /-- Its reply, and the clock that an order asks to acquire. -/
  | replied (old : W64) (clk : Clock)
  /-- Its decombining record was lost (08 R237). -/
  | lost (old : W64) (addr : W64)
  /-- An RDV has been counted (11 R306). -/
  | rdv
  /-- A GBAR has arrived in this phase of a group of its die (11 R310); the phase completed, with the clock the group then
  held (07 R194). -/
  | gbar (g : Fin 1024) (phase : BitVec 16)
  | gbarDone (clk : Clock)
  /-- A GBAR waits for this phase before it arrives. -/
  | gbarNext (phase : BitVec 16)
  /-- WAITS on the signal at a physical and a device address (11 R308). -/
  | waits (home : Fin 16) (pa : Nat) (dev : W64)
  /-- The signal has woken it; the clock that it acquires. -/
  | woken (clk : Clock)
  /-- WAITB on a slot for a target phase (08 R241). -/
  | waitb (slot : Fin 256) (target : BitVec 16)
  /-- The phase completed while it waited: the done clock and the phase it observed. -/
  | waitbDone (clk : Clock) (phase : BitVec 16)
  /-- The slot overran, or a dropped window write raced: target line, conflicting tag, stamp (08 R242). -/
  | waitbOvr (raced : Option (W64 × W64 × W64))
  /-- A BINV reset the slot while it waited (08 R240). -/
  | waitbReset
  /-- A LEAS request has been placed, or granted (06 R175). -/
  | lease
  | leased
  /-- A tuple request is parked at a slice (08 R250), satisfied, or withdrawn by TCAN. -/
  | tuple (slice : Fin 16)
  | tupleDone (image : Line) (clk : Clock)
  | tupleCancelled
  /-- An ECNC has marked its chain cancelled (09 R262). -/
  | ecnc
  /-- An INVM waits for the commands (chains by their keys) and the atomics ahead of its markers (07 R215). -/
  | invm (chains : List Nat) (atomics : List Who)
  deriving DecidableEq, Repr

/-- What a bundle keeps from its issue while it waits: the registers that the streams of its core share, as it read them
(02 R38), what its GETX read (04 R141), whether the queues held no entry (04 R134), the tokens it took (02 R36), and the
sources of its slot 3 for a trap record (15 R354). -/
structure Issued where
  v : Tbl Tile
  p : Tbl Mask
  kbank : Tbl W32
  getx : W64
  qlxNone : Bool
  qxsNone : Bool
  popL : Bool
  popR : Bool
  opa : W64
  opb : W64
  opc : W64
  deriving DecidableEq, Repr

/-- Whether a stream runs (11 R307, 15 R353). -/
inductive Status where
  | idle | running | held | exited | failed
  deriving DecidableEq, Repr

/-- A stream: its own registers and stacks (02 R50 to R53). -/
structure Stream where
  status : Status := .idle
  pc : DevAddr := 0
  s : Tbl W64 := []
  a : Tbl LocAddr := []
  m : Tbl MReg := []
  hs : Tbl W64 := []
  rows : BitVec 7 := 64
  cols : BitVec 7 := 16
  jord : BitVec 2 := 0
  jflg : BitVec 20 := 0
  fflg : BitVec 7 := 0
  rmode : BitVec 2 := 0
  uvec : DevAddr := 0
  uien : Bool := false
  tstat : BitVec 4 := 0
  trec : Rec8 := {}
  tprev : Rec8 := {}
  /-- Records written so far, wrapping (15 R354 word 0). -/
  recs : BitVec 16 := 0
  loops : List LoopEntry := []
  calls : List DevAddr := []
  /-- The fetch buffer: bundles by address (02 R387). -/
  fetch : List (Nat × Line) := []
  irqs : List Irq := []
  /-- Inside the handler, the handler bundles issued so far (09 R273). -/
  handler : Option Nat := none
  rdvs : Nat := 0
  /-- The wait of the op in slot 3 and the wait of the control op. -/
  wait : Wait := .none
  cwait : Wait := .none
  /-- The waits of the bundle that an interrupt set aside, with its address (09 R271). -/
  aside : Option (DevAddr × Wait × Wait) := none
  /-- The bundle at the program counter has issued and waits. -/
  issued : Option Issued := none
  /-- The pager holds the bundle (14 R341). -/
  paged : Bool := false
  /-- The cyc value at which a bundle held on a parity error issues again (15 R363). -/
  parityAt : Option W64 := none
  /-- Register writes of the last 64 retired bundles, newest first (15 R363). -/
  oplog : List (List (RegName × Nat)) := []
  /-- Elements whose parity fails (32 bits each, by register), and those restored for the issue under way; X holds
  those of the shared v and p registers (15 R363). -/
  badRegs : List (RegName × Nat) := []
  restored : List (RegName × Nat) := []
  /-- An error in the stream's control state that SOFT will report (15 R364). -/
  soft : Bool := false
  /-- The job has failed: the bundle that has issued is the stream's last (15 R353). -/
  doomed : Bool := false
  deriving DecidableEq, Repr

/-- A spill ring in device space: address, quota, the slot of its oldest entry, sizes of the entries it
holds, oldest first (11 R311, R312). -/
structure Ring where
  addr : DevAddr
  quota : Nat
  first : Nat
  sizes : List Nat
  deriving DecidableEq, Repr

/-- A data queue (01 R15) and its spill ring (11 R311). -/
structure Queue where
  entries : List QEntry := []
  ring : Option Ring := none
  deriving DecidableEq, Repr

/-- An entry of the scale bypass (05 R147). -/
structure Scales where
  format : Nat
  sbs : List Byte
  deriving DecidableEq, Repr

/-- The open fence epoch of a job on a window: its number, bytes charged, the paths its writes used (09 R289, R290). -/
structure Epoch where
  number : BitVec 32 := 0
  bytes : Nat := 0
  paths : List Nat := []
  deriving DecidableEq, Repr

/-- The job on a core (01 R14, 11 R305). -/
structure Job where
  ctx : Fin 64
  graph : DevAddr
  node : W32
  index : BitVec 16
  width : Nat
  prio : Nat
  placedAt : W64
  deriving DecidableEq, Repr

/-- What a command has done and its completion has still to do (09 R269). -/
structure Perf where
  cmd : Rec
  bytes : Nat
  /-- Output object to publish. -/
  publish : Option Nat
  /-- Input objects and cursors to release. -/
  release : List (Nat × Nat)
  flags : BitVec 7
  /-- Steps already taken: 0 none, 1 publication and bytes, 2 the signal too. -/
  stage : Nat := 0
  deriving DecidableEq, Repr

/-- The views that a release towards an engine captures (07 R195). -/
structure Views where
  die : Fin 16
  party : Nat
  clk : Clock
  phases : Tbl (BitVec 16)
  bufs : Tbl (Option W32)
  handles : Tbl W64
  deriving DecidableEq, Repr

def Views.empty : Views :=
  { die := 0, party := 0, clk := [], phases := [], bufs := [], handles := [] }

/-- A command chain in its chain slot (09 R257 to R262, 15 R362). -/
structure Chain where
  /-- State of the progress word: 0 idle, 1 queued, 2 running, 3 done, 4 stopped, 5 cancelled (R261). -/
  state : Nat := 0
  index : Nat := 0
  /-- The record that is read next (R257). -/
  pos : Nat := 0
  /-- The record in progress, its descriptor and its index list, as they were read. -/
  raw : BitVec 256 := 0
  desc : Line := 0
  idxs : List W32 := []
  /-- The command in progress has fired: its handles with the versions they fired on (R267). -/
  fired : Option (List (Nat × W32)) := none
  cls : EngClass := .copy
  inst : Fin 8 := 0
  units : Nat := 0
  ctx : Fin 64 := 0
  head : LocAddr := 0
  who : Option Who := none
  core : Option (Fin 128) := none
  die : Fin 16 := 0
  slotDie : Fin 16 := 0
  slot : Fin 256 := 0
  phase : W32 := 0
  hold : Bool := false
  views : Views := Views.empty
  cancel : Bool := false
  /-- Held by XLATE, GATED, QUOTA or TIER, with the disposition it waits for (15 R362). -/
  held : Bool := false
  /-- Held by the pager for a flash-tier page (14 R341). -/
  tier : Bool := false
  /-- The record at `pos` has been read and waits to be performed (R257). -/
  reached : Bool := false
  /-- The page tables as a command that stands ahead of a marker sees them (07 R215, R216). -/
  old : Option Memory := none
  /-- Chains and atomics ahead of the markers that the migration in progress has placed (14 R341). -/
  markers : Option (List Nat × List Who) := none
  done : Option Perf := none
  /-- Members of a multicast that have still to acknowledge landing (09 R276). -/
  acks : List (BitVec 10 × BitVec 8) := []
  record : Rec8 := {}
  deriving DecidableEq, Repr

/-- A core: the registers its three streams share, its unit scratchpad, its party's clock and views, its job. -/
structure Core where
  v : Tbl Tile := []
  p : Tbl Mask := []
  kbank : Tbl W32 := []
  nconst : Nat := 0
  kaddr : DevAddr := 0
  kloaded : Nat := 0
  /-- A line of the constant image has faulted, and the load has ended (11 R296). -/
  kfault : Bool := false
  qlx : Queue := {}
  qxs : Queue := {}
  tlx : Nat := 0
  txl : Nat := 0
  txs : Nat := 0
  tsx : Nat := 0
  anchor : BitVec 8 := 0
  est : W32 := 0
  estAt : W64 := 0
  cb : Tbl W64 := []
  stage1 : Option Scales := none
  stage2 : Option Scales := none
  stage3 : Option Scales := none
  unitMem : Memory := []
  clk : Clock := []
  /-- Phase view V, default 0xFFFF (07 R200). -/
  phases : Tbl (BitVec 16) := []
  /-- Buffer view B. -/
  bufs : Tbl (Option W32) := []
  arrivals : Tbl (Option W32) := []
  epochs : Tbl Epoch := []
  job : Option Job := none
  lastCtx : Option (Fin 64) := none
  /-- The cyc value at which the open non-pre-emptible region closes (11 R324). -/
  region : Option W64 := none
  l : Stream := {}
  x : Stream := {}
  st : Stream := {}
  deriving DecidableEq, Repr

/-- An accumulator element (03 R94). -/
structure Acc where
  a : BitVec 128 := 0
  nan : Bool := false
  inexact : Bool := false
  ovf : Bool := false
  deriving DecidableEq, Repr

/-- A waiting lease request: core, count, priority, grants it has seen (06 R175, R176). -/
structure LeaseReq where
  core : Fin 128
  n : Nat
  prio : Nat
  seen : Nat
  deriving DecidableEq, Repr

/-- An accepted chain-engine pass (05 R164, R168). -/
structure Pass where
  who : Who
  ctx : Fin 64
  at_ : LocAddr
  desc : Line
  slot : Fin 256
  phase : W32
  views : Views
  /-- The constant word of each op word, as it stood at CHN (05 R166). -/
  consts : List W32
  deriving DecidableEq, Repr

/-- The operations a home synchronisation engine applies (08 R230, R238). -/
inductive AtomOp where
  | add | addBounded | incWrap | decWrap | cas | swap | min | max | and | or | fadd | fmax
  /-- SDEC and SADD: the delta is added to a signal object. -/
  | signal
  deriving DecidableEq, Repr

/-- One member of an atomic request: the stream that waits, and source B (08 R234, R235). -/
structure Member where
  who : Who
  b : W64
  deriving DecidableEq, Repr

/-- An atomic request on its way to its home engine (08 R229, R233): `order` bit 0 asks for an acquire, bit 1 for
the release of `clk`. -/
structure AtomReq where
  op : AtomOp
  ty : Ty
  order : Nat
  clk : Clock
  ctx : Fin 64
  dev : W64
  pa : Nat
  c : W64
  members : List Member
  deriving DecidableEq, Repr

/-- A reply on its way back: the value before the first of the requests that combined, and these. -/
structure AtomReply where
  old : W64
  parts : List AtomReq
  deriving DecidableEq, Repr

/-- A router: requests arriving, the output queue, each entry the requests that combined into it, those sent on to a later
router, replies with their decombining records, and whether the output holds requests back (08 R233). -/
structure Router where
  arriving : List AtomReq := []
  queue : List (List AtomReq) := []
  sent : List (List AtomReq) := []
  replies : List AtomReply := []
  busy : Bool := false
  deriving DecidableEq, Repr

/-- A cluster: Kantele array and bank, leases, chain engine, router, clock steps (06 R169, R176, 05 R164, 11 R325). -/
structure Cluster where
  bank : Tbl Acc := []
  anchor : BitVec 8 := 0
  lease : Option (Fin 128 × Nat) := none
  reqs : List LeaseReq := []
  rr : Fin 16 := 0
  passes : List Pass := []
  kants : List ChainId := []
  chains : List ChainId := []
  /-- Steps of 0.25 GHz below 2.0 GHz (11 R325). -/
  slow : Nat := 0
  router : Router := {}
  /-- Runs of the array whose checksum comparison will mismatch (06 R183, log 7). -/
  mismatches : Nat := 0
  deriving DecidableEq, Repr

/-- A barrier slot (07 R208) with the clocks of its current, next and completed phases (08 R241). -/
structure Barrier where
  phase : W32 := 0
  cur : Int := 0
  nxt : Int := 0
  parties : Nat := 0
  arrived : Nat := 0
  narrived : Nat := 0
  pend : Nat := 0
  npend : Nat := 0
  valid : Bool := false
  ovr : Bool := false
  nxp : Bool := false
  xp : Bool := false
  clkCur : Clock := []
  clkNxt : Clock := []
  clkDone : Clock := []
  /-- A dropped remote write: its target line, the conflicting tag and its own stamp (07 R214, 08 R242). -/
  raced : Option (W64 × W64 × W64) := none
  /-- The epoch that the current phase stands for (09 R289). -/
  epoch : W32 := 0
  /-- Marker copies counted: source (device, context, job, epoch) and copies so far (09 R290). -/
  markers : List (Nat × Nat) := []
  deriving DecidableEq, Repr

/-- The bits in a group of a checkpointed job that is out, held under its old party number (11 R323). -/
structure HeldBits where
  ctx : Fin 64
  graph : DevAddr
  node : BitVec 16
  index : BitVec 16
  party : Fin 128
  need : Bool
  arr : Bool
  deriving DecidableEq, Repr

/-- A group object (11 R309). -/
structure Group where
  mask : BitVec 128 := 0
  need : BitVec 128 := 0
  arr : BitVec 128 := 0
  /-- The members that are out; `mask`, `need` and `arr` hold the bits of the jobs on the cores. -/
  out : List HeldBits := []
  phase : BitVec 16 := 0
  clk : Clock := []
  deriving DecidableEq, Repr

/-- A buffer object (09 R264) with the clocks released into its entries (07 R194). -/
structure BufObj where
  cons : Tbl W32 := []
  prod : W32 := 0
  claim : W32 := 0
  base : LocAddr := 0
  ebytes : W32 := 0
  nent : BitVec 16 := 0
  ncons : BitVec 2 := 0
  clks : Tbl Clock := []
  deriving DecidableEq, Repr

/-- A stored tuple (08 R244) with the depositor's clock. -/
structure Tuple where
  image : Line
  clk : Clock
  /-- The order in which deposits were applied. -/
  age : Nat
  deriving DecidableEq, Repr

/-- A parked request (08 R250). -/
structure Parked where
  who : Who
  pattern : Line
  take : Bool
  deriving DecidableEq, Repr

/-- A memory slice's tuples (08 R245), oldest first. -/
structure Slice where
  stored : List Tuple := []
  overflow : List Tuple := []
  parked : List Parked := []
  deriving DecidableEq, Repr

/-- A 36-bit tag (07 R201); `none` is an invalid tag. -/
inductive Tag where
  | party (p : Nat) (cnt : BitVec 16)
  | bar (slot : Nat) (cnt : BitVec 16)
  | buf (obj : Nat) (cnt : BitVec 16)
  deriving DecidableEq, Repr

/-- The tag of a tracked line: writer and readers; more than two readers spill (07 R201, R205). -/
structure LineTag where
  wr : Option Tag := none
  rd : List Tag := []
  spill : Bool := false
  deriving DecidableEq, Repr

/-- A node that waits in the ready pool or its overflow (11 R303). -/
structure PoolEnt where
  ctx : Fin 64
  graph : DevAddr
  node : BitVec 16
  prio : Nat
  readyAt : W64
  levelAt : W64
  seq : Nat
  deriving DecidableEq, Repr

/-- A launch that the dispatcher holds: tuple, reads of the payload tail so far, when it reads again (11 R294, R295). -/
structure Launch where
  ctx : Fin 64
  image : Line
  clk : Clock
  reads : Nat
  nextAt : W64
  deriving DecidableEq, Repr

/-- An open request of a sequence manager (11 R314): its image and its submitted tree of
(token, parent, p_draft), with the local address and stride of the draft rows. -/
structure SeqReq where
  ctx : Fin 64
  rule : Nat
  length : W32
  head : DevAddr
  dh : BitVec 16
  vocab : BitVec 24
  seq : W32
  key : W64
  draws : W64
  tau : W32
  tree : Option (List (Nat × Nat × W32) × LocAddr × W32)
  clk : Clock
  deriving DecidableEq, Repr

/-- A trap as it is raised (15 R351, R354). -/
structure Trap where
  code : Nat
  place : Nat
  sub : Nat := 0
  addr : W64 := 0
  opa : W64 := 0
  opb : W64 := 0
  opc : W64 := 0
  info : W64 := 0
  /-- The poisoned stacked-DRAM line that the array log records (15 R366). -/
  line : Option Nat := none
  /-- cyc at the fault, where the trap is delivered later (14 R341). -/
  stamp : Option W64 := none
  deriving DecidableEq, Repr

/-- A service stream: what it serves, its clock and view (01 R13, 07 R200). -/
structure Service where
  chain : Option ChainId := none
  who : Option Who := none
  /-- The page it moves: context, address. -/
  dev : Option (Fin 64 × DevAddr) := none
  /-- The tier it moves the page to: 0, or that of a demotion (14 R341). -/
  tier : Nat := 0
  /-- The record of the first fault (14 R341). -/
  trap : Option Trap := none
  /-- What stands ahead of the markers that it has placed. -/
  markers : Option (List Nat × List Who) := none
  /-- The die's dispatcher asks for the page (11 R296). -/
  disp : Bool := false
  clk : Clock := []
  phases : Tbl (BitVec 16) := []
  deriving DecidableEq, Repr

/-- A vertical bus: 4:1 serialisation, wires swapped for spares, retired (15 R367). -/
structure Bus where
  quarter : Bool := false
  swaps : Tbl (Option Nat) := []
  used : List Nat := []
  retired : Bool := false
  deriving DecidableEq, Repr

/-- Why a bank is retired (14 R345). -/
inductive RetireCause where
  | lasting | bus | heat
  deriving DecidableEq, Repr

/-- A retired bank; `mapped` until REMAP has taken it out of the interleave (14 R345). -/
structure RetiredBank where
  stack : Fin 2
  layer : Fin 16
  bank : Fin 32
  cause : RetireCause
  remapped : Bool
  deriving DecidableEq, Repr

/-- The counters of the summary (15 R381 type 0x0A). -/
structure Counters where
  restores : W64 := 0
  freezeUnit : W64 := 0
  freezeCluster : W64 := 0
  freezeDie : W64 := 0
  crcRetries : W64 := 0
  lostEvents : W64 := 0
  lostTuples : W64 := 0
  pathsDown : W64 := 0
  deriving DecidableEq, Repr

/-- A die. -/
structure Die where
  cyc : W64 := 0
  alog : List W64 := []
  blog : List W64 := []
  klog : List W64 := []
  slots : Tbl Barrier := []
  groups : Tbl Group := []
  bufs : Tbl BufObj := []
  /-- Clocks of signal objects homed here, by physical address, and of 64-byte lines, by that address plus 1
  (07 R194). -/
  words : Tbl Clock := []
  /-- Deliveries from other dies: slot, captured phase, bytes, whether the hold ends (07 R210). -/
  deliveries : List (Fin 256 × W32 × Nat × Bool) := []
  slices : Tbl Slice := []
  pool : List PoolEnt := []
  overflow : List PoolEnt := []
  /-- The head: the KERN node for which cores are held until it is placed (11 R304). -/
  head : Option (Fin 64 × DevAddr × BitVec 16) := none
  launches : List Launch := []
  /-- Pages that the pager could not move for this die's dispatcher (11 R296, 14 R341). -/
  stuckPages : List (Fin 64 × DevAddr) := []
  copyq : Tbl (List ChainId) := []
  reqs : Tbl (Option SeqReq) := []
  services : Tbl Service := []
  buses : Tbl Bus := []
  retired : List RetiredBank := []
  gen : BitVec 16 := 0
  /-- Line tags by physical line number (07 R201). -/
  tags : Tbl LineTag := []
  /-- alog kind 2 entries by bank number, with their cyc (15 R368). -/
  lasting : List (Nat × W64) := []
  /-- Freezes that have not ended: the domain, the cyc value at which it resumes (15 R365). -/
  freezes : List (FreezeDomain × W64) := []
  /-- Lasting correctable errors of scratchpads, counted per line (15 R372). -/
  scratchErrors : List ((FreezeDomain × Nat) × Nat) := []
  /-- The later routers and bridges on the way to this die's home engine (08 R233). -/
  later : Router := {}
  counters : Counters := {}
  deriving DecidableEq, Repr

/-- The pre-emption decision against a node (11 R321, R322). -/
inductive Decision where
  | none
  | drain (until_ : W64)
  | kill
  | checkpoint (outside : Option (Fin 8))
  deriving DecidableEq, Repr

/-- A node of a live instance: where it stands (11 R301, R305, R322). -/
inductive NodeState where
  | waiting
  | running (cores : List (Fin 128)) (placedAt : W64) (prio : Nat)
  | chain
  deriving DecidableEq, Repr

structure NodeRun where
  node : BitVec 16
  die : Fin 16
  image : Line
  st : NodeState
  readyAt : W64
  seq : Nat
  prio : Nat
  decision : Decision
  /-- An action held by an open region (11 R324). -/
  heldBack : Bool
  /-- A further readiness met while this instance of the node waits or runs (11 R301). -/
  again : Bool
  jobsLeft : Nat
  /-- A job of the running node has failed: the node never completes (15 R353). -/
  failed : Bool := false
  /-- Waiting at the head of the pool, its victims have been chosen (11 R321). -/
  chosen : Bool := false
  /-- The cores as a checkpoint saved them, the progress words of their chain slots, the cores they ran on (11 R322,
  R323). -/
  saved : List Core
  savedChains : List (List Chain) := []
  savedOld : List (Fin 128)
  clk : Clock
  /-- A cluster the node may not resume on (11 R325). -/
  avoid : Option (Fin 8)
  deriving DecidableEq, Repr

/-- A graph instance (11 R295, R301). -/
structure Instance where
  ctx : Fin 64
  graph : DevAddr
  home : Fin 16
  image : Line
  prio : Nat
  tokens : Nat
  sig : DevAddr
  nnodes : Nat
  pending : Tbl (Option Nat)
  iter : Tbl Nat
  nodes : List NodeRun
  clks : Tbl Clock
  reported : Bool
  deriving DecidableEq, Repr

/-- What the module holds about a context beside its control block. -/
structure CtxDyn where
  /-- Memory as it stood at the last marker: its page tables are the mapping in force (07 R215, 14 R339; log 69). -/
  tables : Memory := []
  spill : Nat := 0
  race : Nat := 0
  /-- Race records that the overflow path has still to write to the race-record area (07 R205, log 35). -/
  recordsDue : Nat := 0
  /-- Bytes in flight by window (09 R287) and refusals to report (14 R347). -/
  charged : Tbl Nat := []
  /-- Of a write above the allowance, the bytes that it was not charged and that come back first. -/
  excess : Tbl Nat := []
  refused : Tbl Bool := []
  applied : W64 := 0
  refusedDeposits : W64 := 0
  /-- The host's window (01 R27): the deposit slots and the take pattern as written, the status and the tuple of the last
  take. -/
  slots : Tbl Line := []
  pattern : Line := 0
  status : BitVec 4 := 0
  area : Line := 0
  deriving DecidableEq, Repr

/-- A Zither: free header and block frames by context, its queue (09 R278, R259). -/
structure Zither where
  headers : Tbl (List Nat) := []
  blocks : Tbl (List Nat) := []
  queue : List ChainId := []
  deriving DecidableEq, Repr

/-- A flit that has left and is not acknowledged: the port it last left by, whether its path there was direct, its failures
on the direct path of each port, the wavelengths that its beats went out on (15 R374, R376, R377). -/
structure Sent where
  flit : Flit
  port : Fin 72
  direct : Bool
  fails : Tbl Nat := []
  lanes : BitVec 16
  deriving DecidableEq, Repr

/-- One peer of a port: the sender's next sequence number and replay buffer, the receiver's next expected one, whether
the direct path is marked down (15 R374). -/
structure Peer where
  next : BitVec 24 := 0
  replay : List Sent := []
  expect : BitVec 24 := 0
  down : Bool := false
  deriving DecidableEq, Repr

/-- A replay that a loss of light caused: the pair, its first and last sequence, its flits (15 R377). -/
structure LossReplay where
  pair : Fin 72
  dst : BitVec 10
  first : BitVec 24
  last : BitVec 24
  count : Nat
  deriving DecidableEq, Repr

/-- A loss of light that has still to be reported: module, wavelengths, its first replay once that has begun (15 R377). -/
structure Loss where
  lm : Fin 4
  mask : BitVec 16
  replay : Option LossReplay := none
  deriving DecidableEq, Repr

/-- A multicast packet that lands at this device: the lines that have still to land, by context; none until the windows
that accept it could be read (09 R276, 14 R347). -/
structure HeldCopy where
  origin : BitVec 10
  /-- The command of the origin that sent it. -/
  cmd : Nat
  group : BitVec 8
  ctx : Fin 64
  off : Nat
  data : List Byte
  lines : Option (List RemoteWrite) := none
  deriving DecidableEq, Repr

/-- An Etesian port (09 R285, 15 R374 to R377). -/
structure Port where
  table_ : Tbl (Option (BitVec 10)) := []
  /-- The device met in the current slot and whether the port may send in it. -/
  met : Option (BitVec 10) := none
  disagree : Bool := false
  live : BitVec 16 := 0xFFFF
  parked : BitVec 16 := 0
  lost : BitVec 4 := 0
  waking : BitVec 16 := 0
  idleNs : W64 := 50000
  threshold : W64 := 0
  idleSince : W64 := 0
  /-- Flits that wait to leave, each with its next hop. -/
  sendq : List (BitVec 10 × Flit) := []
  peers : Tbl Peer := []
  keys : Tbl (Option (BitVec 256)) := []
  sendKey : Fin 4 := 0
  /-- Keys that the sender has left, and whether the other ends have dropped them (R375). -/
  oldKeys : List (Fin 4 × Bool) := []
  losses : List Loss := []
  /-- A set-change beat that goes out before the next flit: the old set of wavelengths and the new one (R376). -/
  change : Option (BitVec 16 × BitVec 16) := none
  /-- The send queue has no room for a new write (09 R286; an input, log 47). -/
  full : Bool := false
  deriving DecidableEq, Repr

/-- A multicast group entry (09 R291). -/
structure McGroup where
  members : List (BitVec 10) := []
  version : BitVec 8 := 0
  /-- The version before, until every packet that carries it has been replicated. -/
  old : Option (BitVec 8 × List (BitVec 10)) := none
  deriving DecidableEq, Repr

/-- The event ring (15 R356). -/
structure EvRing where
  base : W64
  entries : Nat
  vector : W64
  deriving DecidableEq, Repr

/-- Where a translation is held (14 R339). -/
inductive XPlace where
  | core (die : Fin 16) (core : Fin 128)
  | copy (die : Fin 16) (n : Fin 8)
  | sye (die : Fin 16)
  | zither (z : Fin 8)
  deriving DecidableEq, Repr

/-- A held translation: context, first byte of the page, its size code, its entry (14 R339). -/
structure Held where
  place : XPlace
  ctx : Fin 64
  page : Nat
  size : Nat
  pte : W64
  deriving DecidableEq, Repr

/-- A tuple of the error bag that a dispatcher deposits (11 R296): the context, the launch tuple, fields 1 and 5. -/
structure Report where
  ctx : Fin 64
  launch : Line
  node : Nat
  f5 : Nat
  deriving DecidableEq, Repr

/-- The module: every part of 01 R7 and what management and the host hold of it. -/
structure Module where
  phys : Memory := []
  host : Memory := []
  /-- What the host's last read of a tuple window returned (01 R27). -/
  hostData : W64 := 0
  poison : List Nat := []
  unitPoison : List Nat := []
  cores : Tbl Core := []
  clusters : Tbl Cluster := []
  dies : Tbl Die := []
  zithers : Tbl Zither := []
  ports : Tbl Port := []
  chains : Tbl Chain := []
  ccbs : Tbl (Tbl W64) := []
  ctxs : Tbl CtxDyn := []
  graphs : List Instance := []
  held : List Held := []
  relay : List (Fin 72 × Flit) := []
  /-- Remote writes, marker copies and multicast packets that have arrived and do not land yet (09 R276, R289, 07 R386). -/
  heldWrites : List RemoteWrite := []
  heldMarkers : List Marker := []
  heldCopies : List HeldCopy := []
  /-- Devices whose relay buffers have no room, and in how many slots a device meets another, by 1024 times the one plus the
  other (09 R286; inputs, log 47). -/
  relayFull : List (BitVec 10) := []
  nextMatch : Tbl Nat := []
  mcast : Tbl McGroup := []
  device : BitVec 10 := 0
  mail : Mgmt := { w0 := 0, w1 := 0, w2 := 0, w3 := 0, w4 := 0 }
  /-- The status word of the mailbox (15 R356). -/
  busy : Bool := false
  result : Byte := 0
  ring : Option EvRing := none
  widx : W64 := 0
  ridx : W64 := 0
  evseq : BitVec 16 := 0
  /-- MSI-X vectors raised, newest first (15 R378). -/
  msix : List W64 := []
  /-- The module runs its verified firmware; otherwise it serves recovery functions only (14 R349). -/
  booted : Bool := false
  minVersion : Nat := 0
  /-- The digest of the root key in the fuses (14 R349); log 1. -/
  rootKey : BitVec 512 := 0
  /-- Firmware images measured by the last boot (14 R350). -/
  images : List FwImage := []
  /-- Within a cycle, the tuples that the dispatchers are to deposit behind the requests of its streams (08 R248). -/
  reports : Option (List Report) := none
  /-- Moments of readiness and of arrival, in order (11 R303). -/
  ticket : Nat := 0
  /-- The model's counter of free values (log 5). -/
  fresh : Nat := 0
  deriving DecidableEq, Repr

/-- What has become of the bundle in progress. -/
inductive Verdict where
  | go
  /-- It has issued and waits. -/
  | blocked
  /-- It does not issue yet. -/
  | unissued
  | trapped (t : Trap)
  deriving DecidableEq, Repr

/-- How the bundle in progress leaves its address (04 R136). -/
inductive Flow where
  | seq | jump | loop
  deriving DecidableEq, Repr

/-- What the ops of the bundle in progress have in common (02 R39, 04 R141, 05 R147). -/
structure Progress where
  flow : Flow := .seq
  popQlx : Bool := false
  popQxs : Bool := false
  fflg : BitVec 7 := 0
  jflg : BitVec 20 := 0
  scales : Option Scales := none
  writes : List (RegName × Nat) := []
  /-- The 32-bit elements that the writes renew, as a mask by register (15 R363). -/
  renewed : List (RegName × Nat) := []
  /-- What GETX read (04 R141). -/
  getx : W64 := 0
  deriving DecidableEq, Repr

/-- A hardware fault that no instruction causes, as an input (log 7). -/
inductive Upset where
  /-- The parity of a 32-bit element of a register fails (15 R363). -/
  | parity (w : Who) (r : RegName) (element : Nat)
  /-- A line of physical memory or of a unit scratchpad becomes uncorrectable (15 R365). -/
  | poison (line : Nat)
  | unitPoison (line : Nat)
  /-- The next runs of an array mismatch their checksums (06 R183). -/
  | checksum (die : Fin 16) (cluster : Fin 8) (runs : Nat)
  /-- A router's output stops or goes on sending (08 R233). -/
  | router (r : RouterId) (busy : Bool)
  /-- An error in a stream's control state, in a chain's sequencer, or in the oldest entry of a queue (15 R364). -/
  | soft (w : Who)
  | softChain (c : ChainId)
  | entry (die : Fin 16) (core : Fin 128) (q : QName)
  /-- What other devices do: a port's send queue has room or not, a device's relay buffer has or not, a device meets another
  in so many slots (09 R286), the other ends of a port have dropped an old key (15 R375). -/
  | portFull (q : Fin 72) (full : Bool)
  | relayFull (d : BitVec 10) (full : Bool)
  | nextMatch (d e : BitVec 10) (slots : Nat)
  | keyDone (q : Fin 72) (k : Fin 4)
  deriving DecidableEq, Repr

/-- What moves next (log 3): a stream issues, a chain's sequencer takes its next record, a step of the table
happens, time passes, the host writes the mailbox, which is also served while a command in it waits, its memory or a tuple
window, or reads one, a hardware fault strikes, or several of these fall into one cycle. -/
inductive Turn where
  | stream (w : Who)
  | chain (c : ChainId)
  | step (i : Instr)
  | time (cycles : Nat)
  | mail (w : Mgmt)
  | mailServe
  | hostMem (addr : Nat) (bytes : List Byte)
  /-- The host writes and reads eight bytes of a context's tuple window (01 R27). -/
  | hostWindow (ctx : Fin 64) (off : BitVec 16) (v : W64)
  | hostRead (ctx : Fin 64) (off : BitVec 16)
  /-- A multicast packet that waits goes on landing (09 R276). -/
  | copyLand (n : Nat)
  /-- The overflow path writes a race record of a context (07 R205). -/
  | raceRecord (ctx : Fin 64)
  /-- The pager of a die demotes a page to CXL or flash (14 R341). -/
  | demote (die : Fin 16) (ctx : Fin 64) (addr : DevAddr) (tier : Nat)
  /-- Streams, engine commands and events whose requests arrive in one cycle (07 R206, 08 R234, R248). -/
  | cycle (ws : List Who) (cs : List ChainId) (steps : List Instr)
  | upset (u : Upset)
  deriving DecidableEq, Repr

/-- The state: the module, the module as it stood when the bundle in progress issued, whose bundle or chain
that is, what has become of it, and the agenda. -/
structure State where
  m : Module := {}
  pre : Option Module := none
  cur : Who := { die := 0, core := 0, stream := .x }
  chain : ChainId := .job 0 0 0
  verdict : Verdict := .go
  bnd : Progress := {}
  agenda : List Turn := []
  deriving DecidableEq, Repr

/-- Why the machine stops. No instruction of this model raises one: every trap of the spec is taken, and
every other stop of the spec is a state of a stream or a chain. -/
inductive Fault where
  /-- Raised by nothing; kept because the interface has the type. Safe. -/
  | stuck
  deriving DecidableEq, Repr

/-- Why an instruction has no meaning. -/
inductive Refusal where
  /-- Raised by a dispatch arm whose instruction has no meaning yet. Safe: the run ends. -/
  | notModelled (mnemonic : String)
  deriving DecidableEq, Repr

/-- The module right after reset: die reset (07 R200) and management reset values (14 R330), nothing resident,
nothing placed, memory with nothing listed (log 1, log 2). -/
def Module.reset : Module := {}

/-- The machine right after reset: no bundle in progress, an empty agenda (log 3, log 4). -/
def State.reset : State := { m := Module.reset }

end Sys2Proof.Machine
end

