-- ==== Sys2Proof/Machine/Float.lean ====
section
/-! DEFINITION. The IEEE formats, exact dyadic values and the single rounding (03 R78 to R83), with the
element-wise float operations of 04 R110 to R113 on bit patterns. -/

namespace Sys2Proof.Machine

/-- Sticky flags in the order of fflg (02 R56). -/
abbrev Flags := BitVec 7

def fNX : Flags := 1
def fUF : Flags := 2
def fOF : Flags := 4
def fDZ : Flags := 8
def fNV : Flags := 16
def fSAT : Flags := 32
def fBAD : Flags := 64

/-- A binary format: exponent and fraction widths (03 R78). -/
structure FFmt where
  ebits : Nat
  fbits : Nat
  deriving DecidableEq, Repr

def FFmt.f32 : FFmt := ⟨8, 23⟩
def FFmt.bf16 : FFmt := ⟨8, 7⟩
def FFmt.f16 : FFmt := ⟨5, 10⟩

/-- The format of a float type; f32 for any other. -/
def fmtOf : Ty → FFmt
  | .bf16 => .bf16
  | .f16 => .f16
  | _ => .f32

def FFmt.bias (f : FFmt) : Nat := 2 ^ (f.ebits - 1) - 1
def FFmt.width (f : FFmt) : Nat := 1 + f.ebits + f.fbits
/-- Exponent of the smallest normal. -/
def FFmt.emin (f : FFmt) : Int := 1 - (f.bias : Int)
def FFmt.signBit (f : FFmt) (neg : Bool) : Nat := if neg then 2 ^ (f.ebits + f.fbits) else 0
def FFmt.inf (f : FFmt) (neg : Bool) : Nat := f.signBit neg + (2 ^ f.ebits - 1) * 2 ^ f.fbits
def FFmt.qnan (f : FFmt) : Nat := (2 ^ f.ebits - 1) * 2 ^ f.fbits + 2 ^ (f.fbits - 1)
def FFmt.maxFin (f : FFmt) (neg : Bool) : Nat := f.inf neg - 1
def FFmt.zero (f : FFmt) (neg : Bool) : Nat := f.signBit neg

/-- The value `m × 2^e`. -/
structure Dy where
  m : Int
  e : Int
  deriving DecidableEq, Repr

def Dy.neg (x : Dy) : Dy := ⟨-x.m, x.e⟩
def Dy.mul (x y : Dy) : Dy := ⟨x.m * y.m, x.e + y.e⟩
/-- Both operands at the smaller exponent. -/
def Dy.align (x y : Dy) : Int × Int × Int :=
  if x.e ≤ y.e then (x.m, y.m * (2 ^ (y.e - x.e).toNat : Nat), x.e)
  else (x.m * (2 ^ (x.e - y.e).toNat : Nat), y.m, y.e)
def Dy.add (x y : Dy) : Dy :=
  let (a, b, e) := Dy.align x y
  ⟨a + b, e⟩
def Dy.sub (x y : Dy) : Dy := Dy.add x (Dy.neg y)
def Dy.lt (x y : Dy) : Bool :=
  let (a, b, _) := Dy.align x y
  decide (a < b)
def Dy.le (x y : Dy) : Bool := !Dy.lt y x
def Dy.eq (x y : Dy) : Bool :=
  let (a, b, _) := Dy.align x y
  decide (a = b)
def Dy.zero : Dy := ⟨0, 0⟩
def Dy.ofInt (n : Int) : Dy := ⟨n, 0⟩

/-- The value of a bit pattern. -/
inductive FVal where
  | nan (signalling : Bool)
  | inf (neg : Bool)
  | zero (neg : Bool)
  | fin (v : Dy)
  deriving DecidableEq, Repr

/-- Read a bit pattern (03 R78). -/
def unpack (f : FFmt) (w : Nat) : FVal :=
  let neg := bitAt w (f.ebits + f.fbits)
  let ex := fld w f.fbits f.ebits
  let fr := fld w 0 f.fbits
  let sg := fun (n : Nat) => if neg then -(n : Int) else (n : Int)
  if ex = 2 ^ f.ebits - 1 then
    if fr = 0 then .inf neg else .nan (!bitAt w (f.fbits - 1))
  else if ex = 0 then
    if fr = 0 then .zero neg else .fin ⟨sg fr, f.emin - f.fbits⟩
  else .fin ⟨sg (2 ^ f.fbits + fr), (ex : Int) - f.bias - f.fbits⟩

def FVal.isNan : FVal → Bool
  | .nan _ => true
  | _ => false
def FVal.isSnan : FVal → Bool
  | .nan s => s
  | _ => false
def FVal.isInf : FVal → Bool
  | .inf _ => true
  | _ => false
def FVal.neg : FVal → Bool
  | .nan _ => false
  | .inf n => n
  | .zero n => n
  | .fin v => decide (v.m < 0)
/-- The value of a finite pattern, 0 for the others. -/
def FVal.dy : FVal → Dy
  | .fin v => v
  | _ => Dy.zero

/-- NV when an operand is a signalling NaN (03 R80). -/
def nvS (xs : List FVal) : Flags := if xs.any FVal.isSnan then fNV else 0

/-- Whether a rounding in `mode` (02 R57) goes away from zero, given the sign, the integer part, and
twice the remainder compared with the divisor. -/
def roundsUp (mode : Nat) (neg : Bool) (q r d : Nat) : Bool :=
  match mode with
  | 0 => decide (d < 2 * r) || (decide (2 * r = d) && q % 2 == 1)
  | 1 => false
  | 2 => !neg && decide (r ≠ 0)
  | _ => neg && decide (r ≠ 0)

/-- Round the non-zero value ± `num / den × 2^e` once to a format (03 R79, R81): bits and flags. -/
def rndMag (f : FFmt) (mode : Nat) (neg : Bool) (num den : Nat) (e : Int) : Nat × Flags :=
  -- the exponent of the leading bit
  let l : Int := (Nat.log2 num : Int) - Nat.log2 den
  let ge := if 0 ≤ l then decide (den * 2 ^ l.toNat ≤ num) else decide (den ≤ num * 2 ^ (-l).toNat)
  let ex := (if ge then l else l - 1) + e
  let q := (if ex < f.emin then f.emin else ex) - f.fbits
  let sh := e - q
  let n := if 0 ≤ sh then num * 2 ^ sh.toNat else num
  let d := if 0 ≤ sh then den else den * 2 ^ (-sh).toNat
  let r0 := n / d
  let rem := n % d
  let r1 := if roundsUp mode neg r0 rem d then r0 + 1 else r0
  let carry := decide (2 ^ (f.fbits + 1) ≤ r1)
  let r := if carry then r1 / 2 else r1
  let q := if carry then q + 1 else q
  let nx := if rem = 0 then (0 : Flags) else fNX
  if r < 2 ^ f.fbits then
    (f.signBit neg + r, if rem = 0 then 0 else fUF ||| fNX)
  else
    let be := q + f.fbits + f.bias
    if 2 ^ f.ebits - 1 ≤ be.toNat then
      let toInf := match mode with
        | 0 => true
        | 1 => false
        | 2 => !neg
        | _ => neg
      (if toInf then f.inf neg else f.maxFin neg, fOF ||| fNX)
    else (f.signBit neg + be.toNat * 2 ^ f.fbits + (r - 2 ^ f.fbits), nx)

/-- Round an exact dyadic value; an exact zero takes the sign `zneg`. -/
def rndDyZ (f : FFmt) (mode : Nat) (zneg : Bool) (v : Dy) : Nat × Flags :=
  if v.m = 0 then (f.zero zneg, 0) else rndMag f mode (decide (v.m < 0)) v.m.natAbs 1 v.e

/-- Round an exact dyadic value; an exact zero is +0, or -0 toward minus infinity (03 R81, 05 R159). -/
def rndDy (f : FFmt) (mode : Nat) (v : Dy) : Nat × Flags := rndDyZ f mode (mode == 3) v

/-- Round the exact quotient `x / y` of non-zero `y`. -/
def rndQuot (f : FFmt) (mode : Nat) (zneg : Bool) (x y : Dy) : Nat × Flags :=
  if x.m = 0 then (f.zero zneg, 0)
  else rndMag f mode (decide (x.m < 0) != decide (y.m < 0)) x.m.natAbs y.m.natAbs (x.e - y.e)

/-- The canonical NaN with NV (03 R80). -/
def invalid (f : FFmt) : Nat × Flags := (f.qnan, fNV)

/-- a + b rounded once (04 R110). -/
def addV (f : FFmt) (mode : Nat) (a b : FVal) : Nat × Flags :=
  match a, b with
  | .nan _, _ | _, .nan _ => (f.qnan, nvS [a, b])
  | .inf x, .inf y => if x = y then (f.inf x, 0) else invalid f
  | .inf x, _ => (f.inf x, 0)
  | _, .inf y => (f.inf y, 0)
  | .zero x, .zero y => (f.zero (if x = y then x else mode == 3), 0)
  | a, b => rndDy f mode (Dy.add a.dy b.dy)

/-- The value with its sign inverted. -/
def negV : FVal → FVal
  | .nan s => .nan s
  | .inf n => .inf !n
  | .zero n => .zero !n
  | .fin v => .fin (Dy.neg v)

/-- a × b rounded once. -/
def mulV (f : FFmt) (mode : Nat) (a b : FVal) : Nat × Flags :=
  let sg := a.neg != b.neg
  match a, b with
  | .nan _, _ | _, .nan _ => (f.qnan, nvS [a, b])
  | .inf _, .zero _ | .zero _, .inf _ => invalid f
  | .inf _, _ | _, .inf _ => (f.inf sg, 0)
  | .zero _, _ | _, .zero _ => (f.zero sg, 0)
  | a, b => rndDyZ f mode sg (Dy.mul a.dy b.dy)

/-- a × b + c, the exact value rounded once; 0 × ∞ is invalid even beside a quiet NaN c (04 R110). -/
def fmaV (f : FFmt) (mode : Nat) (a b c : FVal) : Nat × Flags :=
  let sg := a.neg != b.neg
  let bad := match a, b with
    | .inf _, .zero _ | .zero _, .inf _ => true
    | _, _ => false
  if bad then invalid f
  else if a.isNan || b.isNan || c.isNan then (f.qnan, nvS [a, b, c])
  else if a.isInf || b.isInf then addV f mode (.inf sg) c
  else
    let p := Dy.mul a.dy b.dy
    if p.m = 0 then addV f mode (.zero sg) c
    else match c with
      | .inf n => (f.inf n, 0)
      | c => rndDy f mode (Dy.add p c.dy)

/-- a ÷ b rounded once (03 R80, R81). -/
def divV (f : FFmt) (mode : Nat) (a b : FVal) : Nat × Flags :=
  let sg := a.neg != b.neg
  match a, b with
  | .nan _, _ | _, .nan _ => (f.qnan, nvS [a, b])
  | .inf _, .inf _ | .zero _, .zero _ => invalid f
  | .inf _, _ => (f.inf sg, 0)
  | _, .inf _ => (f.zero sg, 0)
  | .zero _, _ => (f.zero sg, 0)
  | _, .zero _ => (f.inf sg, fDZ)
  | a, b => rndQuot f mode sg a.dy b.dy

/-- Ordered comparison of two values that are no NaN: less, with −0 below +0 when `zeros` is set. -/
def ltV (zeros : Bool) (a b : FVal) : Bool :=
  match a, b with
  | .inf x, .inf y => x && !y
  | .inf x, _ => x
  | _, .inf y => !y
  | .zero x, .zero y => zeros && x && !y
  | a, b => Dy.lt a.dy b.dy

/-- The bits of a value in a format that can hold it; NaNs become canonical. -/
def packV (f : FFmt) : FVal → Nat
  | .nan _ => f.qnan
  | .inf n => f.inf n
  | .zero n => f.zero n
  | .fin v => (rndDy f 0 v).1

/-- FMIN and FMAX on bit patterns (04 R111): which operand, if one is returned. -/
inductive Pick where
  | a | b | nan
  deriving DecidableEq, Repr

def pickMM (max : Bool) (a b : FVal) : Pick :=
  if a.isNan && b.isNan then .nan
  else if a.isNan then .b
  else if b.isNan then .a
  else if max then (if ltV true a b then .b else .a)
  else (if ltV true b a then .b else .a)

def minmaxB (f : FFmt) (max : Bool) (a b : Nat) : Nat × Flags :=
  let x := unpack f a
  let y := unpack f b
  (match pickMM max x y with
   | .a => a
   | .b => b
   | .nan => f.qnan, nvS [x, y])

/-- The sign of the zero that an exact sum of two values comes to (03 R81). -/
def zeroSum (mode : Nat) (a b : FVal) : Bool :=
  match a, b with
  | .zero x, .zero y => if x = y then x else mode == 3
  | _, _ => mode == 3

/-- FLRP: a + t × (b − a) rounded once (04 R112); a zero takes its sign as the sum and the product give it. -/
def lrpV (f : FFmt) (mode : Nat) (a b t : FVal) : Nat × Flags :=
  if a.isNan || b.isNan || t.isNan then (f.qnan, nvS [a, b, t])
  else
    let dInf := a.isInf || b.isInf
    if a.isInf && b.isInf && a.neg == b.neg then invalid f
    else
      let dNeg := if b.isInf then b.neg else !a.neg
      match t with
      | .zero _ => if dInf then invalid f else (packV f a, 0)
      | .fin v =>
        if Dy.eq v (Dy.ofInt 1) then (packV f b, 0)
        else if dInf then addV f mode a (.inf (dNeg != t.neg))
        else
          let d := Dy.sub b.dy a.dy
          let p : FVal := if d.m = 0 then .zero (zeroSum mode b (negV a) != decide (v.m < 0)) else .fin (Dy.mul v d)
          rndDyZ f mode (zeroSum mode a p) (Dy.add a.dy p.dy)
      | .inf tn =>
        if dInf then addV f mode a (.inf (dNeg != tn))
        else
          let d := Dy.sub b.dy a.dy
          if d.m = 0 then invalid f else (f.inf (tn != decide (d.m < 0)), 0)
      | .nan _ => invalid f

/-- A value rounded to an integer in a mode (05 R145), with whether it was exact. -/
def toInt (mode : Nat) (v : Dy) : Int × Bool :=
  if 0 ≤ v.e then (v.m * (2 ^ v.e.toNat : Nat), true)
  else
    let d : Nat := 2 ^ (-v.e).toNat
    let n := v.m.natAbs
    let neg := decide (v.m < 0)
    let q := n / d
    let r := n % d
    let q := if roundsUp mode neg q r d then q + 1 else q
    (if neg then -(q : Int) else q, decide (r = 0))

/-- The integer square root of `n`, from `bits` bit positions. -/
def sqrtN (n : Nat) : Nat → Nat → Nat
  | 0, acc => acc
  | k + 1, acc =>
    let t := acc + 2 ^ k
    sqrtN n k (if t * t ≤ n then t else acc)

/-- √v of a positive dyadic value as a numerator over 2^-e, with a sticky low bit when inexact. -/
def sqrtDy (v : Dy) : Nat × Int :=
  let m := v.m.natAbs
  let sh : Nat := 80 + (if v.e % 2 = 0 then 0 else 1)
  let n := m * 2 ^ sh
  let s := sqrtN n ((Nat.log2 n) / 2 + 1) 0
  (2 * s + (if s * s = n then 0 else 1), (v.e - sh) / 2 - 1)

/-- Square root, correctly rounded (03 R80, 05 R154). -/
def sqrtV (f : FFmt) (mode : Nat) (a : FVal) : Nat × Flags :=
  match a with
  | .nan s => (f.qnan, if s then fNV else 0)
  | .zero n => (f.zero n, 0)
  | .inf false => (f.inf false, 0)
  | .inf true => invalid f
  | .fin v =>
    if v.m < 0 then invalid f
    else
      let (n, e) := sqrtDy v
      rndMag f mode false n 1 e

/-- Convert between formats, rounded once (05 R144). -/
def cvtB (s t : FFmt) (mode : Nat) (w : Nat) : Nat × Flags :=
  match unpack s w with
  | .nan sn => (t.qnan, if sn then fNV else 0)
  | .inf n => (t.inf n, 0)
  | .zero n => (t.zero n, 0)
  | .fin v => rndDy t mode v

/-- Binary operations on bit patterns of one format. -/
def faddB (f : FFmt) (mode a b : Nat) : Nat × Flags := addV f mode (unpack f a) (unpack f b)
def fsubB (f : FFmt) (mode a b : Nat) : Nat × Flags := addV f mode (unpack f a) (negV (unpack f b))
def fmulB (f : FFmt) (mode a b : Nat) : Nat × Flags := mulV f mode (unpack f a) (unpack f b)
def fdivB (f : FFmt) (mode a b : Nat) : Nat × Flags := divV f mode (unpack f a) (unpack f b)
def fmaB (f : FFmt) (mode a b c : Nat) : Nat × Flags := fmaV f mode (unpack f a) (unpack f b) (unpack f c)

/-- FABS, FNEG and FMOV (04 R112). -/
def fabsB (f : FFmt) (a : Nat) : Nat × Flags :=
  match unpack f a with
  | .nan s => (f.qnan, if s then fNV else 0)
  | _ => (fld a 0 (f.ebits + f.fbits), 0)
def fnegB (f : FFmt) (a : Nat) : Nat × Flags :=
  match unpack f a with
  | .nan s => (f.qnan, if s then fNV else 0)
  | v => (f.signBit (!v.neg) + fld a 0 (f.ebits + f.fbits), 0)
def fmovB (f : FFmt) (a : Nat) : Nat × Flags :=
  match unpack f a with
  | .nan s => (f.qnan, if s then fNV else 0)
  | _ => (a, 0)

/-- FSCL: a × 2^n rounded once (04 R112). -/
def fsclB (f : FFmt) (mode a : Nat) (n : Int) : Nat × Flags :=
  match unpack f a with
  | .nan s => (f.qnan, if s then fNV else 0)
  | .fin v => rndDy f mode ⟨v.m, v.e + n⟩
  | _ => (a, 0)

/-- FCLP: FMAX(lo, FMIN(a, hi)), a NaN a giving the canonical NaN (04 R112). -/
def fclpB (f : FFmt) (a lo hi : Nat) : Nat × Flags :=
  let fl := nvS [unpack f a, unpack f lo, unpack f hi]
  if (unpack f a).isNan then (f.qnan, fl)
  else ((minmaxB f true lo (minmaxB f false a hi).1).1, fl)

def flrpB (f : FFmt) (mode a b t : Nat) : Nat × Flags :=
  lrpV f mode (unpack f a) (unpack f b) (unpack f t)

/-- FCMP's condition codes (04 R113). -/
def fcmpB (f : FFmt) (cond a b : Nat) : Bool × Flags :=
  let x := unpack f a
  let y := unpack f b
  let un := x.isNan || y.isNan
  let eq := !un && !ltV false x y && !ltV false y x
  let lt := !un && ltV false x y
  let gt := !un && ltV false y x
  let nvAny : Flags := if un then fNV else 0
  match cond with
  | 0 => (eq, nvS [x, y])
  | 1 => (!eq, nvS [x, y])
  | 2 => (lt, nvAny)
  | 3 => (lt || eq, nvAny)
  | 4 => (gt, nvAny)
  | 5 => (gt || eq, nvAny)
  | _ => (un, nvS [x, y])

end Sys2Proof.Machine
end

