-- ==== Sys2Proof/Machine/Access.lean ====
section
/-! DEFINITION. Accessors: every read and update of a part of the module goes through one of these. -/

namespace Sys2Proof.Machine

/-- The number of a core in the module's table. -/
def coreKey (d : Fin 16) (c : Fin 128) : Nat := d.val * 128 + c.val
/-- The number of a cluster in the module's table. -/
def clusterKey (d : Fin 16) (k : Fin 8) : Nat := d.val * 8 + k.val

/-- The cluster of a core (01 R11). -/
def clusterOf (c : Fin 128) : Fin 8 := ⟨c.val / 16, by have := c.isLt; omega⟩

/-- The number of a chain in the module's table. -/
def chainKey : ChainId → Nat
  | .job d c s => (d.val * 128 + c.val) * 16 + s.val
  | .node d x g n => 32768 + d.val + 16 * (x.val + 64 * (n.toNat + 65536 * g.toNat))

namespace Module

def core (m : Module) (d : Fin 16) (c : Fin 128) : Core := Tbl.get {} m.cores (coreKey d c)
def setCore (m : Module) (d : Fin 16) (c : Fin 128) (x : Core) : Module :=
  { m with cores := Tbl.set {} m.cores (coreKey d c) x }
def modCore (m : Module) (d : Fin 16) (c : Fin 128) (f : Core → Core) : Module := m.setCore d c (f (m.core d c))

def die (m : Module) (d : Fin 16) : Die := Tbl.get {} m.dies d.val
def setDie (m : Module) (d : Fin 16) (x : Die) : Module := { m with dies := Tbl.set {} m.dies d.val x }
def modDie (m : Module) (d : Fin 16) (f : Die → Die) : Module := m.setDie d (f (m.die d))

def cluster (m : Module) (d : Fin 16) (k : Fin 8) : Cluster := Tbl.get {} m.clusters (clusterKey d k)
def setCluster (m : Module) (d : Fin 16) (k : Fin 8) (x : Cluster) : Module :=
  { m with clusters := Tbl.set {} m.clusters (clusterKey d k) x }
def modCluster (m : Module) (d : Fin 16) (k : Fin 8) (f : Cluster → Cluster) : Module :=
  m.setCluster d k (f (m.cluster d k))

def router (m : Module) : RouterId → Router
  | .cluster d k => (m.cluster d k).router
  | .later d => (m.die d).later
def setRouter (m : Module) (r : RouterId) (x : Router) : Module :=
  match r with
  | .cluster d k => m.modCluster d k fun y => { y with router := x }
  | .later d => m.modDie d fun y => { y with later := x }
def modRouter (m : Module) (r : RouterId) (f : Router → Router) : Module := m.setRouter r (f (m.router r))

/-- The routers that hold requests of some stream: every cluster's, and those on the way to every die. -/
def routers (m : Module) : List RouterId :=
  (Tbl.keys m.clusters).map (fun k => .cluster (Fin.ofNat 16 (k / 8)) (Fin.ofNat 8 k)) ++
    (List.finRange 16).map RouterId.later

/-- The atomic requests that no home engine has applied yet. -/
def atomsPending (m : Module) : List AtomReq :=
  m.routers.flatMap fun r => (m.router r).arriving ++ (m.router r).queue.flatten

def zither (m : Module) (z : Nat) : Zither := Tbl.get {} m.zithers z
def setZither (m : Module) (z : Nat) (x : Zither) : Module := { m with zithers := Tbl.set {} m.zithers z x }

def port (m : Module) (p : Fin 72) : Port := Tbl.get {} m.ports p.val
def setPort (m : Module) (p : Fin 72) (x : Port) : Module := { m with ports := Tbl.set {} m.ports p.val x }

def ctx (m : Module) (c : Fin 64) : CtxDyn := Tbl.get {} m.ctxs c.val
def setCtx (m : Module) (c : Fin 64) (x : CtxDyn) : Module := { m with ctxs := Tbl.set {} m.ctxs c.val x }
def modCtx (m : Module) (c : Fin 64) (f : CtxDyn → CtxDyn) : Module := m.setCtx c (f (m.ctx c))

def chain (m : Module) (i : ChainId) : Chain := Tbl.get {} m.chains (chainKey i)
def setChain (m : Module) (i : ChainId) (x : Chain) : Module :=
  { m with chains := Tbl.set {} m.chains (chainKey i) x }
def modChain (m : Module) (i : ChainId) (f : Chain → Chain) : Module := m.setChain i (f (m.chain i))

def barrier (m : Module) (d : Fin 16) (s : Fin 256) : Barrier := Tbl.get {} (m.die d).slots s.val
def setBarrier (m : Module) (d : Fin 16) (s : Fin 256) (b : Barrier) : Module :=
  m.modDie d fun x => { x with slots := Tbl.set {} x.slots s.val b }

def group (m : Module) (d : Fin 16) (g : Nat) : Group := Tbl.get {} (m.die d).groups g
def setGroup (m : Module) (d : Fin 16) (g : Nat) (x : Group) : Module :=
  m.modDie d fun y => { y with groups := Tbl.set {} y.groups g x }

def buf (m : Module) (d : Fin 16) (o : Nat) : BufObj := Tbl.get {} (m.die d).bufs o
def setBuf (m : Module) (d : Fin 16) (o : Nat) (x : BufObj) : Module :=
  m.modDie d fun y => { y with bufs := Tbl.set {} y.bufs o x }

def slice (m : Module) (d : Fin 16) (k : Nat) : Slice := Tbl.get {} (m.die d).slices k
def setSlice (m : Module) (d : Fin 16) (k : Nat) (x : Slice) : Module :=
  m.modDie d fun y => { y with slices := Tbl.set {} y.slices k x }

end Module

namespace Core

def stream (c : Core) : StreamName → Stream
  | .l => c.l
  | .x => c.x
  | .s => c.st
def setStream (c : Core) (n : StreamName) (x : Stream) : Core :=
  match n with
  | .l => { c with l := x }
  | .x => { c with x := x }
  | .s => { c with st := x }

end Core

namespace Module

def strm (m : Module) (w : Who) : Stream := (m.core w.die w.core).stream w.stream
def setStrm (m : Module) (w : Who) (x : Stream) : Module :=
  m.modCore w.die w.core fun c => c.setStream w.stream x
def modStrm (m : Module) (w : Who) (f : Stream → Stream) : Module := m.setStrm w (f (m.strm w))

end Module

namespace State

/-- The module as the bundle in progress reads it: as it stood at issue (02 R38, R39). -/
def src (s : State) : Module := s.pre.getD s.m
/-- The core and stream of the bundle in progress, as read and as being written. -/
def srcCore (s : State) : Core := s.src.core s.cur.die s.cur.core
def srcStrm (s : State) : Stream := s.src.strm s.cur
def core (s : State) : Core := s.m.core s.cur.die s.cur.core
def strm (s : State) : Stream := s.m.strm s.cur
def modCore (s : State) (f : Core → Core) : State := { s with m := s.m.modCore s.cur.die s.cur.core f }
def modStrm (s : State) (f : Stream → Stream) : State := { s with m := s.m.modStrm s.cur f }
def modM (s : State) (f : Module → Module) : State := { s with m := f s.m }

end State

/-- The streams of a core in the order L, X, S. -/
def StreamName.all : List StreamName := [.l, .x, .s]
def streamNo : StreamName → Nat
  | .l => 0
  | .x => 1
  | .s => 2

/-- strid (02 R58); bits 15:0 are the requester stream number. -/
def stridOf (w : Who) : Nat :=
  w.die.val * 2 ^ 12 + w.core.val / 16 * 2 ^ 9 + w.core.val * 4 + streamNo w.stream

/-- A CCB's reset value: ceiling 7, drain limit 25,000 ns (14 R330). -/
def ccbReset : Tbl W64 := [(1, 0x700), (2, 25000)]

/-- Word `k` of a context's control block (14 R330). -/
def ccb (m : Module) (c : Fin 64) (k : Nat) : Nat := (Tbl.get 0 (Tbl.get ccbReset m.ccbs c.val) k).toNat
/-- The bits of word `k` that R330 defines; a write ignores the others (00 R4). -/
def ccbBits (k : Nat) : W64 :=
  match k with
  | 0 => 0x0000FFFFFFFFF000 | 1 => 0xC0000000FFFFF73F | 2 => 0x01FF1FFFFFFFFFFF | 3 => 0xFFFFFFFFFFFFFFFF
  | 4 | 5 | 6 | 7 | 8 => 0x01FFFFFFFFFFFFFF
  | 9 => 0x000007FFFFFFFFFF | 10 => 0x0000003FFFFFFFFF | 11 => 0x00000003FFFFFFFF
  | k => if k < 20 then 0xFFFFFFFFFFFFFFFF else 0
def setCcb (m : Module) (c : Fin 64) (k : Nat) (v : W64) : Module :=
  { m with ccbs := Tbl.set ccbReset m.ccbs c.val (Tbl.set 0 (Tbl.get ccbReset m.ccbs c.val) k (v &&& ccbBits k)) }

def ctxValid (m : Module) (c : Fin 64) : Bool := bitAt (ccb m c 1) 63
def ctxSelfmap (m : Module) (c : Fin 64) : Bool := bitAt (ccb m c 1) 62
def ctxTuple (m : Module) (c : Fin 64) : Nat := fld (ccb m c 1) 16 16
def ctxHome (m : Module) (c : Fin 64) : Fin 16 := Fin.ofNat 16 (fld (ccb m c 1) 12 4)
def ctxCeiling (m : Module) (c : Fin 64) : Nat := fld (ccb m c 1) 8 3
def ctxTshare (m : Module) (c : Fin 64) : Nat := fld (ccb m c 2) 48 9
def ctxPshare (m : Module) (c : Fin 64) : Nat := fld (ccb m c 2) 32 13
def ctxDrain (m : Module) (c : Fin 64) : Nat := fld (ccb m c 2) 0 32
/-- Quotas in bytes. -/
def ctxRquota (m : Module) (c : Fin 64) : Nat := fld (ccb m c 3) 32 32 * 1024
def ctxSquota (m : Module) (c : Fin 64) : Nat := fld (ccb m c 3) 0 32 * 1024
def ctxDsize (m : Module) (c : Fin 64) : Nat := fld (ccb m c 9) 30 13 * 65536
def ctxDbase (m : Module) (c : Fin 64) : Nat := fld (ccb m c 9) 18 12 * 65536
def ctxCsize (m : Module) (c : Fin 64) : Nat := fld (ccb m c 9) 9 9 * 65536
def ctxCbase (m : Module) (c : Fin 64) : Nat := fld (ccb m c 9) 0 9 * 65536
def ctxGcount (m : Module) (c : Fin 64) : Nat := fld (ccb m c 10) 27 11
def ctxGbase (m : Module) (c : Fin 64) : Nat := fld (ccb m c 10) 17 10
def ctxBcount (m : Module) (c : Fin 64) : Nat := fld (ccb m c 10) 8 9
def ctxBbase (m : Module) (c : Fin 64) : Nat := fld (ccb m c 10) 0 8
def ctxOcount (m : Module) (c : Fin 64) : Nat := fld (ccb m c 11) 17 17
def ctxObase (m : Module) (c : Fin 64) : Nat := fld (ccb m c 11) 0 17
/-- The layer-use mask of stack `k` of the module (14 R330 words 12 to 19). -/
def ctxLayers (m : Module) (c : Fin 64) (k : Nat) : Nat := fld (ccb m c (12 + k / 4)) (16 * (k % 4)) 16

/-- Grants of synchronisation objects (14 R333). -/
def grantSlot (m : Module) (c : Fin 64) (s : Nat) : Bool :=
  decide (ctxBbase m c ≤ s) && decide (s < ctxBbase m c + ctxBcount m c)
def grantGroup (m : Module) (c : Fin 64) (g : Nat) : Bool :=
  decide (ctxGbase m c ≤ g) && decide (g < ctxGbase m c + ctxGcount m c)
/-- Indices from 0x1FFF0 upward are never granted (R333). -/
def grantBuf (m : Module) (c : Fin 64) (o : Nat) : Bool :=
  decide (ctxObase m c ≤ o) && decide (o < ctxObase m c + ctxOcount m c) && decide (o < 0x1FFF0)

/-- Whether a freeze holds a domain of a die (15 R365). -/
def isFrozen (m : Module) (d : Fin 16) (x : FreezeDomain) : Bool := (m.die d).freezes.any fun f => decide (f.1 = x)

/-- The context of the job on a core; context 0 where the core has none (no stream of it runs). -/
def Core.ctx (c : Core) : Fin 64 :=
  match c.job with
  | some j => j.ctx
  | none => 0

/-- A counter of free values and of tickets, read and advanced. -/
def Module.nextFresh (m : Module) : Nat × Module := (m.fresh, { m with fresh := m.fresh + 1 })
def Module.nextTicket (m : Module) : Nat × Module := (m.ticket, { m with ticket := m.ticket + 1 })

end Sys2Proof.Machine
end

