-- ==== Sys2Proof/Machine/Clock.lean ====
section
/-! DEFINITION. Clocks, views, tags and the race test (07 R193 to R207). -/

namespace Sys2Proof.Machine

/-- `x` at or before `y` as 16-bit counts (07 R202). -/
def atOrBefore (x y : BitVec 16) : Bool := decide ((y - x).toNat < 2 ^ 15)

/-- The later of two counts. -/
def later (x y : BitVec 16) : BitVec 16 := if atOrBefore x y then y else x

/-- A party's key in a clock (log 6). -/
def partyKey (d : Fin 16) (p : Nat) : Nat := d.val * 256 + p

def Clock.at (c : Clock) (k : Nat) : BitVec 16 := Tbl.get 0 c k

/-- The join of two clocks, entry by entry the later count (07 R193). An entry that has never been set takes the other's
(log 6). -/
def Clock.join (a b : Clock) : Clock :=
  b.foldl (fun acc e => Tbl.ins acc e.1 (match Tbl.find acc e.1 with
    | some x => later x e.2
    | none => e.2)) a

/-- The entries of one die, which are all that a core's clock of 144 entries holds (07 R200). -/
def Clock.ofDie (d : Fin 16) (c : Clock) : Clock := c.filter fun e => e.1 / 256 == d.val

/-- A core's own count, as its tag carries it. -/
def ownCount (m : Module) (d : Fin 16) (c : Fin 128) : BitVec 16 :=
  Clock.at (m.core d c).clk (partyKey d c.val)

/-- The clock that a release of the job on a core carries (07 R193 step 2); step 3 advances its own count. -/
def releaseClock (m : Module) (d : Fin 16) (c : Fin 128) : Clock := (m.core d c).clk
def afterRelease (m : Module) (d : Fin 16) (c : Fin 128) : Module :=
  m.modCore d c fun x =>
    { x with clk := Tbl.ins x.clk (partyKey d c.val) (Clock.at x.clk (partyKey d c.val) + 1) }

/-- An acquire joins a clock into the core's clock (07 R193). -/
def acquire (m : Module) (d : Fin 16) (c : Fin 128) (k : Clock) : Module :=
  m.modCore d c fun x => { x with clk := Clock.join x.clk (Clock.ofDie d k) }

/-- Entry `s` of a phase view, 0xFFFF until a phase has been observed (07 R200). -/
def viewPhase (v : Tbl (BitVec 16)) (s : Nat) : BitVec 16 := Tbl.get 0xFFFF v s

/-- Set V[s] of a core (07 R211, 08 R241). -/
def setView (m : Module) (d : Fin 16) (c : Fin 128) (s : Nat) (φ : BitVec 16) : Module :=
  m.modCore d c fun x => { x with phases := Tbl.set 0xFFFF x.phases s φ }

/-- Who performs an access, as the race test sees it (07 R203). -/
structure Actor where
  ctx : Fin 64
  die : Fin 16
  /-- The party number of a job or service stream. -/
  party : Option Nat
  clk : Clock
  phases : Tbl (BitVec 16)
  bufs : Tbl (Option W32)
  handles : Tbl W64
  stamps : List Tag
  /-- The tag its accesses leave. -/
  tag : Tag
  /-- Its clock and views order nothing: a posted remote write at its target (07 R214). -/
  blind : Bool := false

/-- A handle's valid bit, role, cursor and object (02 R61). -/
def hValid (h : Nat) : Bool := bitAt h 63 && decide (0x480 ≤ fld h 0 17)
def hConsumer (h : Nat) : Bool := bitAt h 19
def hCursor (h : Nat) : Nat := fld h 17 2
def hObject (h : Nat) : Nat := fld h 0 17

/-- The job on a core as an actor. -/
def jobActor (m : Module) (d : Fin 16) (c : Fin 128) : Actor :=
  let x := m.core d c
  { ctx := x.ctx, die := d, party := some c.val, clk := x.clk, phases := x.phases, bufs := x.bufs,
    handles := x.cb, stamps := [], tag := .party c.val (ownCount m d c) }

/-- The service stream of a slot, working for a context, as an actor (07 R187, 14 R341). -/
def serviceActor (m : Module) (d : Fin 16) (n : Nat) (c : Fin 64) : Actor :=
  let x := Tbl.get {} (m.die d).services n
  { ctx := c, die := d, party := some (128 + n), clk := x.clk, phases := x.phases, bufs := [], handles := [], stamps := []
    tag := .party (128 + n) (Clock.at x.clk (partyKey d (128 + n))) }

/-- A chain as an actor on an access that carries the barrier stamp, or a buffer stamp (07 R204). -/
def chainActor (k : Chain) (bufStamp : Option (Nat × W32)) : Actor :=
  let bs := Tag.bar k.slot.val (k.phase.setWidth 16)
  let t := match bufStamp with
    | some (o, v) => Tag.buf o (v.setWidth 16)
    | none => bs
  { ctx := k.ctx, die := k.die, party := none, clk := k.views.clk, phases := k.views.phases,
    bufs := k.views.bufs, handles := k.views.handles, stamps := [bs, t], tag := t }

/-- ordered(t, P) of 07 R203. -/
def ordered (p : Actor) : Tag → Bool
  | .party q c => decide (p.party = some q) || (!p.blind && atOrBefore c (Clock.at p.clk (partyKey p.die q)))
  | .bar s φ => p.stamps.contains (.bar s φ) || (!p.blind && atOrBefore φ (viewPhase p.phases s))
  | .buf b v =>
    p.stamps.any (fun t => match t with
      | .buf b' v' => decide (b = b') && atOrBefore v v'
      | _ => false) ||
    p.handles.any (fun h => hValid h.2.toNat && hObject h.2.toNat == b &&
      match Tbl.get none p.bufs h.1 with
      | some w => atOrBefore v (w.setWidth 16)
      | none => false)

/-- Why an access may not be performed: the race record of 15 R354, or the race-spill quota (07 R205). -/
inductive RaceStop where
  | race (line : Nat) (t : Tag) (write : Bool)
  | quota (line : Nat)
  deriving DecidableEq, Repr

/-- The bytes that a reader set of `n` tags holds in race records of 12 tags (07 R205). -/
def raceBytes (n : Nat) : Nat := (n + 11) / 12 * 64

/-- The die that holds a tracked line, from its physical address (14 R334). -/
def trackedDie (pa : Nat) : Fin 16 := Fin.ofNat 16 ((pa - 0x08000000_0000) / 0x10000000)

/-- The tag that one access leaves on a line, or why it races (07 R203). -/
def lineAccess (p : Actor) (line : Nat) (write : Bool) (t : LineTag) : Except RaceStop LineTag :=
  match t.wr.filter (fun w => !ordered p w) with
  | some w => .error (.race line w write)
  | none =>
    if write then
      match t.rd.find? (fun r => !ordered p r) with
      | some r => .error (.race line r write)
      | none => .ok { wr := some p.tag, rd := [], spill := false }
    else
      let rd := t.rd.filter (fun r => !ordered p r) ++ [p.tag]
      .ok { t with rd := rd, spill := t.spill || decide (2 < rd.length) }

/-- One access to the tracked line at physical line address `line`: the updated module, its race records charged
to the context and due to be written (07 R205). -/
def trackedAccess (m : Module) (p : Actor) (line : Nat) (write : Bool) : Except RaceStop Module :=
  let d := trackedDie line
  let t := Tbl.get {} (m.die d).tags (line / 64)
  match lineAccess p line write t with
  | .error e => .error e
  | .ok t' =>
    let old := if t.spill then raceBytes t.rd.length else 0
    let new := if t'.spill then raceBytes t'.rd.length else 0
    let used := (m.ctx p.ctx).race + new - old
    if old < new ∧ ctxRquota m p.ctx < used then .error (.quota line)
    else
      let m := m.modDie d fun x => { x with tags := Tbl.set {} x.tags (line / 64) t' }
      .ok (if t.spill || t'.spill then m.modCtx p.ctx fun c => { c with
          race := used, recordsDue := c.recordsDue + (if t'.spill then 1 else 0) }
        else m)

/-- All the lines of an access, tested and tagged in order; the first stop undoes everything (08 R226). -/
def trackedAll (m : Module) (p : Actor) (write : Bool) : List Nat → Except RaceStop Module
  | [] => .ok m
  | l :: ls =>
    match trackedAccess m p l write with
    | .error e => .error e
    | .ok m' => trackedAll m' p write ls

/-- Whether a die still holds a tag that a predicate picks. -/
def tagHeld (m : Module) (d : Fin 16) (f : Tag → Bool) : Bool :=
  (m.die d).tags.any fun e => (match e.2.wr with
    | some t => f t
    | none => false) || e.2.rd.any f

/-- A count moves so far from a tag that the tag must be retired first (07 R207). -/
def stale (new old : BitVec 16) : Bool := decide (2 ^ 15 ≤ (new - old).toNat)

/-- Whether a tag of a core's party would reach age 2^15 at its next release (07 R207). -/
def partyStale (m : Module) (d : Fin 16) (c : Fin 128) : Tag → Bool
  | .party p k => decide (p = c.val) && stale (ownCount m d c + 1) k
  | _ => false

/-- A release of a core's job stalls, a flip of a slot to a phase stalls, a publication of a version stalls, while a
tag that is left would reach age 2^15 (07 R207). -/
def releaseStalls (m : Module) (d : Fin 16) (c : Fin 128) : Bool := tagHeld m d (partyStale m d c)
def flipStalls (m : Module) (d : Fin 16) (s : Nat) (φ : BitVec 16) : Bool :=
  tagHeld m d fun t => match t with
    | .bar b k => decide (b = s) && stale φ k
    | _ => false
def publishStalls (m : Module) (d : Fin 16) (o : Nat) (v : BitVec 16) : Bool :=
  tagHeld m d fun t => match t with
    | .buf b k => decide (b = o) && stale v k
    | _ => false

/-- A tag as 36 bits (07 R201). -/
def tagBits : Tag → Nat
  | .party p c => 2 ^ 35 + p * 2 ^ 16 + c.toNat
  | .bar s c => 2 ^ 35 + 2 ^ 33 + s * 2 ^ 16 + c.toNat
  | .buf o c => 2 ^ 35 + 2 * 2 ^ 33 + o * 2 ^ 16 + c.toNat

/-- The tag an access carries, as 36 bits. -/
def Actor.tagBits (p : Actor) : Nat := Machine.tagBits p.tag

end Sys2Proof.Machine
end

