-- ==== Sys2Proof/Machine/Translate.lean ====
section
/-! DEFINITION. Physical memory, live banks and layer gating, and the walk (14 R334 to R346). -/

namespace Sys2Proof.Machine

/-- Bases of the physical map (14 R334). -/
def zitherBase : Nat := 0x040000000000
def scratchBase : Nat := 0x080000000000
def poolBase : Nat := 0x100000000000

/-- Whether a physical address lies in stacked DRAM, with die, stack, layer and layer offset (R334). -/
def stackedAt (pa : Nat) : Option (Nat × Nat × Nat × Nat) :=
  if pa < 0x20000000000 then
    some (pa / 0x2000000000, pa / 0x1000000000 % 2, pa / 0x100000000 % 16, pa % 0x100000000)
  else none

/-- Whether a physical address is a tracked line's: cluster and die scratchpads (07 R188, 14 R334). -/
def isScratch (pa : Nat) : Bool := decide (scratchBase ≤ pa) && decide (pa < scratchBase + 0x100000000)

/-- A bank that REMAP has taken out of its layer's interleave (14 R345). -/
def bankOut (x : Die) (s l b : Nat) : Bool :=
  x.retired.any fun r => r.remapped && r.stack.val == s && r.layer.val == l && r.bank.val == b

/-- A bank that is gated until REMAP: lost with its bus or retired by heat (14 R345). -/
def bankGated (x : Die) (s l b : Nat) : Bool :=
  x.retired.any fun r => !r.remapped && decide (r.cause ≠ .lasting) && r.stack.val == s && r.layer.val == l &&
    r.bank.val == b

/-- The banks that serve a layer's interleave, ascending (14 R343). -/
def layerBanks (x : Die) (s l : Nat) : List Nat := (List.range 32).filter fun b => !bankOut x s l b

/-- The bank and the offset within it that serve a layer offset, none beyond the capacity (14 R343). -/
def bankAt (x : Die) (s l o : Nat) : Option (Nat × Nat) :=
  let lb := layerBanks x s l
  let n := lb.length
  let u := o / 4096
  if n * 32768 ≤ u then none
  else some (lb.getD (u % n) 0, u / n * 4096 + o % 4096)

/-- Whether a bit of the bank map is set (14 R344, 15 R368; log 8). -/
def bankLive (x : Die) (s l b : Nat) : Bool := !bankOut x s l b && !bankGated x s l b

/-- Why an access cannot be performed. -/
inductive AccStop where
  /-- A trap code, its subcause, the address at fault, a poisoned stacked line. -/
  | fault (code sub addr : Nat) (line : Option Nat)
  | race (addr line : Nat) (t : Tag) (write : Bool)
  | quota (addr : Nat)
  /-- A migration holds the page (14 R341). -/
  | busy
  /-- The page lies on flash (14 R341). -/
  | tier (addr : Nat)
  deriving DecidableEq, Repr

/-- Cause of an access of a context to a physical address: code and subcause (14 R334, R343, R345, R346). -/
def physCheck (m : Module) (c : Fin 64) (pa : Nat) : Option (Nat × Nat) :=
  match stackedAt pa with
  | some (d, s, l, o) =>
    match bankAt (m.die (Fin.ofNat 16 d)) s l o with
    | none => some (5, 7)
    | some (b, _) =>
      if !bitAt (ctxLayers m c (2 * d + s)) l then some (7, 1)
      else if bankGated (m.die (Fin.ofNat 16 d)) s l b then some (7, 2)
      else none
  | none =>
    if (decide (zitherBase ≤ pa) && decide (pa < zitherBase + 0x20000000000)) || isScratch pa ||
       (decide (poolBase ≤ pa) && decide (pa < 0x400000000000))
    then none else some (5, 7)

/-- The die of a word's home synchronisation engine (08 R229). -/
def homeDie (pa : Nat) : Fin 16 :=
  if pa < zitherBase then Fin.ofNat 16 (pa / 0x2000000000)
  else if pa < scratchBase then Fin.ofNat 16 (2 * ((pa - zitherBase) / 0x4000000000))
  else if pa < poolBase then Fin.ofNat 16 ((pa - scratchBase) / 0x10000000)
  else if pa < 0x200000000000 then 3
  else if pa < 0x300000000000 then 12 else 0

/-- Whether a line of physical memory is poisoned (15 R365, R366). -/
def poisoned (m : Module) (pa : Nat) : Bool := m.poison.contains (pa / 64)

/-- The poisoned line that the array log of a stacked-DRAM read names. -/
def poisonLine (pa : Nat) : Option Nat := if (stackedAt pa).isSome then some (pa / 64) else none

/-- A walker's read of the table entry at a physical address, in tables that memory `t` holds. -/
def readEntry (m : Module) (t : Memory) (c : Fin 64) (addr pa : Nat) : Except AccStop Nat :=
  match physCheck m c pa with
  | some (code, sub) => .error (.fault code sub addr none)
  | none =>
    if poisoned m pa then .error (.fault 0x0F 0 addr (poisonLine pa))
    else .ok (Memory.read t pa 8)

/-- Fields of a page table entry (14 R336). -/
def pteValid (e : Nat) : Bool := bitAt e 0
def pteLeaf (e : Nat) : Bool := bitAt e 1
def pteW (e : Nat) : Bool := bitAt e 2
def pteX (e : Nat) : Bool := bitAt e 3
def pteSize (e : Nat) : Nat := fld e 4 4
def pteTier (e : Nat) : Nat := fld e 8 2
def pteBusy (e : Nat) : Bool := bitAt e 10
def pteFrame (e : Nat) : Nat := fld e 12 36 * 4096

/-- XLATE with a cause of 14 R338. -/
def xlate (cause addr : Nat) : AccStop := .fault 5 cause addr none

/-- The walk from level `l - 1` downward with the table at `base` (14 R335 to R338): the entry, the first
address of the page and its size code. -/
def walkFrom (m : Module) (t : Memory) (c : Fin 64) (addr : Nat) : Nat → Nat → Except AccStop (Nat × Nat × Nat)
  | 0, _ => .error (xlate 2 addr)
  | l + 1, base =>
    let i := fld addr (12 + 9 * l) 9
    match readEntry m t c addr (base + 8 * i) with
    | .error e => .error e
    | .ok e =>
      if !pteValid e then .error (xlate 1 addr)
      else if !pteLeaf e then
        if l = 0 then .error (xlate 2 addr)
        else if fld e 48 16 ≠ 0 ∨ bitAt e 11 ∨ pteBusy e ∨ pteTier e ≠ 0 ∨ pteSize e ≠ 0 ∨ pteX e ∨ pteW e then
          .error (xlate 4 addr)
        else walkFrom m t c addr l (pteFrame e)
      else if 2 ≤ l then .error (xlate 2 addr)
      else
        let s := pteSize e
        if (l = 1 ∧ s < 9) ∨ (l = 0 ∧ 8 < s) then .error (xlate 3 addr)
        else
          let span := 2 ^ (s % 9)
          match readEntry m t c addr (base + 8 * (i / span * span)) with
          | .error e => .error e
          | .ok e0 =>
            if !(pteValid e0 && pteLeaf e0 && pteSize e0 == s) then .error (xlate 3 addr)
            else if fld e0 48 16 ≠ 0 ∨ bitAt e0 11 ∨ pteFrame e0 % 2 ^ (12 + s) ≠ 0 ∨ pteTier e0 = 3 then
              .error (xlate 4 addr)
            else if pteBusy e0 then .error .busy
            else .ok (e0, addr / 2 ^ (12 + s) * 2 ^ (12 + s), s)

/-- The walk from a context's root, in tables that memory `t` holds. -/
def walkIn (m : Module) (t : Memory) (c : Fin 64) (addr : Nat) : Except AccStop (Nat × Nat × Nat) :=
  walkFrom m t c addr 5 (fld (ccb m c 0) 12 36 * 4096)

/-- The walk of the tables as they stand. -/
def walk (m : Module) (c : Fin 64) (addr : Nat) : Except AccStop (Nat × Nat × Nat) := walkIn m m.phys c addr

/-- The mapping in force for a context: that of the last marker; an address that it does not map, or that it shows busy, is
looked up in the tables as they stand (07 R215, 14 R339, R341; log 69). -/
def mapping (m : Module) (c : Fin 64) (addr : Nat) : Except AccStop (Nat × Nat × Nat) :=
  match walkIn m (m.ctx c).tables c addr with
  | .error (.fault 5 _ _ _) | .error .busy => walk m c addr
  | r => r

/-- What an access is for, as permissions see it (14 R336). -/
inductive AccKind where
  | read | write | fetch
  deriving DecidableEq, Repr

/-- Translations each place holds (14 R339). -/
def XPlace.cap : XPlace → Nat
  | .core _ _ => 64
  | .copy _ _ => 1024
  | .sye _ => 256
  | .zither _ => 512

/-- The entry a place holds for an address of a context (14 R339). -/
def heldFor (m : Module) (p : XPlace) (c : Fin 64) (addr : Nat) : Option Held :=
  m.held.find? fun h => decide (h.place = p) && decide (h.ctx = c) && decide (h.page ≤ addr) &&
    decide (addr < h.page + 2 ^ (12 + h.size))

/-- Hold a new entry at a place, dropping the oldest beyond its capacity. -/
def hold (m : Module) (h : Held) : Module :=
  let mine := m.held.filter fun x => decide (x.place = h.place)
  let rest := m.held.filter fun x => !decide (x.place = h.place)
  { m with held := (h :: mine).take h.place.cap ++ rest }

/-- The access that an entry allows, and the physical address it gives (14 R336 to R338, R341). -/
def entryAccess (m : Module) (c : Fin 64) (k : AccKind) (addr e s : Nat) : Except AccStop Nat :=
  let pa := pteFrame e + addr % 2 ^ (12 + s)
  if k = .write ∧ !pteW e then .error (xlate 5 addr)
  else if k = .fetch ∧ !pteX e then .error (xlate 6 addr)
  else match physCheck m c pa with
    | some (5, n) => .error (xlate n addr)
    | r =>
      if pteTier e = 2 then .error (.tier addr)
      else match r with
        | some (code, sub) => .error (.fault code sub addr none)
        | none => .ok pa

/-- Translate a device address for a context at a place that holds translations, or at none (14 R335 to R341). -/
def translate (m : Module) (p : Option XPlace) (c : Fin 64) (k : AccKind) (addr : Nat) :
    Except AccStop (Nat × Module) :=
  match p.bind (fun p => heldFor m p c addr) with
  | some h =>
    match entryAccess m c k addr h.pte.toNat h.size with
    | .error e => .error e
    | .ok pa => .ok (pa, m)
  | none =>
    match mapping m c addr with
    | .error e => .error e
    | .ok (e, page, s) =>
      match entryAccess m c k addr e s with
      | .error e => .error e
      | .ok pa =>
        .ok (pa, match p with
          | some p => hold m { place := p, ctx := c, page := page, size := s, pte := BitVec.ofNat 64 e }
          | none => m)

/-- Drop every held entry of a context that overlaps a range (07 R215, 14 R340, R341). -/
def dropHeld (m : Module) (c : Fin 64) (lo hi : Nat) : Module :=
  { m with held := m.held.filter fun h =>
      !(decide (h.ctx = c) && decide (h.page < hi) && decide (lo < h.page + 2 ^ (12 + h.size))) }

/-- An access of a command ahead of a marker: under the tables it began with and no held entry (07 R215, R216). -/
def underTables {ε α : Type} (m : Module) (c : Fin 64) (old : Option Memory) (f : Module → Except ε (α × Module)) :
    Except ε (α × Module) :=
  match old with
  | none => f m
  | some t =>
    let now := (m.ctx c).tables
    match f { m.modCtx c (fun x => { x with tables := t }) with held := [] } with
    | .error e => .error e
    | .ok (a, w) => .ok (a, { w.modCtx c (fun x => { x with tables := now }) with held := m.held })

/-! ### Retiring tags (07 R205, R207) -/

/-- The context whose grant holds a tracked line (14 R332). -/
def lineOwner (m : Module) (line : Nat) : Option (Fin 64) :=
  let r := (line - scratchBase) % 0x10000000
  (List.finRange 64).find? fun c => ctxValid m c &&
    (if r < 0x8000000 then decide (ctxDbase m c ≤ r) && decide (r < ctxDbase m c + ctxDsize m c)
     else
      let o := (r - 0x8000000) % 0x1000000
      decide (ctxCbase m c ≤ o) && decide (o < ctxCbase m c + ctxCsize m c))

/-- The bytes that a line's race records hold (07 R205). -/
def spillBytes (t : LineTag) : Nat := if t.spill then raceBytes t.rd.length else 0

/-- Retire the tags of one line that a predicate picks, with the race records that this frees (07 R205, R207). -/
def retireLine (m : Module) (d : Fin 16) (f : Tag → Bool) (line : Nat) (t : LineTag) : Module :=
  let t' : LineTag := {
    wr := t.wr.filter fun w => !f w
    rd := t.rd.filter fun r => !f r
    spill := t.spill && t.rd.any fun r => !f r }
  if t' = t then m
  else
    let m := m.modDie d fun x => { x with tags := Tbl.set {} x.tags line t' }
    match lineOwner m (line * 64) with
    | some c => m.modCtx c fun x => { x with race := x.race + spillBytes t' - spillBytes t }
    | none => m

/-- Retire the tags of a die that a predicate picks. -/
def retireTags (m : Module) (d : Fin 16) (f : Tag → Bool) : Module :=
  (m.die d).tags.foldl (fun m e => retireLine m d f e.1 e.2) m

end Sys2Proof.Machine
end

