-- ==== Sys2Proof/Machine/Local.lean ====
section
/-! DEFINITION. Reads and writes of memory by location: local regions (01 R22, 14 R332), device space, race test,
poison (15 R365). -/

namespace Sys2Proof.Machine

/-- Where a byte lives: a unit scratchpad by core number, or physical memory. -/
inductive Loc where
  | unit (core off : Nat)
  | phys (pa : Nat)
  deriving DecidableEq, Repr

/-- The regions of the local space (01 R22). -/
inductive Region where
  | unit | cluster | die | sync | tuple
  | window (w : Fin 64)
  deriving DecidableEq, Repr

/-- The region that holds a whole range of local addresses, and the offset in it; none outside every region or
across two (08 R218). -/
def regionOf (a n : Nat) : Option (Region × Nat) :=
  let within := fun (base size : Nat) => decide (base ≤ a) && decide (a + n ≤ base + size)
  if within 0 0x100000 then some (.unit, a)
  else if within 0x100000000 0x1000000 then some (.cluster, a - 0x100000000)
  else if within 0x200000000 0x8000000 then some (.die, a - 0x200000000)
  else if within 0x300000000 0x800000 then some (.sync, a - 0x300000000)
  else if within 0x400000000 0x100000000 then some (.tuple, a - 0x400000000)
  else if h : 0x1000000000 ≤ a ∧ a < 0x5000000000 then
    let off := a % 0x100000000
    if off + n ≤ 0x100000000 then
      some (.window ⟨(a - 0x1000000000) / 0x100000000, by omega⟩, off)
    else none
  else none

/-- Physical addresses of a die's and a cluster's scratchpad (14 R334). -/
def diePa (d : Fin 16) (o : Nat) : Nat := scratchBase + d.val * 0x10000000 + o
def clusterPa (d : Fin 16) (k : Nat) (o : Nat) : Nat :=
  scratchBase + d.val * 0x10000000 + 0x8000000 + k * 0x1000000 + o

/-- The pieces of a range that lie in one 64-byte line each, ascending. -/
def pieces : Nat → Nat → Nat → List (Nat × Nat)
  | 0, _, _ => []
  | f + 1, a, n =>
    if n = 0 then []
    else
      let k := min n (64 - a % 64)
      (a, k) :: pieces f (a + k) (n - k)

def linePieces (a n : Nat) : List (Nat × Nat) := pieces (n / 64 + 2) a n

/-- A local scratchpad range of a core of a die for a context, as locations (01 R22, 14 R332); none is
ADDRCLASS. A party without a core has no unit and no cluster scratchpad. -/
def localLocs (m : Module) (ctx : Fin 64) (d : Fin 16) (core : Option (Fin 128)) (a n : Nat) :
    Option (List (Loc × Nat)) :=
  match regionOf a n with
  | some (.unit, o) => core.map fun c => (linePieces o n).map fun p => (.unit (coreKey d c) p.1, p.2)
  | some (.cluster, o) =>
    if o + n ≤ ctxCsize m ctx then
      core.map fun c => (linePieces (clusterPa d (c.val / 16) (ctxCbase m ctx + o)) n).map fun p => (.phys p.1, p.2)
    else none
  | some (.die, o) =>
    if o + n ≤ ctxDsize m ctx then
      some ((linePieces (diePa d (ctxDbase m ctx + o)) n).map fun p => (.phys p.1, p.2))
    else none
  | _ => none

/-- The key of a unit scratchpad line in the list of poisoned ones. -/
def unitLine (core off : Nat) : Nat := core * 16384 + off / 64

def Loc.poisoned (m : Module) : Loc → Bool
  | .unit c o => m.unitPoison.contains (unitLine c o)
  | .phys pa => Machine.poisoned m pa

def Loc.line : Loc → Option Nat
  | .unit _ _ => none
  | .phys pa => poisonLine pa

/-- The domain that a freeze of a location's scratchpad holds: the unit or cluster scratchpad, or the die-scratchpad slice of
offset o, (o div 256) mod 16 (01 R12, 15 R365). -/
def Loc.domain : Loc → Option (Fin 16 × FreezeDomain)
  | .unit c _ =>
    let d := Fin.ofNat 16 (c / 128)
    some (d, .unit d (Fin.ofNat 128 c))
  | .phys pa =>
    if !isScratch pa then none
    else
      let d := Fin.ofNat 16 ((pa - scratchBase) / 0x10000000)
      let o := (pa - scratchBase) % 0x10000000
      if o < 0x8000000 then some (d, .slice d (Fin.ofNat 16 (o / 256)))
      else some (d, .cluster d (Fin.ofNat 8 ((o - 0x8000000) / 0x1000000)))

/-- Whether a location stands in a frozen scratchpad. -/
def Loc.frozen (m : Module) (l : Loc) : Bool :=
  match l.domain with
  | some (d, x) => isFrozen m d x
  | none => false

/-- The tracked lines among locations, in order. -/
def trackedOf (ls : List (Loc × Nat)) : List Nat :=
  ls.filterMap fun l => match l.1 with
    | .phys pa => if isScratch pa then some (pa / 64 * 64) else none
    | .unit _ _ => none

/-- The race test and the tags of an access to a list of locations, all lines or none (08 R226). -/
def trackLocs (m : Module) (p : Option Actor) (write : Bool) (addr : Nat) (ls : List (Loc × Nat)) :
    Except AccStop Module :=
  match p with
  | none => .ok m
  | some p =>
    match trackedAll m p write (trackedOf ls) with
    | .ok m => .ok m
    | .error (.race l t w) => .error (.race addr l t w)
    | .error (.quota _) => .error (.quota addr)

def readLoc (m : Module) : Loc × Nat → List Byte
  | (.unit c o, n) => Memory.bytes (Tbl.get {} m.cores c).unitMem o n
  | (.phys pa, n) => Memory.bytes m.phys pa n

/-- Store bytes at a location within one line; a whole line clears its poison (15 R365). -/
def writeLoc (m : Module) (l : Loc) (bs : List Byte) : Module :=
  match l with
  | .unit c o =>
    let x := Tbl.get {} m.cores c
    let m := { m with cores := Tbl.set {} m.cores c { x with unitMem := Memory.puts x.unitMem o bs } }
    if bs.length = 64 then { m with unitPoison := m.unitPoison.filter fun k => !decide (k = unitLine c o) } else m
  | .phys pa =>
    let m := { m with phys := Memory.puts m.phys pa bs }
    if bs.length = 64 then { m with poison := m.poison.filter fun k => !decide (k = pa / 64) } else m

def readLocs (m : Module) : List (Loc × Nat) → List Byte
  | [] => []
  | l :: ls => readLoc m l ++ readLocs m ls

def writeLocs (m : Module) : List (Loc × Nat) → List Byte → Module
  | [], _ => m
  | l :: ls, bs => writeLocs (writeLoc m l.1 (bs.take l.2)) ls (bs.drop l.2)

/-- A load of locations by an actor: freezes, poison, race test, bytes (08 R226, 15 R365). -/
def loadLocs (m : Module) (p : Option Actor) (addr : Nat) (ls : List (Loc × Nat)) :
    Except AccStop (List Byte × Module) :=
  if ls.any fun l => l.1.frozen m then .error .busy
  else match ls.find? (fun l => l.1.poisoned m) with
  | some l => .error (.fault 0x0F 0 addr l.1.line)
  | none =>
    match trackLocs m p false addr ls with
    | .error e => .error e
    | .ok m' => .ok (readLocs m ls, m')

/-- A store to locations by an actor. -/
def storeLocs (m : Module) (p : Option Actor) (addr : Nat) (ls : List (Loc × Nat)) (bs : List Byte) :
    Except AccStop Module :=
  if ls.any fun l => l.1.frozen m then .error .busy
  else match trackLocs m p true addr ls with
  | .error e => .error e
  | .ok m' => .ok (writeLocs m' ls bs)

/-- The race test and the tags of an engine's load, line after line. -/
def trackEach (p : Actor) (addr : Nat) : List (Loc × Nat) → Nat → Module → Except (AccStop × Module × Nat) Module
  | [], _, m => .ok m
  | l :: ls, n, m =>
    match trackLocs m (some p) false addr [l] with
    | .error e => .error (e, m, n)
    | .ok m => trackEach p addr ls (n + l.2) m

/-- An engine's load and store: line after line, so that the accesses before one that races stand (07 R206). A stop comes
with the module as it then is and the bytes performed. -/
def loadEach (m : Module) (p : Actor) (addr : Nat) (ls : List (Loc × Nat)) :
    Except (AccStop × Module × Nat) (List Byte × Module) :=
  if ls.any fun l => l.1.frozen m then .error (.busy, m, 0)
  else match ls.find? (fun l => l.1.poisoned m) with
  | some l => .error (.fault 0x0F 0 addr l.1.line, m, 0)
  | none =>
    match trackEach p addr ls 0 m with
    | .error e => .error e
    | .ok m' => .ok (readLocs m ls, m')

def storeEach (p : Actor) (addr : Nat) : List (Loc × Nat) → List Byte → Nat → Module → Except (AccStop × Module × Nat) Module
  | [], _, _, m => .ok m
  | l :: ls, bs, n, m =>
    if l.1.frozen m then .error (.busy, m, n)
    else match trackLocs m (some p) true addr [l] with
    | .error e => .error (e, m, n)
    | .ok m => storeEach p addr ls (bs.drop l.2) (n + l.2) (writeLoc m l.1 (bs.take l.2))

/-- ADDRCLASS at an address. -/
def addrclass (a : Nat) : AccStop := .fault 4 0 a none

/-- A load and a store of a local scratchpad range (01 R22). -/
def loadLocal (m : Module) (p : Option Actor) (ctx : Fin 64) (d : Fin 16) (core : Option (Fin 128)) (a n : Nat) :
    Except AccStop (List Byte × Module) :=
  match localLocs m ctx d core a n with
  | none => .error (addrclass a)
  | some ls => loadLocs m p a ls

def storeLocal (m : Module) (p : Option Actor) (ctx : Fin 64) (d : Fin 16) (core : Option (Fin 128)) (a : Nat)
    (bs : List Byte) : Except AccStop Module :=
  match localLocs m ctx d core a bs.length with
  | none => .error (addrclass a)
  | some ls => storeLocs m p a ls bs

/-- Translate the lines of a device range. -/
def devLocs (m : Module) (pl : Option XPlace) (ctx : Fin 64) (k : AccKind) :
    List (Nat × Nat) → Except AccStop (List (Loc × Nat) × Module)
  | [] => .ok ([], m)
  | (a, n) :: ps =>
    match translate m pl ctx k (a % 2 ^ 57) with
    | .error e => .error e
    | .ok (pa, m) =>
      match devLocs m pl ctx k ps with
      | .error e => .error e
      | .ok (ls, m) => .ok ((.phys pa, n) :: ls, m)

/-- A load and a store of a device range, by an actor or by a unit whose accesses leave no tag. -/
def loadDev (m : Module) (p : Option Actor) (pl : Option XPlace) (ctx : Fin 64) (k : AccKind) (a n : Nat) :
    Except AccStop (List Byte × Module) :=
  match devLocs m pl ctx k (linePieces a n) with
  | .error e => .error e
  | .ok (ls, m) => loadLocs m p a ls

def storeDev (m : Module) (p : Option Actor) (pl : Option XPlace) (ctx : Fin 64) (a : Nat) (bs : List Byte) :
    Except AccStop Module :=
  match devLocs m pl ctx .write (linePieces a bs.length) with
  | .error e => .error e
  | .ok (ls, m) => storeLocs m p a ls bs

/-- A 64-bit word of device space. -/
def devWord (m : Module) (ctx : Fin 64) (a : Nat) : Except AccStop Nat :=
  match loadDev m none none ctx .read a 8 with
  | .error e => .error e
  | .ok (bs, _) => .ok (ofBytes bs)

end Sys2Proof.Machine
end

