-- ==== Sys2Proof/Machine/Ops.lean ====
section
/-! DEFINITION. The operations that many meanings share: tuples, host events, barrier slots, groups, signals,
chains ending, and taking a trap (15 R351 to R362). -/

namespace Sys2Proof.Machine

/-- What every step of the model answers. -/
abbrev Out := Host.Outcome State Fault Refusal

/-- Why an op of a bundle does not go through. -/
inductive Stop where
  /-- It raises a trap. -/
  | trap (t : Trap)
  /-- It meets a flash-tier page: the TIER record of this fault (14 R341). -/
  | tier (t : Trap)
  /-- It waits; the module with what the waiting bundle leaves standing (09 R271). -/
  | wait (m : Module)
  /-- The bundle does not issue yet. -/
  | hold
  deriving DecidableEq, Repr

/-- What an op makes of the state. -/
abbrev Res := Except Stop State

/-- Apply `f` to every stream of every core. -/
def Module.mapStreams (m : Module) (f : Who → Stream → Stream) : Module :=
  (Tbl.keys m.cores).foldl (fun m k =>
    let d := Fin.ofNat 16 (k / 128)
    let c := Fin.ofNat 128 k
    m.modCore d c fun x => { x with
      l := f ⟨d, c, .l⟩ x.l, x := f ⟨d, c, .x⟩ x.x, st := f ⟨d, c, .s⟩ x.st }) m

/-! ### Host events -/

/-- Send an event to the host (15 R378). -/
def sendEvent (m : Module) (die : Option (Fin 16)) (subject code : Nat) (d2 d3 : Nat) : Module :=
  let m' := { m with evseq := m.evseq + 1 }
  let lost := fun (m : Module) => m.modDie (die.getD 0) fun x =>
    { x with counters := { x.counters with lostEvents := x.counters.lostEvents + 1 } }
  match m.ring with
  | none => lost m'
  | some r =>
    if (m.widx - m.ridx).toNat = r.entries then lost m'
    else
      let w0 := m.evseq.toNat * 2 ^ 48 + (match die with
        | some d => d.val
        | none => 0xFF) * 2 ^ 32 + fld subject 0 16 * 2 ^ 16 + code
      let stamp := match die with
        | some d => (m.die d).cyc.toNat
        | none => 0
      let at_ := r.base.toNat + 32 * (m.widx.toNat % r.entries)
      { m' with
        host := Memory.write m'.host at_ 32 (w0 + stamp * 2 ^ 64 + fld d2 0 64 * 2 ^ 128 + fld d3 0 64 * 2 ^ 192)
        widx := m.widx + 1, msix := r.vector :: m.msix }

/-- Add an entry to a die log of 16 entries, newest first (15 R369). -/
def pushLog (l : List W64) (e : Nat) : List W64 := (BitVec.ofNat 64 e :: l).take 16

/-- Count CRC retries of a die (15 R372, R381). -/
def countRetries (m : Module) (d : Fin 16) (n : Nat) : Module :=
  m.modDie d fun x => { x with counters := { x.counters with crcRetries := x.counters.crcRetries + BitVec.ofNat 64 n } }

/-- The stamp of a log entry (15 R369). -/
def logStamp (m : Module) (d : Fin 16) : Nat := fld (m.die d).cyc.toNat 20 22

/-- The body of an array log entry for a line (15 R369). -/
def alogEntry (m : Module) (kind : Nat) (pa sym : Nat) : Nat × Fin 16 :=
  match stackedAt pa with
  | some (d, s, l, o) =>
    let d := Fin.ofNat 16 d
    let (b, bo) := (bankAt (m.die d) s l o).getD (0, 0)
    (kind * 2 ^ 60 + s * 2 ^ 59 + l * 2 ^ 55 + b * 2 ^ 50 + fld (bo / 64) 0 21 * 2 ^ 29 + sym * 2 ^ 22 +
      logStamp m d, d)
  | none => (0, 0)

def pushAlog (m : Module) (kind pa sym : Nat) : Module :=
  let (e, d) := alogEntry m kind pa sym
  m.modDie d fun x => { x with alog := pushLog x.alog e }

/-! ### Tuples -/

def tupTag (l : Line) : Nat := fld l.toNat 0 32
def tupCtx (l : Line) : Nat := fld l.toNat 32 16
def tupCare (l : Line) : Nat := fld l.toNat 48 7
def tupField (l : Line) (i : Nat) : Nat := fld l.toNat (64 + 64 * i) 64

/-- The home slice of a tag: the exclusive or of its nibbles (08 R245). -/
def homeSlice (tag : Nat) : Nat := (List.range 8).foldl (fun a i => xorN a (fld tag (4 * i) 4)) 0

/-- A stored tuple matches a pattern of the same context (08 R247). -/
def tupMatch (t p : Line) : Bool :=
  tupTag t == tupTag p && tupCtx t == tupCtx p &&
    (List.range 7).all fun i => !bitAt (tupCare p) i || tupField t i == tupField p i

/-- An image as it is stored: the context substituted, without care mask and reserved bits (08 R244). -/
def tupStored (l : Line) (ctx : Nat) : Line :=
  BitVec.ofNat 512 (putFld (putFld l.toNat 48 16 0) 32 16 ctx)

/-- A pattern with the requester's context. -/
def tupPattern (l : Line) (ctx : Nat) : Line := BitVec.ofNat 512 (putFld l.toNat 32 16 ctx)

/-- The resident context of a tuple context number. -/
def ctxOfTuple (m : Module) (t : Nat) : Option (Fin 64) :=
  (List.finRange 64).find? fun c => ctxValid m c && ctxTuple m c == t

/-- Satisfy parked requests by a new tuple, in the order they parked (08 R249): whether a take won, the requests
that stay, the streams satisfied. -/
def satisfy (img : Line) : List Parked → Bool × List Parked × List Who
  | [] => (false, [], [])
  | q :: qs =>
    if tupMatch img q.pattern then
      if q.take then (true, qs, [q.who])
      else
        let (t, ps, ws) := satisfy img qs
        (t, ps, q.who :: ws)
    else
      let (t, ps, ws) := satisfy img qs
      (t, q :: ps, ws)

/-- Apply a deposit at its home slice of a die (08 R249, 01 R26): none when the spill quota refuses it. -/
def deposit (m : Module) (d : Fin 16) (img : Line) (clk : Clock) : Option Module :=
  let k := homeSlice (tupTag img)
  let sl := m.slice d k
  let ctx := ctxOfTuple m (tupCtx img)
  let launch := match ctx with
    | some c => if tupTag img = 0xFFFFFF00 ∧ ctxHome m c = d then some c else none
    | none => none
  match launch with
  | some c =>
    some (m.modDie d fun x => { x with launches := x.launches ++ [{ ctx := c, image := img, clk := clk, reads := 0, nextAt := x.cyc }] })
  | none =>
    let (won, ps, ws) := satisfy img sl.parked
    let wake := fun (m : Module) =>
      ws.foldl (fun m w => m.modStrm w fun s => { s with wait := .tupleDone img clk }) m
    if won then some (wake (m.setSlice d k { sl with parked := ps }))
    else
      let (age, m1) := m.nextTicket
      let t : Tuple := { image := img, clk := clk, age := age }
      if sl.stored.length < 4096 then
        some (wake (m1.setSlice d k { sl with parked := ps, stored := sl.stored ++ [t] }))
      else match ctx with
        | none => none
        | some c =>
          if ctxSquota m c < (m.ctx c).spill + 64 then none
          else
            some (wake ((m1.setSlice d k { sl with parked := ps, overflow := sl.overflow ++ [t] }).modCtx c
              fun x => { x with spill := x.spill + 64 }))

/-- The oldest stored tuple that matches a pattern (08 R247). -/
def oldest (pat : Line) (ts : List Tuple) : Option Tuple :=
  ts.foldl (fun b t => if tupMatch t.image pat then
    match b with
    | some u => if t.age < u.age then some t else b
    | none => some t
    else b) none

def findTuple (m : Module) (d : Fin 16) (pat : Line) : Option Tuple :=
  let sl := m.slice d (homeSlice (tupTag pat))
  oldest pat (sl.stored ++ sl.overflow)

/-- Remove a stored tuple; an overflow tuple gives its charge back. -/
def removeTuple (m : Module) (d : Fin 16) (t : Tuple) : Module :=
  let k := homeSlice (tupTag t.image)
  let sl := m.slice d k
  let m' := m.setSlice d k { sl with
    stored := sl.stored.filter fun u => !decide (u.age = t.age)
    overflow := sl.overflow.filter fun u => !decide (u.age = t.age) }
  if sl.overflow.any fun u => decide (u.age = t.age) then
    match ctxOfTuple m (tupCtx t.image) with
    | some c => m'.modCtx c fun x => { x with spill := x.spill - 64 }
    | none => m'
  else m'

/-- Withdraw the parked request of a stream from its slice (08 R252). -/
def withdraw (m : Module) (w : Who) : Module :=
  match (m.strm w).wait with
  | .tuple k =>
    let sl := m.slice w.die k.val
    m.setSlice w.die k.val { sl with parked := sl.parked.filter fun q => !decide (q.who = w) }
  | _ => m

/-- The live instance of a graph of a context. -/
def findInst (m : Module) (c : Fin 64) (g : DevAddr) : Option Instance :=
  m.graphs.find? fun i => decide (i.ctx = c) && decide (i.graph = g)

def modInst (m : Module) (c : Fin 64) (g : DevAddr) (f : Instance → Instance) : Module :=
  { m with graphs := m.graphs.map fun i => if i.ctx = c ∧ i.graph = g then f i else i }

/-- Deposit a report in the context's error bag (11 R296, 15 R355): the launch tuple's fields with field 1 the node,
field 5 and field 6 as given. -/
def depositReport (m : Module) (r : Report) : Module :=
  let home := ctxHome m r.ctx
  let l := r.launch.toNat
  let img := putFld (putFld (putFld (putFld (putFld l 0 64 0) 0 32 0xFFFFFF01) 128 64 r.node) 384 64 r.f5) 448 64
    (m.die home).cyc.toNat
  match deposit m home (tupStored (BitVec.ofNat 512 img) (ctxTuple m r.ctx)) [] with
  | some m' => m'
  | none => m.modDie home fun x => { x with counters := { x.counters with lostTuples := x.counters.lostTuples + 1 } }

/-- A report: deposited now, or within a cycle behind the requests of its streams (08 R248). -/
def reportTuple (m : Module) (c : Fin 64) (launch : Line) (node f5 : Nat) : Module :=
  let r : Report := { ctx := c, launch := launch, node := node, f5 := f5 }
  match m.reports with
  | none => depositReport m r
  | some rs => { m with reports := some (rs ++ [r]) }

/-- The launch tuple of an instance, or one that names the graph alone. -/
def launchOf (m : Module) (c : Fin 64) (g : DevAddr) : Line :=
  match findInst m c g with
  | some i => i.image
  | none => BitVec.ofNat 512 (g.toNat * 2 ^ 64)

/-- Take every node of an instance out of the pools and their overflow, with its charge (11 R296, R303). -/
def purgePools (m : Module) (c : Fin 64) (g : DevAddr) : Module :=
  (List.finRange 16).foldl (fun m d =>
    let mine := fun (e : PoolEnt) => decide (e.ctx = c) && decide (e.graph = g)
    let n := ((m.die d).overflow.filter mine).length
    let m := m.modDie d fun x => { x with
      pool := x.pool.filter fun e => !mine e, overflow := x.overflow.filter fun e => !mine e
      head := x.head.filter fun h => !(decide (h.1 = c) && decide (h.2.1 = g)) }
    m.modCtx c fun x => { x with spill := x.spill - 64 * n }) m

/-- Report an instance and stop its dispatching (11 R296): its waiting nodes are dropped, its running ones run on. -/
def reportInst (m : Module) (c : Fin 64) (g : DevAddr) (node f5 : Nat) : Module :=
  modInst (purgePools (reportTuple m c (launchOf m c g) node f5) c g) c g fun i => { i with
    reported := true, nodes := i.nodes.filter fun n => !decide (n.st = .waiting) }

/-! ### Barrier slots -/

/-- A 48-bit signed counter in its range (07 R208, R210). -/
def ctrOk (x : Int) : Bool := decide (-(2 ^ 47 : Int) ≤ x) && decide (x < 2 ^ 47)

/-- Whether phase P completes (07 R211). -/
def Barrier.ready (b : Barrier) : Bool :=
  b.valid && b.xp && !b.ovr && b.arrived == b.parties && decide (b.cur = 0) && b.pend == 0

/-- One flip (07 R211). A posted phase that has received more bytes than were posted for it overruns (R212). -/
def Barrier.flip (b : Barrier) : Barrier :=
  { b with phase := b.phase + 1, cur := b.nxt, nxt := 0, xp := b.nxp, nxp := false,
           arrived := b.narrived, narrived := 0, pend := b.npend, npend := 0,
           ovr := b.ovr || (b.nxp && decide (b.nxt < 0)),
           clkDone := Clock.join b.clkDone b.clkCur, clkCur := b.clkNxt, clkNxt := [], epoch := b.epoch + 1 }

/-- Flips while the test holds and no stale stamp stalls it; a second flip takes the post for P + 1, and no third is
possible. -/
def Barrier.settle (ok : BitVec 16 → Bool) : Nat → Barrier → Barrier
  | 0, b => b
  | n + 1, b => if b.ready && ok (b.phase.setWidth 16 + 1) then Barrier.settle ok n b.flip else b

/-- T is before the slot's phase (08 R241). -/
def phaseDone (t : BitVec 16) (b : Barrier) : Bool :=
  decide (t ≠ b.phase.setWidth 16) && atOrBefore t (b.phase.setWidth 16)

/-- Store a slot after an event: flips, and what the streams that wait on it meet (07 R211, 08 R242). -/
def settleSlot (m : Module) (d : Fin 16) (s : Fin 256) (b : Barrier) : Module :=
  let b' := Barrier.settle (fun φ => !flipStalls m d s.val φ) 3 b
  (m.setBarrier d s b').mapStreams fun w st =>
    if w.die = d then
      match st.cwait with
      | .waitb s' t =>
        if s' = s then
          if phaseDone t b' then { st with cwait := .waitbDone b'.clkDone (b'.phase.setWidth 16 - 1) }
          else if b'.ovr then { st with cwait := .waitbOvr b'.raced } else st
        else st
      | _ => st
    else st

/-- Post an expected count to P, or to P + 1 (07 R210). -/
def Barrier.post (b : Barrier) (next : Bool) (e : Nat) : Barrier :=
  if next then
    { b with nxt := b.nxt + e, nxp := true, ovr := b.ovr || !ctrOk (b.nxt + e) }
  else { b with cur := b.cur + e, xp := true, ovr := b.ovr || !ctrOk (b.cur + e) }

/-- Take a hold on a phase (07 R210): the slot and the phase captured. -/
def Barrier.capture (b : Barrier) (next : Bool) : Barrier × W32 :=
  if next then ({ b with npend := b.npend + 1 }, b.phase + 1) else ({ b with pend := b.pend + 1 }, b.phase)

/-- Deliver bytes to a captured phase and, if asked, drop its hold (07 R210, R212; log 9). -/
def Barrier.deliver (b : Barrier) (φ : W32) (n : Nat) (drop : Bool) : Barrier :=
  let k := if drop then 1 else 0
  if φ = b.phase then
    let c := b.cur - n
    { b with cur := c, pend := b.pend - k,
             ovr := b.ovr || !ctrOk c || (b.xp && decide (0 ≤ b.cur) && decide (c < 0)) }
  else
    let c := b.nxt - n
    { b with nxt := c, npend := b.npend - k, ovr := b.ovr || !ctrOk c }

/-- An arrival with a clock: the slot and the phase it joins, or none when both counts are full (07 R210). -/
def Barrier.arrive (b : Barrier) (k : Clock) : Option (Barrier × W32) :=
  if b.arrived < b.parties then
    some ({ b with arrived := b.arrived + 1, clkCur := Clock.join b.clkCur k }, b.phase)
  else if b.narrived < b.parties then
    some ({ b with narrived := b.narrived + 1, clkNxt := Clock.join b.clkNxt k }, b.phase + 1)
  else none

/-- A completion that a party of die `src` delivers to a slot: at once on its own die, through the delivery queue
of another (07 R210). -/
def deliverTo (m : Module) (src d : Fin 16) (s : Fin 256) (φ : W32) (n : Nat) (drop : Bool) : Module :=
  if src = d then settleSlot m d s ((m.barrier d s).deliver φ n drop)
  else m.modDie d fun x => { x with deliveries := x.deliveries ++ [(s, φ, n, drop)] }

/-! ### Groups -/

/-- The test of a group: the phase completes when every required member has arrived, those that are out among them (11 R310,
R323). -/
def Group.test (g : Group) : Group :=
  if g.arr = g.need ∧ (g.out.all fun h => h.arr == h.need) then
    { g with phase := g.phase + 1, arr := 0, need := g.mask, out := g.out.map fun h => { h with need := true, arr := false } }
  else g

def bit128 (p : Nat) : BitVec 128 := BitVec.ofNat 128 (2 ^ p)

/-- A wait on group `g`'s phase `φ` is over with clock `k`. -/
def Wait.passGroup (g : Nat) (φ : BitVec 16) (k : Clock) : Wait → Wait
  | .gbar h ψ => if h.val = g ∧ ψ = φ then .gbarDone k else .gbar h ψ
  | w => w

/-- Store a group after an event: a completed phase wakes its waiters with the clock it completed with, those of a bundle
that an interrupt set aside or a checkpoint saved among them (07 R194, 11 R310, R323). -/
def settleGroup (m : Module) (d : Fin 16) (g : Nat) (x : Group) : Module :=
  let φ := (m.group d g).phase
  let m := m.setGroup d g x
  if x.phase = φ then m
  else
    let pass := fun (st : Stream) => { st with
      cwait := st.cwait.passGroup g φ x.clk
      aside := st.aside.map fun a => (a.1, a.2.1, a.2.2.passGroup g φ x.clk) }
    let m := m.mapStreams fun w st => if w.die = d then pass st else st
    { m with graphs := m.graphs.map fun i => { i with nodes := i.nodes.map fun n =>
        if n.die = d then { n with saved := n.saved.map fun k => { k with l := pass k.l, x := pass k.x, st := pass k.st } }
        else n } }

/-- Whether a group holds, under a core's party number, the bit of a checkpointed job that is out (11 R323). -/
def bitOut (m : Module) (d : Fin 16) (g : Nat) (c : Fin 128) : Bool :=
  (m.group d g).out.any fun h => decide (h.party = c)

/-- Whether the job on a core is a member of a group (11 R310). -/
def isMember (m : Module) (d : Fin 16) (g : Nat) (c : Fin 128) : Bool :=
  decide ((m.group d g).mask &&& bit128 c.val ≠ 0)

/-- The groups of a die in which the job on a core is a member. -/
def memberOf (m : Module) (d : Fin 16) (c : Fin 128) : List Nat :=
  (Tbl.keys (m.die d).groups).filter fun g => isMember m d g c

/-- The bits of a party in a group are cleared. -/
def Group.clear (g : Group) (p : Nat) : Group :=
  { g with mask := g.mask &&& ~~~ bit128 p, need := g.need &&& ~~~ bit128 p, arr := g.arr &&& ~~~ bit128 p }

/-- The bits of a core's job that is checkpointed are held under its party number while it is out (11 R323). -/
def holdBits (m : Module) (d : Fin 16) (c : Fin 128) : Module :=
  match (m.core d c).job with
  | none => m
  | some j => (memberOf m d c).foldl (fun m g =>
    let x := m.group d g
    let h : HeldBits := {
      ctx := j.ctx, graph := j.graph, node := j.node.setWidth 16, index := j.index, party := c
      need := decide (x.need &&& bit128 c.val ≠ 0), arr := decide (x.arr &&& bit128 c.val ≠ 0) }
    m.setGroup d g { x.clear c.val with out := x.out ++ [h] }) m

/-- Whether held bits are those of a job. -/
def HeldBits.ofJob (h : HeldBits) (j : Job) : Bool :=
  decide (h.ctx = j.ctx) && decide (h.graph = j.graph) && decide (h.node = j.node.setWidth 16) && decide (h.index = j.index)

/-- The bits of the job that has resumed on a core move to its party number (11 R323). -/
def takeBits (m : Module) (d : Fin 16) (c : Fin 128) : Module :=
  match (m.core d c).job with
  | none => m
  | some j => (Tbl.keys (m.die d).groups).foldl (fun m g =>
    let x := m.group d g
    match x.out.find? fun h => h.ofJob j with
    | none => m
    | some h =>
      let put := fun (on : Bool) (v : BitVec 128) => if on then v ||| bit128 c.val else v
      m.setGroup d g { x with
        mask := put true x.mask, need := put h.need x.need, arr := put h.arr x.arr, out := x.out.erase h }) m

/-- The bits of a node whose jobs will not resume are cleared, with the test. -/
def dropBits (m : Module) (d : Fin 16) (c : Fin 64) (g : DevAddr) (n : BitVec 16) : Module :=
  let own := fun (h : HeldBits) => decide (h.ctx = c) && decide (h.graph = g) && decide (h.node = n)
  (Tbl.keys (m.die d).groups).foldl (fun m k =>
    let x := m.group d k
    if x.out.any own then settleGroup m d k (Group.test { x with out := x.out.filter fun h => !own h }) else m) m

/-- LEAVE of party `p` with its clock (11 R310): one that is no member only releases. -/
def Group.leave (g : Group) (member : Bool) (p : Nat) (k : Clock) : Group :=
  let g := { g with clk := Clock.join g.clk k }
  if !member then g
  else Group.test (g.clear p)

/-- Leave every group of the die in which the core's job is a member, in one release (11 R307, R322). -/
def leaveAll (m : Module) (d : Fin 16) (c : Fin 128) : Module :=
  afterRelease ((memberOf m d c).foldl (fun m g =>
    settleGroup m d g ((m.group d g).leave true c.val (releaseClock m d c))) m) d c

/-! ### Signals -/

/-- Wake every WAITS on a signal that has fallen to 0 or less (08 R238). -/
def wakeSignal (m : Module) (home : Fin 16) (pa : Nat) : Module :=
  let k := Tbl.get [] (m.die home).words pa
  m.mapStreams fun _ st => match st.cwait with
    | .waits h a _ => if h = home ∧ a = pa then { st with cwait := .woken k } else st
    | _ => st

/-- Change a signal at its home engine: join the releasing clock, store, wake (08 R238). -/
def changeSignal (m : Module) (pa : Nat) (new : W64) (k : Clock) : Module :=
  let home := homeDie pa
  let m := m.modDie home fun x => { x with words := Tbl.set [] x.words pa (Clock.join (Tbl.get [] x.words pa) k) }
  let m := { m with phys := Memory.write m.phys pa 8 new.toNat }
  if new.toInt ≤ 0 then wakeSignal m home pa else m

/-- Subtract from the signal at a device address of a context, with the stops of an atomic (08 R229, R238). -/
def decSignal (m : Module) (ctx : Fin 64) (dev : Nat) (v : Nat) (k : Clock) : Except AccStop Module :=
  if dev % 8 ≠ 0 then .error (.fault 3 0 dev none)
  else match translate m none ctx .write dev with
    | .error e => .error e
    | .ok (pa, m) =>
      if poisoned m pa then .error (.fault 0x0F 0 dev (poisonLine pa))
      else .ok (changeSignal m pa (BitVec.ofNat 64 (Memory.read m.phys pa 8) - BitVec.ofNat 64 v) k)

/-! ### Chains ending -/

def engCode : EngClass → Nat
  | .copy => 0 | .kantele => 1 | .zither => 2 | .chain => 3

/-- The progress word (09 R261). -/
def progWord (k : Chain) : Nat :=
  fld k.index 0 16 * 2 ^ 48 + k.state * 2 ^ 45 + engCode k.cls * 2 ^ 43 +
    (if k.cls = .copy then k.inst.val else 0) * 2 ^ 40 + fld k.units 0 40

/-- The die from which an engine of a chain acts: its own, or die 2z for Zither z (08 R238). -/
def Chain.engDie (k : Chain) : Fin 16 :=
  if k.cls = .zither then Fin.ofNat 16 (2 * k.inst.val) else k.die

/-- Release the hold of a chain on its phase (09 R260). -/
def releaseHold (m : Module) (i : ChainId) : Module :=
  let k := m.chain i
  if k.hold then
    deliverTo (m.setChain i { k with hold := false }) k.engDie k.slotDie k.slot k.phase 0 true
  else m

/-- A lease that an LREL or a checkpoint has ended ends with the command that was in progress (06 R177). -/
def dropSpent (m : Module) (k : Chain) : Module :=
  match k.cls, k.core with
  | .kantele, some c => m.modCluster k.die (clusterOf c) fun x => { x with
      lease := if x.lease = some (c, 0) then none else x.lease }
  | _, _ => m

/-- End a chain in a state: 3 done, 4 stopped, 5 cancelled (09 R260, R261). -/
def endChain (m : Module) (i : ChainId) (st : Nat) : Module :=
  (releaseHold (if (m.chain i).fired.isSome then dropSpent m (m.chain i) else m) i).modChain i fun k =>
    { k with state := st, held := false, tier := false, reached := false, old := none, markers := none, done := none, fired := none }

/-- The engine that holds a chain (09 R259). -/
def engineOf (k : Chain) : EngineId :=
  match k.cls with
  | .copy => .copy k.die k.inst
  | .kantele => .kantele k.die (clusterOf (k.core.getD 0))
  | .zither => .zither k.inst
  | .chain => .chain k.die (clusterOf (k.core.getD 0))

/-- The queue of an engine. -/
def engQueue (m : Module) : EngineId → List ChainId
  | .copy d n => Tbl.get [] (m.die d).copyq n.val
  | .kantele d c => (m.cluster d c).kants
  | .zither z => (m.zither z.val).queue
  | .chain d c => (m.cluster d c).chains
def setEngQueue (m : Module) (e : EngineId) (q : List ChainId) : Module :=
  match e with
  | .copy d n => m.modDie d fun x => { x with copyq := Tbl.set [] x.copyq n.val q }
  | .kantele d c => m.modCluster d c fun x => { x with kants := q }
  | .zither z => m.setZither z.val { m.zither z.val with queue := q }
  | .chain d c => m.modCluster d c fun x => { x with chains := q }

/-- Chains that an engine's queue holds, and commands that it holds in progress (09 R257, R259). -/
def engineQueueCap : EngineId → Nat
  | .copy _ _ => 32 | .kantele _ _ => 16 | .zither _ => 64 | .chain _ _ => 8
def engineRunCap : EngineId → Nat
  | .copy _ _ => 4 | .kantele _ _ => 1 | .zither _ => 8 | .chain _ _ => 1

/-- Commands that an engine has in progress (09 R257). -/
def inProgress (m : Module) (e : EngineId) : Nat :=
  (m.chains.filter fun x => x.2.fired.isSome && !x.2.held && !x.2.tier && decide (engineOf x.2 = e)).length

/-- Cancel a chain (09 R262): a queued one ends at once; a running one ends after the command in progress. A KILL
also discards a held one (15 R359). -/
def cancelChain (m : Module) (i : ChainId) (kill : Bool) : Module :=
  let k := m.chain i
  if k.state = 1 then
    let e := engineOf k
    endChain (setEngQueue m e ((engQueue m e).filter fun j => !decide (j = i))) i 5
  else if k.state = 2 then
    if kill && (k.held || k.tier) then endChain m i 5
    else m.setChain i { k with cancel := true }
  else m

/-- The chain slots of the job on a core. -/
def coreChains (d : Fin 16) (c : Fin 128) : List ChainId := (List.finRange 16).map fun s => .job d c s

/-- Whether a core's job still has a chain that has not ended (09 R263). -/
def chainsLive (m : Module) (d : Fin 16) (c : Fin 128) : Bool :=
  (coreChains d c).any fun i => (m.chain i).state == 1 || (m.chain i).state == 2

/-- Field 5 of a fault tuple (15 R355). -/
def faultField (cause code jobIndex who : Nat) (d core : Nat) : Nat :=
  cause + code * 2 ^ 8 + jobIndex * 2 ^ 16 + who * 2 ^ 32 + d * 2 ^ 36 + core * 2 ^ 40

/-- Whether an engine stop of a code is held (15 R362): XLATE, TIER, GATED, QUOTA. -/
def engineHeld (code : Nat) : Bool := code == 5 || code == 6 || code == 7 || code == 9

/-- The fault tuple of a chain that is held (cause 6) or stopped (cause 8), with its trap code (15 R355, R362, 11 R299). -/
def reportChain (m : Module) (i : ChainId) (cause code : Nat) : Module :=
  let k := m.chain i
  match i with
  | .node _ c g n =>
    let f5 := faultField cause code 0xFFFF 0 k.die.val 0x7F
    if cause = 6 then reportTuple m c (launchOf m c g) n.toNat f5 else reportInst m c g n.toNat f5
  | .job d c s =>
    match (m.core d c).job with
    | some j =>
      reportTuple m j.ctx (launchOf m j.ctx j.graph) j.node.toNat
        (faultField cause code j.index.toNat s.val d.val c.val)
    | none => m

/-- The engine record of a stop (15 R362). -/
def engineRecord (m : Module) (i : ChainId) (k : Chain) (code sub addr status : Nat) : Rec8 :=
  let req := match k.who with
    | some w => fld (stridOf w) 0 16
    | none => 0xFFFF
  let sl := match i with
    | .job _ _ s => s.val
    | .node _ _ _ _ => 0
  let inst := if k.cls = .copy then k.inst.val else 0
  { w0 := BitVec.ofNat 64 (fld k.pos 0 16 * 2 ^ 48 + req * 2 ^ 32 + sl * 2 ^ 28 + engCode k.cls * 2 ^ 24 +
      inst * 2 ^ 21 + sub * 2 ^ 8 + code)
    w1 := BitVec.ofNat 64 (k.head.toNat + 32 * k.pos)
    w2 := (m.die k.engDie).cyc
    w3 := BitVec.ofNat 64 addr
    w4 := BitVec.ofNat 64 (progWord k)
    w5 := BitVec.ofNat 64 status }

/-- A chain ends as stopped (15 R362): state 4, its hold released, a fault tuple of cause 8. -/
def endStopped (m : Module) (i : ChainId) (code : Nat) : Module := reportChain (endChain m i 4) i 8 code

/-- A command or record of a chain stops (15 R362): its engine record, held or stopped, and the fault tuple. -/
def stopChain (m : Module) (i : ChainId) (code sub addr status : Nat) : Module :=
  let k := m.chain i
  if engineHeld code then
    let k := { k with held := true, tier := false, old := none }
    reportChain (m.setChain i { k with record := engineRecord m i k code sub addr status }) i 6 code
  else
    let k := { k with state := 4 }
    endStopped (m.setChain i { k with record := engineRecord m i k code sub addr status }) i code

/-! ### Ending and killing a job -/

/-- The lease of a core's job ends and its request is withdrawn (06 R177, 11 R322). -/
def endLease (m : Module) (d : Fin 16) (c : Fin 128) : Module :=
  m.modCluster d (clusterOf c) fun x => { x with
    lease := match x.lease with
      | some (h, n) => if h = c then none else some (h, n)
      | none => none
    reqs := x.reqs.filter fun r => !decide (r.core = c) }

/-- What KILL does to a job beside its streams (11 R322): chains, lease, parked requests, group bits. The release that clears
the bits has stalled until the scrubber has retired the tags that it must not leave (07 R207). -/
def killJob (m : Module) (d : Fin 16) (c : Fin 128) : Module :=
  let m := (coreChains d c).foldl (fun m i => cancelChain m i true) m
  let m := endLease m d c
  let m := StreamName.all.foldl (fun m n => withdraw m ⟨d, c, n⟩) m
  if (memberOf m d c).isEmpty then m
  else leaveAll (retireTags m d (partyStale m d c)) d c

/-- Whether an interrupt may be taken in a wait (09 R271): those that it lists, while their condition does not hold. -/
def Wait.aside : Wait → Bool
  | .none | .rdv | .gbar _ _ | .gbarNext _ | .waits _ _ _ | .waitb _ _ | .lease | .tuple _ | .ecnc => true
  | .atomic | .replied _ _ | .lost _ _ | .gbarDone _ | .woken _ | .waitbDone _ _ | .waitbOvr _ | .waitbReset | .leased
  | .tupleDone _ _ | .tupleCancelled | .invm _ _ => false

/-- Whether the atomic of a bundle has been sent: the rest of the bundle has been tested with it (15 R373). -/
def Wait.inFlight : Wait → Bool
  | .atomic | .replied _ _ | .lost _ _ => true
  | _ => false

/-- Whether a stream has issued a bundle that cannot be set aside. -/
def Stream.midBundle (s : Stream) : Bool := s.issued.isSome && !s.paged && !(s.wait.aside && s.cwait.aside)

/-- A stream of a failed job stops at its next bundle boundary (15 R353): one in the middle of a bundle retires that first, and
one whose bundle issues in the same cycle (`now` false) issues it. -/
def failStream (now : Bool) (s : Stream) : Stream :=
  if s.status = .running ∧ (!now ∨ s.midBundle) then { s with doomed := true }
  else { s with status := .failed, wait := .none, cwait := .none, issued := none, paged := false, doomed := false }

/-- The streams of a failed job. -/
def failStreams (m : Module) (d : Fin 16) (c : Fin 128) : Module :=
  let f := failStream m.reports.isNone
  m.modCore d c fun x => { x with l := f x.l, x := f x.x, st := f x.st }

/-- A job fails (15 R353): its streams stop, it ends as a KILL ends it, its instance is reported with the cause
0x07 and the stream's trap code. -/
def failJob (m : Module) (w : Who) (code : Nat) : Module :=
  let m := failStreams (killJob m w.die w.core) w.die w.core
  match (m.core w.die w.core).job with
  | some j =>
    reportInst m j.ctx j.graph j.node.toNat
      (faultField 7 code j.index.toNat (streamNo w.stream) w.die.val w.core.val)
  | none => m

/-! ### Taking a trap -/

/-- The class of a trap code raised by a stream (15 R351): 0 held, 1 continued, 2 failed. -/
def trapClass (code : Nat) : Nat :=
  if code = 0x0B then 1 else if code = 0x0D ∨ code = 0x11 ∨ code = 0x12 then 2 else 0

/-- The words of a trap record (15 R354). -/
def trapRecord (m : Module) (w : Who) (seq : BitVec 16) (pc : DevAddr) (t : Trap) : Rec8 :=
  { w0 := BitVec.ofNat 64 (seq.toNat * 2 ^ 48 + stridOf w * 2 ^ 32 + t.place * 2 ^ 24 + t.sub * 2 ^ 16 +
      trapClass t.code * 2 ^ 8 + t.code)
    w1 := pc.setWidth 64
    w2 := t.stamp.getD (m.die w.die).cyc
    w3 := t.addr
    w4 := t.opa
    w5 := t.opb
    w6 := t.opc
    w7 := t.info }

/-- Write a stream's trap record; the previous one moves (15 R353). -/
def writeRecord (m : Module) (w : Who) (pc : DevAddr) (t : Trap) : Module :=
  m.modStrm w fun s => { s with
    recs := s.recs + 1, tprev := s.trec, trec := trapRecord m w (s.recs + 1) pc t }

/-- The loop end check (04 R136): the next address and the loop stack. -/
def loopEnd (p : DevAddr) : List LoopEntry → DevAddr × List LoopEntry
  | [] => (p + 64, [])
  | e :: es =>
    if e.stop = p then
      if 1 < e.remaining then (e.start, { e with remaining := e.remaining - 1 } :: es)
      else loopEnd p es
    else (p + 64, e :: es)

/-- Move past the bundle at the program counter without a transfer; the handler performs no end check (04 R136). -/
def advance (s : Stream) : Stream :=
  if s.handler.isSome then { s with pc := s.pc + 64 }
  else
    let (pc, ls) := loopEnd s.pc s.loops
    { s with pc := pc, loops := ls }

/-- Put back the token that a stream took from its FIFO on a side (02 R36). -/
def untakeTok (st : StreamName) (left : Bool) (c : Core) : Core :=
  match st, left with
  | .l, false => { c with txl := c.txl + 1 }
  | .x, true => { c with tlx := c.tlx + 1 }
  | .x, false => { c with tsx := c.tsx + 1 }
  | .s, true => { c with txs := c.txs + 1 }
  | _, _ => c

/-- A bundle that has issued goes back: the tokens it took return to their FIFOs (02 R36, 09 R271). -/
def unissue (m : Module) (w : Who) : Module :=
  match (m.strm w).issued with
  | none => m
  | some i =>
    let m := m.modCore w.die w.core fun c =>
      let c := if i.popL then untakeTok w.stream true c else c
      if i.popR then untakeTok w.stream false c else c
    m.modStrm w fun s => { s with issued := none }

/-- What a trap does at its stream (15 R353 to R355): the record, then what the class asks. `m` is the module as the bundle
found it, so the bundle has no effect of its own. -/
def enterTrap (m : Module) (w : Who) (t : Trap) : Module :=
  let m := match t.line with
    | some l => pushAlog m 4 (l * 64) 127
    | none => m
  -- WINDOW clears the refusal that it reports (14 R347)
  let m := if t.code = 10 then m.modCtx (m.core w.die w.core).ctx fun x =>
      { x with refused := Tbl.set false x.refused ((t.addr.toNat - 0x1000000000) / 2 ^ 32) false } else m
  let pc := (m.strm w).pc
  let m := unissue (withdraw m w) w
  let m := match (m.strm w).wait with
    | .lease | .leased => endLease m w.die w.core
    | _ => m
  let m := m.modStrm w fun s => { s with
    wait := .none, cwait := .none, paged := false, restored := []
    rdvs := if s.cwait = .rdv then s.rdvs - 1 else s.rdvs }
  let m := writeRecord m w pc t
  match trapClass t.code with
  | 1 => m.modStrm w fun s => { advance s with handler := s.handler.map (· + 1) }
  | 2 => failJob (m.modStrm w fun s => { s with status := .failed }) w t.code
  | _ =>
    let m := m.modStrm w fun s => if s.doomed then failStream true { s with status := .held } else { s with status := .held }
    match (m.core w.die w.core).job with
    | some j =>
      reportTuple m j.ctx (launchOf m j.ctx j.graph) j.node.toNat
        (faultField 5 t.code j.index.toNat (streamNo w.stream) w.die.val w.core.val)
    | none => m

/-- Whether a fault on the fetch of the first bundle of the user-level handler makes a trap DOUBLE (15 R361). -/
def isDouble (s : Stream) (t : Trap) : Bool :=
  decide (s.handler = some 0) && t.place == 6 && [5, 6, 7, 0x0F, 0x10].contains t.code

/-- Taking a trap. A fetch fault at the entry of the handler is recorded, and DOUBLE is raised after it (15 R361). -/
def takeTrap (m : Module) (w : Who) (t : Trap) : Module :=
  if isDouble (m.strm w) t then
    let m := match t.line with
      | some l => pushAlog m 4 (l * 64) 127
      | none => m
    enterTrap (writeRecord m w (m.strm w).pc t) w { code := 0x11, place := 6, sub := t.code }
  else enterTrap m w t

/-- The bundle in progress raises a trap: everything it did is undone and the trap is taken. -/
def raise (t : Trap) (s : State) : State :=
  { s with m := takeTrap s.src s.cur t, verdict := .trapped t }

/-- The return from the user-level handler (09 R272): the program counter takes hs0 and the handler ends. -/
def leaveHandler (s : Stream) : Stream :=
  let pc := (Tbl.get 0 s.hs 0).setWidth 57
  let w := match s.aside with
    | some (p, k, c) => if p = pc then (k, c) else (Wait.none, Wait.none)
    | none => (Wait.none, Wait.none)
  { s with pc := pc, handler := none, aside := none, wait := w.1, cwait := w.2 }

/-- The first free service slot of a die for a pager stream: the race-tag scrubber occupies slot 0 and the
re-synchronisation logic slot 1 (01 R13; log 72). -/
def freeService (m : Module) (d : Fin 16) : Option Nat :=
  ((List.range 16).drop 2).find? fun n =>
    let x := Tbl.get {} (m.die d).services n
    decide (x.chain = none) && decide (x.who = none) && decide (x.dev = none)

/-- Hand a flash-tier page to a pager stream of a die (14 R341): none while all its slots are taken. -/
def pagerCall (m : Module) (d : Fin 16) (x : Service) : Option Module :=
  (freeService m d).map fun n => m.modDie d fun y =>
    let old := Tbl.get {} y.services n
    { y with services := Tbl.set {} y.services n { x with clk := old.clk, phases := old.phases } }

/-- The bundle in progress meets a flash-tier page: the pager takes it, with the record of the first fault (14 R341). -/
def pageBundle (s : State) (t : Trap) : Option Module :=
  (pagerCall s.src s.cur.die
    { who := some s.cur, dev := some (s.srcCore.ctx, t.addr.setWidth 57)
      trap := some { t with stamp := some (s.src.die s.cur.die).cyc } }).map fun m =>
    m.modStrm s.cur fun x => { x with paged := true }

/-- The rank of a trap among the causes one bundle meets (15 R352). -/
def trapRank (t : Trap) : Nat :=
  match t.code with
  | 0x11 | 0x12 => 1
  | 0x01 => 2
  | 0x0D => 3
  | 0x02 | 0x03 | 0x04 | 0x0A | 0x13 | 0x14 => 4
  | 0x05 | 0x06 | 0x07 | 0x0F | 0x10 => 5
  | 0x09 => 6
  | 0x08 | 0x0C => 7
  | _ => 8

/-- Whether a trap comes before another (15 R352). -/
def trapBefore (t u : Trap) : Bool :=
  let r := trapRank t
  let q := trapRank u
  decide (r < q) || (decide (r = q) && (decide (t.place < u.place) ||
    (decide (t.place = u.place) && decide (t.code < u.code))))

/-- What an op's result makes of the state. -/
def finish (s : State) (r : Res) : Out :=
  .next (match r with
    | .ok s' => s'
    | .error (.wait m) => { s with m := m, verdict := .blocked }
    | .error .hold => { s with m := s.src, verdict := .unissued }
    | .error (.tier t) => (match pageBundle s t with
      | some m => { s with m := m, verdict := .blocked }
      | none => { s with m := s.src, verdict := .unissued })
    | .error (.trap t) => raise t s)

/-- A trap of the bundle in progress with no more than a code and a place (15 R354). -/
def trapAt {α : Type} (place code : Nat) : Except Stop α := .error (.trap { code := code, place := place })

end Sys2Proof.Machine
end

