-- ==== Sys2Proof/Machine/Nodes.lean ====
section
/-! DEFINITION. Nodes of live graph instances as the rest of the machine meets them: which node a core runs, what
KILL and CHECKPOINT make of it, and non-pre-emptible regions (11 R303, R321 to R324). -/

namespace Sys2Proof.Machine

/-- Fields of a node record (11 R298). -/
def nodeFld (l : Line) (lo n : Nat) : Nat := fld l.toNat lo n
def nodeKind (l : Line) : Nat := nodeFld l 0 3
def nodeClass (l : Line) : Nat := nodeFld l 3 2
def nodeRestart (l : Line) : Bool := bitAt l.toNat 5
def nodeInh (l : Line) : Bool := bitAt l.toNat 6
def nodePrio (l : Line) : Nat := nodeFld l 8 3
def nodeWidth (l : Line) : Nat := nodeFld l 16 8
def nodeNpred (l : Line) : Nat := nodeFld l 32 16
def nodeCkpt (l : Line) : Nat := nodeFld l 48 16
def nodeEst (l : Line) : Nat := nodeFld l 64 32
def nodeSucc (l : Line) (i : Nat) : Nat := nodeFld l (96 + 16 * i) 16
def nodeDie (l : Line) : Nat := nodeFld l 160 8
def nodeSig (l : Line) : Nat := nodeFld l 192 57
def nodeOpa (l : Line) : Nat := nodeFld l 256 64
def nodeOpb (l : Line) : Nat := nodeFld l 320 64

/-- Whether a class may use a core (01 R19): 0 ANY, 1 D, 2 C. -/
def classUses (cls : Nat) (c : Fin 128) : Bool :=
  match cls with
  | 1 => decide (c.val < 32)
  | 2 => decide (32 ≤ c.val)
  | _ => true

/-- The cores a running node holds. -/
def NodeRun.cores (n : NodeRun) : List (Fin 128) :=
  match n.st with
  | .running cs _ _ => cs
  | _ => []

/-- The instance and the node that a core's job belongs to, while the node runs on that core. -/
def jobNode (m : Module) (d : Fin 16) (c : Fin 128) : Option (Instance × NodeRun) :=
  match (m.core d c).job with
  | none => none
  | some j =>
    match findInst m j.ctx j.graph with
    | none => none
    | some i =>
      (i.nodes.find? fun n => decide (n.node.toNat = j.node.toNat) && decide (n.die = d) && n.cores.contains c).map
        fun n => (i, n)

/-- Update a node of an instance. -/
def modNode (m : Module) (c : Fin 64) (g : DevAddr) (n : BitVec 16) (f : NodeRun → NodeRun) : Module :=
  modInst m c g fun i => { i with nodes := i.nodes.map fun x => if x.node = n then f x else x }

def findNode (m : Module) (c : Fin 64) (g : DevAddr) (n : BitVec 16) : Option NodeRun :=
  (findInst m c g).bind fun i => i.nodes.find? fun x => decide (x.node = n)

/-- Whether a CHECKPOINT stops the streams of a core at their next bundle boundary (11 R322, R324). -/
def stopping (m : Module) (d : Fin 16) (c : Fin 128) : Bool :=
  match jobNode m d c with
  | some (_, n) =>
    !n.heldBack && (match n.decision with
      | .checkpoint _ => true
      | _ => false)
  | none => false

/-- Whether any job of a node has an open region (11 R324). -/
def regionOpen (m : Module) (n : NodeRun) : Bool := n.cores.any fun c => (m.core n.die c).region.isSome

/-- Whether a core's streams and the engine accesses to its scratchpads stand still (15 R365). -/
def coreFrozen (m : Module) (d : Fin 16) (c : Fin 128) : Bool :=
  isFrozen m d (.unit d c) || isFrozen m d (.cluster d (clusterOf c))

/-- Whether a context has not reached its share of a die's ready pool (14 R348). -/
def poolShare (m : Module) (d : Fin 16) (c : Fin 64) : Bool :=
  decide (((m.die d).pool.filter fun p => decide (p.ctx = c)).length < ctxPshare m c)

/-- An entry among those of an overflow, which stand by readiness (11 R303). -/
def insertOlder (e : PoolEnt) : List PoolEnt → List PoolEnt
  | [] => [e]
  | f :: fs => if e.seq < f.seq then e :: f :: fs else f :: insertOlder e fs

/-- The oldest node of a die's overflow that can enter its pool enters it, and its charge is released (11 R303, 14 R348). -/
def enterPool (m : Module) (d : Fin 16) : Option Module :=
  let x := m.die d
  (x.overflow.find? fun e => decide (x.pool.length < 4096) && poolShare m d e.ctx).map fun e =>
    (m.modDie d fun y => { y with pool := y.pool ++ [e], overflow := y.overflow.filter fun f => !decide (f = e) }).modCtx e.ctx
      fun y => { y with spill := y.spill - 64 }

/-- Up to `n` nodes of the overflow enter the pool. -/
def enterAll (d : Fin 16) : Nat → Module → Module
  | 0, m => m
  | n + 1, m => match enterPool m d with
    | some m => enterAll d n m
    | none => m

/-- Put a node into its die's ready pool, behind those of the overflow that can enter it, or hold it in the overflow when the pool
is full (11 R303) or its context has its share (14 R348; log 75): none when the context's spill quota refuses it. -/
def poolAdd (m : Module) (d : Fin 16) (e : PoolEnt) : Option Module :=
  let m := enterAll d (m.die d).overflow.length m
  if (m.die d).pool.length < 4096 ∧ poolShare m d e.ctx then
    some (m.modDie d fun y => { y with pool := y.pool ++ [e] })
  else if ctxSquota m e.ctx < (m.ctx e.ctx).spill + 64 then none
  else some ((m.modDie d fun y => { y with overflow := insertOlder e y.overflow }).modCtx e.ctx
    fun y => { y with spill := y.spill + 64 })

/-- Remove a node of an instance; the group bits of jobs that are out end with it. -/
def dropNode (m : Module) (c : Fin 64) (g : DevAddr) (n : BitVec 16) : Module :=
  let m := match findNode m c g n with
    | some x => dropBits m x.die c g n
    | none => m
  modInst m c g fun i => { i with nodes := i.nodes.filter fun x => !decide (x.node = n) }

/-- A node returns to the pool at its priority and its moment of readiness (11 R322), ahead of any that became ready
after it. A pool that is full then reports it with cause 4 when the quota allows no overflow. A node of a reported instance
is not dispatched again (11 R296). -/
def backToPool (m : Module) (c : Fin 64) (g : DevAddr) (n : NodeRun) (prio : Nat) : Module :=
  let e : PoolEnt := { ctx := c, graph := g, node := n.node, prio := prio, readyAt := n.readyAt,
                       levelAt := (m.die n.die).cyc, seq := n.seq }
  if (findInst m c g).any (fun i => i.reported) then dropNode m c g n.node
  else match poolAdd m n.die e with
    | some m => m
    | none => reportInst m c g n.node.toNat 4

/-- Whether the array of a cluster has a command in progress, a held one among them (15 R362). -/
def arrayBusy (m : Module) (d : Fin 16) (k : Fin 8) : Bool :=
  m.chains.any fun x => x.2.fired.isSome && decide (engineOf x.2 = .kantele d k)

/-- The lease of a job ends, once its command in progress has completed (06 R177). -/
def dropLease (m : Module) (d : Fin 16) (c : Fin 128) : Module :=
  let k := clusterOf c
  m.modCluster d k fun x => { x with
    lease := match x.lease with
      | some (h, n) => if h = c then (if arrayBusy m d k then some (h, 0) else none) else some (h, n)
      | none => none }

/-- The jobs of a node are chosen for CHECKPOINT: their leases end as LREL ends them, and requests that wait are withdrawn
(06 R177). -/
def chooseCheckpoint (m : Module) (n : NodeRun) : Module :=
  n.cores.foldl (fun m c => (dropLease m n.die c).modCluster n.die (clusterOf c) fun x => { x with
    reqs := x.reqs.filter fun r => !decide (r.core = c) }) m

/-- Stop every stream of a core at once, dropping what it waits for. -/
def stopStreams (m : Module) (d : Fin 16) (c : Fin 128) : Module :=
  m.modCore d c fun x =>
    let f := fun (s : Stream) => { s with status := .idle, wait := .none, cwait := .none, issued := none, paged := false, parityAt := none }
    { x with l := f x.l, x := f x.x, st := f x.st }

/-- KILL of a running node (11 R322). Its cores are free once its chains have ended. -/
def killNode (m : Module) (c : Fin 64) (g : DevAddr) (n : NodeRun) : Module :=
  match n.st with
  | .running cs _ pr =>
    let m := cs.foldl (fun m k => stopStreams (killJob m n.die k) n.die k) m
    let m := modNode m c g n.node fun x =>
      { x with st := .waiting, decision := .none, heldBack := false, chosen := false, jobsLeft := 0, saved := [],
               savedChains := [], savedOld := [] }
    backToPool m c g n pr
  | _ => m

/-- Take the action that regions have held back, once none of the node's is open (11 R324). -/
def releaseAction (m : Module) (i : Instance) (n : NodeRun) : Module :=
  if n.heldBack && !regionOpen m n then
    match n.decision with
    | .kill => killNode m i.ctx i.graph n
    | _ => modNode (chooseCheckpoint m n) i.ctx i.graph n.node fun x => { x with heldBack := false }
  else m

/-- Close the region of a core's job (11 R324). -/
def closeRegion (m : Module) (d : Fin 16) (c : Fin 128) : Module :=
  let node := jobNode m d c
  let m := m.modCore d c fun x => { x with region := none }
  match node with
  | some (i, n) => releaseAction m i n
  | none => m

/-- A KILL or CHECKPOINT decided against a node: held while a region of it is open (11 R322, R324). -/
def decideNode (m : Module) (c : Fin 64) (g : DevAddr) (n : NodeRun) (x : Decision) : Module :=
  if regionOpen m n then modNode m c g n.node fun y => { y with decision := x, heldBack := true }
  else match x with
    | .kill => killNode m c g n
    | x => modNode (chooseCheckpoint m n) c g n.node fun y => { y with decision := x, heldBack := false }

/-- Whether a held action against a core's node is pending (11 R324). -/
def actionHeld (m : Module) (d : Fin 16) (c : Fin 128) : Bool :=
  match jobNode m d c with
  | some (_, n) => n.heldBack
  | none => false

/-- The pool holds an unplaced KERN node above a priority whose class can use a core (11 R308). -/
def higherWaits (m : Module) (d : Fin 16) (c : Fin 128) (pr : Nat) : Bool :=
  (m.die d).pool.any fun e => decide (pr < e.prio) &&
    (match findNode m e.ctx e.graph e.node with
     | some n => nodeKind n.image == 0 && classUses (nodeClass n.image) c
     | none => false)

end Sys2Proof.Machine
end

