-- ==== Sys2Proof/Machine/Stops.lean ====
section
/-! DEFINITION. What a stream meets when an access cannot be performed: its trap, the pager (14 R341), a wait. -/

namespace Sys2Proof.Machine

/-- The bundle does not issue yet: a queue, a free entry or a constant word is missing (02 R39, 01 R26). -/
def waiting {α : Type} (_s : State) : Except Stop α := .error .hold

/-- The bundle has issued and waits, having done nothing. -/
def parked {α : Type} (s : State) : Except Stop α := .error (.wait s.src)

/-- The local address at which a context sees a tracked line of physical memory (01 R22, 14 R332, R334). -/
def localOf (m : Module) (ctx : Fin 64) (line : Nat) : Nat :=
  let o := (line - scratchBase) % 0x10000000
  if o < 0x8000000 then 0x200000000 + o - ctxDbase m ctx
  else 0x100000000 + (o - 0x8000000) % 0x1000000 - ctxCbase m ctx

/-- The trap of a race (15 R354): the line, the stream's own tag, the conflicting tag and whether it was a write. -/
def raceTrap (m : Module) (w : Who) (place line : Nat) (t : Tag) (write : Bool) : Trap :=
  { code := 8, place := place, addr := BitVec.ofNat 64 (localOf m (m.core w.die w.core).ctx line),
    opc := BitVec.ofNat 64 (tagBits (.party w.core.val (ownCount m w.die w.core))),
    info := BitVec.ofNat 64 (tagBits t + if write then 2 ^ 36 else 0) }

/-- What an access that is not performed makes of the bundle in progress at a place. -/
def accStop {α : Type} (s : State) (place : Nat) : AccStop → Except Stop α
  | .fault c sub a l => .error (.trap { code := c, place := place, sub := sub, addr := BitVec.ofNat 64 a, line := l })
  | .race _ line t w => .error (.trap (raceTrap s.src s.cur place line t w))
  | .quota a => .error (.trap { code := 9, place := place, addr := BitVec.ofNat 64 a })
  | .busy => .error .hold
  | .tier a => .error (.tier { code := 6, place := place, addr := BitVec.ofNat 64 a })

/-- An access, or its stop. -/
def orStop {α : Type} (s : State) (place : Nat) (r : Except AccStop α) : Except Stop α :=
  match r with
  | .ok a => .ok a
  | .error e => accStop s place e

/-- A change that stands even while the bundle waits (09 R271). -/
def State.stand (f : Module → Module) (s : State) : State := { s with m := f s.m, pre := s.pre.map f }

/-- A wait that leaves a change standing. -/
def parkWith {α : Type} (s : State) (f : Module → Module) : Except Stop α := .error (.wait (f s.src))

/-- The trap of an invalid slot, or PRIV, at a barrier slot that an instruction names (07 R209, 14 R333, 15 R352). -/
def slotGrant (s : State) (place : Nat) (slot : Nat) : Except Stop Unit :=
  if !(s.src.barrier s.cur.die (Fin.ofNat 256 slot)).valid then
    .error (.trap { code := 1, place := place, addr := BitVec.ofNat 64 (32 * slot) })
  else if !grantSlot s.src s.srcCore.ctx slot then trapAt place 2
  else .ok ()

/-- The trap of a slot whose ovr is set: OVERRUN, or RACE for a dropped window write (08 R242). -/
def overrunTrap (s : State) (place slot : Nat) (raced : Option (W64 × W64 × W64)) : Trap :=
  match raced with
  | some (line, _, stamp) =>
    { code := 8, place := place, addr := line, info := stamp
      opc := BitVec.ofNat 64 (tagBits (.party s.cur.core.val (ownCount s.src s.cur.die s.cur.core))) }
  | none => { code := 12, place := place, addr := BitVec.ofNat 64 (32 * slot) }

/-- Whether physical memory lies within die scope of a core: the scratchpads of its die and of its cluster (07 R191). -/
def dieScope (w : Who) (pa : Nat) : Bool :=
  isScratch pa && decide (trackedDie pa = w.die) &&
    (let o := (pa - scratchBase) % 0x10000000
     decide (o < 0x8000000) || decide ((o - 0x8000000) / 0x1000000 = (clusterOf w.core).val))

/-- Whether an atomic that another stream of the job has sent, to memory within the scope, waits to be performed (07 R191 to
R193). -/
def atomsAhead (m : Module) (w : Who) (wide : Bool) : Bool :=
  m.atomsPending.any fun r => (wide || dieScope w r.pa) && r.members.any fun x =>
    decide (x.who.die = w.die) && decide (x.who.core = w.core) && decide (x.who.stream ≠ w.stream)

/-- Whether a release by a stream waits: for what its job has sent before within its scope, die or (`wide`) module, or for the
scrubber (07 R192, R193, R207; log 90). -/
def releaseWaits (m : Module) (w : Who) (wide : Bool) : Bool :=
  releaseStalls m w.die w.core || atomsAhead m w wide

/-- The job of the bundle in progress releases: its clock before, its count advanced after (07 R193). -/
def jobClock (s : State) : Clock := releaseClock s.m s.cur.die s.cur.core
def releaseTest (s : State) (wide : Bool) : Except Stop Unit :=
  if releaseWaits s.src s.cur wide then .error .hold else .ok ()
def jobReleased (s : State) : State := s.modM fun m => afterRelease m s.cur.die s.cur.core
def jobAcquire (k : Clock) (s : State) : State := s.modM fun m => acquire m s.cur.die s.cur.core k

end Sys2Proof.Machine
end

