-- ==== Sys2Proof/Machine/Operands.lean ====
section
/-! DEFINITION. Operand forms: sources by kind and type, destinations, queues, the predicate and the shape
(02 R38 to R46, R50, R51; 04 R103 to R106, R131). -/

namespace Sys2Proof.Machine

/-- Bytes of an element; a block type has no element (02 R45). -/
def tyBytes : Ty → Nat
  | .i8 | .n8 => 1
  | .i16 | .n16 | .bf16 | .f16 => 2
  | .i32 | .n32 | .f32 => 4
  | .i64 => 8
  | .f4 | .a8 | .nw8 => 0

def tyBits (t : Ty) : Nat := 8 * tyBytes t

def tySigned : Ty → Bool
  | .i8 | .i16 | .i32 | .i64 => true
  | _ => false

def tyFloat : Ty → Bool
  | .f32 | .bf16 | .f16 => true
  | _ => false

/-- The exact value of a `w`-bit pattern read in an integer type. -/
def valI (t : Ty) (x : Nat) : Int := if tySigned t then signed (tyBits t) x else ((x % 2 ^ tyBits t : Nat) : Int)

/-- An element widened to 64 bits for an s destination (04 R106). -/
def ext64 (t : Ty) (x : Nat) : Nat := if tySigned t then sext64 (tyBits t) x else x % 2 ^ tyBits t

/-- The where code of a place (15 R354). -/
def placeCode : Place → Nat
  | .control => 1 | .address => 2 | .slot1 => 3 | .slot2 => 4 | .slot3 => 5 | .event => 6

/-- s0 to s63 as a stream reads them; in the handler 56 to 63 are the shadow scalars (02 R51). s0 reads zero. -/
def Stream.sreg (x : Stream) (n : Nat) : Nat :=
  if x.handler.isSome && decide (56 ≤ n) then (Tbl.get 0 x.hs (n - 56)).toNat
  else if n = 0 then 0 else (Tbl.get 0 x.s n).toNat

def Stream.areg (x : Stream) (n : Nat) : Nat := (Tbl.get 0 x.a n).toNat

def Stream.mreg (x : Stream) (n : Nat) : MReg := Tbl.get {} x.m n

/-- The 64-bit view of an m register (04 R131). -/
def MReg.view (m : MReg) : Nat := m.len.toNat * 2 ^ 32 + m.inc.toNat

/-- A literal field or constant-bank word in a type (02 R43). -/
def widen (t : Ty) (w : Nat) : Nat := if t = .i64 then sext64 32 w else w % 2 ^ tyBits t

/-- An operand that has been read: a tile, a mask, or one scalar for every element. -/
inductive Val where
  | tile (bits : Nat)
  | mask (bits : Nat)
  | scal (bits : Nat)
  deriving DecidableEq, Repr

/-- Element `i` of a value in a type (02 R43, 04 R105). -/
def Val.elem (t : Ty) (v : Val) (i : Nat) : Nat :=
  match v with
  | .tile b => fld b (tyBits t * i) (tyBits t)
  | .mask b => if bitAt b i then (match t with
    | .f32 => 0x3F800000 | .bf16 => 0x3F80 | .f16 => 0x3C00 | _ => 1) else 0
  | .scal b => b % 2 ^ tyBits t

/-- p0 to p7; p0 is all true (02 R50, 04 R104). -/
def Core.preg (c : Core) (n : Nat) : Nat := if n = 0 then 2 ^ 4096 - 1 else (Tbl.get 0 c.p n).toNat

def Core.vreg (c : Core) (n : Nat) : Nat := (Tbl.get 0 c.v n).toNat

def Core.queue (c : Core) : QName → Queue
  | .qlx => c.qlx
  | .qxs => c.qxs
def Core.setQueue (c : Core) (q : QName) (x : Queue) : Core :=
  match q with
  | .qlx => { c with qlx := x }
  | .qxs => { c with qxs := x }

/-- The bits 63:0 that a trap record keeps of a source (15 R354; log 10). -/
def rawSrc (s : State) (wide : Bool) : Src → Nat
  | .tile n => fld (s.srcCore.vreg n.val) 0 64
  | .qlx => match s.srcCore.qlx.entries with
    | e :: _ => fld e.data.toNat 0 64
    | [] => 0
  | .qxs => match s.srcCore.qxs.entries with
    | e :: _ => fld e.data.toNat 0 64
    | [] => 0
  | .mask n => fld (s.srcCore.preg n.val) 0 64
  | .s n => s.srcStrm.sreg n.val
  | .a n => s.srcStrm.areg n.val
  | .m n => (s.srcStrm.mreg n.val).view
  | .k n =>
    let w := (Tbl.get 0 s.srcCore.kbank n.val).toNat
    if wide then sext64 32 w else w
  | .lit w => if wide then sext64 32 w.toNat else w.toNat

/-- The three operand words of a slot op (15 R354); zero for any other op. -/
def operandWords (i : Instr) (s : State) : W64 × W64 × W64 :=
  match i.shape with
  | some (o, sh) =>
    let get := fun (u : SrcRule) (x : Src) =>
      if u = .unused then (0 : W64) else BitVec.ofNat 64 (rawSrc s (decide (sh.tys = tyZero ∨ o.ty = .i64)) x)
    (get sh.a o.a, get sh.b o.b, get sh.c o.c)
  | none => (0, 0, 0)

/-- A trap record with the operand words (15 R354). For RACE, opc holds the stream's own tag. -/
def Trap.withOps (t : Trap) (w : W64 × W64 × W64) : Trap :=
  { t with opa := w.1, opb := w.2.1, opc := if t.code = 8 then t.opc else w.2.2 }

/-- The trap of a stream's atomic that the home engine cannot perform (08 R229, 15 R365). -/
def failAtomic (m : Module) (w : Who) (t : Trap) : Module :=
  if (m.strm w).wait = .atomic then
    takeTrap m w (match (m.strm w).issued with
      | some i => t.withOps (i.opa, i.opb, i.opc)
      | none => t)
  else m

/-- Fill the operand words of a slot op's trap, that of a fault which the pager holds among them (14 R341). -/
def withSrcs (i : Instr) (s : State) (r : Res) : Res :=
  match r with
  | .error (.trap t) => .error (.trap (t.withOps (operandWords i s)))
  | .error (.tier t) => .error (.tier (t.withOps (operandWords i s)))
  | r => r

/-- Whether a neighbouring stream has executed EXIT (11 R307). -/
def hasExited (c : Core) (n : StreamName) : Bool := decide ((c.stream n).status = .exited)

/-- The device address of an entry slot of a ring. -/
def Ring.slotAddr (r : Ring) (k : Nat) : Nat := r.addr.toNat + 4096 * (k % (r.quota / 4096))

/-- The head entry of a queue that the bundle pops (02 R39, 11 R307, R312, 15 R364). -/
def popHead (s : State) (place : Nat) (q : QName) : Except Stop Tile :=
  let c := s.srcCore
  match (c.queue q).entries with
  | e :: _ => if e.bad then trapAt place 0x0F else .ok e.data
  | [] =>
    match (c.queue q).ring with
    | some r =>
      if r.sizes.isEmpty then
        if hasExited c (match q with
          | .qlx => .l
          | .qxs => .x) then trapAt place 1 else waiting s
      else match loadDev s.src none none c.ctx .read (r.slotAddr r.first) 4096 with
        | .error e => accStop s place e
        | .ok _ => waiting s
    | none =>
      if hasExited c (match q with
        | .qlx => .l
        | .qxs => .x) then trapAt place 1 else waiting s

/-- Note that the bundle pops a queue at retirement. -/
def notePop (q : QName) (s : State) : State :=
  match q with
  | .qlx => { s with bnd := { s.bnd with popQlx := true } }
  | .qxs => { s with bnd := { s.bnd with popQxs := true } }

/-- Whether a queue holds no entry, its ring included (04 R134). -/
def Queue.holdsNone (q : Queue) : Bool :=
  q.entries.isEmpty && (match q.ring with
    | some r => r.sizes.isEmpty
    | none => true)

/-- Read a source in a type for an op at a place (02 R42, R43). -/
def fetch (s : State) (place : Nat) (t : Ty) (x : Src) : Except Stop (Val × State) :=
  match x with
  | .tile n => .ok (.tile (s.srcCore.vreg n.val), s)
  | .qlx => (popHead s place .qlx).map fun d => (.tile d.toNat, notePop .qlx s)
  | .qxs => (popHead s place .qxs).map fun d => (.tile d.toNat, notePop .qxs s)
  | .mask n => .ok (.mask (s.srcCore.preg n.val), s)
  | .s n => .ok (.scal (s.srcStrm.sreg n.val), s)
  | .a n => .ok (.scal (s.srcStrm.areg n.val), s)
  | .m n => .ok (.scal (s.srcStrm.mreg n.val).view, s)
  | .k n =>
    if n.val < s.srcCore.nconst ∧ s.srcCore.kloaded ≤ n.val then waiting s
    else .ok (.scal (widen t (Tbl.get 0 s.srcCore.kbank n.val).toNat), s)
  | .lit w => .ok (.scal (widen t w.toNat), s)

/-- A non-tile source as a 64-bit value: literals and constants sign-extended (02 R43). -/
def fetch64 (s : State) (place : Nat) (x : Src) : Except Stop Nat :=
  (fetch s place .i64 x).map fun v => match v.1 with
    | .scal b => b
    | _ => 0

/-- A non-tile source as a 32-bit word: a literal or constant whole, bits 31:0 of a scalar (04 R109, R112). -/
def fetch32 (s : State) (place : Nat) (x : Src) : Except Stop Nat :=
  (fetch s place .n32 x).map fun v => match v.1 with
    | .scal b => b % 2 ^ 32
    | _ => 0

/-- The shape of the stream's tiles (02 R55), as read at issue. -/
def rowsOf (s : State) : Nat := s.srcStrm.rows.toNat
def colsOf (s : State) : Nat := s.srcStrm.cols.toNat
def elemsOf (s : State) : Nat := rowsOf s * colsOf s

/-- The shape's bytes in a type exceed a tile (02 R45). -/
def tooBig (s : State) (t : Ty) : Bool := decide (4096 < elemsOf s * tyBytes t)

/-- Elements packed at `w` bits each, element 0 lowest. -/
def packBits (w : Nat) : List Nat → Nat
  | [] => 0
  | x :: xs => x % 2 ^ w + 2 ^ w * packBits w xs

/-- Note a register write for the operand log, and the 32-bit elements that it renews (15 R363). -/
def noteWrite (r : RegName) (v els : Nat) (s : State) : State :=
  { s with bnd := { s.bnd with writes := (r, v) :: s.bnd.writes, renewed := (r, els) :: s.bnd.renewed } }

/-- All 32-bit elements of a register. -/
def allEls : Nat := 2 ^ 1024 - 1

/-- The 32-bit elements that hold element `i`, `w` bits wide, of those that a predicate chooses. -/
def elsOf (w n pred : Nat) : Nat :=
  (List.range n).foldl (fun a i => if bitAt pred i then
    orN a ((2 ^ ((w + 31) / 32) - 1) * 2 ^ (w * i / 32)) else a) 0

def setV (n : Fin 32) (v els : Nat) (s : State) : State :=
  noteWrite (.v n) v els (s.modCore fun c => { c with v := Tbl.set 0 c.v n.val (BitVec.ofNat 32768 v) })

def setP (n : Fin 8) (v els : Nat) (s : State) : State :=
  noteWrite (.p n) v els (s.modCore fun c => { c with p := Tbl.set 0 c.p n.val (BitVec.ofNat 4096 v) })

/-- Write s0 to s63: s0 is discarded, 56 to 63 are the shadow scalars in the handler (02 R44, R51). -/
def setS (n : Fin 64) (v : Nat) (s : State) : State :=
  if s.srcStrm.handler.isSome && decide (56 ≤ n.val) then
    noteWrite (.hs (Fin.ofNat 8 (n.val - 56))) (v % 2 ^ 64) allEls
      (s.modStrm fun x => { x with hs := Tbl.set 0 x.hs (n.val - 56) (BitVec.ofNat 64 v) })
  else if n.val = 0 then s
  else noteWrite (.s n) (v % 2 ^ 64) allEls (s.modStrm fun x => { x with s := Tbl.set 0 x.s n.val (BitVec.ofNat 64 v) })

def setA (n : Fin 16) (v : Nat) (s : State) : State :=
  noteWrite (.a n) (v % 2 ^ 48) allEls (s.modStrm fun x => { x with a := Tbl.set 0 x.a n.val (BitVec.ofNat 48 v) })

/-- A whole modifier register. -/
def MReg.bits (m : MReg) : Nat := m.mode.toNat * 2 ^ 112 + m.base.toNat * 2 ^ 64 + m.view

def setM (n : Fin 16) (v : MReg) (s : State) : State :=
  noteWrite (.m n) v.bits allEls (s.modStrm fun x => { x with m := Tbl.set {} x.m n.val v })

/-- Write a 64-bit result to a scalar destination, or discard it (02 R44, 04 R106, R131). -/
def setScal (d : Dst) (v : Nat) (s : State) : State :=
  match d with
  | .s n => setS n v s
  | .a n => setA n v s
  | .m n => setM n { s.srcStrm.mreg n.val with inc := BitVec.ofNat 32 v, len := BitVec.ofNat 32 (v / 2 ^ 32) } s
  | _ => s

/-- Bytes that the rings of a context hold (11 R312). -/
def ringCharge (m : Module) (c : Fin 64) : Nat := (m.ctx c).spill

/-- Push an entry on a queue: into its entries, or to the tail of its ring (02 R39, 11 R307, R311, R312). -/
def pushQueue (place : Nat) (q : QName) (e : QEntry) (s : State) : Res :=
  let c := s.core
  let x := c.queue q
  let held := match x.ring with
    | some r => !r.sizes.isEmpty
    | none => false
  if x.entries.length < 8 ∧ !held then
    .ok (s.modCore fun c => c.setQueue q { x with entries := x.entries ++ [e] })
  else
    let full : Res := if hasExited c (match q with
      | .qlx => .x
      | .qxs => .s) then trapAt place 1 else waiting s
    match x.ring with
    | none => full
    | some r =>
      if r.quota ≤ 4096 * r.sizes.length then full
      else
        match storeDev s.m none none c.ctx (r.slotAddr (r.first + r.sizes.length)) (toBytes 4096 e.data.toNat) with
        | .error t => accStop s place t
        | .ok m =>
          -- a fault of the translation comes before the quota (15 R352)
          if ctxSquota s.m c.ctx < (s.m.ctx c.ctx).spill + 4096 then trapAt place 9
          else
          let m := m.modCtx c.ctx fun y => { y with spill := y.spill + 4096 }
          .ok ({ s with m := m }.modCore fun c =>
            c.setQueue q { c.queue q with ring := some { r with sizes := r.sizes ++ [e.size] } })

/-- The queue that an op pushes. -/
def dstQueue : Dst → Option QName
  | .qlx => some .qlx
  | .qxs => some .qxs
  | _ => none

/-- The trap of a stop; a flash-tier page counts as its TIER. -/
def Stop.cause : Stop → Option Trap
  | .trap t | .tier t => some t
  | _ => none

/-- Of two causes of one op, the one that R352 puts first; the causes of the push at its end are among them. -/
def firstCause (r : Res) (push : Res) : Res :=
  match r, push with
  | .error e, .error p =>
    (match e.cause, p.cause with
    | some t, some u => if trapBefore u t then .error p else r
    | _, _ => r)
  | r, _ => r

/-- The outcome of a slot op (15 R352 to R354). -/
def slot (i : Instr) (s : State) (r : Res) : Out :=
  finish s (withSrcs i s (match (slotCode i).bind fun c => dstQueue c.2.dst with
    | some q => firstCause r (pushQueue (placeCode i.place) q { size := 0, data := 0 } s)
    | none => r))

/-- The elements of a tile destination after a write under the predicate (04 R104). -/
def mergeTile (w n : Nat) (old pred : Nat) (new : List Nat) : Nat :=
  let es := (List.range n).zip new
  let low := packBits w (es.map fun e => if bitAt pred e.1 then e.2 else fld old (w * e.1) w)
  low + (old / 2 ^ (w * n)) * 2 ^ (w * n)

/-- Write elements of a type to a tile, a queue or nothing, under a predicate (02 R44, 04 R104). -/
def writeTile (place : Nat) (t : Ty) (d : Dst) (pred : Nat) (es : List Nat) (s : State) : Res :=
  let n := es.length
  match d with
  | .v r => .ok (setV r (mergeTile (tyBits t) n (s.core.vreg r.val) pred es) (elsOf (tyBits t) n pred) s)
  | .qxs => pushQueue place .qxs { size := n * tyBytes t, data := BitVec.ofNat 32768 (mergeTile (tyBits t) n 0 pred es) } s
  | .qlx => pushQueue place .qlx { size := n * tyBytes t, data := BitVec.ofNat 32768 (mergeTile (tyBits t) n 0 pred es) } s
  | _ => .ok s

/-- Write mask bits 0 to n - 1 under a predicate (04 R104, R105). -/
def writeMask (d : Dst) (pred : Nat) (bs : List Bool) (s : State) : State :=
  match d with
  | .p r =>
    let n := bs.length
    let old := s.core.preg r.val
    setP r (mergeTile 1 n old pred (bs.map fun b => if b then 1 else 0)) (elsOf 1 n pred) s
  | _ => s

/-- The predicate of a slot op as read at issue. -/
def predOf (s : State) (o : SlotOp) : Nat := s.srcCore.preg o.pred.val

/-- The linear indices of the shape. -/
def indices (s : State) : List Nat := List.range (elemsOf s)

end Sys2Proof.Machine
end

