-- ==== Sys2Proof/Machine/Flags.lean ====
section
/-! DEFINITION. Flag computations and the element-wise scheme: sticky flags (02 R56, 03 R82, 05 R158), the
scalar form and the tile form of an element-wise op (04 R104, R106). -/

namespace Sys2Proof.Machine

/-- Add flags to fflg; a SETX of the same bundle joins them (02 R56, 04 R141). -/
def addFlags (f : Flags) (s : State) : State :=
  { s.modStrm fun x => { x with fflg := x.fflg ||| f } with bnd := { s.bnd with fflg := s.bnd.fflg ||| f } }

/-- Add the IEEE flags of jet coefficient `j` to jflg, and SAT and BADSCALE to fflg (05 R158). -/
def addJetFlags (j : Nat) (f : Flags) (s : State) : State :=
  let g : BitVec 20 := (f.setWidth 20 &&& 0x1F) <<< (5 * j)
  let s := { s.modStrm fun x => { x with jflg := x.jflg ||| g } with bnd := { s.bnd with jflg := s.bnd.jflg ||| g } }
  addFlags (f &&& (fSAT ||| fBAD)) s

def orFlags (l : List Flags) : Flags := l.foldl (· ||| ·) 0

/-- The rounding mode, as read at issue (02 R57). -/
def rmodeOf (s : State) : Nat := s.srcStrm.rmode.toNat

/-- The flags of the elements that compute: those whose predicate bit is true (03 R82). -/
def predFlags (pred : Nat) (l : List (Nat × Flags)) : Flags :=
  orFlags (((List.range l.length).zip l).map fun e => if bitAt pred e.1 then e.2.2 else 0)

/-- An element-wise op in scalar form (04 R106): one element of its sources' types, written in its result type. -/
def scalarElem (place : Nat) (o : SlotOp) (ta tb tc td : Ty) (f : Nat → Nat → Nat → Nat × Flags) (s : State) : Res := do
  let (a, s) ← fetch s place ta o.a
  let (b, s) ← fetch s place tb o.b
  let (c, s) ← fetch s place tc o.c
  let r := f (a.elem ta 0) (b.elem tb 0) (c.elem tc 0)
  .ok (addFlags r.2 (setScal o.dst (ext64 td r.1) s))

/-- An element-wise op on tiles (04 R103 to R105). -/
def tileElem (place : Nat) (o : SlotOp) (ta tb tc td : Ty) (f : Nat → Nat → Nat → Nat × Flags) (s : State) : Res := do
  if tooBig s ta || tooBig s td then trapAt place 1
  else
    let (a, s) ← fetch s place ta o.a
    let (b, s) ← fetch s place tb o.b
    let (c, s) ← fetch s place tc o.c
    let pred := predOf s o
    let rs := (indices s).map fun i => f (a.elem ta i) (b.elem tb i) (c.elem tc i)
    let s ← writeTile place td o.dst pred (rs.map Prod.fst) s
    .ok (addFlags (predFlags pred rs) s)

/-- Whether a slot op of an instruction is in scalar form. -/
def isScalar (i : Instr) (o : SlotOp) : Bool :=
  match i.shape with
  | some (_, sh) => scalarForm sh o
  | none => false

/-- An element-wise op, in scalar form or on tiles. -/
def elemOp (i : Instr) (o : SlotOp) (ta tb tc td : Ty) (f : Nat → Nat → Nat → Nat × Flags) (s : State) : Out :=
  let place := placeCode i.place
  slot i s (if isScalar i o then scalarElem place o ta tb tc td f s else tileElem place o ta tb tc td f s)

end Sys2Proof.Machine
end

