-- ==== Sys2Proof/Machine/Address.lean ====
section
/-! DEFINITION. The address ops (02 R41, 04 R129 to R131). -/

namespace Sys2Proof.Machine

/-- The unit of a modifier register in bytes; none for a reserved mode (02 R50). -/
def MReg.unit (m : MReg) : Option Nat :=
  match m.mode.toNat with
  | 0 => some 1
  | 1 => some 64
  | 2 => some 4096
  | _ => none

/-- An exact value cut to an a register. -/
def aBits (x : Int) : Nat := wrapN 48 x

/-- A post-increment by a modifier register: `f` takes the address, the increment in bytes and the length in bytes;
a reserved mode raises ILLEGAL. -/
def postInc (a m : Fin 16) (f : MReg → Int → Int → Int → Int) (s : State) : Out :=
  let r := s.srcStrm.mreg m.val
  finish s (match r.unit with
    | none => trapAt 2 1
    | some u =>
      .ok (setA a (aBits (f r (s.srcStrm.areg a.val) (r.inc.toInt * u) ((r.len.toNat : Int) * u))) s))

/-- AINC (R130). -/
def execAinc (a : Fin 16) (imm : W32) (s : State) : Out :=
  finish s (.ok (setA a (aBits ((s.srcStrm.areg a.val : Int) + imm.toInt)) s))

/-- AMOD (R130). -/
def execAmod (a : Fin 16) (m : Fin 16) (s : State) : Out :=
  postInc a m (fun _ x inc len =>
    if len = 0 then x + inc else x - x % len + (x % len + inc) % len) s

/-- ABRV (R130): N is the largest power of two not above the length. -/
def execAbrv (a : Fin 16) (m : Fin 16) (s : State) : Out :=
  postInc a m (fun _ x inc len =>
    let b := Nat.log2 len.toNat
    let n : Int := (2 ^ b : Nat)
    if len < 2 then x + inc
    else
      let off := x % n
      let r := (revN b off.toNat + revN b (inc % n).toNat) % 2 ^ b
      x - off + (revN b r : Int)) s

/-- ACIR (R130). -/
def execAcir (a : Fin 16) (m : Fin 16) (s : State) : Out :=
  postInc a m (fun r x inc len =>
    if len = 0 then x + inc else (r.base.toNat : Int) + (x - r.base.toNat + inc) % len) s

/-- ASET (02 R41). -/
def execAset (a : Fin 16) (hi : BitVec 4) (lo : W32) (s : State) : Out :=
  finish s (.ok (setA a (hi.toNat * 2 ^ 32 + lo.toNat) s))

/-- MSET: one part of a modifier register (02 R41). -/
def execMset (part : Fin 4) (m : Fin 16) (v : W32) (s : State) : Out :=
  let r := s.srcStrm.mreg m.val
  finish s (.ok (setM m (match part.val with
    | 0 => { r with inc := v }
    | 1 => { r with len := v }
    | 2 => { r with base := BitVec.ofNat 48 (fld r.base.toNat 32 16 * 2 ^ 32 + v.toNat) }
    | _ => { r with
        base := BitVec.ofNat 48 (fld v.toNat 0 16 * 2 ^ 32 + fld r.base.toNat 0 32)
        mode := BitVec.ofNat 4 (fld v.toNat 16 4) }) s))

end Sys2Proof.Machine
end

