-- ==== Sys2Proof/Machine/FloatOps.lean ====
section
/-! DEFINITION. The float V ops (04 R110 to R112) and their series rules under a jet order (05 R157 to R159). -/

namespace Sys2Proof.Machine

/-- Registers that a group's base is a multiple of (05 R157). -/
def jetAlign (k : Nat) : Nat := if k = 0 then 1 else if k = 1 then 2 else 4

/-- The coefficients of a source under order `k`: a group of registers, or a constant (05 R157). -/
def jetSrc (s : State) (place : Nat) (t : Ty) (k : Nat) (x : Src) : Except Stop (List Val × State) :=
  match x with
  | .tile n =>
    if n.val % jetAlign k ≠ 0 then trapAt place 1
    else .ok ((List.range (k + 1)).map fun j => .tile (s.srcCore.vreg (n.val + j)), s)
  | .qlx => trapAt place 1
  | x => (fetch s place t x).map fun v => (v.1 :: (List.range k).map (fun _ => .scal 0), v.2)

/-- A destination that a jet-aware op may write (05 R157). -/
def jetDstOk (k : Nat) : Dst → Bool
  | .v n => n.val % jetAlign k == 0
  | .qxs => false
  | _ => true

/-- Coefficient `j` of a destination group. -/
def jetDst (d : Dst) (j : Nat) : Dst :=
  match d with
  | .v n => .v (Fin.ofNat 32 (n.val + j))
  | d => d

/-- Write the coefficients of a group and their flags (05 R157, R158). -/
def writeJet (place : Nat) (t : Ty) (d : Dst) (pred : Nat) (rs : List (List (Nat × Flags))) (s : State) :
    Nat → Nat → Res
  | 0, _ => .ok s
  | n + 1, j =>
    let col := rs.map fun r => r.getD j (0, 0)
    match writeTile place t (jetDst d j) pred (col.map Prod.fst) s with
    | .ok s => writeJet place t d pred rs (addJetFlags j (predFlags pred col) s) n (j + 1)
    | .error e => .error e

/-- A jet-aware op on tiles under order `k`: `f` maps the coefficients of A, B and C to those of the result. -/
def jetOp (place : Nat) (o : SlotOp) (ta tb tc td : Ty) (k : Nat)
    (f : List Nat → List Nat → List Nat → List (Nat × Flags)) (s : State) : Res := do
  if tooBig s ta || tooBig s td || !jetDstOk k o.dst then trapAt place 1
  else
    let (a, s) ← jetSrc s place ta k o.a
    let (b, s) ← jetSrc s place tb k o.b
    let (c, s) ← jetSrc s place tc k o.c
    let pred := predOf s o
    let at_ := fun (t : Ty) (v : List Val) (i : Nat) => v.map fun x => x.elem t i
    let rs := (indices s).map fun i => f (at_ ta a i) (at_ tb b i) (at_ tc c i)
    writeJet place td o.dst pred rs s (k + 1) 0

/-- A higher coefficient under the general rules of 05 R159: the canonical NaN with NV when a value that the
formula reads is a NaN or an infinity. -/
def coefOf (f : FFmt) (reads : List FVal) (r : Unit → Nat × Flags) : Nat × Flags :=
  if reads.any (fun v => v.isNan || v.isInf) then invalid f else r ()

/-- All coefficients: the first by the op's own description, the others by `h`, which sees the coefficients formed
so far; after a NaN first coefficient all are canonical NaNs (05 R159). -/
def jetFrom (f : FFmt) (k : Nat) (c0 : Nat × Flags) (h : Nat → List Nat → Nat × Flags) : List (Nat × Flags) :=
  if (unpack f c0.1).isNan then c0 :: (List.range k).map fun _ => (f.qnan, 0)
  else
    (List.range k).foldl (fun acc j => acc ++ [h (j + 1) (acc.map Prod.fst)]) [c0]

/-- Coefficient `j` of a list, as a value. -/
def cf (f : FFmt) (l : List Nat) (j : Nat) : FVal := unpack f (l.getD j 0)
def cfs (f : FFmt) (l : List Nat) (k : Nat) : List FVal := (List.range (k + 1)).map (cf f l)

/-- The exact sum of x_j y_(k−j) for j from `lo` to `hi`. -/
def convSum (f : FFmt) (x y : List Nat) (k lo n : Nat) : Dy :=
  (List.range n).foldl (fun acc i =>
    Dy.add acc (Dy.mul (cf f x (lo + i)).dy (cf f y (k - (lo + i))).dy)) Dy.zero

/-- The coefficient with its sign carried through a rounding (05 R159). -/
def rndCoef (f : FFmt) (mode : Nat) (v : FVal) (n : Int) : Nat × Flags :=
  match v with
  | .zero neg => (f.zero neg, 0)
  | v => rndDy f mode ⟨v.dy.m, v.dy.e + n⟩

/-- FADD and FSUB of jets. -/
def jetAdd (f : FFmt) (mode k : Nat) (sub : Bool) (a b : List Nat) : List (Nat × Flags) :=
  jetFrom f k ((if sub then fsubB else faddB) f mode (a.getD 0 0) (b.getD 0 0)) fun j _ =>
    coefOf f [cf f a j, cf f b j] fun _ =>
      rndDy f mode (if sub then Dy.sub (cf f a j).dy (cf f b j).dy else Dy.add (cf f a j).dy (cf f b j).dy)

/-- FMUL and, with C, FMA of jets. -/
def jetMul (f : FFmt) (mode k : Nat) (a b : List Nat) : List (Nat × Flags) :=
  jetFrom f k (fmulB f mode (a.getD 0 0) (b.getD 0 0)) fun j _ =>
    coefOf f (cfs f a j ++ cfs f b j) fun _ => rndDy f mode (convSum f a b j 0 (j + 1))
def jetFma (f : FFmt) (mode k : Nat) (a b c : List Nat) : List (Nat × Flags) :=
  jetFrom f k (fmaB f mode (a.getD 0 0) (b.getD 0 0) (c.getD 0 0)) fun j _ =>
    coefOf f (cf f c j :: (cfs f a j ++ cfs f b j)) fun _ =>
      rndDy f mode (Dy.add (convSum f a b j 0 (j + 1)) (cf f c j).dy)

/-- FDIV of jets. -/
def jetDiv (f : FFmt) (mode k : Nat) (a b : List Nat) : List (Nat × Flags) :=
  jetFrom f k (fdivB f mode (a.getD 0 0) (b.getD 0 0)) fun j q =>
    if (cf f b 0).dy.m = 0 then invalid f
    else coefOf f (cf f a j :: (cfs f b j ++ cfs f q (j - 1))) fun _ =>
      rndQuot f mode (mode == 3) (Dy.sub (cf f a j).dy (convSum f b q j 1 j)) (cf f b 0).dy

/-- FLRP of jets. -/
def jetLrp (f : FFmt) (mode k : Nat) (a b t : List Nat) : List (Nat × Flags) :=
  jetFrom f k (flrpB f mode (a.getD 0 0) (b.getD 0 0) (t.getD 0 0)) fun j _ =>
    coefOf f (cfs f a j ++ cfs f b j ++ cfs f t j) fun _ =>
      rndDy f mode (Dy.add (cf f a j).dy
        (Dy.sub (convSum f t b j 0 (j + 1)) (convSum f t a j 0 (j + 1))))

/-- FSCL of jets. -/
def jetScl (f : FFmt) (mode k : Nat) (n : Int) (a : List Nat) : List (Nat × Flags) :=
  jetFrom f k (fsclB f mode (a.getD 0 0) n) fun j _ =>
    coefOf f [cf f a j] fun _ => rndCoef f mode (cf f a j) n

/-- FNEG, FMOV and FABS of jets: whether the higher coefficients change their sign. -/
def jetSign (f : FFmt) (k : Nat) (c0 : Nat × Flags) (flip : Bool) (a : List Nat) : List (Nat × Flags) :=
  jetFrom f k c0 fun j _ =>
    coefOf f [cf f a j] fun _ => (if flip then (fnegB f (a.getD j 0)).1 else a.getD j 0, 0)

/-- Coefficients of a chosen operand. -/
def jetPick (f : FFmt) (k : Nat) (c0 : Nat × Flags) (x : List Nat) : List (Nat × Flags) :=
  jetFrom f k c0 fun j _ => coefOf f [cf f x j] fun _ => (x.getD j 0, 0)

/-- FMIN and FMAX of jets. -/
def jetMinMax (f : FFmt) (k : Nat) (max : Bool) (a b : List Nat) : List (Nat × Flags) :=
  jetPick f k (minmaxB f max (a.getD 0 0) (b.getD 0 0))
    (if pickMM max (cf f a 0) (cf f b 0) = .b then b else a)

/-- FCLP of jets: which operand supplies coefficient 0 (05 R159). -/
def jetClp (f : FFmt) (k : Nat) (a lo hi : List Nat) : List (Nat × Flags) :=
  let fromA := decide (pickMM false (cf f a 0) (cf f hi 0) = .a)
  let x := if fromA then a else hi
  let loWins := if fromA then (!(cf f lo 0).isNan && ltV true (cf f x 0) (cf f lo 0))
    else decide (pickMM true (cf f lo 0) (cf f x 0) = .a)
  jetPick f k (fclpB f (a.getD 0 0) (lo.getD 0 0) (hi.getD 0 0)) (if loWins then lo else x)

/-- A float V op: element-wise in scalar form or without a jet order, by the series rules otherwise (04 R107). -/
def floatOp (i : Instr) (o : SlotOp) (t : Ty) (f : Nat → Nat → Nat → Nat × Flags)
    (g : Nat → List Nat → List Nat → List Nat → List (Nat × Flags)) (s : State) : Out :=
  let k := s.srcStrm.jord.toNat
  if isScalar i o || k == 0 then elemOp i o t t t t f s
  else slot i s (jetOp 3 o t t t t k (g k) s)

/-- FADD in f32 (04 R110). -/
def execFaddF32 (o : SlotOp) (s : State) : Out :=
  floatOp (.faddF32 o) o .f32 (fun a b _ => faddB FFmt.f32 (rmodeOf s) a b)
    (fun k a b _ => jetAdd FFmt.f32 (rmodeOf s) k false a b) s

/-- FSUB in f32 (04 R110). -/
def execFsubF32 (o : SlotOp) (s : State) : Out :=
  floatOp (.fsubF32 o) o .f32 (fun a b _ => fsubB FFmt.f32 (rmodeOf s) a b)
    (fun k a b _ => jetAdd FFmt.f32 (rmodeOf s) k true a b) s

/-- FMUL in f32 (04 R110). -/
def execFmulF32 (o : SlotOp) (s : State) : Out :=
  floatOp (.fmulF32 o) o .f32 (fun a b _ => fmulB FFmt.f32 (rmodeOf s) a b)
    (fun k a b _ => jetMul FFmt.f32 (rmodeOf s) k a b) s

/-- FMA in f32 (04 R110). -/
def execFmaF32 (o : SlotOp) (s : State) : Out :=
  floatOp (.fmaF32 o) o .f32 (fun a b c => fmaB FFmt.f32 (rmodeOf s) a b c)
    (fun k a b c => jetFma FFmt.f32 (rmodeOf s) k a b c) s

/-- FDIV in f32 (04 R110). -/
def execFdivF32 (o : SlotOp) (s : State) : Out :=
  floatOp (.fdivF32 o) o .f32 (fun a b _ => fdivB FFmt.f32 (rmodeOf s) a b)
    (fun k a b _ => jetDiv FFmt.f32 (rmodeOf s) k a b) s

/-- FMIN in f32 (04 R111). -/
def execFminF32 (o : SlotOp) (s : State) : Out :=
  floatOp (.fminF32 o) o .f32 (fun a b _ => minmaxB FFmt.f32 false a b)
    (fun k a b _ => jetMinMax FFmt.f32 k false a b) s

/-- FMAX in f32 (04 R111). -/
def execFmaxF32 (o : SlotOp) (s : State) : Out :=
  floatOp (.fmaxF32 o) o .f32 (fun a b _ => minmaxB FFmt.f32 true a b)
    (fun k a b _ => jetMinMax FFmt.f32 k true a b) s

/-- FADD in bf16 (04 R110). -/
def execFaddBf16 (o : SlotOp) (s : State) : Out :=
  floatOp (.faddBf16 o) o .bf16 (fun a b _ => faddB FFmt.bf16 (rmodeOf s) a b)
    (fun k a b _ => jetAdd FFmt.bf16 (rmodeOf s) k false a b) s

/-- FSUB in bf16 (04 R110). -/
def execFsubBf16 (o : SlotOp) (s : State) : Out :=
  floatOp (.fsubBf16 o) o .bf16 (fun a b _ => fsubB FFmt.bf16 (rmodeOf s) a b)
    (fun k a b _ => jetAdd FFmt.bf16 (rmodeOf s) k true a b) s

/-- FMUL in bf16 (04 R110). -/
def execFmulBf16 (o : SlotOp) (s : State) : Out :=
  floatOp (.fmulBf16 o) o .bf16 (fun a b _ => fmulB FFmt.bf16 (rmodeOf s) a b)
    (fun k a b _ => jetMul FFmt.bf16 (rmodeOf s) k a b) s

/-- FMA in bf16 (04 R110). -/
def execFmaBf16 (o : SlotOp) (s : State) : Out :=
  floatOp (.fmaBf16 o) o .bf16 (fun a b c => fmaB FFmt.bf16 (rmodeOf s) a b c)
    (fun k a b c => jetFma FFmt.bf16 (rmodeOf s) k a b c) s

/-- FDIV in bf16 (04 R110). -/
def execFdivBf16 (o : SlotOp) (s : State) : Out :=
  floatOp (.fdivBf16 o) o .bf16 (fun a b _ => fdivB FFmt.bf16 (rmodeOf s) a b)
    (fun k a b _ => jetDiv FFmt.bf16 (rmodeOf s) k a b) s

/-- FMIN in bf16 (04 R111). -/
def execFminBf16 (o : SlotOp) (s : State) : Out :=
  floatOp (.fminBf16 o) o .bf16 (fun a b _ => minmaxB FFmt.bf16 false a b)
    (fun k a b _ => jetMinMax FFmt.bf16 k false a b) s

/-- FMAX in bf16 (04 R111). -/
def execFmaxBf16 (o : SlotOp) (s : State) : Out :=
  floatOp (.fmaxBf16 o) o .bf16 (fun a b _ => minmaxB FFmt.bf16 true a b)
    (fun k a b _ => jetMinMax FFmt.bf16 k true a b) s

/-- FADD in f16 (04 R110). -/
def execFaddF16 (o : SlotOp) (s : State) : Out :=
  floatOp (.faddF16 o) o .f16 (fun a b _ => faddB FFmt.f16 (rmodeOf s) a b)
    (fun k a b _ => jetAdd FFmt.f16 (rmodeOf s) k false a b) s

/-- FSUB in f16 (04 R110). -/
def execFsubF16 (o : SlotOp) (s : State) : Out :=
  floatOp (.fsubF16 o) o .f16 (fun a b _ => fsubB FFmt.f16 (rmodeOf s) a b)
    (fun k a b _ => jetAdd FFmt.f16 (rmodeOf s) k true a b) s

/-- FMUL in f16 (04 R110). -/
def execFmulF16 (o : SlotOp) (s : State) : Out :=
  floatOp (.fmulF16 o) o .f16 (fun a b _ => fmulB FFmt.f16 (rmodeOf s) a b)
    (fun k a b _ => jetMul FFmt.f16 (rmodeOf s) k a b) s

/-- FMA in f16 (04 R110). -/
def execFmaF16 (o : SlotOp) (s : State) : Out :=
  floatOp (.fmaF16 o) o .f16 (fun a b c => fmaB FFmt.f16 (rmodeOf s) a b c)
    (fun k a b c => jetFma FFmt.f16 (rmodeOf s) k a b c) s

/-- FDIV in f16 (04 R110). -/
def execFdivF16 (o : SlotOp) (s : State) : Out :=
  floatOp (.fdivF16 o) o .f16 (fun a b _ => fdivB FFmt.f16 (rmodeOf s) a b)
    (fun k a b _ => jetDiv FFmt.f16 (rmodeOf s) k a b) s

/-- FMIN in f16 (04 R111). -/
def execFminF16 (o : SlotOp) (s : State) : Out :=
  floatOp (.fminF16 o) o .f16 (fun a b _ => minmaxB FFmt.f16 false a b)
    (fun k a b _ => jetMinMax FFmt.f16 k false a b) s

/-- FMAX in f16 (04 R111). -/
def execFmaxF16 (o : SlotOp) (s : State) : Out :=
  floatOp (.fmaxF16 o) o .f16 (fun a b _ => minmaxB FFmt.f16 true a b)
    (fun k a b _ => jetMinMax FFmt.f16 k true a b) s

/-- FABS (04 R112). -/
def execFabs (o : SlotOp) (s : State) : Out :=
  floatOp (.fabs o) o o.ty (fun a _ _ => fabsB (fmtOf o.ty) a)
    (fun k a _ _ => jetSign (fmtOf o.ty) k (fabsB (fmtOf o.ty) (a.getD 0 0)) (cf (fmtOf o.ty) a 0).neg a) s

/-- FNEG (04 R112). -/
def execFneg (o : SlotOp) (s : State) : Out :=
  floatOp (.fneg o) o o.ty (fun a _ _ => fnegB (fmtOf o.ty) a)
    (fun k a _ _ => jetSign (fmtOf o.ty) k (fnegB (fmtOf o.ty) (a.getD 0 0)) true a) s

/-- FMOV (04 R112). -/
def execFmov (o : SlotOp) (s : State) : Out :=
  floatOp (.fmov o) o o.ty (fun a _ _ => fmovB (fmtOf o.ty) a)
    (fun k a _ _ => jetSign (fmtOf o.ty) k (fmovB (fmtOf o.ty) (a.getD 0 0)) false a) s

/-- FSCL: the exponent is a signed 32-bit word (04 R112). -/
def execFscl (o : SlotOp) (s : State) : Out :=
  match fetch32 s 3 o.b with
  | .error e => slot (.fscl o) s (.error e)
  | .ok n =>
    -- beyond a thousand either way every result overflows or rounds to the same value
    let e := satI (signed 32 n) (-1000) 1000
    floatOp (.fscl o) o o.ty (fun a _ _ => fsclB (fmtOf o.ty) (rmodeOf s) a e)
      (fun k a _ _ => jetScl (fmtOf o.ty) (rmodeOf s) k e a) s

/-- FCLP (04 R112). -/
def execFclp (o : SlotOp) (s : State) : Out :=
  floatOp (.fclp o) o o.ty (fun a lo hi => fclpB (fmtOf o.ty) a lo hi)
    (fun k a lo hi => jetClp (fmtOf o.ty) k a lo hi) s

/-- FLRP (04 R112). -/
def execFlrp (o : SlotOp) (s : State) : Out :=
  floatOp (.flrp o) o o.ty (fun a b t => flrpB (fmtOf o.ty) (rmodeOf s) a b t)
    (fun k a b t => jetLrp (fmtOf o.ty) (rmodeOf s) k a b t) s

end Sys2Proof.Machine
end

