-- ==== Sys2Proof/Machine/IntOps.lean ====
section
/-! DEFINITION. The integer V ops (04 R108, R109). -/

namespace Sys2Proof.Machine

/-- Lowest and highest value of an integer type (04 R108). -/
def loI (t : Ty) : Int := if tySigned t then -((2 ^ (tyBits t - 1) : Nat) : Int) else 0
def hiI (t : Ty) : Int := if tySigned t then ((2 ^ (tyBits t - 1) : Nat) : Int) - 1 else ((2 ^ tyBits t : Nat) : Int) - 1

/-- A result modulo 2^w. -/
def toW (t : Ty) (x : Int) : Nat := wrapN (tyBits t) x

/-- Control word of IBFE and IBFI: position and length within `w` bits (04 R109). -/
def bfCtl (w c : Nat) : Nat × Nat :=
  let pos := fld c 0 7
  (pos, if w ≤ pos then 0 else min (fld c 8 7) (w - pos))

/-- Bit-field extract (04 R109). -/
def bfe (t : Ty) (a c : Nat) : Nat :=
  let (pos, len) := bfCtl (tyBits t) c
  let f := fld a pos len
  if len = 0 then 0 else if tySigned t then wrapN (tyBits t) (signed len f) else f

/-- Bit-field insert (04 R109). -/
def bfi (t : Ty) (a b c : Nat) : Nat :=
  let (pos, len) := bfCtl (tyBits t) c
  putFld a pos len (b % 2 ^ len)

/-- Leading zero bits of a `w`-bit pattern. -/
def clz (w a : Nat) : Nat := if a = 0 then w else w - 1 - Nat.log2 a

/-- An integer op on the exact values of A, B and C. -/
def intOp (i : Instr) (o : SlotOp) (f : Int → Int → Int → Int) (s : State) : Out :=
  let t := o.ty
  elemOp i o t t t t (fun a b c => (toW t (f (valI t a) (valI t b) (valI t c)), 0)) s

/-- An integer op on bit patterns. -/
def bitOp (i : Instr) (o : SlotOp) (f : Nat → Nat → Nat) (s : State) : Out :=
  elemOp i o o.ty o.ty o.ty o.ty (fun a b _ => (f a b % 2 ^ tyBits o.ty, 0)) s

/-- IADD: wrapping add (R108). -/
def execIadd (o : SlotOp) (s : State) : Out :=
  intOp (.iadd o) o (fun a b _ => a + b) s

/-- ISUB (R108). -/
def execIsub (o : SlotOp) (s : State) : Out :=
  intOp (.isub o) o (fun a b _ => a - b) s

/-- IADDS: saturating add (R108). -/
def execIadds (o : SlotOp) (s : State) : Out :=
  intOp (.iadds o) o (fun a b _ => satI (a + b) (loI o.ty) (hiI o.ty)) s

/-- ISUBS (R108). -/
def execIsubs (o : SlotOp) (s : State) : Out :=
  intOp (.isubs o) o (fun a b _ => satI (a - b) (loI o.ty) (hiI o.ty)) s

/-- IMUL: low half (R108). -/
def execImul (o : SlotOp) (s : State) : Out :=
  intOp (.imul o) o (fun a b _ => a * b) s

/-- IMULH: high half (R108). -/
def execImulh (o : SlotOp) (s : State) : Out :=
  intOp (.imulh o) o (fun a b _ => a * b / ((2 ^ tyBits o.ty : Nat) : Int)) s

/-- IMAD (R108). -/
def execImad (o : SlotOp) (s : State) : Out :=
  intOp (.imad o) o (fun a b c => a * b + c) s

/-- ISHL: the count is modulo the width (R108). -/
def execIshl (o : SlotOp) (s : State) : Out :=
  bitOp (.ishl o) o (fun a b => a * 2 ^ (b % tyBits o.ty)) s

/-- ISHR: logical (R108). -/
def execIshr (o : SlotOp) (s : State) : Out :=
  bitOp (.ishr o) o (fun a b => a / 2 ^ (b % tyBits o.ty)) s

/-- ISRA: arithmetic, set S (R108). -/
def execIsra (o : SlotOp) (s : State) : Out :=
  elemOp (.isra o) o o.ty o.ty o.ty o.ty
    (fun a b _ => (toW o.ty (valI o.ty a / ((2 ^ (b % tyBits o.ty) : Nat) : Int)), 0)) s

/-- IAND (R108). -/
def execIand (o : SlotOp) (s : State) : Out :=
  bitOp (.iand o) o (fun a b => Nat.land a b) s

/-- IOR (R108). -/
def execIor (o : SlotOp) (s : State) : Out :=
  bitOp (.ior o) o (fun a b => Nat.lor a b) s

/-- IXOR (R108). -/
def execIxor (o : SlotOp) (s : State) : Out :=
  bitOp (.ixor o) o (fun a b => xorN a b) s

/-- IMIN, compared in T (R108). -/
def execImin (o : SlotOp) (s : State) : Out :=
  intOp (.imin o) o (fun a b _ => min a b) s

/-- IMAX (R108). -/
def execImax (o : SlotOp) (s : State) : Out :=
  intOp (.imax o) o (fun a b _ => max a b) s

/-- IABS: lo gives lo (R108). -/
def execIabs (o : SlotOp) (s : State) : Out :=
  intOp (.iabs o) o (fun a _ _ => (a.natAbs : Int)) s

/-- ICLZ (R108). -/
def execIclz (o : SlotOp) (s : State) : Out :=
  bitOp (.iclz o) o (fun a _ => clz (tyBits o.ty) a) s

/-- IPOP (R108). -/
def execIpop (o : SlotOp) (s : State) : Out :=
  bitOp (.ipop o) o (fun a _ => popN (tyBits o.ty) a) s

/-- IMOV: the bits unchanged (R108). -/
def execImov (o : SlotOp) (s : State) : Out :=
  bitOp (.imov o) o (fun a _ => a) s

/-- IBFE: the control word is read whole (R109). -/
def execIbfe (o : SlotOp) (s : State) : Out :=
  elemOp (.ibfe o) o o.ty .n32 o.ty o.ty (fun a b _ => (bfe o.ty a b, 0)) s

/-- IBFI (R109). -/
def execIbfi (o : SlotOp) (s : State) : Out :=
  elemOp (.ibfi o) o o.ty o.ty .n32 o.ty (fun a b c => (bfi o.ty a b c, 0)) s

end Sys2Proof.Machine
end

