-- ==== Sys2Proof/Machine/Narrow.lean ====
section
/-! DEFINITION. The narrow block formats F4, A8 and NW8 (03 R84 to R93) and the slices of NW8 (05 R152, R153). Formats
are numbered 0 UNI, 1 E2M1, 2 POW, 3 HYB, 4 A8, 5 NW8 as QBLK numbers them. -/

namespace Sys2Proof.Machine

/-- Magnitudes of the signed F4 types by magnitude code, in units of the second component (R87). -/
def f4Mag (ty m : Nat) : Nat × Int :=
  match ty with
  | 1 => ([0, 1, 2, 3, 4, 6, 8, 12].getD m 0, -1)
  | 2 => ([0, 1, 2, 4, 8, 16, 32, 64].getD m 0, -3)
  | _ => ([0, 1, 2, 3, 4, 6, 8, 12].getD m 0, 0)

/-- The value of a code of a format at scale 1 (R87 to R90). -/
def codeVal (fmt c : Nat) : Dy :=
  match fmt with
  | 0 => ⟨2 * (c % 16 : Nat) - 15, -1⟩
  | 4 => ⟨signed 8 c, 0⟩
  | 5 => ⟨2 * (c % 256 : Nat) - 255, -5⟩
  | ty =>
    let (m, e) := f4Mag ty (c % 8)
    ⟨if bitAt c 3 then -(m : Int) else m, e⟩

/-- The nearest magnitude code of a signed F4 type, ties to the even code (R93). -/
def nearMag (ty : Nat) (q : Dy) : Nat :=
  let val := fun (m : Nat) => let (a, e) := f4Mag ty m; (⟨a, e⟩ : Dy)
  let dist := fun (m : Nat) =>
    let d := Dy.sub q (val m)
    (⟨(d.m.natAbs : Int), d.e⟩ : Dy)
  (List.range 7).foldl (fun b i =>
    let m := i + 1
    if Dy.lt (dist m) (dist b) then m
    else if Dy.eq (dist m) (dist b) then (if m % 2 = 0 then m else b) else b) 0

/-- The code of a value already divided by the scale, and whether it saturated (R93). -/
def encodeNarrow (fmt : Nat) (q : Dy) : Nat × Bool :=
  let lim := fun (lo hi : Dy) (cl ch : Nat) (r : Nat) =>
    if Dy.lt hi q then (ch, true) else if Dy.lt q lo then (cl, true) else (r, false)
  let idx := fun (x : Dy) => (toInt 0 x).1
  match fmt with
  | 0 => lim ⟨-15, -1⟩ ⟨15, -1⟩ 0 15 (idx (Dy.add q ⟨15, -1⟩)).toNat
  | 4 => lim ⟨-128, 0⟩ ⟨127, 0⟩ 0x80 0x7F (wrapN 8 (idx q))
  | 5 => lim ⟨-255, -5⟩ ⟨255, -5⟩ 0 255 (idx (Dy.add ⟨q.m, q.e + 4⟩ ⟨255, -1⟩)).toNat
  | ty =>
    let (top, e) := f4Mag ty 7
    let neg := decide (q.m < 0)
    let a : Dy := ⟨(q.m.natAbs : Int), q.e⟩
    if Dy.lt ⟨top, e⟩ a then (if neg then 15 else 7, true)
    else
      let m := nearMag ty a
      (if m = 0 then 0 else if neg then 8 + m else m, false)

/-- Bytes of a block: 17 for F4, 33 for A8 and NW8 (R86). -/
def blockBytes (fmt : Nat) : Nat := if fmt < 4 then 17 else 33

/-- What a block decodes to: a NaN block, a bad scale, or its format and exponent (R84, R85). `cls` is 0 F4,
1 A8, 2 NW8. -/
inductive BlockKind where
  | nan
  | bad
  | scaled (fmt : Nat) (e : Nat)
  deriving DecidableEq, Repr

def blockKind (cls sb : Nat) : BlockKind :=
  if sb = 0xFF then .nan
  else if cls = 0 then .scaled (sb / 64) (sb % 64)
  else if sb / 64 ≠ 0 then .bad
  else .scaled (if cls = 1 then 4 else 5) sb

/-- Code `i` of block `b` of a tile of a class (R86). -/
def blockCode (cls tile b i : Nat) : Nat :=
  if cls = 0 then fld tile (8 * 17 * b + 4 * i) 4 else fld tile (8 * (33 * b + i)) 8
def blockSb (cls tile b : Nat) : Nat :=
  if cls = 0 then fld tile (8 * (17 * b + 16)) 8 else fld tile (8 * (33 * b + 32)) 8

/-- Codes of a block as bytes with its scale byte (R86). -/
def packBlock (f4 : Bool) (codes : List Nat) (sb : Nat) : List Nat :=
  (if f4 then (List.range 16).map fun i => codes.getD (2 * i) 0 + 16 * codes.getD (2 * i + 1) 0
   else (List.range 32).map fun i => codes.getD i 0) ++ [sb]

/-- A NaN block: codes zero, scale byte 0xFF (R93). -/
def nanBlock (f4 : Bool) : List Nat := packBlock f4 [] 0xFF

/-- One narrow element decoded into an IEEE format (R92). -/
def decodeNarrow (f : FFmt) (mode : Nat) (k : BlockKind) (c : Nat) : Nat × Flags :=
  match k with
  | .nan => (f.qnan, 0)
  | .bad => (f.qnan, fBAD)
  | .scaled fmt e =>
    let v := codeVal fmt c
    rndDyZ f mode false ⟨v.m, v.e + e - 32⟩

/-- A block of 32 values encoded at a scale byte (05 R149): bytes and flags. -/
def quantBlock (t : Ty) (fmt sb : Nat) (xs : List Nat) : List Nat × Flags :=
  let vs := xs.map (unpack (fmtOf t))
  if sb = 0xFF ∨ vs.any (fun v => v.isNan || v.isInf) then
    (nanBlock (decide (fmt < 4)), if vs.any (fun v => v.isSnan || v.isInf) then fNV else 0)
  else
    let rs := vs.map fun v => encodeNarrow fmt ⟨v.dy.m, v.dy.e - (sb % 64 : Nat) + 32⟩
    (packBlock (decide (fmt < 4)) (rs.map Prod.fst) sb, if rs.any Prod.snd then fSAT else 0)

/-- The integer form of a residual (R91). -/
def resInt (m c : Nat) : Int := 2 * (c % 2 ^ (8 - m) : Nat) - (2 ^ (8 - m) : Nat) + 1

/-- A slice of an NW8 block (05 R152): `sl` 0 .lead2, 1 .lead4, 2 .res2, 3 .res4. -/
def sliceBlock (sl : Nat) (sb : Nat) (codes : List Nat) : List Nat × Flags :=
  let f4 := decide (sl < 2)
  let m := if sl % 2 = 0 then 2 else 4
  match blockKind 2 sb with
  | .nan => (nanBlock f4, 0)
  | .bad => (nanBlock f4, fBAD)
  | .scaled _ e =>
    match sl with
    | 0 =>
      let tab := if e = 63 then [0xF, 0xC, 0x4, 0x7] else [0xD, 0xA, 0x2, 0x5]
      (packBlock true (codes.map fun c => tab.getD (c / 64) 0) (0xC0 + min e 62), 0)
    | 1 => (packBlock true (codes.map fun c => c / 16) e, 0)
    | _ =>
      if 5 ≤ e then (packBlock false (codes.map fun c => wrapN 8 (resInt m c)) (e - 5), 0)
      else (packBlock false (codes.map fun c => (encodeNarrow 4 ⟨resInt m c, (e : Int) - 5⟩).1) 0, 0)

/-- The word of plane `p` of a block (05 R153). -/
def planeWord (p : Nat) (codes : List Nat) : Nat :=
  ((List.range 32).map fun i => if bitAt (codes.getD i 0) (7 - p) then 2 ^ i else 0).sum

end Sys2Proof.Machine
end

