-- ==== Sys2Proof/Machine/ConvOps.lean ====
section
/-! DEFINITION. Conversions, block quantisation, slices, RAND and the jet moves (05 R142 to R153, R156, R162, R163). -/

namespace Sys2Proof.Machine

/-- Float to integer (R145). -/
def cvfiB (s : Ty) (t : Ty) (mode x : Nat) : Nat × Flags :=
  match unpack (fmtOf s) x with
  | .nan _ => (0, fNV)
  | .zero _ => (0, 0)
  | .inf n => (toW t (if n then loI t else hiI t), fNV)
  | .fin v =>
    let (r, ex) := toInt mode v
    if r < loI t then (toW t (loI t), fNV)
    else if hiI t < r then (toW t (hiI t), fNV)
    else (toW t r, if ex then 0 else fNX)

/-- Integer to float (R146). -/
def cvifB (s : Ty) (t : Ty) (mode x : Nat) : Nat × Flags := rndDyZ (fmtOf t) mode false ⟨valI s x, 0⟩

/-- A block tile has 32 or 64 columns and fits a register (03 R86). -/
def blockShape (s : State) (bytes : Nat) : Bool :=
  (colsOf s == 32 || colsOf s == 64) && decide (elemsOf s / 32 * bytes ≤ 4096)

/-- Write bytes as a whole to a tile or queue. -/
def writeBytes (o : SlotOp) (bs : List Nat) (s : State) : Res := writeTile 5 .n8 o.dst allOnes bs s
where
  /-- Every byte is written. -/
  allOnes : Nat := 2 ^ 4096 - 1

/-- RAND's mixing function (R156). -/
def mix64 (z : Nat) : Nat :=
  let z := xorN z (z / 2 ^ 30) * 0xBF58476D1CE4E5B9 % 2 ^ 64
  let z := xorN z (z / 2 ^ 27) * 0x94D049BB133111EB % 2 ^ 64
  xorN z (z / 2 ^ 31)

/-- jobid bits 47:0 (02 R58). -/
def Core.jobid (c : Core) : Nat :=
  match c.job with
  | some j => j.node.toNat * 2 ^ 16 + j.index.toNat
  | none => 0

/-- RAND's element (R156). -/
def randElem (t : Ty) (jobid key ctr e : Nat) : Nat :=
  let k := xorN key (jobid * 0x9E3779B97F4A7C15 % 2 ^ 64)
  let c := (ctr + e) % 2 ^ 64
  let rot := k / 2 ^ 32 + k % 2 ^ 32 * 2 ^ 32
  let x := mix64 ((mix64 (xorN c k) + rot) % 2 ^ 64)
  let unit := fun (f : FFmt) (n : Nat) => (rndDyZ f 0 false ⟨x / 2 ^ (64 - n), -(n : Int)⟩).1
  match t with
  | .f32 => unit .f32 24
  | .bf16 => unit .bf16 8
  | .f16 => unit .f16 11
  | t => x / 2 ^ (64 - tyBits t)

/-- CVT (R144); jet-aware (R159). -/
def execCvt (o : SlotOp) (s : State) : Out :=
  let st := (Instr.cvt o).tyA o.ty
  let k := s.srcStrm.jord.toNat
  let f := fmtOf st
  let g := fmtOf o.ty
  if isScalar (.cvt o) o || k == 0 then
    elemOp (.cvt o) o st st st o.ty (fun a _ _ => cvtB f g (rmodeOf s) a) s
  else
    slot (.cvt o) s (jetOp 5 o st st st o.ty k (fun a _ _ =>
      jetFrom g k (cvtB f g (rmodeOf s) (a.getD 0 0)) fun j _ =>
        coefOf g [cf f a j] fun _ => rndCoef g (rmodeOf s) (cf f a j) 0) s)

/-- CVFI (R145). -/
def execCvfi (o : SlotOp) (s : State) : Out :=
  let st := (Instr.cvfi o).tyA o.ty
  let mode := if o.opx.val / 4 = 1 then 1 else rmodeOf s
  elemOp (.cvfi o) o st st st o.ty (fun a _ _ => cvfiB st o.ty mode a) s

/-- CVIF (R146). -/
def execCvif (o : SlotOp) (s : State) : Out :=
  let st := (Instr.cvif o).tyA o.ty
  elemOp (.cvif o) o st st st o.ty (fun a _ _ => cvifB st o.ty (rmodeOf s) a) s

/-- QBLK: the scale bytes of stage 3 of the bypass (R147, R149). -/
def execQblk (o : SlotOp) (s : State) : Out :=
  let fmt := o.opx.val
  let nb := elemsOf s / 32
  slot (.qblk o) s (
    if tooBig s o.ty || !blockShape s (blockBytes fmt) then trapAt 5 1
    else match s.srcCore.stage3 with
    | none => trapAt 5 1
    | some ent =>
      if ent.format ≠ fmt ∨ ent.sbs.length ≠ nb then trapAt 5 1
      else do
        let (a, s) ← fetch s 5 o.ty o.a
        let rs := (List.range nb).map fun b =>
          quantBlock o.ty fmt (ent.sbs.getD b 0).toNat ((List.range 32).map fun j => a.elem o.ty (32 * b + j))
        let s ← writeBytes o (rs.flatMap Prod.fst) s
        .ok (addFlags (orFlags (rs.map Prod.snd)) s))

/-- DQBK (R150). -/
def execDqbk (o : SlotOp) (s : State) : Out :=
  let cls := o.opx.val
  slot (.dqbk o) s (if tooBig s o.ty || !blockShape s (if cls = 0 then 17 else 33) then trapAt 5 1 else do
    let (a, s) ← fetch s 5 .n8 o.a
    let bits := match a with
      | .tile b => b
      | _ => 0
    let pred := predOf s o
    let rs := (indices s).map fun e =>
      decodeNarrow (fmtOf o.ty) (rmodeOf s) (blockKind cls (blockSb cls bits (e / 32))) (blockCode cls bits (e / 32) (e % 32))
    let s ← writeTile 5 o.ty o.dst pred (rs.map Prod.fst) s
    .ok (addFlags (predFlags pred rs) s))

/-- DCF4: raw F4 codes, one byte each, at a power of two (R151). -/
def execDcf4 (o : SlotOp) (s : State) : Out :=
  slot (.dcf4 o) s (if tooBig s o.ty then trapAt 5 1 else do
    let (a, s) ← fetch s 5 .n8 o.a
    let n ← fetch32 s 5 o.b
    let e := satI (signed 32 n) (-1000) 1000
    let pred := predOf s o
    let rs := (indices s).map fun i =>
      let v := codeVal o.opx.val (a.elem .n8 i % 16)
      rndDyZ (fmtOf o.ty) (rmodeOf s) false ⟨v.m, v.e + e⟩
    let s ← writeTile 5 o.ty o.dst pred (rs.map Prod.fst) s
    .ok (addFlags (predFlags pred rs) s))

/-- NWSL: a slice of each NW8 block (R152). -/
def execNwsl (o : SlotOp) (s : State) : Out :=
  let sl := o.opx.val
  slot (.nwsl o) s (if !blockShape s 33 then trapAt 5 1 else do
    let (a, s) ← fetch s 5 .n8 o.a
    let bits := match a with
      | .tile b => b
      | _ => 0
    let rs := (List.range (elemsOf s / 32)).map fun b =>
      sliceBlock sl (blockSb 2 bits b) ((List.range 32).map fun i => blockCode 2 bits b i)
    let s ← writeBytes o (rs.flatMap Prod.fst) s
    .ok (addFlags (orFlags (rs.map Prod.snd)) s))

/-- NWPK: NW8 blocks as transposed bit planes (R153). -/
def execNwpk (o : SlotOp) (s : State) : Out :=
  slot (.nwpk o) s (if !blockShape s 33 then trapAt 5 1 else do
    let (a, s) ← fetch s 5 .n8 o.a
    let bits := match a with
      | .tile b => b
      | _ => 0
    let nb := elemsOf s / 32
    let codes := fun (b : Nat) => (List.range 32).map fun i => blockCode 2 bits b i
    let planes := (List.range 8).flatMap fun p => (List.range nb).flatMap fun b =>
      let w := planeWord p (codes b)
      [w % 256, w / 256 % 256, w / 65536 % 256, w / 16777216]
    writeBytes o (planes ++ (List.range nb).map fun b => blockSb 2 bits b) s)

/-- RAND: the counter-based generator (R156). -/
def execRand (o : SlotOp) (s : State) : Out :=
  slot (.rand o) s (if tooBig s o.ty then trapAt 5 1 else do
    let ctr ← fetch64 s 5 o.a
    let key ← fetch64 s 5 o.b
    writeTile 5 o.ty o.dst (predOf s o)
      ((indices s).map fun e => randElem o.ty s.srcCore.jobid key ctr e) s)

/-- JSED: seeds the coefficients 1 to jord of a group (R162). -/
def execJsed (o : SlotOp) (s : State) : Out :=
  let k := s.srcStrm.jord.toNat
  let f := fmtOf o.ty
  slot (.jsed o) s (if k = 0 || tooBig s o.ty || !jetDstOk k o.dst then trapAt 5 1 else do
    let (a, s) ← jetSrc s 5 o.ty k o.a
    let pred := predOf s o
    let rs := (indices s).map fun i =>
      let x := ((a.getD 0 (.scal 0)).elem o.ty i)
      let r := fmovB f x
      (List.range (k + 1)).map fun j => if j = 1 then r else ((0 : Nat), (0 : Flags))
    match o.dst with
    | .v n =>
      let keep := (indices s).map fun e => fld (s.core.vreg n.val) (tyBits o.ty * e) (tyBits o.ty)
      writeJet 5 o.ty o.dst pred ((keep.zip rs).map fun p => (p.1, (0 : Flags)) :: p.2.tail) s (k + 1) 0
    | _ => writeJet 5 o.ty o.dst pred rs s (k + 1) 0)

/-- JEXT: a coefficient to a plain register or queue entry, times J! under fj (R163). -/
def execJext (o : SlotOp) (s : State) : Out :=
  let k := s.srcStrm.jord.toNat
  let j := o.opx.val % 4
  let f := fmtOf o.ty
  let fact : Nat := match j with
    | 2 => 2
    | 3 => 6
    | _ => 1
  slot (.jext o) s (if k < j || tooBig s o.ty then trapAt 5 1 else do
    let (a, s) ← if k = 0 then (fetch s 5 o.ty o.a).map (fun v => ([v.1], v.2)) else jetSrc s 5 o.ty k o.a
    let pred := predOf s o
    let rs := (indices s).map fun i =>
      let x := (a.getD j (.scal 0)).elem o.ty i
      if o.opx.val / 4 = 0 then (x, (0 : Flags))
      else mulV f (rmodeOf s) (unpack f x) (.fin ⟨fact, 0⟩)
    let s ← writeTile 5 o.ty o.dst pred (rs.map Prod.fst) s
    .ok (addFlags (predFlags pred rs) s))

end Sys2Proof.Machine
end

