-- ==== Sys2Proof/Machine/Fabric.lean ====
section
/-! DEFINITION. The Etesian fabric as this device sees it: windows, paths, send queues, replay, landing
(09 R285 to R291, 14 R347, 07 R213, R214, R386, 15 R374 to R377). Other devices are outside the model (log 13). -/

namespace Sys2Proof.Machine

/-! ### Windows -/

/-- A window table entry (14 R347). -/
structure WinEnt where
  valid : Bool
  multi : Bool
  peer : BitVec 10
  pwin : Nat
  pctx : Fin 64
  allow : Nat
  idie : Fin 16
  islot : Fin 256
  land : Nat
  lsize : Nat
  deriving DecidableEq, Repr

def WinEnt.of (w : Nat) : WinEnt :=
  { valid := bitAt w 63, multi := bitAt w 62, peer := BitVec.ofNat 10 (fld w 32 10), pwin := fld w 21 8
    pctx := Fin.ofNat 64 (fld w 15 6), allow := fld w 0 15 * 1024, idie := Fin.ofNat 16 (fld w 72 4)
    islot := Fin.ofNat 256 (fld w 64 8), land := fld w 128 57, lsize := fld w 192 21 * 4096 }

/-- The device address of the entry of window `w` of a context (14 R330). -/
def winAddr (m : Module) (c : Fin 64) (w : Nat) : Nat := fld (ccb m c 6) 0 57 + 32 * w

/-- Read an entry under its own context's translation (14 R347). -/
def readWin (m : Module) (c : Fin 64) (w : Nat) : Except AccStop WinEnt :=
  match loadDev m none none c .read (winAddr m c w) 32 with
  | .error e => .error e
  | .ok (bs, _) => .ok (WinEnt.of (ofBytes bs))

/-! ### Ports and paths -/

/-- The die that carries a port (01 R10). -/
def portDie (p : Fin 72) : Fin 16 := if h : p.val < 64 then ⟨p.val / 4, by omega⟩ else Fin.ofNat 16 (p.val - 64)

def portNow (m : Module) (p : Fin 72) : W64 := (m.die (portDie p)).cyc

/-- A port that can send in the current slot (09 R285, 15 R377). -/
def Port.sends (p : Port) : Bool := !p.disagree && decide (p.live ≠ 0)

def Port.peer (p : Port) (d : BitVec 10) : Peer := Tbl.get {} p.peers d.toNat
def Port.setPeer (p : Port) (d : BitVec 10) (x : Peer) : Port := { p with peers := Tbl.set {} p.peers d.toNat x }
def Module.modPort (m : Module) (p : Fin 72) (f : Port → Port) : Module := m.setPort p (f (m.port p))
def Module.modPeer (m : Module) (p : Fin 72) (d : BitVec 10) (f : Peer → Peer) : Module :=
  m.modPort p fun x => x.setPeer d (f (x.peer d))

/-- The ports of the module. -/
def allPorts : List (Fin 72) := List.finRange 72

/-- A flit that a sequence number orders; link control carries none. -/
def sequenced : FlitBody → Bool
  | .write _ _ _ _ _ _ | .marker _ | .multicast _ _ _ _ _ _ _ _ => true
  | _ => false

/-- Flits that the replay buffer of a port holds (15 R374). -/
def Port.unacked (p : Port) : Nat := (p.peers.map fun e => e.2.replay.length).sum

/-- The wavelength that beat `b` of a flit goes out on: the (b mod n)-th active one, ascending (15 R376). -/
def laneOf (live : BitVec 16) (b : Nat) : BitVec 16 :=
  let on := (List.range 16).filter fun w => bitAt live.toNat w
  if on.isEmpty then 0 else BitVec.ofNat 16 (2 ^ (on.getD (b % on.length) 0))

/-- The wavelengths of a flit of 16 beats of 16 bytes (15 R376; log 13). -/
def lanesOf (live : BitVec 16) : BitVec 16 := (List.range 16).foldl (fun a b => a ||| laneOf live b) 0

/-- LOSLIGHT (15 R379). -/
def sendLoslight (m : Module) (q : Fin 72) (lm : Fin 4) (mask : BitVec 16) (first count : Nat) : Module :=
  sendEvent m (some (portDie q)) q.val 2 (lm.val + mask.toNat * 2 ^ 16) (first + count * 2 ^ 32)

/-- Whether a loss's replay ends with a flit of a pair that a test picks. -/
def Loss.endsWith (l : Loss) (pair : Fin 72) (dst : BitVec 10) (f : BitVec 24 → Bool) : Bool :=
  l.replay.any fun r => decide (r.pair = pair) && decide (r.dst = dst) && f r.last

/-- Flits of a pair have left again, or need not: the losses whose replay they complete are reported (15 R377). -/
def finishLosses (m : Module) (pair : Fin 72) (dst : BitVec 10) (f : BitVec 24 → Bool) : Module :=
  allPorts.foldl (fun m q =>
    ((m.port q).losses.filter (·.endsWith pair dst f)).foldl (fun m l =>
      match l.replay with
      | some r => sendLoslight (m.modPort q fun p => { p with losses := p.losses.erase l }) q l.lm l.mask r.first.toNat r.count
      | none => m) m) m

/-- Whether the replay buffer of its pair holds a flit already. -/
def inReplay (m : Module) (f : Flit) : Bool := ((m.port f.pair).peer f.dst).replay.any fun e => decide (e.flit.seq = f.seq)

/-- Whether a waiting flit leaves a port now: its next hop is matched over a path that is not marked down, and a new flit
finds room in the replay buffer (09 R285, 15 R374). -/
def leaves (m : Module) (q : Fin 72) (hop : BitVec 10) (f : Flit) : Bool :=
  let p := m.port q
  p.sends && decide (p.met = some hop) && !(decide (hop = f.dst) && (p.peer hop).down) &&
    (!sequenced f.body || inReplay m f || decide ((m.port f.pair).unacked < 4096))

/-- Whether a flit stands at or behind a sequence (15 R374). -/
def fromSeq (first seq : BitVec 24) : Bool := decide ((seq - first).toNat < 2 ^ 23)

/-- A flit in its place in a replay buffer, which stands in sequence. -/
def insertSent (e : Sent) : List Sent → List Sent
  | [] => [e]
  | o :: os => if fromSeq o.flit.seq e.flit.seq then o :: insertSent e os else e :: o :: os

/-- A flit leaves a port: a set-change beat goes before it, a new one takes the key in use now, and the replay buffer of its pair
keeps it until it is acknowledged, an old one as stored (15 R374 to R376). -/
def depart (m : Module) (q : Fin 72) (hop : BitVec 10) (f : Flit) : Module :=
  let e : Sent := { flit := { f with key := (m.port f.pair).sendKey }, port := q, direct := decide (hop = f.dst)
                    lanes := lanesOf (m.port q).live }
  let m := m.modPort q fun p => { p with change := none }
  if sequenced f.body then
    finishLosses (m.modPeer f.pair f.dst fun x => { x with
      replay := if inReplay m f then
          x.replay.map fun o => if o.flit.seq = f.seq then { e with flit := o.flit, fails := o.fails } else o
        else insertSent e x.replay }) f.pair f.dst (fun s => decide (s = f.seq))
  else m

/-- A send queue takes new contents; a port whose queue empties is idle from then on (15 R376). -/
def Port.withQueue (p : Port) (now : W64) (l : List (BitVec 10 × Flit)) : Port :=
  { p with sendq := l, idleSince := if p.sendq ≠ [] ∧ l = [] then now else p.idleSince }

/-- Send what can leave a port now, in order: the module, and what stays. -/
def pumpList (q : Fin 72) : List (BitVec 10 × Flit) → Module → Module × List (BitVec 10 × Flit)
  | [], m => (m, [])
  | (hop, f) :: r, m =>
    if leaves m q hop f then pumpList q r (depart m q hop f)
    else
      let (m, left) := pumpList q r m
      (m, (hop, f) :: left)

def pump (m : Module) (q : Fin 72) : Module :=
  let (m, left) := pumpList q (m.port q).sendq m
  m.modPort q fun p => p.withQueue (portNow m q) left

/-- A path: a port and the next hop, the target itself or a relay (09 R288). -/
def pathCode (q : Fin 72) (hop : BitVec 10) : Nat := q.val * 1024 + hop.toNat

/-- Whether a port's match table meets a device. -/
def Port.meets (p : Port) (d : BitVec 10) : Bool := p.table_.any fun e => decide (e.2 = some d)

/-- A direct path to a device: a port matched with it now, otherwise one whose table meets it (09 R286, R290). -/
def directNow (m : Module) (dst : BitVec 10) : Option (Fin 72) :=
  allPorts.find? fun q =>
    let p := m.port q
    p.sends && decide (p.met = some dst) && !(p.peer dst).down && !p.full
def directPath (m : Module) (dst : BitVec 10) : Option (Fin 72) :=
  match directNow m dst with
  | some q => some q
  | none => allPorts.find? fun q =>
    let p := m.port q
    decide (p.live ≠ 0) && !(p.peer dst).down && p.meets dst

/-- The relays that this device meets now, with the ports that meet them: those whose buffers have room (09 R286). -/
def relaysNow (m : Module) (dst : BitVec 10) : List (Fin 72 × BitVec 10) :=
  allPorts.filterMap fun q =>
    let p := m.port q
    match p.met with
    | some d => if p.sends && decide (d ≠ dst) && !m.relayFull.contains d then some (q, d) else none
    | none => none

/-- In how many slots a relay meets a target. -/
def slotsUntil (m : Module) (d dst : BitVec 10) : Nat := Tbl.get 0 m.nextMatch (d.toNat * 1024 + dst.toNat)

/-- The path of a flit to a device (09 R286): a port matched with it now; otherwise the relay matched now that meets it
soonest; otherwise a direct path, which waits for its slot (log 47). -/
def pickPath (m : Module) (dst : BitVec 10) : Option (Fin 72 × BitVec 10) :=
  match directNow m dst with
  | some q => some (q, dst)
  | none =>
    match relaysNow m dst with
    | r :: rs => some (rs.foldl (fun a b => if slotsUntil m b.2 dst < slotsUntil m a.2 dst then b else a) r)
    | [] => (directPath m dst).map fun q => (q, dst)

/-- Put a flit in the send queue of a port. -/
def enqueue (m : Module) (path : Fin 72 × BitVec 10) (f : Flit) : Module :=
  pump (m.modPort path.1 fun p => { p with sendq := p.sendq ++ [(path.2, f)] }) path.1

/-- Give a flit the next sequence number of its pair, the path's port and its target, and queue it there (15 R374, R375). -/
def sendFlit (m : Module) (path : Fin 72 × BitVec 10) (dst : BitVec 10) (body : FlitBody) : Module :=
  let p := m.port path.1
  let f : Flit := { pair := path.1, seq := (p.peer dst).next, key := p.sendKey, dst := dst, src := m.device, body := body }
  let m := if sequenced body then m.modPeer path.1 dst fun x => { x with next := x.next + 1 } else m
  enqueue m path f

/-- Send a body by the path that is picked now; with none it waits at port 0 until one is. -/
def sendTo (m : Module) (dst : BitVec 10) (body : FlitBody) : Module :=
  sendFlit m ((pickPath m dst).getD (0, dst)) dst body

/-- Whether a waiting flit can no longer leave where it waits: its direct path is marked down, or the port is dark or never
meets its next hop. -/
def stranded (m : Module) (q : Fin 72) (e : BitVec 10 × Flit) : Bool :=
  let p := m.port q
  decide (p.live = 0) || (decide (e.1 = e.2.dst) && (p.peer e.1).down) || (decide (p.met ≠ some e.1) && !p.meets e.1)

/-- Stranded flits choose their paths again (15 R374, R377). -/
def repick (m : Module) : Module :=
  allPorts.foldl (fun m q =>
    ((m.port q).sendq.filter (stranded m q)).foldl (fun m e =>
      match pickPath m e.2.dst with
      | none => m
      | some path => enqueue (m.modPort q fun p => p.withQueue (portNow m q) (p.sendq.erase e)) path e.2) m) m

/-! ### Remote writes as flits (17 R385) -/

/-- Consecutive lines, up to three to a flit. -/
def threes {α : Type} : List α → List (List α)
  | [] => []
  | [a] => [[a]]
  | [a, b] => [[a, b]]
  | a :: b :: c :: r => [a, b, c] :: threes r

/-- A remote write of a context through a window as lines with their masks (07 R213, 14 R347). -/
def remoteLines (dev : BitVec 10) (ctx : Fin 64) (win : Fin 64) (epoch : BitVec 32) (pctx pwin : Fin 64)
    (off : Nat) (bs : List Byte) : List RemoteWrite :=
  ((linePieces off bs.length).foldl (fun (acc : List RemoteWrite × List Byte) p =>
    let k := p.1 % 64
    (acc.1 ++ [{ srcDev := dev, srcCtx := ctx, srcWin := win, epoch := epoch, pctx := pctx, pwin := pwin
                 offset := BitVec.ofNat 64 (p.1 - k)
                 data := BitVec.ofNat 512 (ofBytes (acc.2.take p.2) * 2 ^ (8 * k))
                 bytes := BitVec.ofNat 64 ((2 ^ p.2 - 1) * 2 ^ k) }], acc.2.drop p.2)) ([], bs)).1

/-- The payload of a write flit. -/
def packLines (ls : List RemoteWrite) : BitVec 1792 :=
  let at_ := fun (f : RemoteWrite → Nat) (base step : Nat) =>
    (ls.zipIdx.map fun e => f e.1 * 2 ^ (base + step * e.2)).sum
  BitVec.ofNat 1792 (((ls.head?.map fun l => l.offset.toNat).getD 0) + at_ (fun l => l.data.toNat) 64 512 +
    at_ (fun l => l.bytes.toNat) 1600 64)

/-- The lines that a write flit carries: those whose mask is not zero. -/
def flitLines (src : BitVec 10) : FlitBody → List RemoteWrite
  | .write c w e pc pw payload =>
    (List.range 3).filterMap fun i =>
      let mask := fld payload.toNat (1600 + 64 * i) 64
      if mask = 0 then none
      else some { srcDev := src, srcCtx := c, srcWin := w, epoch := e, pctx := pc, pwin := pw
                  offset := BitVec.ofNat 64 (fld payload.toNat 0 64 + 64 * i)
                  data := BitVec.ofNat 512 (fld payload.toNat (64 + 512 * i) 512), bytes := BitVec.ofNat 64 mask }
  | _ => []

/-- The flits of one write. -/
def writeFlits (ctx win : Fin 64) (epoch : BitVec 32) (e : WinEnt) (off : Nat) (bs : List Byte) : List FlitBody :=
  (threes (remoteLines 0 ctx win epoch e.pctx (Fin.ofNat 64 e.pwin) off bs)).map fun ls =>
    .write ctx win epoch e.pctx (Fin.ofNat 64 e.pwin) (packLines ls)

/-! ### Stores through a window -/

/-- The window entry that a store, SCAT, TMOV or WFEN goes through (08 R218, 14 R347). `addr` names the window in a
WINDOW trap. -/
def winFor (s : State) (place : Nat) (w : Fin 64) (addr : Nat) : Except Stop WinEnt :=
  let c := s.srcCore.ctx
  let bad : Except Stop WinEnt := .error (.trap { code := 10, place := place, addr := BitVec.ofNat 64 addr })
  match readWin s.src c w.val with
  | .error e => accStop s place e
  | .ok e => if !e.valid || e.multi || Tbl.get false (s.src.ctx c).refused w.val then bad else .ok e

/-- Posted remote writes of the bundle in progress: charged against the allowance, or waiting (09 R287, 08 R225). `ps` are
offsets in the window with their bytes, each one write. -/
def winStore (s : State) (place : Nat) (w : Fin 64) (addr : Nat) (ps : List (Nat × List Byte)) : Res := do
  let e ← winFor s place w addr
  let c := s.srcCore.ctx
  let n := (ps.map fun p => p.2.length).sum
  let used := Tbl.get 0 (s.src.ctx c).charged w.val
  if (if n ≤ e.allow then decide (used + n ≤ e.allow) else decide (used = 0)) then
    let ep := Tbl.get {} s.srcCore.epochs w.val
    let path := (pickPath s.m e.peer).getD (0, e.peer)
    let m := (ps.flatMap fun p => writeFlits c w ep.number e p.1 p.2).foldl (fun m b => sendFlit m path e.peer b) s.m
    let m := m.modCtx c fun x => { x with
      charged := Tbl.set 0 x.charged w.val (used + min n e.allow), excess := Tbl.set 0 x.excess w.val (n - e.allow) }
    let code := pathCode path.1 path.2
    let ep' := { ep with bytes := ep.bytes + n
                         paths := if ep.paths.contains code then ep.paths else ep.paths ++ [code] }
    .ok ({ s with m := m }.modCore fun x => { x with epochs := Tbl.set {} x.epochs w.val ep' })
  else parked s

/-! ### Landing at the target -/

/-- Whether the bytes of a remote write are given back, refused or landed, to its source (09 R287, 14 R347). -/
def ackWrite (m : Module) (dev : BitVec 10) (ctx win : Fin 64) (n : Nat) (refused : Bool) : Module :=
  sendTo m dev (.landing ctx win (BitVec.ofNat 32 n) refused)

/-- What the window table of the target says to an arrival. -/
inductive Accepts where
  | refuse
  /-- The entry cannot be read yet; the flash-tier page that it needs. -/
  | later (page : Option Nat)
  | yes (e : WinEnt)
  deriving DecidableEq, Repr

/-- The entry that accepts what context `a` of a device sends through window `w` to a context's entry (14 R347). -/
def acceptWin (m : Module) (dev : BitVec 10) (a w pctx pwin : Fin 64) : Accepts :=
  if !ctxValid m pctx then .refuse
  else match readWin m pctx pwin.val with
  | .error .busy => .later none
  | .error (.tier p) => .later (some p)
  | .error _ => .refuse
  | .ok e =>
    if e.valid && !e.multi && decide (e.peer = dev) && decide (e.pctx = a) && decide (e.pwin = w.val) &&
       (m.barrier e.idie e.islot).valid then .yes e else .refuse

/-- An arriving write overruns its slot (07 R214, R386). -/
def Barrier.overrun (b : Barrier) (raced : Option (W64 × W64 × W64)) : Barrier :=
  { b with ovr := true, raced := match raced with
    | some r => some r
    | none => b.raced }
def setOvr (m : Module) (d : Fin 16) (s : Fin 256) (raced : Option (W64 × W64 × W64)) : Module :=
  settleSlot m d s ((m.barrier d s).overrun raced)

/-- The outcome of putting one line where it lands. -/
inductive Landing where
  | landed (m : Module)
  | raced (addr : Nat) (t : Tag)
  | failed
  | later (page : Option Nat)
  deriving DecidableEq, Repr

/-- Land masked bytes of one line at a device address of a context, a multiple of 64, under the stamp of a slot and phase
(07 R214, R386). -/
def landLine (m : Module) (c : Fin 64) (d : Fin 16) (slot : Fin 256) (φ : W32) (addr : Nat) (data : Line)
    (mask : BitVec 64) : Landing :=
  match translate m none c .write (addr % 2 ^ 57) with
  | .error .busy => .later none
  | .error (.tier a) => .later (some a)
  | .error _ => .failed
  | .ok (pa, m) =>
    if poisoned m pa && decide (mask ≠ BitVec.allOnes 64) then .failed
    else
      let stamp := Tag.bar slot.val (φ.setWidth 16)
      let p : Actor := { ctx := c, die := d, party := none, clk := [], phases := [], bufs := [], handles := []
                         stamps := [stamp], tag := stamp, blind := true }
      match (if isScratch pa then trackedAccess m p pa true else .ok m) with
      | .error (.race l t _) => .raced l t
      | .error (.quota _) => .failed
      | .ok m =>
        if mask = BitVec.allOnes 64 then .landed (writeLoc m (.phys pa) (toBytes 64 data.toNat))
        else .landed ((List.range 64).foldl (fun m k =>
          if bitAt mask.toNat k then { m with phys := Memory.put m.phys (pa + k) (BitVec.ofNat 8 (data.toNat / 2 ^ (8 * k))) }
          else m) m)

/-- The lines at the target that a line of a write falls into: byte o lands at land + o (14 R347). -/
def landPieces (addr : Nat) (data : Line) (mask : BitVec 64) : List (Nat × Line × BitVec 64) :=
  let k := addr % 64
  let all : List (Nat × Line × BitVec 64) :=
    [(addr - k, data <<< (8 * k), mask <<< k), (addr - k + 64, data >>> (8 * (64 - k)), mask >>> (64 - k))]
  all.filter fun p => decide (p.2.2 ≠ 0)

/-- The pager moves a page that an arrival needs (07 R386); the arrival waits meanwhile. -/
def callPager (m : Module) (d : Fin 16) (c : Fin 64) (page : Option Nat) : Module :=
  match page with
  | some a =>
    let x : Service := { dev := some (c, BitVec.ofNat 57 a) }
    if (m.die d).services.any fun e => decide (e.2.dev = x.dev) && e.2.who.isNone && e.2.chain.isNone && !e.2.disp && e.2.tier == 0 then m
    else (pagerCall m d x).getD m
  | none => m

/-- What one line of a write of phase φ comes to at its slot (07 R214, R386): whether the source is told. The record of a race
holds the device address of the target line and the write's window stamp (15 R354). -/
def landOne (e : WinEnt) (pctx : Fin 64) (φ : W32) (x : Module × Bool) (p : Nat × Line × BitVec 64) : Module × Bool :=
  let (m, told) := x
  let b := fun (m : Module) => (m.barrier e.idie e.islot).deliver φ (popN 64 p.2.2.toNat) false
  match landLine m pctx e.idie e.islot φ p.1 p.2.1 p.2.2 with
  | .landed m => (settleSlot m e.idie e.islot (b m), told)
  | .raced _ t =>
    (setOvr m e.idie e.islot (some (BitVec.ofNat 64 p.1, BitVec.ofNat 64 (tagBits t),
      BitVec.ofNat 64 (tagBits (.bar e.islot.val (φ.setWidth 16))))), told)
  | _ => (settleSlot m e.idie e.islot ((b m).overrun none), true)

/-- The first piece of a line that cannot land yet. -/
def mustWait (m : Module) (e : WinEnt) (pctx : Fin 64) (φ : W32) (ps : List (Nat × Line × BitVec 64)) :
    Option (Option Nat) :=
  ps.findSome? fun p => match landLine m pctx e.idie e.islot φ p.1 p.2.1 p.2.2 with
    | .later page => some page
    | _ => none

/-- Land a line of a write of phase φ, or say which page it waits for. -/
def landAt (m : Module) (e : WinEnt) (pctx : Fin 64) (φ : W32) (addr : Nat) (data : Line) (mask : BitVec 64) :
    Except (Option Nat) (Module × Bool) :=
  let ps := landPieces addr data mask
  match mustWait m e pctx φ ps with
  | some page => .error page
  | none => .ok (ps.foldl (landOne e pctx φ) (m, false))

/-- Two arrivals of one source context and window for the same line, the first of them no later in epochs: a line that waits
holds back no other (09 R288, R289, 07 R386). -/
def before (v w : RemoteWrite) : Bool :=
  decide (v.srcDev = w.srcDev) && decide (v.srcCtx = w.srcCtx) && decide (v.srcWin = w.srcWin) &&
    decide (v.epoch.toNat ≤ w.epoch.toNat) && decide (v.pctx = w.pctx) && decide (v.pwin = w.pwin) && decide (v.offset = w.offset)

/-- What becomes of a remote write that no earlier one of its source holds back (09 R289, 14 R347, 07 R386): it ends, or
waits, for a page of the die when one is named. -/
def tryWrite (m : Module) (w : RemoteWrite) : Except (Option (Fin 16 × Nat)) Module :=
  let n := popN 64 w.bytes.toNat
  let ack := fun (m : Module) (r : Bool) => ackWrite m w.srcDev w.srcCtx w.srcWin n r
  match acceptWin m w.srcDev w.srcCtx w.srcWin w.pctx w.pwin with
  | .refuse => .ok (ack m true)
  | .later page => .error (page.map fun a => (ctxHome m w.pctx, a))
  | .yes e =>
    if e.lsize < w.offset.toNat + 64 then .ok (ack m true)
    else
      let b := m.barrier e.idie e.islot
      let ahead := (w.epoch - b.epoch).toNat
      if 2 ^ 31 ≤ ahead then .ok (ack (setOvr m e.idie e.islot none) false)
      else if 2 ≤ ahead then .error none
      else match landAt m e w.pctx (b.phase + BitVec.ofNat 32 ahead) (e.land + w.offset.toNat) w.data w.bytes with
        | .ok (m, told) => .ok (ack m told)
        | .error page => .error (page.map fun a => (e.idie, a))

/-- The page that a waiting write needs is asked for. -/
def askPage (m : Module) (c : Fin 64) (page : Option (Fin 16 × Nat)) : Module :=
  match page with
  | some (d, a) => callPager m d c (some a)
  | none => m

/-- A remote write arrives: it lands, or is held behind those for its line that are, or until it can land. -/
def landWrite (m : Module) (w : RemoteWrite) : Module :=
  let hold := fun (m : Module) => { m with heldWrites := m.heldWrites ++ [w] }
  if m.heldWrites.any fun v => before v w then hold m
  else match tryWrite m w with
    | .ok m => m
    | .error page => askPage (hold m) w.pctx page

/-- A held write comes again. -/
def landHeld (m : Module) (w : RemoteWrite) : Module :=
  let ahead := m.heldWrites.takeWhile fun v => !decide (v = w)
  if ahead.any fun v => before v w then m
  else match tryWrite { m with heldWrites := m.heldWrites.erase w } w with
    | .ok m => m
    | .error page => askPage m w.pctx page

/-- An arrival that no instruction makes, for the open phase or the next (07 R210, 09 R290): counts that are full set ovr. -/
def Barrier.markerArrive (b : Barrier) (next : Bool) : Barrier :=
  if next then
    if b.narrived < b.parties then { b with narrived := b.narrived + 1 } else { b with ovr := true }
  else match b.arrive [] with
    | some (b, _) => b
    | none => { b with ovr := true }

/-- What becomes of a marker copy (09 R290): none while it waits. The last of an epoch posts its bytes and arrives. -/
def tryMarker (m : Module) (k : Marker) : Except (Option (Fin 16 × Nat)) Module :=
  match acceptWin m k.srcDev k.srcCtx k.srcWin k.pctx k.pwin with
  | .refuse => .ok (ackWrite m k.srcDev k.srcCtx k.srcWin 0 true)
  | .later page => .error (page.map fun a => (ctxHome m k.pctx, a))
  | .yes e =>
    let b := m.barrier e.idie e.islot
    let ahead := (k.epoch - b.epoch).toNat
    let waits := m.heldWrites.any fun v =>
      decide (v.srcDev = k.srcDev) && decide (v.srcCtx = k.srcCtx) && decide (v.srcWin = k.srcWin) &&
      decide (v.epoch.toNat ≤ k.epoch.toNat)
    if 2 ^ 31 ≤ ahead then .ok (setOvr m e.idie e.islot none)
    else if waits || decide (2 ≤ ahead) then .error none
    else
      let key := k.srcDev.toNat + 2 ^ 10 * k.srcCtx.val + 2 ^ 16 * k.srcWin.val + 2 ^ 22 * k.srcJob.toNat +
        2 ^ 54 * k.epoch.toNat
      let n := ((b.markers.find? fun p => decide (p.1 = key)).map Prod.snd).getD 0 + 1
      let rest := b.markers.filter fun p => !decide (p.1 = key)
      if n < k.copies.toNat then .ok (m.setBarrier e.idie e.islot { b with markers := (key, n) :: rest })
      else
        let next := decide (ahead = 1)
        .ok (settleSlot m e.idie e.islot ((({ b with markers := rest }).post next k.bytes.toNat).markerArrive next))

/-- A marker copy arrives; equal copies count each. -/
def landMarker (m : Module) (k : Marker) : Module :=
  match tryMarker m k with
  | .ok m => m
  | .error page => askPage { m with heldMarkers := m.heldMarkers ++ [k] } k.pctx page

/-- A held marker copy comes again. -/
def markerHeld (m : Module) (k : Marker) : Module :=
  match tryMarker { m with heldMarkers := m.heldMarkers.erase k } k with
  | .ok m => m
  | .error page => askPage m k.pctx page

/-! ### Multicast copies (09 R276, 14 R347) -/

/-- The lines of a multicast packet in every kind-1 entry that accepts it, or the entry that cannot be read yet; one on a
page that `skip` picks is passed over. -/
def openCopy (skip : Fin 64 → Nat → Bool) (m : Module) (x : HeldCopy) : Except (Option (Fin 64 × Nat)) (List RemoteWrite) :=
  (List.finRange 64).foldlM (fun acc c =>
    if !ctxValid m c then .ok acc
    else (List.finRange 64).foldlM (fun acc w =>
      match readWin m c w.val with
      | .error .busy => .error none
      | .error (.tier a) => if skip c a then .ok acc else .error (some (c, a))
      | .error _ => .ok acc
      | .ok e =>
        if e.valid && e.multi && decide (e.pwin = x.group.toNat) && decide (e.peer = x.origin) && decide (e.pctx = x.ctx) &&
           decide (x.off + x.data.length ≤ e.lsize) && (m.barrier e.idie e.islot).valid then
          .ok (acc ++ remoteLines x.origin x.ctx w 0 c w x.off x.data)
        else .ok acc) acc) []

/-- The page that a line of a multicast packet waits for. -/
def copyLinePage (m : Module) (l : RemoteWrite) : Option Nat :=
  match readWin m l.pctx l.pwin.val with
  | .error (.tier a) => some a
  | .error _ => none
  | .ok e =>
    (mustWait m e l.pctx (m.barrier e.idie e.islot).phase (landPieces (e.land + l.offset.toNat) l.data l.bytes)).bind id

/-- One line of a multicast packet, as a write of the open phase of its entry's inbound slot: the module, and whether the
line has still to land. -/
def landCopyLine (m : Module) (l : RemoteWrite) : Module × Bool :=
  match readWin m l.pctx l.pwin.val with
  | .error .busy => (m, true)
  | .error (.tier a) => (callPager m (ctxHome m l.pctx) l.pctx (some a), true)
  | .error _ => (m, false)
  | .ok e =>
    match landAt m e l.pctx (m.barrier e.idie e.islot).phase (e.land + l.offset.toNat) l.data l.bytes with
    | .ok (m, _) => (m, false)
    | .error page => (callPager m e.idie l.pctx page, true)

/-- Land what can land of a multicast packet; once all of it has, its landing is acknowledged. -/
def landCopyWith (skip : Fin 64 → Nat → Bool) (m : Module) (x : HeldCopy) : Module :=
  let todo : Except (Option (Fin 64 × Nat)) (List RemoteWrite) := match x.lines with
    | some ls => .ok ls
    | none => openCopy skip m x
  match todo with
  | .error page =>
    let m := { m with heldCopies := m.heldCopies ++ [x] }
    (match page with
    | some (c, a) => callPager m (ctxHome m c) c (some a)
    | none => m)
  | .ok ls =>
    let (m, left) := ls.foldl (fun (r : Module × List RemoteWrite) l =>
      let (m, waits) := landCopyLine r.1 l
      (m, if waits then r.2 ++ [l] else r.2)) (m, [])
    if left.isEmpty then sendTo m x.origin (.multicastAck x.cmd x.group)
    else { m with heldCopies := m.heldCopies ++ [{ x with lines := some left }] }

def landCopy (m : Module) (x : HeldCopy) : Module := landCopyWith (fun _ _ => false) m x

/-- The n-th packet that waits comes again. -/
def copyHeld (m : Module) (n : Nat) : Module :=
  match m.heldCopies[n]? with
  | some x => landCopy { m with heldCopies := m.heldCopies.eraseIdx n } x
  | none => m

/-- Members of a group at a version that a packet carries (09 R291). -/
def McGroup.at_ (g : McGroup) (v : BitVec 8) : List (BitVec 10) :=
  if g.version = v then g.members
  else match g.old with
    | some (o, l) => if o = v then l else []
    | none => []

/-! ### Replay -/

/-- Take the waiting copies of a pair's flits that a test picks out of every send queue. -/
def unqueue (m : Module) (pair : Fin 72) (dst : BitVec 10) (f : BitVec 24 → Bool) : Module :=
  allPorts.foldl (fun m q => m.modPort q fun p => p.withQueue (portNow m q) (p.sendq.filter fun e =>
    !(decide (e.2.pair = pair) && decide (e.2.dst = dst) && sequenced e.2.body && f e.2.seq && inReplay m e.2))) m

/-- Re-send the unacknowledged flits of a pair from a sequence onward, as stored and in order, over the path that is picked
now (15 R374, R375). -/
def resend (m : Module) (pair : Fin 72) (dst : BitVec 10) (first : BitVec 24) : Module :=
  let again := (((m.port pair).peer dst).replay.filter fun e => fromSeq first e.flit.seq).map fun e => e.flit
  let path := (pickPath m dst).getD (pair, dst)
  let m := unqueue m pair dst (fromSeq first)
  pump (m.modPort path.1 fun p => { p with sendq := (again.map fun f => (path.2, f)) ++ p.sendq }) path.1

/-- The losses whose first replay this is note what it covers (15 R377). -/
def noteLosses (m : Module) (pair : Fin 72) (dst : BitVec 10) (again : List Sent) : Module :=
  match again.head?, again.getLast? with
  | some a, some z =>
    allPorts.foldl (fun m q => m.modPort q fun p => { p with
      losses := p.losses.map fun l =>
        if l.replay.isNone && again.any fun e => decide (e.port = q) && decide (e.lanes &&& l.mask ≠ 0) then
          { l with replay := some { pair := pair, dst := dst, first := a.flit.seq, last := z.flit.seq, count := again.length } }
        else l }) m
  | _, _ => m

/-- A replay of a pair from a sequence. -/
def replayPair (m : Module) (pair : Fin 72) (dst : BitVec 10) (first : BitVec 24) : Module :=
  let again := ((m.port pair).peer dst).replay.filter fun e => fromSeq first e.flit.seq
  if again.isEmpty then m else resend (noteLosses m pair dst again) pair dst first

/-- A flit has failed: the sixteenth failure of one flit on a direct path marks that path down (15 R374). -/
def countFailure (m : Module) (pair : Fin 72) (dst : BitVec 10) (first : BitVec 24) : Module :=
  match ((m.port pair).peer dst).replay.find? fun e => decide (e.flit.seq = first) with
  | none => m
  | some e =>
    if !e.direct then m
    else
      let m := m.modPeer pair dst fun x => { x with
        replay := x.replay.map fun o =>
          if o.flit.seq = first then { o with fails := Tbl.set 0 o.fails e.port.val (Tbl.get 0 o.fails e.port.val + 1) } else o }
      if Tbl.get 0 e.fails e.port.val + 1 < 16 ∨ ((m.port e.port).peer dst).down then m
      else (m.modPeer e.port dst fun x => { x with down := true }).modDie (portDie e.port) fun d =>
        { d with counters := { d.counters with pathsDown := d.counters.pathsDown + 1 } }

/-- A replay after a failure of the flit at a sequence (15 R374). -/
def replayFrom (m : Module) (pair : Fin 72) (dst : BitVec 10) (first : BitVec 24) : Module :=
  replayPair (countFailure m pair dst first) pair dst first

/-- Whether a flit under a key of a port has still to be acknowledged. -/
def keyUsed (m : Module) (q : Fin 72) (k : Fin 4) : Bool :=
  (m.port q).peers.any fun e => e.2.replay.any fun f => decide (f.flit.key = k)

/-- Drop the old keys of a port under which no flit is left at either end, and report each (15 R375). -/
def rollKeys (m : Module) (q : Fin 72) : Module :=
  (m.port q).oldKeys.foldl (fun m k =>
    if !k.2 || keyUsed m q k.1 then m
    else sendEvent (m.modPort q fun p => { p with
        oldKeys := p.oldKeys.erase k, keys := Tbl.set none p.keys k.1.val none })
      (some (portDie q)) q.val 8 (k.1.val + (m.port q).sendKey.val * 2 ^ 8) 0) m

/-- Losses of light that no unacknowledged flit met are reported with both replay fields zero (15 R377). -/
def clearLosses (m : Module) : Module :=
  let out := m.ports.flatMap fun e => e.2.peers.flatMap fun x => x.2.replay
  allPorts.foldl (fun m q =>
    ((m.port q).losses.filter fun l => l.replay.isNone &&
        !out.any fun e => decide (e.port = q) && decide (e.lanes &&& l.mask ≠ 0)).foldl (fun m l =>
      sendLoslight (m.modPort q fun p => { p with losses := p.losses.erase l }) q l.lm l.mask 0 0) m) m

/-- A cumulative acknowledgement (15 R374, R375, R377): flits freed, and what waited for them. -/
def ackFlits (m : Module) (pair : Fin 72) (dst : BitVec 10) (upto : BitVec 24) : Module :=
  let freed := fun (seq : BitVec 24) => fromSeq seq upto
  let m := unqueue m pair dst freed
  let m := m.modPeer pair dst fun x => { x with replay := x.replay.filter fun e => !freed e.flit.seq }
  rollKeys (clearLosses (finishLosses (allPorts.foldl pump m) pair dst freed)) pair

end Sys2Proof.Machine
end

