-- ==== Sys2Proof/Machine/Mem.lean ====
section
/-! DEFINITION. The MEM ops of L and S: loads, stores, gathers, moves and fences (08 R217 to R226, R243, 06 R172,
R173, 14 R344). -/

namespace Sys2Proof.Machine

/-! ### Snapshots of the synchronisation region -/

/-- A barrier slot as 256 bits (07 R208). -/
def Barrier.bits (b : Barrier) : Nat :=
  let f := fun (x : Bool) (n : Nat) => if x then 2 ^ n else 0
  b.phase.toNat * 2 ^ 224 + wrapN 48 b.cur * 2 ^ 176 + wrapN 48 b.nxt * 2 ^ 128 + b.parties % 2 ^ 16 * 2 ^ 112 +
    b.arrived % 2 ^ 16 * 2 ^ 96 + b.narrived % 2 ^ 16 * 2 ^ 80 + b.pend % 2 ^ 16 * 2 ^ 64 +
    b.npend % 2 ^ 16 * 2 ^ 48 + f b.valid 3 + f b.ovr 2 + f b.nxp 1 + f b.xp 0

/-- A group object as 512 bits (11 R309). -/
def Group.bits (g : Group) : Nat :=
  let all := fun (x : BitVec 128) (f : HeldBits → Bool) => (g.out.foldl (fun a h => if f h then a ||| bit128 h.party.val else a) x).toNat
  all g.mask (fun _ => true) * 2 ^ 384 + all g.need (·.need) * 2 ^ 256 + all g.arr (·.arr) * 2 ^ 128 + g.phase.toNat * 2 ^ 112

/-- A buffer object as 512 bits (09 R264). -/
def BufObj.bits (b : BufObj) : Nat :=
  ((List.range 4).map fun k => (Tbl.get 0 b.cons k).toNat * 2 ^ (384 + 32 * k)).sum + b.prod.toNat * 2 ^ 352 +
    b.claim.toNat * 2 ^ 320 + b.base.toNat * 2 ^ 256 + b.ebytes.toNat * 2 ^ 224 + b.nent.toNat * 2 ^ 208 +
    b.ncons.toNat * 2 ^ 206

/-- The 512-bit map of live banks of a stack (14 R344). -/
def bankMap (x : Die) (s : Nat) : Nat :=
  ((List.range 512).map fun i => if bankLive x s (i / 32) (i % 32) then 2 ^ i else 0).sum

/-- The byte of the synchronisation region at an offset (07 R208, 09 R264, 11 R309, 14 R344). -/
def syncByte (m : Module) (d : Fin 16) (o : Nat) : Nat :=
  let x := m.die d
  let at_ := fun (bits n : Nat) => fld bits (8 * (o % n)) 8
  if o < 0x2000 then at_ (m.barrier d (Fin.ofNat 256 (o / 32))).bits 32
  else if o < 0x12000 then at_ (m.group d ((o - 0x2000) / 64)).bits 64
  else if 0x7FFC00 ≤ o ∧ o < 0x7FFC40 then at_ (bankMap x 0) 64
  else if 0x7FFC40 ≤ o ∧ o < 0x7FFC80 then at_ (bankMap x 1) 64
  else at_ (m.buf d (o / 64)).bits 64

/-! ### Accesses of the bundle in progress -/

/-- The effective address of a memory operand (R217). -/
def effAddr (s : State) (a b : Src) : Nat :=
  let base := match a with
    | .a n => s.srcStrm.areg n.val
    | _ => 0
  let off := match b with
    | .lit w => w.toInt
    | _ => 0
  wrapN 48 ((base : Int) + off)

/-- The address that a source of kind 0b01 holds (02 R42). A value of 2^48 or more, which an s or m register can hold,
lies outside every region (log 68). -/
def addrOf (s : State) : Src → Nat
  | .a n => s.srcStrm.areg n.val
  | .s n => s.srcStrm.sreg n.val
  | .m n => (s.srcStrm.mreg n.val).view
  | _ => 0

/-- ALIGN at an address. -/
def alignTest (place n addr : Nat) : Except Stop Unit :=
  if addr % n = 0 then .ok () else .error (.trap { code := 3, place := place, addr := BitVec.ofNat 64 addr })

/-- The job as the actor of the accesses of its bundle. Those of a bundle whose atomic is under way have been tested and tagged
with it (15 R373). -/
def bundleActor (s : State) : Option Actor :=
  if s.srcStrm.wait.inFlight then none else some (jobActor s.m s.cur.die s.cur.core)

/-- Read bytes of the job's scratchpads (R218, R226). -/
def memLoad (place addr n : Nat) (s : State) : Except Stop (List Byte × State) := do
  let r ← orStop s place (loadLocal s.m (bundleActor s) s.core.ctx s.cur.die (some s.cur.core) addr n)
  .ok (r.1, { s with m := r.2 })

/-- Write bytes to the job's scratchpads. -/
def memStore (place addr : Nat) (bs : List Byte) (s : State) : Res := do
  let m ← orStop s place (storeLocal s.m (bundleActor s) s.core.ctx s.cur.die (some s.cur.core) addr bs)
  .ok { s with m := m }

/-- ADDRCLASS for the first of several ranges that lies in none of the job's scratchpads (R218, R352). -/
def classTest (place : Nat) (s : State) (rs : List (Nat × Nat)) : Except Stop Unit :=
  match rs.find? fun r => (localLocs s.m s.core.ctx s.cur.die (some s.cur.core) r.1 r.2).isNone with
  | some r => accStop s place (addrclass r.1)
  | none => .ok ()

/-- The peer window of a store, none in a scratchpad. -/
def windowOf (p : Nat × List Byte) : Option (Fin 64) :=
  match regionOf p.1 p.2.length with
  | some (.window w, _) => some w
  | _ => none

/-- The windows that stores go through, each once. -/
def windowsOf (ps : List (Nat × List Byte)) : List (Fin 64) := (ps.filterMap windowOf).eraseDups

/-- What stores meet before anything is read or written: ADDRCLASS, WINDOW, or an entry that cannot be read (R218, 15 R352). -/
def storeTest (place : Nat) (ps : List (Nat × List Byte)) (s : State) : Except Stop Unit := do
  classTest place s ((ps.filter fun p => (windowOf p).isNone).map fun p => (p.1, p.2.length))
  (windowsOf ps).forM fun w => (winFor s place w (((ps.find? fun p => windowOf p = some w).map Prod.fst).getD 0)).map fun _ => ()

/-- A stop that is found while a value is still to be read: it comes before the value's own, but for ILLEGAL and a wait that
keeps the bundle from issuing (15 R352). -/
def testFirst {α : Type} (t : Except Stop Unit) (r : Except Stop α) : Except Stop α :=
  match t, r with
  | .ok (), r => r
  | .error _, .error .hold => .error .hold
  | .error e, .error (.trap u) => if u.code = 1 then .error (.trap u) else .error e
  | .error e, _ => .error e

/-- Stores of an op, each in one region: those through windows are charged, those to scratchpads performed in the given order
(R218, R225; log 73). -/
def memStores (place : Nat) (ps : List (Nat × List Byte)) (s : State) : Res := do
  storeTest place ps s
  let s ← (windowsOf ps).foldlM (fun s w =>
    let mine := ps.filter fun p => windowOf p = some w
    winStore s place w ((mine.head?.map Prod.fst).getD 0) (mine.map fun p => (p.1 % 0x100000000, p.2))) s
  (ps.filter fun p => (windowOf p).isNone).foldlM (fun s p => memStore place p.1 p.2 s) s

/-- Bytes of a tile of a type under the shape, block types in the layout of 03 R86 (R219); none when it is no legal
tile. -/
def tileBytes (s : State) (t : Ty) : Option Nat :=
  let n := elemsOf s
  match t with
  | .f4 => if blockShape s 17 then some (n / 32 * 17) else none
  | .a8 | .nw8 => if blockShape s 33 then some (n / 32 * 33) else none
  | t => if tooBig s t then none else some (n * tyBytes t)

/-- The alignment of a tile's address (R219). -/
def tileAlign (t : Ty) : Nat := if tyBytes t = 0 then 1 else tyBytes t

/-- Push bytes as one entry of qlx (R219). -/
def pushBytes (place : Nat) (d : Dst) (bs : List Byte) (s : State) : Res :=
  match d with
  | .qlx => pushQueue place .qlx { size := bs.length, data := BitVec.ofNat 32768 (ofBytes bs) } s
  | _ => .ok s

/-- LDT (R219). -/
def execLdt (o : SlotOp) (s : State) : Out :=
  slot (.ldt o) s (match tileBytes s o.ty with
    | none => trapAt 4 1
    | some n => do
      let a := effAddr s o.a o.b
      alignTest 4 (tileAlign o.ty) a
      let (bs, s) ← memLoad 4 a n s
      pushBytes 4 o.dst bs s)

/-- The bytes that STT and SCAT store: a qxs entry padded with zeros, or a scalar in every element (R220). -/
def storeBytes (s : State) (t : Ty) (c : Src) (n : Nat) : Except Stop (List Byte × State) :=
  match c with
  | .qxs => do
    let d ← popHead s 4 .qxs
    let size := match s.srcCore.qxs.entries with
      | e :: _ => e.size
      | [] => 0
    .ok (toBytes n (d.toNat % 2 ^ (8 * size)), notePop .qxs s)
  | c =>
    if tyBytes t = 0 then trapAt 4 1
    else do
      let (v, s) ← fetch s 4 t c
      .ok ((List.range (n / tyBytes t)).flatMap fun _ => toBytes (tyBytes t) (v.elem t 0), s)

/-- STT (R220). -/
def execStt (o : SlotOp) (s : State) : Out :=
  slot (.stt o) s (match tileBytes s o.ty with
    | none => trapAt 4 1
    | some n => do
      let a := effAddr s o.a o.b
      let (bs, s) ← testFirst (do
        alignTest 4 (tileAlign o.ty) a
        storeTest 4 [(a, List.replicate n 0)] s) (storeBytes s o.ty o.c n)
      memStores 4 [(a, bs)] s)

/-- LDS, from a scratchpad or a snapshot of the synchronisation region (R218, R221). -/
def execLds (o : SlotOp) (s : State) : Out :=
  let n := tyBytes o.ty
  let a := effAddr s o.a o.b
  slot (.lds o) s (do
    alignTest 4 n a
    match regionOf a n with
    | some (.sync, off) =>
      let v := ((List.range n).map fun k => syncByte s.src s.cur.die (off + k) * 2 ^ (8 * k)).sum
      .ok (setScal o.dst (ext64 o.ty v) s)
    | _ =>
      let (bs, s) ← memLoad 4 a n s
      .ok (setScal o.dst (ext64 o.ty (ofBytes bs)) s))

/-- STS (R221). -/
def execSts (o : SlotOp) (s : State) : Out :=
  let n := tyBytes o.ty
  let a := effAddr s o.a o.b
  slot (.sts o) s (do
    let (v, s) ← fetch s 4 o.ty o.c
    alignTest 4 n a
    memStores 4 [(a, toBytes n (v.elem o.ty 0))] s)

/-- Blocks from codes and scale bytes that lie apart (R222, 03 R86). -/
def joinBlocks (per : Nat) : Nat → List Byte → List Byte → List Byte
  | 0, _, _ => []
  | n + 1, codes, sbs => codes.take per ++ sbs.take 1 ++ joinBlocks per n (codes.drop per) (sbs.drop 1)

/-- LDB (R222). -/
def execLdb (o : SlotOp) (s : State) : Out :=
  let per := if o.ty = .f4 then 16 else 32
  slot (.ldb o) s (match tileBytes s o.ty with
    | none => trapAt 4 1
    | some _ => do
      let nb := elemsOf s / 32
      classTest 4 s [(effAddr s o.a o.b, nb * per), (addrOf s o.c, nb)]
      let (cs, s) ← memLoad 4 (effAddr s o.a o.b) (nb * per) s
      let (ss, s) ← memLoad 4 (addrOf s o.c) nb s
      pushBytes 4 o.dst (joinBlocks per nb cs ss) s)

/-- Lists of 32-bit indices (R223). -/
def words32 : Nat → List Byte → List Nat
  | 0, _ => []
  | n + 1, bs => ofBytes (bs.take 4) :: words32 n (bs.drop 4)

/-- The index list of GATH and SCAT: piece addresses in order, with the bytes of a piece (R223). -/
def pieceAddrs (o : SlotOp) (s : State) : Except Stop (List Nat × Nat × State) := do
  if tooBig s o.ty then trapAt 4 1
  else
    let count := if o.opx.val = 0 then elemsOf s else rowsOf s
    let size := if o.opx.val = 0 then tyBytes o.ty else colsOf s * tyBytes o.ty
    alignTest 4 4 (addrOf s o.b)
    let (bs, s) ← memLoad 4 (addrOf s o.b) (4 * count) s
    let addrs := (words32 count bs).map fun i => addrOf s o.a + i * size
    match addrs.find? fun a => !decide (a % tyBytes o.ty = 0) with
    | some a => .error (.trap { code := 3, place := 4, addr := BitVec.ofNat 64 a })
    | none => .ok (addrs, size, s)

/-- Load pieces in order. -/
def loadPieces (size : Nat) : List Nat → State → Except Stop (List Byte × State)
  | [], s => .ok ([], s)
  | a :: as, s => do
    let (bs, s) ← memLoad 4 a size s
    let (cs, s) ← loadPieces size as s
    .ok (bs ++ cs, s)

/-- GATH (R223). -/
def execGath (o : SlotOp) (s : State) : Out :=
  slot (.gath o) s (do
    let (addrs, size, s) ← pieceAddrs o s
    classTest 4 s (addrs.map fun a => (a, size))
    let (bs, s) ← loadPieces size addrs s
    pushBytes 4 o.dst bs s)

/-- Bytes cut into pieces of one size, with their addresses. -/
def cutPieces (size : Nat) : List Nat → List Byte → List (Nat × List Byte)
  | [], _ => []
  | a :: as, bs => (a, bs.take size) :: cutPieces size as (bs.drop size)

/-- SCAT: stores in ascending order (R223). -/
def execScat (o : SlotOp) (s : State) : Out :=
  slot (.scat o) s (do
    let (addrs, size, s) ← pieceAddrs o s
    let (bs, s) ← testFirst (storeTest 4 (addrs.map fun a => (a, List.replicate size 0)) s)
      (storeBytes s o.ty o.c (addrs.length * size))
    memStores 4 (cutPieces size addrs bs) s)

/-- TMOV: every source line is read before any destination line is written (R224). -/
def execTmov (o : SlotOp) (s : State) : Out :=
  slot (.tmov o) s (do
    let n ← fetch32 s 4 o.c
    if n < 64 ∨ 65536 < n ∨ n % 64 ≠ 0 then trapAt 4 1
    else
      alignTest 4 64 (addrOf s o.a)
      alignTest 4 64 (addrOf s o.b)
      classTest 4 s [(addrOf s o.b, n)]
      storeTest 4 [(addrOf s o.a, List.replicate n 0)] s
      let (bs, s) ← memLoad 4 (addrOf s o.b) n s
      memStores 4 [(addrOf s o.a, bs)] s)

/-- WFEN (R225, 09 R289, R290): one marker copy down every path that the epoch's writes used, or one direct path. -/
def execWfen (o : SlotOp) (s : State) : Out :=
  slot (.wfen o) s (do
    let v ← fetch64 s 4 o.a
    if h : v < 64 then
      let w : Fin 64 := ⟨v, h⟩
      let e ← winFor s 4 w (0x1000000000 + v * 0x100000000)
      let c := s.srcCore.ctx
      let ep := Tbl.get {} s.srcCore.epochs v
      let paths : List (Fin 72 × BitVec 10) := if ep.paths.isEmpty then [((directPath s.m e.peer).getD 0, e.peer)]
        else ep.paths.map fun k => (Fin.ofNat 72 (k / 1024), BitVec.ofNat 10 k)
      let mk : Marker := { srcDev := s.m.device, srcCtx := c, srcWin := w
                           srcJob := BitVec.ofNat 32 (s.cur.die.val * 128 + s.cur.core.val), epoch := ep.number
                           pctx := e.pctx, pwin := Fin.ofNat 64 e.pwin
                           bytes := BitVec.ofNat 48 ep.bytes, copies := BitVec.ofNat 16 paths.length }
      let m := paths.foldl (fun m p => sendFlit m p e.peer (.marker mk)) s.m
      .ok ({ s with m := m }.modCore fun x => { x with
        epochs := Tbl.set {} x.epochs v { number := ep.number + 1, bytes := 0, paths := [] } })
    else trapAt 4 1)

/-- FENC: every access of this model is performed in the turn that issues it, so the fence retires at once (R243). -/
def execFenc (o : SlotOp) (s : State) : Out := slot (.fenc o) s (.ok s)

/-- Planes that a slice keyword reads: first and count (06 R172). -/
def slicePlanes : Nat → Nat × Nat
  | 0 => (0, 2) | 1 => (0, 4) | 2 => (2, 6) | 3 => (4, 4) | _ => (0, 8)

/-- Codes of a block from its plane words, unread planes zero (06 R172). -/
def codesOf (first : Nat) (planes : List Nat) : List Nat :=
  (List.range 32).map fun i =>
    (((List.range planes.length).zip planes).map fun p => if bitAt p.2 i then 2 ^ (7 - (first + p.1)) else 0).sum

/-- Load plane after plane of `n` bytes each. -/
def loadPlanes (n : Nat) : List Nat → State → Except Stop (List (List Byte) × State)
  | [], s => .ok ([], s)
  | a :: as, s => do
    let (bs, s) ← memLoad 4 a n s
    let (r, s) ← loadPlanes n as s
    .ok (bs :: r, s)

/-- LDNW (06 R172, R173). -/
def execLdnw (o : SlotOp) (s : State) : Out :=
  let k := o.opx.val
  slot (.ldnw o) s (do
    let c ← fetch32 s 4 o.c
    let ps := 64 * fld c 0 12
    let fp := fld c 12 3
    let np := fld c 15 4
    let b0 := fld c 19 13
    let nb := elemsOf s / 32
    let (first, cnt) := slicePlanes k
    let a := effAddr s o.a o.b
    if ps = 0 ∨ np = 0 ∨ 8 < fp + np ∨ first < fp ∨ fp + np < first + cnt ∨ !blockShape s (if k < 2 then 17 else 33) then
      trapAt 4 1
    else do
      alignTest 4 64 a
      let planes := (List.range cnt).map fun i => a + (first + i - fp) * ps + 4 * b0
      let scales := a + np * ps + b0
      classTest 4 s (planes.map (fun p => (p, 4 * nb)) ++ [(scales, nb)])
      let (pl, s) ← loadPlanes (4 * nb) planes s
      let (sbs, s) ← memLoad 4 scales nb s
      let words := pl.map (words32 nb)
      let rs := (List.range nb).map fun b =>
        let codes := codesOf first (words.map fun w => w.getD b 0)
        let sb := (sbs.getD b 0).toNat
        if k = 4 then (packBlock false codes sb, (0 : Flags)) else sliceBlock k sb codes
      let s ← pushBytes 4 o.dst ((rs.flatMap Prod.fst).map (BitVec.ofNat 8)) s
      .ok (addFlags (orFlags (rs.map Prod.snd)) s))

end Sys2Proof.Machine
end

