-- ==== Sys2Proof/Machine/Buffers.lean ====
section
/-! DEFINITION. Circular buffers (09 R264 to R268, 08 R388). The clocks released into entry e stand under key 2e for
producers and 2e + 1 for consumers. -/

namespace Sys2Proof.Machine

def BufObj.nEnt (b : BufObj) : Nat := b.nent.toNat
def BufObj.consOf (b : BufObj) (k : Nat) : W32 := Tbl.get 0 b.cons k
def BufObj.cursors (b : BufObj) : List Nat := List.range (b.ncons.toNat + 1)

/-- avail_k and free (R265). -/
def BufObj.avail (b : BufObj) (k : Nat) : Nat := (b.prod - b.consOf k).toNat
def BufObj.free (b : BufObj) : Nat :=
  b.nEnt - (b.cursors.map fun k => (b.claim - b.consOf k).toNat).foldl max 0

/-- The entry of a version and its address (R265). -/
def BufObj.entry (b : BufObj) (v : W32) : Nat := if b.nEnt = 0 then 0 else v.toNat % b.nEnt
def BufObj.entryAddr (b : BufObj) (v : W32) : Nat := b.base.toNat + b.entry v * b.ebytes.toNat

/-- `n` consecutive versions. -/
def versions (v : W32) (n : Nat) : List W32 := (List.range n).map fun i => v + BitVec.ofNat 32 i

/-- The clocks that one side released into the entries of versions. -/
def BufObj.clksOf (b : BufObj) (side : Nat) (vs : List W32) : Clock :=
  vs.foldl (fun acc v => Clock.join acc (Tbl.get [] b.clks (2 * b.entry v + side))) []

/-- Publication of `n` entries under a releasing clock (R266). -/
def BufObj.publish (b : BufObj) (n : Nat) (k : Clock) : BufObj :=
  { b with prod := b.prod + BitVec.ofNat 32 n
           clks := (versions b.prod n).foldl (fun t v =>
             Tbl.set [] t (2 * b.entry v) (Clock.join (Tbl.get [] t (2 * b.entry v)) k)) b.clks }

/-- Release of `n` entries by a cursor (R266). -/
def BufObj.consume (b : BufObj) (cur n : Nat) (k : Clock) : BufObj :=
  { b with cons := Tbl.set 0 b.cons cur (b.consOf cur + BitVec.ofNat 32 n)
           clks := (versions (b.consOf cur) n).foldl
             (fun t v => Tbl.set [] t (2 * b.entry v + 1) (Clock.join (Tbl.get [] t (2 * b.entry v + 1)) k)) b.clks }

/-- A claim of `n` entries; the consumers' clocks that it acquires are spent (R266, R388). -/
def BufObj.claimN (b : BufObj) (n : Nat) : BufObj :=
  { b with claim := b.claim + BitVec.ofNat 32 n
           clks := (versions b.claim n).foldl (fun t v => Tbl.set [] t (2 * b.entry v + 1) []) b.clks }

/-- The handle that source A names: its number, its word, its object (R266). -/
def cbHandle (s : State) (o : SlotOp) : Except Stop (Nat × Nat × BufObj) := do
  let h ← fetch64 s 4 o.a
  if 16 ≤ h then trapAt 4 1
  else
    let w := (Tbl.get 0 s.srcCore.cb h).toNat
    if !hValid w then trapAt 4 1
    else .ok (h, w, s.src.buf s.cur.die (hObject w))

/-- A handle in one role, its cursor live (R266). -/
def cbRole (s : State) (o : SlotOp) (consumer : Bool) : Except Stop (Nat × Nat × BufObj) := do
  let r ← cbHandle s o
  if hConsumer r.2.1 ≠ consumer ∨ (consumer ∧ r.2.2.ncons.toNat < hCursor r.2.1) then trapAt 4 1 else .ok r

/-- The count that source B gives (R266). -/
def cbCount (s : State) (o : SlotOp) (b : BufObj) : Except Stop Nat := do
  let n ← fetch64 s 4 o.b
  if n = 0 ∨ b.nEnt < n then trapAt 4 1 else .ok n

def setBufOf (w : Nat) (b : BufObj) (s : State) : State := s.modM fun m => m.setBuf s.cur.die (hObject w) b

/-- CBPB: a release, then publication (R266). -/
def execCbpb (o : SlotOp) (s : State) : Out :=
  slot (.cbpb o) s (do
    let (_, w, b) ← cbRole s o false
    let n ← cbCount s o b
    if (b.claim - b.prod).toNat < n then trapAt 4 1
    else if publishStalls s.src s.cur.die (hObject w) ((b.prod + BitVec.ofNat 32 n).setWidth 16) then waiting s
    else
      releaseTest s false
      .ok (jobReleased (setBufOf w (b.publish n (jobClock s)) s)))

/-- CBRL: a release, then the cursor moves (R266). -/
def execCbrl (o : SlotOp) (s : State) : Out :=
  slot (.cbrl o) s (do
    let (_, w, b) ← cbRole s o true
    let n ← cbCount s o b
    if b.avail (hCursor w) < n then trapAt 4 1
    else
      releaseTest s false
      .ok (jobReleased (setBufOf w (b.consume (hCursor w) n (jobClock s)) s)))

/-- CBWT of a consumer (R266). -/
def execCbwtConsumer (o : SlotOp) (s : State) : Out :=
  slot (.cbwtConsumer o) s (do
    let (h, w, b) ← cbRole s o true
    let n ← cbCount s o b
    if b.avail (hCursor w) < n then parked s
    else
      let v := b.consOf (hCursor w)
      let s := setScal o.dst (b.entryAddr v) s
      let s := s.modCore fun c => { c with bufs := Tbl.set none c.bufs h (some (v + BitVec.ofNat 32 n - 1)) }
      .ok (jobAcquire (b.clksOf 0 (versions v n)) s))

/-- CBWT of a producer (08 R388). -/
def execCbwtProducer (o : SlotOp) (s : State) : Out :=
  slot (.cbwtProducer o) s (do
    let (_, w, b) ← cbRole s o false
    let n ← cbCount s o b
    if b.free < n then parked s
    else
      let s := setScal o.dst (b.entryAddr b.claim) (setBufOf w (b.claimN n) s)
      .ok (jobAcquire (b.clksOf 1 (versions b.claim n)) s))

/-- CBST.get (R266). -/
def execCbstGet (o : SlotOp) (s : State) : Out :=
  slot (.cbstGet o) s (do
    let (_, w, b) ← cbHandle s o
    if hConsumer w ∧ b.ncons.toNat < hCursor w then trapAt 4 1
    else
      let (cnt, av) := if hConsumer w then (b.consOf (hCursor w), b.avail (hCursor w)) else (b.prod, b.free)
      .ok (setScal o.dst (cnt.toNat + av % 2 ^ 16 * 2 ^ 32) s))

/-- Whether an image keeps the limits of R264 and its counts and reserved bits are zero (R266). -/
def cbImageOk (i : Nat) : Bool :=
  let base := fld i 256 48
  let eb := fld i 224 32
  let n := fld i 208 16
  decide (base % 64 = 0) && decide (eb % 64 = 0) && decide (64 ≤ eb) && decide (eb ≤ 2 ^ 20) && decide (1 ≤ n) &&
    decide (n ≤ 4096) && decide (n = 2 ^ Nat.log2 n) && decide (i / 2 ^ 304 = 0) && decide (i % 2 ^ 206 = 0)

/-- CBST.init (R266): what the object is is tested before the image is read (15 R352). -/
def execCbstInit (o : SlotOp) (s : State) : Out :=
  slot (.cbstInit o) s (do
    let (_, w, b) ← cbHandle s o
    if hConsumer w ∧ b.ncons.toNat < hCursor w then trapAt 4 1
    else if b.claim ≠ b.prod ∨ b.cursors.any (fun k => b.consOf k ≠ b.prod) then trapAt 4 1 else
    let (bs, s) ← memLoad 4 (addrOf s o.b) 64 s
    let i := ofBytes bs
    if !cbImageOk i then trapAt 4 1
    else .ok (setBufOf w { base := BitVec.ofNat 48 (fld i 256 48), ebytes := BitVec.ofNat 32 (fld i 224 32)
                           nent := BitVec.ofNat 16 (fld i 208 16), ncons := BitVec.ofNat 2 (fld i 206 2) } s))

end Sys2Proof.Machine
end

