-- ==== Sys2Proof/Machine/Chains.lean ====
section
/-! DEFINITION. Command chains: the ops that start, wait for and cancel them (09 R259 to R263), the sequencer's walk
and its control records (R253 to R258), firing on buffers (R267), completion (R269) and the stops of an engine
(15 R362). -/

namespace Sys2Proof.Machine

/-! ### Stops of a chain -/

/-- Why a step of a chain does not go through. -/
inductive ChStop where
  /-- A trap code, its subcause, the address at fault, the engine's status word, a poisoned stacked line. -/
  | stop (code sub addr status : Nat) (line : Option Nat)
  /-- A flash-tier page, with the engine's status word (14 R341). -/
  | tier (addr status : Nat)
  /-- It is tried again later. -/
  | wait
  /-- The accesses that the step has performed stand, with the bytes of the last one (07 R206). -/
  | after (m : Module) (bytes : Nat) (e : ChStop)
  deriving DecidableEq, Repr

/-- The stop of an access by a chain; `dev` tells a device address from a local one. -/
def chAcc (m : Module) (ctx : Fin 64) (dev : Bool) (status : Nat) : AccStop → ChStop
  | .fault c sub a l => .stop c sub a status l
  | .race a line _ _ => .stop 8 0 (if dev then a else localOf m ctx line) status none
  | .quota a => .stop 9 0 a status none
  | .busy => .wait
  | .tier a => .tier a status

/-- ILLEGAL without an address. -/
def chIllegal {α : Type} : Except ChStop α := .error (.stop 1 0 0 0 none)
def chTrap {α : Type} (code addr : Nat) : Except ChStop α := .error (.stop code 0 addr 0 none)

/-- What a stop makes of a chain (15 R362, 14 R341). -/
def chStopped (m : Module) (i : ChainId) : ChStop → Module
  | .stop c sub a st l =>
    stopChain (match l with
      | some l => pushAlog m 4 (l * 64) 127
      | none => m) i c sub a st
  | .tier a st =>
    let k := m.chain i
    match pagerCall m k.engDie { chain := some i, dev := some (k.ctx, BitVec.ofNat 57 a)
                                 trap := some { code := 6, place := 0, addr := BitVec.ofNat 64 a, info := BitVec.ofNat 64 st
                                                stamp := some (m.die k.engDie).cyc } } with
    | some m => m.modChain i fun k => { k with tier := true, old := none }
    | none => m
  | .wait => m
  | .after m' _ e => chStopped m' i e

/-- The outcome of a step of the chain in hand. -/
def chainOut (s : State) (r : Except ChStop Module) : Out :=
  .next { s with m := match r with
    | .ok m => m
    | .error e => chStopped s.m s.chain e }

/-! ### Accesses of a chain -/

/-- Where a chain's engine holds translations (14 R339). -/
def Chain.place (k : Chain) : Option XPlace :=
  match k.cls with
  | .copy => some (.copy k.die k.inst)
  | .zither => some (.zither k.inst)
  | _ => none

/-- The accesses of a chain, with what stands when one stops (07 R206). -/
def chEach {α : Type} (ctx : Fin 64) (dev : Bool) : Except (AccStop × Module × Nat) α → Except ChStop α
  | .ok a => .ok a
  | .error (e, m, n) => .error (.after m n (chAcc m ctx dev 0 e))

def chLoad (m : Module) (i : ChainId) (st : Option (Nat × W32)) (addr n : Nat) :
    Except ChStop (List Byte × Module) :=
  let k := m.chain i
  match localLocs m k.ctx k.die k.core addr n with
  | none => .error (chAcc m k.ctx false 0 (addrclass addr))
  | some ls => chEach k.ctx false (loadEach m (chainActor k st) addr ls)

def chStore (m : Module) (i : ChainId) (st : Option (Nat × W32)) (addr : Nat) (bs : List Byte) :
    Except ChStop Module :=
  let k := m.chain i
  match localLocs m k.ctx k.die k.core addr bs.length with
  | none => .error (chAcc m k.ctx false 0 (addrclass addr))
  | some ls => chEach k.ctx false (storeEach (chainActor k st) addr ls bs 0 m)

def chLoadDev (m : Module) (i : ChainId) (addr n : Nat) : Except ChStop (List Byte × Module) :=
  let k := m.chain i
  match underTables m k.ctx k.old fun m => devLocs m k.place k.ctx .read (linePieces addr n) with
  | .error e => .error (chAcc m k.ctx true 0 e)
  | .ok (ls, m) => chEach k.ctx true (loadEach m (chainActor k none) addr ls)

def chStoreDev (m : Module) (i : ChainId) (addr : Nat) (bs : List Byte) : Except ChStop Module :=
  let k := m.chain i
  match underTables m k.ctx k.old fun m => devLocs m k.place k.ctx .write (linePieces addr bs.length) with
  | .error e => .error (chAcc m k.ctx true 0 e)
  | .ok (ls, m) => chEach k.ctx true (storeEach (chainActor k none) addr ls bs 0 m)

/-- Whether a local range lies in one scratchpad of a context, with or without a core (01 R22, 14 R332). -/
def scratchRange (m : Module) (ctx : Fin 64) (core : Bool) (lo : Int) (n : Nat) : Bool :=
  decide (0 ≤ lo) &&
    match regionOf lo.toNat n with
    | some (.unit, _) => core
    | some (.cluster, o) => core && decide (o + n ≤ ctxCsize m ctx)
    | some (.die, o) => decide (o + n ≤ ctxDsize m ctx)
    | _ => false

/-- Whether a local range lies in one scratchpad that the chain may name (R275, 11 R299). -/
def chRange (m : Module) (k : Chain) (lo : Int) (n : Nat) : Bool := scratchRange m k.ctx k.core.isSome lo n

/-! ### Firing (R267) -/

/-- The buffer that a captured handle names, in a role (06 R182, 14 R333): its object, its cursor. -/
def chHandle (m : Module) (k : Chain) (h : Nat) (consumer : Bool) : Except ChStop (Nat × Nat) :=
  let w := (Tbl.get 0 k.views.handles h).toNat
  if !hValid w || decide (hConsumer w ≠ consumer) then chIllegal
  else if !grantBuf m k.ctx (hObject w) then chTrap 2 0
  else if consumer && decide ((m.buf k.die (hObject w)).ncons.toNat < hCursor w) then chIllegal
  else .ok (hObject w, hCursor w)

/-- One input entry fires: its version, the module with the clock joined and the view set. -/
def fireIn (m : Module) (i : ChainId) (h o cur : Nat) : W32 × Module :=
  let k := m.chain i
  let b := m.buf k.die o
  let v := b.consOf cur
  (v, m.setChain i { k with views := { k.views with
    clk := Clock.join k.views.clk (b.clksOf 0 [v]), bufs := Tbl.set none k.views.bufs h (some v) } })

/-- One output entry fires: it is claimed (R267). -/
def fireOut (m : Module) (i : ChainId) (o : Nat) : W32 × Module :=
  let k := m.chain i
  let b := m.buf k.die o
  let v := b.claim
  (v, (m.setBuf k.die o (b.claimN 1)).setChain i { k with views := { k.views with
    clk := Clock.join k.views.clk (b.clksOf 1 [v]) } })

/-- Fire a command on at most two inputs and one output: handle numbers. It waits while an entry is missing, or while
its engine has as many commands in progress as it can. -/
def fire (m : Module) (i : ChainId) (ins : List Nat) (out : Option Nat) : Except ChStop Module := do
  let k := m.chain i
  let is ← ins.mapM fun h => (chHandle m k h true).map fun r => (h, r)
  let os ← out.toList.mapM fun h => (chHandle m k h false).map fun r => (h, r.1)
  let ready := is.all (fun x => decide (1 ≤ (m.buf k.die x.2.1).avail x.2.2)) &&
    os.all (fun x => decide (1 ≤ (m.buf k.die x.2).free)) &&
    decide (inProgress m (engineOf k) < engineRunCap (engineOf k))
  if !ready then .error .wait
  else
    let r := is.foldl (fun (a : List (Nat × W32) × Module) x =>
      let (v, m) := fireIn a.2 i x.1 x.2.1 x.2.2
      (a.1 ++ [(x.1, v)], m)) ([], m)
    let r := os.foldl (fun (a : List (Nat × W32) × Module) x =>
      let (v, m) := fireOut a.2 i x.2
      (a.1 ++ [(x.1, v)], m)) r
    .ok (r.2.modChain i fun k => { k with fired := some r.1, units := 0 })

/-- The object, the version and the entry address of a handle on which the command in progress fired. -/
def firedEntry (m : Module) (k : Chain) (h : Nat) : Nat × W32 × Nat :=
  let o := hObject (Tbl.get 0 k.views.handles h).toNat
  let v := (((k.fired.getD []).find? fun p => decide (p.1 = h)).map Prod.snd).getD 0
  (o, v, (m.buf k.die o).entryAddr v)

/-- The objects and cursors of input handles, each once. -/
def releasedBy (k : Chain) (hs : List Nat) : List (Nat × Nat) :=
  (hs.map fun h =>
    let w := (Tbl.get 0 k.views.handles h).toNat
    (hObject w, hCursor w)).eraseDups

/-- The command in progress has been performed and waits for its completion. -/
def performed (m : Module) (i : ChainId) (p : Perf) : Module := m.modChain i fun k => { k with done := some p }

/-! ### Records -/

/-- The class of a command's code (R255); none for a control record. -/
def cmdClass (code : Nat) : Option EngClass :=
  match code with
  | 1 | 2 | 3 | 10 => some .copy
  | 4 | 5 => some .kantele
  | 6 | 7 | 8 | 9 => some .zither
  | 11 => some .chain
  | _ => none

/-- The word address of a control record (R256). -/
def recWord (r : Rec) : Nat := r.w2.toNat + r.w3.toNat * 2 ^ 32
/-- The descriptor address of a command (R255). -/
def recDesc (r : Rec) : Nat := r.w1.toNat + r.w2.toNat * 2 ^ 32
/-- The signal address and the amount (R254). -/
def recSignal (r : Rec) : Nat := r.w4.toNat + r.w5.toNat * 2 ^ 32
def recAmount (r : Rec) : Nat := if r.w6 = 0 then 1 else r.w6.toNat

/-- Whether words 4 to 6 name a signal. -/
def recSigOk (r : Rec) : Bool := decide (recSignal r < 2 ^ 57) && decide (recSignal r % 8 = 0)

/-- Whether a record breaks R253 to R256, for a chain of a class with or without a stream to interrupt (11 R299). -/
def recBad (cls : EngClass) (stream : Bool) (code : Nat) (r : Rec) : Bool :=
  let z := fun (ws : List W32) => ws.all fun w => decide (w = 0)
  let plain := decide (r.cls = cls) && !r.byt && !r.sig && !r.ntf && !r.last && decide (r.bufs = 0)
  let wordOk := decide (r.w3.toNat < 2 ^ 16) && decide (r.w2.toNat % 4 = 0)
  !(match code with
    | 0x10 => plain && z [r.w2, r.w3, r.w4, r.w5, r.w6, r.w7]
    | 0x11 => plain && wordOk && z [r.w4, r.w5, r.w6, r.w7]
    | 0x12 | 0x13 => plain && wordOk && z [r.w1, r.w4, r.w5, r.w6, r.w7]
    | 0x14 => plain && recSigOk r && z [r.w1, r.w2, r.w3, r.w7]
    | 0x15 => plain && stream && decide (r.w3.toNat < 2 ^ 16) && z [r.w1, r.w2, r.w4, r.w5, r.w6, r.w7]
    | 0x1F => plain && z [r.w1, r.w2, r.w3, r.w4, r.w5, r.w6, r.w7]
    | code =>
      decide (cmdClass code = some cls) && decide (r.cls = cls) && z [r.w7] &&
      (if r.ntf then stream && decide (r.w3.toNat < 2 ^ 16) else z [r.w3]) &&
      (if r.sig then recSigOk r else z [r.w4, r.w5, r.w6]) &&
      (code == 4 || code == 5 || (decide (r.w2.toNat < 2 ^ 16) && decide (r.w1.toNat % 64 = 0))))

/-! ### Starting, waiting for and cancelling (R259 to R262) -/

/-- The engine that ECHN's class and sel name (R259). -/
def echnClass (n : Nat) : EngClass :=
  match n with
  | 0 => .copy | 1 => .kantele | 2 => .zither | _ => .chain

/-- Capture a phase of a slot: the phase, and the module with the hold taken (07 R210). -/
def captureSlot (m : Module) (d : Fin 16) (n : Fin 256) (next : Bool) : W32 × Module :=
  let (b, φ) := (m.barrier d n).capture next
  (φ, m.setBarrier d n b)

/-- Start a chain at the tail of its engine's queue (R259, R260). -/
def startChain (m : Module) (i : ChainId) (k : Chain) (next : Bool) : Module :=
  let (φ, m) := captureSlot m k.slotDie k.slot next
  let k := { k with state := 1, phase := φ, hold := true }
  let e := engineOf k
  setEngQueue (m.setChain i k) e (engQueue m e ++ [i])

/-- ECHN (R259, R260, 07 R195). -/
def execEchn (o : SlotOp) (s : State) : Out :=
  slot (.echn o) s (do
    let sel ← fetch64 s 5 o.a
    let bar ← fetch64 s 5 o.c
    let head := addrOf s o.b
    let d := s.cur.die
    let c := s.srcCore.ctx
    let cls := echnClass (o.opx.val % 4)
    let i : ChainId := .job d s.cur.core (Fin.ofNat 16 sel)
    let old := s.src.chain i
    let inst := fld sel 4 3
    let slotDie : Fin 16 := Fin.ofNat 16 (fld bar 9 4)
    let slotNo : Fin 256 := Fin.ofNat 256 bar
    if 2 ^ 7 ≤ sel ∨ (cls ≠ .copy ∧ inst ≠ 0) ∨ 2 ^ 13 ≤ bar ∨ old.state = 1 ∨ old.state = 2 then trapAt 5 1
    else if !(s.src.barrier slotDie slotNo).valid then
      .error (.trap { code := 1, place := 5, addr := BitVec.ofNat 64 (32 * slotNo.val) })
    else if !grantSlot s.src c slotNo.val then trapAt 5 2
    else
      alignTest 5 32 head
      match localLocs s.src c d (some s.cur.core) head 32 with
      | none => accStop s 5 (addrclass head)
      | some _ =>
        let k : Chain := {
          cls := cls, ctx := c, head := BitVec.ofNat 48 head, who := some s.cur, core := some s.cur.core, die := d
          inst := if cls = .zither then Fin.ofNat 8 (d.val / 2) else Fin.ofNat 8 inst
          slotDie := slotDie, slot := slotNo
          views := { die := d, party := s.cur.core.val, clk := s.core.clk, phases := s.core.phases
                     bufs := s.core.bufs, handles := s.core.cb } }
        if engineQueueCap (engineOf k) ≤ (engQueue s.src (engineOf k)).length then waiting s
        else
          releaseTest s true
          .ok (jobReleased (s.modM fun m => startChain m i k (bitAt bar 8))))

/-- The chain slot that source A names (R262). -/
def chainSlot (s : State) (o : SlotOp) : Except Stop ChainId := do
  let n ← fetch64 s 5 o.a
  if 16 ≤ n then trapAt 5 1 else .ok (.job s.cur.die s.cur.core (Fin.ofNat 16 n))

/-- Whether a chain slot is idle or its chain has ended (R262). -/
def Chain.over (k : Chain) : Bool := k.state != 1 && k.state != 2

/-- ECWT (R262). -/
def execEcwt (o : SlotOp) (s : State) : Out :=
  slot (.ecwt o) s (do
    let i ← chainSlot s o
    let k := s.src.chain i
    if k.over then .ok (setScal o.dst (progWord k) s) else parked s)

/-- ECNC (R262). -/
def execEcnc (o : SlotOp) (s : State) : Out :=
  slot (.ecnc o) s (do
    let i ← chainSlot s o
    let k := s.src.chain i
    if k.over then .ok (setScal o.dst (progWord k) s)
    else if s.srcStrm.wait = .ecnc then parked s
    else
      let mark := fun (m : Module) => cancelChain m i false
      let k' := (mark s.src).chain i
      if k'.over then .ok (setScal o.dst (progWord k') (s.modM mark))
      else parkWith s fun m => (mark m).modStrm s.cur fun x => { x with wait := .ecnc })

/-! ### The walk (R257) -/

/-- Whether a freeze holds an engine: those of a frozen cluster (15 R365). -/
def engineFrozen (m : Module) : EngineId → Bool
  | .kantele d k | .chain d k => isFrozen m d (.cluster d k)
  | _ => false

/-- Whether a freeze holds the chain that an engine works on. -/
def chainFrozen (m : Module) (k : Chain) : Bool := engineFrozen m (engineOf k) || k.core.any (coreFrozen m k.die)

/-- CHAIN_START: the engine takes the chain at the head of its queue. -/
def execChainStart (e : EngineId) (s : State) : Out :=
  .next (match (engQueue s.m e).filter fun _ => !engineFrozen s.m e with
    | [] => s
    | i :: is => { s with m := (setEngQueue s.m e is).modChain i fun k => { k with state := 2, pos := 0 } })

/-- Continue at a record; an index out of range stops the chain with ILLEGAL, what the record did standing (R257). -/
def gotoRec (m : Module) (i : ChainId) (n : Int) : Module :=
  let m := m.modChain i fun k => { k with reached := false }
  if 0 ≤ n ∧ n ≤ 65535 then m.modChain i fun k => { k with pos := n.toNat } else stopChain m i 1 0 0 0

/-- The sequencer's step: it reads the record at its position and performs it, or goes on with the command in
progress. Nothing happens while the chain does not run, is held, or a performed command has still to complete. -/
def sequencer (ex : Instr → State → Out) (i : ChainId) (s : State) : Out :=
  let k := s.m.chain i
  let s := { s with chain := i }
  if k.state ≠ 2 ∨ k.held ∨ k.tier ∨ k.done.isSome ∨ chainFrozen s.m k then .next s
  else if k.fired.isSome then
    match decodeRec k.raw.toNat with
    | some r => ex r s
    | none => .next s
  else if k.cancel then .next { s with m := endChain s.m i 5 }
  else if k.reached then
    match decodeRec k.raw.toNat with
    | some r => ex r s
    | none => .next s
  else
    match chLoad s.m i none (k.head.toNat + 32 * k.pos) 32 with
    | .error e => chainOut s (.error e)
    | .ok (bs, m) =>
      let s := { s with m := m }
      match (decodeRec (ofBytes bs)).bind fun r => (recCode r).map fun c => (r, c) with
      | none => chainOut s chIllegal
      | some (r, code, f) =>
        if recBad k.cls k.who.isSome code f then chainOut s chIllegal
        else ex r { s with m := s.m.modChain i fun k => { k with
          index := k.pos, raw := BitVec.ofNat 256 (ofBytes bs), reached := true
          -- units count the work of the current command (R261)
          units := if (cmdClass code).isSome then 0 else k.units } }

/-- A control record's effect: the module, and the record that follows. -/
def control (s : State) (f : Chain → Except ChStop (Module × Int)) : Out :=
  chainOut s (do
    let (m, n) ← f (s.m.chain s.chain)
    .ok (gotoRec m s.chain n))

/-- The word that a control record names. -/
def ctlWord (m : Module) (i : ChainId) (r : Rec) : Except ChStop (Nat × Module) := do
  let (bs, m) ← chLoad m i none (recWord r) 4
  .ok (ofBytes bs, m)

/-- JMP (R256). -/
def execJmp (r : Rec) (s : State) : Out := control s fun k => .ok (s.m, (k.index : Int) + r.w1.toInt)

/-- LPC (R256). -/
def execLpc (r : Rec) (s : State) : Out :=
  control s fun k => do
    let (w, m) ← ctlWord s.m s.chain r
    if w = 0 then .ok (m, (k.index : Int) + 1)
    else
      let m ← chStore m s.chain none (recWord r) (toBytes 4 (w - 1))
      .ok (m, (k.index : Int) + r.w1.toInt)

/-- IFZ (R256). -/
def execIfz (r : Rec) (s : State) : Out :=
  control s fun k => do
    let (w, m) ← ctlWord s.m s.chain r
    .ok (m, (k.index : Int) + (if w = 0 then 2 else 1))

/-- IFNZ (R256). -/
def execIfnz (r : Rec) (s : State) : Out :=
  control s fun k => do
    let (w, m) ← ctlWord s.m s.chain r
    .ok (m, (k.index : Int) + (if w = 0 then 1 else 2))

/-- Decrement the signal of a record, with release semantics from the chain's views (R269, 08 R238), under the
mapping that the command began with (07 R216). -/
def chSignal (m : Module) (i : ChainId) (r : Rec) : Except ChStop Module :=
  let k := m.chain i
  match underTables m k.ctx k.old fun m => (decSignal m k.ctx (recSignal r) (recAmount r) k.views.clk).map fun m => ((), m) with
  | .ok (_, m) => .ok m
  | .error e => .error (chAcc m k.ctx true 0 e)

/-- Queue an interrupt on the stream that issued the chain (R269, R270); it waits for room. A cancelled chain whose
stream no longer runs leaves the interrupt out. -/
def chNotify (m : Module) (i : ChainId) (r : Rec) : Except ChStop Module :=
  let k := m.chain i
  match i, k.who with
  | .job _ _ n, some w =>
    let x := m.strm w
    if x.irqs.length < 16 then
      .ok (m.modStrm w fun x => { x with irqs := x.irqs ++ [{
        uirq := false, slot := n, code := r.w3.setWidth 16, value := 0 }] })
    else if k.cancel && decide (x.status ≠ .running) && decide (x.status ≠ .held) then .ok m
    else .error .wait
  | _, _ => .ok m

/-- SGD (R256). -/
def execSgd (r : Rec) (s : State) : Out :=
  control s fun k => do
    let m ← chSignal s.m s.chain r
    .ok (m, (k.index : Int) + 1)

/-- NTE (R256). -/
def execNte (r : Rec) (s : State) : Out :=
  control s fun k => do
    let m ← chNotify s.m s.chain r
    .ok (m, (k.index : Int) + 1)

/-- END (R256). -/
def execEndRec (_ : Rec) (s : State) : Out := chainOut s (.ok (endChain s.m s.chain 3))

/-! ### Completion (R269) -/

/-- The lease of a job counts a completed Kantele command; the last one ends it (06 R177). -/
def countLease (m : Module) (k : Chain) : Module :=
  match k.cls, k.core with
  | .kantele, some c =>
    m.modCluster k.die (clusterOf c) fun x => { x with
      lease := match x.lease with
        | some (h, n) => if h = c then (if n ≤ 1 then none else some (h, n - 1)) else some (h, n)
        | none => none }
  | _, _ => m

/-- Steps 2 and 3: publication, releases, bytes; with them the flags of the command and its lease (06 R177, R180). A
completion is no release: it changes the counts alone (07 R194). -/
def finishBuffers (m : Module) (i : ChainId) (p : Perf) : Module :=
  let k := m.chain i
  let m := match p.publish with
    | some o => m.setBuf k.die o ((m.buf k.die o).publish 1 [])
    | none => m
  let m := p.release.foldl (fun m r => m.setBuf k.die r.1 ((m.buf k.die r.1).consume r.2 1 [])) m
  let m := if p.cmd.byt then deliverTo m k.engDie k.slotDie k.slot k.phase p.bytes false else m
  let m := match k.who with
    | some w => if p.flags = 0 then m else m.modStrm w fun x => { x with fflg := x.fflg ||| p.flags }
    | none => m
  (countLease m k).modChain i fun k => { k with done := some { p with stage := 1 } }

/-- Step 6: the sequencer moves on (R257, R262). What follows in the chain stands behind the markers that the command stood ahead
of (07 R216). -/
def moveOn (m : Module) (i : ChainId) (p : Perf) : Except ChStop Module :=
  let k := m.chain i
  if k.cancel then .ok (endChain m i 5)
  else if p.cmd.last then .ok (endChain m i 3)
  else .ok (gotoRec (m.setChain i { k with done := none, fired := none, old := none }) i ((k.index : Int) + 1))

/-- A publication that would leave a stale stamp waits for the scrubber (07 R207). -/
def publishWaits (m : Module) (k : Chain) (p : Perf) : Bool :=
  match p.publish with
  | some o => publishStalls m k.die o (((m.buf k.die o).prod + 1).setWidth 16)
  | none => false

/-- COMMAND_COMPLETE. A multicast waits for its members (R276); the signal and the interrupt may hold the chain at
their step. -/
def execCommandComplete (c : ChainId) (s : State) : Out :=
  let s := { s with chain := c }
  let k := s.m.chain c
  match k.done with
  | none => .next s
  | some p =>
    if k.state ≠ 2 ∨ k.held ∨ k.tier ∨ chainFrozen s.m k ∨ k.acks ≠ [] ∨ (p.stage = 0 ∧ publishWaits s.m k p) then .next s
    else
      let m := if p.stage = 0 then finishBuffers s.m c p else s.m
      let s := { s with m := m }
      match (if p.cmd.sig && decide (p.stage < 2) then chSignal m c p.cmd else .ok m) with
      | .error e => chainOut s (.error e)
      | .ok m =>
        let m := m.modChain c fun k => { k with done := some { p with stage := 2 } }
        let s := { s with m := m }
        match (if p.cmd.ntf then chNotify m c p.cmd else .ok m) with
        | .error e => chainOut s (.error e)
        | .ok m => chainOut { s with m := m } (moveOn m c p)

end Sys2Proof.Machine
end

