-- ==== Sys2Proof/Machine/FabricOps.lean ====
section
/-! DEFINITION. Events of the fabric (09 R285 to R291, 15 R374 to R377): what arrives is an input (log 13). -/

namespace Sys2Proof.Machine

/-- An event's outcome: a change of the module. -/
def event (s : State) (f : Module → Module) : Out := .next { s with m := f s.m }

/-- An event that happens only when it is due. -/
def eventIf (s : State) (due : Bool) (f : Module → Module) : Out := .next (if due then { s with m := f s.m } else s)

/-- Bytes of a window's allowance come back, those that a write above the allowance was not charged first; a refusal is
noted (09 R287, 14 R347). -/
def returnBytes (m : Module) (c w : Fin 64) (n : Nat) (refused : Bool) : Module :=
  m.modCtx c fun x =>
    let ex := Tbl.get 0 x.excess w.val
    { x with
    charged := Tbl.set 0 x.charged w.val (Tbl.get 0 x.charged w.val - (n - ex))
    excess := Tbl.set 0 x.excess w.val (ex - n)
    refused := if refused then Tbl.set false x.refused w.val true else x.refused }

/-- REMOTE_WRITE_LAND (07 R386): a held write comes again, any other arrives. -/
def execRemoteWriteLand (w : RemoteWrite) (s : State) : Out :=
  event s fun m => if m.heldWrites.contains w then landHeld m w else landWrite m w

/-- MARKER_LAND (R290): a held copy comes again, any other arrives. -/
def execMarkerLand (k : Marker) (s : State) : Out :=
  event s fun m => if m.heldMarkers.contains k then markerHeld m k else landMarker m k

/-- ALLOWANCE_RETURN (R287). -/
def execAllowanceReturn (ctx win : Fin 64) (bytes : W32) (refused : Bool) (s : State) : Out :=
  event s fun m => returnBytes m ctx win bytes.toNat refused

/-- SLOT_BOUNDARY (R285): a first beat that the table agrees with lets the port send to its sender; one that it does not is
counted; without one the port meets nobody. Flits that lost their paths choose again. -/
def execSlotBoundary (port : Fin 72) (sender : Option (BitVec 10)) (matching : Fin 32) (s : State) : Out :=
  event s fun m =>
    let table := Tbl.get none (m.port port).table_ matching.val
    match sender with
    | none => m.modPort port fun p => { p with met := none, disagree := false }
    | some d =>
      if table = some d then pump (repick (m.modPort port fun p => { p with met := some d, disagree := false })) port
      else
        (m.modPort port fun p => { p with met := none, disagree := true }).modDie (portDie port) fun d =>
          { d with counters := { d.counters with pathsDown := d.counters.pathsDown + 1 } }

/-- RELAY_SEND (R286): the oldest held flit whose target is matched goes on. -/
def execRelaySend (port : Fin 72) (s : State) : Out :=
  event s fun m =>
    let p := m.port port
    match m.relay.find? fun e => p.sends && decide (p.met = some e.2.dst) with
    | some e => { m with relay := m.relay.erase e }
    | none => m

/-- The copies of a multicast packet at a relay, each sent directly, and the relay's own landing (R286, R291). -/
def replicate (m : Module) (origin : BitVec 10) (cmd : Nat) (group version : BitVec 8) (ctx : Fin 64) (off : BitVec 40)
    (data : List Byte) : Module :=
  let ms := (Tbl.get {} m.mcast group.toNat).at_ version
  let m := (ms.filter fun d => !decide (d = m.device)).foldl (fun m d =>
    sendFlit m ((directPath m d).getD 0, d) d (.multicast origin cmd group version ctx true off data)) m
  if ms.contains m.device then landCopy m { origin := origin, cmd := cmd, group := group, ctx := ctx, off := off.toNat, data := data } else m

/-- What an accepted flit carries takes effect. -/
def receiveBody (m : Module) (f : Flit) : Module :=
  match f.body with
  | .write _ _ _ _ _ _ => (flitLines f.src f.body).foldl landWrite m
  | .marker k => landMarker m k
  | .multicast o n g v c copy off data =>
    if copy then landCopy m { origin := o, cmd := n, group := g, ctx := c, off := off.toNat, data := data }
    else replicate m o n g v c off data
  | .ack upto => ackFlits m f.pair f.src upto
  | .nak first => replayFrom m f.pair f.src first
  | .landing c w n r => returnBytes m c w n.toNat r
  | .multicastAck n g =>
    { m with chains := Tbl.upd {} m.chains n fun k => { k with acks := k.acks.erase (f.src, g) } }

/-- Flits that the relay buffer holds: 8 MiB (R286). -/
def relayCap : Nat := 32768

/-- An acknowledgement or a NAK to the source of a flit, for the pair that it belongs to. -/
def linkControl (m : Module) (f : Flit) (body : FlitBody) : Module :=
  let path := (pickPath m f.src).getD (0, f.src)
  enqueue m path { pair := f.pair, seq := 0, key := (m.port path.1).sendKey, dst := f.src, src := m.device, body := body }

/-- FLIT_RECEIVE (15 R374, R375): `good` says that its codewords, CRC and tag verify. -/
def execFlitReceive (port : Fin 72) (f : Flit) (good : Bool) (s : State) : Out :=
  event s fun m =>
    let x := (m.port f.pair).peer f.src
    if !good || (Tbl.get none (m.port port).keys f.key.val).isNone then
      linkControl (countRetries m (portDie port) 1) f (.nak (if f.dst = m.device then x.expect else f.seq))
    else if f.dst ≠ m.device then
      if relayCap ≤ m.relay.length then linkControl m f (.nak f.seq) else { m with relay := m.relay ++ [(port, f)] }
    else if !sequenced f.body then receiveBody m f
    else if f.seq = x.expect then
      let m := m.modPeer f.pair f.src fun x => { x with expect := x.expect + 1 }
      linkControl (receiveBody m f) f (.ack f.seq)
    else if (f.seq - x.expect).toNat < 2 ^ 23 then linkControl m f (.nak x.expect)
    else linkControl m f (.ack (x.expect - 1))

/-- FLIT_ACK (15 R374). -/
def execFlitAck (port : Fin 72) (peer : BitVec 10) (upto : BitVec 24) (s : State) : Out :=
  event s fun m => ackFlits m port peer upto

/-- FLIT_NAK (15 R374). -/
def execFlitNak (port : Fin 72) (peer : BitVec 10) (first : BitVec 24) (s : State) : Out :=
  event s fun m => replayFrom m port peer first

/-- FLIT_REPLAY_TIMEOUT: from the oldest unacknowledged flit (15 R374). -/
def execFlitReplayTimeout (port : Fin 72) (peer : BitVec 10) (s : State) : Out :=
  event s fun m =>
    match ((m.port port).peer peer).replay with
    | e :: _ => replayFrom m port peer e.flit.seq
    | [] => m

/-- Wavelengths that a laser module feeds (01 R10). -/
def moduleMask (lm : Fin 4) : BitVec 16 :=
  match lm.val with
  | 0 => 0x000F | 1 => 0xF000 | 2 => 0x00F0 | _ => 0x0F00

/-- Change the set of active wavelengths: a set-change beat announces it before the next flit (15 R376). -/
def Port.setLive (p : Port) (live : BitVec 16) : Port :=
  if p.live = live then p
  else { p with live := live, change := some ((p.change.map Prod.fst).getD p.live, live) }

/-- A port without a good module: the unacknowledged flits of its pairs are replayed, and its waiting flits sent, by other
ports (15 R377). -/
def portDown (m : Module) (q : Fin 72) : Module :=
  repick ((m.port q).peers.foldl (fun m e =>
    match e.2.replay with
    | f :: _ => replayPair m q (BitVec.ofNat 10 e.1) f.flit.seq
    | [] => m) m)

/-- LOSS_OF_LIGHT (15 R377): the port restripes; LOSLIGHT at once when no flit can have been affected. -/
def execLossOfLight (port : Fin 72) (lm : Fin 4) (s : State) : Out :=
  let p := s.m.port port
  let mask := moduleMask lm
  eventIf s (!bitAt p.lost.toNat lm.val) fun m =>
    let live := p.live &&& ~~~ mask
    let parked := p.parked &&& ~~~ mask
    let wake := if live = 0 then parked else 0
    -- no flit is on the light of a module that feeds no live wavelength, a parked one among them
    let unused := decide (p.live &&& mask = 0)
    let m := m.setPort port { p.setLive live with
      parked := parked &&& ~~~ wake, waking := (p.waking &&& ~~~ mask) ||| wake
      lost := p.lost ||| BitVec.ofNat 4 (2 ^ lm.val)
      losses := if unused then p.losses else p.losses ++ [{ lm := lm, mask := mask }] }
    let m := if unused then sendLoslight m port lm mask 0 0 else clearLosses m
    if (m.port port).lost = 0xF then portDown m port else m

/-- PORT_PARK (15 R376): modules 3, 2 and 1, but never the last whose light is good. -/
def execPortPark (port : Fin 72) (s : State) : Out :=
  let p := s.m.port port
  let due := p.sendq.isEmpty && decide (p.idleNs.toNat * 2 ≤ (portNow s.m port - p.idleSince).toNat)
  eventIf s due fun m =>
    let good := (List.finRange 4).filter fun l => decide (p.live &&& moduleMask l ≠ 0)
    let out := (good.drop 1).foldl (fun a l => a ||| (p.live &&& moduleMask l)) 0
    m.setPort port { p.setLive (p.live &&& ~~~ out) with parked := p.parked ||| out }

/-- PORT_WAKE (15 R376). -/
def execPortWake (port : Fin 72) (s : State) : Out :=
  let p := s.m.port port
  eventIf s (decide (p.parked ≠ 0) && decide (p.threshold.toNat < p.sendq.length)) fun m =>
    m.setPort port { p with waking := p.waking ||| p.parked, parked := 0 }

/-- WAVELENGTH_JOIN (15 R376). -/
def execWavelengthJoin (port : Fin 72) (wl : Fin 16) (s : State) : Out :=
  let p := s.m.port port
  let bit := BitVec.ofNat 16 (2 ^ wl.val)
  eventIf s (decide (p.waking &&& bit ≠ 0)) fun m =>
    m.setPort port { p.setLive (p.live ||| bit) with waking := p.waking &&& ~~~ bit }

end Sys2Proof.Machine
end

