-- ==== Sys2Proof/Machine/Sha.lean ====
section
/-! DEFINITION. SHA-512, the RSASSA-PSS verification of a firmware image and the signature of a report (14 R349, R350). The spec names both and gives
neither formula: they are those of FIPS 180-4 and PKCS #1 (log 77). Byte strings stand for integers highest byte first. -/

namespace Sys2Proof.Machine

/-- The bytes of a number, highest first. -/
def bigEndian (n v : Nat) : List Byte := (toBytes n v).reverse

/-- The number of bytes, highest first. -/
def ofBig (bs : List Byte) : Nat := ofBytes bs.reverse

/-! ### SHA-512 -/

/-- The first 64 bits of the fraction of the k-th root of a number below 2^9. -/
def rootFrac (k p : Nat) : W64 :=
  let n := p * 2 ^ (64 * k)
  BitVec.ofNat 64 ((List.range 70).foldl (fun r i =>
    let t := r + 2 ^ (69 - i)
    if t ^ k ≤ n then t else r) 0)

/-- The first 80 primes. -/
def shaPrimes : List Nat :=
  (List.range 410).filter fun n => decide (2 ≤ n) && (List.range n).all fun d => decide (d < 2) || decide (n % d ≠ 0)

/-- The round constants and the initial chaining value. -/
def shaK : List W64 := shaPrimes.map (rootFrac 3)
def shaInit : List W64 := (shaPrimes.take 8).map (rootFrac 2)

/-- Three rotations, the last of them a shift where `shift` says so. -/
def shaMix (a b c : Nat) (shift : Bool) (x : W64) : W64 :=
  x.rotateRight a ^^^ x.rotateRight b ^^^ (if shift then x >>> c else x.rotateRight c)

/-- The message schedule of a block, newest word first, extended by `n` words. -/
def shaSchedule : Nat → List W64 → List W64
  | 0, w => w
  | n + 1, w => shaSchedule n
      ((shaMix 19 61 6 true (w.getD 1 0) + w.getD 6 0 + shaMix 1 8 7 true (w.getD 14 0) + w.getD 15 0) :: w)

/-- One round on the eight working words. -/
def shaRound (h : List W64) (kw : W64 × W64) : List W64 :=
  let g := fun (i : Nat) => h.getD i 0
  let t1 := g 7 + shaMix 14 18 41 false (g 4) + ((g 4 &&& g 5) ^^^ (~~~ (g 4) &&& g 6)) + kw.1 + kw.2
  let t2 := shaMix 28 34 39 false (g 0) + ((g 0 &&& g 1) ^^^ (g 0 &&& g 2) ^^^ (g 1 &&& g 2))
  [t1 + t2, g 0, g 1, g 2, g 3 + t1, g 4, g 5, g 6]

/-- One block of 128 bytes. -/
def shaBlock (h : List W64) (block : List Byte) : List W64 :=
  let w := (List.range 16).map fun i => BitVec.ofNat 64 (ofBig ((block.drop (8 * i)).take 8))
  let ws := (shaSchedule 64 w.reverse).reverse
  (h.zip ((shaK.zip ws).foldl shaRound h)).map fun p => p.1 + p.2

/-- A message padded to whole blocks. -/
def shaPad (bs : List Byte) : List Byte :=
  bs ++ 0x80 :: List.replicate ((239 - bs.length % 128) % 128) 0 ++ bigEndian 16 (8 * bs.length)

/-- SHA-512: 64 bytes. -/
def sha512 (bs : List Byte) : List Byte :=
  let p := shaPad bs
  ((List.range (p.length / 128)).foldl (fun h i => shaBlock h ((p.drop (128 * i)).take 128)) shaInit).flatMap
    fun w => bigEndian 8 w.toNat

/-! ### RSASSA-PSS with RSA-4096, SHA-512 and a salt of 64 bytes -/

/-- b^e modulo n. -/
def powMod (b e n : Nat) : Nat :=
  (List.range (Nat.log2 e + 1)).foldr (fun i r => (if e.testBit i then r * r % n * b else r * r) % n) (1 % n)

/-- The mask generation function over SHA-512. -/
def mgf1 (seed : List Byte) (n : Nat) : List Byte :=
  ((List.range ((n + 63) / 64)).flatMap fun i => sha512 (seed ++ bigEndian 4 i)).take n

/-- Whether an encoded message of 512 bytes verifies for a digest. -/
def pssOk (digest em : List Byte) : Bool :=
  let h := (em.drop 447).take 64
  let db := ((em.take 447).zip (mgf1 h 447)).map fun p => p.1 ^^^ p.2
  let db := (db.getD 0 0 &&& 0x7F) :: db.drop 1
  em.length == 512 && em.getLast? == some 0xBC && (em.getD 0 0).toNat < 128 &&
    db.take 383 == List.replicate 382 0 ++ [1] &&
    sha512 (List.replicate 8 0 ++ digest ++ db.drop 383) == h

/-- The encoded message of a digest under a salt. -/
def pssEncode (digest salt : List Byte) : List Byte :=
  let h := sha512 (List.replicate 8 0 ++ digest ++ salt)
  let db := ((List.replicate 382 0 ++ 1 :: salt).zip (mgf1 h 447)).map fun (p : Byte × Byte) => p.1 ^^^ p.2
  (db.getD 0 0 &&& 0x7F) :: db.drop 1 ++ h ++ [0xBC]

/-- The signature over bytes of a private key, under a salt of 64 bytes. -/
def rsaPssSign (modulus private_ : Nat) (bs salt : List Byte) : Nat :=
  powMod (ofBig (pssEncode (sha512 bs) salt)) private_ modulus

/-- Whether a signature over bytes verifies under a public key. -/
def rsaPssOk (modulus exponent : Nat) (bs : List Byte) (sig : Nat) : Bool :=
  decide (2 ^ 4095 ≤ modulus) && decide (modulus < 2 ^ 4096) && decide (sig < modulus) &&
    pssOk (sha512 bs) (bigEndian 512 (powMod sig exponent modulus))

/-! ### Images -/

/-- Whether an image may run: its key is the one whose digest the fuses hold, its signature verifies, and its version is not
below the minimum. -/
def FwImage.runs (rootKey : BitVec 512) (minVersion : Nat) (i : FwImage) : Bool :=
  decide (BitVec.ofNat 512 (ofBig (sha512 (Config.keyBytes i.modulus i.exponent))) = rootKey) &&
    rsaPssOk i.modulus i.exponent i.bytes i.signature && decide (minVersion ≤ (Config.imageVersion i.bytes).toNat)

end Sys2Proof.Machine
end

