-- ==== Sys2Proof/Machine/Tuples.lean ====
section
/-! DEFINITION. The tuple instructions (08 R244 to R252, 14 R348). -/

namespace Sys2Proof.Machine

/-- A job deposits no reserved tag but the launch bag's (R245). -/
def reservedTag (t : Nat) : Bool := decide (0xFFFFFF00 ≤ t)

/-- Write a tuple instruction's status: 0 DONE, 1 NONE, 2 FULL, 3 CANCELLED (R246, 02 R62). -/
def tupStatus (o : SlotOp) (n : Nat) (s : State) : State :=
  setScal o.dst n (s.modStrm fun x => { x with tstat := BitVec.ofNat 4 n })

/-- The 64-byte image at an address (R246). -/
def loadImage (addr : Nat) (s : State) : Except Stop (Line × State) := do
  alignTest 5 64 addr
  let (bs, s) ← memLoad 5 addr 64 s
  .ok (BitVec.ofNat 512 (ofBytes bs), s)

/-- The result address of a request is one that a store may reach (R246). -/
def resultTest (addr : Nat) (s : State) : Except Stop Unit := do
  alignTest 5 64 addr
  match localLocs s.src s.srcCore.ctx s.cur.die (some s.cur.core) addr 64 with
  | some _ => .ok ()
  | none => accStop s 5 (addrclass addr)

/-- A request is answered with a tuple: the acquire, then the result (R246, R250). -/
def tupAnswer (o : SlotOp) (img : Line) (clk : Clock) (s : State) : Res := do
  let s ← memStore 5 (addrOf s o.a) (toBytes 64 img.toNat) (jobAcquire clk s)
  .ok (tupStatus o 0 s)

/-- TDEP (R249). -/
def execTdep (o : SlotOp) (s : State) : Out :=
  slot (.tdep o) s (do
    let (img, s) ← loadImage (addrOf s o.a) s
    if reservedTag (tupTag img) && decide (tupTag img ≠ 0xFFFFFF00) then trapAt 5 2
    else
      releaseTest s false
      match deposit s.m s.cur.die (tupStored img (ctxTuple s.m s.srcCore.ctx)) (jobClock s) with
      | none => .error (.trap { code := 9, place := 5, addr := BitVec.ofNat 64 (addrOf s o.a) })
      | some m => .ok (tupStatus o 0 (jobReleased { s with m := m })))

/-- Whether a request of a context may park at a slice (R250, 14 R348). -/
def mayPark (m : Module) (d : Fin 16) (k : Nat) (c : Fin 64) : Bool :=
  let ps := (m.slice d k).parked
  decide (ps.length < 256) &&
    decide ((ps.filter fun q => decide ((m.core q.who.die q.who.core).ctx = c)).length < ctxTshare m c)

/-- TCPY and TTAK (R250). -/
def tupRequest (i : Instr) (o : SlotOp) (take : Bool) (s : State) : Out :=
  slot i s (match s.srcStrm.wait with
    | .tuple _ => parked s
    | .tupleDone img clk => tupAnswer o img clk s
    | .tupleCancelled => .ok (tupStatus o 3 s)
    | _ => do
      resultTest (addrOf s o.a) s
      let (img, s) ← loadImage (addrOf s o.b) s
      if take && decide (tupTag img = 0xFFFFFF00) then trapAt 5 2
      else
        let d := s.cur.die
        let c := s.srcCore.ctx
        let pat := tupPattern img (ctxTuple s.m c)
        match findTuple s.m d pat with
        | some t => tupAnswer o t.image t.clk (if take then s.modM fun m => removeTuple m d t else s)
        | none =>
          let k := homeSlice (tupTag img)
          if mayPark s.src d k c then do
            -- the pattern's load stands: it is an ordinary load (R246)
            let (_, l) ← loadImage (addrOf s o.b) { s with m := s.src }
            parkWith { s with pre := some l.m } fun m =>
              let sl := m.slice d k
              (m.setSlice d k { sl with parked := sl.parked ++ [{ who := s.cur, pattern := pat, take := take }] }).modStrm
                s.cur fun x => { x with wait := .tuple (Fin.ofNat 16 k) }
          else .ok (tupStatus o 2 s))

/-- TCPY (R250). -/
def execTcpy (o : SlotOp) (s : State) : Out := tupRequest (.tcpy o) o false s

/-- TTAK (R250). -/
def execTtak (o : SlotOp) (s : State) : Out := tupRequest (.ttak o) o true s

/-- TPRB (R251). -/
def execTprb (o : SlotOp) (s : State) : Out :=
  slot (.tprb o) s (do
    resultTest (addrOf s o.a) s
    let (img, s) ← loadImage (addrOf s o.b) s
    match findTuple s.m s.cur.die (tupPattern img (ctxTuple s.m s.srcCore.ctx)) with
    | some t => tupAnswer o t.image t.clk s
    | none => .ok (tupStatus o 1 s))

/-- TCAN (R252). -/
def execTcan (o : SlotOp) (s : State) : Out :=
  slot (.tcan o) s (do
    let n ← fetch64 s 5 o.a
    if 2 < n then trapAt 5 1
    else
      let w : Who := { s.cur with stream := if n = 0 then .l else if n = 1 then .x else .s }
      match (s.m.strm w).wait with
      | .tuple _ => .ok (tupStatus o 0 (s.modM fun m => (withdraw m w).modStrm w fun x => { x with wait := .tupleCancelled }))
      | _ => .ok (tupStatus o 1 s))

/-- TUPLE_OVERFLOW_RETURN (R245). -/
def execTupleOverflowReturn (die : Fin 16) (slice : Fin 16) (s : State) : Out :=
  let sl := s.m.slice die slice.val
  .next (match sl.overflow with
    | t :: ts =>
      if sl.stored.length < 4096 then
        let m := s.m.setSlice die slice.val { sl with stored := sl.stored ++ [t], overflow := ts }
        { s with m := match ctxOfTuple m (tupCtx t.image) with
          | some c => m.modCtx c fun x => { x with spill := x.spill - 64 }
          | none => m }
      else s
    | [] => s)

end Sys2Proof.Machine
end

