-- ==== Sys2Proof/Machine/Host.lean ====
section
/-! DEFINITION. The host's windows: deposits and takes (01 R27), the event ring's read index (15 R356), and what the
mailbox's commands share (15 R356 to R358, 14 R349). -/

namespace Sys2Proof.Machine

/-- Word `k` of a line replaced. -/
def putWord (l : Line) (k : Nat) (v : W64) : Line := BitVec.ofNat 512 (putFld l.toNat (64 * k) 64 v.toNat)

/-- HOST_DEPOSIT (01 R27): the write of bytes 0 to 7 of a deposit slot, whose other bytes stand; a deposit that the quota,
the tag or the absence of the context refuses is counted. -/
def execHostDeposit (ctx : Fin 64) (slot : Fin 512) (v : W64) (s : State) : Out :=
  let image := putWord (Tbl.get 0 (s.m.ctx ctx).slots slot.val) 0 v
  let m := s.m.modCtx ctx fun x => { x with slots := Tbl.set 0 x.slots slot.val image }
  let refused := m.modCtx ctx fun x => { x with refusedDeposits := x.refusedDeposits + 1 }
  let m := if !ctxValid m ctx || (reservedTag (tupTag image) && decide (tupTag image ≠ 0xFFFFFF00)) then refused
    else match deposit m (ctxHome m ctx) (tupStored image (ctxTuple m ctx)) [] with
      | none => refused
      | some m => m.modCtx ctx fun x => { x with applied := x.applied + 1 }
  .next { s with m := m }

/-- HOST_TAKE (01 R27): the write of bytes 0 to 7 of the take pattern. -/
def execHostTake (ctx : Fin 64) (v : W64) (s : State) : Out :=
  let pattern := putWord (s.m.ctx ctx).pattern 0 v
  let m := s.m.modCtx ctx fun x => { x with pattern := pattern }
  let found := if !ctxValid m ctx || decide (tupTag pattern = 0xFFFFFF00) then none
    else findTuple m (ctxHome m ctx) (tupPattern pattern (ctxTuple m ctx))
  .next { s with m := match found with
    | some t => (removeTuple m (ctxHome m ctx) t).modCtx ctx fun x => { x with area := t.image, status := 0 }
    | none => m.modCtx ctx fun x => { x with status := 1 } }

/-- REGISTER_WRITE_OTHER (01 R27): discarded. -/
def execRegisterWriteOther (_ctx : Fin 64) (_off : BitVec 16) (_v : W64) (s : State) : Out := .next s

/-- A host write of eight bytes of a context's window (01 R27): the first eight of a slot or of the pattern complete it, the
others are held in it, and a write anywhere else is discarded. -/
def windowWrite (ex : Instr → State → Out) (c : Fin 64) (off : BitVec 16) (v : W64) (s : State) : Out :=
  let o := off.toNat / 8 * 8
  if o < 0x8000 then
    if o % 64 = 0 then ex (.hostDeposit c (Fin.ofNat 512 (o / 64)) v) s
    else .next { s with m := s.m.modCtx c fun x => { x with
      slots := Tbl.set 0 x.slots (o / 64) (putWord (Tbl.get 0 x.slots (o / 64)) (o % 64 / 8) v) } }
  else if o = 0x9000 then ex (.hostTake c v) s
  else if 0x9000 < o ∧ o < 0x9040 then
    .next { s with m := s.m.modCtx c fun x => { x with pattern := putWord x.pattern (o % 64 / 8) v } }
  else ex (.registerWriteOther c off v) s

/-- The eight bytes that a host read of a context's window returns (01 R27). -/
def windowRead (m : Module) (c : Fin 64) (off : BitVec 16) : W64 :=
  let x := m.ctx c
  let o := off.toNat / 8 * 8
  if o = 0x8000 then x.applied
  else if o = 0x8008 then x.refusedDeposits
  else if o = 0x9040 then x.status.setWidth 64
  else if 0x9080 ≤ o ∧ o < 0x90C0 then BitVec.ofNat 64 (fld x.area.toNat (64 * (o % 64 / 8)) 64)
  else 0

/-- EVENT_READ_INDEX_WRITE (15 R356): an index beyond the write index is taken as equal to it. -/
def execEventReadIndexWrite (v : W64) (s : State) : Out :=
  .next { s with m := { s.m with ridx := if s.m.widx - v < 2 ^ 63 then v else s.m.widx } }

/-- BOOT (14 R349, R350): each of the four images verifies before it is run, in their order; the module runs its firmware
when all are. -/
def execBoot (images : List FwImage) (s : State) : Out :=
  let ok := FwImage.runs s.m.rootKey s.m.minVersion
  .next { s with m := { s.m with
    images := images.takeWhile ok, booted := decide (images.length = 4) && images.all ok } }

/-! ### The mailbox (15 R356) -/

/-- Words of the command in the mailbox. -/
def mailW (s : State) (k : Nat) : Nat :=
  match k with
  | 1 => s.m.mail.w1.toNat
  | 2 => s.m.mail.w2.toNat
  | 3 => s.m.mail.w3.toNat
  | _ => s.m.mail.w4.toNat

/-- A command ends with a result: 0 done, 1 no such target, 2 target not held, 3 action not allowed, 4 truncated,
5 unknown command. -/
def result (n : Nat) (m : Module) : Module := { m with busy := false, result := BitVec.ofNat 8 n }
def answer (s : State) (n : Nat) (m : Module) : Out := .next { s with m := result n m }

/-- The commands of 15 R356, which a module without verified firmware still serves (14 R349). -/
def isRecovery (i : Instr) : Bool :=
  match i with
  | .disposeReplay | .disposeNext | .disposeFail | .disposeChainReplay | .disposeChainStop | .readrec | .evring
  | .resync => true
  | _ => false

/-- The command that stands in the mailbox is performed. -/
def serveMail (ex : Instr → State → Out) (s : State) : Out :=
  match decodeMail s.m.mail with
  | .cmd i => if s.m.booted || isRecovery i then ex i s else answer s 3 s.m
  | .badAction => answer s 3 s.m
  | .unknown => answer s 5 s.m

/-- Host memory as the module reads and writes it (15 R357). -/
def hostBytes (m : Module) (a n : Nat) : List Byte := Memory.bytes m.host a n
def hostRead (m : Module) (a n : Nat) : Nat := Memory.read m.host a n
def hostWrite (m : Module) (a : Nat) (bs : List Byte) : Module := { m with host := Memory.puts m.host a bs }

/-- The context that word 1 names. -/
def mailCtx (s : State) : Fin 64 := Fin.ofNat 64 (mailW s 1)

end Sys2Proof.Machine
end

