-- ==== Sys2Proof/Machine/Issue.lean ====
section
/-! DEFINITION. Issue and retirement of a bundle: legality (02 R36 to R48), tokens, parity (15 R363), the ops in
order with the precedence of traps (15 R352), and retirement (02 R38, 04 R136). The meaning of an op comes as a
parameter, so that the dispatch can stand after it. -/

namespace Sys2Proof.Machine

/-- A slot op of an instruction, when it is one. -/
def slotOpOf (i : Instr) : Option SlotOp := (slotCode i).map Prod.snd

/-- The registers a destination names under a group size: a jet group or a TOPK pair (05 R157, 04 R121). -/
def dstRegs (d : Dst) (group : Nat) : List Nat :=
  match d with
  | .v n => (List.range group).map fun j => n.val + j
  | .qlx => [1000]
  | .qxs => [1001]
  | .p n => [2000 + n.val]
  | .s n => [3000 + n.val]
  | .a n => [4000 + n.val]
  | .m n => [5000 + n.val]
  | .none => []

/-- Ops that follow jord in tile form (05 R157); JEXT's destination is a single register. -/
def jetAware : Instr → Bool
  | .faddF32 _ | .faddBf16 _ | .faddF16 _ | .fsubF32 _ | .fsubBf16 _ | .fsubF16 _ | .fmulF32 _ | .fmulBf16 _
  | .fmulF16 _ | .fmaF32 _ | .fmaBf16 _ | .fmaF16 _ | .fdivF32 _ | .fdivBf16 _ | .fdivF16 _ | .fminF32 _
  | .fminBf16 _ | .fminF16 _ | .fmaxF32 _ | .fmaxBf16 _ | .fmaxF16 _ | .fabs _ | .fneg _ | .fmov _ | .fscl _
  | .fclp _ | .flrp _ | .cvt _ | .fexp _ | .fexp2 _ | .flog _ | .flog2 _ | .frcp _ | .fsqt _ | .frsq _
  | .ftnh _ | .fsig _ | .fglu _ | .fsin _ | .fcos _ | .fsmx _ | .jsed _ => true
  | _ => false

/-- The registers an op writes, as numbers (02 R39). -/
def destRegs (jord : Nat) (i : Instr) : List Nat :=
  match i with
  | .ainc a _ | .amod a _ | .abrv a _ | .acir a _ | .aset a _ _ => [4000 + a.val]
  | .mset _ m _ => [5000 + m.val]
  | .topk o => dstRegs o.dst 2
  | i =>
    match slotOpOf i with
    | some o => dstRegs o.dst (if jetAware i && !isScalar i o then jord + 1 else 1)
    | none => []

/-- Whether the token bits of a bundle are illegal in a stream: reserved ones, and those that name a FIFO it does not have;
the handler has none at all (02 R36, R48, 09 R273). -/
def badTokens (st : StreamName) (handler : Bool) (w : Nat) : Bool :=
  decide (fld w 4 4 ≠ 0) || (handler && decide (fld w 0 4 ≠ 0)) ||
    (match st with
    | .l => bitAt w 0 || bitAt w 2
    | .s => bitAt w 1 || bitAt w 3
    | .x => false)

/-- The control field (1), the address field (2) and the slots (3 to 5) of a bundle, each decoded by itself, with what
it holds: `none` is a field that does not decode, and a NOP is an empty one. -/
def bundleFields (w : Nat) : List (Nat × Option Instr) :=
  [(1, (controlField w).map (·.getD .nop)), (2, (addressField w).map (·.getD .nop)), (3, slotField w 1),
   (4, slotField w 2), (5, slotField w 3)]

/-- Whether the op in a field is one that the stream does not accept there (02 R47, 09 R273). -/
def badOp (st : StreamName) (handler : Bool) (p : Nat) (i : Instr) : Bool :=
  decide (i ≠ .nop) && (decide (placeCode i.place ≠ p) || !(i.okIn st) || (handler && !(i.okInHandler st)) ||
    (!handler && decide (i = .eret)))

/-- Whether two ops write one register (02 R39). -/
def sameDest (jord : Nat) (i j : Instr) : Bool := (destRegs jord i).any fun r => (destRegs jord j).contains r

/-- The lowest field at fault of a bundle's word (02 R39, R46 to R48): the token bits, then field by field one that does not
decode, that the stream does not accept, or that writes a register another field writes. `handler` holds the handler
bundles issued so far; the control field takes the fault of a 65th (09 R273; log 26). -/
def illegalField (st : StreamName) (handler : Option Nat) (jord : Nat) (w : Nat) : Option Nat :=
  let fs := bundleFields w
  let clash := fun (p : Nat) (i : Instr) => fs.any fun q =>
    decide (q.1 ≠ p) && q.2.any (sameDest jord i)
  if badTokens st handler.isSome w then some 0
  else (fs.find? fun f => match f.2 with
    | none => true
    | some i => badOp st handler.isSome f.1 i || clash f.1 i || (decide (f.1 = 1) && handler.any fun n => decide (64 ≤ n))).map
      Prod.fst

/-- The registers a source names. -/
def srcReg (handler : Bool) : Src → List RegName
  | .tile n => [.v n]
  | .mask n => [.p n]
  | .s n => if handler && decide (56 ≤ n.val) then [.hs (Fin.ofNat 8 (n.val - 56))] else [.s n]
  | .a n => [.a n]
  | .m n => [.m n]
  | _ => []

/-- The registers of a source that a jet op of order `jord` reads (05 R157). -/
def jetReg (jord : Nat) : Src → List RegName
  | .tile n => (List.range (jord + 1)).map fun j => .v (Fin.ofNat 32 (n.val + j))
  | _ => []

/-- The registers an op reads (02 R38, 15 R363). -/
def readRegs (handler : Bool) (jord : Nat) (i : Instr) : List RegName :=
  match i with
  | .eret => [.hs 0]
  | .brz r _ | .brnz r _ | .waits r => srcReg handler (.s r)
  | .loop (.reg r) _ => srcReg handler (.s r)
  | .jmpi (.s r) => srcReg handler (.s r)
  | .jmpi (.a r) => [.a r]
  | .brp p _ _ => [.p p]
  | .ainc a _ => [.a a]
  | .amod a m | .abrv a m | .acir a m => [.a a, .m m]
  | i =>
    match i.shape with
    | some (o, sh) =>
      let jet := (jetAware i && !isScalar i o && !decide (i = .jsed o)) || decide (i = .jext o)
      let rd := fun (u : SrcRule) (x : Src) =>
        if u = .unused then [] else srcReg handler x ++ (if jet then jetReg jord x else [])
      rd sh.a o.a ++ rd sh.b o.b ++ rd sh.c o.c ++ (if o.pred = 0 then [] else [.p o.pred])
    | none => []

/-- The token FIFOs of a stream: what it pops from and pushes to, left and right (02 R36). -/
def tokIn (c : Core) (st : StreamName) (left : Bool) : Nat :=
  match st, left with
  | .l, false => c.txl
  | .x, true => c.tlx
  | .x, false => c.tsx
  | .s, true => c.txs
  | _, _ => 0
def tokOut (c : Core) (st : StreamName) (left : Bool) : Nat :=
  match st, left with
  | .l, false => c.tlx
  | .x, true => c.txl
  | .x, false => c.txs
  | .s, true => c.tsx
  | _, _ => 0
def popTok (st : StreamName) (left : Bool) (c : Core) : Core :=
  match st, left with
  | .l, false => { c with txl := c.txl - 1 }
  | .x, true => { c with tlx := c.tlx - 1 }
  | .x, false => { c with tsx := c.tsx - 1 }
  | .s, true => { c with txs := c.txs - 1 }
  | _, _ => c
def pushTok (st : StreamName) (left : Bool) (c : Core) : Core :=
  match st, left with
  | .l, false => { c with tlx := c.tlx + 1 }
  | .x, true => { c with txl := c.txl + 1 }
  | .x, false => { c with txs := c.txs + 1 }
  | .s, true => { c with tsx := c.tsx + 1 }
  | _, _ => c

/-- The neighbour on a side. -/
def neighbour (st : StreamName) (left : Bool) : StreamName :=
  match st, left with
  | .x, true => .l
  | .x, false => .s
  | _, _ => .x

/-- The verdict of the token bits at issue (02 R36, 11 R307). -/
def tokenTest (c : Core) (st : StreamName) (b : Bundle) : Verdict :=
  let one := fun (on left pop : Bool) =>
    if !on then Verdict.go
    else if (if pop then decide (tokIn c st left ≠ 0) else decide (tokOut c st left < 16)) then .go
    else if hasExited c (neighbour st left) then .trapped { code := 1, place := 0 } else .unissued
  let all := [one b.popL true true, one b.popR false true, one b.pushL true false, one b.pushR false false]
  match all.find? (fun v => match v with
    | .trapped _ => true
    | _ => false) with
  | some v => v
  | none => if all.contains .unissued then .unissued else .go

/-- CBWT is the consumer's or the producer's form by the role of the handle that source A names (09 R266, 08 R388). -/
def resolveOp (s : State) (i : Instr) : Instr :=
  match i with
  | .cbwtConsumer o =>
    match fetch64 s 4 o.a with
    | .ok h =>
      let w := (Tbl.get 0 s.srcCore.cb h).toNat
      if decide (h < 16) && hValid w && !hConsumer w then i.asProducer else i
    | .error _ => i
  | i => i

/-- What running the ops of a bundle has come to. -/
structure Run where
  st : State
  best : Option Trap := none
  blocked : Bool := false
  unissued : Bool := false
  deriving DecidableEq, Repr

/-- A module with the tags that the accesses of a bundle have left in another, and what they charged (07 R201, R205): an
access of a bundle that waits for its atomic's reply counts from the moment the atomic was sent. -/
def keepTags (w : Who) (now m : Module) : Module :=
  let c := (now.core w.die w.core).ctx
  (m.modDie w.die fun x => { x with tags := (now.die w.die).tags }).modCtx c fun x => { x with
    race := (now.ctx c).race, recordsDue := (now.ctx c).recordsDue }

/-- One op of the bundle after the others (02 R39: every op reads the registers from before the bundle). -/
def runOp (ex : Instr → State → Out) (r : Run) (i : Instr) : Except Out Run :=
  match ex i r.st with
  | .next s =>
    match s.verdict with
    | .go => .ok { r with st := s }
    | .trapped t =>
      .ok { r with best := match r.best with
        | some u => if trapBefore t u then some t else some u
        | none => some t }
    | .blocked =>
      if (s.m.strm s.cur).wait = .atomic && (r.st.srcStrm.wait ≠ .atomic) then
        -- an atomic is sent when nothing else keeps the bundle from retiring (15 R373)
        if r.best.isSome || r.blocked || r.unissued then .ok r
        else
          let m := keepTags s.cur r.st.m s.m
          .ok { r with blocked := true, st := { r.st with m := m, pre := some m } }
      else .ok { r with blocked := true, st := { r.st with m := s.m, pre := some s.m } }
    | .unissued => .ok { r with unissued := true }
  | o => .error o

def runOps (ex : Instr → State → Out) : Run → List Instr → Except Out Run
  | r, [] => .ok r
  | r, i :: is =>
    match runOp ex r i with
    | .ok r => runOps ex r is
    | .error o => .error o

/-- The state between bundles. -/
def settled (s : State) : State := { s with pre := none, verdict := .go, bnd := {} }

/-- The shift of the scale bypass at the retirement of a bundle of X outside the handler (05 R147, R148). -/
def shiftScales (e : Option Scales) (c : Core) : Core :=
  { c with stage3 := c.stage2, stage2 := c.stage1, stage1 := e }

def popQueue (c : Core) (q : QName) : Core := c.setQueue q { c.queue q with entries := (c.queue q).entries.tail }

/-- Take the tokens that a bundle pops, at its issue (02 R36). -/
def takeTokens (st : StreamName) (b : Bundle) (c : Core) : Core :=
  let c := if b.popL then popTok st true c else c
  if b.popR then popTok st false c else c

/-- The parity of the elements that a bundle has written is good again (15 R363). -/
def renew (els : List (RegName × Nat)) (l : List (RegName × Nat)) : List (RegName × Nat) :=
  l.filter fun e => !els.any fun r => decide (r.1 = e.1) && bitAt r.2 e.2

/-- Retirement of a bundle all of whose ops went through (02 R36, R38, 04 R136, 05 R148, 15 R363). -/
def retire (b : Bundle) (s : State) : State :=
  let st := s.cur.stream
  let h := s.srcStrm.handler.isSome
  let s := s.modCore fun c =>
    let c := if s.bnd.popQlx then popQueue c .qlx else c
    let c := if s.bnd.popQxs then popQueue c .qxs else c
    let c := if s.srcStrm.issued.isSome then c else takeTokens st b c
    let c := { c with x := { c.x with badRegs := renew s.bnd.renewed c.x.badRegs } }
    let c := if b.pushL then pushTok st true c else c
    let c := if b.pushR then pushTok st false c else c
    if st = .x ∧ !h then shiftScales s.bnd.scales c else c
  let s := s.modStrm fun x =>
    let x := { x with
      wait := if x.handler.isNone && h then x.wait else .none
      cwait := if x.handler.isNone && h then x.cwait else .none
      issued := none, badRegs := renew s.bnd.renewed x.badRegs
      restored := [], oplog := (s.bnd.writes :: x.oplog).take 64
      handler := x.handler.map (· + 1) }
    match s.bnd.flow with
    | .jump => if x.fetch.any (fun e => decide (e.1 = x.pc.toNat)) then x else { x with fetch := [] }
    | .loop => { x with pc := x.pc + 64 }
    | .seq => advance x
  settled s

/-- The whole value of a register, as the operand log keeps it. -/
def regValue (m : Module) (w : Who) : RegName → Nat
  | .v n => (m.core w.die w.core).vreg n.val
  | .p n => (Tbl.get 0 (m.core w.die w.core).p n.val).toNat
  | .s n => (Tbl.get 0 (m.strm w).s n.val).toNat
  | .a n => (m.strm w).areg n.val
  | .m n => ((m.strm w).mreg n.val).bits
  | .hs n => (Tbl.get 0 (m.strm w).hs n.val).toNat

/-- The streams whose logs can hold a register: its own, or any of the core for the shared v and p. -/
def logsOf (m : Module) (w : Who) : RegName → List Stream
  | .v _ | .p _ => let c := m.core w.die w.core; [c.l, c.x, c.st]
  | _ => [m.strm w]

/-- Whether the newest entry of some log is the last write of a register: its value is the register's (15 R363). -/
def loggedReg (m : Module) (w : Who) (r : RegName) : Bool :=
  (logsOf m w r).any fun x => match x.oplog.flatten.find? fun e => decide (e.1 = r) with
    | some e => e.2 == regValue m w r
    | none => false

/-- The stream that keeps the parity state of a register: X for v and p. -/
def parityHome (w : Who) : RegName → Who
  | .v _ | .p _ => { w with stream := .x }
  | _ => w

/-- The ops of a bundle with the fields that hold them, as trap records number these (15 R354). -/
def fieldsOf (b : Bundle) : List (Nat × Instr) :=
  (b.ctl.toList.map fun i => (1, i)) ++ (b.adr.toList.map fun i => (2, i)) ++ [(3, b.s1), (4, b.s2), (5, b.s3)]

/-- The parity step of a bundle that is about to issue (15 R363): nothing, RFPARITY at the first field that reads the bad
register, or its registers restored. -/
def parityTest (s : State) (m : Module) (w : Who) (b : Bundle) : Option (Except Trap Module) :=
  let x := m.strm w
  let reads := (fieldsOf b).flatMap fun f => (readRegs x.handler.isSome x.jord.toNat f.2).map fun r => (f, r)
  match reads.find? (fun r => (m.strm (parityHome w r.2)).badRegs.any fun e => decide (e.1 = r.2)) with
  | none => none
  | some (f, r) =>
    let bad := (m.strm (parityHome w r)).badRegs.filter fun e => decide (e.1 = r)
    if bad.any x.restored.contains || !loggedReg m w r then
      some (.error (({ code := 0x0D, place := f.1 } : Trap).withOps (operandWords f.2 s)))
    else
      let m := m.modStrm (parityHome w r) fun x => { x with badRegs := x.badRegs.filter fun e => !decide (e.1 = r) }
      let m := m.modStrm w fun x => { x with
        restored := bad ++ x.restored, parityAt := some ((m.die w.die).cyc + 10) }
      some (.ok (m.modDie w.die fun d => { d with counters := { d.counters with restores := d.counters.restores + 1 } }))

/-- Close a bundle that trapped. -/
def trapped (t : Trap) (s : State) : State := settled (raise t s)

/-- What a bundle that issues now, and waits, keeps from its issue (02 R36, R38). -/
def issueNow (b : Bundle) (s : State) (bnd : Progress) : Issued :=
  let c := s.srcCore
  let o := operandWords b.s3 s
  { v := c.v, p := c.p, kbank := c.kbank, getx := bnd.getx, qlxNone := c.qlx.holdsNone, qxsNone := c.qxs.holdsNone,
    popL := b.popL, popR := b.popR, opa := o.1, opb := o.2.1, opc := o.2.2 }

/-- The bundle waits in module `m`: on its first turn it takes its tokens and notes what it read. -/
def keepIssued (b : Bundle) (s : State) (bnd : Progress) (m : Module) : Module :=
  match s.srcStrm.issued with
  | some _ => m
  | none =>
    (m.modCore s.cur.die s.cur.core (takeTokens s.cur.stream b)).modStrm s.cur fun x => { x with
      issued := some (issueNow b s bnd) }

/-- The shared registers of a core as a bundle read them at its issue (02 R38). -/
def Core.asIssued (i : Issued) (c : Core) : Core := { c with v := i.v, p := i.p, kbank := i.kbank }

/-- The state in which the ops of a bundle run: registers are read as they stood at its issue, and written as they stand. -/
def startBundle (w : Who) (s : State) : State :=
  { s with
    cur := w, verdict := .go, bnd := {}
    pre := some (match (s.m.strm w).issued with
      | some i => s.m.modCore w.die w.core (Core.asIssued i)
      | none => s.m) }

/-- What a waiting op leaves standing, on the registers as they stand. -/
def unread (w : Who) (now m : Module) : Module :=
  let c := now.core w.die w.core
  m.modCore w.die w.core fun x => { x with v := c.v, p := c.p, kbank := c.kbank }

/-- What the ops of a bundle have come to (15 R352): a trap, a wait, or retirement. A bundle that does not issue yet traps
with ILLEGAL alone, and one that waits with what comes before QUOTA. One whose atomic has been sent retires or raises ATOMLOST
(15 R373): another cause that comes up meanwhile keeps it waiting (log 89). -/
def closeBundle (b : Bundle) (s : State) (r : Run) : State :=
  let m0 := s.m
  let sent := (m0.strm s.cur).wait.inFlight
  let held := sent && r.best.any fun t => decide (t.code ≠ 0x0B)
  let r := if held then { r with best := none, unissued := true } else r
  let early := fun (n : Nat) => r.best.filter fun t => decide (trapRank t < n)
  match early 3 with
  | some t => trapped t { s with pre := some m0 }
  | none =>
    if r.unissued then settled s
    else
      let parity := if (m0.strm s.cur).issued.isSome then none else parityTest s m0 s.cur b
      match parity with
      | some (.error t) => trapped t { s with pre := some m0 }
      | some (.ok m) => settled { s with m := m }
      | none =>
        match if r.blocked then early 6 else r.best with
        | some t => trapped t { s with pre := some m0 }
        | none =>
          if r.blocked then settled { s with m := keepIssued b s r.st.bnd (unread s.cur m0 r.st.src) }
          else retire b r.st

/-- Run the token test and the ops of a bundle. -/
def runBundle (ex : Instr → State → Out) (b : Bundle) (s : State) : Except Out Run :=
  let tok := if s.srcStrm.issued.isSome then Verdict.go else tokenTest s.srcCore s.cur.stream b
  match runOps ex { st := s, unissued := decide (tok = .unissued) } (b.ops.map (resolveOp s)) with
  | .error o => .error o
  | .ok r => .ok { r with best := match tok with
      | .trapped t => some t
      | _ => r.best }

/-- The fields of a bundle's word that stand before a place, the others empty. -/
def bundleBefore (p w : Nat) : Bundle :=
  let fs := (bundleFields w).filter fun f => decide (f.1 < p)
  let at_ := fun (n : Nat) => ((fs.find? fun f => decide (f.1 = n)).bind Prod.snd).filter fun i => decide (i ≠ .nop)
  let tok := fun (n : Nat) => decide (0 < p) && bitAt w n
  { popL := tok 0, popR := tok 1, pushL := tok 2, pushR := tok 3, ctl := at_ 1, adr := at_ 2,
    s1 := (at_ 3).getD .nop, s2 := (at_ 4).getD .nop, s3 := (at_ 5).getD .nop }

/-- A bundle with a field at fault raises ILLEGAL at the lowest such field (02 R48): one before it may be at fault for what the
stream's state makes of it. -/
def issueIllegal (ex : Instr → State → Out) (p w : Nat) (s : State) : Out :=
  let i := ((bundleFields w).find? fun f => decide (f.1 = p)).bind Prod.snd
  let static := ({ code := 1, place := p } : Trap).withOps (operandWords (i.getD .nop) s)
  match runBundle ex (bundleBefore p w) s with
  | .error o => o
  | .ok r => .next (trapped ((r.best.filter fun t => decide (t.code = 1)).getD static) { s with pre := some s.m })

/-- Issue the bundle that the stream's buffer holds at its program counter, or take it on from where it waits. -/
def issueBundle (ex : Instr → State → Out) (w : Who) (line : Line) (s : State) : Out :=
  let x := s.m.strm w
  let s := startBundle w s
  match illegalField w.stream x.handler x.jord.toNat line.toNat with
  | some p => issueIllegal ex p line.toNat s
  | none =>
    match decodeBundle line.toNat with
    | .error _ => .next (trapped { code := 1, place := 0 } { s with pre := some s.m })
    | .ok b =>
      match runBundle ex b s with
      | .error o => o
      | .ok r => .next (closeBundle b s r)

/-- Whether a stream takes its oldest interrupt now (09 R270, R271). -/
def takesInterrupt (m : Module) (w : Who) : Bool :=
  let x := m.strm w
  decide (x.status = .running) && x.uien && x.handler.isNone && !x.irqs.isEmpty && x.wait.aside && x.cwait.aside &&
    !x.paged && x.parityAt.isNone && !x.doomed && !stopping m w.die w.core && !coreFrozen m w.die w.core

/-- The turn of a stream: the end of one whose job has failed; nothing unless it runs and neither the pager, a parity error, a
freeze nor a checkpoint holds it; a bundle that has issued goes on; an error of the control state; an interrupt; a fetch; or the
next bundle (02 R387, 09 R270, 15 R353, R364). -/
def streamTurn (ex : Instr → State → Out) (w : Who) (s : State) : Out :=
  let x := s.m.strm w
  if x.status = .running ∧ x.doomed ∧ !x.midBundle then .next { s with m := s.m.modStrm w (failStream true) }
  else if x.status ≠ .running ∨ x.paged ∨ x.parityAt.isSome ∨ coreFrozen s.m w.die w.core ∨
      (stopping s.m w.die w.core ∧ x.issued.isNone) then .next s
  else if x.soft && x.issued.isNone then
    .next (trapped { code := 0x12, place := 6 } { s with cur := w, pre := some s.m, bnd := {} })
  else if takesInterrupt s.m w then ex (.interruptTake w) s
  else match x.fetch.find? (fun e => decide (e.1 = x.pc.toNat)) with
    | none => ex (.bundleFetch w) s
    | some e => issueBundle ex w e.2 s

end Sys2Proof.Machine
end

