-- ==== Sys2Proof/Machine/Pools.lean ====
section
/-! DEFINITION. The pools of a Zither and the headers of the attention cache (09 R277, R278, 14 R330), which the Zither's
commands work on and the pager keeps. -/

namespace Sys2Proof.Machine

/-- The pools that a Zither holds for a context: region bases, frames, the count table, the stack area. -/
structure ZPool where
  hbase : Nat
  hcount : Nat
  bbase : Nat
  bcount : Nat
  ctab : Nat
  stack : Nat
  deriving DecidableEq, Repr

/-- The bytes of a block frame. -/
def blockFrame : Nat := 16384

/-- The entry of a context's Zither pool table (14 R330). -/
def zpoolOf (m : Module) (c : Fin 64) (z : Fin 8) : Except AccStop ZPool := do
  let at_ := fld (ccb m c 7) 0 57 + 64 * z.val
  let hb ← devWord m c at_
  let hn ← devWord m c (at_ + 8)
  let bb ← devWord m c (at_ + 16)
  let bn ← devWord m c (at_ + 24)
  let ct ← devWord m c (at_ + 32)
  let st ← devWord m c (at_ + 40)
  .ok { hbase := fld hb 0 57, hcount := fld hn 0 32, bbase := fld bb 0 57, bcount := fld bn 0 32, ctab := fld ct 0 57
        stack := fld st 0 57 }

/-- Whether an address is a frame of the header region, or of the block region (14 R342). -/
def ZPool.isHeader (p : ZPool) (a : Nat) : Bool :=
  decide (p.hbase ≤ a) && decide (a < p.hbase + 64 * p.hcount) && (a - p.hbase) % 64 == 0
def ZPool.isBlock (p : ZPool) (a : Nat) : Bool :=
  decide (p.bbase ≤ a) && decide (a < p.bbase + blockFrame * p.bcount) && (a - p.bbase) % blockFrame == 0

def hNext (h : Nat) : Nat := fld h 0 57
def hBlock (h : Nat) : Nat := fld h 64 57
def hCow (h : Nat) : Bool := bitAt h 127
def hFill (h : Nat) : Nat := fld h 128 5
def hSeq (h : Nat) : Nat := fld h 144 32
def hFirst (h : Nat) : Nat := fld h 176 32
def withNext (h v : Nat) : Nat := putFld h 0 57 v
def withBlock (h v : Nat) : Nat := putFld (putFld h 64 57 v) 136 2 0
def withCow (h : Nat) (v : Bool) : Nat := putFld h 127 1 (if v then 1 else 0)
def withFill (h v : Nat) : Nat := putFld h 128 5 v

/-- The code of the place where a page lies, as a header holds it (R277): 0 Zither, 1 stacked DRAM, 2 CXL pool, 3 flash. -/
def tierCode (tier frame : Nat) : Nat :=
  if tier = 2 then 3
  else if tier = 1 ∨ poolBase ≤ frame then 2
  else if zitherBase ≤ frame ∧ frame < scratchBase then 0 else 1

/-- Rewrite the tier of the headers of a context on a Zither whose blocks lie in a page (R277). -/
def retierPool (m : Module) (c : Fin 64) (lo hi code : Nat) (p : ZPool) : Module :=
  (List.range p.hcount).foldl (fun m i =>
    let a := p.hbase + 64 * i
    match loadDev m none none c .read a 64 with
    | .error _ => m
    | .ok (bs, _) =>
      let h := ofBytes bs
      if h ≠ 0 ∧ lo ≤ hBlock h ∧ hBlock h < hi then
        (match storeDev m none none c a (toBytes 64 (putFld h 136 2 code)) with
        | .ok m => m
        | .error _ => m)
      else m) m

def retier (m : Module) (c : Fin 64) (lo hi code : Nat) : Module :=
  (List.finRange 8).foldl (fun m z => match zpoolOf m c z with
    | .ok p => retierPool m c lo hi code p
    | .error _ => m) m

/-- The words of a pool's stack area: one for every frame (14 R330). -/
def ZPool.frames (p : ZPool) : Nat := p.hcount + p.bcount

/-- The Zither writes a word of its stack area, whose contents are open: which word and what are free values (log 70). -/
def stackTouch (m : Module) (c : Fin 64) (p : ZPool) : Module :=
  if p.frames = 0 then m
  else
    let (n, m) := m.nextFresh
    let (k, m) := m.nextFresh
    match storeDev m none none c (p.stack + 4 * (Config.freeValue n % p.frames)) (toBytes 4 (Config.freeValue k)) with
    | .ok m => m
    | .error _ => m

/-- The Zither builds its free lists in its stack area (R278). -/
def stackBuild (m : Module) (c : Fin 64) (p : ZPool) : Module :=
  (List.range p.frames).foldl (fun m i =>
    let (k, m) := m.nextFresh
    match storeDev m none none c (p.stack + 4 * i) (toBytes 4 (Config.freeValue k)) with
    | .ok m => m
    | .error _ => m) m

end Sys2Proof.Machine
end

