-- ==== Sys2Proof/Machine/Copy.lean ====
section
/-! DEFINITION. The copy engine's commands (09 R275, R276), migration between tiers and the pager (14 R341), and INVM
(07 R215, 14 R340). -/

namespace Sys2Proof.Machine

/-! ### Descriptors (R275) -/

/-- An address field: the address, whether it is local, whether a bit that must be zero is set. -/
def addrField (x : Nat) : Nat × Bool × Bool :=
  if bitAt x 63 then (fld x 0 48, true, decide (fld x 48 15 ≠ 0)) else (fld x 0 57, false, decide (fld x 57 6 ≠ 0))

/-- Fields of the CPY layout. -/
def dSrc (d : Nat) : Nat := fld d 0 64
def dDst (d : Nat) : Nat := fld d 64 64
def dLen (d : Nat) : Nat := fld d 128 32
def dCount (d k : Nat) : Nat := fld d (160 + 16 * k) 16
def dStride (d k : Nat) : Int := signed 32 (fld d (224 + 32 * k) 32)
def dIdx (d : Nat) : Nat := fld d 416 64

/-- INB, OUTB and KEEPI with their handles. -/
def recInb (r : Rec) : Bool := bitAt r.bufs.toNat 8
def recOutb (r : Rec) : Bool := bitAt r.bufs.toNat 9
def recKeep (r : Rec) : Bool := bitAt r.bufs.toNat 10
def recIn (r : Rec) : Nat := fld r.bufs.toNat 0 4
def recOut (r : Rec) : Nat := fld r.bufs.toNat 4 4

/-- Whether a descriptor of CPY or CPG has a bad field. -/
def copyBad (cpg : Bool) (r : Rec) (d : Nat) : Bool :=
  let n := fun k => decide (1 ≤ dCount d k)
  decide (fld r.bufs.toNat 11 5 ≠ 0) || decide (fld d 480 32 ≠ 0) || decide (fld d 208 16 ≠ 0) ||
  decide (dLen d = 0) || decide (2 ^ 24 < dLen d) || !n 0 ||
  (!recInb r && (addrField (dSrc d)).2.2) || (!recOutb r && (addrField (dDst d)).2.2) ||
  (if cpg then
    decide (dCount d 1 ≠ 0) || decide (dCount d 2 ≠ 0) || decide (fld d 224 192 ≠ 0) || decide (dIdx d % 4 ≠ 0) ||
      decide (2 ^ 48 ≤ dIdx d)
  else !n 1 || !n 2 || decide (dIdx d ≠ 0))

/-- The runs of a descriptor. -/
def copyRuns (cpg : Bool) (d : Nat) : Nat := if cpg then dCount d 0 else dCount d 0 * dCount d 1 * dCount d 2

/-- The source and destination offsets of run `k` (R275, R276). -/
def runOffsets (cpg : Bool) (d : Nat) (idxs : List W32) (k : Nat) : Int × Int :=
  if cpg then (((idxs.getD k 0).toNat * dLen d : Nat), (k * dLen d : Nat))
  else
    let i1 : Int := k % dCount d 0
    let i2 : Int := k / dCount d 0 % dCount d 1
    let i3 : Int := k / (dCount d 0 * dCount d 1)
    (i1 * dStride d 0 + i2 * dStride d 1 + i3 * dStride d 2, i1 * dStride d 3 + i2 * dStride d 4 + i3 * dStride d 5)

/-- The lowest and the highest offset of the runs on one side. -/
def copySpan (cpg : Bool) (d : Nat) (idxs : List W32) (dst : Bool) : Int × Int :=
  if cpg then
    if dst then (0, ((dCount d 0 - 1) * dLen d : Nat))
    else
      let l := idxs.map fun x => x.toNat
      (((l.foldl min (2 ^ 32)) * dLen d : Nat), ((l.foldl max 0) * dLen d : Nat))
  else
    let t := (List.range 3).map fun k => ((dCount d k : Int) - 1) * dStride d (k + if dst then 3 else 0)
    ((t.map (min 0)).sum, (t.map (max 0)).sum)

/-- A side of a copy: its address, whether it is local, its buffer stamp. -/
def copySide (m : Module) (i : ChainId) (buf : Bool) (h field : Nat) : Nat × Bool × Option (Nat × W32) :=
  if buf then
    let (o, v, a) := firedEntry m (m.chain i) h
    (a, true, some (o, v))
  else ((addrField field).1, (addrField field).2.1, none)

/-- The address of the entry that a handle would fire on. -/
def nextEntry (m : Module) (k : Chain) (h : Nat) (consumer : Bool) : Except ChStop Nat := do
  let (o, cur) ← chHandle m k h consumer
  let b := m.buf k.die o
  .ok (b.entryAddr (if consumer then b.consOf cur else b.claim))

/-- Every run of a side lies in its region, by exact sums, or the command stops before any byte moves (R275, 00 R6). -/
def sideTest (m : Module) (i : ChainId) (loc : Bool) (addr : Nat) (span : Int × Int) (len : Nat) : Except ChStop Unit :=
  let lo := (addr : Int) + span.1
  let inside := if loc then chRange m (m.chain i) lo ((span.2 - span.1).toNat + len)
    else decide (0 ≤ lo) && decide ((addr : Int) + span.2 + len ≤ 2 ^ 57)
  if inside then .ok () else chTrap 4 (wrapN (if loc then 48 else 64) lo)

/-- The descriptor of a command. -/
def readDesc (m : Module) (i : ChainId) (r : Rec) : Except ChStop (Nat × Module) := do
  let (bs, m) ← chLoad m i none (recDesc r) 64
  .ok (ofBytes bs, m)

/-- Keep what the command in progress has read. -/
def keepDesc (m : Module) (i : ChainId) (d : Nat) (idxs : List W32) : Module :=
  m.modChain i fun k => { k with desc := BitVec.ofNat 512 d, idxs := idxs }

/-- A CPY or CPG reads its descriptor and fires. The index list of CPG is read whole at the start. -/
def copyStart (cpg : Bool) (r : Rec) (m : Module) (i : ChainId) : Except ChStop Module := do
  let (d, m) ← readDesc m i r
  if copyBad cpg r d then chIllegal
  else
    let k := m.chain i
    let (idxs, m) ← (if cpg then (chLoad m i none (dIdx d) (4 * dCount d 0)).map fun p =>
      ((words32 (dCount d 0) p.1).map (BitVec.ofNat 32), p.2) else .ok ([], m))
    let src ← (if recInb r then (nextEntry m k (recIn r) true).map fun a => (a, true)
      else .ok ((addrField (dSrc d)).1, (addrField (dSrc d)).2.1))
    let dst ← (if recOutb r then (nextEntry m k (recOut r) false).map fun a => (a, true)
      else .ok ((addrField (dDst d)).1, (addrField (dDst d)).2.1))
    sideTest m i src.2 src.1 (copySpan cpg d idxs false) (dLen d)
    sideTest m i dst.2 dst.1 (copySpan cpg d idxs true) (dLen d)
    let m ← fire m i (if recInb r then [recIn r] else []) (if recOutb r then some (recOut r) else none)
    .ok (keepDesc m i d idxs)

/-- The stop of a run carries the engine's status word (15 R362): of a copy the run index, of a Zither's local access the list's
header address. -/
def withStatus {α : Type} (n : Nat) : Except ChStop α → Except ChStop α
  | .error (.stop c sub a _ l) => .error (.stop c sub a n l)
  | .error (.tier a _) => .error (.tier a n)
  | .error (.after m b (.stop c sub a _ l)) => .error (.after m b (.stop c sub a n l))
  | .error (.after m b (.tier a _)) => .error (.after m b (.tier a n))
  | r => r

/-- The next run of a copy; the last one leaves the command performed. -/
def copyRun (cpg : Bool) (r : Rec) (m : Module) (i : ChainId) : Except ChStop Module :=
  let k := m.chain i
  let d := k.desc.toNat
  let n := k.units / dLen d
  let (o, q) := runOffsets cpg d k.idxs n
  let src := copySide m i (recInb r) (recIn r) (dSrc d)
  let dst := copySide m i (recOutb r) (recOut r) (dDst d)
  let sa := ((src.1 : Int) + o).toNat
  let da := ((dst.1 : Int) + q).toNat
  withStatus n (do
    let (bs, m) ← (if src.2.1 then chLoad m i src.2.2 sa (dLen d) else chLoadDev m i sa (dLen d))
    let m ← (if dst.2.1 then chStore m i dst.2.2 da bs else chStoreDev m i da bs)
    let m := m.modChain i fun k => { k with units := k.units + dLen d }
    if n + 1 < copyRuns cpg d then .ok m
    else .ok (performed m i {
      cmd := r, bytes := copyRuns cpg d * dLen d, flags := 0
      publish := if recOutb r then some (firedEntry m k (recOut r)).1 else none
      release := if recInb r && !recKeep r then releasedBy k [recIn r] else [] }))

/-- A command that starts, or goes on. -/
def command (s : State) (start run : Module → ChainId → Except ChStop Module) : Out :=
  chainOut s (if (s.m.chain s.chain).fired.isNone then start s.m s.chain else run s.m s.chain)

/-- CPY (R275). -/
def execCpy (r : Rec) (s : State) : Out := command s (copyStart false r) (copyRun false r)

/-- CPG (R276). -/
def execCpg (r : Rec) (s : State) : Out := command s (copyStart true r) (copyRun true r)

/-! ### CPM (R276, R291) -/

/-- CPM starts: the fields that it does not use are zero, and it reads the version of its group. -/
def cpmStart (r : Rec) (m : Module) (i : ChainId) : Except ChStop Module := do
  let (d, m) ← readDesc m i r
  let k := m.chain i
  if decide (fld r.bufs.toNat 11 5 ≠ 0) || recOutb r || decide (dLen d = 0) || decide (2 ^ 24 < dLen d) ||
     decide (dCount d 0 = 0) || decide (fld d 176 336 ≠ 0) || decide (fld d 112 16 ≠ 0) ||
     (!recInb r && (addrField (dSrc d)).2.2) then chIllegal
  else
    let src ← (if recInb r then (nextEntry m k (recIn r) true).map fun a => (a, true)
      else .ok ((addrField (dSrc d)).1, (addrField (dSrc d)).2.1))
    sideTest m i src.2 src.1 (0, ((dCount d 0 - 1) * dLen d : Nat)) (dLen d)
    let m ← fire m i (if recInb r then [recIn r] else []) none
    .ok (keepDesc m i d [(Tbl.get {} m.mcast (fld d 64 8)).version.setWidth 32])

/-- The payload bytes of a flit (R285). -/
def chunks (n : Nat) : Nat → List Byte → List (List Byte)
  | 0, _ => []
  | f + 1, bs => if bs.isEmpty then [] else bs.take n :: chunks n f (bs.drop n)

/-- A device that replicates a packet (R291): one that is matched now, which one being a free value; with none the
module replicates the packet itself. -/
def pickRelay (m : Module) : Option (BitVec 10) × Module :=
  let ds := (List.finRange 72).filterMap fun q => if (m.port q).sends then (m.port q).met else none
  match ds with
  | [] => (none, m)
  | d :: ds =>
    let (n, m) := m.nextFresh
    (some ((d :: ds).getD (Config.freeValue n % (ds.length + 1)) d), m)

/-- Send one packet of a multicast; its landing is acknowledged by every member (R276). -/
def sendPacket (m : Module) (i : ChainId) (group version : BitVec 8) (off : Nat) (bs : List Byte) : Module :=
  let c := (m.chain i).ctx
  let ms := (Tbl.get {} m.mcast group.toNat).at_ version
  let m := m.modChain i fun k => { k with acks := k.acks ++ ms.map fun d => (d, group) }
  let body := FlitBody.multicast m.device (chainKey i) group version c false (BitVec.ofNat 40 off) bs
  match pickRelay m with
  | (some d, m) => sendTo m d body
  | (none, m) => replicate m m.device (chainKey i) group version c (BitVec.ofNat 40 off) bs

/-- The next run of a CPM. -/
def cpmRun (r : Rec) (m : Module) (i : ChainId) : Except ChStop Module :=
  let k := m.chain i
  let d := k.desc.toNat
  let n := k.units / dLen d
  let src := copySide m i (recInb r) (recIn r) (dSrc d)
  withStatus n (do
    let (bs, m) ← (if src.2.1 then chLoad m i src.2.2 (src.1 + k.units) (dLen d)
      else chLoadDev m i (src.1 + k.units) (dLen d))
    let ps := chunks 224 (bs.length + 1) bs
    let m := ((List.range ps.length).zip ps).foldl (fun m p =>
      sendPacket m i (BitVec.ofNat 8 (fld d 64 8)) ((k.idxs.getD 0 0).setWidth 8)
        (fld d 72 40 + k.units + 224 * p.1) p.2) m
    let m := m.modChain i fun k => { k with units := k.units + dLen d }
    if n + 1 < dCount d 0 then .ok m
    else .ok (performed m i {
      cmd := r, bytes := dCount d 0 * dLen d, flags := 0, publish := none
      release := if recInb r && !recKeep r then releasedBy k [recIn r] else [] }))

/-- CPM (R276). -/
def execCpm (r : Rec) (s : State) : Out := command s (cpmStart r) (cpmRun r)

/-! ### Markers (07 R215, R216) -/

/-- A chain that stands ahead of a new marker in its queue: queued, ahead of an earlier marker, at its first record, or with a
command that waits to fire or is in progress. A migration that has placed markers of its own uses no mapping any more. -/
def chainAhead (k : Chain) : Bool :=
  (decide (k.cls = .copy) || decide (k.cls = .zither)) && k.markers.isNone &&
    (k.state == 1 || (k.state == 2 && !k.held && !k.tier && (k.fired.isSome || k.reached || k.old.isSome || k.pos == 0)))

/-- The requesters of atomics of a context that a new marker finds ahead of it. -/
def atomicsAhead (m : Module) (c : Fin 64) : List Who :=
  m.atomsPending.flatMap fun r => if r.ctx = c then r.members.map fun x => x.who else []

/-- Place markers for a context in every queue, but for chains that `behind` picks by key (R215): every chain ahead keeps the mapping
in force, what follows has the tables as they stand, and what places hold of the range is dropped. The answer names the
chains, by their keys, and the atomics ahead. -/
def placeMarkers (m : Module) (c : Fin 64) (lo hi : Nat) (behind : Nat → Chain → Bool) :
    (List Nat × List Who) × Module :=
  let ahead := fun (e : Nat × Chain) => decide (e.2.ctx = c) && chainAhead e.2 && !behind e.1 e.2
  let t := (m.ctx c).tables
  let keys := (m.chains.filter ahead).map Prod.fst
  let m' := { m with chains := m.chains.map fun e => if ahead e then (e.1, { e.2 with old := some (e.2.old.getD t) }) else e }
  ((keys, atomicsAhead m c), (dropHeld m' c lo hi).modCtx c fun x => { x with tables := m.phys })

/-- What still stands ahead of markers. -/
def stillAhead (m : Module) (x : List Nat × List Who) : List Nat × List Who :=
  (x.1.filter (fun k => (Tbl.get {} m.chains k).old.isSome), x.2.filter (fun w => decide ((m.strm w).wait = Wait.atomic)))

/-! ### Migration (14 R341) -/

/-- The table and the level at which a successful walk finds its leaf. -/
def leafTable (m : Module) (addr : Nat) : Nat → Nat → Nat × Nat
  | 0, base => (base, 0)
  | l + 1, base =>
    let e := Memory.read m.phys (base + 8 * fld addr (12 + 9 * l) 9) 8
    if pteLeaf e then (base, l) else leafTable m addr l (pteFrame e)

/-- The physical addresses of every replica of the entry of a page (14 R337). -/
def replicas (m : Module) (c : Fin 64) (addr s : Nat) : List Nat :=
  let (base, l) := leafTable m addr 5 (fld (ccb m c 0) 12 36 * 4096)
  let span := 2 ^ (s % 9)
  let i := fld addr (12 + 9 * l) 9
  (List.range span).map fun k => base + 8 * (i / span * span + k)

/-- Copy `n` bytes of physical memory from one place to another. -/
def copyPhys (m : Memory) (src dst n : Nat) : Memory :=
  let es := m.filter fun e => decide (src ≤ e.1) && decide (e.1 < src + n)
  let rest := m.filter fun e => !(decide (dst ≤ e.1) && decide (e.1 < dst + n))
  es.foldl (fun a e => Memory.put a (e.1 - src + dst) e.2) rest

/-- A frame of a page size for a tier, from the context's free-frame list: which one, and whether the list is empty, is
a free value, since the list's layout is open (log 14). -/
def takeFrame (m : Module) (c : Fin 64) (s tier : Nat) : Option Nat × Module :=
  let (n, m) := m.nextFresh
  let v := Config.freeValue n
  let size := 2 ^ (12 + s)
  if fld (ccb m c 8) 0 57 = 0 ∨ v % 2 = 0 then (none, m)
  else if tier = 0 then (some (v / 2 % (0x20000000000 / size) * size), m)
  else (some (poolBase + v / 2 % (0x300000000000 / size) * size), m)

/-- The leaf entry of a page that a walk finds, busy or not: entry, first address of the page, size code. -/
def leafEntry (m : Module) (c : Fin 64) (addr : Nat) : Nat × Nat × Nat :=
  let (base, l) := leafTable m addr 5 (fld (ccb m c 0) 12 36 * 4096)
  let i := fld addr (12 + 9 * l) 9
  let s := pteSize (Memory.read m.phys (base + 8 * i) 8)
  (Memory.read m.phys (base + 8 * (i / 2 ^ (s % 9) * 2 ^ (s % 9))) 8, addr / 2 ^ (12 + s) * 2 ^ (12 + s), s)

/-- Write the entry of a page in every replica (14 R337). -/
def putEntry (m : Module) (c : Fin 64) (addr s e : Nat) : Module :=
  { m with phys := (replicas m c addr s).foldl (fun p a => Memory.write p a 8 e) m.phys }

/-- Whether a uvec of a context names an address of a range (15 R361), that of a checkpointed job among them. -/
def uvecNames (m : Module) (c : Fin 64) (lo hi : Nat) : Bool :=
  let names := fun (k : Core) => decide (k.ctx = c) && k.job.isSome &&
    [k.l, k.x, k.st].any fun x => decide (lo ≤ x.uvec.toNat) && decide (x.uvec.toNat < hi)
  m.cores.any (fun e => names e.2) || m.graphs.any fun g => g.nodes.any fun n => n.saved.any names

/-- A migration begins (14 R341 steps 1 and 2): busy in every replica, and the markers. It does not begin while another holds
the page, or while a uvec names it (15 R361; log 71). -/
def beginMove (m : Module) (c : Fin 64) (addr : Nat) (behind : Nat → Chain → Bool) :
    Except AccStop ((List Nat × List Who) × Module) :=
  match walk m c addr with
  | .error e => .error e
  | .ok (e, page, s) =>
    let hi := page + 2 ^ (12 + s)
    if pteTier e ≠ 2 ∧ uvecNames m c page hi then .error .busy
    else .ok (placeMarkers (putEntry m c addr s (putFld e 10 1 1)) c page hi behind)

/-- The page whose copy has failed, or for which there is no frame: busy is cleared. -/
def endMove (m : Module) (c : Fin 64) (addr s e page : Nat) : Module :=
  (dropHeld (putEntry m c addr s e) c page (page + 2 ^ (12 + s))).modCtx c fun x =>
    { x with tables := (putEntry m c addr s e).phys }

/-- The lines of a page in a scratchpad read in order for an actor, until one is poisoned or races; the reads before it stand
(07 R206). `dev` is the device address of the first. -/
def readLines (p : Actor) (dev : Nat) : List Nat → Module → Module × Option AccStop
  | [], m => (m, none)
  | l :: ls, m =>
    if poisoned m l then (m, some (.fault 0x0F 0 dev (poisonLine l)))
    else match trackedAccess m p l false with
      | .error (.race l t w) => (m, some (.race dev l t w))
      | .error (.quota _) => (m, some (.quota dev))
      | .ok m => readLines p (dev + 64) ls m

/-- A page is read for a move: why it cannot be, for a line of the flash its TIER (14 R341). -/
def readPage (m : Module) (p : Actor) (dev old n tier : Nat) : Module × Option AccStop :=
  if isScratch old then readLines p dev ((List.range (n / 64)).map fun k => old + 64 * k) m
  else (m, (((m.poison.filter fun l => decide (old ≤ 64 * l) && decide (64 * l < old + n)).mergeSort (· ≤ ·)).head?).map fun l =>
    if tier = 2 then .fault 6 0 dev none else .fault 0x0F 0 (dev + (64 * l - old)) (poisonLine (64 * l)))

/-- What a migration comes to once nothing stands ahead of its markers (14 R341 steps 3 and 4): the bytes of the page, or why
it failed, and the module. -/
def finishMove (m : Module) (c : Fin 64) (addr tier : Nat) (p : Actor) : Except AccStop Nat × Module :=
  let (b, page, s) := leafEntry m c addr
  let e := putFld b 10 1 0
  let n := 2 ^ (12 + s)
  let old := pteFrame e
  let fail := fun (m : Module) (x : AccStop) => (Except.error x, endMove m c addr s e page)
  match readPage m p page old n (pteTier e) with
  | (m, some x) => fail m x
  | (m, none) =>
    match takeFrame m c s tier with
      | (none, m) => fail m (.fault 6 0 addr none)
      | (some f, m) =>
        let e' := putFld (putFld e 12 36 (f / 4096)) 8 2 tier
        let m := { m with
          phys := copyPhys m.phys old f n
          poison := m.poison.filter fun l => !(decide (f ≤ 64 * l) && decide (64 * l < f + n)) }
        (.ok n, retier (endMove m c addr s e' page) c page (page + n) (tierCode tier f))

/-- MIG reads its descriptor: the fields that it does not use are zero. -/
def migStart (r : Rec) (m : Module) (i : ChainId) : Except ChStop Module := do
  let (d, m) ← readDesc m i r
  if decide (r.bufs ≠ 0) || decide (2 ^ 57 ≤ dSrc d) || decide (2 < dDst d) || decide (fld d 128 384 ≠ 0) then chIllegal
  else
    let m ← fire m i [] none
    .ok (keepDesc m i d [])

/-- MIG runs: it begins its move, waits for what stands ahead of its markers, and finishes. What its own engine has queued
stands behind it. -/
def migRun (r : Rec) (m : Module) (i : ChainId) : Except ChStop Module :=
  let k := m.chain i
  let a := dSrc k.desc.toNat
  match k.markers with
  | none =>
    (match beginMove m k.ctx a (fun n j => decide (n = chainKey i) || (decide (j.state = 1) && decide (engineOf j = engineOf k))) with
    | .error e => .error (chAcc m k.ctx true 0 e)
    | .ok (x, m) => .ok (m.modChain i fun k => { k with markers := some x, old := none }))
  | some x =>
    let (ks, ws) := stillAhead m x
    if !ks.isEmpty || !ws.isEmpty then .error .wait
    else match finishMove m k.ctx a (dDst k.desc.toNat) (chainActor k none) with
      | (.error e, m) => .error (.after (m.modChain i fun k => { k with markers := none }) 0 (chAcc m k.ctx true 0 e))
      | (.ok n, m) =>
        .ok (performed (m.modChain i fun k => { k with units := n, markers := none }) i
          { cmd := r, bytes := n, flags := 0, publish := none, release := [] })

/-- MIG (R276). -/
def execMig (r : Rec) (s : State) : Out := command s (migStart r) (migRun r)

/-- Whether an address that an arrival waits for lies in a page of a context of a die. -/
def inPage (m : Module) (c : Fin 64) (page : Nat) (x : Option (Fin 16 × Nat)) : Bool :=
  x.any fun q => let (_, lo, s) := leafEntry m c page
    decide (lo ≤ q.2) && decide (q.2 < lo + 2 ^ (12 + s))

/-- A held write whose page could not be moved does not land (07 R386): its bytes are delivered and the slot is overrun; a
target that cannot read its own entry refuses the write (14 R347). -/
def failWrite (m : Module) (w : RemoteWrite) : Module :=
  let n := popN 64 w.bytes.toNat
  let m := { m with heldWrites := m.heldWrites.erase w }
  match acceptWin m w.srcDev w.srcCtx w.srcWin w.pctx w.pwin with
  | .yes e =>
    let b := m.barrier e.idie e.islot
    let φ := b.phase + BitVec.ofNat 32 (w.epoch - b.epoch).toNat
    ackWrite (settleSlot m e.idie e.islot ((b.deliver φ n false).overrun none)) w.srcDev w.srcCtx w.srcWin n true
  | _ => ackWrite m w.srcDev w.srcCtx w.srcWin n true

/-- One line of a multicast packet whose page could not be moved. -/
def failCopyLine (m : Module) (l : RemoteWrite) : Module :=
  match readWin m l.pctx l.pwin.val with
  | .error _ => m
  | .ok e =>
    let b := m.barrier e.idie e.islot
    settleSlot m e.idie e.islot ((b.deliver b.phase (popN 64 l.bytes.toNat) false).overrun none)

/-- A page that arrivals of a context wait for could not be moved (07 R386): they end without it. -/
def failArrivals (m : Module) (c : Fin 64) (page : Nat) : Module :=
  let stuck := fun (x : Except (Option (Fin 16 × Nat)) Module) => match x with
    | .error q => inPage m c page q
    | .ok _ => false
  let ws := m.heldWrites.filter fun w => decide (w.pctx = c) && stuck (tryWrite m w)
  let ks := m.heldMarkers.filter fun k => decide (k.pctx = c) && stuck (tryMarker m k)
  let m := ws.foldl failWrite m
  let m := ks.foldl (fun m k => ackWrite { m with heldMarkers := m.heldMarkers.erase k } k.srcDev k.srcCtx k.srcWin 0 true) m
  m.heldCopies.foldl (fun m x =>
    let rest := { m with heldCopies := m.heldCopies.erase x }
    match x.lines with
    | none => (match openCopy (fun _ _ => false) m x with
      | .error (some (d, a)) => if d = c ∧ inPage m c page (some (0, a)) then
          landCopyWith (fun d a => decide (d = c) && inPage m c page (some (0, a))) rest x
        else m
      | _ => m)
    | some ls =>
      let bad := ls.filter fun l => decide (l.pctx = c) && inPage m c page ((copyLinePage m l).map fun a => (0, a))
      if bad.isEmpty then m
      else landCopy (bad.foldl failCopyLine rest) { x with lines := some (ls.filter fun l => !bad.contains l) }) m

/-- Free a service slot of a die. -/
def freeSlot (m : Module) (d : Fin 16) (n : Nat) : Module :=
  m.modDie d fun x =>
    let y := Tbl.get {} x.services n
    { x with services := Tbl.set {} x.services n { clk := y.clk, phases := y.phases } }

/-- The requester of a service slot goes on: a bundle from its issue, a command from its progress word (14 R341). -/
def releaseSlot (m : Module) (x : Service) : Module :=
  let m := match x.who with
    | some w => (unissue m w).modStrm w fun y => { y with paged := false }
    | none => m
  match x.chain with
  | some i => m.modChain i fun k => { k with tier := false }
  | none => m

/-- TIER is delivered to the requester of a service slot, with the record of its first fault. -/
def deliverTier (m : Module) (d : Fin 16) (x : Service) (c : Fin 64) (a : Nat) : Module :=
  let t := x.trap.getD { code := 6, place := 6, addr := BitVec.ofNat 64 a }
  let m := match x.who with
    | some w => if (m.strm w).paged then takeTrap m w t else m
    | none => m
  let m := match x.chain with
    | some i =>
      if (m.chain i).tier then (stopChain m i 6 0 a t.info.toNat).modChain i fun k => { k with
        record := { k.record with w2 := t.stamp.getD k.record.w2 } }
      else m
    | none => m
  if x.disp then m.modDie d fun y => { y with stuckPages := (c, BitVec.ofNat 57 a) :: y.stuckPages }
  else if x.who.isNone && x.chain.isNone && decide (x.tier = 0) then failArrivals m c a
  else m

/-- What a pager stream does next in its slot: nothing while something stands ahead of its markers. -/
def serveSlot (m : Module) (d : Fin 16) (n : Nat) (readFails : Bool) : Option Module :=
  let x := Tbl.get {} (m.die d).services n
  match x.dev with
  | none => none
  | some (c, a) =>
    let moved := fun (m : Module) => some (freeSlot (releaseSlot m x) d n)
    let failed := fun (m : Module) => some (freeSlot (deliverTier m d x c a.toNat) d n)
    match x.markers with
    | none =>
      (match walk m c a.toNat with
      | .error .busy => none
      | .error _ => moved m
      | .ok (e, _, _) =>
        if (if x.tier = 0 then pteTier e ≠ 2 else x.tier ≤ pteTier e) then moved m
        else match beginMove m c a.toNat (fun _ _ => false) with
          | .error _ => none
          | .ok (q, m) => some (m.modDie d fun y => { y with services := Tbl.set {} y.services n { x with markers := some q } }))
    | some q =>
      let (ks, ws) := stillAhead m q
      if !ks.isEmpty || !ws.isEmpty then none
      else if readFails && decide (x.tier = 0) then
        let (e, page, z) := leafEntry m c a.toNat
        failed (endMove m c a.toNat z (putFld e 10 1 0) page)
      else match finishMove m c a.toNat x.tier (serviceActor m d n c) with
        | (.ok _, m) => moved m
        | (.error _, m) => failed m

/-- The pager of a die demotes a page to a tier (14 R341): nothing while no slot is free, and nothing beside another move of the
page. -/
def demotePage (m : Module) (d : Fin 16) (c : Fin 64) (a : DevAddr) (tier : Nat) : Module :=
  if tier = 0 ∨ 2 < tier ∨ (m.die d).services.any fun e => decide (e.2.dev = some (c, a)) then m
  else (pagerCall m d { dev := some (c, a), tier := tier }).getD m

/-- TIER_FAULT_SERVICE (14 R341): the first pager stream of the die that can go on does so. The requester replays once the
page lies in module memory; TIER is delivered when no frame is free or the flash read fails. -/
def execTierFaultService (die : Fin 16) (readFails : Bool) (s : State) : Out :=
  .next (match (List.range 16).findSome? fun n => serveSlot s.m die n readFails with
    | none => s
    | some m => { s with m := m })

/-! ### INVM (14 R340, 07 R215, R216) -/

/-- Whether a wait is that of an INVM whose markers are placed. -/
def Wait.isInvm : Wait → Bool
  | .invm _ _ => true
  | _ => false

/-- INVM. -/
def execInvm (o : SlotOp) (s : State) : Out :=
  slot (.invm o) s (do
    let a ← fetch64 s 5 o.a
    let n ← fetch32 s 5 o.b
    let c := s.srcCore.ctx
    let trap := fun (code : Nat) => (.error (.trap { code := code, place := 5, addr := BitVec.ofNat 64 a }) : Res)
    if !ctxSelfmap s.src c then trapAt 5 2
    else if a % 4096 ≠ 0 then trap 3
    else if 2 ^ 57 ≤ a then trap 4
    else
      let lo := if n = 0 then 0 else a
      let hi := if n = 0 then 2 ^ 57 else a + 4096 * n
      let (q, m) := match s.srcStrm.wait with
        | .invm ks ws => (stillAhead s.src (ks, ws), s.src)
        | _ => placeMarkers s.src c lo hi fun _ _ => false
      let placed := s.srcStrm.wait.isInvm
      if q.1.isEmpty && q.2.isEmpty then .ok (if placed then s else s.modM fun m => (placeMarkers m c lo hi fun _ _ => false).2)
      else .error (.wait (m.modStrm s.cur fun x => { x with wait := .invm q.1 q.2 })))

end Sys2Proof.Machine
end

