-- ==== Sys2Proof/Machine/Kantele.lean ====
section
/-! DEFINITION. Leases and the Kantele array: LEAS, LREL, the grant, MMP and MDR (06 R169 to R184, 03 R91 to R97). -/

namespace Sys2Proof.Machine

/-! ### Leases -/

/-- Whether the job on a core holds a lease that still covers a command (R177). -/
def leased (m : Module) (d : Fin 16) (c : Fin 128) : Bool :=
  match (m.cluster d (clusterOf c)).lease with
  | some (h, n) => decide (h = c) && decide (n ≠ 0)
  | none => false

/-- The priority at which a job's node runs. -/
def jobPrio (c : Core) : Nat :=
  match c.job with
  | some j => j.prio
  | none => 0

/-- LEAS (R174, R175). -/
def execLeas (o : SlotOp) (s : State) : Out :=
  slot (.leas o) s (match s.srcStrm.wait with
    | .leased => .ok s
    | .lease => parked s
    | _ => do
      let n ← fetch32 s 5 o.a
      let d := s.cur.die
      let c := s.cur.core
      let x := s.src.cluster d (clusterOf c)
      if n = 0 ∨ 64 < n then trapAt 5 1
      else if x.lease.any (fun l => decide (l.1 = c)) || x.reqs.any (fun r => decide (r.core = c)) then trapAt 5 0x13
      else parkWith s fun m =>
        (m.modCluster d (clusterOf c) fun x => { x with
          reqs := x.reqs ++ [{ core := c, n := n, prio := jobPrio s.srcCore, seen := 0 }] }).modStrm s.cur (fun y =>
            { y with wait := .lease }))

/-- LREL (R177). -/
def execLrel (o : SlotOp) (s : State) : Out :=
  slot (.lrel o) s (.ok (s.modM fun m => dropLease m s.cur.die s.cur.core))

/-- The request that a free array grants (R176): the oldest that has seen 15 grants; else, among those of the highest
priority, the first core at or after the pointer. -/
def chooseLease (rr : Fin 16) (reqs : List LeaseReq) : Option LeaseReq :=
  match reqs.find? (fun r => decide (15 ≤ r.seen)) with
  | some r => some r
  | none =>
    let top := (reqs.map fun r => r.prio).foldl max 0
    let dist := fun (r : LeaseReq) => (r.core.val % 16 + 16 - rr.val) % 16
    (reqs.filter fun r => decide (r.prio = top)).foldl (fun b r => match b with
      | some u => if dist r < dist u then some r else some u
      | none => some r) none

/-- LEASE_GRANT (R176): nothing changes for a core that a freeze holds (15 R365). -/
def execLeaseGrant (die : Fin 16) (cluster : Fin 8) (s : State) : Out :=
  let x := s.m.cluster die cluster
  let free := (match x.lease with
    | some (_, n) => decide (n = 0)
    | none => true) && !arrayBusy s.m die cluster && !isFrozen s.m die (.cluster die cluster)
  .next (match (if free then chooseLease x.rr (x.reqs.filter fun q => !isFrozen s.m die (.unit die q.core)) else none) with
    | none => s
    | some r =>
      let m := s.m.modCluster die cluster fun x => { x with
        lease := some (r.core, r.n), bank := [], anchor := 0, rr := Fin.ofNat 16 (r.core.val + 1)
        reqs := (x.reqs.filter fun q => !decide (q.core = r.core)).map fun q =>
          if isFrozen s.m die (.unit die q.core) then q else { q with seen := q.seen + 1 } }
      { s with m := StreamName.all.foldl (fun m n => m.modStrm ⟨die, r.core, n⟩ fun y =>
          if y.wait = .lease then { y with wait := .leased } else y) m })

/-! ### MMP (R178 to R184) -/

/-- Fields of an MMP record (R178). -/
def mN (r : Rec) : Nat := fld r.w1.toNat 16 10
def mKb (r : Rec) : Nat := fld r.w1.toNat 8 5
def mM (r : Rec) : Nat := fld r.w1.toNat 0 7
def mAnchor (r : Rec) : Nat := fld r.w2.toNat 16 8
def mAreg (r : Rec) : Bool := bitAt r.w2.toNat 15
def mStart (r : Rec) : Bool := bitAt r.w2.toNat 14
def mCc (r : Rec) : Nat := fld r.w2.toNat 12 2 + 1
def mKeepW (r : Rec) : Bool := bitAt r.w2.toNat 11
def mKeepA (r : Rec) : Bool := bitAt r.w2.toNat 10
def mMode (r : Rec) : Nat := fld r.w2.toNat 8 2
def mMask (r : Rec) : Nat := fld r.w2.toNat 0 8
def mAcb (r : Rec) : Nat := fld r.bufs.toNat 0 4
def mWcb (r : Rec) : Nat := fld r.bufs.toNat 4 4

/-- The leading planes of a mask that fits a mode (R179); none when it does not fit. -/
def planesOf (mode mask : Nat) : Option Nat :=
  let ms := (List.range 7).map fun k => k + 1
  match mode with
  | 0 => if mask = 0xFF then some 8 else none
  | 1 => ms.find? fun m => decide (mask = 2 ^ m - 1)
  | 2 => ms.find? fun m => decide (mask = 0xFF - (2 ^ m - 1))
  | _ => none

/-- First plane and number of planes of a mode (R179). -/
def planeRange (mode m : Nat) : Nat × Nat :=
  match mode with
  | 0 => (0, 8)
  | 1 => (0, m)
  | _ => (m, 8 - m)

/-- Whether a cluster's array accepts a mode (R169). -/
def arrayAccepts (k : Fin 8) (mode m : Nat) : Bool :=
  decide (2 ≤ k.val) || (mode == 1 && decide (m ≤ 4)) || (mode == 2 && decide (4 ≤ m))

/-- Whether the fields of an MMP record are in range (R178, R182). -/
def mmpOk (r : Rec) : Bool :=
  fld r.bufs.toNat 8 8 == 0 && fld r.w1.toNat 26 6 == 0 && fld r.w1.toNat 13 3 == 0 && fld r.w1.toNat 7 1 == 0 &&
    fld r.w2.toNat 24 8 == 0 && decide (1 ≤ mN r) && decide (mN r ≤ 512) && decide (1 ≤ mKb r) && decide (mKb r ≤ 16) &&
    decide (1 ≤ mM r) && decide (mM r ≤ 64) && decide (mCc r * mM r ≤ 64)

/-- Blocks, plane stride, and the bytes of the two entries (R171, R179). -/
def mBlocks (r : Rec) : Nat := mN r * mKb r
def mStride (r : Rec) : Nat := (4 * mBlocks r + 63) / 64 * 64
def actBytes (r : Rec) : Nat := mCc r * mM r * mKb r * 33
def wgtBytes (r : Rec) (np : Nat) : Nat := np * mStride r + mBlocks r

/-- The integer form of a weight code read in some planes (R180, R91). -/
def intForm (mode m c : Nat) : Int :=
  match mode with
  | 0 => 2 * (c : Int) - 255
  | 1 => (2 ^ (9 - m) * (c / 2 ^ (8 - m)) : Nat) + (2 ^ (8 - m) : Nat) - 256
  | _ => resInt m c

/-- One contribution to an element (03 R95): none when an operand block is a NaN block or has a bad scale. -/
def Acc.add (x : Acc) (anchor : Int) (t : Option (Int × Int)) : Acc :=
  if x.nan || x.ovf then x
  else match t with
  | none => { x with nan := true }
  | some (n, k) =>
    let e := k - anchor + 64
    let t := if 0 ≤ e then n * (2 ^ e.toNat : Nat) else n / (2 ^ (-e).toNat : Nat)
    let inexact := decide (e < 0) && decide (n % (2 ^ (-e).toNat : Nat) ≠ 0)
    let s := x.a.toInt + t
    let x := { x with inexact := x.inexact || inexact }
    if (2 ^ 127 : Int) - 1 < s then { x with a := BitVec.ofInt 128 (2 ^ 127 - 1), ovf := true }
    else if s < -(2 ^ 127 : Int) then { x with a := BitVec.ofInt 128 (-(2 ^ 127)), ovf := true }
    else { x with a := BitVec.ofInt 128 s }

/-- The anchor as a signed number (03 R94). -/
def anchorOf (a : BitVec 8) : Int := a.toInt

/-- Byte `i` of a list. -/
def byteAt (bs : List Byte) (i : Nat) : Nat := (bs.getD i 0).toNat

/-- Block `kb` of an activation row: its kind, its codes (R179, 03 R86). -/
def actBlock (r : Rec) (act : List Byte) (row kb : Nat) : BlockKind × List Int :=
  let bs := (act.drop ((row * mKb r + kb) * 33)).take 33
  (blockKind 1 (byteAt bs 32), (List.range 32).map fun i => signed 8 (byteAt bs i))

/-- Block `kb` of a weight column: its kind, its codes rebuilt from the planes read (R171, R180). -/
def wgtBlock (r : Rec) (first : Nat) (planes : List (List Nat)) (scales : List Byte) (n kb : Nat) :
    BlockKind × List Nat :=
  let b := n * mKb r + kb
  (blockKind 2 (byteAt scales b), codesOf first (planes.map fun p => p.getD b 0))

/-- The contributions of one pair of blocks. -/
def blockTerms (mode m : Nat) (x : BlockKind × List Int) (w : BlockKind × List Nat) : List (Option (Int × Int)) :=
  match x.1, w.1 with
  | .scaled _ ea, .scaled _ ew =>
    (x.2.zip w.2).map fun p => some (p.1 * intForm mode m p.2, (ea : Int) + ew - 69)
  | _, _ => [none]

/-- Whether a block has a bad scale. -/
def badScale (k : BlockKind) : Bool := decide (k = .bad)

/-- The elements of a command after its contributions (R180), in row and column order. -/
def mmpElems (r : Rec) (mode m : Nat) (anchor : Int) (act : List Byte) (planes : List (List Nat)) (scales : List Byte)
    (bank : Tbl Acc) : Tbl Acc :=
  let first := (planeRange mode m).1
  (List.range (mCc r * mM r)).foldl (fun bank row =>
    (List.range (mN r)).foldl (fun bank n =>
      let x0 := if mStart r then {} else Tbl.get {} bank (row * 512 + n)
      let ts := (List.range (mKb r)).flatMap fun kb =>
        blockTerms mode m (actBlock r act row kb) (wgtBlock r first planes scales n kb)
      Tbl.set {} bank (row * 512 + n) (ts.foldl (fun x t => x.add anchor t) x0)) bank) bank

/-- Whether an operand of a command has a bad scale (R180). -/
def mmpBad (r : Rec) (act scales : List Byte) : Bool :=
  ((List.range (mCc r * mM r * mKb r)).any fun b => badScale (blockKind 1 (byteAt act (b * 33 + 32)))) ||
    ((List.range (mBlocks r)).any fun b => badScale (blockKind 2 (byteAt scales b)))

/-- LEASE, unless the chain's job holds a lease (R182). -/
def leaseTest (m : Module) (k : Chain) : Except ChStop Unit :=
  match k.core with
  | some c => if leased m k.die c then .ok () else chTrap 0x13 0
  | none => chTrap 0x13 0

/-- The size of the entries of a handle's object is enough (R182). -/
def entryTest (m : Module) (k : Chain) (h n : Nat) (consumer : Bool) : Except ChStop Unit := do
  let (o, _) ← chHandle m k h consumer
  if (m.buf k.die o).ebytes.toNat < n then chIllegal else .ok ()

/-- An MMP is tested and fires (R180, R182); the anchor is kept with the command. -/
def mmpStart (r : Rec) (m : Module) (i : ChainId) : Except ChStop Module :=
  let k := m.chain i
  let c := k.core.getD 0
  match planesOf (mMode r) (mMask r) with
  | none => chIllegal
  | some p =>
    if !mmpOk r || !arrayAccepts (clusterOf c) (mMode r) p then chIllegal
    else do
      entryTest m k (mAcb r) (actBytes r) true
      entryTest m k (mWcb r) (wgtBytes r (planeRange (mMode r) p).2) true
      let m' ← fire m i [mAcb r, mWcb r] none
      leaseTest m k
      let anchor : BitVec 8 := if mAreg r then (m.core k.die c).anchor else BitVec.ofNat 8 (mAnchor r)
      if !mStart r && decide (anchor ≠ (m.cluster k.die (clusterOf c)).anchor) then chIllegal
      else .ok (keepDesc m' i 0 [anchor.setWidth 32])

/-- Plane after plane of an entry, and its scale bytes. -/
def loadImageOf (m : Module) (i : ChainId) (st : Nat × W32) (base stride nb np : Nat) :
    Except ChStop (List (List Nat) × List Byte × Module) := do
  let (ps, m) ← (List.range np).foldlM (fun (a : List (List Nat) × Module) p => do
    let (bs, m) ← chLoad a.2 i (some st) (base + p * stride) (4 * nb)
    .ok (a.1 ++ [words32 nb bs], m)) ([], m)
  let (sb, m) ← chLoad m i (some st) (base + np * stride) nb
  .ok (ps, sb, m)

/-- An entry of the checksum log (15 R371). -/
def klogEntry (m : Module) (d : Fin 16) (k : Fin 8) (kind : Nat) (i : ChainId) (c : Chain) : Nat :=
  let holder := match (m.cluster d k).lease with
    | some (h, _) => h.val
    | none => 0
  let slot := match i with
    | .job _ _ s => s.val
    | .node _ _ _ _ => 0
  kind * 2 ^ 60 + k.val * 2 ^ 57 + holder * 2 ^ 50 + fld c.index 0 16 * 2 ^ 34 + slot * 2 ^ 30 + logStamp m d

/-- The checksum comparison of a command (R183, R184): whether it fails twice; a first failure is logged. -/
def checksum (m : Module) (i : ChainId) (k : Chain) : Bool × Module :=
  let d := k.die
  let c := clusterOf (k.core.getD 0)
  let n := (m.cluster d c).mismatches
  let log := fun (kind : Nat) (m : Module) => m.modDie d fun x => { x with klog := pushLog x.klog (klogEntry m d c kind i k) }
  if n = 0 then (false, m)
  else if n = 1 then (false, log 1 (m.modCluster d c fun x => { x with mismatches := 0 }))
  else (true, log 2 (m.modCluster d c fun x => { x with mismatches := n - 2 }))

/-- An MMP runs. -/
def mmpRun (r : Rec) (m : Module) (i : ChainId) : Except ChStop Module :=
  let k := m.chain i
  let c := clusterOf (k.core.getD 0)
  let p := (planesOf (mMode r) (mMask r)).getD 8
  let np := (planeRange (mMode r) p).2
  let anchor : BitVec 8 := (k.idxs.getD 0 0).setWidth 8
  let (ao, av, aa) := firedEntry m k (mAcb r)
  let (wo, wv, wa) := firedEntry m k (mWcb r)
  do
    let (act, m) ← chLoad m i (some (ao, av)) aa (actBytes r)
    let (planes, scales, m) ← loadImageOf m i (wo, wv) wa (mStride r) (mBlocks r) np
    let (fails, m) := checksum m i k
    if fails then
      let (n, m) := m.nextFresh
      let v := Config.freeValue n
      .ok (chStopped m i (.stop 0x0E 0 0 (v % 64 + v / 64 % 512 * 2 ^ 16) none))
    else
      let m := m.modCluster k.die c fun x => { x with
        anchor := anchor
        bank := mmpElems r (mMode r) p (anchorOf anchor) act planes scales x.bank }
      let flags : Flags := if mmpBad r act scales then fBAD else 0
      .ok (performed (m.modChain i fun k => { k with units := mCc r * mM r }) i {
        cmd := r, bytes := wgtBytes r np, publish := none, flags := flags
        release := releasedBy k ((if mKeepA r then [] else [mAcb r]) ++ (if mKeepW r then [] else [mWcb r])) })

/-- MMP (R180). -/
def execMmp (r : Rec) (s : State) : Out := command s (mmpStart r) (mmpRun r)

/-! ### MDR (R181) -/

def rN (r : Rec) : Nat := fld r.w1.toNat 16 10
def rR (r : Rec) : Nat := fld r.w1.toNat 0 7
def rClr (r : Rec) : Bool := bitAt r.w2.toNat 4
def rType (r : Rec) : Ty := if fld r.w2.toNat 0 4 = 4 then .f32 else .bf16
def rOcb (r : Rec) : Nat := fld r.bufs.toNat 0 4

def pad64 (n : Nat) : Nat := (n + 63) / 64 * 64
def rData (r : Rec) : Nat := pad64 (rR r * rN r * tyBytes (rType r))
def rStatus (r : Rec) : Nat := pad64 ((2 * rR r * rN r + 7) / 8)

def mdrOk (r : Rec) : Bool :=
  let t := fld r.w2.toNat 0 4
  fld r.bufs.toNat 4 12 == 0 && fld r.w1.toNat 26 6 == 0 && fld r.w1.toNat 7 9 == 0 && fld r.w2.toNat 5 27 == 0 &&
    decide (1 ≤ rN r) && decide (rN r ≤ 512) && decide (1 ≤ rR r) && decide (rR r ≤ 64) && (t == 4 || t == 5)

/-- The drain of one element (03 R97). -/
def Acc.drain (x : Acc) (f : FFmt) (anchor : Int) : Nat × Flags :=
  if x.nan then (f.qnan, 0)
  else if x.a = 0 then (f.zero false, 0)
  else rndDy f 0 ⟨x.a.toInt, anchor - 64⟩

/-- An MDR is tested and fires. -/
def mdrStart (r : Rec) (m : Module) (i : ChainId) : Except ChStop Module :=
  let k := m.chain i
  if !mdrOk r then chIllegal
  else do
    entryTest m k (rOcb r) (rData r + rStatus r) false
    let m' ← fire m i [] (some (rOcb r))
    leaseTest m k
    .ok m'

/-- The elements that an MDR drains, in row-major order. -/
def drained (r : Rec) (bank : Tbl Acc) : List (Nat × Acc) :=
  (List.range (rR r)).flatMap fun row => (List.range (rN r)).map fun n =>
    (row * 512 + n, Tbl.get {} bank (row * 512 + n))

/-- The rows that a stopped MDR has written whole, as its progress word counts them (07 R206, 09 R261). -/
def countRows (r : Rec) (i : ChainId) : Except ChStop Module → Except ChStop Module
  | .error (.after m n e) =>
    .error (.after (m.modChain i fun k => { k with units := min (rR r) (n / (rN r * tyBytes (rType r))) }) n e)
  | x => x

/-- An MDR runs. -/
def mdrRun (r : Rec) (m : Module) (i : ChainId) : Except ChStop Module :=
  let k := m.chain i
  let c := clusterOf (k.core.getD 0)
  let x := m.cluster k.die c
  let es := drained r x.bank
  let vs := es.map fun e => e.2.drain (fmtOf (rType r)) (anchorOf x.anchor)
  let data := vs.flatMap fun v => toBytes (tyBytes (rType r)) v.1
  let bits := packBits 2 (es.map fun e => (if e.2.inexact then 1 else 0) + (if e.2.ovf then 2 else 0))
  let (o, v, a) := firedEntry m k (rOcb r)
  do
    let m ← countRows r i (chStore m i (some (o, v)) a
      (data ++ List.replicate (rData r - data.length) 0 ++ toBytes (rStatus r) bits))
    let m := if rClr r then m.modCluster k.die c fun x => { x with
        bank := es.foldl (fun b e => Tbl.set {} b e.1 {}) x.bank } else m
    .ok (performed (m.modChain i fun k => { k with units := rR r }) i {
      cmd := r, bytes := rData r + rStatus r, publish := some o, release := [], flags := orFlags (vs.map Prod.snd) })

/-- MDR (R181). -/
def execMdr (r : Rec) (s : State) : Out := command s (mdrStart r) (mdrRun r)

end Sys2Proof.Machine
end

