-- ==== Sys2Proof/Machine/Control.lean ====
section
/-! DEFINITION. The control ops (04 R132 to R139, 08 R241, R242, 09 R272, 11 R306 to R310, R324, 15 R360) and
NOP. -/

namespace Sys2Proof.Machine

/-- The address of the bundle in progress. -/
def pcOf (s : State) : DevAddr := s.srcStrm.pc

/-- The target of a bundle offset (R132). -/
def offTarget (s : State) {n : Nat} (off : BitVec n) : DevAddr := pcOf s + 64 * off.signExtend 57

/-- Whether a target lies in the body of a loop entry. -/
def LoopEntry.holds (e : LoopEntry) (t : DevAddr) : Bool := decide ((t - e.start).toNat ≤ (e.stop - e.start).toNat)

/-- Pop the entries whose bodies a branch leaves (R137). -/
def leaveLoops (t : DevAddr) : List LoopEntry → List LoopEntry
  | [] => []
  | e :: es => if e.holds t then e :: es else leaveLoops t es

/-- The next bundle is at `t` (R136). -/
def goTo (t : DevAddr) (s : State) : State :=
  { s.modStrm fun x => { x with pc := t } with bnd := { s.bnd with flow := .jump } }

/-- A taken branch or JMPI; a handler leaves the loop stack alone (R136, R137). -/
def branchTo (t : DevAddr) (s : State) : State :=
  goTo t (if s.srcStrm.handler.isSome then s else s.modStrm fun x => { x with loops := leaveLoops t x.loops })

/-- A branch on a condition. -/
def branchIf (c : Bool) (t : DevAddr) (s : State) : Out := finish s (.ok (if c then branchTo t s else s))

/-- BR (R133). -/
def execBr (off : W32) (s : State) : Out := branchIf true (offTarget s off) s

/-- BRZ (R133). -/
def execBrz (r : Fin 64) (off : BitVec 24) (s : State) : Out :=
  branchIf (decide (s.srcStrm.sreg r.val = 0)) (offTarget s off) s

/-- BRNZ (R133). -/
def execBrnz (r : Fin 64) (off : BitVec 24) (s : State) : Out :=
  branchIf (decide (s.srcStrm.sreg r.val ≠ 0)) (offTarget s off) s

/-- BRP over the bits of the shape (R133). -/
def execBrp (p : Fin 8) (t : MaskTest) (off : BitVec 24) (s : State) : Out :=
  let bits := fld (s.srcCore.preg p.val) 0 (elemsOf s)
  let c := match t with
    | .any => decide (bits ≠ 0)
    | .all => decide (bits = 2 ^ elemsOf s - 1)
    | .none => decide (bits = 0)
  branchIf c (offTarget s off) s

/-- BRQE (R134): the queue as it stood at issue. -/
def execBrqe (q : QName) (off : BitVec 24) (s : State) : Out :=
  branchIf (match s.srcStrm.issued with
    | some i => (match q with
      | .qlx => i.qlxNone
      | .qxs => i.qxsNone)
    | none => (s.srcCore.queue q).holdsNone) (offTarget s off) s

/-- LOOP (R135, R139). -/
def execLoop (n : LoopCount) (last : BitVec 16) (s : State) : Out :=
  let cnt := match n with
    | .imm k => k.toNat
    | .reg r => s.srcStrm.sreg r.val
  let stop := pcOf s + 64 * last.setWidth 57
  finish s (
    if cnt = 0 then .ok (goTo (stop + 64) s)
    else if 4 ≤ s.srcStrm.loops.length then trapAt 1 1
    else .ok { s.modStrm fun x => { x with loops := { start := pcOf s + 64, stop := stop, remaining := cnt } :: x.loops }
               with bnd := { s.bnd with flow := .loop } })

/-- CALL (R138, R139). -/
def execCall (off : W32) (s : State) : Out :=
  finish s (
    if 16 ≤ s.srcStrm.calls.length then trapAt 1 1
    else .ok (goTo (offTarget s off) (s.modStrm fun x => { x with calls := (pcOf s + 64) :: x.calls })))

/-- RET (R138, R139). -/
def execRet (s : State) : Out :=
  finish s (match s.srcStrm.calls with
    | [] => trapAt 1 1
    | t :: ts => .ok (goTo t (s.modStrm fun x => { x with calls := ts })))

/-- JMPI to the address in a register (R40, R138). -/
def execJmpi (r : JmpReg) (s : State) : Out :=
  let v := match r with
    | .s n => s.srcStrm.sreg n.val
    | .a n => s.srcStrm.areg n.val
  let t : DevAddr := BitVec.ofNat 57 v
  finish s (
    if t.toNat % 64 ≠ 0 then .error (.trap { code := 3, place := 1, addr := t.setWidth 64 })
    else .ok (branchTo t s))

/-- The other two streams of a core. -/
def partners (st : StreamName) : List StreamName := StreamName.all.filter fun n => !decide (n = st)

/-- RDV (R306): it counts once, and retires when both partners have counted as many. -/
def execRdv (s : State) : Out :=
  let counted := decide (s.srcStrm.cwait = .rdv)
  let n := s.srcStrm.rdvs + (if counted then 0 else 1)
  let count := fun (m : Module) => m.modStrm s.cur fun x => { x with rdvs := n, cwait := .rdv }
  let short := (partners s.cur.stream).filter fun p => decide ((s.srcCore.stream p).rdvs < n)
  finish s (
    if short.isEmpty then .ok (s.stand count)
    else if short.any (hasExited s.srcCore) then trapAt 1 1
    else parkWith s count)

/-- EXIT (R307): the stream issues nothing after the bundle. -/
def execExit (s : State) : Out := finish s (.ok (s.modStrm fun x => { x with status := .exited }))

/-- YIELD (R308). -/
def execYield (s : State) : Out :=
  finish s (.ok (match jobNode s.src s.cur.die s.cur.core with
    | some (i, n) =>
      match n.st with
      | .running _ _ pr =>
        if higherWaits s.src s.cur.die s.cur.core pr && !regionOpen s.src n then
          s.modM fun m => decideNode m i.ctx i.graph n (.checkpoint none)
        else s
      | _ => s
    | none => s))

/-- PRIV at a group outside the context's grant (14 R333). -/
def groupGrant (s : State) (g : Fin 1024) : Except Stop Unit :=
  if grantGroup s.src s.srcCore.ctx g.val then .ok () else trapAt 1 2

/-- JOIN: the mask bit, and an acquire of the group's clock (R310); it waits for a bit that has still to move (R323). -/
def execJoin (g : Fin 1024) (s : State) : Out :=
  let d := s.cur.die
  let x := s.src.group d g.val
  finish s (do
    groupGrant s g
    if bitOut s.src d g.val s.cur.core then waiting s
    else
      let s := s.modM fun m => m.setGroup d g.val { x with mask := x.mask ||| bit128 s.cur.core.val }
      .ok (jobAcquire x.clk s))

/-- LEAVE: a release, then the bits cleared and the test (R310). -/
def execLeave (g : Fin 1024) (s : State) : Out :=
  let d := s.cur.die
  finish s (do
    groupGrant s g
    releaseTest s false
    let x := s.src.group d g.val
    .ok (jobReleased (s.modM fun m => settleGroup m d g.val (x.leave (isMember s.src d g.val s.cur.core) s.cur.core.val (jobClock s)))))

/-- The arrival of a member in the open phase (R310). -/
def Group.arrive (x : Group) (p : Nat) (k : Clock) : Group :=
  Group.test { x with arr := x.arr ||| bit128 p, clk := Clock.join x.clk k }

/-- GBAR (R310): it arrives once, and returns when the phase it arrived in, or stands in, has completed. -/
def execGbar (g : Fin 1024) (s : State) : Out :=
  let d := s.cur.die
  let p := s.cur.core
  let x := s.src.group d g.val
  let wait := fun (w : Wait) (m : Module) => m.modStrm s.cur fun y => { y with cwait := w }
  let enter : Res :=
    if !isMember s.src d g.val p then trapAt 1 1
    else if x.need &&& bit128 p.val = 0 then parkWith s (wait (.gbarNext x.phase))
    else if x.arr &&& bit128 p.val ≠ 0 then parkWith s (wait (.gbar g x.phase))
    else if releaseWaits s.src s.cur false then waiting s
    else
      let y := x.arrive p.val (releaseClock s.src d p)
      let arrive := fun (m : Module) => afterRelease (settleGroup m d g.val y) d p
      if y.phase = x.phase then parkWith s fun m => wait (.gbar g x.phase) (arrive m)
      else .ok (jobAcquire y.clk (s.stand fun m => wait (.gbarDone y.clk) (arrive m)))
  finish s (do
    groupGrant s g
    match s.srcStrm.cwait with
    | .gbarDone k => .ok (jobAcquire k s)
    | .gbar _ φ => if x.phase = φ then parked s else .ok (jobAcquire x.clk s)
    | .gbarNext φ => if x.phase = φ then parked s else enter
    | _ => enter)

/-- WAITS on the signal whose device address a register holds (R308, 08 R238). -/
def execWaits (r : Fin 64) (s : State) : Out :=
  let dev := s.srcStrm.sreg r.val % 2 ^ 57
  finish s (match s.srcStrm.cwait with
    | .woken k => .ok (jobAcquire k s)
    | .waits _ _ _ => parked s
    | _ =>
      if dev % 8 ≠ 0 then .error (.trap { code := 3, place := 1, addr := BitVec.ofNat 64 dev })
      else do
        let (pa, m) ← orStop s 1 (translate s.src (some (.sye s.cur.die)) s.srcCore.ctx .read dev)
        let held := fun (x : Module) => { x with held := m.held }
        if (Loc.phys pa).frozen s.src then waiting s
        else if poisoned s.src pa then orStop s 1 (.error (.fault 0x0F 0 dev (poisonLine pa)))
        else
          let home := homeDie pa
          if (BitVec.ofNat 64 (Memory.read s.src.phys pa 8)).toInt ≤ 0 then
            let k := Tbl.get [] (s.src.die home).words pa
            .ok (jobAcquire k (s.stand fun x => (held x).modStrm s.cur fun y => { y with cwait := .woken k }))
          else parkWith s fun x => (held x).modStrm s.cur fun y => { y with cwait := .waits home pa (BitVec.ofNat 64 dev) })

/-- The phase that a WAITB waits for (08 R241). -/
def waitbTarget (s : State) (slot : Fin 256) : BitVec 16 :=
  match Tbl.get none s.srcCore.arrivals slot.val with
  | some φ => φ.setWidth 16
  | none => viewPhase s.srcCore.phases slot.val + 1

/-- The return of a WAITB (08 R241): the acquire, the view, the arrival record cleared. -/
def waitbReturn (s : State) (slot : Fin 256) (k : Clock) (φ : BitVec 16) : State :=
  let s := (jobAcquire k s).modM fun m => setView m s.cur.die s.cur.core slot.val φ
  s.modCore fun c => { c with arrivals := Tbl.set none c.arrivals slot.val none }

/-- WAITB (08 R241, R242). -/
def execWaitb (slot : Fin 256) (s : State) : Out :=
  let b := s.src.barrier s.cur.die slot
  let fresh : Res := do
    slotGrant s 1 slot.val
    if b.ovr && !s.srcStrm.wait.inFlight then .error (.trap (overrunTrap s 1 slot.val b.raced))
    else
      let t := waitbTarget s slot
      if phaseDone t b then .ok (waitbReturn s slot b.clkDone (b.phase.setWidth 16 - 1))
      else parkWith s fun m => m.modStrm s.cur fun x => { x with cwait := .waitb slot t }
  finish s (match s.srcStrm.cwait with
    | .waitb _ _ => parked s
    | .waitbDone k φ => .ok (waitbReturn s slot k φ)
    | .waitbOvr raced => .error (.trap (overrunTrap s 1 slot.val raced))
    | .waitbReset => .error (.trap { code := 1, place := 1, addr := BitVec.ofNat 64 (32 * slot.val) })
    | _ => fresh)

/-- TRAP: USER with the argument (15 R360). -/
def execTrap (n : BitVec 16) (s : State) : Out :=
  finish s (.error (.trap { code := 0x14, place := 1, info := n.setWidth 64 }))

/-- ERET (09 R272). -/
def execEret (s : State) : Out :=
  let hs0 := Tbl.get 0 s.srcStrm.hs 0
  finish s (
    if hs0.toNat % 64 ≠ 0 then .error (.trap { code := 3, place := 1, addr := hs0.setWidth 57 |>.setWidth 64 })
    else .ok { s.modStrm leaveHandler with bnd := { s.bnd with flow := .jump } })

/-- Cycles of a microsecond at 2.0 GHz (02 R53). -/
def usCycles (us : Nat) : W64 := BitVec.ofNat 64 (2000 * us)

/-- NPRE (R324). -/
def execNpre (us : BitVec 8) (s : State) : Out :=
  finish s (
    if s.srcCore.region.isSome then trapAt 1 1
    else if actionHeld s.src s.cur.die s.cur.core then waiting s
    else .ok (s.modCore fun c => { c with region := some ((s.src.die s.cur.die).cyc + usCycles us.toNat) }))

/-- XPRE (R324). -/
def execXpre (s : State) : Out := finish s (.ok (s.modM fun m => closeRegion m s.cur.die s.cur.core))

/-- NOP: an empty slot (02 R49). -/
def execNop (s : State) : Out := finish s (.ok s)

end Sys2Proof.Machine
end

