-- ==== Sys2Proof/Machine/Streams.lean ====
section
/-! DEFINITION. What moves a stream on beside its bundles: spill rings (11 R311, R312), user-level interrupts
(09 R270 to R274), the fetch buffer (02 R387) and the re-issue after a parity error (15 R363). -/

namespace Sys2Proof.Machine

/-! ### Spill rings -/

/-- The queue that a spill op names (11 R311). -/
def spillQueue (o : SlotOp) : Option QName :=
  match o.opx.val with
  | 0 => some .qlx
  | 1 => some .qxs
  | _ => none

/-- Whether the ring of a queue holds an entry. -/
def Queue.ringHolds (q : Queue) : Bool :=
  match q.ring with
  | some r => !r.sizes.isEmpty
  | none => false

/-- QSPL (11 R311). -/
def execQspl (o : SlotOp) (s : State) : Out :=
  slot (.qspl o) s (do
    let a ← fetch64 s 5 o.a
    let n ← fetch32 s 5 o.b
    let addr := a % 2 ^ 57
    match spillQueue o with
    | none => trapAt 5 1
    | some q =>
      if n < 4096 ∨ n % 4096 ≠ 0 ∨ (s.srcCore.queue q).ringHolds then trapAt 5 1
      else if addr % 4096 ≠ 0 then .error (.trap { code := 3, place := 5, addr := BitVec.ofNat 64 addr })
      else
        let ring : Option Ring := if addr = 0 then none
          else some { addr := BitVec.ofNat 57 addr, quota := n, first := 0, sizes := [] }
        .ok (s.modCore fun c => c.setQueue q { c.queue q with ring := ring }))

/-- EDDY_REFILL (11 R312): the oldest ring entry moves into a queue that has room. A fault is met by the pop that needs
the entry. -/
def execEddyRefill (die : Fin 16) (core : Fin 128) (q : QName) (s : State) : Out :=
  let c := s.m.core die core
  let x := c.queue q
  .next (match x.ring with
    | none => s
    | some r =>
      match r.sizes with
      | [] => s
      | n :: ns =>
        if 8 ≤ x.entries.length ∨ coreFrozen s.m die core then s
        else match loadDev s.m none none c.ctx .read (r.slotAddr r.first) 4096 with
          | .error _ => s
          | .ok (bs, m) =>
            let m := m.modCore die core fun y => y.setQueue q { x with
              entries := x.entries ++ [{ size := n, data := BitVec.ofNat 32768 (ofBytes bs) }]
              ring := some { r with first := (r.first + 1) % (r.quota / 4096), sizes := ns } }
            { s with m := m.modCtx c.ctx fun y => { y with spill := y.spill - 4096 } })

/-! ### User-level interrupts -/

/-- UIRQ (09 R274). -/
def execUirq (o : SlotOp) (s : State) : Out :=
  slot (.uirq o) s (do
    let n ← fetch64 s 5 o.a
    let v ← fetch64 s 5 o.b
    let dest : Option StreamName := match n with
      | 0 => some .l
      | 1 => some .x
      | 2 => some .s
      | _ => none
    match dest with
    | none => trapAt 5 1
    | some st =>
      if 16 ≤ (s.srcCore.stream st).irqs.length then parked s
      else .ok (s.modM fun m => m.modStrm ⟨s.cur.die, s.cur.core, st⟩ fun x => { x with
        irqs := x.irqs ++ [{ uirq := true, slot := 0, code := 0, value := BitVec.ofNat 64 v }] }))

/-- What stands of a wait that is set aside (09 R271). -/
def Wait.standing : Wait → Wait
  | .rdv => .rdv
  | .gbar g φ => .gbar g φ
  | .gbarDone k => .gbarDone k
  | .ecnc => .ecnc
  | _ => .none

/-- hs1 and hs2 of an interrupt (09 R272). -/
def irqWords (m : Module) (w : Who) (q : Irq) : W64 × W64 :=
  if q.uirq then (2 ^ 31, q.value)
  else (BitVec.ofNat 64 (q.slot.val * 2 ^ 16 + q.code.toNat),
    BitVec.ofNat 64 (progWord (m.chain (.job w.die w.core q.slot))))

/-- Entering the user-level handler (09 R271, R272): the waiting bundle is set aside, the shadow scalars are written,
and the bundle at uvec is the next. -/
def enterHandler (m : Module) (w : Who) (q : Irq) : Module :=
  let (h1, h2) := irqWords m w q
  let m := unissue (withdraw m w) w
  let m := match (m.strm w).wait with
    | .lease => m.modCluster w.die (clusterOf w.core) fun x => { x with
        reqs := x.reqs.filter fun r => !decide (r.core = w.core) }
    | _ => m
  m.modStrm w fun x => { x with
    irqs := x.irqs.tail
    hs := Tbl.set 0 (Tbl.set 0 (Tbl.set 0 x.hs 0 (x.pc.setWidth 64)) 1 h1) 2 h2
    aside := some (x.pc, x.wait.standing, x.cwait.standing)
    wait := .none, cwait := .none
    handler := some 0, pc := x.uvec
    fetch := if x.fetch.any (fun e => decide (e.1 = x.uvec.toNat)) then x.fetch else [] }

/-- INTERRUPT_TAKE (09 R270). -/
def execInterruptTake (w : Who) (s : State) : Out :=
  .next (match (s.m.strm w).irqs with
    | q :: _ => if takesInterrupt s.m w then { s with m := enterHandler s.m w q } else s
    | [] => s)

/-! ### The fetch buffer -/

/-- The first bundle, from the program counter on, that the buffer does not hold (02 R387): how far ahead it lies. -/
def fetchAhead (x : Stream) : Option Nat :=
  (List.range 32).find? fun k => !x.fetch.any fun e => decide (e.1 = (x.pc + BitVec.ofNat 57 (64 * k)).toNat)

/-- BUNDLE_FETCH (02 R387): a bundle arrives. The one at the program counter traps when its fetch fails (15 R352,
R361); one ahead is then left for later. -/
def execBundleFetch (w : Who) (s : State) : Out :=
  let x := s.m.strm w
  .next (if x.status ≠ .running ∨ x.paged then s
    else match fetchAhead x with
    | none => s
    | some k =>
      let a := (x.pc + BitVec.ofNat 57 (64 * k)).toNat
      let c := (s.m.core w.die w.core).ctx
      if a % 64 ≠ 0 then s
      else match loadDev s.m none (some (.core w.die w.core)) c .fetch a 64 with
        | .ok (bs, m) =>
          { s with m := m.modStrm w fun x => { x with
            fetch := ((a, BitVec.ofNat 512 (ofBytes bs)) :: x.fetch).take 32 } }
        | .error e =>
          if k ≠ 0 then s
          else
            let s' := { s with cur := w, pre := some s.m, verdict := .go, bnd := {} }
            match (accStop s' 6 e : Except Stop Unit) with
            | .error (.trap t) => settled (raise t s')
            | .error (.tier t) => (match pageBundle s' t with
              | some m => settled { s' with m := m }
              | none => s)
            | _ => s)

/-- PARITY_REISSUE (15 R363). -/
def execParityReissue (w : Who) (s : State) : Out :=
  .next (match (s.m.strm w).parityAt with
    | some t => if 2 ^ 63 ≤ ((s.m.die w.die).cyc - t).toNat then s
        else { s with m := s.m.modStrm w fun x => { x with parityAt := none } }
    | none => s)

end Sys2Proof.Machine
end

