-- ==== Sys2Proof/Machine/Graph.lean ====
section
/-! DEFINITION. The graph dispatcher: launches (01 R25, R26, 11 R294, R295), reports (R296), records (R297 to R300),
readiness and completion (R301), the ready pool (R303, R304), placement (R305, R323, 14 R332) and the end of a job
(R307). -/

namespace Sys2Proof.Machine

/-! ### Accesses of the dispatcher (R296) -/

/-- Cause 0x09 with a trap code. -/
def dispCause (code : Nat) : Nat := 9 + 2 ^ 8 * code

/-- A dispatcher's work that may have to wait: for busy to clear, or for a page that the pager has to move. -/
abbrev Disp (α : Type) := Except (Option (Fin 64 × Nat)) α

/-- What a flash-tier page comes to for a dispatcher: a wait, or a delivered TIER once the pager has failed (14 R341). -/
def dispTier {α : Type} (m : Module) (d : Fin 16) (c : Fin 64) (p : Nat) (r : Nat → Module → Disp α) : Disp α :=
  let k := (c, BitVec.ofNat 57 p)
  if (m.die d).stuckPages.contains k then
    r (dispCause 6) (m.modDie d fun x => { x with stuckPages := x.stuckPages.filter fun q => !decide (q = k) })
  else .error (some (c, p))

/-- One line of a dispatcher's read: a fault answers the cause that field 5 of a report holds. -/
def dispLine (m : Module) (d : Fin 16) (c : Fin 64) (a n : Nat) : Disp (Except Nat (List Byte) × Module) :=
  match loadDev m none none c .read a n with
  | .ok (bs, m) => .ok (.ok bs, m)
  | .error .busy => .error none
  | .error (.tier p) => dispTier m d c p fun e m => .ok (.error e, m)
  | .error (.fault code _ _ l) => .ok (.error (dispCause code), match l with
      | some l => pushAlog m 4 (l * 64) 127
      | none => m)
  | .error _ => .ok (.error (dispCause 1), m)

/-- A dispatcher's read of `n` bytes, line by line. -/
def dispBytes (m : Module) (d : Fin 16) (c : Fin 64) (a n : Nat) : Disp (Except Nat (List Byte) × Module) :=
  (linePieces a n).foldlM (fun r p => match r.1 with
    | .error e => .ok (.error e, r.2)
    | .ok bs => (dispLine r.2 d c (p.1 % 2 ^ 57) p.2).map fun q => (match q.1 with
      | .ok cs => .ok (bs ++ cs)
      | .error e => .error e, q.2)) (.ok [], m)

def dispRead (m : Module) (d : Fin 16) (c : Fin 64) (a n : Nat) : Disp (Except Nat Nat × Module) :=
  (dispBytes m d c a n).map fun r => (match r.1 with
    | .ok bs => .ok (ofBytes bs)
    | .error e => .error e, r.2)

/-- A decrement that a dispatcher makes: the cause when it faults, in which case it has no effect. -/
def dispSignal (m : Module) (d : Fin 16) (c : Fin 64) (dev v : Nat) (k : Clock) : Disp (Option Nat × Module) :=
  match decSignal m c dev v k with
  | .ok m => .ok (none, m)
  | .error .busy => .error none
  | .error (.tier p) => dispTier m d c p fun e m => .ok (some e, m)
  | .error (.fault code _ _ _) => .ok (some (dispCause code), m)
  | .error _ => .ok (some (dispCause 1), m)

/-! ### Records (R297 to R300) -/

/-- The address of a node record. -/
def nodeAt (g : DevAddr) (n : Nat) : Nat := (g.toNat + 64 * (n + 1)) % 2 ^ 57

def nodeOpc (l : Line) : Nat := nodeFld l 384 64

/-- Whether every successor that a record names lies in the graph. -/
def succOk (nnodes : Nat) (l : Line) : Bool :=
  (List.range 4).all fun i => nodeSucc l i == 0xFFFF || decide (nodeSucc l i < nnodes)

/-- Whether a kind's operands keep R299. -/
def kindOk (l : Line) : Bool :=
  let a := nodeOpa l
  let b := nodeOpb l
  let last2 := nodeSucc l 2 == 0xFFFF && nodeSucc l 3 == 0xFFFF
  nodeOpc l == 0 && match nodeKind l with
  | 0 => decide (a < 2 ^ 57) && a % 64 == 0 && decide (b < 2 ^ 57)
  | 1 => decide (a < 2 ^ 51) && decide (b < 2 ^ 9)
  | 2 => decide (a < 2 ^ 57) && a % 8 == 0 && decide (b < 2 ^ 32) && last2
  | 3 => decide (a < 2 ^ 57) && a % 8 == 0 && b == 0 && last2
  | 4 => decide (a < 2 ^ 57)
  | 5 => a == 0 && b == 0
  | _ => false

/-- Whether a node record keeps R298 and R299. That a KERN node is no wider than the cores of its class is tested when it is to
be placed, and a misaligned sig when it is decremented, each with a cause of its own (R296, R305; logs 76, 91). -/
def nodeOk (nnodes : Nat) (l : Line) : Bool :=
  nodeFld l 448 64 == 0 && nodeFld l 249 7 == 0 && nodeFld l 168 24 == 0 && nodeFld l 24 8 == 0 &&
    nodeFld l 11 5 == 0 && nodeFld l 7 1 == 0 && nodeClass l != 3 && decide (nodeCkpt l ≤ 1024) &&
    (decide (nodeDie l < 16) || nodeDie l == 0xFF) && succOk nnodes l && kindOk l &&
    (if nodeKind l = 0 then decide (1 ≤ nodeWidth l)
     else nodeClass l == 0 && nodeWidth l == 0)

/-- Fields of a job image (R300). -/
def imgEntry (x : Nat) : StreamName → Nat
  | .l => fld x 0 57
  | .x => fld x 64 57
  | .s => fld x 128 57
def imgConst (x : Nat) : Nat := fld x 192 57
def imgNconst (x : Nat) : Nat := fld x 256 32
def imgShape (x : Nat) : Nat := fld x 288 16

/-- Whether a job image keeps R300; a shape of 0 declares none (02 R53). -/
def imageOk (x : Nat) : Bool :=
  let r := fld (imgShape x) 0 7
  let k := fld (imgShape x) 8 7
  fld x 304 208 == 0 && fld x 249 7 == 0 && fld x 185 7 == 0 && fld x 121 7 == 0 && fld x 57 7 == 0 &&
    decide (imgNconst x ≤ 16384) && imgConst x % 4 == 0 && StreamName.all.all (fun n => imgEntry x n % 64 == 0) &&
    (imgShape x == 0 ||
      (imgShape x == r + 256 * k && decide (1 ≤ r) && decide (r ≤ 64) && decide (1 ≤ k) && decide (k ≤ 64)))

/-! ### Readiness and completion (R301) -/

/-- The graph's argument pointer, priority and entry node in a launch tuple (01 R25). -/
def launchGraph (l : Line) : Nat := fld (tupField l 0) 0 57
def launchEntry (l : Line) : Nat := fld (tupField l 1) 0 32
def launchArg (l : Line) : Nat := fld (tupField l 2) 0 57

/-- The record of a node that becomes ready: a job image must keep R300 too. Answers the cause of a report. -/
def readyRecord (m : Module) (i : Instance) (n : Nat) : Disp (Except Nat Line × Module) := do
  let (r, m) ← dispRead m i.home i.ctx (nodeAt i.graph n) 64
  match r with
  | .error e => .ok (.error e, m)
  | .ok x =>
    let l : Line := BitVec.ofNat 512 x
    if !nodeOk i.nnodes l then .ok (.error 2, m)
    else if nodeKind l = 0 then do
      let (r, m) ← dispRead m i.home i.ctx (nodeOpa l) 64
      match r with
      | .error e => .ok (.error e, m)
      | .ok y => .ok (if imageOk y then .ok l else .error 2, m)
    else .ok (.ok l, m)

/-- A node becomes ready: its record is read, its pending count is reset, and it enters its die's pool at its priority
(R301, R303). -/
def makeReady (m : Module) (c : Fin 64) (g : DevAddr) (n : Nat) : Disp Module :=
  match findInst m c g with
  | none => .ok m
  | some i =>
    if i.reported then .ok m
    else do
      let (r, m) ← readyRecord m i n
      match r with
      | .error e => .ok (reportInst m c g n e)
      | .ok l =>
        let d : Fin 16 := if nodeDie l = 0xFF then i.home else Fin.ofNat 16 (nodeDie l)
        let pr := min (if n = launchEntry i.image || nodeInh l then i.prio else nodePrio l) (ctxCeiling m c)
        let (seq, m) := m.nextTicket
        let at_ := (m.die d).cyc
        let run : NodeRun := { node := BitVec.ofNat 16 n, die := d, image := l, st := .waiting, readyAt := at_, seq := seq
                               prio := pr, decision := .none, heldBack := false, again := false, jobsLeft := 0, saved := []
                               savedOld := [], clk := Tbl.get [] i.clks n, avoid := none }
        let m := modInst m c g fun i => { i with
          pending := Tbl.set none i.pending n (some (nodeNpred l)), nodes := i.nodes ++ [run] }
        match poolAdd m d { ctx := c, graph := g, node := run.node, prio := pr, readyAt := at_, levelAt := at_, seq := seq } with
        | some m => .ok m
        | none => .ok (reportInst m c g n 4)

/-- The key of the join of all completions among an instance's clocks. -/
def doneKey : Nat := 65536

/-- One completion decrements a successor's pending count, and its clock reaches the successor. A successor that waits or
runs becomes ready when it completes. -/
def decPending (m : Module) (c : Fin 64) (g : DevAddr) (n : Nat) (k : Clock) : Disp Module :=
  match findInst m c g with
  | none => .ok m
  | some i => do
    let (r, m) ← match Tbl.get none i.pending n with
      | some p => .ok ((.ok p : Except Nat Nat), m)
      | none => dispRead m i.home c ((nodeAt g n + 4) % 2 ^ 57) 2
    match r with
    | .error e => .ok (reportInst m c g n e)
    | .ok p =>
      let p := (p + 0xFFFF) % 0x10000
      let m := modInst m c g fun i => { i with
        pending := Tbl.set none i.pending n (some p)
        clks := Tbl.set [] i.clks n (Clock.join (Tbl.get [] i.clks n) k) }
      if p ≠ 0 then .ok m
      else if i.nodes.any fun x => decide (x.node.toNat = n) then
        .ok (modNode m c g (BitVec.ofNat 16 n) fun x => { x with again := true })
      else makeReady m c g n

/-- An instance none of whose nodes is waiting or running ends (R295). -/
def checkEnd (m : Module) (c : Fin 64) (g : DevAddr) : Disp Module :=
  match findInst m c g with
  | none => .ok m
  | some i =>
    if !i.nodes.isEmpty then .ok m
    else
      let drop := fun (m : Module) => { m with graphs := m.graphs.filter fun x => !decide (x.ctx = c ∧ x.graph = g) }
      if i.reported || decide (i.sig = 0) then .ok (drop m)
      else do
        let (e, m) ← dispSignal m i.home c i.sig.toNat 1 (Tbl.get [] i.clks doneKey)
        .ok (drop (match e with
          | some e => reportTuple m c i.image (launchEntry i.image) e
          | none => m))

/-- A node completes with the successors that it takes (R301). -/
def completeNode (m : Module) (c : Fin 64) (g : DevAddr) (n : NodeRun) (taken : List Nat) (k : Clock) : Disp Module := do
  let m := modInst (dropNode m c g n.node) c g fun i => { i with
    clks := Tbl.set [] i.clks doneKey (Clock.join (Tbl.get [] i.clks doneKey) k) }
  let m ← (if nodeSig n.image = 0 then .ok m
    else do
      let (e, m) ← dispSignal m n.die c (nodeSig n.image) 1 k
      .ok (match e with
        | some e => reportInst m c g n.node.toNat e
        | none => m))
  let m ← taken.foldlM (fun m s => if s = 0xFFFF then .ok m else decPending m c g s k) m
  let m ← (if n.again then makeReady m c g n.node.toNat else .ok m)
  checkEnd m c g

/-- All the successors of a record. -/
def allSucc (l : Line) : List Nat := (List.range 4).map (nodeSucc l)

/-! ### Launches (01 R25, R26, R294, R295) -/

/-- Whether a launch tuple keeps 01 R25. -/
def launchOk (l : Line) : Bool :=
  let len := fld (tupField l 4) 32 32
  fld (tupField l 0) 57 7 == 0 && fld (tupField l 1) 32 32 == 0 && fld (tupField l 2) 57 7 == 0 &&
    fld (tupField l 3) 3 5 == 0 && fld (tupField l 3) 16 48 == 0 && decide (4 ≤ len) && len % 4 == 0 &&
    tupField l 5 == 0 && tupField l 6 == 0

/-- Whether a graph header keeps R297 for an entry node. A misaligned completion signal is reported when it is decremented (R296; log
91). -/
def headerOk (g entry x : Nat) : Bool :=
  g % 64 == 0 && fld x 121 391 == 0 && fld x 16 48 == 0 && decide (1 ≤ fld x 0 16) &&
    decide (fld x 0 16 ≤ 4096) && decide (entry < fld x 0 16)

/-- Replace or drop a launch that a dispatcher holds. -/
def setLaunch (m : Module) (d : Fin 16) (l : Launch) (new : Option Launch) : Module :=
  m.modDie d fun x => { x with launches := x.launches.flatMap fun y => if y = l then new.toList else [y] }

/-- One reading of a launch's records and of its payload's last 4 bytes: it starts, is reported, or reads again. -/
def tryLaunch (m : Module) (d : Fin 16) (l : Launch) : Disp Module := do
  let f := l.image
  let c := l.ctx
  let g : DevAddr := BitVec.ofNat 57 (launchGraph f)
  let entry := launchEntry f
  let fail := fun (m : Module) (cause : Nat) => (.ok (setLaunch (reportTuple m c f entry cause) d l none) : Disp Module)
  if !launchOk f then fail m 2
  else
    let (h, m) ← dispRead m d c g.toNat 64
    match h with
    | .error e => fail m e
    | .ok x =>
      if !headerOk g.toNat entry x then fail m 2
      else
        let (r, m) ← dispRead m d c (nodeAt g entry) 64
        match r with
        | .error e => fail m e
        | .ok _ =>
          let (t, m) ← dispRead m d c ((launchArg f + fld (tupField f 4) 32 32 - 4) % 2 ^ 57) 4
          match t with
          | .error e => fail m e
          | .ok t =>
            if t = fld (tupField f 4) 0 32 then
              let i : Instance := {
                ctx := c, graph := g, home := d, image := f, prio := min (fld (tupField f 3) 0 3) (ctxCeiling m c)
                tokens := fld (tupField f 3) 8 8, sig := BitVec.ofNat 57 (fld x 64 57), nnodes := fld x 0 16
                pending := [], iter := [], nodes := [], clks := Tbl.set [] [] entry l.clk, reported := false }
              let m := setLaunch { m with graphs := m.graphs ++ [i] } d l none
              let m ← makeReady m c g entry
              checkEnd m c g
            else if l.reads + 1 < 16 then
              .ok (setLaunch m d l (some { l with reads := l.reads + 1, nextAt := (m.die d).cyc + 500 }))
            else fail (sendEvent m (some d) c.val 1 g.toNat (fld (tupField f 4) 0 32)) 1

/-- The first launch of a list that starts now: its graph has no live instance and no earlier launch. -/
def nextLaunch (m : Module) : List Launch → List (Nat × Nat) → Option Launch
  | [], _ => none
  | l :: ls, seen =>
    let k := (l.ctx.val, launchGraph l.image)
    if l.reads = 0 ∧ ctxValid m l.ctx ∧ !seen.contains k ∧ (findInst m l.ctx (BitVec.ofNat 57 k.2)).isNone then some l
    else nextLaunch m ls (k :: seen)

/-- An instance that has nothing left ends before another launch of its graph. -/
def endIdle (m : Module) (d : Fin 16) : Disp Module :=
  (m.graphs.filter fun i => decide (i.home = d) && i.nodes.isEmpty).foldlM (fun m i => checkEnd m i.ctx i.graph) m

/-- A flash-tier page that a dispatcher needs goes to a pager stream of its die, once (14 R341). -/
def dispPager (m : Module) (d : Fin 16) (c : Fin 64) (a : Nat) : Module :=
  let x : Service := { dev := some (c, BitVec.ofNat 57 a), disp := true }
  if (m.die d).services.any fun e => decide (e.2.dev = x.dev) && e.2.disp then m
  else (pagerCall m d x).getD m

/-- The outcome of an event of a die's dispatcher: while it waits it has done nothing but call the pager. -/
def dispOut (s : State) (d : Fin 16) (r : Disp Module) : Out :=
  .next (match r with
    | .ok m => { s with m := m }
    | .error (some (c, a)) => { s with m := dispPager s.m d c a }
    | .error none => s)

/-- LAUNCH (01 R26). -/
def execLaunch (die : Fin 16) (s : State) : Out :=
  dispOut s die (do
    let m ← endIdle s.m die
    match nextLaunch m (m.die die).launches [] with
    | some l => tryLaunch m die l
    | none => .ok m)

/-- Whether a cyc value has come. -/
def reached (now t : W64) : Bool := decide ((now - t).toNat < 2 ^ 63)

/-- LAUNCH_TAG_REREAD (R294). -/
def execLaunchTagReread (die : Fin 16) (s : State) : Out :=
  dispOut s die (match (s.m.die die).launches.find? fun l => decide (l.reads ≠ 0) && ctxValid s.m l.ctx && reached (s.m.die die).cyc l.nextAt with
    | some l => tryLaunch s.m die l
    | none => .ok s.m)

/-! ### Placement (R305, 01 R26, 14 R332, R323) -/

/-- The cores of a class in the order in which a node takes them (R305), outside a cluster that it avoids (R325). -/
def classCores (cls : Nat) (avoid : Option (Fin 8)) : List (Fin 128) :=
  let all := List.finRange 128
  let d := all.filter fun c => decide (c.val < 32)
  let k := all.filter fun c => decide (32 ≤ c.val)
  (if cls = 1 then d else if cls = 2 then k else k ++ d).filter fun c => !decide (avoid = some (clusterOf c))

/-- A core for a new job: its party's clock and views carry over; a job of another context finds the unit scratchpad
zeroed (14 R332, 07 R200). -/
def newCore (c : Core) (x : Fin 64) : Core :=
  { clk := c.clk, phases := c.phases, lastCtx := some x
    unitMem := if c.lastCtx.any (fun y => !decide (y = x)) then [] else c.unitMem }

/-- Poison of a unit scratchpad that is zeroed goes (15 R365). -/
def zeroUnit (m : Module) (d : Fin 16) (c : Fin 128) (x : Fin 64) : Module :=
  if (m.core d c).lastCtx.any (fun y => !decide (y = x)) then
    { m with unitPoison := m.unitPoison.filter fun k => !decide (k / 16384 = coreKey d c) }
  else m

/-- A stream at the start of its job (02 R50, R53). -/
def startStream (entry arg index width shape : Nat) : Stream :=
  { status := .running, pc := BitVec.ofNat 57 entry
    s := Tbl.set 0 (Tbl.set 0 (Tbl.set 0 [] 1 (BitVec.ofNat 64 arg)) 2 (BitVec.ofNat 64 index)) 3 (BitVec.ofNat 64 width)
    rows := if shape = 0 then 64 else BitVec.ofNat 7 shape
    cols := if shape = 0 then 16 else BitVec.ofNat 7 (shape / 2 ^ 8) }

/-- Set the chain slots of a core; a slot's engine record is kept (15 R362). -/
def setChains (m : Module) (d : Fin 16) (c : Fin 128) (ks : List Chain) : Module :=
  (List.finRange 16).foldl (fun m n => m.modChain (.job d c n) fun old => { ks.getD n.val {} with record := old.record }) m

/-- Start job `k` of a node on a core (01 R26 step 5). -/
def startJob (m : Module) (i : Instance) (n : NodeRun) (level : Nat) (img : Nat) (k : Nat) (c : Fin 128) : Module :=
  let d := n.die
  let now := (m.die d).cyc
  let arg := if fld (nodeOpb n.image) 0 57 = 0 then launchArg i.image else fld (nodeOpb n.image) 0 57
  let st := fun (q : StreamName) => startStream (imgEntry img q) arg k (nodeWidth n.image) (imgShape img)
  let m := zeroUnit m d c i.ctx
  let m := m.modCore d c fun x => { newCore x i.ctx with
    clk := Clock.join x.clk (Clock.ofDie d n.clk)
    nconst := imgNconst img, kaddr := BitVec.ofNat 57 (imgConst img)
    est := BitVec.ofNat 32 (nodeEst n.image), estAt := now
    job := some { ctx := i.ctx, graph := i.graph, node := n.node.setWidth 32, index := BitVec.ofNat 16 k
                  width := nodeWidth n.image, prio := level, placedAt := now }
    l := st .l, x := st .x, st := st .s }
  setChains m d c []

/-- The later of two phase views, slot by slot. -/
def joinViews (a b : Tbl (BitVec 16)) : Tbl (BitVec 16) :=
  b.foldl (fun t e => Tbl.set 0xFFFF t e.1 (later (viewPhase t e.1) e.2)) a

/-- The first `n` KiB of a unit scratchpad over another one. -/
def overlay (n : Nat) (saved cur : Memory) : Memory :=
  (saved.filter fun e => decide (e.1 < 1024 * n)) ++ (cur.filter fun e => decide (1024 * n ≤ e.1))

/-- Resume a checkpointed job on a core (R323). -/
def resumeJob (m : Module) (i : Instance) (n : NodeRun) (level : Nat) (k : Nat) (c : Fin 128) : Module :=
  let d := n.die
  let now := (m.die d).cyc
  let old := n.saved.getD k {}
  let m := zeroUnit m d c i.ctx
  let m := m.modCore d c fun x =>
    let y := newCore x i.ctx
    { old with
      clk := Clock.join x.clk old.clk, phases := joinViews x.phases old.phases, lastCtx := some i.ctx
      unitMem := overlay (nodeCkpt n.image) old.unitMem y.unitMem
      job := old.job.map fun j => { j with prio := level, placedAt := now }
      l := { old.l with fetch := [] }, x := { old.x with fetch := [] }, st := { old.st with fetch := [] } }
  setChains m d c (n.savedChains.getD k [])

/-- A job that a DISPOSE of FAIL named while it was out fails when it resumes (15 R358). -/
def failDisposed (m : Module) (d : Fin 16) (c : Fin 128) : Module :=
  match StreamName.all.find? fun q => decide (((m.core d c).stream q).status = .failed) with
  | some q => failJob m ⟨d, c, q⟩ (fld ((m.core d c).stream q).trec.w0.toNat 0 8)
  | none => m

/-- Take a node out of its die's pool; it is the head no more. -/
def unpool (m : Module) (c : Fin 64) (g : DevAddr) (n : NodeRun) : Module :=
  m.modDie n.die fun x => { x with
    pool := x.pool.filter fun e => !decide (e.ctx = c ∧ e.graph = g ∧ e.node = n.node)
    head := x.head.filter fun h => !decide (h = (c, g, n.node)) }

/-- Report a node that cannot be dispatched: it leaves the instance. -/
def failNode (m : Module) (i : Instance) (n : NodeRun) (cause : Nat) : Disp Module :=
  checkEnd (dropNode (reportInst m i.ctx i.graph n.node.toNat cause) i.ctx i.graph n.node) i.ctx i.graph

/-- The cores in ascending order. -/
def ascending (cs : List (Fin 128)) : List (Fin 128) := (List.finRange 128).filter fun c => cs.contains c

/-- Place a node on cores (R305, R323). -/
def placeNode (m : Module) (i : Instance) (n : NodeRun) (level : Nat) (cs : List (Fin 128)) : Disp Module :=
  let cs := ascending cs
  let jobs := (List.range cs.length).zip cs
  let started := fun (m : Module) (left : Nat) =>
    modNode (unpool m i.ctx i.graph n) i.ctx i.graph n.node fun x => { x with
      st := .running cs (m.die n.die).cyc level, decision := .none, heldBack := false, chosen := false, failed := false
      jobsLeft := left, saved := [], savedChains := [], savedOld := [], avoid := none }
  if !n.saved.isEmpty then
    let m := jobs.foldl (fun m j => resumeJob m i n level j.1 j.2) m
    let m := cs.foldl (fun m c => takeBits m n.die c) (started m n.saved.length)
    .ok (cs.foldl (fun m c => failDisposed m n.die c) m)
  else do
    let (r, m) ← dispRead m n.die i.ctx (nodeOpa n.image) 64
    match r with
    | .error e => failNode (unpool m i.ctx i.graph n) i n e
    | .ok img =>
      if !imageOk img then failNode (unpool m i.ctx i.graph n) i n 2
      else do
        let (k, m) ← dispBytes m n.die i.ctx (imgConst img) (4 * imgNconst img)
        match k with
        | .error e => failNode (unpool m i.ctx i.graph n) i n e
        | .ok _ => .ok (started (jobs.foldl (fun m j => startJob m i n level img j.1 j.2) m) cs.length)

/-- CONSTANT_BANK_LOAD (01 R26): the words of the image's next line enter the bank; a line that faults ends the load, and the
instance is reported (R296). -/
def execConstantBankLoad (die : Fin 16) (core : Fin 128) (s : State) : Out :=
  let c := s.m.core die core
  if c.job.isNone ∨ c.nconst ≤ c.kloaded ∨ c.kfault then .next s
  else
    let a := (c.kaddr.toNat + 4 * c.kloaded) % 2 ^ 57
    let n := min ((64 - a % 64) / 4) (c.nconst - c.kloaded)
    dispOut s die (do
      let (r, m) ← dispLine s.m die c.ctx a (4 * n)
      match r with
      | .error e =>
        let m := m.modCore die core fun x => { x with kfault := true }
        .ok (match c.job with
          | some j => reportInst m j.ctx j.graph j.node.toNat e
          | none => m)
      | .ok bs =>
        .ok (m.modCore die core fun x => { x with
          kbank := (List.range n).foldl (fun t k =>
            Tbl.set 0 t (x.kloaded + k) (BitVec.ofNat 32 (ofBytes ((bs.drop (4 * k)).take 4)))) x.kbank
          kloaded := x.kloaded + n }))

/-! ### Victims of the head (R321, R322) -/

/-- The remaining time of a running node in ns: the largest of its jobs'. -/
def remaining (m : Module) (n : NodeRun) : Nat :=
  (n.cores.map fun c =>
    let x := m.core n.die c
    x.est.toNat - ((m.die n.die).cyc - x.estAt).toNat / 2).foldl max 0

/-- When a running node was placed. -/
def placedAt (n : NodeRun) : W64 :=
  match n.st with
  | .running _ t _ => t
  | _ => 0

/-- Steps 2 and 3 of the decision. -/
def killOrSave (m : Module) (c : Fin 64) (g : DevAddr) (n : NodeRun) : Module :=
  let elapsed := ((m.die n.die).cyc - placedAt n).toNat / 2
  decideNode m c g n (if nodeRestart n.image && decide (elapsed < 2000 + 8 * nodeCkpt n.image) then .kill else .checkpoint none)

/-- The decision on a victim (R321); one that is pending against it stands (log 74). -/
def decideVictim (m : Module) (c : Fin 64) (g : DevAddr) (n : NodeRun) : Module :=
  if n.decision ≠ .none then m
  else if remaining m n ≤ ctxDrain m c then
    modNode m c g n.node fun x => { x with decision := .drain ((m.die n.die).cyc + BitVec.ofNat 64 (2 * ctxDrain m c)) }
  else killOrSave m c g n

/-- The running priority of a node. -/
def runPrio (n : NodeRun) : Nat :=
  match n.st with
  | .running _ _ p => p
  | _ => 0

/-- A victim before those that are taken later: lowest priority first, most recently placed first. -/
def insertVictim (now : W64) (v : Instance × NodeRun) : List (Instance × NodeRun) → List (Instance × NodeRun)
  | [] => [v]
  | w :: ws =>
    if runPrio v.2 < runPrio w.2 ∨ (runPrio v.2 = runPrio w.2 ∧
        (now - placedAt v.2).toNat ≤ (now - placedAt w.2).toNat) then v :: w :: ws
    else w :: insertVictim now v ws

/-- Running KERN nodes of a die that a head of a priority may pre-empt, on cores that it can use. -/
def victims (m : Module) (d : Fin 16) (use : List (Fin 128)) (pn : Nat) : List (Instance × NodeRun) :=
  let all := m.graphs.flatMap fun i => i.nodes.map fun n => (i, n)
  (all.filter fun v => decide (v.2.die = d) && decide (runPrio v.2 < pn) && v.2.cores.any (fun c => use.contains c)).foldr (insertVictim (m.die d).cyc) []

/-- Cores of a running node that a head can use and that its jobs still hold. -/
def usable (m : Module) (n : NodeRun) (use : List (Fin 128)) : Nat :=
  (n.cores.filter fun c => use.contains c && (m.core n.die c).job.isSome).length

/-- Take victims until a width is reached: those taken, and how many cores that makes. -/
def takeVictims (m : Module) (use : List (Fin 128)) (need : Nat) :
    List (Instance × NodeRun) → Nat → List (Instance × NodeRun) × Nat
  | [], got => ([], got)
  | v :: vs, got =>
    if need ≤ got then ([], got)
    else
      let (ws, n) := takeVictims m use need vs (got + usable m v.2 use)
      (v :: ws, n)

/-- Pre-emption for a head that waits (R321). -/
def preempt (m : Module) (i : Instance) (n : NodeRun) (level : Nat) (use : List (Fin 128)) (free need : Nat) : Module :=
  let (vs, got) := takeVictims m use need (victims m n.die use level) free
  if n.chosen || vs.isEmpty || decide (got < need) || decide (i.tokens = 0) then m
  else
    let m := modInst m i.ctx i.graph fun i => { i with tokens := i.tokens - 1 }
    let m := modNode m i.ctx i.graph n.node fun x => { x with chosen := true }
    vs.foldl (fun m v => decideVictim m v.1.ctx v.1.graph v.2) m

/-! ### Dispatch (R304) -/

/-- An entry before those that are taken after it. -/
def insertEntry (e : PoolEnt) : List PoolEnt → List PoolEnt
  | [] => [e]
  | f :: fs => if f.prio < e.prio ∨ (e.prio = f.prio ∧ e.seq ≤ f.seq) then e :: f :: fs else f :: insertEntry e fs

/-- LOOP, COND, SIGN and GATE complete at dispatch (R301). -/
def performCoreless (m : Module) (i : Instance) (n : NodeRun) : Disp Module :=
  let c := i.ctx
  let g := i.graph
  let l := n.image
  let m := unpool m c g n
  match nodeKind l with
  | 4 => do
    let (e, m) ← dispSignal m n.die c (nodeOpa l) (nodeOpb l) n.clk
    let m := match e with
      | some e => reportInst m c g n.node.toNat e
      | none => m
    completeNode m c g n (allSucc l) n.clk
  | 5 => completeNode m c g n (allSucc l) n.clk
  | k => do
    let (r, m) ← dispRead m n.die c (nodeOpa l) 8
    match r with
    | .error e => failNode m i n e
    | .ok w =>
      let it := Tbl.get 0 i.iter n.node.toNat
      let go := if k = 2 then decide (w ≠ 0) && decide (it < nodeOpb l) else decide (w ≠ 0)
      let m := if k = 2 then modInst m c g fun i => { i with
          iter := Tbl.set 0 i.iter n.node.toNat (if go then it + 1 else 0) } else m
      completeNode m c g n [nodeSucc l (if go then 0 else 1)] n.clk

/-- Dispatch a COPY node on a copy engine that has room (R299): the tests of ECHN, a failure of which stops the chain. -/
def dispatchCopy (m : Module) (i : Instance) (n : NodeRun) : Module :=
  let d := n.die
  let a := nodeOpa n.image
  let b := nodeOpb n.image
  let head := fld a 0 48
  let slot : Fin 256 := Fin.ofNat 256 b
  let id : ChainId := .node d i.ctx i.graph n.node
  let k : Chain := {
    state := 2, cls := .copy, inst := Fin.ofNat 8 (a / 2 ^ 48), ctx := i.ctx, head := BitVec.ofNat 48 head, die := d
    slotDie := d, slot := slot, views := { Views.empty with die := d, clk := Clock.ofDie d n.clk } }
  let m := modNode (unpool m i.ctx i.graph n) i.ctx i.graph n.node fun x => { x with st := .chain }
  let stop := fun (code addr : Nat) => stopChain (m.setChain id k) id code 0 addr 0
  if !(m.barrier d slot).valid then stop 1 (32 * slot.val)
  else if !grantSlot m i.ctx slot.val then stop 2 0
  else if head % 32 ≠ 0 then stop 3 head
  else match localLocs m i.ctx d none head 32 with
    | none => stop 4 head
    | some _ => startChain m id k (bitAt b 8)

/-- The cores that a KERN node can use (R304, R325). -/
def NodeRun.uses (n : NodeRun) : List (Fin 128) := classCores (nodeClass n.image) n.avoid

/-- The node of a pool entry, while its context is resident. -/
def entryNode (m : Module) (e : PoolEnt) : Option (Instance × NodeRun) :=
  match (findInst m e.ctx e.graph).filter (fun _ => ctxValid m e.ctx), findNode m e.ctx e.graph e.node with
  | some i, some n => some (i, n)
  | _, _ => none

def PoolEnt.key (e : PoolEnt) : Fin 64 × DevAddr × BitVec 16 := (e.ctx, e.graph, e.node)

/-- The cores that are held for the head of a die, and whose entry it is: from when it could not be placed until it is. -/
def headOf (m : Module) (d : Fin 16) : Option (PoolEnt × List (Fin 128)) :=
  ((m.die d).pool.find? fun e => decide ((m.die d).head = some e.key)).bind fun e =>
    (entryNode m e).map fun p => (e, p.2.uses)

/-- The scan of R304 over a pool in order: the first node that can be dispatched is. -/
def scanPool (d : Fin 16) : List PoolEnt → Module → Disp Module
  | [], m => .ok m
  | e :: es, m =>
    match entryNode m e with
    | none => scanPool d es m
    | some (i, n) =>
      match nodeKind n.image with
      | 0 =>
        let need := if n.saved.isEmpty then nodeWidth n.image else n.saved.length
        let held := match headOf m d with
          | some (h, use) => if h = e then [] else use
          | none => []
        let free := n.uses.filter fun c => (m.core d c).job.isNone && !held.contains c
        if (classCores (nodeClass n.image) none).length < need then failNode (unpool m e.ctx e.graph n) i n 3
        else if need ≤ free.length then placeNode m i n e.prio (free.take need)
        else
          let m := if (headOf m d).isNone then m.modDie d fun x => { x with head := some e.key } else m
          scanPool d es (if (m.die d).head = some e.key then preempt m i n e.prio n.uses free.length need else m)
      | 1 =>
        if (engQueue m (.copy d (Fin.ofNat 8 (nodeOpa n.image / 2 ^ 48)))).length < engineQueueCap (.copy d 0) then
          .ok (dispatchCopy m i n)
        else scanPool d es m
      | _ => performCoreless m i n

/-- A head whose entry has left the pool, or whose context is not resident, is the head no more: its victims are chosen anew when
it is head again (R304, R321). -/
def dropHead (m : Module) (d : Fin 16) : Module :=
  match (m.die d).head, headOf m d with
  | some (c, g, n), none => modNode (m.modDie d fun x => { x with head := none }) c g n fun x => { x with chosen := false }
  | _, _ => m

/-- DISPATCH_TICK (R304). -/
def execDispatchTick (die : Fin 16) (s : State) : Out :=
  dispOut s die (scanPool die ((s.m.die die).pool.foldr insertEntry []) (dropHead s.m die))

/-- POOL_AGEING (R303). -/
def execPoolAgeing (die : Fin 16) (s : State) : Out :=
  let m := s.m
  let age := fun (e : PoolEnt) =>
    if 2 ^ 21 ≤ ((m.die die).cyc - e.levelAt).toNat ∧ e.prio < ctxCeiling m e.ctx then
      { e with prio := e.prio + 1, levelAt := e.levelAt + 2 ^ 21 }
    else e
  .next { s with m := m.modDie die fun x => { x with pool := x.pool.map age, overflow := x.overflow.map age } }

/-- POOL_OVERFLOW_ENTER (R303, 14 R348). -/
def execPoolOverflowEnter (die : Fin 16) (s : State) : Out :=
  .next (match enterPool s.m die with
    | none => s
    | some m => { s with m := m })

/-! ### The end of a job and of a node (R301, R307) -/

/-- What remains of a core between jobs: its party's clock and views, its unit scratchpad. -/
def idleCore (c : Core) : Core := { clk := c.clk, phases := c.phases, lastCtx := c.lastCtx, unitMem := c.unitMem }

/-- Bytes that a core's rings hold. -/
def ringBytes (c : Core) : Nat :=
  let n := fun (q : Queue) => match q.ring with
    | some r => 4096 * r.sizes.length
    | none => 0
  n c.qlx + n c.qxs

/-- The pager serves a core's streams no more. -/
def forgetPager (m : Module) (d : Fin 16) (c : Fin 128) : Module :=
  m.modDie d fun x => { x with services := Tbl.mapV {} (fun v =>
    if v.who.any (fun w => decide (w.die = d) && decide (w.core = c)) then { v with who := none } else v) x.services }

/-- Free a core whose job has ended; `how` is the status of its streams. -/
def freeCore (m : Module) (d : Fin 16) (c : Fin 128) : Module :=
  let x := m.core d c
  let m := m.modCtx x.ctx fun y => { y with spill := y.spill - ringBytes x }
  (forgetPager m d c).setCore d c (idleCore x)

/-- Whether all the streams of a core have a status. -/
def allStreams (c : Core) (t : Status) : Bool := StreamName.all.all fun q => decide ((c.stream q).status = t)

/-- JOB_END (R307): all its streams have exited, or a KILL or a failure has stopped them, and its chains have ended. -/
def execJobEnd (die : Fin 16) (core : Fin 128) (s : State) : Out :=
  let m := s.m
  let c := m.core die core
  let exited := allStreams c .exited
  .next (if c.job.isNone ∨ chainsLive m die core ∨ !(exited || allStreams c .failed || allStreams c .idle) ∨
      (exited ∧ releaseStalls m die core) then s
    else
      let clk := releaseClock m die core
      let m := if exited then endLease (leaveAll m die core) die core else m
      let m := closeRegion m die core
      let m := match jobNode m die core with
        | some (i, n) => modNode m i.ctx i.graph n.node fun x => { x with
            st := match x.st with
              | .running cs t p => .running (cs.filter fun c => !decide (c = core)) t p
              | t => t
            jobsLeft := x.jobsLeft - 1, failed := x.failed || allStreams c .failed
            clk := if exited then Clock.join x.clk clk else x.clk }
        | none => m
      { s with m := freeCore m die core })

/-- NODE_COMPLETE (R301). -/
def execNodeComplete (ctx : Fin 64) (graph : DevAddr) (node : BitVec 16) (s : State) : Out :=
  match findNode s.m ctx graph node with
  | none => .next s
  | some n => dispOut s n.die (match n.st with
      | .waiting => .ok s.m
      | .running _ _ _ =>
        if n.jobsLeft ≠ 0 then .ok s.m
        else if n.failed then checkEnd (dropNode s.m ctx graph node) ctx graph
        else completeNode s.m ctx graph n (allSucc n.image) n.clk
      | .chain =>
        let k := s.m.chain (.node n.die ctx graph node)
        if k.state = 3 then completeNode s.m ctx graph n (allSucc n.image) (Clock.join n.clk k.views.clk)
        else if k.state = 4 ∨ k.state = 5 then checkEnd (dropNode s.m ctx graph node) ctx graph
        else .ok s.m)

end Sys2Proof.Machine
end

