-- ==== Sys2Proof/Machine/Preempt.lean ====
section
/-! DEFINITION. What becomes of a decided victim (11 R322, R323), the end of a region by its bound (R324), and clock steps
and migration of a hot cluster (R325). -/

namespace Sys2Proof.Machine

/-- DRAIN_EXPIRE (11 R322): a node that still runs at the drain limit is decided again from step 2. -/
def execDrainExpire (ctx : Fin 64) (graph : DevAddr) (node : BitVec 16) (s : State) : Out :=
  .next (match findNode s.m ctx graph node with
    | some n =>
      match n.decision with
      | .drain t => if reached (s.m.die n.die).cyc t ∧ !n.cores.isEmpty then { s with m := killOrSave s.m ctx graph n } else s
      | _ => s
    | none => s)

/-! ### CHECKPOINT -/

/-- Whether a stream stands at a bundle boundary (11 R322): it issues nothing, or the bundle that it has issued waits for what
others do and has done nothing that it cannot do again (09 R271). -/
def atBoundary (x : Stream) : Bool :=
  match x.status with
  | .held | .exited => true
  | .running => x.wait.aside && x.cwait.aside
  | .idle | .failed => false

/-- Whether the job on a core can be saved (11 R322): its streams stand, its chains, passes and lease have ended, and its
release does not stall (07 R207). -/
def canSave (m : Module) (d : Fin 16) (c : Fin 128) : Bool :=
  let x := m.core d c
  let k := m.cluster d (clusterOf c)
  StreamName.all.all (fun n => atBoundary (x.stream n)) && !allStreams x .exited && !chainsLive m d c &&
    k.passes.all (fun p => !decide (p.who.core = c)) &&
    !(match k.lease with
      | some (h, _) => decide (h = c)
      | none => false) &&
    !releaseStalls m d c

/-- A stream as it is saved: what it has not done it does again on resume (11 R323). -/
def savedStream (x : Stream) : Stream :=
  { x with wait := x.wait.standing, cwait := x.cwait.standing, paged := false, parityAt := none, restored := [] }

/-- A core as it is saved. -/
def savedCore (x : Core) : Core := { x with l := savedStream x.l, x := savedStream x.x, st := savedStream x.st }

/-- Save the job on a core: its requests are withdrawn, its release goes into the record, its group bits are
held, the core is free. Its rings stay
where they are. -/
def saveJob (m : Module) (d : Fin 16) (c : Fin 128) : Core × List Chain × Module :=
  let m := StreamName.all.foldl (fun m n => unissue (withdraw m ⟨d, c, n⟩) ⟨d, c, n⟩) m
  let x := savedCore (m.core d c)
  let ks := (coreChains d c).map m.chain
  let m := holdBits (forgetPager (afterRelease m d c) d c) d c
  (x, ks, m.setCore d c (idleCore (m.core d c)))

/-- CHECKPOINT_SAVE (11 R322, R323). -/
def execCheckpointSave (ctx : Fin 64) (graph : DevAddr) (node : BitVec 16) (s : State) : Out :=
  .next (match findNode s.m ctx graph node with
    | some n =>
      match n.decision, n.st with
      | .checkpoint outside, .running cs _ pr =>
        if n.heldBack ∨ cs.isEmpty ∨ !(cs.all (canSave s.m n.die)) then s
        else
          let r := cs.foldl (fun (a : List Core × List (List Chain) × Module) c =>
            let (x, ks, m) := saveJob a.2.2 n.die c
            (a.1 ++ [x], a.2.1 ++ [ks], m)) ([], [], s.m)
          let n' := { n with st := .waiting, decision := .none, chosen := false, saved := r.1, savedChains := r.2.1
                             savedOld := cs, avoid := outside }
          { s with m := backToPool (modNode r.2.2 ctx graph node fun _ => n') ctx graph n' pr }
      | _, _ => s
    | none => s)

/-! ### Regions and heat -/

/-- NPRE_EXPIRE (11 R324): a region whose bound has run out closes. -/
def execNpreExpire (die : Fin 16) (core : Fin 128) (s : State) : Out :=
  let x := s.m.core die core
  .next (match x.region, x.job with
    | some t, some j =>
      if reached (s.m.die die).cyc t then
        { s with m := closeRegion (sendEvent s.m (some die) j.ctx.val 7 core.val j.graph.toNat) die core }
      else s
    | _, _ => s)

/-- THERMAL_STEP (11 R325): between 2.0 GHz and 1.0 GHz by steps of 0.25 GHz. -/
def execThermalStep (die : Fin 16) (cluster : Fin 8) (hot : Bool) (s : State) : Out :=
  .next { s with m := s.m.modCluster die cluster fun x => { x with
    slow := if hot then min 4 (x.slow + 1) else x.slow - 1 } }

/-- The cores of a cluster that a running node holds. -/
def coresIn (n : NodeRun) (k : Fin 8) : List (Fin 128) := n.cores.filter fun c => decide (clusterOf c = k)

/-- A node of a hot cluster is checkpointed and resumes elsewhere; a region of it defers that (11 R325). -/
def migrateNode (m : Module) (d : Fin 16) (k : Fin 8) (i : Instance) (n : NodeRun) : Module :=
  if n.die ≠ d ∨ (coresIn n k).isEmpty ∨ n.decision = .kill then m
  else
    let m := match n.cores.find? (fun c => (m.core d c).region.isSome) with
      | some c => sendEvent m (some d) k.val 6 c.val 0
      | none => m
    decideNode m i.ctx i.graph n (.checkpoint (some k))

/-- Migrate a cluster's nodes (11 R325). -/
def migrateCluster (m : Module) (d : Fin 16) (k : Fin 8) : Module :=
  (m.graphs.flatMap fun i => i.nodes.map fun n => (i, n)).foldl (fun m v => migrateNode m d k v.1 v.2) m

end Sys2Proof.Machine
end

