-- ==== Sys2Proof/Machine/Recovery.lean ====
section
/-! DEFINITION. Dispositions, records, the event ring and the summary (15 R356, R358, R359, R380, R381). -/

namespace Sys2Proof.Machine

/-! ### Dispositions -/

/-- Where a job that DISPOSE or READREC names stands (15 R358). -/
inductive JobRef where
  | core (d : Fin 16) (c : Fin 128)
  /-- Checkpointed: the node, the place of the job among the saved ones. -/
  | saved (n : NodeRun) (k : Nat)
  /-- Its node waits, or it is being killed: nothing of it is held. -/
  | waiting
  | none
  deriving DecidableEq, Repr

/-- Whether a core runs the job. -/
def runsJob (x : Core) (c : Fin 64) (g : DevAddr) (node idx : Nat) : Bool :=
  match x.job with
  | some j => decide (j.ctx = c) && decide (j.graph = g) && decide (j.node.toNat = node) && decide (j.index.toNat = idx)
  | none => false

/-- The core that runs a job in place, before one that a KILL is ending. -/
def jobCore (m : Module) (c : Fin 64) (g : DevAddr) (node idx : Nat) (killed : Bool) : Option (Fin 16 × Fin 128) :=
  ((Tbl.keys m.cores).map fun k => (Fin.ofNat 16 (k / 128), Fin.ofNat 128 k)).find? fun k =>
    runsJob (m.core k.1 k.2) c g node idx && decide (allStreams (m.core k.1 k.2) .idle = killed)

def findJob (m : Module) (c : Fin 64) (g : DevAddr) (node idx : Nat) : JobRef :=
  match jobCore m c g node idx false with
  | some (d, k) => .core d k
  | none =>
    match findNode m c g (BitVec.ofNat 16 node) with
    | some n =>
      match (List.range n.saved.length).find? fun k => runsJob (n.saved.getD k {}) c g node idx with
      | some k => .saved n k
      | none => if nodeKind n.image = 0 ∧ idx < nodeWidth n.image then .waiting else .none
    | none => if (jobCore m c g node idx true).isSome then .waiting else .none

/-- The graph, node and job index of the command. -/
def mailGraph (s : State) : DevAddr := BitVec.ofNat 57 (mailW s 2)
def mailNode (s : State) : Nat := fld (mailW s 3) 0 32
def mailIndex (s : State) : Nat := fld (mailW s 3) 32 16
def mailJob (s : State) : JobRef := findJob s.m (mailCtx s) (mailGraph s) (mailNode s) (mailIndex s)

/-- The stream that word 1 names. -/
def mailStream (s : State) : Option StreamName :=
  match fld (mailW s 1) 10 2 with
  | 0 => some .l
  | 1 => some .x
  | 2 => some .s
  | _ => none

/-- Change one of the saved cores of a node. -/
def modSaved (m : Module) (c : Fin 64) (g : DevAddr) (n : NodeRun) (k : Nat) (f : Core → Core) : Module :=
  modNode m c g n.node fun x => { x with saved := x.saved.modify k f }

/-- A disposition of a held stream: on a core at once, on a checkpointed job as it will resume. -/
def disposeStream (s : State) (here : Module → Who → Module) (out : Core → StreamName → Core) : Out :=
  match mailStream s with
  | none => answer s 1 s.m
  | some q =>
    match mailJob s with
    | .core d c =>
      if ((s.m.core d c).stream q).status = .held then answer s 0 (here s.m ⟨d, c, q⟩) else answer s 2 s.m
    | .saved n k =>
      if ((n.saved.getD k {}).stream q).status = .held then
        answer s 0 (modSaved s.m (mailCtx s) (mailGraph s) n k fun x => out x q)
      else answer s 2 s.m
    | .waiting => answer s 2 s.m
    | .none => answer s 1 s.m

def setStatus (x : Core) (q : StreamName) (t : Status) : Core := x.setStream q { x.stream q with status := t }

/-- The faulting bundle as if it had retired with no effect (15 R358). -/
def skipBundle (x : Core) (q : StreamName) : Core :=
  let t := x.stream q
  let y := if q = .x ∧ t.handler.isNone then shiftScales none x else x
  y.setStream q { advance t with
    status := .running, handler := t.handler.map (· + 1), oplog := ([] :: t.oplog).take 64 }

/-- DISPOSE with REPLAY (15 R358). -/
def execDisposeReplay (s : State) : Out :=
  disposeStream s (fun m w => m.modCore w.die w.core fun x => setStatus x w.stream .running)
    fun x q => setStatus x q .running

/-- DISPOSE with NEXT (15 R358). -/
def execDisposeNext (s : State) : Out :=
  disposeStream s (fun m w => m.modCore w.die w.core fun x => skipBundle x w.stream) skipBundle

/-- DISPOSE with FAIL (15 R353, R358): a job that is out fails when it resumes. -/
def execDisposeFail (s : State) : Out :=
  disposeStream s (fun m w => failJob m w (fld (m.strm w).trec.w0.toNat 0 8)) fun x q => setStatus x q .failed

/-- The chain that the command names (15 R356, 11 R299): none when there is no such job. A checkpointed job has none
held. -/
def mailChain (s : State) : Option (Option ChainId) :=
  if mailIndex s = 0xFFFF then
    match findNode s.m (mailCtx s) (mailGraph s) (BitVec.ofNat 16 (mailNode s)) with
    | some n => some (if n.st = .chain then some (.node n.die (mailCtx s) (mailGraph s) n.node) else none)
    | none => none
  else match mailJob s with
    | .core d c => some (some (.job d c (Fin.ofNat 16 (fld (mailW s 1) 16 4))))
    | .none => none
    | _ => some none

/-- A disposition of a held chain. -/
def disposeChain (s : State) (f : Module → ChainId → Module) : Out :=
  match mailChain s with
  | none => answer s 1 s.m
  | some none => answer s 2 s.m
  | some (some i) => if (s.m.chain i).held then answer s 0 (f s.m i) else answer s 2 s.m

/-- DISPOSE of a chain with REPLAY (15 R358). -/
def execDisposeChainReplay (s : State) : Out :=
  disposeChain s fun m i => m.modChain i fun k => { k with held := false }

/-- DISPOSE of a chain with STOP (15 R358, R362). -/
def execDisposeChainStop (s : State) : Out :=
  disposeChain s fun m i => endStopped m i (fld (m.chain i).record.w0.toNat 0 8)

/-! ### Records and events -/

def Rec8.bytes (r : Rec8) : List Byte :=
  [r.w0, r.w1, r.w2, r.w3, r.w4, r.w5, r.w6, r.w7].flatMap fun w => toBytes 8 w.toNat

/-- READREC (15 R356). -/
def execReadrec (s : State) : Out :=
  let put := fun (a b : Rec8) => answer s 0 (hostWrite s.m (mailW s 4) (a.bytes ++ b.bytes))
  let slot := fld (mailW s 1) 16 4
  if bitAt (mailW s 1) 8 then
    match mailJob s with
    | .saved n k => put ((n.savedChains.getD k []).getD slot {}).record {}
    | _ =>
      match mailChain s with
      | some (some i) => put (s.m.chain i).record {}
      | _ => answer s 1 s.m
  else
    match mailStream s, mailJob s with
    | some q, .core d c => put ((s.m.core d c).stream q).trec ((s.m.core d c).stream q).tprev
    | some q, .saved n k => put ((n.saved.getD k {}).stream q).trec ((n.saved.getD k {}).stream q).tprev
    | _, _ => answer s 1 s.m

/-- EVRING (15 R356): both indices become 0. -/
def execEvring (s : State) : Out :=
  let n := mailW s 2
  if mailW s 1 % 4096 ≠ 0 ∨ !((List.range 11).any fun k => n == 2 ^ (k + 6)) then answer s 3 s.m
  else answer s 0 { s.m with
    ring := some { base := BitVec.ofNat 64 (mailW s 1), entries := n, vector := BitVec.ofNat 64 (mailW s 3) }
    widx := 0, ridx := 0 }

/-! ### The summary (15 R380, R381) -/

/-- A section of entries of one size. -/
structure Section where
  type : Nat
  die : Option (Fin 16)
  size : Nat
  entries : List (List Byte)

/-- An entry whose layout inside its bytes is open (15 R381). -/
def openEntry (type size : Nat) (contents : List Nat) : List Byte := toBytes size (Config.summaryEntry type contents)

def flag (b : Bool) : Nat := if b then 1 else 0

/-- The cores of a die that run jobs, with the job. -/
def jobsOf (m : Module) (d : Fin 16) : List (Fin 128 × Job) :=
  (List.finRange 128).filterMap fun c => (m.core d c).job.map fun j => (c, j)

/-- A number for what a stream waits for. -/
def waitCode (w : Wait) : Nat :=
  match w with
  | .none => 0 | .atomic | .replied _ _ | .lost _ _ => 1 | .rdv => 2 | .gbar _ _ | .gbarDone _ | .gbarNext _ => 3
  | .waits _ _ _ | .woken _ => 4 | .waitb _ _ | .waitbDone _ _ | .waitbOvr _ | .waitbReset => 5
  | .lease | .leased => 6 | .tuple _ | .tupleDone _ _ | .tupleCancelled => 7 | .ecnc => 8 | .invm _ _ => 9

def statusCode (t : Status) : Nat :=
  match t with
  | .idle => 0 | .running => 1 | .held => 2 | .exited => 3 | .failed => 4

/-- Contexts (15 R381 type 0x01). -/
def ctxEntry (m : Module) (c : Fin 64) : List Nat :=
  let js := (List.finRange 16).flatMap fun d =>
    ((jobsOf m d).filter fun j => decide (j.2.ctx = c)).map fun j => (d, j.1)
  let gs := m.graphs.filter fun g => decide (g.ctx = c)
  [c.val, flag (ctxValid m c), ctxTuple m c, (ctxHome m c).val, js.length,
   (js.filter fun j => StreamName.all.any fun q => decide (((m.core j.1 j.2).stream q).status = .held)).length,
   (gs.flatMap fun g => g.nodes.map fun n => n.saved.length).sum, gs.length]

/-- Whether a bundle reads or writes a queue that it must wait for, or a constant that has still to arrive. -/
def waitsQueue (x : Core) (o : SlotOp) : Bool :=
  let pops := fun (q : Src) (u : Queue) => [o.a, o.b, o.c].contains q && u.entries.isEmpty
  let fills := fun (q : Dst) (u : Queue) => decide (o.dst = q) && decide (8 ≤ u.entries.length)
  pops .qlx x.qlx || pops .qxs x.qxs || fills .qlx x.qlx || fills .qxs x.qxs
def waitsConst (x : Core) (o : SlotOp) : Bool :=
  [o.a, o.b, o.c].any fun y => match y with
    | .k n => decide (n.val < x.nconst) && decide (x.kloaded ≤ n.val)
    | _ => false

/-- What a bundle that has issued waits for where no op of it has left a mark: a count of a buffer, a chain, room for a UIRQ, or
else the allowance of a window (09 R262, R266, R270, R287). -/
def issuedWait (b : Bundle) : Nat :=
  (b.ops.findSome? fun i => match i with
    | .cbwtConsumer _ | .cbwtProducer _ => some 16
    | .ecwt _ => some 17
    | .uirq _ => some 20
    | _ => none).getD 18

/-- What an op that does not issue yet waits for beside queues and constants: room for a chain or a pass, an action held against
the node, a bit held for a job that is out, bytes still to be delivered, a release (05 R164, 07 R207, R209, 09 R259, 11 R323,
R324). -/
def unissuedWait (s : State) (i : Instr) : Option Nat :=
  let rel := fun (wide : Bool) => if releaseWaits s.m s.cur wide then some 22 else none
  match i with
  | .echn o =>
    let k : Chain := { cls := echnClass (o.opx.val % 4), die := s.cur.die, core := some s.cur.core }
    let k := { k with inst := if k.cls = .zither then Fin.ofNat 8 (s.cur.die.val / 2)
                              else Fin.ofNat 8 (fld ((operandWords i s).1.toNat) 4 3) }
    if engineQueueCap (engineOf k) ≤ (engQueue s.m (engineOf k)).length then some 19 else rel true
  | .chn _ => if 8 ≤ (s.m.cluster s.cur.die (clusterOf s.cur.core)).passes.length then some 21 else rel true
  | .npre _ => if actionHeld s.m s.cur.die s.cur.core then some 23 else none
  | .join g => if bitOut s.m s.cur.die g.val s.cur.core then some 24 else none
  | .binv o =>
    let b := s.m.barrier s.cur.die (Fin.ofNat 256 (operandWords (.binv o) s).1.toNat)
    if b.pend ≠ 0 ∨ b.npend ≠ 0 then some 25 else none
  | .sdec _ | .sadd _ => rel true
  | .leave _ | .gbar _ | .barv _ | .cbpb _ | .cbrl _ | .tdep _ => rel false
  | _ => none

/-- What a stream that does not issue is blocked on beside its ops' waits: the pager, a parity error, a freeze, the fetch of its
bundle, a token FIFO, a queue, a constant, or what its ops have to find (type 0x02). -/
def blockedOn (m : Module) (w : Who) : Nat :=
  let c := m.core w.die w.core
  let x := c.stream w.stream
  if x.paged then 10
  else if x.parityAt.isSome then 11
  else if coreFrozen m w.die w.core then 26
  else if x.status ≠ .running ∨ x.wait ≠ .none ∨ x.cwait ≠ .none then 0
  else match x.fetch.find? (fun e => decide (e.1 = x.pc.toNat)) with
    | none => 12
    | some e => match decodeBundle e.2.toNat with
      | .error _ => 0
      | .ok b =>
        let os := b.ops.filterMap slotOpOf
        if x.issued.isSome then issuedWait b
        else if tokenTest c w.stream b = .unissued then 13
        else if os.any (waitsQueue c) then 14
        else if os.any (waitsConst c) then 15
        else (b.ops.findSome? (unissuedWait { m := m, cur := w })).getD 0

/-- A job (type 0x02). -/
def jobEntry (m : Module) (d : Fin 16) (c : Fin 128) (j : Job) : List Nat :=
  let x := m.core d c
  [c.val, j.ctx.val, j.graph.toNat, j.node.toNat, j.index.toNat] ++
    StreamName.all.flatMap (fun q =>
      let s := x.stream q
      [statusCode s.status, waitCode s.wait, waitCode s.cwait, blockedOn m ⟨d, c, q⟩, flag s.handler.isSome, s.trec.w0.toNat]) ++
    (coreChains d c).map (fun i => (m.chain i).state) ++
    [flag ((m.cluster d (clusterOf c)).lease.any fun l => decide (l.1 = c)), flag x.region.isSome]

/-- A graph instance (type 0x03). -/
def instEntry (i : Instance) : List Nat :=
  let n := fun (t : NodeRun → Bool) => (i.nodes.filter t).length
  [i.ctx.val, i.graph.toNat, i.tokens, n fun x => decide (x.st = .waiting) && x.saved.isEmpty,
   n fun x => decide (x.st = .waiting) && !x.saved.isEmpty, n fun x => !decide (x.st = .waiting), i.nnodes - i.nodes.length, flag i.reported]

/-- Signals that are waited for, by device address, with their waiters of each kind (type 0x05, 08 R238): WAITS; the host,
other devices and graph successors, which wait for no signal of this model. -/
def signalEntries (m : Module) (d : Fin 16) : List (List Nat) :=
  let ws := (Tbl.keys m.cores).flatMap fun k =>
    let x := m.core (Fin.ofNat 16 (k / 128)) (Fin.ofNat 128 k)
    StreamName.all.filterMap fun q => match (x.stream q).cwait with
      | .waits h pa dev => if h = d then some (pa, dev) else none
      | _ => none
  (ws.map Prod.snd).eraseDups.map fun dev =>
    let pa := ((ws.find? fun w => decide (w.2 = dev)).map Prod.fst).getD 0
    [dev.toNat, Memory.read m.phys pa 8, (ws.filter fun w => decide (w.2 = dev)).length, 0, 0, 0]

/-- A core's queues (type 0x06). -/
def queueEntry (m : Module) (d : Fin 16) (c : Fin 128) : List Nat :=
  let x := m.core d c
  let ring := fun (q : Queue) => match q.ring with
    | some r => [r.addr.toNat, r.quota, r.sizes.length]
    | none => [0, 0, 0]
  [c.val, x.qlx.entries.length, x.qxs.entries.length] ++ ring x.qlx ++ ring x.qxs

/-- A port (type 0x07). -/
def portEntry (m : Module) (q : Fin 72) : List Nat :=
  let p := m.port q
  [q.val, p.live.toNat, p.parked.toNat, p.lost.toNat] ++
    (List.range 4).map (fun k => flag (Tbl.get none p.keys k).isSome) ++
    [(p.peers.map fun e => e.2.replay.length).sum, (p.peers.filter fun e => e.2.down).length]

/-- A log of 16 entries. -/
def logWords (l : List W64) : List (List Byte) := (List.range 16).map fun k => toBytes 8 (l.getD k 0).toNat

/-- The sections of one type for every die. -/
def perDie (type size : Nat) (f : Fin 16 → List (List Byte)) : List Section :=
  (List.finRange 16).map fun d => { type := type, die := some d, size := size, entries := f d }

/-- Engine records of chains that have stopped or are held (type 0x09). -/
def engineRecords (m : Module) (d : Fin 16) : List (List Byte) :=
  m.chains.filterMap fun e =>
    if e.2.die = d ∧ (e.2.state = 4 ∨ e.2.held) then some e.2.record.bytes else none

/-- The counters of a die (type 0x0A). -/
def counterWords (c : Counters) : List (List Byte) :=
  [c.restores, c.freezeUnit, c.freezeCluster, c.freezeDie, c.crcRetries, c.lostEvents, c.lostTuples, c.pathsDown].map
    fun w => toBytes 8 w.toNat

def summary (m : Module) : List Section :=
  [{ type := 1, die := none, size := 32, entries := (List.finRange 64).map fun c => openEntry 1 32 (ctxEntry m c) }] ++
  perDie 2 64 (fun d => (jobsOf m d).map fun j => openEntry 2 64 (jobEntry m d j.1 j.2)) ++
  perDie 3 32 (fun d => (m.graphs.filter fun i => decide (i.home = d)).map fun i => openEntry 3 32 (instEntry i)) ++
  perDie 4 32 (fun d => (m.die d).reqs.filterMap fun e => e.2.map fun r =>
    openEntry 4 32 [e.1, r.ctx.val, r.rule, r.length.toNat,
      (match r.tree with
        | some (ns, _, _) => ns.length
        | none => 0), r.head.toNat]) ++
  perDie 5 32 (fun d => (signalEntries m d).map (openEntry 5 32)) ++
  perDie 6 32 (fun d => (jobsOf m d).map fun j => openEntry 6 32 (queueEntry m d j.1)) ++
  [{ type := 7, die := none, size := 32, entries := (List.finRange 72).map fun q => openEntry 7 32 (portEntry m q) }] ++
  perDie 8 8 (fun d => logWords (m.die d).alog ++ logWords (m.die d).blog ++ logWords (m.die d).klog) ++
  perDie 9 64 (engineRecords m) ++
  perDie 10 8 (fun d => counterWords (m.die d).counters) ++
  [{ type := 0xFF, die := none, size := 0, entries := [] }]

/-- A section as pieces that a cut leaves whole: its header, its entries (15 R380). -/
def Section.pieces (m : Module) (x : Section) : List (List Byte) :=
  let (d, stamp) := match x.die with
    | some d => (d.val, (m.die d).cyc.toNat)
    | none => (0xFF, 0)
  (toBytes 8 (x.type + d * 2 ^ 8 + x.size * 2 ^ 16 + x.entries.length * 2 ^ 32) ++ toBytes 8 stamp) :: x.entries

/-- As many whole pieces as a buffer holds, and whether all fit. -/
def fitPieces : Nat → List (List Byte) → List Byte × Bool
  | _, [] => ([], true)
  | n, p :: ps =>
    if p.length ≤ n then
      let (bs, ok) := fitPieces (n - p.length) ps
      (p ++ bs, ok)
    else ([], false)

/-- RESYNC (15 R380). -/
def execResync (s : State) : Out :=
  let (bs, ok) := fitPieces (mailW s 1) ((summary s.m).flatMap (Section.pieces s.m))
  answer s (if ok then 0 else 4) (hostWrite s.m (mailW s 2) bs)

end Sys2Proof.Machine
end

