-- ==== Sys2Proof/Machine/Stacked.lean ====
section
/-! DEFINITION. The stacked-memory path (15 R366 to R370), retired banks (14 R345, 15 R368) and scratchpad freezes
(15 R365). -/

namespace Sys2Proof.Machine

/-- A place on the stacked-memory path: die, stack, layer, bank, line within the bank. -/
structure LinePlace where
  die : Fin 16
  stack : Fin 2
  layer : Fin 16
  bank : Fin 32
  line : Nat
  deriving DecidableEq, Repr

/-- The bank that serves a physical address (14 R343): none when it is unbacked or its bank is gated. -/
def linePlace (m : Module) (pa : Nat) : Option LinePlace :=
  match stackedAt pa with
  | none => none
  | some (d, s, l, o) =>
    let d := Fin.ofNat 16 d
    match bankAt (m.die d) s l o with
    | none => none
    | some (b, bo) =>
      if bankGated (m.die d) s l b then none
      else some ⟨d, Fin.ofNat 2 s, Fin.ofNat 16 l, Fin.ofNat 32 b, bo / 64⟩

/-- The bus of a place (14 R343). -/
def LinePlace.bus (p : LinePlace) : Nat := p.bank.val % 8
def LinePlace.busKey (p : LinePlace) : Nat := p.stack.val * 8 + p.bus

def busOf (m : Module) (p : LinePlace) : Bus := Tbl.get {} (m.die p.die).buses p.busKey
def setBus (m : Module) (p : LinePlace) (b : Bus) : Module :=
  m.modDie p.die fun x => { x with buses := Tbl.set {} x.buses p.busKey b }

/-! ### Logs and events -/

/-- A vertical-bus log entry (15 R370). -/
def blogEntry (m : Module) (p : LinePlace) (kind wire spare retries : Nat) : Nat :=
  kind * 2 ^ 60 + p.stack.val * 2 ^ 59 + p.bus * 2 ^ 56 + wire * 2 ^ 46 + spare * 2 ^ 36 + retries * 2 ^ 34 +
    p.layer.val * 2 ^ 30 + p.bank.val * 2 ^ 25 + logStamp m p.die

def pushBlog (m : Module) (p : LinePlace) (e : Nat) : Module :=
  m.modDie p.die fun x => { x with blog := pushLog x.blog e }

/-- An array log entry of a place (15 R369). -/
def pushArray (m : Module) (p : LinePlace) (kind sym : Nat) : Module :=
  let e := kind * 2 ^ 60 + p.stack.val * 2 ^ 59 + p.layer.val * 2 ^ 55 + p.bank.val * 2 ^ 50 +
    fld p.line 0 21 * 2 ^ 29 + sym * 2 ^ 22 + logStamp m p.die
  m.modDie p.die fun x => { x with alog := pushLog x.alog e }

/-- Whether a bank is retired. -/
def bankRetired (x : Die) (s : Fin 2) (l : Fin 16) (b : Fin 32) : Bool :=
  x.retired.any fun r => decide (r.stack = s) && decide (r.layer = l) && decide (r.bank = b)

/-- Reasons of BANKRETIRE (15 R379). -/
def retireReason : RetireCause → Nat
  | .lasting => 0 | .bus => 1 | .heat => 2

/-- Retire a bank (14 R345, 15 R368). One retired for lasting corrections is gated when its bus or heat takes it too, and one
that heat has taken is lost when its bus retires before REMAP. -/
def retireBank (m : Module) (p : LinePlace) (c : RetireCause) : Module :=
  let x := m.die p.die
  let same := fun (r : RetiredBank) => decide (r.stack = p.stack) && decide (r.layer = p.layer) && decide (r.bank = p.bank)
  if x.retired.any (fun r => same r && (decide (r.cause = .bus) || decide (r.cause = c) || decide (c = .lasting) || r.remapped)) then m
  else
    let m := m.modDie p.die fun x => { x with
      retired := x.retired.filter (fun r => !same r) ++ [⟨p.stack, p.layer, p.bank, c, false⟩] }
    sendEvent (pushArray m { p with line := 0 } 5 127) (some p.die) (p.stack.val * 16 + p.layer.val) 5
      (p.bank.val + retireReason c * 2 ^ 8) 0

/-- The banks on the bus of a place, layer by layer. -/
def busBanks (p : LinePlace) : List LinePlace :=
  (List.finRange 16).flatMap fun l => ((List.finRange 32).filter fun b => decide (b.val % 8 = p.bus)).map fun b =>
    { p with layer := l, bank := b }

/-- The bus retires (15 R367 step 4, R368). -/
def retireBus (m : Module) (p : LinePlace) : Module :=
  let e := blogEntry m p 4 1023 1023 3
  let m := pushBlog (setBus m p { busOf m p with retired := true }) p e
  let m := sendEvent m (some p.die) p.busKey 4 e 0
  (busBanks p).foldl (fun m q => retireBank m q .bus) m

/-! ### Repair (15 R367) -/

/-- The free spares of a bus, lowest first (01 R13). -/
def freeSpares (b : Bus) : List Nat := ((List.range 32).map (· + 512)).filter fun s => !b.used.contains s

/-- Failing wires, each once, ascending. -/
def failing (ws : List (Fin 512)) : List Nat := (List.range 512).filter fun n => ws.any fun w => decide (w.val = n)

/-- The lanes of 4:1 both of whose wires fail. -/
def failingLanes (ws : List Nat) : List Nat := (List.range 256).filter fun k => ws.contains (2 * k) && ws.contains (2 * k + 1)

/-- Replace wires by spares, in order, and log each. -/
def swapWires (m : Module) (p : LinePlace) : List (Nat × Nat) → Module × Nat
  | [] => (m, 0)
  | (w, s) :: ws =>
    let e := blogEntry m p 2 w s 3
    let b := busOf m p
    let m := pushBlog (setBus m p { b with swaps := Tbl.set none b.swaps w (some s), used := b.used ++ [s] }) p e
    let (m, l) := swapWires m p ws
    (m, if ws.isEmpty then e else l)

/-- One repair: the module, and whether the bus still serves. -/
def repair (m : Module) (p : LinePlace) (found : List (Fin 512)) : Module × Bool :=
  let b := busOf m p
  let ws := failing found
  let free := freeSpares b
  if ws.isEmpty then (pushBlog m p (blogEntry m p 5 1023 1023 3), true)
  else if ws.length ≤ free.length then
    let (m, e) := swapWires m p (ws.zip free)
    (sendEvent m (some p.die) p.busKey 3 e 0, true)
  else
    let lanes := failingLanes ws
    if b.quarter ∨ free.length < lanes.length then (retireBus m p, false)
    else
      let e := blogEntry m p 3 1023 1023 3
      let pairs := (lanes.map (2 * ·)).zip free
      let b := { b with
        quarter := true, used := b.used ++ pairs.map Prod.snd
        swaps := pairs.foldl (fun t q => Tbl.set none t q.1 (some q.2)) b.swaps }
      (sendEvent (pushBlog (setBus m p b) p e) (some p.die) p.busKey 3 e 0, true)

/-- A transfer with at most three retries: whether one passed, the retries made, the outcomes left. -/
def transfers : Nat → List Bool → Bool × Nat × List Bool
  | _, [] => (true, 0, [])
  | _, true :: cs => (true, 0, cs)
  | 0, false :: cs => (false, 0, cs)
  | n + 1, false :: cs =>
    let (ok, k, cs) := transfers n cs
    (ok, k + 1, cs)

/-- The loop of 15 R366 with the repairs that are left: the module, and whether the line came through. -/
def cross (p : LinePlace) : Nat → List Bool → List (List (Fin 512)) → Module → Module × Bool
  | reps, cs, ws, m =>
    match transfers 3 cs with
    | (true, n, _) => (if n = 0 then m else pushBlog (countRetries m p.die n) p (blogEntry m p 1 1023 1023 n), true)
    | (false, n, cs) =>
      let m := countRetries m p.die n
      match reps with
      | 0 => (retireBus m p, false)
      | r + 1 =>
        match repair m p (ws.headD []) with
        | (m, false) => (m, false)
        | (m, true) => cross p r cs ws.tail m

/-! ### The requester -/

/-- The atomic request of a stream that a router holds. -/
def heldRequest (m : Module) (w : Who) : Option AtomReq :=
  m.atomsPending.find? fun q => q.members.any fun x => decide (x.who = w)

/-- Take a stream's request out of the routers. -/
def dropRequest (m : Module) (w : Who) : Module :=
  let drop := fun (q : AtomReq) => { q with members := q.members.filter fun x => !decide (x.who = w) }
  let keep := fun (l : List AtomReq) => (l.map drop).filter fun q => !q.members.isEmpty
  m.routers.foldl (fun m r => m.modRouter r fun x => { x with
    arriving := keep x.arriving, queue := (x.queue.map keep).filter (!·.isEmpty)
    sent := (x.sent.map keep).filter (!·.isEmpty) }) m

/-- A line's transfer fails with a trap code at its requester (15 R362, R366, R368). -/
def failLine (m : Module) (u : LineUser) (code : Nat) : Module :=
  match u with
  | .none => m
  | .fetch w =>
    let x := m.strm w
    if x.status = .running ∧ x.wait = .none ∧ x.cwait = .none then
      takeTrap m w { code := code, place := 6, addr := x.pc.setWidth 64 }
    else m
  | .atomic w =>
    match heldRequest m w with
    | some q => failAtomic (dropRequest m w) w { code := code, place := 5, addr := q.dev }
    | none => m
  | .chain c dev => if (m.chain c).state = 2 then stopChain m c code 0 dev.toNat 0 else m

/-! ### The events -/

/-- A lasting correction of a bank; four within 2^31 cycles retire it (15 R368). -/
def lastingError (m : Module) (p : LinePlace) : Module :=
  let id := p.stack.val * 512 + p.layer.val * 32 + p.bank.val
  let now := (m.die p.die).cyc
  let l := (id, now) :: (m.die p.die).lasting.filter fun e => decide ((now - e.2).toNat ≤ 2 ^ 31)
  let m := m.modDie p.die fun x => { x with lasting := l }
  if 4 ≤ (l.filter fun e => decide (e.1 = id)).length then retireBank m p .lasting else m

/-- STACKED_LINE_READ (15 R366). -/
def execStackedLineRead (addr : LocAddr) (f : LineFaults) (s : State) : Out :=
  .next (match linePlace s.m addr.toNat with
    | none => s
    | some p =>
      { s with m := match cross p 2 f.crc f.wires s.m with
          | (m, false) => failLine m f.user 0x10
          | (m, true) =>
            if poisoned m addr.toNat then failLine (pushArray m p 4 127) f.user 0x0F
            else match f.check with
              | .clean => m
              | .oneSymbol sym false => pushArray m p 1 sym.val
              | .oneSymbol sym true => lastingError (pushArray m p 2 sym.val) p
              | .uncorrectable =>
                failLine { pushArray m p 3 127 with poison := (addr.toNat / 64) :: m.poison } f.user 0x0F })

/-- STACKED_LINE_WRITE (15 R366): a whole line ends its poison (15 R365). -/
def execStackedLineWrite (addr : LocAddr) (data : Line) (f : LineFaults) (s : State) : Out :=
  .next (match linePlace s.m addr.toNat with
    | none => s
    | some p =>
      { s with m := match cross p 2 f.crc f.wires s.m with
          | (m, false) => failLine m f.user 0x10
          | (m, true) => writeLoc m (.phys (addr.toNat / 64 * 64)) (toBytes 64 data.toNat) })

/-- BANK_RETIRED_BY_HEAT (14 R345). -/
def execBankRetiredByHeat (die : Fin 16) (stack : Fin 2) (layer : Fin 16) (bank : Fin 32) (s : State) : Out :=
  .next { s with m := retireBank s.m ⟨die, stack, layer, bank, 0⟩ .heat }

/-- The die of a domain, and the cycles of its freeze (15 R365). -/
def freezeDie : FreezeDomain → Fin 16
  | .unit d _ | .cluster d _ | .slice d _ => d
def freezeCycles : FreezeDomain → Nat
  | .unit _ _ => 24
  | .cluster _ _ | .slice _ _ => 40

/-- Count a freeze at its level (15 R381). -/
def countFreeze (d : FreezeDomain) (c : Counters) : Counters :=
  match d with
  | .unit _ _ => { c with freezeUnit := c.freezeUnit + 1 }
  | .cluster _ _ => { c with freezeCluster := c.freezeCluster + 1 }
  | .slice _ _ => { c with freezeDie := c.freezeDie + 1 }

/-- One more lasting error of a line (15 R372). -/
def countLine (k : FreezeDomain × Nat) : List ((FreezeDomain × Nat) × Nat) → List ((FreezeDomain × Nat) × Nat)
  | [] => [(k, 1)]
  | e :: es => if e.1 = k then (k, e.2 + 1) :: es else e :: countLine k es

/-- SCRATCHPAD_FREEZE (15 R365, R372): freezes of one domain run one after another, each counted at its level, and a lasting
error at its line. -/
def execScratchpadFreeze (e : ScratchpadError) (s : State) : Out :=
  let d := e.domain
  let x := s.m.die (freezeDie d)
  let from_ := match (x.freezes.filter fun f => decide (f.1 = d)).getLast? with
    | some f => if x.cyc - f.2 < 2 ^ 63 then x.cyc else f.2
    | none => x.cyc
  .next { s with m := s.m.modDie (freezeDie d) fun x => { x with
    freezes := x.freezes ++ [(d, from_ + BitVec.ofNat 64 (freezeCycles d))], counters := countFreeze d x.counters
    scratchErrors := match e.lasting with
      | some l => countLine (d, l) x.scratchErrors
      | none => x.scratchErrors } }

/-- FREEZE_EXPIRE (15 R365). -/
def execFreezeExpire (d : FreezeDomain) (s : State) : Out :=
  let x := s.m.die (freezeDie d)
  .next (match x.freezes.find? fun f => decide (f.1 = d) with
    | some f =>
      if x.cyc - f.2 < 2 ^ 63 then
        { s with m := s.m.modDie (freezeDie d) fun x => { x with freezes := x.freezes.erase f } }
      else s
    | none => s)

end Sys2Proof.Machine
end

