-- ==== Sys2Proof/Machine/MaskOps.lean ====
section
/-! DEFINITION. The M ops: compares, masks, reductions and scans (03 R98 to R101), rearranging (04 R113 to R126). -/

namespace Sys2Proof.Machine

/-- A tile-form op of slot 2 that builds a list of elements from its state. -/
def mTile (i : Instr) (o : SlotOp) (t : Ty) (pred : Nat) (f : State → Except Stop (List Nat × Flags × State))
    (s : State) : Out :=
  slot i s (if tooBig s t then trapAt 4 1 else do
    let (es, fl, s) ← f s
    let s ← writeTile 4 t o.dst pred es s
    .ok (addFlags fl s))

/-- Every element of the shape is written. -/
def allTrue : Nat := 2 ^ 4096 - 1

/-- A compare, into a mask or, in scalar form, into a scalar (R113). -/
def cmpOp (i : Instr) (o : SlotOp) (f : Nat → Nat → Bool × Flags) (s : State) : Out :=
  slot i s (do
    let t := o.ty
    if isScalar i o then
      let (a, s) ← fetch s 4 t o.a
      let (b, s) ← fetch s 4 t o.b
      let r := f (a.elem t 0) (b.elem t 0)
      .ok (addFlags r.2 (setScal o.dst (if r.1 then 1 else 0) s))
    else if tooBig s t then trapAt 4 1
    else
      let (a, s) ← fetch s 4 t o.a
      let (b, s) ← fetch s 4 t o.b
      let pred := predOf s o
      let rs := (indices s).map fun i => f (a.elem t i) (b.elem t i)
      let fl := predFlags pred (rs.map fun r => (0, r.2))
      .ok (addFlags fl (writeMask o.dst pred (rs.map Prod.fst) s)))

/-- ICMP's condition (R113). -/
def icmpB (t : Ty) (cond a b : Nat) : Bool :=
  let x := valI t a
  let y := valI t b
  match cond with
  | 0 => decide (x = y)
  | 1 => decide (x ≠ y)
  | 2 => decide (x < y)
  | 3 => decide (x ≤ y)
  | 4 => decide (y < x)
  | _ => decide (y ≤ x)

/-- A mask op (R115). -/
def maskOp (i : Instr) (o : SlotOp) (f : Bool → Bool → Bool) (s : State) : Out :=
  slot i s (do
    let (a, s) ← fetch s 4 .i8 o.a
    let (b, s) ← fetch s 4 .i8 o.b
    .ok (writeMask o.dst (predOf s o)
      ((indices s).map fun i => f (decide (a.elem .i8 i = 1)) (decide (b.elem .i8 i = 1))) s))

/-- The sequences of a direction as linear indices (03 R98): rows, columns, or the whole tile. -/
def sequences (rows cols dir : Nat) : List (List Nat) :=
  match dir with
  | 0 => (List.range rows).map fun i => (List.range cols).map fun j => i * cols + j
  | 1 => (List.range cols).map fun j => (List.range rows).map fun i => i * cols + j
  | _ => [List.range (rows * cols)]

/-- Which sequence an element belongs to, and its place in it. -/
def seqOf (cols dir e : Nat) : Nat × Nat :=
  match dir with
  | 0 => (e / cols, e % cols)
  | 1 => (e % cols, e / cols)
  | _ => (0, e)

/-- The largest power of two below `n`, for `n` of 2 or more (03 R99). -/
def halfPow (n : Nat) : Nat := 2 ^ Nat.log2 (n - 1)

/-- The sum of two f32 patterns, none standing for an element that takes part as −0: x + (−0) is x in every rounding mode
(03 R98; log 78). -/
def addPart (mode : Nat) : Option Nat → Option Nat → Option Nat × Flags
  | some x, some y => let r := faddB .f32 mode x y; (some r.1, r.2)
  | some x, none => (some x, 0)
  | none, y => (y, 0)

/-- P(0, n) of 03 R99, with the flags of every add. -/
def sumParts (mode : Nat) : Nat → List (Option Nat) → Option Nat × Flags
  | 0, xs => (xs.getD 0 none, 0)
  | fuel + 1, xs =>
    if xs.length ≤ 1 then (xs.getD 0 none, 0)
    else
      let h := halfPow xs.length
      let a := sumParts mode fuel (xs.take h)
      let b := sumParts mode fuel (xs.drop h)
      let r := addPart mode a.1 b.1
      (r.1, a.2 ||| b.2 ||| r.2)

/-- The pattern of a sum: −0 when no element takes part. -/
def partBits (x : Option Nat) : Nat := x.getD 0x80000000

/-- P(0, n) over f32 patterns that all take part. -/
def sumTree (mode n : Nat) (xs : List Nat) : Nat × Flags :=
  let r := sumParts mode n (xs.map some)
  (partBits r.1, r.2)

/-- An element widened exactly to f32, a NaN made canonical (03 R80, R99). -/
def widen32 (t : Ty) (x : Nat) : Nat × Flags := cvtB (fmtOf t) .f32 0 x

/-- A float reduction of (takes part, pattern) pairs (03 R98, R99): squares for RSQS. -/
def floatSum (t : Ty) (mode : Nat) (sq : Bool) (xs : List (Bool × Nat)) : Nat × Flags :=
  let leaf := fun (e : Bool × Nat) =>
    if !e.1 then ((none : Option Nat), (0 : Flags))
    else
      let w := widen32 t e.2
      if sq then
        let r := fmulB .f32 mode w.1 w.1
        (some r.1, w.2 ||| r.2)
      else (some w.1, w.2)
  let ls := xs.map leaf
  let r := sumParts mode ls.length (ls.map Prod.fst)
  let fl := orFlags (ls.map Prod.snd) ||| r.2
  let w := partBits r.1
  if t = .f32 then (w, fl)
  else
    let q := cvtB .f32 (fmtOf t) mode w
    (q.1, fl ||| q.2)

/-- An integer reduction, exact (03 R100). -/
def intSum (t : Ty) (sq : Bool) (xs : List (Bool × Nat)) : Int :=
  xs.foldl (fun acc e => if e.1 then acc + (let v := valI t e.2; if sq then v * v else v) else acc) 0

/-- A reduction's result in `w` bits. -/
def sumOf (t : Ty) (mode w : Nat) (sq : Bool) (xs : List (Bool × Nat)) : Nat × Flags :=
  if tyFloat t then floatSum t mode sq xs else (wrapN w (intSum t sq xs), 0)

/-- Whether `a` is below `b` as RMAX orders them (R118). -/
def below (t : Ty) (a b : Nat) : Bool :=
  if tyFloat t then ltV true (unpack (fmtOf t) a) (unpack (fmtOf t) b) else decide (valI t a < valI t b)

def isNanT (t : Ty) (x : Nat) : Bool := tyFloat t && (unpack (fmtOf t) x).isNan
def isSnanT (t : Ty) (x : Nat) : Bool := tyFloat t && (unpack (fmtOf t) x).isSnan

/-- NV for a signalling NaN among the elements that take part. -/
def snanFlags (t : Ty) (xs : List (Bool × Nat)) : Flags :=
  if xs.any (fun e => e.1 && isSnanT t e.2) then fNV else 0

/-- RMAX, RMIN and RMXA of a sequence (R118): `kind` 0, 1 and 2. -/
def extreme (t : Ty) (kind : Nat) (xs : List (Bool × Nat)) : Nat × Flags :=
  let f := fmtOf t
  let part := xs.filter Prod.fst
  let mag := fun (x : Nat) => if kind = 2 then fld x 0 (f.ebits + f.fbits) else x
  let vs := (part.filter fun e => !isNanT t e.2).map fun e => mag e.2
  let fl := snanFlags t xs
  match vs with
  | [] =>
    if part.isEmpty then
      (match kind with
       | 0 => if tyFloat t then f.inf true else toW t (loI t)
       | 1 => if tyFloat t then f.inf false else toW t (hiI t)
       | _ => 0, fl)
    else (f.qnan, fl)
  | v :: vs =>
    (vs.foldl (fun b x => if (if kind = 1 then below t x b else below t b x) then x else b) v, fl)

/-- The position of the largest (R120), or -1. -/
def argMax (t : Ty) (xs : List (Bool × Nat)) : Int × Flags :=
  let cand := ((List.range xs.length).zip xs).filter fun e => e.2.1 && !isNanT t e.2.2
  (match cand with
   | [] => -1
   | c :: cs => ((cs.foldl (fun b x => if below t b.2.2 x.2.2 then x else b) c).1 : Int), snanFlags t xs)

/-- The source tile of a reduction as (takes part, pattern) by linear index. -/
def redSource (o : SlotOp) (s : State) : Except Stop (List (Bool × Nat) × State) :=
  (fetch s 4 o.ty o.a).map fun v =>
    ((indices s).map fun i => (bitAt (predOf s o) i, v.1.elem o.ty i), v.2)

/-- A reduction: its value for a sequence at a width, to a tile, a queue or a scalar (R116). `f` takes the
destination width. -/
def redOp (i : Instr) (o : SlotOp) (f : Nat → List (Bool × Nat) → Nat × Flags) (ext : Nat → Nat) (s : State) : Out :=
  slot i s (if tooBig s o.ty then trapAt 4 1 else do
    let (xs, s) ← redSource o s
    let dir := o.opx.val
    let w := if o.dst.scal then 64 else tyBits o.ty
    let rs := (sequences (rowsOf s) (colsOf s) dir).map fun q => f w (q.map fun e => xs.getD e (false, 0))
    let fl := orFlags (rs.map Prod.snd)
    if o.dst.scal then .ok (addFlags fl (setScal o.dst (ext (rs.getD 0 (0, 0)).1) s))
    else
      let es := (indices s).map fun e => (rs.getD (seqOf (colsOf s) dir e).1 (0, 0)).1
      let s ← writeTile 4 o.ty o.dst allTrue es s
      .ok (addFlags fl s))

/-- The scale byte that RMXA .blk forms from a block (R119). -/
def blockScale (t : Ty) (fmt : Nat) (xs : List Nat) : Nat :=
  let vs := xs.map (unpack (fmtOf t))
  let vmax : Dy := match fmt with
    | 0 => ⟨15, -1⟩ | 1 => ⟨6, 0⟩ | 2 => ⟨8, 0⟩ | 3 => ⟨12, 0⟩ | 4 => ⟨127, 0⟩ | _ => ⟨255, -5⟩
  let emax := if fmt = 3 then 62 else 63
  if vs.any (fun v => v.isNan || v.isInf) then 0xFF
  else
    let big := vs.foldl (fun (b : Dy) v =>
      let m : Dy := ⟨(v.dy.m.natAbs : Int), v.dy.e⟩
      if Dy.lt b m then m else b) Dy.zero
    let e := ((List.range emax).find? fun (e : Nat) => Dy.le big ⟨vmax.m, vmax.e + (e : Int) - 32⟩).getD emax
    (if fmt < 4 then fmt else 0) * 64 + e

/-- Insert a candidate of TOPK after the larger and the earlier equal ones (R121). -/
def topInsert (t : Ty) (x : Nat × Nat) : List (Nat × Nat) → List (Nat × Nat)
  | [] => [x]
  | y :: ys => if below t y.2 x.2 then x :: y :: ys else y :: topInsert t x ys

/-- The k largest of a row, as (value, index) patterns (R121). -/
def topRow (t : Ty) (k : Nat) (xs : List (Bool × Nat)) : List (Nat × Nat) :=
  let cand := (((List.range xs.length).zip xs).filter fun e => e.2.1 && !isNanT t e.2.2).map fun e => (e.1, e.2.2)
  let sorted := cand.foldl (fun acc x => topInsert t x acc) []
  let fill := (if tyFloat t then (fmtOf t).inf true else toW t (loI t), toW t (-1))
  (List.range k).map fun j => match sorted[j]? with
    | some e => (e.2, e.1)
    | none => fill

/-- IOTA's element (R126). -/
def iotaElem (t : Ty) (mode start step idx : Nat) : Nat × Flags :=
  if tyFloat t then
    let f := fmtOf t
    let n : FVal := if idx = 0 then .zero false else .fin ⟨idx, 0⟩
    fmaV f mode n (unpack f step) (unpack f start)
  else (toW t (valI t start + idx * valI t step), 0)

/-- ICMP (R113). -/
def execIcmp (o : SlotOp) (s : State) : Out :=
  cmpOp (.icmp o) o (fun a b => (icmpB o.ty o.opx.val a b, 0)) s

/-- FCMP (R113). -/
def execFcmp (o : SlotOp) (s : State) : Out :=
  cmpOp (.fcmp o) o (fun a b => fcmpB (fmtOf o.ty) o.opx.val a b) s

/-- SEL (R114). -/
def execSel (o : SlotOp) (s : State) : Out :=
  mTile (.sel o) o o.ty (predOf s o) (fun s => do
    let (a, s) ← fetch s 4 o.ty o.a
    let (b, s) ← fetch s 4 o.ty o.b
    let (c, s) ← fetch s 4 .i8 o.c
    .ok ((indices s).map fun i => if c.elem .i8 i = 1 then a.elem o.ty i else b.elem o.ty i, 0, s)) s

/-- PAND (R115). -/
def execPand (o : SlotOp) (s : State) : Out :=
  maskOp (.pand o) o (fun a b => a && b) s

/-- POR (R115). -/
def execPor (o : SlotOp) (s : State) : Out :=
  maskOp (.por o) o (fun a b => a || b) s

/-- PXOR (R115). -/
def execPxor (o : SlotOp) (s : State) : Out :=
  maskOp (.pxor o) o (fun a b => a != b) s

/-- PNOT (R115). -/
def execPnot (o : SlotOp) (s : State) : Out :=
  maskOp (.pnot o) o (fun a _ => !a) s

/-- PCNT (R115). -/
def execPcnt (o : SlotOp) (s : State) : Out :=
  slot (.pcnt o) s (do
    let (a, s) ← fetch s 4 .i8 o.a
    .ok (setScal o.dst ((indices s).countP fun i => decide (a.elem .i8 i = 1)) s))

/-- RSUM (R117). -/
def execRsum (o : SlotOp) (s : State) : Out :=
  redOp (.rsum o) o (fun w xs => sumOf o.ty (rmodeOf s) w false xs) id s

/-- RSQS (R117). -/
def execRsqs (o : SlotOp) (s : State) : Out :=
  redOp (.rsqs o) o (fun w xs => sumOf o.ty (rmodeOf s) w true xs) id s

/-- RMAX (R118). -/
def execRmax (o : SlotOp) (s : State) : Out :=
  redOp (.rmax o) o (fun _ xs => extreme o.ty 0 xs) (ext64 o.ty) s

/-- RMIN (R118). -/
def execRmin (o : SlotOp) (s : State) : Out :=
  redOp (.rmin o) o (fun _ xs => extreme o.ty 1 xs) (ext64 o.ty) s

/-- RMXA (R118). -/
def execRmxa (o : SlotOp) (s : State) : Out :=
  redOp (.rmxa o) o (fun _ xs => extreme o.ty 2 xs) (ext64 o.ty) s

/-- RMXA .blk: the scale bytes enter the bypass (R119). -/
def execRmxaBlk (o : SlotOp) (s : State) : Out :=
  slot (.rmxaBlk o) s (do
    if tooBig s o.ty || !(colsOf s == 32 || colsOf s == 64) then trapAt 4 1
    else
      let fmt := match o.b with
        | .lit w => w.toNat
        | _ => 0
      let (a, s) ← fetch s 4 o.ty o.a
      let sbs := (List.range (elemsOf s / 32)).map fun b =>
        blockScale o.ty fmt ((List.range 32).map fun j => a.elem o.ty (32 * b + j))
      let s := { s with bnd := { s.bnd with scales := some { format := fmt, sbs := sbs.map (BitVec.ofNat 8) } } }
      writeTile 4 .n8 o.dst allTrue sbs s)

/-- RSCN: every prefix reduced alone (03 R101). -/
def execRscn (o : SlotOp) (s : State) : Out :=
  mTile (.rscn o) o o.ty allTrue (fun s => do
    let (xs, s) ← redSource o s
    let dir := o.opx.val
    let sq := sequences (rowsOf s) (colsOf s) dir
    let rs := (indices s).map fun e =>
      let p := seqOf (colsOf s) dir e
      sumOf o.ty (rmodeOf s) (tyBits o.ty) false
        (((sq.getD p.1 []).take (p.2 + 1)).map fun e => xs.getD e (false, 0))
    .ok (rs.map Prod.fst, orFlags (rs.map Prod.snd), s)) s

/-- ARGM (R120). -/
def execArgm (o : SlotOp) (s : State) : Out :=
  redOp (.argm o) o (fun w xs => let r := argMax o.ty xs; (wrapN w r.1, r.2)) id s

/-- TOPK: values into an even register and indices into the next (R121). -/
def execTopk (o : SlotOp) (s : State) : Out :=
  slot (.topk o) s (if tooBig s o.ty then trapAt 4 1 else do
    let (xs, s) ← redSource o s
    let kb ← fetch64 s 4 o.b
    let cols := colsOf s
    let k := min cols (max 1 (kb % 2 ^ 32))
    let rows := (List.range (rowsOf s)).map fun i =>
      topRow o.ty k ((List.range cols).map fun j => xs.getD (i * cols + j) (false, 0))
    let at_ := fun (e : Nat) => (rows.getD (e / cols) []).getD (e % cols) (0, 0)
    let keep := packBits 1 ((indices s).map fun e => if e % cols < k then 1 else 0)
    let s ← writeTile 4 o.ty o.dst keep ((indices s).map fun e => (at_ e).1) s
    let d2 : Dst := match o.dst with
      | .v n => .v (Fin.ofNat 32 (n.val + 1))
      | d => d
    let s ← writeTile 4 o.ty d2 keep ((indices s).map fun e => (at_ e).2) s
    .ok (addFlags (snanFlags o.ty xs) s))

/-- TRNS (R122). -/
def execTrns (o : SlotOp) (s : State) : Out :=
  mTile (.trns o) o o.ty allTrue (fun s => do
    let (a, s) ← fetch s 4 o.ty o.a
    .ok ((indices s).map fun t => a.elem o.ty (t % rowsOf s * colsOf s + t / rowsOf s), 0, s)) s

/-- BCST (R123). -/
def execBcst (o : SlotOp) (s : State) : Out :=
  mTile (.bcst o) o o.ty (predOf s o) (fun s => do
    let (a, s) ← fetch s 4 o.ty o.a
    let n ← fetch64 s 4 o.b
    let c := colsOf s
    .ok ((indices s).map fun e =>
      a.elem o.ty (if o.opx = 0 then n % rowsOf s * c + e % c else e / c * c + n % c), 0, s)) s

/-- SHUF (R124). -/
def execShuf (o : SlotOp) (s : State) : Out :=
  mTile (.shuf o) o o.ty (predOf s o) (fun s => do
    let (a, s) ← fetch s 4 o.ty o.a
    let (x, s) ← fetch s 4 o.ty o.b
    let c := colsOf s
    .ok ((indices s).map fun e =>
      let k := x.elem o.ty e
      a.elem o.ty (if o.opx = 0 then e / c * c + k % c else k % elemsOf s), 0, s)) s

/-- VEXT (R125). -/
def execVext (o : SlotOp) (s : State) : Out :=
  slot (.vext o) s (if tooBig s o.ty then trapAt 4 1 else do
    let (a, s) ← fetch s 4 o.ty o.a
    let n ← fetch64 s 4 o.b
    .ok (setScal o.dst (ext64 o.ty (a.elem o.ty (n % elemsOf s))) s))

/-- VINS (R125). -/
def execVins (o : SlotOp) (s : State) : Out :=
  mTile (.vins o) o o.ty (predOf s o) (fun s => do
    let (a, s) ← fetch s 4 o.ty o.a
    let (v, s) ← fetch s 4 o.ty o.b
    let n ← fetch64 s 4 o.c
    .ok ((indices s).map fun e => if e = n % elemsOf s then v.elem o.ty 0 else a.elem o.ty e, 0, s)) s

/-- IOTA (R126). -/
def execIota (o : SlotOp) (s : State) : Out :=
  slot (.iota o) s (if tooBig s o.ty then trapAt 4 1 else do
    let (a, s) ← fetch s 4 o.ty o.a
    let (b, s) ← fetch s 4 o.ty o.b
    let pred := predOf s o
    let rs := (indices s).map fun e =>
      let idx := match o.opx.val with
        | 0 => e
        | 1 => e / colsOf s
        | _ => e % colsOf s
      iotaElem o.ty (rmodeOf s) (a.elem o.ty 0) (b.elem o.ty 0) idx
    let s ← writeTile 4 o.ty o.dst pred (rs.map Prod.fst) s
    .ok (addFlags (predFlags pred rs) s))

end Sys2Proof.Machine
end

