-- ==== Sys2Proof/Machine/Special.lean ====
section
/-! DEFINITION. The special functions, softmax and their series (05 R154, R155, R160, R161). A result is any float
within the bound of the table: the implementation's choice is a free value (log 12). Values are computed to
hundreds of bits, so that the bound is decided exactly. -/

namespace Sys2Proof.Machine

/-! ### Values to 512 bits and more -/

/-- ln 2 at 2^512, 1/√(2π) at 2^512, 2π at 2^704, rounded down. -/
def ln2Fix : Int := 0xb17217f7d1cf79abc9e3b39803f2f6af40f343267298b62d8a0d175b8baafa2be7b876206debac98559552fb4afa1b10ed2eae35c138214427573b291169b825
def isqrt2piFix : Int := 0x662114cf50d942343f2cf1402eae38bfd3829f30512706d8c0471b4802639d2e9df8ac55447d3db723f5d3abb374e88deb14277970be1513278e993445f08cff
def twoPiFix : Int := 0x6487ed5110b4611a62633145c06e0e68948127044533e63a0105df531d89cd9128a5043cc71a026ef7ca8cd9e69d218d98158536f92f8a1ba7f09ab6b6a8e122f242dabb312f3f637a262174d31bf6b585ffae5b7a035bf6e

/-- 1 at 2^512. -/
def oneFix : Int := (2 ^ 512 : Nat)

/-- A dyadic value at 2^p. -/
def Dy.fix (p : Nat) (v : Dy) : Int :=
  let e := v.e + p
  if 0 ≤ e then v.m * (2 ^ e.toNat : Nat) else v.m / (2 ^ (-e).toNat : Nat)

/-- A quotient of dyadic values to 600 bits. -/
def Dy.quot (a b : Dy) : Dy := ⟨a.m * (2 ^ 600 : Nat) / b.m, a.e - b.e - 600⟩

/-- Σ r^n / n! of a value at 2^512. -/
def expSum (r : Int) : Int :=
  ((List.range 110).foldl (fun (a : Int × Int) (i : Nat) =>
    let t := a.1 * r / oneFix / ((i : Int) + 1)
    (t, a.2 + t)) (oneFix, oneFix)).2

/-- e^v: beyond 200 either way a value that every format overflows or underflows at. -/
def expDy (v : Dy) : Dy :=
  if Dy.lt ⟨200, 0⟩ v then ⟨1, 300⟩
  else if Dy.lt v ⟨-200, 0⟩ then ⟨1, -300⟩
  else
    let x := v.fix 512
    let k := x / ln2Fix
    ⟨expSum (x - k * ln2Fix), k - 512⟩

/-- 2^v. -/
def exp2Dy (v : Dy) : Dy :=
  if Dy.lt ⟨200, 0⟩ v then ⟨1, 300⟩
  else if Dy.lt v ⟨-200, 0⟩ then ⟨1, -300⟩
  else
    let x := v.fix 512
    let k := x / oneFix
    ⟨expSum ((x - k * oneFix) * ln2Fix / oneFix), k - 512⟩

/-- ln v at 2^512 of a positive v, by the series of the inverse hyperbolic tangent. -/
def lnFix (v : Dy) : Int :=
  let l := Nat.log2 v.m.natAbs
  let y := v.m * (2 ^ (512 - l) : Nat)
  let t := (y - oneFix) * oneFix / (y + oneFix)
  let q := t * t / oneFix
  let s := ((List.range 170).foldl (fun (a : Int × Int) (i : Nat) =>
    (a.1 * q / oneFix, a.2 + a.1 / (2 * (i : Int) + 1))) (t, 0)).2
  ((l : Int) + v.e) * ln2Fix + 2 * s

/-- tanh v. -/
def tanhDy (v : Dy) : Dy :=
  let x : Dy := ⟨v.m.natAbs, v.e⟩
  let t := (expDy ⟨-2 * x.m, x.e⟩).fix 512
  let r := (oneFix - t) * oneFix / (oneFix + t)
  ⟨if v.m < 0 then -r else r, -512⟩

/-- 1 ÷ (1 + e^−v). -/
def sigDy (v : Dy) : Dy :=
  let t := expDy ⟨-(v.m.natAbs : Int), v.e⟩
  let d : Dy := ⟨oneFix + t.fix 512, -512⟩
  if v.m < 0 then Dy.quot t d else Dy.quot ⟨1, 0⟩ d

/-- Φ(v), the standard normal distribution function. -/
def phiDy (v : Dy) : Dy :=
  if Dy.lt ⟨16, 0⟩ v then ⟨(2 ^ 400 : Nat) - 1, -400⟩
  else if Dy.lt v ⟨-16, 0⟩ then ⟨1, -300⟩
  else
    let x := (Dy.fix 512 ⟨v.m.natAbs, v.e⟩)
    let q := x * x / oneFix
    let s := ((List.range 700).foldl (fun (a : Int × Int) (i : Nat) =>
      (a.1 * q / oneFix / (2 * (i : Int) + 3), a.2 + a.1)) (x, 0)).2
    let d := (expDy ⟨-q, -513⟩).fix 800 * isqrt2piFix / oneFix
    let h := s * d / (2 ^ 800 : Nat)
    ⟨if v.m < 0 then oneFix / 2 - h else oneFix / 2 + h, -512⟩

/-- Σ of the odd or even terms of sin or cos of a value at 2^704 below 2π. -/
def trigSum (r : Int) (odd : Bool) : Int :=
  let one : Int := (2 ^ 704 : Nat)
  let q := r * r / one
  let o : Int := if odd then 1 else 0
  ((List.range 110).foldl (fun (a : Int × Int) (i : Nat) =>
    let n := 2 * (i : Int) + o
    (-(a.1 * q / one / ((n + 1) * (n + 2))), a.2 + a.1)) (if odd then r else one, 0)).2

/-- sin v and cos v, with the argument reduced exactly. -/
def sinDy (v : Dy) : Dy :=
  let r := Dy.fix 704 ⟨v.m.natAbs, v.e⟩ % twoPiFix
  let s := trigSum r true
  ⟨if v.m < 0 then -s else s, -704⟩
def cosDy (v : Dy) : Dy := ⟨trigSum (Dy.fix 704 ⟨v.m.natAbs, v.e⟩ % twoPiFix) false, -704⟩

/-- 1 ÷ √v of a positive v, with whether it is exact. -/
def rsqDy (v : Dy) : Dy × Bool :=
  let w : Dy := if v.e % 2 = 0 then v else ⟨2 * v.m, v.e - 1⟩
  let n := w.m.natAbs
  let l := Nat.log2 n
  if n = 2 ^ l ∧ l % 2 = 0 then (⟨1, -((l : Int) / 2) - w.e / 2⟩, true)
  else (⟨sqrtN (2 ^ 600 / n) 301 0, -300 - w.e / 2⟩, false)

/-! ### The bound -/

/-- A float's place in the order of all floats of its format; the infinity stands after the largest. -/
def floatKey (f : FFmt) (w : Nat) : Int :=
  let mag := fld w 0 (f.ebits + f.fbits)
  if bitAt w (f.ebits + f.fbits) then -(mag : Int) else mag

/-- First and last place within a distance of a value. -/
def boundKeys (f : FFmt) (v b : Dy) : Int × Int :=
  let lo := Dy.sub v b
  let hi := Dy.add v b
  let big : Dy := ⟨1, (f.bias : Int) + 1⟩
  (if lo.m = 0 then 0 else floatKey f (rndMag f 2 (decide (lo.m < 0)) lo.m.natAbs 1 lo.e).1,
   if Dy.le big hi then floatKey f (f.inf false)
   else if hi.m = 0 then 0 else floatKey f (rndMag f 3 (decide (hi.m < 0)) hi.m.natAbs 1 hi.e).1)

/-- One unit in the last place of a format at a value. -/
def ulpAt (f : FFmt) (v : Dy) : Dy :=
  let ex := (Nat.log2 v.m.natAbs : Int) + v.e
  ⟨1, (if ex < f.emin then f.emin else ex) - f.fbits⟩

/-- The larger of a count of units and, where there is one, an absolute bound. -/
def boundOf (f : FFmt) (v : Dy) (n : Nat) (abs : Option Dy) : Dy :=
  let u := ulpAt f v
  let b : Dy := ⟨n, u.e⟩
  match abs with
  | some a => if Dy.lt b a then a else b
  | none => b

/-- The float at a place, for a value: zero takes the value's sign, a place beyond the largest float overflows
(03 R81). NX when it differs from the value, UF when it is also below the normal range. -/
def atKey (f : FFmt) (mode : Nat) (v : Dy) (exact : Bool) (k : Int) : Nat × Flags :=
  let neg := if k = 0 then decide (v.m < 0) else decide (k < 0)
  if ((2 ^ f.ebits - 1) * 2 ^ f.fbits : Nat) ≤ k.natAbs then rndMag f mode neg 1 1 ((f.bias : Int) + 1)
  else
    let w := f.signBit neg + k.natAbs
    if exact && Dy.eq (unpack f w).dy v then (w, 0)
    else (w, if k.natAbs < 2 ^ f.fbits then fUF ||| fNX else fNX)

/-- A float within `n` units of a value: the one the implementation chooses. -/
def bounded (f : FFmt) (mode : Nat) (v : Dy) (exact : Bool) (n : Nat) (abs : Option Dy) (choice : Nat) :
    Nat × Flags :=
  let (lo, hi) := boundKeys f v (boundOf f v n abs)
  atKey f mode v exact (lo + ((choice % ((hi - lo).toNat + 1) : Nat) : Int))

/-! ### The functions of R154 -/

/-- The special functions, with Φ of FGLU's series. -/
inductive SpecFn where
  | exp | exp2 | log | log2 | rcp | sqt | rsq | tnh | sig | glu | sin | cos | phi
  deriving DecidableEq, Repr

def SpecFn.code : SpecFn → Nat
  | .exp => 0 | .exp2 => 1 | .log => 2 | .log2 => 3 | .rcp => 4 | .sqt => 5 | .rsq => 6 | .tnh => 7
  | .sig => 8 | .glu => 9 | .sin => 10 | .cos => 11 | .phi => 12

/-- Units of the bound (R154); Φ takes FGLU's. -/
def SpecFn.ulps (fn : SpecFn) (f : FFmt) : Nat :=
  if f = FFmt.f32 then
    match fn with
    | .tnh | .sig | .sin | .cos => 2
    | .glu | .phi => 3
    | _ => 1
  else 1

/-- The least bound of FSIN and FCOS in f32. -/
def SpecFn.absBound (fn : SpecFn) (f : FFmt) : Option Dy :=
  if f = FFmt.f32 then
    match fn with
    | .sin | .cos => some ⟨1, -26⟩
    | _ => none
  else none

/-- What a function gives: a value of the table, or a value to round within the bound. -/
inductive SpecRes where
  | bits (v : FVal) (fl : Flags)
  | val (v : Dy) (exact : Bool)
  deriving DecidableEq, Repr

def SpecRes.nv : SpecRes := .bits (.nan false) fNV
def SpecRes.one : SpecRes := .bits (.fin ⟨1, 0⟩) 0

/-- Zeros and infinities (R154). -/
def specEdge (fn : SpecFn) (inf neg : Bool) : SpecRes :=
  match fn with
  | .exp | .exp2 => if !inf then .one else if neg then .bits (.zero false) 0 else .bits (.inf false) 0
  | .log | .log2 => if !inf then .bits (.inf true) fDZ else if neg then .nv else .bits (.inf false) 0
  | .rcp => if inf then .bits (.zero neg) 0 else .bits (.inf neg) fDZ
  | .sqt => if !inf then .bits (.zero neg) 0 else if neg then .nv else .bits (.inf false) 0
  | .rsq => if !inf then .bits (.inf neg) fDZ else if neg then .nv else .bits (.zero false) 0
  | .tnh => if inf then .bits (.fin ⟨if neg then -1 else 1, 0⟩) 0 else .bits (.zero neg) 0
  | .sig => if !inf then .bits (.fin ⟨1, -1⟩) 0 else if neg then .bits (.zero false) 0 else .one
  | .glu => if !inf then .bits (.zero neg) 0 else if neg then .bits (.zero true) 0 else .bits (.inf false) 0
  | .sin => if inf then .nv else .bits (.zero neg) 0
  | .cos => if inf then .nv else .one
  | .phi => if !inf then .bits (.fin ⟨1, -1⟩) 0 else if neg then .bits (.zero false) 0 else .one

/-- Other values (R154). `narrow` is a format whose bound leaves an integer power of two free. -/
def specFin (fn : SpecFn) (narrow : Bool) (v : Dy) : SpecRes :=
  match fn with
  | .exp => .val (expDy v) false
  | .exp2 =>
    let (n, ex) := toInt 1 v
    if ex ∧ -149 ≤ n ∧ n < 128 then (if narrow then .val ⟨1, n⟩ true else .bits (.fin ⟨1, n⟩) 0)
    else .val (exp2Dy v) false
  | .log =>
    if v.m < 0 then .nv else if Dy.eq v ⟨1, 0⟩ then .bits (.zero false) 0 else .val ⟨lnFix v, -512⟩ false
  | .log2 =>
    if v.m < 0 then .nv else if Dy.eq v ⟨1, 0⟩ then .bits (.zero false) 0
    else
      let l := Nat.log2 v.m.natAbs
      if v.m = ((2 ^ l : Nat) : Int) then
        (if narrow then .val ⟨(l : Int) + v.e, 0⟩ true else .bits (.fin ⟨(l : Int) + v.e, 0⟩) 0)
      else .val (Dy.quot ⟨lnFix v, -512⟩ ⟨ln2Fix, -512⟩) false
  | .rsq => if v.m < 0 then .nv else let (w, ex) := rsqDy v; .val w ex
  | .tnh => .val (tanhDy v) false
  | .sig => .val (sigDy v) false
  | .glu => .val (Dy.mul v (phiDy v)) false
  | .sin => .val (sinDy v) false
  | .cos => .val (cosDy v) false
  | .phi => .val (phiDy v) false
  -- FRCP and FSQT are correctly rounded: specB
  | .rcp | .sqt => .nv

/-- What a special function gives for a pattern of a format, FRCP and FSQT apart. -/
def specRes (fn : SpecFn) (f : FFmt) (w : Nat) : SpecRes :=
  match unpack f w with
  | .nan s => .bits (.nan false) (if s then fNV else 0)
  | .inf n => specEdge fn true n
  | .zero n => specEdge fn false n
  | .fin v => specFin fn (decide (f ≠ FFmt.f32)) v

/-- A special function in FP32 (R154). -/
def spec32 (fn : SpecFn) (mode w : Nat) : Nat × Flags :=
  match fn with
  | .rcp => divV .f32 mode (.fin ⟨1, 0⟩) (unpack .f32 w)
  | .sqt => sqrtV .f32 mode (unpack .f32 w)
  | fn =>
    match specRes fn .f32 w with
    | .bits v fl => (packV .f32 v, fl)
    | .val v ex => bounded .f32 mode v ex (fn.ulps .f32) (fn.absBound .f32) (Config.specialChoice fn.code (4 * w + mode))

/-- The place nearest to `k` within the bound of a value. -/
def clampKey (f : FFmt) (v b : Dy) (k : Int) : Int :=
  let (lo, hi) := boundKeys f v b
  if k < lo then lo else if hi < k then hi else k

/-- A special function on a pattern of a format (R154): the FP32 value rounded to the format, within the format's bound. -/
def specB (fn : SpecFn) (f : FFmt) (mode w : Nat) : Nat × Flags :=
  if f = FFmt.f32 then spec32 fn mode w
  else
    match fn with
    | .rcp => divV f mode (.fin ⟨1, 0⟩) (unpack f w)
    | .sqt => sqrtV f mode (unpack f w)
    | fn =>
      match specRes fn f w with
      | .bits v fl => (packV f v, fl)
      | .val v ex =>
        let y := (spec32 fn mode (cvtB f .f32 mode w).1).1
        atKey f mode v ex (clampKey f v (boundOf f v (fn.ulps f) none) (floatKey f (cvtB .f32 f mode y).1))

/-! ### Series (R160, R161) -/

/-- A step of a series: the flags of its roundings so far (R161), and none where a formula reads a NaN or an infinity or
divides by zero (R159). -/
abbrev Ser := OptionT (StateM Flags)

def Ser.fl (r : Nat × Flags) : Ser Nat := do
  modify (· ||| r.2)
  pure r.1

def Ser.bad {α : Type} : Ser α := OptionT.fail

/-- A coefficient by its formula; the canonical NaN, with NV, where the formula fails (R159). -/
def Ser.coef (x : Ser Nat) : StateM Flags Nat := do
  match ← x.run with
  | some v => pure v
  | none => do
    modify (· ||| fNV)
    pure FFmt.f32.qnan

/-- An exact zero takes its sign from the mode (R159). -/
def serZero (mode : Nat) (r : Nat × Flags) : Nat × Flags :=
  if r.1 % 2 ^ 31 = 0 ∧ r.2 &&& fNX = 0 then (FFmt.f32.zero (mode == 3), r.2) else r

/-- A coefficient that a formula reads. -/
def Ser.read (w : Nat) : Ser Dy :=
  match unpack .f32 w with
  | .nan _ | .inf _ => Ser.bad
  | v => pure v.dy

/-- One rounded step: an exact value, and an operation of FP32. -/
def Ser.rnd (mode : Nat) (v : Dy) : Ser Nat := Ser.fl (rndDy .f32 mode v)
def Ser.add (mode a b : Nat) : Ser Nat := Ser.fl (serZero mode (faddB .f32 mode a b))
def Ser.sub (mode a b : Nat) : Ser Nat := Ser.fl (serZero mode (fsubB .f32 mode a b))
def Ser.mul (mode a b : Nat) : Ser Nat := Ser.fl (serZero mode (fmulB .f32 mode a b))
def Ser.div (mode a b : Nat) : Ser Nat := do
  let y ← Ser.read b
  if y.m = 0 then Ser.bad else Ser.fl (serZero mode (fdivB .f32 mode a b))

/-- Σ of factor(j) × x_j × y_(m−j) for `n` terms from `lo`: each term rounded once, added in ascending j (R161). -/
def Ser.sum (mode : Nat) (fac : Nat → Dy) (x y : List Nat) (m lo n : Nat) : Ser Nat := do
  let acc ← (List.range n).foldlM (fun (acc : Option Nat) i => do
    let j := lo + i
    let a ← Ser.read (x.getD j 0)
    let b ← Ser.read (y.getD (m - j) 0)
    let t ← Ser.rnd mode (Dy.mul (fac j) (Dy.mul a b))
    match acc with
    | none => pure (some t)
    | some s => do
      let s ← Ser.add mode s t
      pure (some s)) none
  pure (acc.getD (FFmt.f32.zero (mode == 3)))

/-- Nearest FP32 values of 1/k, ln 2 ÷ k, 1/ln 2 and 1/√(2π) (R161). -/
def recipK : Nat → Nat
  | 2 => 0x3F000000 | 3 => 0x3EAAAAAB | _ => 0x3F800000
def ln2K : Nat → Nat
  | 2 => 0x3EB17218 | 3 => 0x3E6C9820 | _ => 0x3F317218
def recipLn2 : Nat := 0x3FB8AA3B
def recipSqrt2Pi : Nat := 0x3ECC422A

/-- The jets of a series: the result's FP32 coefficients and the auxiliary jets formed so far. -/
structure Jets where
  y : List Nat
  u : List Nat := []
  h : List Nat := []
  e : List Nat := []
  p : List Nat := []
  deriving DecidableEq, Repr

def facJ (j : Nat) : Dy := ⟨j, 0⟩
def facNeg (j : Nat) : Dy := ⟨-(j : Int), 0⟩
def facOne (_ : Nat) : Dy := ⟨1, 0⟩
def facMinus (_ : Nat) : Dy := ⟨-1, 0⟩

/-- Coefficient `k` of y' = c × x' y, as FEXP and FEXP2 form it. -/
def serExp (mode : Nat) (c : Nat) (x y : List Nat) (k : Nat) : Ser Nat := do
  let s ← Ser.sum mode facJ x y k 1 k
  Ser.mul mode s c

/-- (1/k) Σ of factor(j) × x_j u_(k−j), as FTNH, FSIG, FGLU, FSIN and FCOS form it. -/
def serConv (mode : Nat) (fac : Nat → Dy) (x u : List Nat) (k : Nat) : Ser Nat := do
  let s ← Ser.sum mode fac x u k 1 k
  Ser.mul mode s (recipK k)

/-- Coefficient `k` of FLOG, reading the coefficients L formed so far. -/
def serLog (mode : Nat) (x l : List Nat) (k : Nat) : Ser Nat := do
  let _ ← Ser.read (x.getD k 0)
  let s ← Ser.sum mode facJ l x k 1 (k - 1)
  let v ← if k = 1 then pure (x.getD k 0) else do
    let t ← Ser.mul mode s (recipK k)
    Ser.sub mode (x.getD k 0) t
  Ser.div mode v (x.getD 0 0)

/-- Coefficient `k` of FRCP, FSQT and FRSQ; `a2` is twice α + 1. -/
def serPow (mode a2 : Nat) (x y : List Nat) (k : Nat) : Ser Nat := do
  let s ← Ser.sum mode (fun j => ⟨(a2 : Int) * j - 2 * k, -1⟩) x y k 1 k
  let x0 ← Ser.read (x.getD 0 0)
  let d ← Ser.rnd mode (Dy.mul ⟨k, 0⟩ x0)
  Ser.div mode s d

/-- Coefficient `k` of a special function from the coefficients of `x`, with those of its auxiliary jets (R160). -/
def serStep (fn : SpecFn) (mode : Nat) (x : List Nat) (k : Nat) (z : Jets) : StateM Flags Jets :=
  match fn with
  | .exp => do
    let v ← Ser.coef (serExp mode (recipK k) x z.y k)
    pure { z with y := z.y ++ [v] }
  | .exp2 => do
    let v ← Ser.coef (serExp mode (ln2K k) x z.y k)
    pure { z with y := z.y ++ [v] }
  | .log => do
    let v ← Ser.coef (serLog mode x z.y k)
    pure { z with y := z.y ++ [v] }
  | .log2 => do
    -- u holds the FLOG coefficients, of which the first is never read
    let l := if z.u.isEmpty then [0] else z.u
    let v ← Ser.coef (serLog mode x l k)
    let w ← Ser.coef (do
      let _ ← Ser.read v
      Ser.mul mode v recipLn2)
    pure { z with y := z.y ++ [w], u := l ++ [v] }
  | .rcp => do
    let v ← Ser.coef (serPow mode 0 x z.y k)
    pure { z with y := z.y ++ [v] }
  | .sqt => do
    let v ← Ser.coef (serPow mode 3 x z.y k)
    pure { z with y := z.y ++ [v] }
  | .rsq => do
    let v ← Ser.coef (serPow mode 1 x z.y k)
    pure { z with y := z.y ++ [v] }
  | .tnh | .sig => do
    let un ← Ser.coef (do
      let y0 ← Ser.read (z.y.getD 0 0)
      if k = 1 then Ser.rnd mode (Dy.sub (if fn = .tnh then ⟨1, 0⟩ else y0) (Dy.mul y0 y0))
      else if fn = .tnh then Ser.sum mode facMinus z.y z.y (k - 1) 0 k
      else do
        let _ ← Ser.read (z.y.getD (k - 1) 0)
        let s ← Ser.sum mode facOne z.y z.y (k - 1) 0 k
        Ser.sub mode (z.y.getD (k - 1) 0) s)
    let u := z.u ++ [un]
    let v ← Ser.coef (serConv mode facJ x u k)
    pure { z with y := z.y ++ [v], u := u }
  | .sin | .cos => do
    let sin := decide (fn = .sin)
    let o ← Ser.coef (if k = 1 then Ser.fl (specB (if sin then .cos else .sin) .f32 mode (x.getD 0 0))
      else do
        let t ← Ser.sum mode (if sin then facNeg else facJ) x z.y (k - 1) 1 (k - 1)
        Ser.mul mode t (recipK (k - 1)))
    let u := z.u ++ [o]
    let v ← Ser.coef (serConv mode (if sin then facJ else facNeg) x u k)
    pure { z with y := z.y ++ [v], u := u }
  | .glu | .phi => do
    let i := k - 1
    let hi ← Ser.coef (do
      let sq ← (List.range k).foldlM (fun (acc : Dy) j => do
        let a ← Ser.read (x.getD j 0)
        let b ← Ser.read (x.getD (i - j) 0)
        pure (Dy.add acc (Dy.mul a b))) Dy.zero
      Ser.rnd mode (Dy.mul ⟨-1, -1⟩ sq))
    let h := z.h ++ [hi]
    let ei ← Ser.coef (do
      let _ ← Ser.read hi
      if k = 1 then Ser.fl (specB .exp .f32 mode hi) else serExp mode (recipK i) h z.e i)
    let e := z.e ++ [ei]
    let pi ← Ser.coef (do
      let _ ← Ser.read ei
      Ser.mul mode ei recipSqrt2Pi)
    -- u holds φ and p holds Φ
    let u := z.u ++ [pi]
    let p0 ← if k = 1 then do
        let v ← Ser.coef (Ser.fl (specB .phi .f32 mode (x.getD 0 0)))
        pure [v]
      else pure z.p
    let pk ← Ser.coef (serConv mode facJ x u k)
    let p := p0 ++ [pk]
    let v ← Ser.coef (Ser.sum mode facOne x p k 0 (k + 1))
    pure { z with y := z.y ++ [v], u := u, h := h, e := e, p := p }

/-- Coefficients 1 to `n` in turn, each with the flags of its own group; one whose formula fails is the canonical NaN, which
a later formula reads (R159). -/
def serRun (fn : SpecFn) (f : FFmt) (mode : Nat) (x : List Nat) : Nat → Nat → Jets → List (Nat × Flags)
  | 0, _, _ => []
  | n + 1, k, z =>
    let (z, fl) := (serStep fn mode x k z).run 0
    let r := cvtB .f32 f mode (z.y.getD k 0)
    (r.1, fl ||| r.2) :: serRun fn f mode x n (k + 1) z

/-- The coefficients of a special function under order `k` (R159 to R161). -/
def specJet (fn : SpecFn) (f : FFmt) (mode k : Nat) (a : List Nat) : List (Nat × Flags) :=
  let c0 := specB fn f mode (a.getD 0 0)
  if (unpack f c0.1).isNan then c0 :: (List.range k).map fun _ => (f.qnan, 0)
  else
    let x := a.map fun w => (cvtB f .f32 mode w).1
    c0 :: serRun fn f mode x k 1 { y := [(spec32 fn mode (x.getD 0 0)).1] }

/-- A special function, element-wise or by its series. -/
def specOp (i : Instr) (o : SlotOp) (fn : SpecFn) (s : State) : Out :=
  let k := s.srcStrm.jord.toNat
  let f := fmtOf o.ty
  if isScalar i o || k == 0 then
    elemOp i o o.ty o.ty o.ty o.ty (fun a _ _ => specB fn f (rmodeOf s) a) s
  else slot i s (jetOp 5 o o.ty o.ty o.ty o.ty k (fun a _ _ => specJet fn f (rmodeOf s) k a) s)

/-! ### Softmax (R155) -/

/-- The largest of a list of f32 values. -/
def maxDyV (vs : List FVal) : FVal :=
  vs.foldl (fun b x => if ltV true b x then x else b) (.inf true)

/-- e_j of a row: FEXP's bound at the exact difference (log 12). -/
def smxExp (mode : Nat) (m : FVal) (mw w : Nat) : Nat :=
  match unpack .f32 w with
  | .inf _ => 0
  | v =>
    let d := Dy.sub v.dy m.dy
    if d.m = 0 then 0x3F800000
    else (bounded .f32 mode (expDy d) false 1 none
      (Config.specialChoice 13 (4 * (2 ^ 32 * mw + w) + mode))).1

/-- A quotient kept within the bound of a softmax (R155). -/
def smxClamp (f : FFmt) (v : Dy) (w : Nat) : Nat :=
  (clampKey f v (boundOf f v (if f = FFmt.f32 then 3 else 1) none) (floatKey f w)).toNat

/-- Coefficient 0 of the elements that take part in a row, as f32 patterns `ws`: results with flags. -/
def smxRow (f : FFmt) (mode : Nat) (snan : Bool) (ws : List Nat) : List (Nat × Flags) :=
  let vs := ws.map (unpack .f32)
  if vs.any FVal.isNan then ws.map fun _ => (f.qnan, if snan then fNV else 0)
  else
    let pinf := fun (v : FVal) => v.isInf && !v.neg
    let cnt := (vs.filter pinf).length
    if 0 < cnt then vs.map fun v => if pinf v then rndMag f mode false 1 cnt 0 else (0, 0)
    else if vs.all FVal.isInf then ws.map fun _ => invalid f
    else
      let m := maxDyV vs
      let es := ws.map (smxExp mode m (packV .f32 m))
      let s := (sumTree mode es.length es).1
      let ds := vs.map fun v => if v.isInf then Dy.zero else expDy (Dy.sub v.dy m.dy)
      let tot : Dy := ⟨(ds.map (Dy.fix 512)).foldl (· + ·) 0, -512⟩
      (es.zip ds).map fun e =>
        if fld e.1 0 31 = 0 ∧ e.2.m = 0 then (0, 0)
        else
          let r := rndQuot f mode false (unpack .f32 e.1).dy (unpack .f32 s).dy
          (smxClamp f (Dy.quot e.2 tot) r.1, r.2)

/-- Coefficient `k` of S, the sum over the row: the canonical NaN, with NV, where an e it reads is a NaN or an infinity. -/
def smxSum (mode : Nat) (ek : List Nat) : Nat × Flags :=
  coefOf .f32 (ek.map (unpack .f32)) fun _ => sumTree mode ek.length ek

/-- Coefficient `k` of y by FDIV's rule, from those of e and S, and of y so far. -/
def smxQuot (mode k : Nat) (e ss y : List Nat) : Nat × Flags :=
  coefOf .f32 (cf .f32 e k :: cfs .f32 ss k ++ cfs .f32 y (k - 1)) fun _ =>
    rndQuot .f32 mode (mode == 3) (Dy.sub (cf .f32 e k).dy (convSum .f32 ss y k 1 k)) (cf .f32 ss 0).dy

/-- Higher coefficients of a row: e by FEXP's series, S over the row, y by FDIV's rule, each with its flags (R159 to R161).
`es`, `ss` and `ys` hold the coefficients formed so far, e and y one list for each element. -/
def smxSeries (f : FFmt) (mode : Nat) (xs : List (List Nat)) :
    Nat → Nat → List (List Nat) → List Nat → List (List Nat) → List (List (Nat × Flags))
  | 0, _, _, _, _ => xs.map fun _ => []
  | n + 1, k, es, ss, ys =>
    let ek := (xs.zip es).map fun p => (Ser.coef (serExp mode (recipK k) p.1 p.2 k)).run 0
    let es := (es.zip ek).map fun p => p.1 ++ [p.2.1]
    let sk := smxSum mode (ek.map Prod.fst)
    let ss := ss ++ [sk.1]
    let yk := (es.zip ys).map fun p => smxQuot mode k p.1 ss p.2
    let col := (ek.zip yk).map fun p =>
      let r := cvtB .f32 f mode p.2.1
      (r.1, p.1.2 ||| sk.2 ||| p.2.2 ||| r.2)
    let rest := smxSeries f mode xs n (k + 1) es ss ((ys.zip yk).map fun p => p.1 ++ [p.2.1])
    (col.zip rest).map fun p => p.1 :: p.2

/-- A row under order `k`: the coefficients of each element that takes part (R155, R160). -/
def smxJets (f : FFmt) (mode k : Nat) (xs : List (List Nat)) : List (List (Nat × Flags)) :=
  let ws := xs.map fun x => x.map fun w => (cvtB f .f32 mode w).1
  let w0 := ws.map fun w => w.getD 0 0
  let c0 := smxRow f mode (xs.any fun x => (cf f x 0).isSnan) w0
  if k = 0 then c0.map fun c => [c]
  else if c0.any fun c => (unpack f c.1).isNan then
    c0.map fun c => c :: (List.range k).map fun _ => (f.qnan, 0)
  else
    let vs := w0.map (unpack .f32)
    let nans := ws.map fun _ => [FFmt.f32.qnan]
    let rest :=
      -- at +∞ the formulas read an e of ∞ − ∞
      if vs.any fun v => v.isInf && !v.neg then smxSeries f mode ws k 1 nans [FFmt.f32.qnan] nans
      else
        let m := maxDyV vs
        let es := w0.map (smxExp mode m (packV .f32 m))
        let s := (sumTree mode es.length es).1
        let y0 := if f = FFmt.f32 then c0.map Prod.fst else (smxRow .f32 mode false w0).map Prod.fst
        smxSeries f mode ws k 1 (es.map fun e => [e]) [s] (y0.map fun y => [y])
    (c0.zip rest).map fun p => p.1 :: p.2

/-- The rows of a tile: results for every element, in order; nothing for an element that takes no part. -/
def smxTile (f : FFmt) (mode k rows cols pred : Nat) (x : Nat → List Nat) : List (List (Nat × Flags)) :=
  (List.range rows).flatMap fun i =>
    let cs := (List.range cols).map fun j => i * cols + j
    let part := cs.filter fun e => bitAt pred e
    let rs := part.zip (smxJets f mode k (part.map x))
    cs.map fun e => match rs.find? (fun r => r.1 == e) with
      | some r => r.2
      | none => [(0, 0)]

/-- FSMX (R155). -/
def execFsmx (o : SlotOp) (s : State) : Out :=
  let k := s.srcStrm.jord.toNat
  let f := fmtOf o.ty
  slot (.fsmx o) s (do
    if tooBig s o.ty || (k ≠ 0 && !jetDstOk k o.dst) then trapAt 5 1
    else
      let (a, s) ← if k = 0 then (fetch s 5 o.ty o.a).map (fun v => ([v.1], v.2)) else jetSrc s 5 o.ty k o.a
      let pred := predOf s o
      let rs := smxTile f (rmodeOf s) k (rowsOf s) (colsOf s) pred fun e => a.map fun v => v.elem o.ty e
      if k = 0 then
        let col := rs.map fun r => r.getD 0 (0, 0)
        let s ← writeTile 5 o.ty o.dst pred (col.map Prod.fst) s
        .ok (addFlags (predFlags pred col) s)
      else writeJet 5 o.ty o.dst pred rs s (k + 1) 0)

/-- FEXP: e^x (R154). -/
def execFexp (o : SlotOp) (s : State) : Out := specOp (.fexp o) o .exp s

/-- FEXP2: 2^x (R154). -/
def execFexp2 (o : SlotOp) (s : State) : Out := specOp (.fexp2 o) o .exp2 s

/-- FLOG: ln x (R154). -/
def execFlog (o : SlotOp) (s : State) : Out := specOp (.flog o) o .log s

/-- FLOG2: log2 x (R154). -/
def execFlog2 (o : SlotOp) (s : State) : Out := specOp (.flog2 o) o .log2 s

/-- FRCP: 1 ÷ x (R154). -/
def execFrcp (o : SlotOp) (s : State) : Out := specOp (.frcp o) o .rcp s

/-- FSQT: √x (R154). -/
def execFsqt (o : SlotOp) (s : State) : Out := specOp (.fsqt o) o .sqt s

/-- FRSQ: 1 ÷ √x (R154). -/
def execFrsq (o : SlotOp) (s : State) : Out := specOp (.frsq o) o .rsq s

/-- FTNH: tanh x (R154). -/
def execFtnh (o : SlotOp) (s : State) : Out := specOp (.ftnh o) o .tnh s

/-- FSIG: 1 ÷ (1 + e^−x) (R154). -/
def execFsig (o : SlotOp) (s : State) : Out := specOp (.fsig o) o .sig s

/-- FGLU: x Φ(x) (R154). -/
def execFglu (o : SlotOp) (s : State) : Out := specOp (.fglu o) o .glu s

/-- FSIN: sin x (R154). -/
def execFsin (o : SlotOp) (s : State) : Out := specOp (.fsin o) o .sin s

/-- FCOS: cos x (R154). -/
def execFcos (o : SlotOp) (s : State) : Out := specOp (.fcos o) o .cos s

end Sys2Proof.Machine
end

