-- ==== Sys2Proof/Machine/Passes.lean ====
section
/-! DEFINITION. Chain-engine passes: CHN, PAS and their completion (05 R164 to R168). -/

namespace Sys2Proof.Machine

/-- Fields of a pass descriptor (R165). -/
def pIns (d : Nat) : Nat := fld d 0 48
def pDst (d : Nat) : Nat := fld d 64 48
def pCount (d : Nat) : Nat := fld d 128 32
def pIn (d : Nat) : Nat := fld d 160 4
def pOut (d : Nat) : Nat := fld d 164 4
def pNops (d : Nat) : Nat := fld d 168 4
def pRnd (d : Nat) : Nat := fld d 172 2
def pSlot (d : Nat) : Nat := fld d 176 8
def pOp (d w : Nat) : Nat := fld d (256 + 32 * w) 32

/-- The IEEE type of a type code of R165. -/
def passTy (n : Nat) : Ty := if n = 4 then .f32 else if n = 5 then .bf16 else .f16
def passTyOk (n : Nat) : Bool := n == 4 || n == 5 || n == 6
def pInBytes (d : Nat) : Nat := tyBytes (passTy (pIn d))
def pOutBytes (d : Nat) : Nat := tyBytes (passTy (pOut d))

/-- Fields of an op word (R166). -/
def wOp (w : Nat) : Nat := fld w 0 8
def wX (w : Nat) : Nat := fld w 8 2
def wY (w : Nat) : Nat := fld w 10 2
def wVal (w : Nat) : Nat := fld w 16 16

/-- Ops of one operand, and all ops of a pass (R166). -/
def oneOperand (op : Nat) : Bool := op == 0x35 || op == 0x36 || (decide (0x68 ≤ op) && decide (op ≤ 0x73))
def passOp (op : Nat) : Bool := oneOperand op || [0x20, 0x23, 0x26, 0x2C, 0x2F, 0x32].contains op

/-- Whether an op word keeps R166. -/
def opWordOk (w : Nat) : Bool :=
  let wide := fun (k : Nat) => decide (2 ≤ k)
  passOp (wOp w) && fld w 12 4 == 0 && (!oneOperand (wOp w) || wY w == 0) && !(wide (wX w) && wide (wY w)) &&
    (if wX w = 2 ∨ wY w = 2 then decide (wVal w < 2 ^ 14) else wX w = 3 || wY w = 3 || wVal w == 0)

/-- Whether a descriptor keeps R165 and R166. -/
def passOk (d : Nat) : Bool :=
  let inLen := pCount d * pInBytes d
  let outLen := pCount d * pOutBytes d
  fld d 48 16 == 0 && fld d 112 16 == 0 && fld d 174 2 == 0 && fld d 184 8 == 0 && fld d 224 32 == 0 &&
    decide (1 ≤ pCount d) && passTyOk (pIn d) && passTyOk (pOut d) && decide (1 ≤ pNops d) && decide (pNops d ≤ 8) &&
    pIns d % pInBytes d == 0 && pDst d % pOutBytes d == 0 &&
    ((List.range 8).all fun w => if w < pNops d then opWordOk (pOp d w) else pOp d w == 0) &&
    (decide (pIns d + inLen ≤ pDst d) || decide (pDst d + outLen ≤ pIns d) ||
      (pIns d == pDst d && decide (pOutBytes d ≤ pInBytes d)))

/-- An element widened exactly to FP32; a signalling NaN stays one. -/
def widenF (t : Ty) (w : Nat) : Nat :=
  if (unpack (fmtOf t) w).isSnan then 0x7F800001 else (cvtB (fmtOf t) .f32 0 w).1

/-- The f32 op of an op code in a rounding mode (R167). -/
def passAlu (op mode x y : Nat) : Nat × Flags :=
  match op with
  | 0x20 => faddB .f32 mode x y
  | 0x23 => fsubB .f32 mode x y
  | 0x26 => fmulB .f32 mode x y
  | 0x2C => fdivB .f32 mode x y
  | 0x2F => minmaxB .f32 false x y
  | 0x32 => minmaxB .f32 true x y
  | 0x35 => fabsB .f32 x
  | 0x36 => fnegB .f32 x
  | 0x68 => specB .exp .f32 mode x
  | 0x69 => specB .exp2 .f32 mode x
  | 0x6A => specB .log .f32 mode x
  | 0x6B => specB .log2 .f32 mode x
  | 0x6C => specB .rcp .f32 mode x
  | 0x6D => specB .sqt .f32 mode x
  | 0x6E => specB .rsq .f32 mode x
  | 0x6F => specB .tnh .f32 mode x
  | 0x70 => specB .sig .f32 mode x
  | 0x71 => specB .glu .f32 mode x
  | 0x72 => specB .sin .f32 mode x
  | _ => specB .cos .f32 mode x

/-- One element of a pass (R167): output bits and flags. -/
def passEval (d : Nat) (consts : List W32) (e : Nat) : Nat × Flags :=
  let s := widenF (passTy (pIn d)) e
  let r := (List.range (pNops d)).foldl (fun (a : Nat × Flags) w =>
    let o := pOp d w
    let pick := fun (k : Nat) => match k with
      | 0 => s
      | 1 => a.1
      | 2 => (consts.getD w 0).toNat
      | _ => wVal o * 2 ^ 16
    let v := passAlu (wOp o) (pRnd d) (pick (wX o)) (pick (wY o))
    (v.1, a.2 ||| v.2)) (s, (0 : Flags))
  let v := cvtB .f32 (fmtOf (passTy (pOut d))) (pRnd d) r.1
  (v.1, r.2 ||| v.2)

/-- The words of the job's constant bank that a pass uses (R166). -/
def passConsts (c : Core) (d : Nat) : List W32 :=
  (List.range (pNops d)).map fun w =>
    if wX (pOp d w) = 2 ∨ wY (pOp d w) = 2 then Tbl.get 0 c.kbank (wVal (pOp d w)) else 0

/-- A word of the constant image that a pass uses has still to arrive (01 R26). -/
def constWaits (c : Core) (d : Nat) : Bool :=
  (List.range (pNops d)).any fun w =>
    (wX (pOp d w) == 2 || wY (pOp d w) == 2) && decide (wVal (pOp d w) < c.nconst) &&
      decide (c.kloaded ≤ wVal (pOp d w))

/-- Elements in ascending order from element `i` (R167): the module, the flags, where it stands, why it stopped. -/
def passLoop (p : Actor) (ctx : Fin 64) (die : Fin 16) (core : Option (Fin 128)) (d : Nat) (consts : List W32) :
    Nat → Nat → Flags → Module → Module × Flags × Nat × Option AccStop
  | 0, i, fl, m => (m, fl, i, none)
  | n + 1, i, fl, m =>
    match loadLocal m (some p) ctx die core (pIns d + i * pInBytes d) (pInBytes d) with
    | .error e => (m, fl, i, some e)
    | .ok (bs, m) =>
      let v := passEval d consts (ofBytes bs)
      match storeLocal m (some p) ctx die core (pDst d + i * pOutBytes d) (toBytes (pOutBytes d) v.1) with
      | .error e => (m, fl, i, some e)
      | .ok m => passLoop p ctx die core d consts n (i + 1) (fl ||| v.2) m

/-- The status word: done, and the flags in fflg order (R165). -/
def passStatus (fl : Flags) : List Byte := toBytes 4 (2 ^ 31 + fl.toNat % 32)

/-- Bytes that a pass delivers (R168). -/
def passBytes (d : Nat) : Nat := pCount d * pOutBytes d + 4

/-- Whether both element ranges lie in one scratchpad each (R164). -/
def passRanges (m : Module) (ctx : Fin 64) (core : Bool) (d : Nat) : Option Nat :=
  if !scratchRange m ctx core (pIns d) (pCount d * pInBytes d) then some (pIns d)
  else if !scratchRange m ctx core (pDst d) (pCount d * pOutBytes d) then some (pDst d)
  else none

/-- CHN (R164): while the engine holds 8 accepted passes it does not issue, and so reads no descriptor. -/
def execChn (o : SlotOp) (s : State) : Out :=
  slot (.chn o) s (do
    let at_ := addrOf s o.a
    let c := s.srcCore.ctx
    let k := clusterOf s.cur.core
    if s.srcStrm.jord ≠ 0 then trapAt 5 1
    else if decide (8 ≤ (s.src.cluster s.cur.die k).passes.length) then waiting s
    else
      alignTest 5 64 at_
      let (bs, s) ← memLoad 5 at_ 64 s
      let d := ofBytes bs
      if !passOk d then trapAt 5 1
      else
        slotGrant s 5 (pSlot d)
        match passRanges s.src c true d with
        | some a => accStop s 5 (addrclass a)
        | none =>
          if constWaits s.srcCore d then waiting s
          else
            releaseTest s true
            let views : Views := { die := s.cur.die, party := s.cur.core.val, clk := s.core.clk, phases := s.core.phases
                                   bufs := s.core.bufs, handles := s.core.cb }
            .ok (jobReleased (s.modM fun m =>
              let (φ, m) := captureSlot m s.cur.die (Fin.ofNat 256 (pSlot d)) false
              m.modCluster s.cur.die k fun x => { x with passes := x.passes ++ [{
                who := s.cur, ctx := c, at_ := BitVec.ofNat 48 at_, desc := BitVec.ofNat 512 d
                slot := Fin.ofNat 256 (pSlot d), phase := φ, views := views, consts := passConsts s.srcCore d }] })))

/-- A pass as an actor (R168, 07 R204). -/
def Pass.actor (p : Pass) : Actor :=
  let t := Tag.bar p.slot.val (p.phase.setWidth 16)
  { ctx := p.ctx, die := p.who.die, party := none, clk := p.views.clk, phases := p.views.phases, bufs := p.views.bufs
    handles := p.views.handles, stamps := [t], tag := t }

/-- PASS_COMPLETE (R168): the oldest pass of the cluster's chain engine. A pass that meets an error or a race stops
between elements: it delivers nothing and gives its hold back; a race-record quota leaves it waiting. -/
def execPassComplete (die : Fin 16) (cluster : Fin 8) (s : State) : Out :=
  let x := s.m.cluster die cluster
  .next (match x.passes.filter fun _ => !isFrozen s.m die (.cluster die cluster) with
    | [] => s
    | p :: ps =>
      let d := p.desc.toNat
      let core := some p.who.core
      let drop := fun (m : Module) => m.modCluster die cluster fun y => { y with passes := ps }
      let (m, fl, _, e) := passLoop p.actor p.ctx die core d p.consts (pCount d) 0 0 s.m
      let e := match e with
        | some e => Except.error (m, e)
        | none =>
          match storeLocal m (some p.actor) p.ctx die core (p.at_.toNat + 24) (passStatus fl) with
          | .error e => .error (m, e)
          | .ok m => .ok m
      match e with
      | .ok m => { s with m := deliverTo (drop m) die die p.slot p.phase (passBytes d) true }
      | .error (_, .quota _) => s
      | .error (m, e) =>
        let m := match e with
          | .fault _ _ _ (some l) => pushAlog m 4 (l * 64) 127
          | _ => m
        { s with m := deliverTo (drop m) die die p.slot p.phase 0 true })

/-- PAS starts (09 R276): the descriptor of R165, its slot the chain's. Passes accepted before it run first. -/
def pasStart (r : Rec) (m : Module) (i : ChainId) : Except ChStop Module := do
  let (d, m) ← readDesc m i r
  let k := m.chain i
  if decide (r.bufs ≠ 0) || !passOk d || decide (pSlot d ≠ k.slot.val) then chIllegal
  else match passRanges m k.ctx k.core.isSome d with
    | some a => chTrap 4 a
    | none =>
      match k.core with
      | none => chIllegal
      | some c =>
        if !(m.cluster k.die (clusterOf c)).passes.isEmpty || constWaits (m.core k.die c) d then .error .wait
        else
          let m ← fire m i [] none
          .ok (keepDesc m i d [0])

/-- PAS runs: a replay goes on from the elements that its units count. -/
def pasRun (r : Rec) (m : Module) (i : ChainId) : Except ChStop Module :=
  let k := m.chain i
  let d := k.desc.toNat
  let i0 := k.units / pOutBytes d
  let consts := match k.core with
    | some c => passConsts (m.core k.die c) d
    | none => []
  let (m, fl, n, e) := passLoop (chainActor k none) k.ctx k.die k.core d consts (pCount d - i0) i0
    ((k.idxs.getD 0 0).setWidth 7) m
  let m := m.modChain i fun k => { k with units := n * pOutBytes d, idxs := [fl.setWidth 32] }
  match e with
  | some e => .ok (chStopped m i (chAcc m k.ctx false n e))
  | none =>
    match withStatus n (chStore m i none (recDesc r + 24) (passStatus fl)) with
    | .error e => .ok (chStopped m i e)
    | .ok m => .ok (performed m i { cmd := r, bytes := passBytes d, flags := 0, publish := none, release := [] })

/-- PAS (09 R276). -/
def execPas (r : Rec) (s : State) : Out := command s (pasStart r) (pasRun r)

end Sys2Proof.Machine
end

