-- ==== Sys2Proof/Machine/Zither.lean ====
section
/-! DEFINITION. The attention cache on a Zither: its lists and pools (09 R277, R278, 14 R330, R342) and the commands
ATN, KAP, KTR and KFK (09 R279 to R284). -/

namespace Sys2Proof.Machine

/-! ### Pools (R278, 14 R330) -/

/-- Who works on a list: a context on a Zither, under a chain's or a job's tags. -/
structure ZActor where
  ctx : Fin 64
  z : Fin 8
  actor : Actor
  pool : ZPool
  /-- The tables that a command ahead of a marker walks (07 R216). -/
  old : Option Memory := none

/-- What a step on a list answers: its stop carries the header address (15 R362 word 5). -/
abbrev ZM (α : Type) := Except (AccStop × Nat) α

def zStop {α : Type} (code addr status : Nat) : ZM α := .error (.fault code 0 addr none, status)

/-- A device load and store of a Zither. -/
def zLoad (q : ZActor) (m : Module) (status a n : Nat) : ZM (List Byte × Module) :=
  match underTables m q.ctx q.old fun m => loadDev m (some q.actor) (some (.zither q.z)) q.ctx .read a n with
  | .ok r => .ok r
  | .error e => .error (e, status)
def zStore (q : ZActor) (m : Module) (status a : Nat) (bs : List Byte) : ZM Module :=
  match underTables m q.ctx q.old fun m =>
      (storeDev m (some q.actor) (some (.zither q.z)) q.ctx a bs).map fun m => ((), m) with
  | .ok r => .ok r.2
  | .error e => .error (e, status)

/-! ### Headers (R277) -/

/-- Write a header whole (R284). -/
def putHeader (q : ZActor) (m : Module) (a h : Nat) : ZM Module := zStore q m a a (toBytes 64 h)

/-- The headers of a list from an address, each with its address; every header and block must be a frame of the
context (14 R342). A list that never ends leaves the command where it is. -/
def walkList (q : ZActor) : Nat → Module → Nat → ZM (List (Nat × Nat) × Module)
  | 0, _, a => .error (.busy, a)
  | n + 1, m, a =>
    if !q.pool.isHeader a then zStop 2 a a
    else do
      let (bs, m) ← zLoad q m a a 64
      let h := ofBytes bs
      if !q.pool.isBlock (hBlock h) then zStop 2 (hBlock h) a
      else if hNext h = 0 then .ok ([(a, h)], m)
      else
        let (hs, m) ← walkList q n m (hNext h)
        .ok ((a, h) :: hs, m)

/-- The list at a head. -/
def listAt (q : ZActor) (m : Module) (head : Nat) : ZM (List (Nat × Nat) × Module) :=
  walkList q (q.pool.hcount + 1) m head

/-- Tokens that a list holds. -/
def tokensOf (hs : List (Nat × Nat)) : Nat := (hs.map fun h => hFill h.2).foldl (· + ·) 0

/-! ### Counts and free frames (R278) -/

/-- The address of the count of a block. -/
def countAt (q : ZActor) (block : Nat) : Nat := q.pool.ctab + 2 * ((block - q.pool.bbase) / blockFrame)
def getCount (q : ZActor) (m : Module) (status block : Nat) : ZM (Nat × Module) := do
  let (bs, m) ← zLoad q m status (countAt q block) 2
  .ok (ofBytes bs, m)
def setCount (q : ZActor) (m : Module) (status block v : Nat) : ZM Module := zStore q m status (countAt q block) (toBytes 2 v)

/-- One more list holds a block. The count that follows 65,535 is a free value (log 15). -/
def incCount (q : ZActor) (m : Module) (status block : Nat) : ZM Module := do
  let (n, m) ← getCount q m status block
  if n = 65535 then
    let (k, m) := m.nextFresh
    setCount q m status block (Config.freeValue k)
  else setCount q m status block (n + 1)

/-- A free frame: which one is a free value; QUOTA when the pool is empty. -/
def takeFree (m : Module) (status : Nat) (free : List Nat) : ZM (Nat × List Nat × Module) :=
  if free.isEmpty then .error (.quota 0, status)
  else
    let (k, m) := m.nextFresh
    let a := free.getD (Config.freeValue k % free.length) 0
    .ok (a, free.filter (fun b => !decide (b = a)), m)

def takeHeader (q : ZActor) (m : Module) (status : Nat) : ZM (Nat × Module) := do
  let (a, rest, m) ← takeFree m status (Tbl.get [] (m.zither q.z.val).headers q.ctx.val)
  let z := m.zither q.z.val
  .ok (a, stackTouch (m.setZither q.z.val { z with headers := Tbl.set [] z.headers q.ctx.val rest }) q.ctx q.pool)
def takeBlock (q : ZActor) (m : Module) (status : Nat) : ZM (Nat × Module) := do
  let (a, rest, m) ← takeFree m status (Tbl.get [] (m.zither q.z.val).blocks q.ctx.val)
  let z := m.zither q.z.val
  .ok (a, stackTouch (m.setZither q.z.val { z with blocks := Tbl.set [] z.blocks q.ctx.val rest }) q.ctx q.pool)

/-- A frame returns to its pool. -/
def giveHeader (q : ZActor) (m : Module) (a : Nat) : Module :=
  let z := m.zither q.z.val
  stackTouch (m.setZither q.z.val { z with
    headers := Tbl.upd [] z.headers q.ctx.val fun l => if l.contains a then l else a :: l }) q.ctx q.pool
def giveBlock (q : ZActor) (m : Module) (a : Nat) : Module :=
  let z := m.zither q.z.val
  stackTouch (m.setZither q.z.val { z with
    blocks := Tbl.upd [] z.blocks q.ctx.val fun l => if l.contains a then l else a :: l }) q.ctx q.pool

/-- One list fewer holds a block: a count that reaches 0 returns the frame; a count of 0 is ILLEGAL. -/
def decCount (q : ZActor) (m : Module) (status block : Nat) : ZM Module := do
  let (n, m) ← getCount q m status block
  if n = 0 then zStop 1 0 status
  else
    let m ← setCount q m status block (n - 1)
    .ok (if n = 1 then giveBlock q m block else m)

/-- Build the free lists of a context on a Zither, at its load (R278). -/
def buildPool (m : Module) (c : Fin 64) (z : Fin 8) : Module :=
  match zpoolOf m c z with
  | .error _ => m
  | .ok p =>
    let zero := fun (a n : Nat) => match loadDev m none none c .read a n with
      | .ok (bs, _) => decide (ofBytes bs = 0)
      | .error _ => false
    let hs := ((List.range p.hcount).map fun i => p.hbase + 64 * i).filter fun a => zero a 64
    let bs := ((List.range p.bcount).filter fun i => zero (p.ctab + 2 * i) 2).map fun i => p.bbase + blockFrame * i
    let x := m.zither z.val
    stackBuild (m.setZither z.val { x with
      headers := Tbl.set [] x.headers c.val hs, blocks := Tbl.set [] x.blocks c.val bs }) c p

/-! ### The changes of a list -/

/-- KAP of one token record of `4 dh` bytes (R281). -/
def appendToken (q : ZActor) (m : Module) (head dh : Nat) (rec_ : List Byte) : ZM Module := do
  let (hs, m) ← listAt q m head
  let (ha, h) := hs.getLastD (head, 0)
  let (ha, h, m) ← (if 16 ≤ hFill h then do
      let (g, m) ← takeHeader q m ha
      let (f, m) ← takeBlock q m ha
      let m ← setCount q m ha f 1
      let n := f * 2 ^ 64 + hSeq h * 2 ^ 144 + fld (hFirst h + 16) 0 32 * 2 ^ 176
      let m ← putHeader q m g n
      let m ← putHeader q m ha (withNext h g)
      .ok (g, n, m)
    else .ok (ha, h, m))
  let (h, m) ← (if hCow h then do
      let (n, m) ← getCount q m ha (hBlock h)
      let (h, m) ← (if 1 < n then do
          let (f, m) ← takeBlock q m ha
          let (old, m) ← zLoad q m ha (hBlock h) (hFill h * (4 * dh))
          let m ← zStore q m ha f old
          let m ← setCount q m ha f 1
          let m ← decCount q m ha (hBlock h)
          .ok (withBlock h f, m)
        else .ok (h, m))
      let h := withCow h false
      let m ← putHeader q m ha h
      .ok (h, m)
    else .ok (h, m))
  let m ← zStore q m ha (hBlock h + hFill h * (4 * dh)) rec_
  putHeader q m ha (withFill h (hFill h + 1))

/-- Every block that is to lose counts has them (R278). -/
def countsSuffice (q : ZActor) (m : Module) (status : Nat) (blocks : List Nat) : ZM Module :=
  blocks.foldlM (fun m b => do
    let (n, m) ← getCount q m status b
    if n < (blocks.filter fun x => decide (x = b)).length then zStop 1 0 status else .ok m) m

/-- KTR: cut a list to `n` tokens (R282). -/
def cutList (q : ZActor) (m : Module) (head n : Nat) : ZM Module := do
  let (hs, m) ← listAt q m head
  if tokensOf hs ≤ n then .ok m
  else
    let i := (hs.findIdx? fun h => decide (0 < n) && decide (hFirst h.2 ≤ n - 1) &&
      decide (n - 1 < hFirst h.2 + hFill h.2)).getD 0
    let (ha, h) := hs.getD i (head, 0)
    let gone := hs.drop (i + 1)
    let m ← countsSuffice q m ha (gone.map fun g => hBlock g.2)
    let m ← putHeader q m ha (withNext (withFill h (min (hFill h) (n - hFirst h))) 0)
    gone.foldlM (fun m g => do
      let m ← putHeader q m g.1 0
      decCount q (giveHeader q m g.1) g.1 (hBlock g.2)) m

/-- The copies of a donor's headers, from the last one backward: the address of the first copy (R283). -/
def forkHeaders (q : ZActor) (n : Nat) : List (Nat × Nat) → Module → ZM (Nat × Module)
  | [], m => .ok (0, m)
  | (a, h) :: hs, m => do
    let (next, m) ← forkHeaders q n hs m
    let (g, m) ← takeHeader q m a
    let h := withNext h next
    let cut := n - hFirst h
    let h := if n ≤ hFirst h + hFill h then
        (if cut < 16 then withCow (withFill h cut) true else withFill h cut)
      else h
    let m ← incCount q m a (hBlock h)
    let m ← putHeader q m g h
    .ok (g, m)

/-- KFK: the head of a new list that shares the donor's first `n` tokens (R283). -/
def forkList (q : ZActor) (m : Module) (head n : Nat) : ZM (Nat × Module) := do
  let (hs, m) ← listAt q m head
  forkHeaders q n (hs.filter fun h => decide (0 < hFill h.2) && decide (hFirst h.2 < n)) m

/-! ### Attention (R280) -/

/-- A sum of exact terms by the order of 03 R99: a single term is rounded once at the end. -/
def exactTree : Nat → List FVal → FVal × Flags
  | 0, xs => (xs.getD 0 (.zero false), 0)
  | fuel + 1, xs =>
    if xs.length ≤ 1 then (xs.getD 0 (.zero false), 0)
    else
      let h := halfPow xs.length
      let a := exactTree fuel (xs.take h)
      let b := exactTree fuel (xs.drop h)
      let r := addV .f32 0 a.1 b.1
      (unpack .f32 r.1, a.2 ||| b.2 ||| r.2)

/-- The exact product of two values: what it raises by itself (03 R80). -/
def mulExact (a b : FVal) : FVal × Flags :=
  let sg := a.neg != b.neg
  match a, b with
  | .nan _, _ | _, .nan _ => (.nan false, nvS [a, b])
  | .inf _, .zero _ | .zero _, .inf _ => (.nan false, fNV)
  | .inf _, _ | _, .inf _ => (.inf sg, 0)
  | .zero _, _ | _, .zero _ => (.zero sg, 0)
  | a, b => (.fin (Dy.mul a.dy b.dy), 0)

/-- rne(dot) of two bf16 vectors in FP32. -/
def dotB (x y : List Nat) : Nat × Flags :=
  let ps := (x.zip y).map fun p => mulExact (unpack .bf16 p.1) (unpack .bf16 p.2)
  let r := exactTree ps.length (ps.map Prod.fst)
  (packV .f32 r.1, orFlags (ps.map Prod.snd) ||| r.2)

/-- One visible token: its K and V vectors. -/
structure KV where
  k : List Nat
  v : List Nat

/-- One output row: attention of a query over the visible tokens, ascending. -/
def attendRow (scale dh : Nat) (qrow : List Nat) (vis : List KV) : List Nat × Flags :=
  if vis.isEmpty then (List.replicate dh FFmt.f32.qnan, 0)
  else
    let ss := vis.map fun t =>
      let d := dotB qrow t.k
      let r := fmulB .f32 0 scale d.1
      (r.1, d.2 ||| r.2)
    let ws := smxRow .f32 0 false (ss.map Prod.fst)
    let outs := (List.range dh).map fun j =>
      let ps := (ws.zip vis).map fun p =>
        let v := t32 (p.2.v.getD j 0)
        let r := fmulB .f32 0 p.1.1 v
        (r.1, r.2)
      let r := sumTree 0 ps.length (ps.map Prod.fst)
      (r.1, orFlags (ps.map Prod.snd) ||| r.2)
    (outs.map Prod.fst, orFlags (ss.map Prod.snd) ||| orFlags (ws.map Prod.snd) ||| orFlags (outs.map Prod.snd))
where
  /-- bf16 widened exactly, a signalling NaN staying one. -/
  t32 (w : Nat) : Nat := widenF .bf16 w

/-- `n` 16-bit values of bytes. -/
def halves (n : Nat) (bs : List Byte) : List Nat := (List.range n).map fun i => ofBytes ((bs.drop (2 * i)).take 2)

/-- The tokens of one header in slot order, with their positions; its block is read up to its fill. -/
def headerTokens (q : ZActor) (dh : Nat) (m : Module) (h : Nat × Nat) : ZM (List (Nat × KV) × Module) := do
  let (bs, m) ← zLoad q m h.1 (hBlock h.2) (hFill h.2 * (4 * dh))
  .ok ((List.range (hFill h.2)).map (fun t =>
    let r := bs.drop (t * (4 * dh))
    (hFirst h.2 + t, ⟨halves dh r, halves dh (r.drop (2 * dh))⟩)), m)

/-- A header before those that start later. -/
def insertHeader (h : Nat × Nat) : List (Nat × Nat) → List (Nat × Nat)
  | [] => [h]
  | g :: gs => if hFirst h.2 ≤ hFirst g.2 then h :: g :: gs else g :: insertHeader h gs

/-- Whether a position is visible to a row (R280). -/
def visible (n mask p : Nat) : Bool := decide (p < n) || (decide (p - n < 64) && bitAt mask (p - n))

/-! ### The commands -/

/-- Fields of a descriptor (R279). -/
def zAux (d : Nat) : Nat := fld d 384 48
def zHead (d : Nat) : Nat := fld d 320 57
def zN (d : Nat) : Nat := fld d 288 32
def zQ (d : Nat) : Nat := fld d 256 32
def zDh (d : Nat) : Nat := fld d 240 16
def zScale (d : Nat) : Nat := fld d 192 32

/-- Whether a descriptor keeps R279 for a command that takes query rows or not. -/
def zDescOk (rows : Bool) (d : Nat) : Bool :=
  fld d 448 64 == 0 && fld d 432 16 == 0 && zAux d % 8 == 0 && fld d 377 7 == 0 && fld d 224 16 == 0 &&
    fld d 0 192 == 0 && decide (16 ≤ zDh d) && decide (zDh d ≤ 256) && zDh d % 16 == 0 &&
    (if rows then decide (1 ≤ zQ d) && decide (zQ d ≤ 64) else zQ d == 0 && zScale d == 0)

/-- The stop of a Zither's command. -/
def zErr {α : Type} (m : Module) (c : Fin 64) (r : ZM α) : Except ChStop α :=
  match r with
  | .ok a => .ok a
  | .error (e, st) => .error (chAcc m c true st e)

/-- The chain in hand as it works on its lists, under the mapping that its command began with (07 R216). -/
def zActorOf (m : Module) (i : ChainId) : Except ChStop ZActor :=
  let k := m.chain i
  match underTables m k.ctx k.old fun m => (zpoolOf m k.ctx k.inst).map fun p => (p, m) with
  | .ok (p, _) => .ok { ctx := k.ctx, z := k.inst, actor := chainActor k none, pool := p, old := k.old }
  | .error e => .error (chAcc m k.ctx true 0 e)

/-- A command reads its descriptor, tests it and fires. -/
def zStart (rows : Bool) (ok : Rec → Nat → Bool) (ins : Rec → List Nat) (out : Rec → Option Nat) (r : Rec)
    (m : Module) (i : ChainId) : Except ChStop Module := do
  let (d, m) ← readDesc m i r
  if !zDescOk rows d || !ok r d then chIllegal
  else
    let m ← fire m i (ins r) (out r)
    .ok (keepDesc m i d [])

/-- A command that changes a list runs as it is accepted, so that a Zither applies such commands one at a time in the
order in which it accepted them (R284). -/
def zChange (s : State) (start run : Module → ChainId → Except ChStop Module) : Out :=
  command s (fun m i => do
    let m ← start m i
    run m i) run

/-- The tokens of KAP that remain, one at a time: those that stand, and why it stopped. -/
def kapLoop (q : ZActor) (head dh : Nat) : List (List Byte) → Nat → Module → Module × Nat × Option (AccStop × Nat)
  | [], k, m => (m, k, none)
  | t :: ts, k, m =>
    match appendToken q m head dh t with
    | .ok m => kapLoop q head dh ts (k + 1) m
    | .error e => (m, k, some e)

/-- KAP runs from the tokens that its units count (R281). -/
def kapRun (r : Rec) (m : Module) (i : ChainId) : Except ChStop Module := do
  let k := m.chain i
  let d := k.desc.toNat
  let n := zN d
  let w := 4 * zDh d
  let q ← withStatus (zHead d) (zActorOf m i)
  let (o, v, a) := firedEntry m k (recIn r)
  let (bs, m) ← withStatus (zHead d) (chLoad m i (some (o, v)) a (n * w))
  let toks := (List.range (n - k.units)).map fun t => (bs.drop ((k.units + t) * w)).take w
  let (m, u, e) := kapLoop q (zHead d) (zDh d) toks k.units m
  let m := m.modChain i fun k => { k with units := u }
  match e with
  | some (e, st) => .ok (chStopped m i (chAcc m k.ctx true st e))
  | none => .ok (performed m i { cmd := r, bytes := n * w, flags := 0, publish := none, release := releasedBy k [recIn r] })

/-- KAP (R281). -/
def execKap (r : Rec) (s : State) : Out :=
  zChange s (zStart false (fun r d => decide (1 ≤ zN d) && decide (zN d ≤ 64) && fld r.bufs.toNat 4 12 == 0)
    (fun r => [recIn r]) (fun _ => none) r) (kapRun r)

/-- KTR runs (R282). -/
def ktrRun (r : Rec) (m : Module) (i : ChainId) : Except ChStop Module := do
  let k := m.chain i
  let d := k.desc.toNat
  let q ← withStatus (zHead d) (zActorOf m i)
  let m ← zErr m k.ctx (cutList q m (zHead d) (zN d))
  .ok (performed (m.modChain i fun k => { k with units := zN d }) i
    { cmd := r, bytes := 0, flags := 0, publish := none, release := [] })

/-- KTR (R282). -/
def execKtr (r : Rec) (s : State) : Out :=
  zChange s (zStart false (fun r _ => r.bufs.toNat == 0) (fun _ => []) (fun _ => none) r) (ktrRun r)

/-- KFK runs (R283). -/
def kfkRun (r : Rec) (m : Module) (i : ChainId) : Except ChStop Module := do
  let k := m.chain i
  let d := k.desc.toNat
  let q ← withStatus (zHead d) (zActorOf m i)
  if !chRange m k (zAux d) 8 then withStatus (zHead d) (chTrap 4 (zAux d))
  else
    let (h, m) ← zErr m k.ctx (forkList q m (zHead d) (zN d))
    let m ← withStatus (zHead d) (chStore m i none (zAux d) (toBytes 8 h))
    .ok (performed (m.modChain i fun k => { k with units := zN d }) i
      { cmd := r, bytes := 0, flags := 0, publish := none, release := [] })

/-- KFK (R283). -/
def execKfk (r : Rec) (s : State) : Out :=
  zChange s (zStart false (fun r _ => r.bufs.toNat == 0) (fun _ => []) (fun _ => none) r) (kfkRun r)

/-- ATN runs (R280): rows of bf16 in, rows of FP32 out. -/
def atnRun (r : Rec) (m : Module) (i : ChainId) : Except ChStop Module := do
  let k := m.chain i
  let d := k.desc.toNat
  let n := zQ d
  let dh := zDh d
  let q ← withStatus (zHead d) (zActorOf m i)
  let (o, v, a) := firedEntry m k (recIn r)
  let (qs, m) ← withStatus (zHead d) (chLoad m i (some (o, v)) a (n * dh * 2))
  let (ms, m) ← withStatus (zHead d) (chLoad m i none (zAux d) (8 * n))
  let (hs, m) ← zErr m k.ctx (listAt q m (zHead d))
  let (toks, m) ← zErr m k.ctx ((hs.foldr insertHeader []).foldlM (fun (a : List (Nat × KV) × Module) h => do
    let (ts, m) ← headerTokens q dh a.2 h
    .ok (a.1 ++ ts, m)) ([], m))
  let rows := (List.range n).map fun i =>
    let mask := ofBytes ((ms.drop (8 * i)).take 8)
    attendRow (zScale d) dh (halves dh (qs.drop (i * dh * 2)))
      ((toks.filter fun t => visible (zN d) mask t.1).map Prod.snd)
  let (oo, ov, oa) := firedEntry m k (recOut r)
  let m ← withStatus (zHead d) (chStore m i (some (oo, ov)) oa (rows.flatMap fun x => x.1.flatMap (toBytes 4)))
  .ok (performed (m.modChain i fun k => { k with units := toks.length }) i {
    cmd := r, bytes := n * dh * 4, flags := orFlags (rows.map Prod.snd), publish := some oo
    release := releasedBy k [recIn r] })

/-- ATN (R280). -/
def execAtn (r : Rec) (s : State) : Out :=
  command s (zStart true (fun r _ => fld r.bufs.toNat 8 8 == 0) (fun r => [recIn r]) (fun r => some (recOut r)) r) (atnRun r)

end Sys2Proof.Machine
end

