-- ==== Sys2Proof/Machine/Contexts.lean ====
section
/-! DEFINITION. The management commands for contexts, memory, the fabric and security (15 R357; 14 R331, R345 to R350;
09 R291; 11 R325). -/

namespace Sys2Proof.Machine

/-! ### The tests of a load (14 R331) -/

/-- Two ranges with a granule in common; an empty one has none. -/
def overlap (a n b k : Nat) : Bool := decide (max a b < min (a + n) (b + k))

/-- Whether the grants of two contexts meet. -/
def grantsMeet (m : Module) (a b : Fin 64) : Bool :=
  overlap (ctxDbase m a) (ctxDsize m a) (ctxDbase m b) (ctxDsize m b) ||
  overlap (ctxCbase m a) (ctxCsize m a) (ctxCbase m b) (ctxCsize m b) ||
  overlap (ctxGbase m a) (ctxGcount m a) (ctxGbase m b) (ctxGcount m b) ||
  overlap (ctxBbase m a) (ctxBcount m a) (ctxBbase m b) (ctxBcount m b) ||
  overlap (ctxObase m a) (ctxOcount m a) (ctxObase m b) (ctxOcount m b)

/-- Whether the grants of a context lie within their resources (14 R330, R333). -/
def grantsFit (m : Module) (c : Fin 64) : Bool :=
  decide (ctxDbase m c + ctxDsize m c ≤ 0x8000000) && decide (ctxCbase m c + ctxCsize m c ≤ 0x1000000) &&
    decide (ctxGbase m c + ctxGcount m c ≤ 1024) && decide (ctxBbase m c + ctxBcount m c ≤ 256) &&
    (ctxOcount m c == 0 || (decide (0x480 ≤ ctxObase m c) && decide (ctxObase m c + ctxOcount m c ≤ 0x1FFF0)))

/-- The physical pieces of a device range that lie on a Zither's memory: none when one does not (14 R330). -/
def onZither (m : Module) (c : Fin 64) (z : Fin 8) : List (Nat × Nat) → Option (List (Nat × Nat))
  | [] => some []
  | (a, n) :: ps =>
    match translate m none c .read a with
    | .error _ => none
    | .ok (pa, _) =>
      if zitherBase + z.val * 0x4000000000 ≤ pa ∧ pa + n ≤ zitherBase + (z.val + 1) * 0x4000000000 then
        (onZither m c z ps).map fun r => (pa, n) :: r
      else none

/-- The frames of a context's pools on a Zither, as physical ranges (14 R330): the table entry must keep its form. A
context whose table cannot be read has no pools. -/
def poolFrames (m : Module) (c : Fin 64) (z : Fin 8) : Option (List (Nat × Nat)) :=
  match zpoolOf m c z with
  | .error _ => some []
  | .ok p =>
    if p.hcount = 0 ∧ p.bcount = 0 then some []
    else if p.hbase % 64 ≠ 0 ∨ p.hbase = 0 ∨ p.bbase % 16384 ≠ 0 ∨ p.bbase = 0 ∨ p.ctab % 2 ≠ 0 ∨ p.stack % 64 ≠ 0 ∨
        onZither m c z (linePieces p.ctab (2 * p.bcount) ++ linePieces p.stack (4 * p.frames)) = none then none
    else onZither m c z ((List.range p.hcount).map (fun i => (p.hbase + 64 * i, 64)) ++
      (List.range (4 * p.bcount)).map fun i => (p.bbase + 4096 * i, 4096))

/-- The inbound slots that a context's windows name (14 R331). -/
def inboundFit (m : Module) (c : Fin 64) : Bool :=
  (List.range 64).all fun w => match readWin m c w with
    | .ok e => !e.valid || grantSlot m c e.islot.val
    | .error _ => true

/-- Whether a newcomer may be loaded; `m` holds its control block already. -/
def loadOk (m : Module) (c : Fin 64) : Bool :=
  let all := (List.finRange 64).filter fun x => ctxValid m x
  let others := all.filter fun x => !decide (x = c)
  grantsFit m c && others.all (fun x => !grantsMeet m c x) &&
    (List.finRange 8).all (fun z => match poolFrames m c z with
      | none => false
      | some fs => others.all fun x => ((poolFrames m x z).getD []).all fun g =>
          fs.all fun f => !overlap f.1 f.2 g.1 g.2) &&
    decide ((all.map (ctxTshare m)).sum ≤ 256) && decide ((all.map (ctxPshare m)).sum ≤ 4096) && inboundFit m c

/-! ### Granted scratchpad bytes (14 R331, R332) -/

/-- Bytes that a context's scratchpad grants hold on a die. -/
def grantDie (m : Module) (c : Fin 64) : Nat := ctxDsize m c + 8 * ctxCsize m c

/-- Where a granted byte stands among a context's granted bytes, by ascending physical address: its place in a save area
(log 18). -/
def grantKey (m : Module) (c : Fin 64) (pa : Nat) : Option Nat :=
  if !isScratch pa then none
  else
    let base := (pa - scratchBase) / 0x10000000 * grantDie m c
    let r := (pa - scratchBase) % 0x10000000
    if r < 0x8000000 then
      if ctxDbase m c ≤ r ∧ r < ctxDbase m c + ctxDsize m c then some (base + (r - ctxDbase m c)) else none
    else
      let k := (r - 0x8000000) / 0x1000000
      let o := (r - 0x8000000) % 0x1000000
      if ctxCbase m c ≤ o ∧ o < ctxCbase m c + ctxCsize m c then
        some (base + ctxDsize m c + k * ctxCsize m c + (o - ctxCbase m c))
      else none

/-- The physical address of the granted byte at a place. -/
def keyAddr (m : Module) (c : Fin 64) (k : Nat) : Option Nat :=
  let n := grantDie m c
  let d := Fin.ofNat 16 (k / n)
  let r := k % n
  if 16 * n ≤ k then none
  else if r < ctxDsize m c then some (diePa d (ctxDbase m c + r))
  else some (clusterPa d ((r - ctxDsize m c) / ctxCsize m c) (ctxCbase m c + (r - ctxDsize m c) % ctxCsize m c))

/-- A range of device addresses cut at pages of 4 KiB. -/
def pagePieces (a n : Nat) : List (Nat × Nat) :=
  if n = 0 then []
  else (List.range ((a % 4096 + n + 4095) / 4096)).map fun k =>
    let lo := max a (a / 4096 * 4096 + 4096 * k)
    (lo, min (a + n) (a / 4096 * 4096 + 4096 * (k + 1)) - lo)

/-- The pieces of a context's save area: first place, physical address, bytes. -/
def saveArea (m : Module) (c : Fin 64) (k : AccKind) (area : Nat) : Except AccStop (List (Nat × Nat × Nat)) :=
  (pagePieces area (16 * grantDie m c)).mapM fun p =>
    (translate m none c k (p.1 % 2 ^ 57)).map fun r => (p.1 - area, r.1, p.2)

/-- Save the granted bytes of a context, a poisoned line as poisoned. -/
def saveGrant (m : Module) (c : Fin 64) (ps : List (Nat × Nat × Nat)) : Module :=
  let at_ := fun (k : Nat) => ps.findSome? fun p => if p.1 ≤ k ∧ k < p.1 + p.2.2 then some (p.2.1 + (k - p.1)) else none
  let covers := fun (pa : Nat) => ps.any fun p => decide (p.2.1 ≤ pa) && decide (pa < p.2.1 + p.2.2)
  let bad := m.poison.flatMap fun l => [64 * l, 64 * l + 63].filterMap fun a => ((grantKey m c a).bind at_).map (· / 64)
  { m with
    phys := (m.phys.filterMap fun e => ((grantKey m c e.1).bind at_).map fun a => (a, e.2)).foldl
      (fun t e => Memory.put t e.1 e.2) (m.phys.filter fun e => !covers e.1)
    poison := (bad ++ m.poison.filter fun l => !(covers (64 * l) && covers (64 * l + 63))).eraseDups }

/-- Empty a context's granted bytes, their poison and their tags (07 R201). -/
def clearGrant (m : Module) (c : Fin 64) : Module :=
  let mine := fun (pa : Nat) => (grantKey m c pa).isSome
  let m := { m with phys := m.phys.filter fun e => !mine e.1, poison := m.poison.filter fun l => !mine (64 * l) }
  (List.finRange 16).foldl (fun m d => m.modDie d fun x => { x with
    tags := x.tags.filter fun e => !mine (64 * e.1) }) m

/-- Put the bytes of a save area into a context's grants. -/
def restoreGrant (m : Module) (c : Fin 64) (ps : List (Nat × Nat × Nat)) : Module :=
  let cells := ps.flatMap fun p => m.phys.filterMap fun e =>
    if p.2.1 ≤ e.1 ∧ e.1 < p.2.1 + p.2.2 then (keyAddr m c (p.1 + (e.1 - p.2.1))).map fun a => (a, e.2) else none
  let bad := ps.flatMap fun p => m.poison.flatMap fun l => [64 * l, 64 * l + 63].filterMap fun a =>
    if p.2.1 ≤ a ∧ a < p.2.1 + p.2.2 then (keyAddr m c (p.1 + (a - p.2.1))).map (· / 64) else none
  let m := clearGrant m c
  { m with phys := cells.foldl (fun t e => Memory.put t e.1 e.2) m.phys, poison := (bad ++ m.poison).eraseDups }

/-- Reset the objects of a context's grants on every die (14 R331). -/
def resetObjects (m : Module) (c : Fin 64) : Module :=
  (List.finRange 16).foldl (fun m d => m.modDie d fun x => { x with
    groups := x.groups.filter fun e => !grantGroup m c e.1
    slots := Tbl.mapV {} id (x.slots.map fun e => (e.1, if grantSlot m c e.1 then { e.2 with valid := false } else e.2))
    bufs := x.bufs.filter fun e => !grantBuf m c e.1 }) m

/-- The dispatcher's take, parked at the home slice, wins the launch tuples that stand there, oldest first (01 R26). -/
def takeLaunches (m : Module) (c : Fin 64) : Nat → Module
  | 0 => m
  | n + 1 =>
    let d := ctxHome m c
    let pat : Line := BitVec.ofNat 512 (0xFFFFFF00 + ctxTuple m c * 2 ^ 32)
    match findTuple m d pat with
    | none => m
    | some t =>
      takeLaunches ((removeTuple m d t).modDie d fun x => { x with
        launches := x.launches ++ [{ ctx := c, image := t.image, clk := t.clk, reads := 0, nextAt := x.cyc }] }) c n

/-- CTXLOAD (14 R331): its save area is read under its own translations, and a load whose area cannot be read is refused. -/
def execCtxload (s : State) : Out :=
  let words := (List.range 32).map fun k => BitVec.ofNat 64 (hostRead s.m (mailW s 1 + 8 * k) 8) &&& ccbBits k
  let c : Fin 64 := Fin.ofNat 64 (words.getD 1 0).toNat
  let area := mailW s 2
  let words := words.set 1 (words.getD 1 0 ||| 2 ^ 63)
  let block : Tbl W64 := ((List.range 32).zip words).foldl (fun t e => Tbl.set 0 t e.1 e.2) []
  let m := { s.m with ccbs := Tbl.set ccbReset s.m.ccbs c.val block }.modCtx c fun x => { x with tables := s.m.phys }
  if ctxValid s.m c || !loadOk m c then answer s 3 s.m
  else match (if area = 0 then .ok [] else saveArea m c .read area) with
    | .error .busy => .next s
    | .error _ => answer s 3 s.m
    | .ok ps =>
      let m := resetObjects (restoreGrant m c ps) c
      let m := { m with held := m.held.filter fun h => !decide (h.ctx = c) }
      let m := (List.finRange 8).foldl (fun m z => buildPool m c z) (m.modCtx c fun x => { x with race := 0, tables := m.phys })
      let d := m.die (ctxHome m c)
      let n := (d.slices.map fun e => e.2.stored.length + e.2.overflow.length).sum
      answer s 0 (takeLaunches m c n)

/-- Whether a context has a placed job or a running chain. -/
def ctxBusy (m : Module) (c : Fin 64) : Bool :=
  m.cores.any (fun e => e.2.job.any fun j => decide (j.ctx = c)) ||
    m.chains.any fun e => decide (e.2.ctx = c) && (e.2.state == 1 || e.2.state == 2)

/-- CTXUNLOAD (14 R331): refused when its save area cannot be written. -/
def execCtxunload (s : State) : Out :=
  let m := s.m
  let c := mailCtx s
  let area := mailW s 2
  if !ctxValid m c then answer s 1 m
  else if ctxBusy m c then answer s 3 m
  else match saveArea m c .write area with
    | .error .busy => .next s
    | .error _ => answer s 3 m
    | .ok ps => answer s 0 (setCcb (saveGrant m c ps) c 1 (BitVec.ofNat 64 (ccb m c 1 - 2 ^ 63)))

/-- CCBSET (15 R357). -/
def execCcbset (s : State) : Out :=
  let c := mailCtx s
  let k := fld (mailW s 1) 8 5
  let v := (BitVec.ofNat 64 (mailW s 2) &&& ccbBits k).toNat
  if !ctxValid s.m c then answer s 1 s.m
  else if k = 2 ∨ k = 3 ∨ (k = 1 ∧ putFld v 8 3 0 = putFld (ccb s.m c 1) 8 3 0) then
    answer s 0 (setCcb s.m c k (BitVec.ofNat 64 v))
  else answer s 3 s.m

/-- WINSET (15 R357): it waits while a migration holds the page. -/
def execWinset (s : State) : Out :=
  let c := mailCtx s
  if !ctxValid s.m c then answer s 1 s.m
  else match storeDev s.m none none c (winAddr s.m c (fld (mailW s 1) 8 6)) (hostBytes s.m (mailW s 2) 32) with
    | .ok m => answer s 0 m
    | .error .busy => .next s
    | .error _ => answer s 3 s.m

/-! ### Memory (14 R345) -/

/-- The lines of the units of a layer that a REMAP moves from a bank lost with its bus (15 R368); `old` are the banks before
it, `units` the units that stay. -/
def lostLines (x : Die) (d s l : Nat) (old : List Nat) (units : Nat) : List Nat :=
  let lost := fun (b : Nat) => x.retired.any fun r =>
    !r.remapped && decide (r.cause = .bus) && r.stack.val == s && r.layer.val == l && r.bank.val == b
  if !old.any lost then []
  else ((List.range units).filter fun u => lost (old.getD (u % old.length) 0)).flatMap fun u =>
    (List.range 64).map fun k => (d * 0x2000000000 + s * 0x1000000000 + l * 0x100000000 + 4096 * u) / 64 + k

/-- REMAP (14 R345, 15 R368): a layer's units keep their addresses below the new capacity. -/
def execRemap (s : State) : Out :=
  let m := s.m
  let d : Fin 16 := Fin.ofNat 16 (mailW s 1)
  let x := m.die d
  let x' := { x with retired := x.retired.map (fun r => { r with remapped := true }), gen := x.gen + 1 }
  let layers := (List.range 2).flatMap fun k => (List.range 16).map fun l => (k, l)
  let bad := layers.flatMap fun p =>
    lostLines x d.val p.1 p.2 (layerBanks x p.1 p.2) ((layerBanks x' p.1 p.2).length * 32768)
  let gone := fun (pa : Nat) => match stackedAt pa with
    | some (e, k, l, o) => decide (e = d.val) && (bankAt x' k l o).isNone
    | none => false
  answer s 0 ({ m with
    phys := m.phys.filter fun e => !gone e.1
    poison := bad ++ m.poison.filter fun l => !gone (64 * l) && !bad.contains l }.setDie d x')

/-- MIGRATE (11 R325). -/
def execMigrate (s : State) : Out :=
  answer s 0 (migrateCluster s.m (Fin.ofNat 16 (mailW s 1)) (Fin.ofNat 8 (mailW s 1 / 16)))

/-! ### The fabric -/

/-- The port that word 1 names (15 R357). -/
def mailPort (s : State) : Option (Fin 72) :=
  let n := fld (mailW s 1) 0 7
  if h : n < 72 then some ⟨n, h⟩ else none

/-- MATCHSET (15 R357): a device number or 0xFFFF in each entry. -/
def execMatchset (s : State) : Out :=
  let es := (List.range 32).map fun k => hostRead s.m (mailW s 2 + 2 * k) 2
  match mailPort s with
  | none => answer s 1 s.m
  | some q =>
    if es.any fun e => decide (1024 ≤ e) && decide (e ≠ 0xFFFF) then answer s 3 s.m
    else answer s 0 (s.m.modPort q fun p => { p with
      table_ := ((List.range 32).zip es).foldl (fun t e =>
        Tbl.set none t e.1 (if e.2 = 0xFFFF then none else some (BitVec.ofNat 10 e.2))) [] })

/-- PARKSET (15 R357, R376). -/
def execParkset (s : State) : Out :=
  match mailPort s with
  | none => answer s 1 s.m
  | some q => answer s 0 (s.m.modPort q fun p => { p with
      idleNs := BitVec.ofNat 64 (mailW s 2), threshold := BitVec.ofNat 64 (mailW s 3) })

/-- KEYSET (15 R357, R375). -/
def execKeyset (s : State) : Out :=
  let k : Fin 4 := Fin.ofNat 4 (mailW s 1 / 2 ^ 8)
  match mailPort s with
  | none => answer s 1 s.m
  | some q =>
    let p := s.m.port q
    if (Tbl.get none p.keys k.val).isSome then answer s 3 s.m
    else
      let p := { p with keys := Tbl.set none p.keys k.val (some (BitVec.ofNat 256 (hostRead s.m (mailW s 2) 32))) }
      let p := if bitAt (mailW s 1) 16 then
          { p with
            oldKeys := if (Tbl.get none p.keys p.sendKey.val).isSome ∧ p.sendKey ≠ k then p.oldKeys ++ [(p.sendKey, false)]
              else p.oldKeys
            sendKey := k }
        else p
      answer s 0 (rollKeys (s.m.setPort q p) q)

/-- Whether the module still holds a packet that carries a version of a group (09 R291): a multicast in progress, or a
packet that no relay has replicated. -/
def packetsOf (m : Module) (g v : BitVec 8) : Bool :=
  let body := fun (f : Flit) => match f.body with
    | .multicast _ _ h w _ copy _ _ => decide (h = g) && decide (w = v) && !copy
    | _ => false
  m.chains.any (fun e =>
    e.2.fired.isSome && (match decodeRec e.2.raw.toNat with
      | some (.cpm _) => true
      | _ => false) &&
    decide (fld e.2.desc.toNat 64 8 = g.toNat) && decide ((e.2.idxs.getD 0 0).setWidth 8 = v)) ||
  m.ports.any (fun e => e.2.sendq.any (fun f => body f.2) || e.2.peers.any fun x => x.2.replay.any fun f => body f.flit) ||
  m.relay.any fun f => body f.2

/-- MCAST (15 R357, 09 R291): the next version stands at once; the command completes when no packet of the version before
is left. -/
def execMcast (s : State) : Out :=
  let g : BitVec 8 := BitVec.ofNat 8 (mailW s 1)
  let n := mailW s 3
  let old := Tbl.get {} s.m.mcast g.toNat
  if 1024 < n then answer s 3 s.m
  else
    let new : McGroup := if old.old.isSome then old else {
      members := (List.range n).map fun k => BitVec.ofNat 10 (hostRead s.m (mailW s 2 + 2 * k) 2)
      version := old.version + 1, old := some (old.version, old.members) }
    let prev := (new.old.map Prod.fst).getD 0
    if packetsOf s.m g prev then .next { s with m := { s.m with mcast := Tbl.set {} s.m.mcast g.toNat new } }
    else answer s 0 { s.m with mcast := Tbl.set {} s.m.mcast g.toNat { new with old := none } }

/-! ### Security -/

/-- Bytes 0 to 383 of a report (14 R350). -/
def attestBody (m : Module) (nonce : List Byte) (ctx : Nat) : List Byte :=
  let image := fun (k : Nat) => match m.images[k]? with
    | some i => sha512 i.bytes
    | none => toBytes 64 0
  let block := (List.range 32).flatMap fun k => toBytes 8 (ccb m (Fin.ofNat 64 ctx) k)
  toBytes 4 1 ++ toBytes 8 Config.serial ++ nonce ++ (List.range 4).flatMap image ++ toBytes 4 m.minVersion ++
    toBytes 4 ctx ++ (if ctx = 0xFFFFFFFF then toBytes 64 0 else sha512 block) ++
    toBytes 8 (m.die 0).cyc.toNat ++ toBytes 4 0

/-- ATTEST (14 R350): the salt of the signature is a free value. -/
def execAttest (s : State) : Out :=
  let c := mailW s 1
  if c ≠ 0xFFFFFFFF ∧ (64 ≤ c ∨ !ctxValid s.m (Fin.ofNat 64 c)) then answer s 1 s.m
  else
    let body := attestBody s.m (hostBytes s.m (mailW s 2) 32) c
    let (n, m) := s.m.nextFresh
    answer s 0 (hostWrite m (mailW s 3) (body ++ bigEndian 512
      (rsaPssSign Config.identityModulus Config.identityPrivate body (toBytes 64 (Config.freeValue n))) ++ Config.certificate))

/-- FUSEMIN (14 R349): 64 fuses hold at most 64. -/
def execFusemin (s : State) : Out :=
  let v := mailW s 1
  if v ≤ s.m.minVersion ∨ 64 < v then answer s 3 s.m else answer s 0 { s.m with minVersion := v }

end Sys2Proof.Machine
end

