-- ==== Sys2Proof/Machine/Scrub.lean ====
section
/-! DEFINITION. The scrubber (07 R207) and the reset of a die (07 R200, R201). -/

namespace Sys2Proof.Machine

/-- The current count of a party by its clock key: a core's or a service slot's own entry. -/
def partyCount (m : Module) (k : Nat) : BitVec 16 :=
  let d := Fin.ofNat 16 (k / 256)
  let p := k % 256
  if p < 128 then ownCount m d (Fin.ofNat 128 p) else Clock.at (Tbl.get {} (m.die d).services (p - 128)).clk k

/-- The current count of what a tag on a line of die `d` names. -/
def tagCount (m : Module) (d : Fin 16) : Tag → BitVec 16
  | .party p _ => partyCount m (partyKey d p)
  | .bar s _ => (m.barrier d (Fin.ofNat 256 s)).phase.setWidth 16
  | .buf o _ => (m.buf d o).prod.setWidth 16

def Tag.count : Tag → BitVec 16
  | .party _ c | .bar _ c | .buf _ c => c

/-- Whether a tag's age has reached 2^14. A stamp ahead of the current count has no age (log 17). -/
def oldTag (m : Module) (d : Fin 16) (t : Tag) : Bool :=
  let age := (tagCount m d t - t.count).toNat
  decide (2 ^ 14 ≤ age) && (decide (age < 2 ^ 15) || match t with
    | .party _ _ => true
    | _ => false)

/-- A count raised to 2^14 below the current one once its age has reached that. -/
def raise16 (cur x : BitVec 16) : BitVec 16 := if 2 ^ 14 ≤ (cur - x).toNat then cur - 2 ^ 14 else x

/-- The entries that a clock lists, raised. -/
def raiseClock (m : Module) (c : Clock) : Clock := c.map fun e => (e.1, raise16 (partyCount m e.1) e.2)

/-- All 144 entries of a party's clock, raised. -/
def raiseAll (m : Module) (d : Fin 16) (c : Clock) : Clock :=
  (List.range 144).foldl (fun c p =>
    let k := partyKey d p
    let x := Clock.at c k
    let y := raise16 (partyCount m k) x
    if y = x then c else Tbl.ins c k y) c

/-- All 256 entries of a phase view, raised. -/
def raiseView (m : Module) (d : Fin 16) (v : Tbl (BitVec 16)) : Tbl (BitVec 16) :=
  (List.range 256).foldl (fun v s =>
    let x := viewPhase v s
    let y := raise16 ((m.barrier d (Fin.ofNat 256 s)).phase.setWidth 16) x
    if y = x then v else Tbl.set 0xFFFF v s y) v

/-- The entries of a buffer view, raised; `handles` say which object an entry stands for. -/
def raiseBufs (m : Module) (d : Fin 16) (handles : Tbl W64) (b : Tbl (Option W32)) : Tbl (Option W32) :=
  b.map fun e => (e.1, e.2.map fun w =>
    let h := (Tbl.get 0 handles e.1).toNat
    let p := (m.buf d (hObject h)).prod
    if hValid h ∧ 2 ^ 14 ≤ (p - w).toNat ∧ (p - w).toNat < 2 ^ 31 then p - 2 ^ 14 else w)

/-- The clock that a wait is to acquire, raised. -/
def Wait.raised (f : Clock → Clock) : Wait → Wait
  | .replied v k => .replied v (f k)
  | .gbarDone k => .gbarDone (f k)
  | .woken k => .woken (f k)
  | .waitbDone k φ => .waitbDone (f k) φ
  | .tupleDone l k => .tupleDone l (f k)
  | w => w

def Stream.raised (f : Clock → Clock) (x : Stream) : Stream :=
  { x with wait := x.wait.raised f, cwait := x.cwait.raised f
           aside := x.aside.map fun a => (a.1, a.2.1.raised f, a.2.2.raised f) }

/-- What a core's party holds, raised. -/
def raiseCore (m : Module) (d : Fin 16) (x : Core) : Core :=
  let f := raiseClock m
  { x with clk := raiseAll m d x.clk, phases := raiseView m d x.phases, bufs := raiseBufs m d x.cb x.bufs
           l := x.l.raised f, x := x.x.raised f, st := x.st.raised f }

/-- Captured views, raised. -/
def raiseViews (m : Module) (d : Fin 16) (v : Views) : Views :=
  if v.die = d then
    { v with clk := raiseAll m d v.clk, phases := raiseView m d v.phases, bufs := raiseBufs m d v.handles v.bufs }
  else v

/-- The clocks that the requests of a router carry, raised. -/
def Router.raised (f : Clock → Clock) (r : Router) : Router :=
  let q := fun (a : AtomReq) => { a with clk := f a.clk }
  { r with arriving := r.arriving.map q, queue := r.queue.map (·.map q), sent := r.sent.map (·.map q)
           replies := r.replies.map fun a => { a with parts := a.parts.map q } }

/-- What a graph instance and its nodes on a die hold, raised, checkpointed jobs among them. -/
def raiseNode (m : Module) (d : Fin 16) (n : NodeRun) : NodeRun :=
  if n.die = d then
    { n with clk := raiseClock m n.clk, saved := n.saved.map (raiseCore m d)
             savedChains := n.savedChains.map (·.map fun k => { k with views := raiseViews m d k.views }) }
  else n
def raiseInst (m : Module) (d : Fin 16) (i : Instance) : Instance :=
  { i with nodes := i.nodes.map (raiseNode m d)
           clks := if i.home = d then Tbl.mapV [] (raiseClock m) i.clks else i.clks }

/-- Raise every clock and view entry that a die's parties and objects hold (R207). -/
def raiseDie (m : Module) (d : Fin 16) : Module :=
  let f := raiseClock m
  let m1 := (List.finRange 128).foldl (fun a c => a.modCore d c (raiseCore m d)) m
  let m2 := (List.finRange 8).foldl (fun a k => a.modCluster d k fun x => { x with
    router := x.router.raised f
    passes := x.passes.map fun p => { p with views := raiseViews m d p.views } }) m1
  let m3 := { m2 with chains := Tbl.mapV {} (fun k => { k with views := raiseViews m d k.views }) m2.chains
                      graphs := m2.graphs.map (raiseInst m d) }
  m3.modDie d fun x => { x with
    services := Tbl.mapV {} (fun v => { v with clk := raiseAll m d v.clk, phases := raiseView m d v.phases }) x.services
    slots := Tbl.mapV {} (fun b => { b with clkCur := f b.clkCur, clkNxt := f b.clkNxt, clkDone := f b.clkDone }) x.slots
    groups := Tbl.mapV {} (fun g => { g with clk := f g.clk }) x.groups
    bufs := Tbl.mapV {} (fun o => { o with clks := Tbl.mapV [] f o.clks }) x.bufs
    words := Tbl.mapV [] f x.words
    slices := Tbl.mapV {} (fun y => { y with
      stored := y.stored.map fun t => { t with clk := f t.clk }
      overflow := y.overflow.map fun t => { t with clk := f t.clk } }) x.slices
    launches := x.launches.map fun l => { l with clk := f l.clk }
    reqs := Tbl.mapV none (·.map fun r => { r with clk := f r.clk }) x.reqs
    later := x.later.raised f }

/-- The slots whose flips a retired stamp no longer stalls (07 R207). -/
def settleAll (m : Module) (d : Fin 16) : Module :=
  (Tbl.keys (m.die d).slots).foldl (fun m k =>
    let s := Fin.ofNat 256 k
    settleSlot m d s (m.barrier d s)) m

/-- SCRUB_SWEEP (07 R207). -/
def execScrubSweep (die : Fin 16) (s : State) : Out :=
  let m := retireTags s.m die (oldTag s.m die)
  .next { s with m := settleAll (raiseDie m die) die }

/-- DIE_RESET (02 R50, 07 R200, R201, 15 R367): cyc, clocks, views and tags, with the race records of these; wire swaps and ratio changes end. -/
def execDieReset (die : Fin 16) (s : State) : Out :=
  let m := (List.finRange 128).foldl (fun (m : Module) c =>
    m.modCore die c fun x => { x with clk := [], phases := [], bufs := [] }) (retireTags s.m die fun _ => true)
  .next { s with m := m.modDie die fun x => { x with
    cyc := 0, tags := [], words := []
    services := Tbl.mapV {} (fun v => { v with clk := [], phases := [] }) x.services
    slots := Tbl.mapV {} (fun b => { b with clkCur := [], clkNxt := [], clkDone := [] }) x.slots
    groups := Tbl.mapV {} (fun g => { g with clk := [] }) x.groups
    bufs := Tbl.mapV {} (fun o => { o with clks := [] }) x.bufs
    buses := Tbl.mapV {} (fun b => { b with quarter := false, swaps := [], used := [] }) x.buses } }

end Sys2Proof.Machine
end

