-- ==== Sys2Proof/Machine/Sequence.lean ====
section
/-! DEFINITION. Sequence managers: request images, draft trees and their judgement, and the SQ ops (11 R314 to R320). -/

namespace Sys2Proof.Machine

/-! ### Requests and images (R314) -/

/-- The request that an image opens; none when it breaks R314. -/
def imageReq (c : Fin 64) (x : Nat) : Option SeqReq :=
  let rule := fld x 192 2
  let tau := fld x 160 32
  let dh := fld x 208 16
  let ok := fld x 384 128 == 0 && fld x 280 40 == 0 && fld x 194 14 == 0 && fld x 121 7 == 0 && fld x 256 24 != 0 &&
    rule != 3 && decide (16 ≤ dh) && decide (dh ≤ 256) && dh % 16 == 0 &&
    (if rule = 1 then decide (tau ≠ 0) && decide (tau ≤ 0x3F800000) else tau == 0)
  if ok then
    some { ctx := c, rule := rule, length := BitVec.ofNat 32 (fld x 128 32), head := BitVec.ofNat 57 (fld x 64 57)
           dh := BitVec.ofNat 16 dh, vocab := BitVec.ofNat 24 (fld x 256 24), seq := BitVec.ofNat 32 (fld x 224 32)
           key := BitVec.ofNat 64 (fld x 0 64), draws := BitVec.ofNat 64 (fld x 320 64), tau := BitVec.ofNat 32 tau
           tree := none, clk := [] }
  else none

/-- The image of a request. -/
def reqImage (r : SeqReq) : Nat :=
  r.key.toNat + r.head.toNat * 2 ^ 64 + r.length.toNat * 2 ^ 128 + r.tau.toNat * 2 ^ 160 + r.rule * 2 ^ 192 +
    r.dh.toNat * 2 ^ 208 + r.seq.toNat * 2 ^ 224 + r.vocab.toNat * 2 ^ 256 + r.draws.toNat * 2 ^ 320

/-- Nodes of the submitted tree. -/
def SeqReq.nodes (r : SeqReq) : List (Nat × Nat × W32) :=
  match r.tree with
  | some (ns, _, _) => ns
  | none => []

def getReq (m : Module) (d : Fin 16) (n : Nat) : Option SeqReq := Tbl.get none (m.die d).reqs n
def setReq (m : Module) (d : Fin 16) (n : Nat) (r : Option SeqReq) : Module :=
  m.modDie d fun x => { x with reqs := Tbl.set none x.reqs n r }

/-- The open request of the context that source A names (R315). -/
def openReq (s : State) (o : SlotOp) : Except Stop (Nat × SeqReq) := do
  let n ← fetch64 s 5 o.a
  if 2048 ≤ n then trapAt 5 1
  else match getReq s.src s.cur.die n with
    | none => trapAt 5 1
    | some r => if r.ctx = s.srcCore.ctx then .ok (n, r) else trapAt 5 2

/-- A release of the job and an acquire, both with the request (07 R194). -/
def reqSync (s : State) (r : SeqReq) : Except Stop (SeqReq × State) := do
  releaseTest s false
  let r := { r with clk := Clock.join r.clk (jobClock s) }
  .ok (r, jobAcquire r.clk (jobReleased s))

/-! ### Draft trees (R316) -/

/-- Depth of a node from the depths of those before it. -/
def treeDepth (depths : List Nat) (parent : Nat) : Nat := if parent = 31 then 1 else depths.getD parent 0 + 1

/-- The nodes of a tree from its entries; none when one breaks R316. -/
def treeNodes (vocab : Nat) : List Nat → List Nat → Option (List (Nat × Nat × W32))
  | _, [] => some []
  | depths, e :: es =>
    let tok := fld e 0 24
    let par := fld e 24 5
    let d := treeDepth depths par
    if fld e 29 3 ≠ 0 ∨ vocab ≤ tok ∨ (par ≠ 31 ∧ depths.length ≤ par) ∨ 8 < d then none
    else (treeNodes vocab (depths ++ [d]) es).map fun ns => (tok, par, BitVec.ofNat 32 (fld e 32 32)) :: ns

/-- Whether a stride of rows is legal. -/
def strideOk (vocab stride : Nat) : Bool := stride % 64 == 0 && decide (4 * vocab ≤ stride)

/-- SQTR (R316). -/
def execSqtr (o : SlotOp) (s : State) : Out :=
  slot (.sqtr o) s (do
    let (n, r) ← openReq s o
    let at_ := addrOf s o.b
    if r.tree.isSome then trapAt 5 1
    else
      alignTest 5 64 at_
      let (hb, s) ← memLoad 5 at_ 64 s
      let h := ofBytes hb
      let nn := fld h 64 6
      let stride := fld h 96 32
      if fld h 48 16 ≠ 0 ∨ fld h 70 26 ≠ 0 ∨ fld h 128 384 ≠ 0 ∨ nn = 0 ∨ 32 < nn ∨ !strideOk r.vocab.toNat stride then
        trapAt 5 1
      else
        let (eb, s) ← memLoad 5 (at_ + 64) (8 * nn) s
        match treeNodes r.vocab.toNat [] ((List.range nn).map fun k => ofBytes ((eb.drop (8 * k)).take 8)) with
        | none => trapAt 5 1
        | some ns =>
          let (r, s) ← reqSync s { r with tree := some (ns, BitVec.ofNat 48 (fld h 0 48), BitVec.ofNat 32 stride) }
          .ok (setScal o.dst 0 (s.modM fun m => setReq m s.cur.die n (some r))))

/-! ### The judgement (R317) -/

/-- A value of a row: finite and at or above +0, or +0. -/
def rowVal (w : Nat) : Dy := if bitAt w 31 || fld w 23 8 == 255 then Dy.zero else (unpack .f32 w).dy

/-- A row as it is judged: its values and their FP32 patterns. -/
def sanitize (w : Nat) : Nat := if bitAt w 31 || fld w 23 8 == 255 then 0 else w

/-- The token of the largest value, the lowest on ties. -/
def argmaxRow (p : List Nat) : Nat :=
  (((List.range p.length).zip p).foldl (fun (b : Nat × Dy) e =>
    if Dy.lt b.2 (rowVal e.2) then (e.1, rowVal e.2) else b) (0, rowVal (p.getD 0 0))).1

/-- The value of a draw for a counter: 24 bits of RAND's x, as a fraction. -/
def drawAt (key ctr : Nat) : Dy := ⟨randElem .i64 0 key ctr 0 / 2 ^ 40, -24⟩

/-- Running sums in ascending token order, each rounded to FP32. -/
def runSums : Nat → List Nat → List Nat
  | _, [] => []
  | acc, x :: xs =>
    let y := (faddB .f32 0 acc x).1
    y :: runSums y xs

/-- sample(p) over a row and the unmodified row, with the draw counter: token and counter. A sum beyond FP32 leaves
the token a free value (log 16). -/
def sampleRow (m : Module) (key draws : Nat) (p full : List Nat) : Nat × Nat × Module :=
  let pick := fun (row : List Nat) =>
    let sums := runSums 0 row
    let total := sums.getLastD 0
    if (unpack .f32 total).isInf then
      let (n, m) := m.nextFresh
      some (Config.freeValue n % row.length, (draws + 1) % 2 ^ 64, m)
    else if total = 0 then none
    else
      let bound := Dy.mul (drawAt key draws) (rowVal total)
      some ((sums.findIdx? fun y => Dy.lt bound (rowVal y)).getD 0, (draws + 1) % 2 ^ 64, m)
  match pick p with
  | some r => r
  | none =>
    match pick full with
    | some r => r
    | none => (0, draws, m)

/-- The state of a judgement. -/
structure Judge where
  /-- The last accepted node; none at the root. -/
  node : Option Nat := none
  row : Nat := 0
  k : Nat := 0
  c : Nat := 0
  inchain : Bool := true
  draws : Nat
  deriving DecidableEq, Repr

/-- The children of a node, or of the root, in ascending index, each with its token and p_draft. A parent field of 31 names
the root, so node 31 has none. -/
def kidsOf (ns : List (Nat × Nat × W32)) (node : Option Nat) : List (Nat × Nat × W32) :=
  (((List.range ns.length).zip ns).filter fun e =>
    match node with
    | some n => decide (e.2.2.1 = n) && decide (n < 31)
    | none => decide (e.2.2.1 = 31)).map fun e => (e.1, e.2.1, e.2.2.2)

/-- STOCH's pass over the kids: the pick, the residual row, the draw counter. -/
def stochPick (key : Nat) (q : List Nat) : List (Nat × Nat × W32) → List Nat → Nat → Option Nat × List Nat × Nat
  | [], p, draws => (none, p, draws)
  | (i, tok, pd) :: ks, p, draws =>
    let pd := rowVal pd.toNat
    if pd.m = 0 then (some i, p, draws)
    else if Dy.lt (Dy.mul (drawAt key draws) pd) (rowVal (p.getD tok 0)) then (some i, p, (draws + 1) % 2 ^ 64)
    else stochPick key q ks ((p.zip q).map fun e => sanitize (fsubB .f32 0 e.1 e.2).1) ((draws + 1) % 2 ^ 64)

/-- The correction token where the judgement stops. -/
def correct (m : Module) (r : SeqReq) (p full : List Nat) (draws : Nat) : Nat × Nat × Module :=
  if r.rule = 2 then sampleRow m r.key.toNat draws p full else (argmaxRow p, draws, m)

/-- The loop of R317: the judgement and the correction token. -/
def judgeLoop (r : SeqReq) (full draft : Nat → List Nat) (m : Module) : Nat → Judge → Judge × Nat × Module
  | 0, j => (j, 0, m)
  | fuel + 1, j =>
    let kids := kidsOf r.nodes j.node
    let p := full j.row
    let (pick, p, draws) := match r.rule with
      | 0 =>
        let g := argmaxRow p
        ((kids.find? fun t => decide (t.2.1 = g)).map Prod.fst, p, j.draws)
      | 1 =>
        let bound := Dy.mul (rowVal r.tau.toNat) (rowVal (p.getD (argmaxRow p) 0))
        ((kids.find? fun t => Dy.le bound (rowVal (p.getD t.2.1 0))).map Prod.fst, p, j.draws)
      | _ => stochPick r.key.toNat (draft j.row) kids p j.draws
    match pick with
    | none =>
      let (t, draws, m) := correct m r p (full j.row) draws
      ({ j with draws := draws }, t, m)
    | some i =>
      let on := j.inchain && decide (i = j.k)
      let j := { node := some i, row := i + 1, k := j.k + 1, c := if on then j.k + 1 else j.c, inchain := on
                 draws := draws : Judge }
      if (kidsOf r.nodes (some i)).isEmpty then
        let (t, draws, m) := correct m r (full j.row) (full j.row) j.draws
        ({ j with draws := draws }, t, m)
      else judgeLoop r full draft m fuel j

/-- Rows `0` to `n` of FP32 values in the job's scratchpads, as they are judged. -/
def readRows (s : State) (base stride vocab : Nat) : List Nat → Except Stop (List (List Nat) × State)
  | [] => .ok ([], s)
  | k :: ks => do
    let at_ := wrapN 48 (base + k * stride)
    alignTest 5 64 at_
    let (bs, s) ← memLoad 5 at_ (4 * vocab) s
    let (rs, s) ← readRows s base stride vocab ks
    .ok ((words32 vocab bs).map sanitize :: rs, s)

/-- Cut the chain of a request on the Zither whose header region holds its head (R318, R319, R282). -/
def cutChain (s : State) (r : SeqReq) (n : Nat) : Res :=
  let c := s.srcCore.ctx
  let found := (List.finRange 8).findSome? fun z => match zpoolOf s.m c z with
    | .ok p => if p.isHeader r.head.toNat then some (z, p) else none
    | .error _ => none
  match found with
  | none => .error (.trap { code := 2, place := 5, addr := r.head.setWidth 64 })
  | some (z, p) =>
    match cutList { ctx := c, z := z, actor := jobActor s.m s.cur.die s.cur.core, pool := p } s.m r.head.toNat n with
    | .ok m => .ok { s with m := m }
    | .error (e, _) => accStop s 5 e

/-- SQAC (R317, R318). -/
def execSqac (o : SlotOp) (s : State) : Out :=
  slot (.sqac o) s (do
    let (n, r) ← openReq s o
    let at_ := addrOf s o.b
    match r.tree with
    | none => trapAt 5 1
    | some (ns, drows, dstride) =>
      alignTest 5 64 at_
      let (hb, s) ← memLoad 5 at_ 64 s
      let h := ofBytes hb
      let stride := fld h 96 32
      if fld h 48 48 ≠ 0 ∨ fld h 128 384 ≠ 0 ∨ !strideOk r.vocab.toNat stride then trapAt 5 1
      else
        let ks := List.range (ns.length + 1)
        let (full, s) ← readRows s (fld h 0 48) stride r.vocab.toNat ks
        let (draft, s) ← (if r.rule = 2 then readRows s drows.toNat dstride.toNat r.vocab.toNat ks else .ok ([], s))
        let (j, corr, m) := judgeLoop r (fun k => full.getD k []) (fun k => draft.getD k []) s.m 9 { draws := r.draws.toNat }
        let len := r.length + BitVec.ofNat 32 j.c
        let (r, s) ← reqSync { s with m := m } { r with length := len, tree := none, draws := BitVec.ofNat 64 j.draws }
        let s ← cutChain s r len.toNat
        let res := j.node.getD 31 * 2 ^ 32 + j.c * 2 ^ 28 + j.k * 2 ^ 24 + corr
        .ok (setScal o.dst res (s.modM fun m => setReq m s.cur.die n (some r))))

/-- SQRB (R319). -/
def execSqrb (o : SlotOp) (s : State) : Out :=
  slot (.sqrb o) s (do
    let (n, r) ← openReq s o
    let len ← fetch32 s 5 o.b
    if r.length.toNat < len then trapAt 5 1
    else
      let s ← cutChain s r len
      .ok (s.modM fun m => setReq m s.cur.die n (some { r with length := BitVec.ofNat 32 len, tree := none })))

/-- SQPM (R319). -/
def execSqpm (o : SlotOp) (s : State) : Out :=
  slot (.sqpm o) s (do
    let (n, r) ← openReq s o
    let at_ := addrOf s o.b
    alignTest 5 64 at_
    let s ← memStore 5 at_ (toBytes 64 (reqImage r)) s
    let (_, s) ← reqSync s r
    .ok (setScal o.dst 0 (s.modM fun m => setReq m s.cur.die n none)))

/-- SQRS (R320). -/
def execSqrs (o : SlotOp) (s : State) : Out :=
  slot (.sqrs o) s (do
    let at_ := addrOf s o.a
    alignTest 5 64 at_
    let (bs, s) ← memLoad 5 at_ 64 s
    match imageReq s.srcCore.ctx (ofBytes bs) with
    | none => trapAt 5 1
    | some r =>
      match (List.range 2048).find? fun n => (getReq s.m s.cur.die n).isNone with
      | none => .ok (setScal o.dst (2 ^ 64 - 1) s)
      | some n =>
        let (r, s) ← reqSync s r
        .ok (setScal o.dst n (s.modM fun m => setReq m s.cur.die n (some r))))

/-- SQST (R320). -/
def execSqst (o : SlotOp) (s : State) : Out :=
  slot (.sqst o) s (do
    let n ← fetch64 s 5 o.a
    if 2048 ≤ n then trapAt 5 1
    else match getReq s.src s.cur.die n with
      | none => .ok (setScal o.dst 0 s)
      | some r =>
        if r.ctx ≠ s.srcCore.ctx then trapAt 5 2
        else .ok (setScal o.dst (2 ^ 40 + r.rule * 2 ^ 38 + r.nodes.length * 2 ^ 32 + r.length.toNat) s))

end Sys2Proof.Machine
end

