-- ==== Sys2Proof/Machine/SpecRegs.lean ====
section
/-! DEFINITION. The special registers: GETX and SETX (02 R53 to R62, 04 R140, R141, 14 R344, 15 R361). -/

namespace Sys2Proof.Machine

/-- The number of a special register (04 R140). -/
def specNum : Src → Nat
  | .lit w => w.toNat
  | _ => 1023

/-- Whether 02 R53 lists a number. -/
def specListed (n : Nat) : Bool :=
  decide (n ≤ 0x00E) || (decide (0x010 ≤ n) && decide (n ≤ 0x01F)) || (decide (0x040 ≤ n) && decide (n ≤ 0x090))

/-- Whether a listed register may be written (02 R53). -/
def specWritable (n : Nat) : Bool :=
  [0, 1, 2, 3, 4, 9, 0xA, 0xC, 0xE].contains n || (decide (0x010 ≤ n) && decide (n ≤ 0x01F))

/-- qstat (02 R59). -/
def qstatOf (c : Core) : Nat :=
  let spill := fun (q : Queue) => match q.ring with
    | some r => if r.sizes.isEmpty then 0 else 1
    | none => 0
  spill c.qxs * 2 ^ 29 + spill c.qlx * 2 ^ 28 + c.tsx * 2 ^ 23 + c.txs * 2 ^ 18 + c.txl * 2 ^ 13 + c.tlx * 2 ^ 8 +
    c.qxs.entries.length * 2 ^ 4 + c.qlx.entries.length

/-- jobid (02 R58). -/
def jobidOf (c : Core) : Nat :=
  match c.job with
  | some j => j.node.toNat * 2 ^ 16 + j.index.toNat
  | none => 0

/-- ctxid (02 R58). -/
def ctxidOf (m : Module) (c : Fin 64) : Nat := ctxTuple m c * 2 ^ 8 + c.val

/-- bmap (14 R344). -/
def bmapOf (m : Module) (d : Fin 16) (c : Fin 64) : Nat :=
  let x := m.die d
  let live := ((List.range 1024).filter fun i => bankLive x (i / 512) (i / 32 % 16) (i % 32)).length
  live * 2 ^ 48 + x.gen.toNat * 2 ^ 32 + ctxLayers m c (2 * d.val + 1) * 2 ^ 16 + ctxLayers m c (2 * d.val)

/-- Word `k` of an eight-word record. -/
def Rec8.word (r : Rec8) (k : Nat) : Nat :=
  (match k with
  | 0 => r.w0 | 1 => r.w1 | 2 => r.w2 | 3 => r.w3 | 4 => r.w4 | 5 => r.w5 | 6 => r.w6 | _ => r.w7).toNat

/-- The value of a special register as a stream reads it (02 R53 to R62). -/
def specRead (m : Module) (w : Who) (n : Nat) : Nat :=
  let c := m.core w.die w.core
  let x := m.strm w
  let d := m.die w.die
  if n = 0x000 then x.cols.toNat * 2 ^ 8 + x.rows.toNat
  else if n = 0x001 then x.jord.toNat
  else if n = 0x002 then x.jflg.toNat
  else if n = 0x003 then x.fflg.toNat
  else if n = 0x004 then x.rmode.toNat
  else if n = 0x005 then stridOf w
  else if n = 0x006 then jobidOf c
  else if n = 0x007 then ctxidOf m c.ctx
  else if n = 0x008 then d.cyc.toNat
  else if n = 0x009 then x.uvec.toNat
  else if n = 0x00A then (if x.irqs.isEmpty then 0 else 2) + (if x.uien then 1 else 0)
  else if n = 0x00B then qstatOf c
  else if n = 0x00C then c.anchor.toNat
  else if n = 0x00D then x.tstat.toNat
  else if n = 0x00E then c.est.toNat
  else if n < 0x020 then (Tbl.get 0 c.cb (n - 0x010)).toNat
  else if n < 0x048 then x.trec.word (n - 0x040)
  else if n < 0x050 then x.tprev.word (n - 0x048)
  else if n < 0x060 then (d.alog.getD (n - 0x050) 0).toNat
  else if n < 0x070 then (d.blog.getD (n - 0x060) 0).toNat
  else if n < 0x080 then (d.klog.getD (n - 0x070) 0).toNat
  else if n < 0x090 then progWord (m.chain (.job w.die w.core (Fin.ofNat 16 n)))
  else bmapOf m w.die c.ctx

/-- GETX (04 R140, R141): the register is read at issue. -/
def execGetx (o : SlotOp) (s : State) : Out :=
  let n := specNum o.a
  let v := match s.srcStrm.issued with
    | some i => i.getx.toNat
    | none => specRead s.src s.cur n
  slot (.getx o) s (if specListed n then
    .ok (setScal o.dst v { s with bnd := { s.bnd with getx := BitVec.ofNat 64 v } }) else trapAt 5 1)

/-- The bits of a circular-buffer handle (02 R61). -/
def handleBits (v : Nat) : Nat := fld v 63 1 * 2 ^ 63 + fld v 0 20

/-- Write a circular-buffer handle: a valid one names a granted object (14 R333), and its view is cleared
(07 R200). -/
def writeHandle (k v : Nat) (s : State) : Res :=
  if hValid v ∧ !grantBuf s.src s.srcCore.ctx (fld v 0 17) then trapAt 5 2
  else .ok (s.modCore fun c => { c with
    cb := Tbl.set 0 c.cb k (BitVec.ofNat 64 (handleBits v)), bufs := Tbl.set none c.bufs k none })

/-- Write uvec: it is aligned, and its page may be fetched from (02 R60, 15 R361). -/
def writeUvec (v : Nat) (s : State) : Res :=
  let a := v % 2 ^ 57
  if a % 64 ≠ 0 then .error (.trap { code := 3, place := 5, addr := BitVec.ofNat 64 a })
  else do
    let (_, m) ← orStop s 5 (translate s.m (some (.core s.cur.die s.cur.core)) s.srcCore.ctx .fetch a)
    .ok ({ s with m := m }.modStrm fun x => { x with uvec := BitVec.ofNat 57 a })

/-- Write a special register (02 R54 to R62); flags of the bundle's other ops join a written flag register
(04 R141). -/
def specWrite (n v : Nat) (s : State) : Res :=
  if n = 0x000 then
    if fld v 0 7 = 0 ∨ 64 < fld v 0 7 ∨ fld v 8 7 = 0 ∨ 64 < fld v 8 7 then trapAt 5 1
    else .ok (s.modStrm fun x => { x with rows := BitVec.ofNat 7 v, cols := BitVec.ofNat 7 (v / 2 ^ 8) })
  else if n = 0x001 then .ok (s.modStrm fun x => { x with jord := BitVec.ofNat 2 v })
  else if n = 0x002 then .ok (s.modStrm fun x => { x with jflg := BitVec.ofNat 20 v ||| s.bnd.jflg })
  else if n = 0x003 then .ok (s.modStrm fun x => { x with fflg := BitVec.ofNat 7 v ||| s.bnd.fflg })
  else if n = 0x004 then .ok (s.modStrm fun x => { x with rmode := BitVec.ofNat 2 v })
  else if n = 0x009 then writeUvec v s
  else if n = 0x00A then .ok (s.modStrm fun x => { x with uien := bitAt v 0 })
  else if n = 0x00C then .ok (s.modCore fun c => { c with anchor := BitVec.ofNat 8 v })
  else if n = 0x00E then
    .ok (s.modCore fun c => { c with est := BitVec.ofNat 32 v, estAt := (s.m.die s.cur.die).cyc })
  else writeHandle (n - 0x010) v s

/-- SETX (04 R140, R141). -/
def execSetx (o : SlotOp) (s : State) : Out :=
  let n := specNum o.a
  slot (.setx o) s (
    if !specListed n || !specWritable n then trapAt 5 1
    else do
      let v ← fetch64 s 5 o.b
      specWrite n v s)

end Sys2Proof.Machine
end

