-- ==== Sys2Proof/Machine/Sync.lean ====
section
/-! DEFINITION. Atomics, their combining in the routers, signals and the barrier instructions (08 R228 to R240,
07 R209, R210). -/

namespace Sys2Proof.Machine

/-! ### Atomics -/

/-- The new value of a word and what the requester receives, from the old value and the sources B and C
(R230 to R232). -/
def atomNew (op : AtomOp) (t : Ty) (old b c : Nat) : Nat × Nat :=
  let r := ext64 t old
  match op with
  | .add => ((old + b) % 2 ^ tyBits t, r)
  | .addBounded =>
    let x := (old : Int) + signed 32 b
    if 0 ≤ x ∧ x ≤ c then (x.toNat, 2 ^ 63 + old) else (old, old)
  | .incWrap => (if b ≤ old then 0 else old + 1, r)
  | .decWrap => (if old = 0 ∨ b < old then b else old - 1, r)
  | .cas => (if old = b then c else old, r)
  | .swap => (b, r)
  | .min => (if valI t b < valI t old then b else old, r)
  | .max => (if valI t old < valI t b then b else old, r)
  | .and => (Nat.land old b, r)
  | .or => (Nat.lor old b, r)
  | .fadd => ((faddB .f32 0 old b).1, r)
  | .fmax => ((minmaxB .f32 true old b).1, r)
  | .signal => ((old + b) % 2 ^ 64, old)

/-- Members in order: the final value, and what each receives (R234, R235). -/
def atomMembers (op : AtomOp) (t : Ty) (c : Nat) : Nat → List Member → Nat × List (Who × Nat)
  | old, [] => (old, [])
  | old, x :: xs =>
    let r := atomNew op t old x.b.toNat c
    let (v, l) := atomMembers op t c r.1 xs
    (v, (x.who, r.2) :: l)

/-- The key of a 64-byte line's record at its home engine (07 R194). -/
def lineKey (pa : Nat) : Nat := pa / 64 * 64 + 1

/-- The home engine performs a request (R229): the value before it, and the module. A release joins its clock into
the record of the line; a signal object keeps its own clock and wakes its waiters (R238). -/
def performAtom (m : Module) (r : AtomReq) : Nat × Module :=
  let w := tyBytes r.ty
  let old := Memory.read m.phys r.pa w
  let v := (atomMembers r.op r.ty r.c.toNat old r.members).1
  if r.op = .signal then (old, changeSignal m r.pa (BitVec.ofNat 64 v) r.clk)
  else
    let m := { m with phys := Memory.write m.phys r.pa w v }
    if bitAt r.order 1 then
      (old, m.modDie (homeDie r.pa) fun x => { x with
        words := Tbl.set [] x.words (lineKey r.pa) (Clock.join (Tbl.get [] x.words (lineKey r.pa)) r.clk) })
    else (old, m)

/-- A reply reaches a stream that waits for it. -/
def replyTo (m : Module) (w : Who) (x : Wait) : Module :=
  if (m.strm w).wait = .atomic then m.modStrm w fun s => { s with wait := x } else m

/-- The clock that an atomic with an acquire takes at its return (07 R194). -/
def atomClock (m : Module) (r : AtomReq) : Clock :=
  if bitAt r.order 0 then Tbl.get [] (m.die (homeDie r.pa)).words (lineKey r.pa) else []

/-- Whether a request passes a router without waiting (R233). -/
def Router.idle (x : Router) : Bool := !x.busy && x.arriving.isEmpty && x.queue.isEmpty

/-- An atomic or a signal change in slot 3 (R228, R229, R233, R237, R238): `b` and `c` are its sources, read in its
type. -/
def atomicOp (i : Instr) (o : SlotOp) (op : AtomOp) (t : Ty) (get : State → Except Stop (Nat × Nat)) (s : State) :
    Out :=
  slot i s (match s.srcStrm.wait with
    | .replied r k => .ok (jobAcquire k (setScal o.dst r.toNat s))
    | .lost old a => .error (.trap { code := 0x0B, place := 5, addr := a, info := old })
    | .atomic => parked s
    | _ => do
      let v ← fetch64 s 5 o.a
      let (b, c) ← get s
      let dev := v % 2 ^ 57
      let trap := fun (code : Nat) => (.error (.trap { code := code, place := 5, addr := BitVec.ofNat 64 v }) : Res)
      if v % tyBytes t ≠ 0 then trap 3
      else if v ≠ dev then trap 4
      else
        let (pa, m) ← orStop s 5 (translate s.m (some (.sye s.cur.die)) s.srcCore.ctx .write dev)
        let rel := bitAt o.opx.val 1 || decide (op = .signal)
        if (Loc.phys pa).frozen m then waiting s
        else if poisoned m pa then orStop s 5 (.error (.fault 0x0F 0 dev (poisonLine pa)))
        else if rel && releaseWaits s.src s.cur true then waiting s
        else
          let counted := fun (m : Module) => if rel then afterRelease m s.cur.die s.cur.core else m
          let req := fun (m : Module) => ({
            op := op, ty := t, order := o.opx.val % 4, clk := if rel then releaseClock m s.cur.die s.cur.core else []
            ctx := s.srcCore.ctx, dev := BitVec.ofNat 64 v, pa := pa
            c := BitVec.ofNat 64 c, members := [⟨s.cur, BitVec.ofNat 64 b⟩] } : AtomReq)
          let k := clusterOf s.cur.core
          if (s.src.router (.cluster s.cur.die k)).idle && (s.src.router (.later (homeDie pa))).idle then
            let (old, m) := performAtom m (req m)
            .ok (jobAcquire (atomClock m (req m)) (setScal o.dst (atomNew op t old b c).2 { s with m := counted m }))
          else parkWith s fun y =>
            (counted (y.modRouter (.cluster s.cur.die k) fun z => { z with arriving := z.arriving ++ [req y] })).modStrm s.cur
                fun z => { z with wait := .atomic })

/-- Sources B and C in the op's own type. -/
def srcB (o : SlotOp) (s : State) : Except Stop (Nat × Nat) := do
  let (b, _) ← fetch s 5 o.ty o.b
  .ok (b.elem o.ty 0, 0)
def srcBC (o : SlotOp) (s : State) : Except Stop (Nat × Nat) := do
  let (b, _) ← fetch s 5 o.ty o.b
  let (c, _) ← fetch s 5 o.ty o.c
  .ok (b.elem o.ty 0, c.elem o.ty 0)

/-- AFAD (R230). -/
def execAfad (o : SlotOp) (s : State) : Out := atomicOp (.afad o) o .add o.ty (srcB o) s

/-- AFAB (R232). -/
def execAfab (o : SlotOp) (s : State) : Out := atomicOp (.afab o) o .addBounded o.ty (srcBC o) s

/-- AINW (R231). -/
def execAinw (o : SlotOp) (s : State) : Out := atomicOp (.ainw o) o .incWrap o.ty (srcB o) s

/-- ADCW (R231). -/
def execAdcw (o : SlotOp) (s : State) : Out := atomicOp (.adcw o) o .decWrap o.ty (srcB o) s

/-- ACAS (R230). -/
def execAcas (o : SlotOp) (s : State) : Out := atomicOp (.acas o) o .cas o.ty (srcBC o) s

/-- ASWP (R230). -/
def execAswp (o : SlotOp) (s : State) : Out := atomicOp (.aswp o) o .swap o.ty (srcB o) s

/-- AMIN (R230). -/
def execAmin (o : SlotOp) (s : State) : Out := atomicOp (.amin o) o .min o.ty (srcB o) s

/-- AMAX (R230). -/
def execAmax (o : SlotOp) (s : State) : Out := atomicOp (.amax o) o .max o.ty (srcB o) s

/-- AAND (R230). -/
def execAand (o : SlotOp) (s : State) : Out := atomicOp (.aand o) o .and o.ty (srcB o) s

/-- AOR (R230). -/
def execAor (o : SlotOp) (s : State) : Out := atomicOp (.aor o) o .or o.ty (srcB o) s

/-- AFAF (R230). -/
def execAfaf (o : SlotOp) (s : State) : Out := atomicOp (.afaf o) o .fadd o.ty (srcB o) s

/-- AFMX (R230). -/
def execAfmx (o : SlotOp) (s : State) : Out := atomicOp (.afmx o) o .fmax o.ty (srcB o) s

/-! ### Routers -/

/-- Decombining records that a router holds, and how many it has in use (R233, R235). -/
def routerRecords : Nat := 64
def recordsOf (ps : List AtomReq) : Nat :=
  if ps.any fun r => decide (r.op = .addBounded) then (if 1 < ps.length then 1 else 0) else ps.length - 1
def Router.used (x : Router) : Nat :=
  ((x.queue ++ x.sent).map recordsOf).sum + (x.replies.map fun p => recordsOf p.parts).sum

/-- The request that goes on for requests that have combined: the members of the first, then those of the next (R234). -/
def joinReqs : List AtomReq → Option AtomReq
  | [] => none
  | r :: rs => some { r with members := r.members ++ rs.flatMap fun q => q.members }

/-- Whether an arriving request may combine with those of an output queue's entry: AFAB at the cluster's router only, up to
four (R233, R235). -/
def mayCombine (r : RouterId) (ps : List AtomReq) (y : AtomReq) : Bool :=
  ps.all fun x =>
    (decide (x.op = .add) || (decide (x.op = .addBounded) && decide (x.c = y.c) && decide (ps.length < 4) &&
      (match r with
      | .cluster _ _ => true
      | .later _ => false))) &&
    decide (x.op = y.op) && x.order == 0 && y.order == 0 && decide (x.ctx = y.ctx) && decide (x.dev = y.dev) &&
    decide (x.ty = y.ty)

/-- Put an arriving request behind those that wait, combined with the first it may combine with while a record is
free (R233, R236). -/
def combineInto (r : RouterId) (free : Nat) (y : AtomReq) : List (List AtomReq) → List (List AtomReq)
  | [] => [[y]]
  | x :: xs =>
    if mayCombine r x y && decide (recordsOf (x ++ [y]) ≤ recordsOf x + free) then (x ++ [y]) :: xs
    else x :: combineInto r free y xs

/-- ROUTER_COMBINE (R233, R234). -/
def execRouterCombine (die : Fin 16) (cluster : Option (Fin 8)) (s : State) : Out :=
  let r := RouterId.of die cluster
  .next { s with m := s.m.modRouter r fun x =>
    match x.arriving with
    | [] => x
    | y :: ys => { x with arriving := ys, queue := combineInto r (routerRecords - x.used) y x.queue } }

/-- The value before each of the requests that combined, from the value before the first (R234). -/
def partOlds : Nat → List AtomReq → List (Nat × AtomReq)
  | _, [] => []
  | old, r :: rs => (old, r) :: partOlds (atomMembers r.op r.ty r.c.toNat old r.members).1 rs

/-- The cluster's router that a request came through. -/
def AtomReq.home (r : AtomReq) : RouterId :=
  match r.members with
  | x :: _ => .cluster x.who.die (clusterOf x.who.core)
  | [] => .cluster 0 0

/-- The requests that a combined one of a cluster's router stands for. -/
def AtomReq.split (r : AtomReq) : List AtomReq := r.members.map fun x => { r with members := [x] }

/-- A reply with the value before a request: to the stream that waits, or to the router of its cluster, which takes it
apart. -/
def answerPart (m : Module) (r : AtomReq) (old : Nat) (k : Clock) : Module :=
  match r.members with
  | [y] => replyTo (m.modRouter r.home fun x => { x with sent := x.sent.erase r.split }) y.who
      (.replied (BitVec.ofNat 64 (atomNew r.op r.ty old y.b.toNat r.c.toNat).2) k)
  | _ => m.modRouter r.home fun x => { x with
      sent := x.sent.erase r.split, replies := x.replies ++ [{ old := BitVec.ofNat 64 old, parts := r.split }] }

/-- Every requester of a request whose line is poisoned raises ECCUE; nothing is performed. -/
def failPart (m : Module) (r : AtomReq) : Module :=
  let m := m.modRouter r.home fun x => { x with sent := x.sent.erase r.split }
  r.members.foldl (fun m y => failAtomic m y.who { code := 0x0F, place := 5, addr := r.dev, line := poisonLine r.pa }) m

/-- A request reaches its home engine, and its reply leaves: for one of several requests, through the router where they
combined. -/
def applyAt (m : Module) (r : RouterId) (ps : List AtomReq) : Module :=
  match joinReqs ps with
  | none => m
  | some q =>
    if poisoned m q.pa then ps.foldl failPart m
    else
    let (old, m) := performAtom m q
    match ps with
    | [p] => answerPart m p old (atomClock m q)
    | _ => m.modRouter r fun x => { x with replies := x.replies ++ [{ old := BitVec.ofNat 64 old, parts := ps }] }

/-- ATOMIC_APPLY (R229, R233 to R235): the oldest request of an output goes on, to a later router where requests wait or that
holds them back, and otherwise to its home engine, which waits while the word's scratchpad is frozen (15 R365). -/
def execAtomicApply (die : Fin 16) (cluster : Option (Fin 8)) (s : State) : Out :=
  let r := RouterId.of die cluster
  let x := s.m.router r
  .next (match x.queue, x.busy with
    | ps :: rest, false =>
      let m := s.m.setRouter r { x with queue := rest }
      let home := if ps.any fun q => (Loc.phys q.pa).frozen s.m then s else { s with m := applyAt m r ps }
      match r, joinReqs ps with
      | .cluster _ _, some q =>
        let next := RouterId.later (homeDie q.pa)
        if (m.router next).idle then home
        else { s with m := (m.modRouter r fun y => { y with sent := y.sent ++ [ps] }).modRouter next fun y =>
          { y with arriving := y.arriving ++ [q] } }
      | _, _ => home
    | _, _ => s)

/-- Whether the record that answers the request at place `j` of those that combined is lost (R234, R235, R237): each request
of an AFAD behind the first has a record of its own, the members of an AFAB share one. -/
def recordLost (op : AtomOp) (lost : List Nat) (j : Nat) : Bool :=
  j != 0 && (if op = .addBounded then !lost.isEmpty else lost.contains j)

/-- Every requester of a request whose record is lost (R237). -/
def losePart (m : Module) (r : AtomReq) (old : W64) : Module :=
  let m := m.modRouter r.home fun x => { x with sent := x.sent.erase r.split }
  r.members.foldl (fun m y => replyTo m y.who (.lost old r.dev)) m

/-- DECOMBINE_REPLY (R234, R235, R237): the oldest reply is split; `lost` numbers the requests whose records are lost. -/
def execDecombineReply (die : Fin 16) (cluster : Option (Fin 8)) (lost : List Nat) (s : State) : Out :=
  let r := RouterId.of die cluster
  let x := s.m.router r
  .next (match x.replies with
    | [] => s
    | p :: rest =>
      let m := s.m.setRouter r { x with replies := rest }
      { s with m := (partOlds p.old.toNat p.parts).zipIdx.foldl (fun m v =>
          if recordLost v.1.2.op lost v.2 then losePart m v.1.2 p.old else answerPart m v.1.2 v.1.1 []) m })

/-! ### Signals -/

/-- SDEC (R238). -/
def execSdec (o : SlotOp) (s : State) : Out :=
  atomicOp (.sdec o) o .signal .i64 (fun s => (fetch64 s 5 o.b).map fun v => (2 ^ 64 - v, 0)) s

/-- SADD (R238). -/
def execSadd (o : SlotOp) (s : State) : Out :=
  atomicOp (.sadd o) o .signal .i64 (fun s => (fetch64 s 5 o.b).map fun v => (v, 0)) s

/-! ### Barrier slots -/

/-- The slot that source A names (R239). -/
def slotNumber (s : State) (o : SlotOp) : Except Stop (Fin 256) := do
  let n ← fetch64 s 5 o.a
  if h : n < 256 then .ok ⟨n, h⟩ else trapAt 5 1

/-- BINV (R239, R240, 07 R209). The epoch of an inbound slot starts at 0 (09 R289). -/
def execBinv (o : SlotOp) (s : State) : Out :=
  slot (.binv o) s (do
    let n ← slotNumber s o
    let p ← fetch64 s 5 o.b
    if 65535 < p then trapAt 5 1
    else if !grantSlot s.src s.srcCore.ctx n.val then trapAt 5 2
    else
      let d := s.cur.die
      let b := s.src.barrier d n
      if b.pend ≠ 0 ∨ b.npend ≠ 0 then waiting s
      else
        let m := s.m.setBarrier d n { phase := b.phase, parties := p, valid := true, clkDone := b.clkDone }
        .ok { s with m := m.mapStreams fun w x =>
          if w.die = d then
            match x.cwait with
            | .waitb k _ => if k = n then { x with cwait := .waitbReset } else x
            | _ => x
          else x })

/-- BEXP (R239, R240, 07 R210). -/
def execBexp (o : SlotOp) (s : State) : Out :=
  slot (.bexp o) s (do
    let n ← slotNumber s o
    let e ← fetch64 s 5 o.b
    slotGrant s 5 n.val
    let d := s.cur.die
    .ok (s.modM fun m => settleSlot m d n ((m.barrier d n).post (decide (o.opx.val % 2 = 1)) (e % 2 ^ 48))))

/-- BARV (R239, R240, 07 R210): an arrival and a release; the arrival record takes the phase joined (R241). -/
def execBarv (o : SlotOp) (s : State) : Out :=
  slot (.barv o) s (do
    let n ← slotNumber s o
    slotGrant s 5 n.val
    let d := s.cur.die
    let b := s.src.barrier d n
    if b.ovr then .error (.trap (overrunTrap s 5 n.val b.raced))
    else match b.arrive (jobClock s) with
      | none => .error (.trap (overrunTrap s 5 n.val none))
      | some (b, φ) =>
        releaseTest s false
        let s := jobReleased (s.modM fun m => settleSlot m d n b)
        let s := s.modCore fun c => { c with arrivals := Tbl.set none c.arrivals n.val (some φ) }
        .ok (setScal o.dst φ.toNat s))

/-- BARRIER_DELIVERY (07 R210): the oldest completion that another die has sent is applied. -/
def execBarrierDelivery (die : Fin 16) (s : State) : Out :=
  .next (match (s.m.die die).deliveries with
    | [] => s
    | (n, φ, bytes, drop) :: rest =>
      let m := s.m.modDie die fun x => { x with deliveries := rest }
      { s with m := settleSlot m die n ((m.barrier die n).deliver φ bytes drop) })

end Sys2Proof.Machine
end

