-- ==== Sys2Proof/Machine/Dispatch.lean ====
section
/-! DEFINITION. The dispatch: one arm for each constructor of Instr, each a direct call of its meaning. -/

namespace Sys2Proof.Machine

/-- The meaning of an instruction. -/
def exec (i : Instr) (s : State) : Host.Outcome State Fault Refusal :=
  match i with
  | .br off => Sys2Proof.Machine.execBr off s
  | .brz r off => Sys2Proof.Machine.execBrz r off s
  | .brnz r off => Sys2Proof.Machine.execBrnz r off s
  | .brp p t off => Sys2Proof.Machine.execBrp p t off s
  | .brqe q off => Sys2Proof.Machine.execBrqe q off s
  | .loop n last => Sys2Proof.Machine.execLoop n last s
  | .call off => Sys2Proof.Machine.execCall off s
  | .ret => Sys2Proof.Machine.execRet s
  | .jmpi r => Sys2Proof.Machine.execJmpi r s
  | .rdv => Sys2Proof.Machine.execRdv s
  | .exit => Sys2Proof.Machine.execExit s
  | .yield => Sys2Proof.Machine.execYield s
  | .join g => Sys2Proof.Machine.execJoin g s
  | .leave g => Sys2Proof.Machine.execLeave g s
  | .gbar g => Sys2Proof.Machine.execGbar g s
  | .waits r => Sys2Proof.Machine.execWaits r s
  | .waitb slot => Sys2Proof.Machine.execWaitb slot s
  | .trap n => Sys2Proof.Machine.execTrap n s
  | .eret => Sys2Proof.Machine.execEret s
  | .npre us => Sys2Proof.Machine.execNpre us s
  | .xpre => Sys2Proof.Machine.execXpre s
  | .ainc a imm => Sys2Proof.Machine.execAinc a imm s
  | .amod a m => Sys2Proof.Machine.execAmod a m s
  | .abrv a m => Sys2Proof.Machine.execAbrv a m s
  | .acir a m => Sys2Proof.Machine.execAcir a m s
  | .aset a hi lo => Sys2Proof.Machine.execAset a hi lo s
  | .mset part m v => Sys2Proof.Machine.execMset part m v s
  | .nop => Sys2Proof.Machine.execNop s
  | .iadd o => Sys2Proof.Machine.execIadd o s
  | .isub o => Sys2Proof.Machine.execIsub o s
  | .iadds o => Sys2Proof.Machine.execIadds o s
  | .isubs o => Sys2Proof.Machine.execIsubs o s
  | .imul o => Sys2Proof.Machine.execImul o s
  | .imulh o => Sys2Proof.Machine.execImulh o s
  | .imad o => Sys2Proof.Machine.execImad o s
  | .ishl o => Sys2Proof.Machine.execIshl o s
  | .ishr o => Sys2Proof.Machine.execIshr o s
  | .isra o => Sys2Proof.Machine.execIsra o s
  | .iand o => Sys2Proof.Machine.execIand o s
  | .ior o => Sys2Proof.Machine.execIor o s
  | .ixor o => Sys2Proof.Machine.execIxor o s
  | .imin o => Sys2Proof.Machine.execImin o s
  | .imax o => Sys2Proof.Machine.execImax o s
  | .iabs o => Sys2Proof.Machine.execIabs o s
  | .iclz o => Sys2Proof.Machine.execIclz o s
  | .ipop o => Sys2Proof.Machine.execIpop o s
  | .imov o => Sys2Proof.Machine.execImov o s
  | .ibfe o => Sys2Proof.Machine.execIbfe o s
  | .ibfi o => Sys2Proof.Machine.execIbfi o s
  | .faddF32 o => Sys2Proof.Machine.execFaddF32 o s
  | .faddBf16 o => Sys2Proof.Machine.execFaddBf16 o s
  | .faddF16 o => Sys2Proof.Machine.execFaddF16 o s
  | .fsubF32 o => Sys2Proof.Machine.execFsubF32 o s
  | .fsubBf16 o => Sys2Proof.Machine.execFsubBf16 o s
  | .fsubF16 o => Sys2Proof.Machine.execFsubF16 o s
  | .fmulF32 o => Sys2Proof.Machine.execFmulF32 o s
  | .fmulBf16 o => Sys2Proof.Machine.execFmulBf16 o s
  | .fmulF16 o => Sys2Proof.Machine.execFmulF16 o s
  | .fmaF32 o => Sys2Proof.Machine.execFmaF32 o s
  | .fmaBf16 o => Sys2Proof.Machine.execFmaBf16 o s
  | .fmaF16 o => Sys2Proof.Machine.execFmaF16 o s
  | .fdivF32 o => Sys2Proof.Machine.execFdivF32 o s
  | .fdivBf16 o => Sys2Proof.Machine.execFdivBf16 o s
  | .fdivF16 o => Sys2Proof.Machine.execFdivF16 o s
  | .fminF32 o => Sys2Proof.Machine.execFminF32 o s
  | .fminBf16 o => Sys2Proof.Machine.execFminBf16 o s
  | .fminF16 o => Sys2Proof.Machine.execFminF16 o s
  | .fmaxF32 o => Sys2Proof.Machine.execFmaxF32 o s
  | .fmaxBf16 o => Sys2Proof.Machine.execFmaxBf16 o s
  | .fmaxF16 o => Sys2Proof.Machine.execFmaxF16 o s
  | .fabs o => Sys2Proof.Machine.execFabs o s
  | .fneg o => Sys2Proof.Machine.execFneg o s
  | .fmov o => Sys2Proof.Machine.execFmov o s
  | .fscl o => Sys2Proof.Machine.execFscl o s
  | .fclp o => Sys2Proof.Machine.execFclp o s
  | .flrp o => Sys2Proof.Machine.execFlrp o s
  | .icmp o => Sys2Proof.Machine.execIcmp o s
  | .fcmp o => Sys2Proof.Machine.execFcmp o s
  | .sel o => Sys2Proof.Machine.execSel o s
  | .pand o => Sys2Proof.Machine.execPand o s
  | .por o => Sys2Proof.Machine.execPor o s
  | .pxor o => Sys2Proof.Machine.execPxor o s
  | .pnot o => Sys2Proof.Machine.execPnot o s
  | .pcnt o => Sys2Proof.Machine.execPcnt o s
  | .rsum o => Sys2Proof.Machine.execRsum o s
  | .rsqs o => Sys2Proof.Machine.execRsqs o s
  | .rmax o => Sys2Proof.Machine.execRmax o s
  | .rmin o => Sys2Proof.Machine.execRmin o s
  | .rmxa o => Sys2Proof.Machine.execRmxa o s
  | .rmxaBlk o => Sys2Proof.Machine.execRmxaBlk o s
  | .rscn o => Sys2Proof.Machine.execRscn o s
  | .argm o => Sys2Proof.Machine.execArgm o s
  | .topk o => Sys2Proof.Machine.execTopk o s
  | .trns o => Sys2Proof.Machine.execTrns o s
  | .bcst o => Sys2Proof.Machine.execBcst o s
  | .shuf o => Sys2Proof.Machine.execShuf o s
  | .vext o => Sys2Proof.Machine.execVext o s
  | .vins o => Sys2Proof.Machine.execVins o s
  | .iota o => Sys2Proof.Machine.execIota o s
  | .cvt o => Sys2Proof.Machine.execCvt o s
  | .cvfi o => Sys2Proof.Machine.execCvfi o s
  | .cvif o => Sys2Proof.Machine.execCvif o s
  | .qblk o => Sys2Proof.Machine.execQblk o s
  | .dqbk o => Sys2Proof.Machine.execDqbk o s
  | .dcf4 o => Sys2Proof.Machine.execDcf4 o s
  | .nwsl o => Sys2Proof.Machine.execNwsl o s
  | .nwpk o => Sys2Proof.Machine.execNwpk o s
  | .fexp o => Sys2Proof.Machine.execFexp o s
  | .fexp2 o => Sys2Proof.Machine.execFexp2 o s
  | .flog o => Sys2Proof.Machine.execFlog o s
  | .flog2 o => Sys2Proof.Machine.execFlog2 o s
  | .frcp o => Sys2Proof.Machine.execFrcp o s
  | .fsqt o => Sys2Proof.Machine.execFsqt o s
  | .frsq o => Sys2Proof.Machine.execFrsq o s
  | .ftnh o => Sys2Proof.Machine.execFtnh o s
  | .fsig o => Sys2Proof.Machine.execFsig o s
  | .fglu o => Sys2Proof.Machine.execFglu o s
  | .fsin o => Sys2Proof.Machine.execFsin o s
  | .fcos o => Sys2Proof.Machine.execFcos o s
  | .fsmx o => Sys2Proof.Machine.execFsmx o s
  | .rand o => Sys2Proof.Machine.execRand o s
  | .jsed o => Sys2Proof.Machine.execJsed o s
  | .jext o => Sys2Proof.Machine.execJext o s
  | .ldt o => Sys2Proof.Machine.execLdt o s
  | .stt o => Sys2Proof.Machine.execStt o s
  | .lds o => Sys2Proof.Machine.execLds o s
  | .sts o => Sys2Proof.Machine.execSts o s
  | .ldb o => Sys2Proof.Machine.execLdb o s
  | .ldnw o => Sys2Proof.Machine.execLdnw o s
  | .gath o => Sys2Proof.Machine.execGath o s
  | .scat o => Sys2Proof.Machine.execScat o s
  | .tmov o => Sys2Proof.Machine.execTmov o s
  | .wfen o => Sys2Proof.Machine.execWfen o s
  | .cbpb o => Sys2Proof.Machine.execCbpb o s
  | .cbrl o => Sys2Proof.Machine.execCbrl o s
  | .cbwtConsumer o => Sys2Proof.Machine.execCbwtConsumer o s
  | .cbwtProducer o => Sys2Proof.Machine.execCbwtProducer o s
  | .cbstGet o => Sys2Proof.Machine.execCbstGet o s
  | .cbstInit o => Sys2Proof.Machine.execCbstInit o s
  | .afad o => Sys2Proof.Machine.execAfad o s
  | .afab o => Sys2Proof.Machine.execAfab o s
  | .ainw o => Sys2Proof.Machine.execAinw o s
  | .adcw o => Sys2Proof.Machine.execAdcw o s
  | .acas o => Sys2Proof.Machine.execAcas o s
  | .aswp o => Sys2Proof.Machine.execAswp o s
  | .amin o => Sys2Proof.Machine.execAmin o s
  | .amax o => Sys2Proof.Machine.execAmax o s
  | .aand o => Sys2Proof.Machine.execAand o s
  | .aor o => Sys2Proof.Machine.execAor o s
  | .afaf o => Sys2Proof.Machine.execAfaf o s
  | .afmx o => Sys2Proof.Machine.execAfmx o s
  | .atomicApply die cluster => Sys2Proof.Machine.execAtomicApply die cluster s
  | .routerCombine die cluster => Sys2Proof.Machine.execRouterCombine die cluster s
  | .decombineReply die cluster lost => Sys2Proof.Machine.execDecombineReply die cluster lost s
  | .sdec o => Sys2Proof.Machine.execSdec o s
  | .sadd o => Sys2Proof.Machine.execSadd o s
  | .bexp o => Sys2Proof.Machine.execBexp o s
  | .barv o => Sys2Proof.Machine.execBarv o s
  | .binv o => Sys2Proof.Machine.execBinv o s
  | .barrierDelivery die => Sys2Proof.Machine.execBarrierDelivery die s
  | .fenc o => Sys2Proof.Machine.execFenc o s
  | .tdep o => Sys2Proof.Machine.execTdep o s
  | .tcpy o => Sys2Proof.Machine.execTcpy o s
  | .ttak o => Sys2Proof.Machine.execTtak o s
  | .tcan o => Sys2Proof.Machine.execTcan o s
  | .tprb o => Sys2Proof.Machine.execTprb o s
  | .tupleOverflowReturn die slice => Sys2Proof.Machine.execTupleOverflowReturn die slice s
  | .echn o => Sys2Proof.Machine.execEchn o s
  | .ecwt o => Sys2Proof.Machine.execEcwt o s
  | .ecnc o => Sys2Proof.Machine.execEcnc o s
  | .leas o => Sys2Proof.Machine.execLeas o s
  | .lrel o => Sys2Proof.Machine.execLrel o s
  | .leaseGrant die cluster => Sys2Proof.Machine.execLeaseGrant die cluster s
  | .chn o => Sys2Proof.Machine.execChn o s
  | .passComplete die cluster => Sys2Proof.Machine.execPassComplete die cluster s
  | .qspl o => Sys2Proof.Machine.execQspl o s
  | .eddyRefill die core q => Sys2Proof.Machine.execEddyRefill die core q s
  | .uirq o => Sys2Proof.Machine.execUirq o s
  | .interruptTake w => Sys2Proof.Machine.execInterruptTake w s
  | .sqtr o => Sys2Proof.Machine.execSqtr o s
  | .sqac o => Sys2Proof.Machine.execSqac o s
  | .sqrb o => Sys2Proof.Machine.execSqrb o s
  | .sqpm o => Sys2Proof.Machine.execSqpm o s
  | .sqrs o => Sys2Proof.Machine.execSqrs o s
  | .sqst o => Sys2Proof.Machine.execSqst o s
  | .invm o => Sys2Proof.Machine.execInvm o s
  | .getx o => Sys2Proof.Machine.execGetx o s
  | .setx o => Sys2Proof.Machine.execSetx o s
  | .bundleFetch w => Sys2Proof.Machine.execBundleFetch w s
  | .parityReissue w => Sys2Proof.Machine.execParityReissue w s
  | .chainStart e => Sys2Proof.Machine.execChainStart e s
  | .commandComplete c => Sys2Proof.Machine.execCommandComplete c s
  | .cpy r => Sys2Proof.Machine.execCpy r s
  | .cpg r => Sys2Proof.Machine.execCpg r s
  | .cpm r => Sys2Proof.Machine.execCpm r s
  | .mmp r => Sys2Proof.Machine.execMmp r s
  | .mdr r => Sys2Proof.Machine.execMdr r s
  | .atn r => Sys2Proof.Machine.execAtn r s
  | .kap r => Sys2Proof.Machine.execKap r s
  | .ktr r => Sys2Proof.Machine.execKtr r s
  | .kfk r => Sys2Proof.Machine.execKfk r s
  | .mig r => Sys2Proof.Machine.execMig r s
  | .pas r => Sys2Proof.Machine.execPas r s
  | .jmp r => Sys2Proof.Machine.execJmp r s
  | .lpc r => Sys2Proof.Machine.execLpc r s
  | .ifz r => Sys2Proof.Machine.execIfz r s
  | .ifnz r => Sys2Proof.Machine.execIfnz r s
  | .sgd r => Sys2Proof.Machine.execSgd r s
  | .nte r => Sys2Proof.Machine.execNte r s
  | .endRec r => Sys2Proof.Machine.execEndRec r s
  | .hostDeposit ctx slot v => Sys2Proof.Machine.execHostDeposit ctx slot v s
  | .hostTake ctx v => Sys2Proof.Machine.execHostTake ctx v s
  | .registerWriteOther ctx off v => Sys2Proof.Machine.execRegisterWriteOther ctx off v s
  | .launch die => Sys2Proof.Machine.execLaunch die s
  | .launchTagReread die => Sys2Proof.Machine.execLaunchTagReread die s
  | .constantBankLoad die core => Sys2Proof.Machine.execConstantBankLoad die core s
  | .dispatchTick die => Sys2Proof.Machine.execDispatchTick die s
  | .jobEnd die core => Sys2Proof.Machine.execJobEnd die core s
  | .nodeComplete ctx graph node => Sys2Proof.Machine.execNodeComplete ctx graph node s
  | .poolAgeing die => Sys2Proof.Machine.execPoolAgeing die s
  | .poolOverflowEnter die => Sys2Proof.Machine.execPoolOverflowEnter die s
  | .drainExpire ctx graph node => Sys2Proof.Machine.execDrainExpire ctx graph node s
  | .checkpointSave ctx graph node => Sys2Proof.Machine.execCheckpointSave ctx graph node s
  | .npreExpire die core => Sys2Proof.Machine.execNpreExpire die core s
  | .thermalStep die cluster hot => Sys2Proof.Machine.execThermalStep die cluster hot s
  | .scrubSweep die => Sys2Proof.Machine.execScrubSweep die s
  | .tierFaultService die readFails => Sys2Proof.Machine.execTierFaultService die readFails s
  | .remoteWriteLand w => Sys2Proof.Machine.execRemoteWriteLand w s
  | .markerLand k => Sys2Proof.Machine.execMarkerLand k s
  | .allowanceReturn ctx win bytes refused => Sys2Proof.Machine.execAllowanceReturn ctx win bytes refused s
  | .slotBoundary port sender matching => Sys2Proof.Machine.execSlotBoundary port sender matching s
  | .relaySend port => Sys2Proof.Machine.execRelaySend port s
  | .flitReceive port f good => Sys2Proof.Machine.execFlitReceive port f good s
  | .flitAck port peer upto => Sys2Proof.Machine.execFlitAck port peer upto s
  | .flitNak port peer first => Sys2Proof.Machine.execFlitNak port peer first s
  | .flitReplayTimeout port peer => Sys2Proof.Machine.execFlitReplayTimeout port peer s
  | .lossOfLight port lm => Sys2Proof.Machine.execLossOfLight port lm s
  | .portPark port => Sys2Proof.Machine.execPortPark port s
  | .portWake port => Sys2Proof.Machine.execPortWake port s
  | .wavelengthJoin port wl => Sys2Proof.Machine.execWavelengthJoin port wl s
  | .stackedLineRead addr f => Sys2Proof.Machine.execStackedLineRead addr f s
  | .scratchpadFreeze e => Sys2Proof.Machine.execScratchpadFreeze e s
  | .freezeExpire d => Sys2Proof.Machine.execFreezeExpire d s
  | .dieReset die => Sys2Proof.Machine.execDieReset die s
  | .boot images => Sys2Proof.Machine.execBoot images s
  | .disposeReplay => Sys2Proof.Machine.execDisposeReplay s
  | .disposeNext => Sys2Proof.Machine.execDisposeNext s
  | .disposeFail => Sys2Proof.Machine.execDisposeFail s
  | .disposeChainReplay => Sys2Proof.Machine.execDisposeChainReplay s
  | .disposeChainStop => Sys2Proof.Machine.execDisposeChainStop s
  | .readrec => Sys2Proof.Machine.execReadrec s
  | .evring => Sys2Proof.Machine.execEvring s
  | .eventReadIndexWrite v => Sys2Proof.Machine.execEventReadIndexWrite v s
  | .resync => Sys2Proof.Machine.execResync s
  | .ctxload => Sys2Proof.Machine.execCtxload s
  | .ctxunload => Sys2Proof.Machine.execCtxunload s
  | .ccbset => Sys2Proof.Machine.execCcbset s
  | .winset => Sys2Proof.Machine.execWinset s
  | .remap => Sys2Proof.Machine.execRemap s
  | .migrate => Sys2Proof.Machine.execMigrate s
  | .matchset => Sys2Proof.Machine.execMatchset s
  | .parkset => Sys2Proof.Machine.execParkset s
  | .keyset => Sys2Proof.Machine.execKeyset s
  | .mcast => Sys2Proof.Machine.execMcast s
  | .attest => Sys2Proof.Machine.execAttest s
  | .fusemin => Sys2Proof.Machine.execFusemin s
  | .stackedLineWrite addr data f => Sys2Proof.Machine.execStackedLineWrite addr data f s
  | .bankRetiredByHeat die stack layer bank => Sys2Proof.Machine.execBankRetiredByHeat die stack layer bank s

end Sys2Proof.Machine
end

