-- ==== Sys2Proof/Machine/Turns.lean ====
section
/-! DEFINITION. The turns of the agenda (log 3): streams, sequencers, events, time, host writes, hardware faults. -/

namespace Sys2Proof.Machine

/-- Whether an instruction is an event of the machine that a turn may name: no op of a bundle, no record, no
management command. -/
def isEvent (i : Instr) : Bool :=
  decide (i.place = .event) && (recCode i).isNone &&
  !(match i with
    | .nop | .disposeReplay | .disposeNext | .disposeFail | .disposeChainReplay | .disposeChainStop | .readrec
    | .evring | .resync | .ctxload | .ctxunload | .ccbset | .winset | .remap | .migrate | .matchset | .parkset
    | .keyset | .mcast | .attest | .fusemin => true
    | _ => false)

/-- Let cycles pass on every die (02 R53, 15 R382). -/
def passTime (m : Module) (n : Nat) : Module :=
  (List.finRange 16).foldl (fun m d => m.modDie d fun x => { x with cyc := x.cyc + BitVec.ofNat 64 n }) m

/-- A hardware fault strikes (log 7). The engine's status word of a SOFT stop is the run or element index; a Zither's header
address is a free value. -/
def strike (m : Module) : Upset → Module
  | .parity w r e => m.modStrm (parityHome w r) fun s => { s with
      badRegs := (r, e) :: s.badRegs.filter fun q => !decide (q = (r, e)) }
  | .poison l => { m with poison := if m.poison.contains l then m.poison else l :: m.poison }
  | .unitPoison l => { m with unitPoison := if m.unitPoison.contains l then m.unitPoison else l :: m.unitPoison }
  | .checksum d k n => m.modCluster d k fun x => { x with mismatches := x.mismatches + n }
  | .router r b => m.modRouter r fun x => { x with busy := b }
  | .soft w => m.modStrm w fun s => { s with soft := true }
  | .softChain c =>
    let k := m.chain c
    let d := k.desc.toNat
    let (n, m') := m.nextFresh
    let status := match k.cls, k.fired with
      | .copy, some _ => if dLen d = 0 then 0 else k.units / dLen d
      | .chain, some _ => if pOutBytes d = 0 then 0 else k.units / pOutBytes d
      | .zither, some _ => Config.freeValue n % 2 ^ 57
      | _, _ => 0
    if k.state = 2 then stopChain m' c 0x12 0 0 status else m
  | .entry d c q => m.modCore d c fun x =>
    let y := x.queue q
    match y.entries with
    | e :: es => x.setQueue q { y with entries := { e with bad := true } :: es }
    | [] => x
  | .portFull q full => m.modPort q fun p => { p with full := full }
  | .relayFull d full => { m with
      relayFull := if full then d :: m.relayFull.filter (fun e => !decide (e = d)) else m.relayFull.filter fun e => !decide (e = d) }
  | .nextMatch d e n => { m with nextMatch := Tbl.set 0 m.nextMatch (d.toNat * 1024 + e.toNat) n }
  | .keyDone q k => rollKeys (m.modPort q fun p => { p with oldKeys := p.oldKeys.map fun o => if o.1 = k then (k, true) else o }) q

/-- The overflow path writes a race record of a context into its race-record area (07 R205). Which record, and its 64 bytes, are
free values: the spec gives the area no layout (log 35). A record whose line cannot be written is not. -/
def writeRaceRecord (m : Module) (c : Fin 64) : Module :=
  if (m.ctx c).recordsDue = 0 then m
  else
    let (a, m) := m.nextFresh
    let (v, m) := m.nextFresh
    let m := m.modCtx c fun x => { x with recordsDue := x.recordsDue - 1 }
    let at_ := fld (ccb m c 4) 0 57 + 64 * (Config.freeValue a % (ctxRquota m c / 64))
    match storeDev m none (some (.sye (ctxHome m c))) c (at_ % 2 ^ 57) (toBytes 64 (Config.freeValue v)) with
    | .ok m => m
    | .error _ => m

/-- The next record of a chain (09 R257), run by the meaning of its code; the sequencer's own stops come as a
parameter. -/
abbrev Sequencer := (Instr → State → Out) → ChainId → State → Out

/-- The rank of an event among what one cycle does, behind the streams and the engines of commands, which have 0 to 10: the
fabric's inbound path (07 R206), the dispatchers, the service streams by slot, the host (08 R248), and the rest. -/
def cycleRank : Instr → Nat
  | .passComplete _ _ => 8
  | .remoteWriteLand _ | .markerLand _ | .flitReceive .. => 11
  | .launch _ | .launchTagReread _ | .dispatchTick _ | .nodeComplete _ _ _ | .constantBankLoad _ _ => 12
  | .scrubSweep _ => 13
  | .tierFaultService _ _ => 14
  | .hostDeposit _ _ _ | .hostTake _ _ => 15
  | _ => 16

/-- The rank of the engine that a chain's command runs on: copy engines 0 to 7, the chain engine, the Kantele array, the Zither
block copy engines (07 R206). -/
def engineRank (k : Chain) : Nat :=
  match engineOf k with
  | .copy _ n => n.val
  | .chain _ _ => 8
  | .kantele _ _ => 9
  | .zither _ => 10

/-- The turn of a stream in a cycle: one whose job has failed in the same cycle issues its bundle first, and a trap of it is
treated by its own class (15 R353). -/
def cycleStream (ex : Instr → State → Out) (w : Who) (s : State) : Out :=
  if (s.m.strm w).doomed && !(s.m.strm w).midBundle then
    match streamTurn ex w { s with m := s.m.modStrm w fun x => { x with doomed := false } } with
    | .next t => .next { t with m := t.m.modStrm w (failStream true) }
    | o => o
  else streamTurn ex w s

/-- A cycle begins, and the dispatchers deposit what it has to report. -/
def beginCycle (s : State) : Out := .next { s with m := { s.m with reports := some [] } }
def depositReports (s : State) : Out :=
  .next { s with m := (s.m.reports.getD []).foldl depositReport { s.m with reports := none } }

/-- Insert a stream among others in the order of their requester stream numbers (02 R58, 08 R248). -/
def insertWho (w : Who) : List Who → List Who
  | [] => [w]
  | v :: vs => if stridOf w < stridOf v then w :: v :: vs else v :: insertWho w vs

/-- Do one thing after another while each answers a next state. -/
def doAll : List (State → Out) → State → Out
  | [], s => .next s
  | f :: fs, s => match f s with
    | .next t => doAll fs t
    | o => o

/-- What falls into one cycle, in the order in which its accesses and requests are applied (07 R206, 08 R234, R248). -/
def cycleTurns (ex : Instr → State → Out) (seq : Sequencer) (ws : List Who) (cs : List ChainId) (is : List Instr) (m : Module) :
    List (State → Out) :=
  let ev := is.filter isEvent
  let rank := fun (k : Nat) =>
    (cs.filter fun c => engineRank (m.chain c) == k).map (fun c s => seq ex c { s with chain := c }) ++
      (ev.filter fun i => cycleRank i == k).map ex
  beginCycle :: (ws.foldr insertWho []).map (cycleStream ex) ++ (List.range 13).flatMap rank ++
    depositReports :: [13, 14, 15, 16].flatMap rank

/-- A turn. `seq` is the sequencer's step and `mail` the mailbox's. -/
def doTurn (ex : Instr → State → Out) (seq : Sequencer) (mail : (Instr → State → Out) → State → Out)
    (t : Turn) (s : State) : Out :=
  match t with
  | .stream w => streamTurn ex w s
  | .chain c => seq ex c { s with chain := c }
  | .step i => if isEvent i then ex i s else .next s
  | .time n => .next { s with m := passTime s.m n }
  | .mail w => if s.m.busy then .next s else mail ex { s with m := { s.m with mail := w, busy := true } }
  | .mailServe => if s.m.busy then mail ex s else .next s
  | .hostMem a bs => .next { s with m := { s.m with host := Memory.puts s.m.host a bs } }
  | .hostWindow c off v => windowWrite ex c off v s
  | .hostRead c off => .next { s with m := { s.m with hostData := windowRead s.m c off } }
  | .copyLand n => .next { s with m := copyHeld s.m n }
  | .raceRecord c => .next { s with m := writeRaceRecord s.m c }
  | .cycle ws cs is => doAll (cycleTurns ex seq ws cs is s.m) s
  | .demote d c a tier => .next { s with m := demotePage s.m d c a tier }
  | .upset u => .next { s with m := strike s.m u }

/-- The turns of the machine's own agents, from which one is taken when the agenda is empty (log 3). -/
def ownTurns (m : Module) : List Turn :=
  let cores := (Tbl.keys m.cores).flatMap fun k =>
    let d := Fin.ofNat 16 (k / 128)
    let c := Fin.ofNat 128 k
    StreamName.all.flatMap (fun n => [Turn.stream ⟨d, c, n⟩, .step (.interruptTake ⟨d, c, n⟩),
      .step (.parityReissue ⟨d, c, n⟩), .step (.bundleFetch ⟨d, c, n⟩)]) ++
    [.step (.jobEnd d c), .step (.npreExpire d c), .step (.constantBankLoad d c),
     .step (.eddyRefill d c .qlx), .step (.eddyRefill d c .qxs)] ++
    (coreChains d c).flatMap fun i => [Turn.chain i, .step (.commandComplete i)]
  let dies := (List.finRange 16).flatMap fun d =>
    [Turn.step (.launch d), .step (.launchTagReread d), .step (.dispatchTick d), .step (.poolAgeing d),
     .step (.poolOverflowEnter d), .step (.barrierDelivery d), .step (.scrubSweep d),
     .step (.tierFaultService d false), .step (.routerCombine d none), .step (.atomicApply d none),
     .step (.decombineReply d none [])] ++
    (m.die d).freezes.map (fun f => Turn.step (.freezeExpire f.1)) ++
    (List.finRange 16).map (fun k => Turn.step (.tupleOverflowReturn d k)) ++
    (List.finRange 8).map (fun n => Turn.step (.chainStart (.copy d n))) ++
    (List.finRange 8).flatMap fun k =>
      [Turn.step (.routerCombine d (some k)), .step (.atomicApply d (some k)),
       .step (.decombineReply d (some k) []), .step (.leaseGrant d k), .step (.passComplete d k), .step (.chainStart (.kantele d k)),
       .step (.chainStart (.chain d k))]
  let zithers := (List.finRange 8).map fun z => Turn.step (.chainStart (.zither z))
  let nodes := m.graphs.flatMap fun g => g.nodes.flatMap fun n =>
    [Turn.chain (.node n.die g.ctx g.graph n.node), .step (.commandComplete (.node n.die g.ctx g.graph n.node)),
     .step (.nodeComplete g.ctx g.graph n.node), .step (.drainExpire g.ctx g.graph n.node),
     .step (.checkpointSave g.ctx g.graph n.node)]
  let ports := (Tbl.keys m.ports).flatMap fun p =>
    let p := Fin.ofNat 72 p
    [Turn.step (.relaySend p), .step (.portPark p), .step (.portWake p)]
  let arrivals := m.heldWrites.map (fun w => Turn.step (.remoteWriteLand w)) ++
    m.heldMarkers.map (fun k => Turn.step (.markerLand k)) ++ (List.range m.heldCopies.length).map Turn.copyLand ++
    (List.finRange 64).map Turn.raceRecord
  Turn.time 1 :: .mailServe :: cores ++ dies ++ zithers ++ nodes ++ ports ++ arrivals

/-- One step of the module: the agenda's next turn, or one of its own agents' (log 3). -/
def runTurn (ex : Instr → State → Out) (seq : Sequencer) (mail : (Instr → State → Out) → State → Out)
    (s : State) : Out :=
  match s.agenda with
  | t :: ts => doTurn ex seq mail t { s with agenda := ts }
  | [] =>
    let ts := ownTurns s.m
    let (n, m) := s.m.nextFresh
    doTurn ex seq mail (ts.getD (Config.freeValue n % ts.length) (.time 1)) { s with m := m }

/-- A machine on which one bundle, held in the fetch buffer of a stream that accepts it, issues next; or one chain
record, read from the unit scratchpad, is performed next. It stands for the launch of a job (log 11). -/
def placeWord (s : State) (nbits w : Nat) : State :=
  let job : Job := { ctx := 0, graph := 0, node := 0, index := 0, width := 1, prio := 0, placedAt := 0 }
  if nbits = 256 then
    let cls := (decodeRec w).bind fun i => (recCode i).map fun r => r.2.cls
    let m := s.m.modCore 0 0 fun c => { c with job := some job, unitMem := Memory.write c.unitMem 0 32 w }
    let m := m.setChain (.job 0 0 0)
      { state := 2, cls := cls.getD .copy, head := 0, who := some ⟨0, 0, .l⟩, core := some 0 }
    { s with m := m, agenda := [.chain (.job 0 0 0)] }
  else
    let i := decodeTableWord nbits w
    let st : StreamName := match i with
      | some i => if i.okIn .x then .x else if i.okIn .l then .l else .s
      | none => .x
    let who : Who := ⟨0, 0, st⟩
    let m := s.m.modCore 0 0 fun c => { c with job := some job }
    let m := m.modStrm who fun x => { x with
      status := .running, pc := 0, fetch := [(0, BitVec.ofNat 512 w)]
      handler := if i = some .eret then some 0 else none }
    { s with m := m, agenda := [.stream who] }

end Sys2Proof.Machine
end

