-- ==== Sys2Proof/Machine/Step.lean ====
section
/-! DEFINITION. One step of the machine, and the placing of a word that it runs next. -/

namespace Sys2Proof.Machine

/-- One step (log 3). -/
def step (s : State) : Host.Outcome State Fault Refusal := runTurn exec sequencer serveMail s

/-- `s` with one instruction where the next step finds it (log 11). -/
def State.withFetchWord (s : State) (nbits w : Nat) : State := placeWord s nbits w

end Sys2Proof.Machine
end

