-- ==== Sys2Proof/Safety.lean ====
section
/-! DEFINITION. What counts as a safe state, and the terms in which the statements speak of an instruction: what it
leaves unchanged, and what a destination holds afterwards. -/

namespace Sys2Proof.Machine

/-- Every memory of the module is in canonical form. -/
def Module.memWf (m : Module) : Prop :=
  Memory.wf m.phys = true ∧ Memory.wf m.host = true ∧
    ∀ d c, Memory.wf (m.core d c).unitMem = true

/-- Every memory of the state, those of the checkpointed jobs included, is in canonical form. -/
def State.memInv (s : State) : Prop :=
  s.m.memWf ∧ ∀ i ∈ s.m.graphs, ∀ n ∈ i.nodes, ∀ c ∈ n.saved, Memory.wf c.unitMem = true

/-- No bundle is in progress. -/
def State.quiet (s : State) : Prop := s.pre = none ∧ s.verdict = .go ∧ s.bnd = {}

/-! ### Frames -/

/-- Beside the core of the bundle in progress and what the bundle has noted, nothing differs. -/
structure OnlyCore (s t : State) : Prop where
  state : t = { s with m := t.m, bnd := t.bnd }
  module : t.m = { s.m with cores := t.m.cores }
  others : ∀ d c, ¬(d = s.cur.die ∧ c = s.cur.core) → t.m.core d c = s.m.core d c

/-- Beside the stream of the bundle in progress and what the bundle has noted, nothing differs. -/
structure OnlyStream (s t : State) : Prop extends OnlyCore s t where
  core : t.core = s.core.setStream s.cur.stream t.strm

/-- Every byte of physical memory, of host memory and of every unit scratchpad reads as before. -/
def SameMemory (m n : Module) : Prop :=
  (∀ a, Memory.byte n.phys a = Memory.byte m.phys a) ∧ (∀ a, Memory.byte n.host a = Memory.byte m.host a) ∧
    ∀ d c a, Memory.byte (n.core d c).unitMem a = Memory.byte (m.core d c).unitMem a

/-! ### How an op of a bundle ends -/

/-- The op goes through: its meaning answers a state in which the bundle neither traps nor waits. -/
def Goes (i : Instr) (s t : State) : Prop := exec i s = .next t ∧ t.verdict = .go

/-- The op raises a trap with this record: the bundle's own effects are undone, its stream is held with the record, and
the previous record stands in tprev (15 R353, R354). -/
def Raises (i : Instr) (s : State) (t : Trap) : Prop := exec i s = .next (raise t s)

/-! ### Branches (04 R132 to R137) -/

/-- The bundle offset `off` from the bundle in progress (04 R132). -/
def State.target (s : State) {n : Nat} (off : BitVec n) : DevAddr := s.srcStrm.pc + 64 * off.signExtend 57

/-- The condition and the target of a branch (04 R133, R134). BRQE takes its queue as the bundle found it when it issued. -/
def branchRule (s : State) : Instr → Option (Prop × DevAddr)
  | .br off => some (True, s.target off)
  | .brz r off => some (s.srcStrm.sreg r.val = 0, s.target off)
  | .brnz r off => some (s.srcStrm.sreg r.val ≠ 0, s.target off)
  | .brp p .any off => some (∃ e < elemsOf s, bitAt (s.srcCore.preg p.val) e = true, s.target off)
  | .brp p .all off => some (∀ e < elemsOf s, bitAt (s.srcCore.preg p.val) e = true, s.target off)
  | .brp p .none off => some (∀ e < elemsOf s, bitAt (s.srcCore.preg p.val) e = false, s.target off)
  | .brqe q off => some (match s.srcStrm.issued with
      | some i => (match q with
        | .qlx => i.qlxNone
        | .qxs => i.qxsNone) = true
      | none => (s.srcCore.queue q).entries = [] ∧ ∀ r, (s.srcCore.queue q).ring = some r → r.sizes = [], s.target off)
  | _ => none

/-- What a bundle at `stop` that makes no transfer leaves of a stream, when it retires (04 R136). -/
def retireAt (stop : DevAddr) (x : Stream) : Stream := advance { x with pc := stop }

/-! ### Element-wise ops (04 R103 to R112, 05 R144 to R146, R154) -/

/-- A value of an integer type (04 R108). -/
def intOf {w : Nat} (sg : Bool) (x : BitVec w) : Int := if sg then x.toInt else x.toNat

/-- The integer V ops on bit patterns of width `w`, read signed when `sg` (04 R108); `ctl` is the control word of the
bit-field ops (04 R109). -/
def intRule (w : Nat) (sg : Bool) : Instr → Option (SlotOp × (BitVec w → BitVec w → BitVec w → BitVec w))
  | .iadd o => some (o, fun a b _ => a + b)
  | .isub o => some (o, fun a b _ => a - b)
  | .iadds o => some (o, fun a b _ => BitVec.ofInt w
      (max (if sg then -2 ^ (w - 1) else 0) (min (if sg then 2 ^ (w - 1) - 1 else 2 ^ w - 1) (intOf sg a + intOf sg b))))
  | .isubs o => some (o, fun a b _ => BitVec.ofInt w
      (max (if sg then -2 ^ (w - 1) else 0) (min (if sg then 2 ^ (w - 1) - 1 else 2 ^ w - 1) (intOf sg a - intOf sg b))))
  | .imul o => some (o, fun a b _ => a * b)
  | .imulh o => some (o, fun a b _ =>
      if sg then (a.signExtend (2 * w) * b.signExtend (2 * w)).extractLsb' w w
      else (a.setWidth (2 * w) * b.setWidth (2 * w)).extractLsb' w w)
  | .imad o => some (o, fun a b c => a * b + c)
  | .ishl o => some (o, fun a b _ => a <<< (b.toNat % w))
  | .ishr o => some (o, fun a b _ => a >>> (b.toNat % w))
  | .isra o => some (o, fun a b _ => a.sshiftRight (b.toNat % w))
  | .iand o => some (o, fun a b _ => a &&& b)
  | .ior o => some (o, fun a b _ => a ||| b)
  | .ixor o => some (o, fun a b _ => a ^^^ b)
  | .imin o => some (o, fun a b _ => if intOf sg a ≤ intOf sg b then a else b)
  | .imax o => some (o, fun a b _ => if intOf sg a ≤ intOf sg b then b else a)
  | .iabs o => some (o, fun a _ _ => if a.msb then -a else a)
  | .iclz o => some (o, fun a _ _ => a.clz)
  | .ipop o => some (o, fun a _ _ => a.cpop)
  | .imov o => some (o, fun a _ _ => a)
  | _ => none

/-- Position and length of a bit field (04 R109). -/
def fieldOf (w : Nat) (ctl : W32) : Nat × Nat :=
  let pos := (ctl.extractLsb' 0 7).toNat
  (pos, if w ≤ pos then 0 else min (ctl.extractLsb' 8 7).toNat (w - pos))

/-- IBFE and IBFI (04 R109). -/
def bitFieldExtract {w : Nat} (sg : Bool) (a : BitVec w) (ctl : W32) : BitVec w :=
  let f := a.extractLsb' (fieldOf w ctl).1 (fieldOf w ctl).2
  if sg then f.signExtend w else f.setWidth w
def bitFieldInsert {w : Nat} (a b : BitVec w) (ctl : W32) : BitVec w :=
  let mask := BitVec.ofNat w ((2 ^ (fieldOf w ctl).2 - 1) * 2 ^ (fieldOf w ctl).1)
  (a &&& ~~~mask) ||| ((b <<< (fieldOf w ctl).1) &&& mask)

/-- An element-wise op: the types in which its sources are read and its result written, the function of one element,
and the series that a jet order makes of it (05 R159). -/
structure ElemRule where
  op : SlotOp
  ta : Ty
  tb : Ty
  tc : Ty
  td : Ty
  f : Nat → Nat → Nat → Nat × Flags
  series : Nat → List Nat → List Nat → List Nat → List (Nat × Flags) := fun _ _ _ _ => []

/-- The rule of an integer V op. -/
def intElem (i : Instr) : Option ElemRule :=
  match i with
  | .ibfe o => some { op := o, ta := o.ty, tb := .n32, tc := o.ty, td := o.ty, f := fun a b _ =>
      ((bitFieldExtract (tySigned o.ty) (BitVec.ofNat (tyBits o.ty) a) (BitVec.ofNat 32 b)).toNat, 0) }
  | .ibfi o => some { op := o, ta := o.ty, tb := o.ty, tc := .n32, td := o.ty, f := fun a b c =>
      ((bitFieldInsert (BitVec.ofNat (tyBits o.ty) a) (BitVec.ofNat (tyBits o.ty) b) (BitVec.ofNat 32 c)).toNat, 0) }
  | i =>
    match i.shape with
    | some (o, _) => (intRule (tyBits o.ty) (tySigned o.ty) i).map fun r =>
      { op := o, ta := o.ty, tb := o.ty, tc := o.ty, td := o.ty, f := fun a b c =>
        ((r.2 (BitVec.ofNat _ a) (BitVec.ofNat _ b) (BitVec.ofNat _ c)).toNat, 0) }
    | none => none

/-- The rule of a float V op, a conversion or a special function, in a rounding mode (04 R110 to R112, 05 R144 to R146,
R154). -/
def floatElem (mode : Nat) : Instr → Option ElemRule
  | .faddF32 o => some {
      op := o, ta := .f32, tb := .f32, tc := .f32, td := .f32, f := fun a b _ => faddB .f32 mode a b
      series := fun k a b _ => jetAdd .f32 mode k false a b }
  | .fsubF32 o => some {
      op := o, ta := .f32, tb := .f32, tc := .f32, td := .f32, f := fun a b _ => fsubB .f32 mode a b
      series := fun k a b _ => jetAdd .f32 mode k true a b }
  | .fmulF32 o => some {
      op := o, ta := .f32, tb := .f32, tc := .f32, td := .f32, f := fun a b _ => fmulB .f32 mode a b
      series := fun k a b _ => jetMul .f32 mode k a b }
  | .fmaF32 o => some {
      op := o, ta := .f32, tb := .f32, tc := .f32, td := .f32, f := fmaB .f32 mode
      series := jetFma .f32 mode }
  | .fdivF32 o => some {
      op := o, ta := .f32, tb := .f32, tc := .f32, td := .f32, f := fun a b _ => fdivB .f32 mode a b
      series := fun k a b _ => jetDiv .f32 mode k a b }
  | .fminF32 o => some {
      op := o, ta := .f32, tb := .f32, tc := .f32, td := .f32, f := fun a b _ => minmaxB .f32 false a b
      series := fun k a b _ => jetMinMax .f32 k false a b }
  | .fmaxF32 o => some {
      op := o, ta := .f32, tb := .f32, tc := .f32, td := .f32, f := fun a b _ => minmaxB .f32 true a b
      series := fun k a b _ => jetMinMax .f32 k true a b }
  | .faddBf16 o => some {
      op := o, ta := .bf16, tb := .bf16, tc := .bf16, td := .bf16, f := fun a b _ => faddB .bf16 mode a b
      series := fun k a b _ => jetAdd .bf16 mode k false a b }
  | .fsubBf16 o => some {
      op := o, ta := .bf16, tb := .bf16, tc := .bf16, td := .bf16, f := fun a b _ => fsubB .bf16 mode a b
      series := fun k a b _ => jetAdd .bf16 mode k true a b }
  | .fmulBf16 o => some {
      op := o, ta := .bf16, tb := .bf16, tc := .bf16, td := .bf16, f := fun a b _ => fmulB .bf16 mode a b
      series := fun k a b _ => jetMul .bf16 mode k a b }
  | .fmaBf16 o => some {
      op := o, ta := .bf16, tb := .bf16, tc := .bf16, td := .bf16, f := fmaB .bf16 mode
      series := jetFma .bf16 mode }
  | .fdivBf16 o => some {
      op := o, ta := .bf16, tb := .bf16, tc := .bf16, td := .bf16, f := fun a b _ => fdivB .bf16 mode a b
      series := fun k a b _ => jetDiv .bf16 mode k a b }
  | .fminBf16 o => some {
      op := o, ta := .bf16, tb := .bf16, tc := .bf16, td := .bf16, f := fun a b _ => minmaxB .bf16 false a b
      series := fun k a b _ => jetMinMax .bf16 k false a b }
  | .fmaxBf16 o => some {
      op := o, ta := .bf16, tb := .bf16, tc := .bf16, td := .bf16, f := fun a b _ => minmaxB .bf16 true a b
      series := fun k a b _ => jetMinMax .bf16 k true a b }
  | .faddF16 o => some {
      op := o, ta := .f16, tb := .f16, tc := .f16, td := .f16, f := fun a b _ => faddB .f16 mode a b
      series := fun k a b _ => jetAdd .f16 mode k false a b }
  | .fsubF16 o => some {
      op := o, ta := .f16, tb := .f16, tc := .f16, td := .f16, f := fun a b _ => fsubB .f16 mode a b
      series := fun k a b _ => jetAdd .f16 mode k true a b }
  | .fmulF16 o => some {
      op := o, ta := .f16, tb := .f16, tc := .f16, td := .f16, f := fun a b _ => fmulB .f16 mode a b
      series := fun k a b _ => jetMul .f16 mode k a b }
  | .fmaF16 o => some {
      op := o, ta := .f16, tb := .f16, tc := .f16, td := .f16, f := fmaB .f16 mode
      series := jetFma .f16 mode }
  | .fdivF16 o => some {
      op := o, ta := .f16, tb := .f16, tc := .f16, td := .f16, f := fun a b _ => fdivB .f16 mode a b
      series := fun k a b _ => jetDiv .f16 mode k a b }
  | .fminF16 o => some {
      op := o, ta := .f16, tb := .f16, tc := .f16, td := .f16, f := fun a b _ => minmaxB .f16 false a b
      series := fun k a b _ => jetMinMax .f16 k false a b }
  | .fmaxF16 o => some {
      op := o, ta := .f16, tb := .f16, tc := .f16, td := .f16, f := fun a b _ => minmaxB .f16 true a b
      series := fun k a b _ => jetMinMax .f16 k true a b }
  | .fabs o => some {
      op := o, ta := o.ty, tb := o.ty, tc := o.ty, td := o.ty, f := fun a _ _ => fabsB (fmtOf o.ty) a
      series := fun k a _ _ => jetSign (fmtOf o.ty) k (fabsB (fmtOf o.ty) (a.getD 0 0)) (cf (fmtOf o.ty) a 0).neg a }
  | .fneg o => some {
      op := o, ta := o.ty, tb := o.ty, tc := o.ty, td := o.ty, f := fun a _ _ => fnegB (fmtOf o.ty) a
      series := fun k a _ _ => jetSign (fmtOf o.ty) k (fnegB (fmtOf o.ty) (a.getD 0 0)) true a }
  | .fmov o => some {
      op := o, ta := o.ty, tb := o.ty, tc := o.ty, td := o.ty, f := fun a _ _ => fmovB (fmtOf o.ty) a
      series := fun k a _ _ => jetSign (fmtOf o.ty) k (fmovB (fmtOf o.ty) (a.getD 0 0)) false a }
  | .fclp o => some {
      op := o, ta := o.ty, tb := o.ty, tc := o.ty, td := o.ty, f := fclpB (fmtOf o.ty)
      series := jetClp (fmtOf o.ty) }
  | .flrp o => some {
      op := o, ta := o.ty, tb := o.ty, tc := o.ty, td := o.ty, f := flrpB (fmtOf o.ty) mode
      series := jetLrp (fmtOf o.ty) mode }
  | .fexp o => some {
      op := o, ta := o.ty, tb := o.ty, tc := o.ty, td := o.ty, f := fun a _ _ => specB .exp (fmtOf o.ty) mode a
      series := fun k a _ _ => specJet .exp (fmtOf o.ty) mode k a }
  | .fexp2 o => some {
      op := o, ta := o.ty, tb := o.ty, tc := o.ty, td := o.ty, f := fun a _ _ => specB .exp2 (fmtOf o.ty) mode a
      series := fun k a _ _ => specJet .exp2 (fmtOf o.ty) mode k a }
  | .flog o => some {
      op := o, ta := o.ty, tb := o.ty, tc := o.ty, td := o.ty, f := fun a _ _ => specB .log (fmtOf o.ty) mode a
      series := fun k a _ _ => specJet .log (fmtOf o.ty) mode k a }
  | .flog2 o => some {
      op := o, ta := o.ty, tb := o.ty, tc := o.ty, td := o.ty, f := fun a _ _ => specB .log2 (fmtOf o.ty) mode a
      series := fun k a _ _ => specJet .log2 (fmtOf o.ty) mode k a }
  | .frcp o => some {
      op := o, ta := o.ty, tb := o.ty, tc := o.ty, td := o.ty, f := fun a _ _ => specB .rcp (fmtOf o.ty) mode a
      series := fun k a _ _ => specJet .rcp (fmtOf o.ty) mode k a }
  | .fsqt o => some {
      op := o, ta := o.ty, tb := o.ty, tc := o.ty, td := o.ty, f := fun a _ _ => specB .sqt (fmtOf o.ty) mode a
      series := fun k a _ _ => specJet .sqt (fmtOf o.ty) mode k a }
  | .frsq o => some {
      op := o, ta := o.ty, tb := o.ty, tc := o.ty, td := o.ty, f := fun a _ _ => specB .rsq (fmtOf o.ty) mode a
      series := fun k a _ _ => specJet .rsq (fmtOf o.ty) mode k a }
  | .ftnh o => some {
      op := o, ta := o.ty, tb := o.ty, tc := o.ty, td := o.ty, f := fun a _ _ => specB .tnh (fmtOf o.ty) mode a
      series := fun k a _ _ => specJet .tnh (fmtOf o.ty) mode k a }
  | .fsig o => some {
      op := o, ta := o.ty, tb := o.ty, tc := o.ty, td := o.ty, f := fun a _ _ => specB .sig (fmtOf o.ty) mode a
      series := fun k a _ _ => specJet .sig (fmtOf o.ty) mode k a }
  | .fglu o => some {
      op := o, ta := o.ty, tb := o.ty, tc := o.ty, td := o.ty, f := fun a _ _ => specB .glu (fmtOf o.ty) mode a
      series := fun k a _ _ => specJet .glu (fmtOf o.ty) mode k a }
  | .fsin o => some {
      op := o, ta := o.ty, tb := o.ty, tc := o.ty, td := o.ty, f := fun a _ _ => specB .sin (fmtOf o.ty) mode a
      series := fun k a _ _ => specJet .sin (fmtOf o.ty) mode k a }
  | .fcos o => some {
      op := o, ta := o.ty, tb := o.ty, tc := o.ty, td := o.ty, f := fun a _ _ => specB .cos (fmtOf o.ty) mode a
      series := fun k a _ _ => specJet .cos (fmtOf o.ty) mode k a }
  | .cvt o => let t := (Instr.cvt o).tyA o.ty
    some { op := o, ta := t, tb := t, tc := t, td := o.ty, f := fun a _ _ => cvtB (fmtOf t) (fmtOf o.ty) mode a
           series := fun k a _ _ => jetFrom (fmtOf o.ty) k (cvtB (fmtOf t) (fmtOf o.ty) mode (a.getD 0 0)) fun j _ =>
             coefOf (fmtOf o.ty) [cf (fmtOf t) a j] fun _ => rndCoef (fmtOf o.ty) mode (cf (fmtOf t) a j) 0 }
  | .cvfi o => let t := (Instr.cvfi o).tyA o.ty
    some { op := o, ta := t, tb := t, tc := t, td := o.ty
           f := fun a _ _ => cvfiB t o.ty (if o.opx.val / 4 = 1 then 1 else mode) a }
  | .cvif o => let t := (Instr.cvif o).tyA o.ty
    some { op := o, ta := t, tb := t, tc := t, td := o.ty, f := fun a _ _ => cvifB t o.ty mode a }
  | _ => none

/-- FSCL scales by the signed word of source B, which is the same for every element (04 R112). -/
def scaleElem (mode : Nat) (n : W32) (o : SlotOp) : ElemRule :=
  { op := o, ta := o.ty, tb := o.ty, tc := o.ty, td := o.ty
    f := fun a _ _ => fsclB (fmtOf o.ty) mode a (max (-1000) (min 1000 n.toInt))
    series := fun k a _ _ => jetScl (fmtOf o.ty) mode k (max (-1000) (min 1000 n.toInt)) a }

/-- The rule of an element-wise op at a state. -/
inductive ElemOf (s : State) : Instr → ElemRule → Prop
  | int {i r} (h : intElem i = some r) : ElemOf s i r
  | float {i r} (h : floatElem (rmodeOf s) i = some r) : ElemOf s i r
  | scale {o n} (h : fetch32 s 3 o.b = .ok n) : ElemOf s (.fscl o) (scaleElem (rmodeOf s) (BitVec.ofNat 32 n) o)

/-- What the sources of a rule hold for an op at a place (02 R42, R43): their values, and the state in which the queues
that they pop are noted. -/
def Sources (s : State) (i : Instr) (r : ElemRule) (a b c : Val) (u : State) : Prop :=
  ∃ s1 s2, fetch s (placeCode i.place) r.ta r.op.a = .ok (a, s1) ∧ fetch s1 (placeCode i.place) r.tb r.op.b = .ok (b, s2) ∧
    fetch s2 (placeCode i.place) r.tc r.op.c = .ok (c, u)

/-- A tile after a write of `n` elements of `w` bits under a predicate: the element that the predicate selects, every other
element and all bits beyond as before (04 R103, R104). -/
def TileHolds (w n : Nat) (pred : Nat → Bool) (es : Nat → Nat) (old new : Nat) : Prop :=
  (∀ e, e < n → fld new (w * e) w = if pred e then es e % 2 ^ w else fld old (w * e) w) ∧
  new / 2 ^ (w * n) = old / 2 ^ (w * n)

/-- An op of X writes a tile result: its destination register holds the selected elements, or a pushed entry of qxs with room
and no ring holds them with zeros elsewhere, or nothing is written; the flags join fflg; nothing else differs. -/
def WritesElems (s : State) (i : Instr) (d : Dst) (ty : Ty) (n : Nat) (pred : Nat → Bool) (es : Nat → Nat)
    (fl : Flags) : Prop :=
  let strm := { s.strm with fflg := s.strm.fflg ||| fl }
  (∀ r, d = .v r → ∃ t, Goes i s t ∧ OnlyCore s t ∧
    TileHolds (tyBits ty) n pred es (s.core.vreg r.val) (t.core.vreg r.val) ∧
    (∀ k, k ≠ r.val → t.core.vreg k = s.core.vreg k) ∧ t.core = { s.core with v := t.core.v, x := strm }) ∧
  (d = .qxs → s.core.qxs.entries.length < 8 → s.core.qxs.ring = none → ∃ t e, Goes i s t ∧ OnlyCore s t ∧
    e.size = n * tyBytes ty ∧ TileHolds (tyBits ty) n pred es 0 e.data.toNat ∧
    t.core = { s.core with qxs := { s.core.qxs with entries := s.core.qxs.entries ++ [e] }, x := strm }) ∧
  (d = .none → ∃ t, Goes i s t ∧ OnlyStream s t ∧ t.strm = strm)

/-- The same for the elements of the shape. -/
def WritesTile (s : State) (i : Instr) (d : Dst) (ty : Ty) (pred : Nat → Bool) (es : Nat → Nat) (fl : Flags) : Prop :=
  WritesElems s i d ty (elemsOf s) pred es fl

/-- An op of X writes a mask result over the bits of the shape under its predicate (04 R104, R105). -/
def WritesMask (s : State) (i : Instr) (d : Dst) (pred bs : Nat → Bool) (fl : Flags) : Prop :=
  let strm := { s.strm with fflg := s.strm.fflg ||| fl }
  (∀ r, d = .p r → r ≠ 0 → ∃ t, Goes i s t ∧ OnlyCore s t ∧
    (∀ e, bitAt (t.core.preg r.val) e =
      if e < elemsOf s ∧ pred e = true then bs e else bitAt (s.core.preg r.val) e) ∧
    (∀ k, k ≠ r.val → t.core.preg k = s.core.preg k) ∧ t.core = { s.core with p := t.core.p, x := strm }) ∧
  (d = .none → ∃ t, Goes i s t ∧ OnlyStream s t ∧ t.strm = strm)

/-- What a scalar destination holds, and what it is to hold of a 64-bit result (02 R44, R51, 04 R106, R131). s0 reads zero
outside the handler's shadow scalars. -/
def dstReads (t : State) : Dst → Nat
  | .s n => t.strm.sreg n.val
  | .a n => t.strm.areg n.val
  | .m n => (t.strm.mreg n.val).view
  | _ => 0
def dstKeeps (d : Dst) (v : Nat) : Nat :=
  match d with
  | .s n => if n.val = 0 then 0 else v % 2 ^ 64
  | .a _ => v % 2 ^ 48
  | .m _ => v % 2 ^ 64
  | _ => 0

/-- The flags of the elements that a predicate selects (03 R82). -/
def flagsOf (n : Nat) (pred : Nat → Bool) (fl : Nat → Flags) : Flags :=
  orFlags ((List.range n).map fun e => if pred e then fl e else 0)

/-- The scalar registers of a stream beside a destination are as before, and so is its whole record beside them and its
flags. -/
def OtherScalarsKept (d : Dst) (s t : State) : Prop :=
  (∀ n : Fin 64, d ≠ .s n → t.strm.sreg n.val = s.strm.sreg n.val) ∧
  (∀ n : Fin 16, d ≠ .a n → t.strm.areg n.val = s.strm.areg n.val) ∧
  (∀ n : Fin 16, d ≠ .m n → t.strm.mreg n.val = s.strm.mreg n.val) ∧
  t.strm = { s.strm with s := t.strm.s, a := t.strm.a, m := t.strm.m, hs := t.strm.hs
                         fflg := t.strm.fflg, jflg := t.strm.jflg }

/-- A slot op of an instruction writes a 64-bit value to its scalar destination; its flags join fflg and every other
register keeps its value. -/
def WritesScalar (s : State) (i : Instr) (d : Dst) (v : Nat) (fl : Flags) : Prop :=
  ∃ t, Goes i s t ∧ OnlyStream s t ∧ OtherScalarsKept d s t ∧ dstReads t d = dstKeeps d v ∧
    t.strm.fflg = s.strm.fflg ||| fl ∧ t.strm.jflg = s.strm.jflg

/-- An element of a type as a 64-bit value: sign-extended for an i type, zero-extended otherwise (04 R106). -/
def extended (t : Ty) (x : Nat) : Nat :=
  if tySigned t then ((BitVec.ofNat (tyBits t) x).signExtend 64).toNat else x % 2 ^ tyBits t

/-! ### Compares, reductions and rearranging (04 R113 to R126) -/

/-- The conditions of ICMP (04 R113). -/
def intCompare (cond : Nat) (x y : Int) : Bool :=
  match cond with
  | 0 => decide (x = y)
  | 1 => decide (x ≠ y)
  | 2 => decide (x < y)
  | 3 => decide (x ≤ y)
  | 4 => decide (y < x)
  | _ => decide (y ≤ x)

/-- The linear indices of sequence `q` of a direction, in order: .row, .col, .all (03 R98, 04 R116). -/
def seqMembers (rows cols dir q : Nat) : List Nat :=
  match dir with
  | 0 => (List.range cols).map fun j => q * cols + j
  | 1 => (List.range rows).map fun i => i * cols + q
  | _ => List.range (rows * cols)

/-- How many sequences a direction has; the sequence that holds element `e`, and its place there. -/
def seqCount (rows cols dir : Nat) : Nat :=
  match dir with
  | 0 => rows
  | 1 => cols
  | _ => 1
def seqNumber (cols dir e : Nat) : Nat :=
  match dir with
  | 0 => e / cols
  | 1 => e % cols
  | _ => 0
def seqPlace (cols dir e : Nat) : Nat :=
  match dir with
  | 0 => e % cols
  | 1 => e / cols
  | _ => e

/-- The reductions: what each makes of the (takes part, pattern) pairs of a sequence, in `w` bits (04 R117, R118, R120). -/
def redRule (mode w : Nat) : Instr → Option (SlotOp × (List (Bool × Nat) → Nat × Flags))
  | .rsum o => some (o, sumOf o.ty mode w false)
  | .rsqs o => some (o, sumOf o.ty mode w true)
  | .rmax o => some (o, extreme o.ty 0)
  | .rmin o => some (o, extreme o.ty 1)
  | .rmxa o => some (o, extreme o.ty 2)
  | .argm o => some (o, fun xs => (wrapN w (argMax o.ty xs).1, (argMax o.ty xs).2))
  | _ => none

/-! ### Bytes of the machine by location (01 R22, 14 R332, R334) -/

/-- One byte of a location. -/
def Module.byteAt (m : Module) : Loc → Byte
  | .unit c o => Memory.byte (Tbl.get {} m.cores c).unitMem o
  | .phys pa => Memory.byte m.phys pa

/-- The location `k` bytes further. -/
def Loc.plus (k : Nat) : Loc → Loc
  | .unit c o => .unit c (o + k)
  | .phys pa => .phys (pa + k)

/-- The single bytes of a list of locations with their lengths, in order. -/
def locBytes (ls : List (Loc × Nat)) : List Loc := ls.flatMap fun p => (List.range p.2).map fun k => p.1.plus k

/-- An op stores bytes at the local address `a` of the job, from the state `u` that its reads leave, no freeze holding the
scratchpad (15 R365) and no race being found: it goes through, the
locations that the map gives the address hold them, and every other byte of the machine reads as before. -/
def StoresAt (s u : State) (i : Instr) (a : Nat) (bs : List Byte) : Prop :=
  ∀ ls m, localLocs u.m u.core.ctx s.cur.die (some s.cur.core) a bs.length = some ls →
    (∀ l ∈ ls, l.1.frozen u.m = false) → trackLocs u.m (some (jobActor u.m s.cur.die s.cur.core)) true a ls = .ok m →
    ∃ t, Goes i s t ∧ (locBytes ls).map t.m.byteAt = bs ∧ (∀ l, l ∉ locBytes ls → t.m.byteAt l = s.m.byteAt l) ∧
      t.m.host = s.m.host ∧ t.strm = s.strm ∧ t.core = { s.core with unitMem := t.core.unitMem }

/-- What the job on the core of the bundle in progress releases: its own count advances, and nothing else of its clock
(07 R193). -/
def ReleasedBy (s t : State) : Prop :=
  ownCount t.m s.cur.die s.cur.core = ownCount s.m s.cur.die s.cur.core + 1 ∧
  ∀ k, k ≠ partyKey s.cur.die s.cur.core.val → Clock.at t.core.clk k = Clock.at s.core.clk k

/-- The exact value of a dyadic number. -/
def dyQ (v : Dy) : ℚ := (v.m : ℚ) * (2 : ℚ) ^ v.e

/-! ### Float values (03 R78 to R81) -/

/-- The exact value of a number, 0 for a NaN and an infinity. -/
def FVal.q (v : FVal) : ℚ := dyQ v.dy

/-- A value is a number: no NaN and no infinity. -/
def FVal.num (v : FVal) : Prop := v.isNan = false ∧ v.isInf = false

/-- `a` is less than `b`; with `zeros`, −0 is less than +0 (04 R111, R113). A NaN is in no order. -/
def FVal.less (zeros : Prop) (a b : FVal) : Prop :=
  match a, b with
  | .nan _, _ | _, .nan _ => False
  | .inf m, .inf n => m = true ∧ n = false
  | .inf m, _ => m = true
  | _, .inf n => n = false
  | a, b => a.q < b.q ∨ (zeros ∧ a = .zero true ∧ b = .zero false)

/-- `a` and `b` are ordered and equal; −0 equals +0 (04 R113). -/
def FVal.equal (a b : FVal) : Prop := (a.num ∧ b.num ∧ a.q = b.q) ∨ ∃ n, a = .inf n ∧ b = .inf n

/-- A rational rounded to an integer in a rounding mode (02 R57, 05 R145). -/
def roundInt (mode : Nat) (v : ℚ) : Int :=
  match mode with
  | 0 => if v - ⌊v⌋ < 1 / 2 ∨ (v - ⌊v⌋ = 1 / 2 ∧ ⌊v⌋ % 2 = 0) then ⌊v⌋ else ⌊v⌋ + 1
  | 1 => if 0 ≤ v then ⌊v⌋ else ⌈v⌉
  | 2 => ⌈v⌉
  | _ => ⌊v⌋

/-- Whether a rounding mode takes a value of a sign past the largest finite magnitude to infinity (03 R81). -/
def toInfinity (mode : Nat) (neg : Bool) : Prop := mode = 0 ∨ (mode = 2 ∧ neg = false) ∨ (mode = 3 ∧ neg = true)

/-- `r` is the exact value `v` rounded once to a format in a mode, with its flags; an exact zero takes the sign `zneg`
(02 R57, 03 R79, R81). -/
structure RoundsTo (f : FFmt) (mode : Nat) (zneg : Bool) (v : ℚ) (r : Nat × Flags) : Prop where
  zero : v = 0 → r = (f.zero zneg, 0)
  sign : v ≠ 0 → bitAt r.1 (f.ebits + f.fbits) = decide (v < 0)
  flags : r.2 = 0 ∨ r.2 = fNX ∨ r.2 = fUF ||| fNX ∨ r.2 = fOF ||| fNX
  overflows : r.2 = fOF ||| fNX ↔
    let big := (unpack f (f.maxFin false)).q
    let top : ℚ := 2 ^ (f.bias + 1)
    if mode = 0 then (big + top) / 2 ≤ |v|
    else (toInfinity mode (decide (v < 0)) ∧ big < |v|) ∨ (¬toInfinity mode (decide (v < 0)) ∧ top ≤ |v|)
  overflow : r.2 = fOF ||| fNX → (toInfinity mode (decide (v < 0)) → r.1 = f.inf (decide (v < 0))) ∧
    (¬toInfinity mode (decide (v < 0)) → r.1 = f.maxFin (decide (v < 0)))
  number : r.2 ≠ fOF ||| fNX → r.1 < 2 ^ f.width ∧ (unpack f r.1).num
  exact : r.2 ≠ fOF ||| fNX → (r.2 = 0 ↔ (unpack f r.1).q = v)
  tiny : r.2 = fUF ||| fNX ↔ r.2 ≠ fOF ||| fNX ∧ (unpack f r.1).q ≠ v ∧ |(unpack f r.1).q| < (2 : ℚ) ^ f.emin
  nearest : r.2 ≠ fOF ||| fNX → mode = 0 → ∀ x, x < 2 ^ f.width → (unpack f x).num →
    |(unpack f r.1).q - v| ≤ |(unpack f x).q - v| ∧
      (|(unpack f r.1).q - v| = |(unpack f x).q - v| → (unpack f x).q ≠ (unpack f r.1).q → r.1 % 2 = 0)
  towardZero : r.2 ≠ fOF ||| fNX → mode = 1 → |(unpack f r.1).q| ≤ |v| ∧
    ∀ x, x < 2 ^ f.width → (unpack f x).num → |(unpack f x).q| ≤ |v| → |(unpack f x).q| ≤ |(unpack f r.1).q|
  upward : r.2 ≠ fOF ||| fNX → mode = 2 → v ≤ (unpack f r.1).q ∧
    ∀ x, x < 2 ^ f.width → (unpack f x).num → v ≤ (unpack f x).q → (unpack f r.1).q ≤ (unpack f x).q
  downward : r.2 ≠ fOF ||| fNX → mode = 3 → (unpack f r.1).q ≤ v ∧
    ∀ x, x < 2 ^ f.width → (unpack f x).num → (unpack f x).q ≤ v → (unpack f x).q ≤ (unpack f r.1).q

/-- NV when one of the operands is a signalling NaN (03 R80). -/
def nvOf (xs : List FVal) : Flags := if ∃ x ∈ xs, x.isSnan = true then fNV else 0

/-- An element is less than another as RMAX orders them (04 R111, R118). -/
def elemLess (t : Ty) (x y : Nat) : Prop :=
  if tyFloat t then (unpack (fmtOf t) x).less True (unpack (fmtOf t) y) else valI t x < valI t y

/-- The atomic op of an instruction (08 R230 to R232). -/
def atomRule : Instr → Option (SlotOp × AtomOp)
  | .afad o => some (o, .add) | .afab o => some (o, .addBounded) | .ainw o => some (o, .incWrap)
  | .adcw o => some (o, .decWrap) | .acas o => some (o, .cas) | .aswp o => some (o, .swap) | .amin o => some (o, .min)
  | .amax o => some (o, .max) | .aand o => some (o, .and) | .aor o => some (o, .or) | .afaf o => some (o, .fadd)
  | .afmx o => some (o, .fmax) | _ => none

/-- Beside the record of chain slot `i`, nothing of the module differs. -/
structure ChainOnly (m n : Module) (i : ChainId) : Prop where
  module : n = { m with chains := n.chains }
  others : ∀ j, j ≠ i → n.chain j = m.chain j

/-- Beside the record of die `d`, nothing of the module differs. -/
structure DieOnly (m n : Module) (d : Fin 16) : Prop where
  module : n = { m with dies := n.dies }
  others : ∀ j, j ≠ d → n.die j = m.die j

/-- Beside the record of cluster `c` of die `d`, nothing of the module differs. -/
structure ClusterOnly (m n : Module) (d : Fin 16) (c : Fin 8) : Prop where
  module : n = { m with clusters := n.clusters }
  others : ∀ e k, ¬(e = d ∧ k = c) → n.cluster e k = m.cluster e k

/-- Beside the record of port `p`, nothing of the module differs. -/
structure PortOnly (m n : Module) (p : Fin 72) : Prop where
  module : n = { m with ports := n.ports }
  others : ∀ q, q ≠ p → n.port q = m.port q

/-- The record in hand of the chain in hand is performed, leaving the module `m`, and the walk goes on at record `n`; an index
out of range stops the chain with ILLEGAL after that (09 R257). -/
def GoesOn (s : State) (i : Instr) (m : Module) (n : Int) : Prop :=
  (0 ≤ n → n ≤ 65535 → ∃ w, exec i s = .next { s with m := w } ∧ ChainOnly m w s.chain ∧
    w.chain s.chain = { m.chain s.chain with pos := n.toNat, reached := false }) ∧
  (¬(0 ≤ n ∧ n ≤ 65535) → exec i s = .next { s with
    m := stopChain (m.setChain s.chain { m.chain s.chain with reached := false }) s.chain 1 0 0 0 })

/-- A side of a copy is read and written through the local map or through device space (09 R275). -/
def sideLoad (m : Module) (c : ChainId) (x : Nat × Bool × Option (Nat × W32)) (a n : Nat) :
    Except ChStop (List Byte × Module) :=
  if x.2.1 then chLoad m c x.2.2 a n else chLoadDev m c a n
def sideStore (m : Module) (c : ChainId) (x : Nat × Bool × Option (Nat × W32)) (a : Nat) (bs : List Byte) :
    Except ChStop Module :=
  if x.2.1 then chStore m c x.2.2 a bs else chStoreDev m c a bs

end Sys2Proof.Machine
end

