-- ==== Sys2Proof/Certificates/Slice0/Obligations.lean ====
section
/-! DEFINITION. The statements for the provers. Each docstring names the rule of spec/ that it formalises. -/

open Sys2Proof Sys2Proof.Machine

/-! ### Control flow (04 R132 to R139) -/

/-- 04 R133, R134, R137: a branch goes to its target when its condition holds, popping the loop entries whose bodies
it leaves; otherwise it changes nothing. That a branch of the user-level handler leaves the loop stack alone is the model's
choice, deduced from R136 (log 26). -/
def Obligations.BranchTransfersOnItsCondition : Prop :=
  ∀ (s : State) (i : Instr) (c : Prop) (dest : DevAddr), s.verdict = .go → branchRule s i = some (c, dest) →
    (¬c → Goes i s s) ∧
    (c → ∃ t, Goes i s t ∧ OnlyStream s t ∧ t.bnd = { s.bnd with flow := .jump } ∧
      t.strm = { s.strm with
        pc := dest
        loops := if s.srcStrm.handler.isSome then s.strm.loops
          else s.strm.loops.dropWhile fun e => decide ((e.stop - e.start).toNat < (dest - e.start).toNat) })

/-- 04 R135, R136, R139: LOOP of count 0 transfers behind its end; otherwise it pushes its entry, or raises ILLEGAL in the
control field when four entries stand. The body of a loop of count n runs n times: its end bundle jumps back to the start
on each of the first n − 1 passes, leaving n − k passes after the k-th; the n-th pass pops the entry and falls into the
check of the next one. -/
def Obligations.LoopsRunTheirBodies : Prop :=
  (∀ (s : State) (n : LoopCount) (last : BitVec 16) (cnt : Nat), s.verdict = .go →
     (∀ k, n = .imm k → cnt = k.toNat) → (∀ r, n = .reg r → cnt = s.srcStrm.sreg r.val) →
     let stop := s.srcStrm.pc + 64 * last.setWidth 57
     (cnt = 0 → ∃ t, Goes (.loop n last) s t ∧ OnlyStream s t ∧ t.bnd = { s.bnd with flow := .jump } ∧
       t.strm = { s.strm with pc := stop + 64 }) ∧
     (cnt ≠ 0 → s.srcStrm.loops.length < 4 → ∃ t, Goes (.loop n last) s t ∧ OnlyStream s t ∧
       t.bnd = { s.bnd with flow := .loop } ∧
       t.strm = { s.strm with
         loops := { start := s.srcStrm.pc + 64, stop := stop, remaining := cnt } :: s.strm.loops }) ∧
     (cnt ≠ 0 → 4 ≤ s.srcStrm.loops.length → Raises (.loop n last) s { code := 1, place := 1 })) ∧
  (∀ (x : Stream) (start stop : DevAddr) (n : Nat) (rest : List LoopEntry), x.handler = none →
     x.loops = { start := start, stop := stop, remaining := n } :: rest → 1 ≤ n →
     (∀ k, 1 ≤ k → k < n → (retireAt stop)^[k] x =
       { x with pc := start, loops := { start := start, stop := stop, remaining := n - k } :: rest }) ∧
     (retireAt stop)^[n] x = { x with pc := (loopEnd stop rest).1, loops := (loopEnd stop rest).2 } ∧
     (∀ l, ¬(∃ e es, l = e :: es ∧ e.stop = stop) → loopEnd stop l = (stop + 64, l)))

/-- 04 R137 to R139, 02 R40: CALL pushes the next bundle's address unless 16 stand, and RET pops the top one unless none
stands; each raises ILLEGAL in the control field otherwise. JMPI goes to bits 56:0 of its register, leaving loop bodies as
a branch does (R137); a target that is no bundle address raises ALIGN. That JMPI in the user-level handler leaves the loop
stack alone is the model's choice, deduced from R136 (log 26). -/
def Obligations.CallsReturnsAndIndirectJumps : Prop :=
  (∀ (s : State) (off : W32), s.verdict = .go →
     (s.srcStrm.calls.length < 16 → ∃ t, Goes (.call off) s t ∧ OnlyStream s t ∧
       t.bnd = { s.bnd with flow := .jump } ∧
       t.strm = { s.strm with pc := s.target off, calls := (s.srcStrm.pc + 64) :: s.strm.calls }) ∧
     (16 ≤ s.srcStrm.calls.length → Raises (.call off) s { code := 1, place := 1 }) ∧
     (∀ a as, s.srcStrm.calls = a :: as → ∃ t, Goes .ret s t ∧ OnlyStream s t ∧
       t.bnd = { s.bnd with flow := .jump } ∧ t.strm = { s.strm with pc := a, calls := as }) ∧
     (s.srcStrm.calls = [] → Raises .ret s { code := 1, place := 1 })) ∧
  (∀ (s : State) (r : JmpReg) (v : Nat), s.verdict = .go →
     (∀ n, r = .s n → v = s.srcStrm.sreg n.val) → (∀ n, r = .a n → v = s.srcStrm.areg n.val) →
     let dest : DevAddr := BitVec.ofNat 57 v
     (v % 64 = 0 → ∃ t, Goes (.jmpi r) s t ∧ OnlyStream s t ∧ t.bnd = { s.bnd with flow := .jump } ∧
       t.strm = { s.strm with
         pc := dest
         loops := if s.srcStrm.handler.isSome then s.strm.loops
           else s.strm.loops.dropWhile fun e => decide ((e.stop - e.start).toNat < (dest - e.start).toNat) }) ∧
     (v % 64 ≠ 0 → Raises (.jmpi r) s { code := 3, place := 1, addr := dest.setWidth 64 }))

/-! ### Job control, groups and waits (11 R306 to R310, R324, 08 R238, R241, R242) -/

/-- 02 R49, 11 R307, R308, R324: NOP changes nothing; EXIT makes its stream exited; YIELD changes nothing unless a KERN node
of higher priority waits that could use the core and no region of the job's node is open, and then CHECKPOINT is decided.
NPRE opens a region that closes 2,000 cycles later for each microsecond of its bound, unless one is open, which is ILLEGAL;
XPRE closes it and changes nothing else, unless an action against the job's node has waited for the node's last region: then
a KILL takes place, and a CHECKPOINT goes on. -/
def Obligations.JobControlTakesEffect : Prop :=
  (∀ s : State, s.verdict = .go →
     Goes .nop s s ∧
     (∃ t, Goes .exit s t ∧ OnlyStream s t ∧ t.bnd = s.bnd ∧ t.strm = { s.strm with status := .exited }) ∧
     ((∀ i n cs c pr, jobNode s.src s.cur.die s.cur.core = some (i, n) → n.st = .running cs c pr →
         higherWaits s.src s.cur.die s.cur.core pr = false ∨ regionOpen s.src n = true) → Goes .yield s s) ∧
     (∀ i n cs c pr, jobNode s.src s.cur.die s.cur.core = some (i, n) → n.st = .running cs c pr →
       higherWaits s.src s.cur.die s.cur.core pr = true → regionOpen s.src n = false →
       Goes .yield s { s with m := decideNode s.m i.ctx i.graph n (.checkpoint none) })) ∧
  (∀ (s : State) (us : BitVec 8), s.verdict = .go →
     (s.srcCore.region = none → actionHeld s.src s.cur.die s.cur.core = false → ∃ t, Goes (.npre us) s t ∧
       OnlyCore s t ∧ t.core = { s.core with
         region := some ((s.src.die s.cur.die).cyc + BitVec.ofNat 64 (2000 * us.toNat)) }) ∧
     (s.srcCore.region ≠ none → Raises (.npre us) s { code := 1, place := 1 }) ∧
     let closed := s.m.setCore s.cur.die s.cur.core { s.core with region := none }
     let open_ := fun (n : NodeRun) => ∃ c ∈ n.cores, (closed.core n.die c).region ≠ none
     (jobNode s.m s.cur.die s.cur.core = none → Goes .xpre s { s with m := closed }) ∧
     (∀ i n, jobNode s.m s.cur.die s.cur.core = some (i, n) →
       (n.heldBack = false ∨ open_ n → Goes .xpre s { s with m := closed }) ∧
       (n.heldBack = true → ¬open_ n → n.decision = .kill →
         Goes .xpre s { s with m := killNode closed i.ctx i.graph n }) ∧
       (n.heldBack = true → ¬open_ n → n.decision ≠ .kill →
         Goes .xpre s { s with m := modNode (chooseCheckpoint closed n) i.ctx i.graph n.node fun x =>
           { x with heldBack := false } })))

/-- 11 R306: an RDV retires once both partners have counted as many, each stream counting an RDV once while it waits; it
raises ILLEGAL when it would wait on a stream that has exited. -/
def Obligations.RendezvousRetiresTogether : Prop :=
  ∀ s : State, s.verdict = .go →
    let n := s.srcStrm.rdvs + if s.srcStrm.cwait = .rdv then 0 else 1
    let behind : StreamName → Prop := fun p => p ≠ s.cur.stream ∧ (s.srcCore.stream p).rdvs < n
    ((∀ p, ¬behind p) → ∃ t, Goes .rdv s t ∧ t.strm = { s.strm with rdvs := n, cwait := .rdv }) ∧
    ((∃ p, behind p) → (∀ p, behind p → (s.srcCore.stream p).status ≠ .exited) →
      ∃ t, exec .rdv s = .next t ∧ t.verdict = .blocked ∧ t.strm = { s.srcStrm with rdvs := n, cwait := .rdv }) ∧
    ((∃ p, behind p ∧ (s.srcCore.stream p).status = .exited) → Raises .rdv s { code := 1, place := 1 })

/-- 11 R310, 14 R333, 07 R194: JOIN, LEAVE and GBAR of a group that the context holds. JOIN sets the party's mask bit and
joins the group's clock into the job's. LEAVE releases into the group's clock and clears the party's bit of mask, need and
arr; the phase completes when arr then equals need, with arr 0 and need the mask. A GBAR arrives when its bit is required and
has not arrived: it returns at once with the group's clock when that completes the phase, and waits otherwise; one that is not
required waits for the next phase and arrives then; one of a non-member is ILLEGAL. A completed phase wakes those who wait for
it with the clock that it completed with. The bits of members that are checkpointed and out stand beside the others and count
in a phase as theirs do (R323). All three raise PRIV outside the grant. What a release of die scope waits for beside the
scrubber is the model's choice (log 90). -/
def Obligations.GroupOpsFollowThePseudocode : Prop :=
  ∀ (s : State) (g : Fin 1024), s.verdict = .go →
    let d := s.cur.die
    let p := s.cur.core
    let x := s.src.group d g.val
    let b := BitVec.ofNat 128 (2 ^ p.val)
    let own : Prop := x.mask &&& b ≠ 0
    let outHave : Prop := ∀ h ∈ x.out, h.arr = h.need
    let test := fun (y : Group) => if y.arr = y.need ∧ ∀ h ∈ y.out, h.arr = h.need then
      { y with phase := y.phase + 1, arr := 0, need := y.mask, out := y.out.map fun h => { h with need := true, arr := false } }
      else y
    let arrived := test { x with arr := x.arr ||| b, clk := Clock.join x.clk s.srcCore.clk }
    let joined : Group := { x with clk := Clock.join x.clk s.core.clk }
    let left := test { joined with mask := x.mask &&& ~~~b, need := x.need &&& ~~~b, arr := x.arr &&& ~~~b }
    let wait := fun (w : Wait) (m : Module) => m.modStrm s.cur fun y => { y with cwait := w }
    let arrive := fun (m : Module) => afterRelease (settleGroup m d g.val arrived) d p
    let done := fun (m : Module) => wait (.gbarDone arrived.clk) (arrive m)
    let waits := fun (m : Module) => exec (.gbar g) s = .next { s with m := m, verdict := .blocked }
    let fresh := s.srcStrm.cwait = .none ∨ ∃ φ, s.srcStrm.cwait = .gbarNext φ ∧ φ ≠ x.phase
    (grantGroup s.src s.srcCore.ctx g.val = false →
      Raises (.join g) s { code := 2, place := 1 } ∧ Raises (.leave g) s { code := 2, place := 1 } ∧
      Raises (.gbar g) s { code := 2, place := 1 }) ∧
    (grantGroup s.src s.srcCore.ctx g.val = true →
      (bitOut s.src d g.val p = false → Goes (.join g) s { s with
        m := acquire (s.m.setGroup d g.val { x with mask := x.mask ||| b }) d p x.clk }) ∧
      (bitOut s.src d g.val p = true → exec (.join g) s = .next { s with m := s.src, verdict := .unissued }) ∧
      (releaseWaits s.src s.cur false = true → exec (.leave g) s = .next { s with m := s.src, verdict := .unissued }) ∧
      (releaseWaits s.src s.cur false = false →
        (own → Goes (.leave g) s { s with m := afterRelease (settleGroup s.m d g.val left) d p }) ∧
        (¬own → Goes (.leave g) s { s with m := afterRelease (settleGroup s.m d g.val joined) d p })) ∧
      (fresh → ¬own → Raises (.gbar g) s { code := 1, place := 1 }) ∧
      (fresh → own → x.need &&& b = 0 → waits (wait (.gbarNext x.phase) s.src)) ∧
      (fresh → own → x.need &&& b ≠ 0 → x.arr &&& b ≠ 0 → waits (wait (.gbar g x.phase) s.src)) ∧
      (fresh → own → x.need &&& b ≠ 0 → x.arr &&& b = 0 → releaseWaits s.src s.cur false = false →
        (x.arr ||| b = x.need → outHave → Goes (.gbar g) s { s.stand done with m := acquire (done s.m) d p arrived.clk }) ∧
        (¬(x.arr ||| b = x.need ∧ outHave) → waits (wait (.gbar g x.phase) (arrive s.src)))) ∧
      (s.srcStrm.cwait = .gbar g x.phase ∨ s.srcStrm.cwait = .gbarNext x.phase → waits s.src) ∧
      (∀ k, s.srcStrm.cwait = .gbarDone k → Goes (.gbar g) s { s with m := acquire s.m d p k })) ∧
    (∀ (m : Module) (y : Group) (w : Who),
      let z := settleGroup m d g.val y
      z.group d g.val = y ∧ (∀ h, h ≠ g.val → z.group d h = m.group d h) ∧ z.phys = m.phys ∧
      (y.phase = (m.group d g.val).phase → z = m.setGroup d g.val y) ∧
      (y.phase ≠ (m.group d g.val).phase → w.die = d → (m.strm w).cwait = .gbar g (m.group d g.val).phase →
        (z.strm w).cwait = .gbarDone y.clk)) ∧
    (∀ (m : Module) (e : Fin 16) (c : Fin 128) (k : Clock),
      afterRelease m e c = m.setCore e c { m.core e c with
        clk := Tbl.ins (m.core e c).clk (partyKey e c.val) (Clock.at (m.core e c).clk (partyKey e c.val) + 1) } ∧
      acquire m e c k = m.setCore e c { m.core e c with clk := Clock.join (m.core e c).clk (Clock.ofDie e k) })

/-- 08 R238, R241, R242, 11 R308, 07 R209, 14 R333: WAITS on an aligned, mapped and sound signal returns at once with the
signal's clock when it is 0 or less, and otherwise waits; one that a change has woken returns with the clock of that
change; a misaligned address raises ALIGN. WAITB on a granted, valid slot without overrun returns once the phase that it
waits for has completed, joining the done clock, setting the phase view and clearing the arrival record; before that it
waits. It raises ILLEGAL at an invalid slot, PRIV at a valid one outside the grant (15 R352) and OVERRUN at one whose ovr is
set by no dropped write. WAITS waits while the signal's scratchpad is frozen (15 R365). That WAITS translates as a read at its
die's synchronisation engine is the model's choice (log 22). -/
def Obligations.WaitsReturnOnceTheirConditionHolds : Prop :=
  (∀ (s : State) (r : Fin 64), s.verdict = .go →
     let dev := s.srcStrm.sreg r.val % 2 ^ 57
     (∀ k, s.srcStrm.cwait = .woken k → Goes (.waits r) s (jobAcquire k s)) ∧
     (s.srcStrm.cwait = .none →
       (dev % 8 ≠ 0 → Raises (.waits r) s { code := 3, place := 1, addr := BitVec.ofNat 64 dev }) ∧
       (∀ pa m, dev % 8 = 0 → translate s.src (some (.sye s.cur.die)) s.srcCore.ctx .read dev = .ok (pa, m) →
         (Loc.phys pa).frozen s.src = true → exec (.waits r) s = .next { s with m := s.src, verdict := .unissued }) ∧
       (∀ pa m, dev % 8 = 0 → translate s.src (some (.sye s.cur.die)) s.srcCore.ctx .read dev = .ok (pa, m) →
         (Loc.phys pa).frozen s.src = false → poisoned s.src pa = false →
         let v := (BitVec.ofNat 64 (Memory.read s.src.phys pa 8)).toInt
         let k := Tbl.get [] (s.src.die (homeDie pa)).words pa
         let held := fun (x : Module) => { x with held := m.held }.modStrm s.cur fun y => { y with cwait := .woken k }
         (v ≤ 0 → Goes (.waits r) s (jobAcquire k (s.stand held))) ∧
         (0 < v → ∃ t, exec (.waits r) s = .next t ∧ t.verdict = .blocked ∧
           t.strm = { s.srcStrm with cwait := .waits (homeDie pa) pa (BitVec.ofNat 64 dev) })))) ∧
  (∀ (s : State) (slot : Fin 256), s.verdict = .go → s.srcStrm.cwait = .none →
     let b := s.src.barrier s.cur.die slot
     let dest := waitbTarget s slot
     let φ := b.phase.setWidth 16
     let off : W64 := BitVec.ofNat 64 (32 * slot.val)
     (b.valid = false → Raises (.waitb slot) s { code := 1, place := 1, addr := off }) ∧
     (b.valid = true → grantSlot s.src s.srcCore.ctx slot.val = false → Raises (.waitb slot) s { code := 2, place := 1 }) ∧
     (grantSlot s.src s.srcCore.ctx slot.val = true →
       (b.valid = true → b.ovr = true → b.raced = none → s.srcStrm.wait.inFlight = false →
         Raises (.waitb slot) s { code := 12, place := 1, addr := off }) ∧
       (b.valid = true → b.ovr = false → dest ≠ φ → atOrBefore dest φ = true → ∃ t, Goes (.waitb slot) s t ∧
         t.core.clk = Clock.join s.core.clk (Clock.ofDie s.cur.die b.clkDone) ∧
         viewPhase t.core.phases slot.val = φ - 1 ∧ Tbl.get none t.core.arrivals slot.val = none ∧
         t.core = { s.core with clk := t.core.clk, phases := t.core.phases, arrivals := t.core.arrivals } ∧
         OnlyCore s t) ∧
       (b.valid = true → b.ovr = false → (dest = φ ∨ atOrBefore dest φ = false) → ∃ t,
         exec (.waitb slot) s = .next t ∧ t.verdict = .blocked ∧
         t.strm = { s.srcStrm with cwait := .waitb slot dest })))

/-! ### Traps (15 R351 to R355, R360) -/

/-- 15 R351, R353, R354, R360: TRAP raises USER with its argument, named at the control field. A trap of the held class
stops its stream as held at the bundle at fault, leaves its registers, moves the previous record to tprev and writes the
new one: its number, the stream, where, subcause, class and code, the bundle's address, the cycle, the address at fault
and the operand words. ATOMLOST is of the continued class: its record is written and its stream goes on behind the
bundle. That the number of a record counts the record itself is the model's choice (log 23). -/
def Obligations.TrapsWriteTheirRecords : Prop :=
  (∀ (s : State) (n : BitVec 16), Raises (.trap n) s { code := 0x14, place := 1, info := n.setWidth 64 }) ∧
  (∀ (m : Module) (w : Who) (t : Trap), trapClass t.code = 0 → isDouble (m.strm w) t = false →
     t.code < 256 → t.sub < 256 → t.place < 16 → t.stamp = none → (m.strm w).doomed = false →
     let x := m.strm w
     let y := (takeTrap m w t).strm w
     let w0 := y.trec.w0.toNat
     y.status = .held ∧ y.pc = x.pc ∧ y.s = x.s ∧ y.a = x.a ∧ y.m = x.m ∧ y.hs = x.hs ∧ y.fflg = x.fflg ∧
     y.tprev = x.trec ∧ y.recs = x.recs + 1 ∧
     fld w0 48 16 = (x.recs + 1).toNat ∧
     fld w0 32 16 = w.die.val * 4096 + w.core.val / 16 * 512 + w.core.val * 4 + streamNo w.stream ∧
     fld w0 24 4 = t.place ∧ fld w0 16 8 = t.sub ∧ fld w0 8 8 = 0 ∧ fld w0 0 8 = t.code ∧
     y.trec.w1 = x.pc.setWidth 64 ∧ y.trec.w2 = (m.die w.die).cyc ∧ y.trec.w3 = t.addr ∧
     y.trec.w4 = t.opa ∧ y.trec.w5 = t.opb ∧ y.trec.w6 = t.opc ∧ y.trec.w7 = t.info) ∧
  (∀ (m : Module) (w : Who) (t : Trap), t.code = 0x0B → isDouble (m.strm w) t = false →
     let x := m.strm w
     let y := (takeTrap m w t).strm w
     y.status = x.status ∧ y.pc = (advance x).pc ∧ y.loops = (advance x).loops ∧ y.tprev = x.trec ∧
     fld y.trec.w0.toNat 0 16 = 0x10B)

/-! ### Address ops (02 R41, R50, 04 R129, R130) -/

/-- 04 R129, R130, 02 R41, R50: AINC, AMOD, ABRV and ACIR step their address register by the formulas of R130, from the
values before the bundle, and nothing else changes; a reserved mode of the modifier register raises ILLEGAL in the address
field. ASET sets an address register to a 36-bit value, and MSET one part of a modifier register, the others keeping their
values. -/
def Obligations.AddressOpsWriteTheirRegister : Prop :=
  (∀ (s : State) (a k : Fin 16) (imm : W32), s.verdict = .go →
     let x : Int := s.srcStrm.areg a.val
     let r := s.srcStrm.mreg k.val
     let steps := fun (i : Instr) (v : Int) => ∃ t, Goes i s t ∧ OnlyStream s t ∧
       (t.strm.areg a.val : Int) = v % 2 ^ 48 ∧ (∀ n, n ≠ a.val → t.strm.areg n = s.strm.areg n) ∧
       t.strm = { s.strm with a := t.strm.a }
     steps (.ainc a imm) (x + imm.toInt) ∧
     (∀ u, r.unit = some u →
       let inc := r.inc.toInt * u
       let len : Int := r.len.toNat * u
       (len = 0 → steps (.amod a k) (x + inc) ∧ steps (.abrv a k) (x + inc) ∧ steps (.acir a k) (x + inc)) ∧
       (len ≠ 0 → steps (.amod a k) (x - x % len + (x % len + inc) % len)) ∧
       (len ≠ 0 → steps (.acir a k) (r.base.toNat + (x - r.base.toNat + inc) % len)) ∧
       (len = 1 → steps (.abrv a k) (x + inc)) ∧
       (∀ b : Nat, 1 ≤ b → (2 : Int) ^ b ≤ len → len < 2 ^ (b + 1) →
         steps (.abrv a k) (x - x % 2 ^ b +
           revN b ((revN b (x % 2 ^ b).toNat + revN b (inc % 2 ^ b).toNat) % 2 ^ b)))) ∧
     (r.unit = none → ∀ i, i = .amod a k ∨ i = .abrv a k ∨ i = .acir a k → Raises i s { code := 1, place := 2 })) ∧
  (∀ (s : State) (a k : Fin 16) (hi : BitVec 4) (v : W32), s.verdict = .go →
     let r := s.srcStrm.mreg k.val
     let sets := fun (i : Instr) (x : MReg) => ∃ t, Goes i s t ∧ OnlyStream s t ∧ t.strm.mreg k.val = x ∧
       (∀ n, n ≠ k.val → t.strm.mreg n = s.strm.mreg n) ∧ t.strm = { s.strm with m := t.strm.m }
     (∃ t, Goes (.aset a hi v) s t ∧ OnlyStream s t ∧ t.strm.areg a.val = hi.toNat * 2 ^ 32 + v.toNat ∧
       (∀ n, n ≠ a.val → t.strm.areg n = s.strm.areg n) ∧ t.strm = { s.strm with a := t.strm.a }) ∧
     sets (.mset 0 k v) { r with inc := v } ∧ sets (.mset 1 k v) { r with len := v } ∧
     sets (.mset 2 k v) { r with base := r.base.extractLsb' 32 16 ++ v } ∧
     sets (.mset 3 k v) { r with
       base := v.extractLsb' 0 16 ++ r.base.extractLsb' 0 32, mode := v.extractLsb' 16 4 })

/-! ### Element-wise ops (04 R103 to R112, 05 R144 to R146, R154, R157 to R159) -/

/-- 04 R106, R108 to R112, 05 R144 to R146, R154, 03 R82: an element-wise op in scalar form, whose sources can be read, goes
through: its destination holds the rule's value of its sources, sign-extended for an i type and zero-extended otherwise,
its flags join fflg, and every other register keeps its value. -/
def Obligations.ElementwiseScalarFormWritesItsResult : Prop :=
  ∀ (s u : State) (i : Instr) (r : ElemRule) (a b c : Val), s.verdict = .go → s.strm = s.srcStrm →
    i.okIn s.cur.stream = true → ElemOf s i r → isScalar i r.op = true → Sources s i r a b c u →
    let v := r.f (a.elem r.ta 0) (b.elem r.tb 0) (c.elem r.tc 0)
    WritesScalar s i r.op.dst (extended r.td v.1) v.2

/-- 04 R103 to R105, R108 to R112, 05 R144 to R146, R154, 03 R82: an element-wise op on tiles of a shape that fits goes
through. Each element that the predicate selects takes the rule's value of the sources' elements, every other element and
the bytes beyond the shape keep theirs (or are zero in a pushed entry), and the flags of the selected elements join fflg.
It covers the ops that follow jord while jord is 0. -/
def Obligations.ElementwiseTileFormWritesEveryElement : Prop :=
  ∀ (s u : State) (i : Instr) (r : ElemRule) (a b c : Val), s.verdict = .go → s.cur.stream = .x →
    i.okIn .x = true → ElemOf s i r → isScalar i r.op = false → (jetAware i = true → s.srcStrm.jord = 0) →
    tooBig s r.ta = false → tooBig s r.td = false → Sources s i r a b c u →
    let v := fun e => r.f (a.elem r.ta e) (b.elem r.tb e) (c.elem r.tc e)
    let pred := bitAt (predOf s r.op)
    WritesTile s i r.op.dst r.td pred (fun e => (v e).1) (flagsOf (elemsOf s) pred fun e => (v e).2)

/-- 05 R157 to R159, 04 R107: under a jet order the op with a register destination writes coefficient j of its series to
register j of the destination's group, each under the predicate, and no register outside the group. A misaligned group and a
queue raise ILLEGAL; with a scalar destination an op is in scalar form and ignores jord. That FCLP takes all coefficients
from the operand that its FMIN and FMAX choose is the model's choice (log 29). -/
def Obligations.JetFormWritesEveryCoefficient : Prop :=
  (∀ (s : State) (i : Instr) (r : ElemRule), s.verdict = .go → s.cur.stream = .x → i.okIn .x = true → ElemOf s i r →
    isScalar i r.op = false → jetAware i = true → s.srcStrm.jord ≠ 0 →
    (r.op.dst = .qxs ∨ ∃ d, r.op.dst = .v d ∧ d.val % jetAlign s.srcStrm.jord.toNat ≠ 0) →
    ∃ t, Raises i s t ∧ t.code = 1 ∧ t.place = placeCode i.place) ∧
  ∀ (s s1 s2 u : State) (i : Instr) (r : ElemRule) (a b c : List Val) (d : Fin 32), s.verdict = .go →
    s.cur.stream = .x → i.okIn .x = true → ElemOf s i r → isScalar i r.op = false → jetAware i = true →
    let k := s.srcStrm.jord.toNat
    k ≠ 0 → tooBig s r.ta = false → tooBig s r.td = false → r.op.dst = .v d → d.val % jetAlign k = 0 →
    jetSrc s (placeCode i.place) r.ta k r.op.a = .ok (a, s1) →
    jetSrc s1 (placeCode i.place) r.tb k r.op.b = .ok (b, s2) →
    jetSrc s2 (placeCode i.place) r.tc k r.op.c = .ok (c, u) →
    let v := fun e => r.series k (a.map fun x => x.elem r.ta e) (b.map fun x => x.elem r.tb e)
      (c.map fun x => x.elem r.tc e)
    ∃ t, Goes i s t ∧ OnlyCore s t ∧
      (∀ j, j ≤ k → TileHolds (tyBits r.td) (elemsOf s) (bitAt (predOf s r.op)) (fun e => ((v e).getD j (0, 0)).1)
        (s.core.vreg (d.val + j)) (t.core.vreg (d.val + j))) ∧
      (∀ n, n < d.val ∨ d.val + k < n → t.core.vreg n = s.core.vreg n) ∧
      t.core = { s.core with v := t.core.v, x := { s.strm with fflg := t.strm.fflg, jflg := t.strm.jflg } }

/-- 02 R57, 03 R79: rounding in every mode. Unless it overflows, the result of an exact value is, to nearest even, a nearest
value of the format and on a tie between two the one whose encoding is even; toward zero the largest magnitude not above it,
toward +∞ the least value not below it, toward −∞ the largest not above it. -/
def Obligations.RoundingChoosesTheRightNeighbour : Prop :=
  ∀ (f : FFmt) (v : Dy) (mode : Nat), (f = .f32 ∨ f = .bf16 ∨ f = .f16) → mode < 4 →
    let w := (rndDy f mode v).1
    let fl := (rndDy f mode v).2
    let fin := fun (x : Nat) => x < 2 ^ f.width ∧ (unpack f x).isNan = false ∧ (unpack f x).isInf = false
    let q := fun (x : Nat) => dyQ (unpack f x).dy
    fl &&& fOF = 0 →
    fin w ∧ (q w = dyQ v ↔ fl &&& fNX = 0) ∧
    (mode = 0 → ∀ x, fin x → |q w - dyQ v| ≤ |q x - dyQ v| ∧
      (|q w - dyQ v| = |q x - dyQ v| → q x ≠ q w → w % 2 = 0)) ∧
    (mode = 1 → |q w| ≤ |dyQ v| ∧ ∀ x, fin x → |q x| ≤ |dyQ v| → |q x| ≤ |q w|) ∧
    (mode = 2 → dyQ v ≤ q w ∧ ∀ x, fin x → dyQ v ≤ q x → q w ≤ q x) ∧
    (mode = 3 → q w ≤ dyQ v ∧ ∀ x, fin x → q x ≤ dyQ v → q x ≤ q w)

/-- 03 R79 to R81, 04 R110 to R112, 05 R144 to R146, R154: FADD, FSUB, FMUL, FDIV and FMA return the exact result rounded
once, in the mode of rmode, with the flags of R81. A NaN operand gives the canonical NaN, with NV when an operand is
signalling; ∞ − ∞, 0 × ∞, 0 ÷ 0 and ∞ ÷ ∞ are invalid, 0 × ∞ in FMA even beside a NaN c; a number divided by ±0 is ±∞ with
DZ. An exact zero sum has the sign of its operands where these agree, and otherwise is +0, or −0 toward −∞. FMIN and FMAX
return the smaller or the larger operand, −0 below +0, and a NaN only for two NaNs. FABS, FNEG and FMOV change the sign
alone, FSCL rounds a × 2^n, FCLP is FMAX(lo, FMIN(a, hi)), FLRP rounds a + t (b − a); each gives the canonical NaN for a NaN
a. CVT rounds to its format, CVFI rounds to an integer and saturates with NV, CVIF rounds an integer. The sign of a zero
that FLRP's exact sum comes to, and that its NaN operands come first, are left to the model (R81, log 93). FRCP and FSQT are
correctly rounded; the other special functions give the special values of R154 and, elsewhere, any value within its bound of
the function's value, which the model forms to hundreds of bits (log 12), with NX when they differ. -/
def Obligations.FloatArithmeticRoundsOnce : Prop :=
  (
  ∀ (f : FFmt) (mode a b c : Nat), (f = .f32 ∨ f = .bf16 ∨ f = .f16) → mode < 4 →
    let x := unpack f a
    let y := unpack f b
    let z := unpack f c
    let sum := fun (m n : Bool) => if m = n then m else decide (mode = 3)
    let sg := x.neg != y.neg
    let bad := (x.isInf = true ∧ ∃ n, y = .zero n) ∨ (y.isInf = true ∧ ∃ n, x = .zero n)
    (x.isNan = true ∨ y.isNan = true → ∀ r, r = faddB f mode a b ∨ r = fsubB f mode a b ∨ r = fmulB f mode a b ∨
      r = fdivB f mode a b → r = (f.qnan, nvOf [x, y])) ∧
    (x.num → y.num →
      RoundsTo f mode (sum x.neg y.neg) (x.q + y.q) (faddB f mode a b) ∧
      RoundsTo f mode (sum x.neg !y.neg) (x.q - y.q) (fsubB f mode a b) ∧
      RoundsTo f mode sg (x.q * y.q) (fmulB f mode a b) ∧
      (y.q ≠ 0 → RoundsTo f mode sg (x.q / y.q) (fdivB f mode a b)) ∧
      (y.q = 0 → fdivB f mode a b = if x.q = 0 then (f.qnan, fNV) else (f.inf sg, fDZ))) ∧
    (∀ m n, x = .inf m → y = .inf n →
      faddB f mode a b = (if m = n then (f.inf m, 0) else (f.qnan, fNV)) ∧
      fsubB f mode a b = (if m = n then (f.qnan, fNV) else (f.inf m, 0)) ∧
      fmulB f mode a b = (f.inf sg, 0) ∧ fdivB f mode a b = (f.qnan, fNV)) ∧
    (∀ m, x = .inf m → y.num → faddB f mode a b = (f.inf m, 0) ∧ fsubB f mode a b = (f.inf m, 0) ∧
      fmulB f mode a b = (if y.q = 0 then (f.qnan, fNV) else (f.inf sg, 0)) ∧ fdivB f mode a b = (f.inf sg, 0)) ∧
    (∀ n, x.num → y = .inf n → faddB f mode a b = (f.inf n, 0) ∧ fsubB f mode a b = (f.inf !n, 0) ∧
      fmulB f mode a b = (if x.q = 0 then (f.qnan, fNV) else (f.inf sg, 0)) ∧ fdivB f mode a b = (f.zero sg, 0)) ∧
    (bad → fmaB f mode a b c = (f.qnan, fNV)) ∧
    (¬bad → x.isNan = true ∨ y.isNan = true ∨ z.isNan = true → fmaB f mode a b c = (f.qnan, nvOf [x, y, z])) ∧
    (x.num → y.num → z.num → RoundsTo f mode (sum sg z.neg) (x.q * y.q + z.q) (fmaB f mode a b c)) ∧
    (x.num → y.num → ∀ n, z = .inf n → fmaB f mode a b c = (f.inf n, 0)) ∧
    (¬bad → x.isNan = false → y.isNan = false → x.isInf = true ∨ y.isInf = true →
      (z.num ∨ z = .inf sg → fmaB f mode a b c = (f.inf sg, 0)) ∧
      (z = .inf !sg → fmaB f mode a b c = (f.qnan, fNV)))) ∧
  (
  (∀ (f : FFmt) (mode a b t : Nat) (n : Int), (f = .f32 ∨ f = .bf16 ∨ f = .f16) → mode < 4 → a < 2 ^ f.width →
     b < 2 ^ f.width →
     let x := unpack f a
     let y := unpack f b
     let z := unpack f t
     let low := 2 ^ (f.ebits + f.fbits)
     let nan := (f.qnan, nvOf [x])
     (∀ max, (minmaxB f max a b).2 = nvOf [x, y] ∧
       let w := (minmaxB f max a b).1
       (x.isNan = true → y.isNan = true → w = f.qnan) ∧ (x.isNan = true → y.isNan = false → w = b) ∧
       (x.isNan = false → y.isNan = true → w = a) ∧
       (x.isNan = false → y.isNan = false → (w = a ∨ w = b) ∧
         (max = true → ¬(unpack f w).less True x ∧ ¬(unpack f w).less True y) ∧
         (max = false → ¬x.less True (unpack f w) ∧ ¬y.less True (unpack f w)))) ∧
     (x.isNan = true → fabsB f a = nan ∧ fnegB f a = nan ∧ fmovB f a = nan ∧ fsclB f mode a n = nan) ∧
     (x.isNan = false → fabsB f a = (a % low, 0) ∧ fnegB f a = ((a + low) % 2 ^ f.width, 0) ∧ fmovB f a = (a, 0) ∧
       (x.isInf = true ∨ x.q = 0 → fsclB f mode a n = (a, 0)) ∧
       (x.num → x.q ≠ 0 → RoundsTo f mode false (x.q * (2 : ℚ) ^ n) (fsclB f mode a n))) ∧
     (fclpB f a b t).2 = nvOf [x, y, z] ∧
     (fclpB f a b t).1 = (if x.isNan then f.qnan else (minmaxB f true b (minmaxB f false a t).1).1) ∧
     (x.isNan = true ∨ y.isNan = true ∨ z.isNan = true → flrpB f mode a b t = (f.qnan, nvOf [x, y, z])) ∧
     (x.isNan = false → y.isNan = false → z.isNan = false →
       (∀ m, x = .inf m → y = .inf m → flrpB f mode a b t = (f.qnan, fNV)) ∧
       (z.q = 0 → z.num → x.isInf = true ∨ y.isInf = true → flrpB f mode a b t = (f.qnan, fNV)) ∧
       (z.isInf = true → x.num → y.num → x.q = y.q → flrpB f mode a b t = (f.qnan, fNV)) ∧
       (x.num → y.num → z.num → ∃ s, RoundsTo f mode s (x.q + z.q * (y.q - x.q)) (flrpB f mode a b t)) ∧
       (x.num → z.num → z.q = 0 → y.num → flrpB f mode a b t = (a, 0)) ∧
       (z.q = 1 → ¬(∃ m, x = .inf m ∧ y = .inf m) → flrpB f mode a b t = (b, 0)))) ∧
  (∀ (f g : FFmt) (mode a : Nat), (f = .f32 ∨ f = .bf16 ∨ f = .f16) → (g = .f32 ∨ g = .bf16 ∨ g = .f16) → mode < 4 →
     let x := unpack f a
     (x.isNan = true → cvtB f g mode a = (g.qnan, nvOf [x])) ∧ (∀ n, x = .inf n → cvtB f g mode a = (g.inf n, 0)) ∧
     (x.num → RoundsTo g mode x.neg x.q (cvtB f g mode a))) ∧
  (∀ (s t : Ty) (mode a : Nat), tyFloat s = true → t ∈ tysI → mode < 4 →
     let x := unpack (fmtOf s) a
     let lo : Int := if tySigned t then -2 ^ (tyBits t - 1) else 0
     let hi : Int := if tySigned t then 2 ^ (tyBits t - 1) - 1 else 2 ^ tyBits t - 1
     let v := roundInt mode x.q
     let pat := fun (n : Int) => (BitVec.ofInt (tyBits t) n).toNat
     (x.isNan = true → cvfiB s t mode a = (0, fNV)) ∧
     (∀ n, x = .inf n → cvfiB s t mode a = (pat (if n then lo else hi), fNV)) ∧
     (x.num → cvfiB s t mode a = if v < lo then (pat lo, fNV) else if hi < v then (pat hi, fNV)
       else (pat v, if (v : ℚ) = x.q then 0 else fNX)) ∧
     (∀ b, RoundsTo (fmtOf s) mode false (valI t b) (cvifB t s mode b)))) ∧
  (∀ (f : FFmt) (mode w : Nat), (f = .f32 ∨ f = .bf16) → mode < 4 →
     let x := unpack f w
     let at_ := fun (fn : SpecFn) => specB fn f mode w
     let one := f.bias * 2 ^ f.fbits
     let below := (x.num ∧ x.q < 0) ∨ x = .inf true
     let nan := (f.qnan, fNV)
     (∀ fn, x.isNan = true → at_ fn = (f.qnan, nvOf [x])) ∧
     (∀ n, x = .zero n → at_ .exp = (one, 0) ∧ at_ .exp2 = (one, 0) ∧ at_ .log = (f.inf true, fDZ) ∧
       at_ .log2 = (f.inf true, fDZ) ∧ at_ .rcp = (f.inf n, fDZ) ∧ at_ .sqt = (f.zero n, 0) ∧ at_ .rsq = (f.inf n, fDZ) ∧
       at_ .tnh = (f.zero n, 0) ∧ at_ .sig = (one - 2 ^ f.fbits, 0) ∧ at_ .glu = (f.zero n, 0) ∧ at_ .sin = (f.zero n, 0) ∧
       at_ .cos = (one, 0)) ∧
     (∀ n, x = .inf n → at_ .exp = (if n then f.zero false else f.inf false, 0) ∧ at_ .exp2 = at_ .exp ∧
       at_ .rcp = (f.zero n, 0) ∧ at_ .tnh = (f.zero n + one, 0) ∧ at_ .sig = (if n then f.zero false else one, 0) ∧
       at_ .glu = (if n then f.zero true else f.inf false, 0) ∧ at_ .sin = nan ∧ at_ .cos = nan ∧
       (n = false → at_ .log = (f.inf false, 0) ∧ at_ .log2 = (f.inf false, 0) ∧ at_ .sqt = (f.inf false, 0) ∧
         at_ .rsq = (f.zero false, 0))) ∧
     (below → at_ .log = nan ∧ at_ .log2 = nan ∧ at_ .sqt = nan ∧ at_ .rsq = nan) ∧
     (x.q = 1 → x.num → at_ .log = (f.zero false, 0) ∧ at_ .log2 = (f.zero false, 0)) ∧
     (∀ n : Int, f = .f32 → x.num → -149 ≤ n → n < 128 →
       (x.q = n → n ≠ 0 → (unpack f (at_ .exp2).1).q = (2 : ℚ) ^ n ∧ (at_ .exp2).2 = 0) ∧
       (x.q = (2 : ℚ) ^ n → (unpack f (at_ .log2).1).q = n ∧ (at_ .log2).2 = 0)) ∧
     (x.num → x.q ≠ 0 → RoundsTo f mode false (1 / x.q) (at_ .rcp)) ∧
     (x.num → 0 < x.q →
       let r := at_ .sqt
       let y := unpack f r.1
       let near := fun (z : FVal) => |Real.sqrt ((x.q : ℚ) : ℝ) - ((z.q : ℚ) : ℝ)|
       y.num ∧ 0 < y.q ∧ r.2 = (if y.q * y.q = x.q then 0 else fNX) ∧
       (mode = 0 → ∀ v, (unpack f v).num → near y ≤ near (unpack f v)) ∧
       (mode = 1 ∨ mode = 3 → y.q * y.q ≤ x.q ∧ ∀ v, (unpack f v).num → (unpack f v).q * (unpack f v).q ≤ x.q →
         (unpack f v).q ≤ y.q) ∧
       (mode = 2 → x.q ≤ y.q * y.q ∧ ∀ v, (unpack f v).num → 0 < (unpack f v).q → x.q ≤ (unpack f v).q * (unpack f v).q →
         y.q ≤ (unpack f v).q)) ∧
     (∀ fn v ex, fn ≠ .rcp → fn ≠ .sqt → specRes fn f w = .val v ex → dyQ v ≠ 0 → -(2 : ℚ) ^ f.bias ≤ dyQ v →
       ∀ k : Int, (2 : ℚ) ^ k ≤ |dyQ v| → |dyQ v| < (2 : ℚ) ^ (k + 1) →
       let r := at_ fn
       let units : Nat := if f = .bf16 then 1 else match fn with
         | .tnh | .sig | .sin | .cos => 2
         | .glu | .phi => 3
         | _ => 1
       let ulps : ℚ := units * (2 : ℚ) ^ (max k f.emin - f.fbits)
       let bound := if f = .f32 ∧ (fn = .sin ∨ fn = .cos) then max ulps ((2 : ℚ) ^ (-26 : Int)) else ulps
       (r.2 &&& fOF = 0 → (unpack f r.1).num ∧ |(unpack f r.1).q - dyQ v| ≤ bound ∧
         (r.2 = 0 ↔ ex = true ∧ (unpack f r.1).q = dyQ v)) ∧
       (r.2 &&& fOF ≠ 0 → (2 : ℚ) ^ (f.bias + 1) ≤ dyQ v + bound ∧ (r.1 = f.inf false ∨ r.1 = f.maxFin false))) ∧
     (∀ v ex, x.num → 0 < x.q → specRes .rsq f w = .val v ex → 0 < dyQ v ∧ dyQ v * dyQ v * x.q ≤ 1 ∧
       (ex = true ↔ dyQ v * dyQ v * x.q = 1) ∧ 1 < dyQ v * dyQ v * x.q * (1 + (2 : ℚ) ^ (-200 : Int))))


/-! ### Compares, masks, reductions and rearranging (04 R113 to R126) -/

/-- 04 R113 to R115: ICMP and FCMP write one bit for each element of the shape, under the predicate, and 1 or 0 in scalar
form. ICMP compares in T and writes no flag; FCMP's condition and NV are those of its table: NV on a signalling NaN for the
conditions that a quiet NaN decides, on any NaN for the four orders. SEL takes A's element where
the mask bit is true and B's elsewhere; the mask ops combine masks bit by bit under the predicate; PCNT counts the true
bits of the shape. -/
def Obligations.ComparesSelectsAndMasks : Prop :=
  (∀ (s u v : State) (o : SlotOp) (a b : Val), s.verdict = .go → s.cur.stream = .x → s.strm = s.srcStrm →
     fetch s 4 o.ty o.a = .ok (a, u) → fetch u 4 o.ty o.b = .ok (b, v) →
     let int := fun e => intCompare o.opx.val
       (intOf (tySigned o.ty) (BitVec.ofNat (tyBits o.ty) (a.elem o.ty e)))
       (intOf (tySigned o.ty) (BitVec.ofNat (tyBits o.ty) (b.elem o.ty e)))
     let flt := fun e => fcmpB (fmtOf o.ty) o.opx.val (a.elem o.ty e) (b.elem o.ty e)
     let pred := bitAt (predOf s o)
     ((Instr.icmp o).okIn .x = true →
       (isScalar (.icmp o) o = true → WritesScalar s (.icmp o) o.dst (if int 0 then 1 else 0) 0) ∧
       (isScalar (.icmp o) o = false → tooBig s o.ty = false → WritesMask s (.icmp o) o.dst pred int 0)) ∧
     ((Instr.fcmp o).okIn .x = true →
       (isScalar (.fcmp o) o = true → WritesScalar s (.fcmp o) o.dst (if (flt 0).1 then 1 else 0) (flt 0).2) ∧
       (isScalar (.fcmp o) o = false → tooBig s o.ty = false →
         WritesMask s (.fcmp o) o.dst pred (fun e => (flt e).1) (flagsOf (elemsOf s) pred fun e => (flt e).2)))) ∧
  (∀ (s u v : State) (o : SlotOp) (a b : Val) (pa pb pk : Fin 8), s.verdict = .go → s.cur.stream = .x →
     s.strm = s.srcStrm →
     let pred := bitAt (predOf s o)
     let bit := fun (k : Fin 8) (e : Nat) => bitAt (s.srcCore.preg k.val) e
     (o.c = .mask pk → (Instr.sel o).okIn .x = true → tooBig s o.ty = false → fetch s 4 o.ty o.a = .ok (a, u) →
       fetch u 4 o.ty o.b = .ok (b, v) → WritesTile s (.sel o) o.dst o.ty pred
         (fun e => if bit pk e then a.elem o.ty e else b.elem o.ty e) 0) ∧
     (o.a = .mask pa →
       ((Instr.pnot o).okIn .x = true → WritesMask s (.pnot o) o.dst pred (fun e => !bit pa e) 0) ∧
       ((Instr.pcnt o).okIn .x = true → WritesScalar s (.pcnt o) o.dst ((List.range (elemsOf s)).countP (bit pa)) 0) ∧
       (o.b = .mask pb →
         ((Instr.pand o).okIn .x = true → WritesMask s (.pand o) o.dst pred (fun e => bit pa e && bit pb e) 0) ∧
         ((Instr.por o).okIn .x = true → WritesMask s (.por o) o.dst pred (fun e => bit pa e || bit pb e) 0) ∧
         ((Instr.pxor o).okIn .x = true → WritesMask s (.pxor o) o.dst pred (fun e => bit pa e != bit pb e) 0)))) ∧
  (∀ (f : FFmt) (a b : Nat), (f = .f32 ∨ f = .bf16 ∨ f = .f16) →
     let x := unpack f a
     let y := unpack f b
     let un := x.isNan = true ∨ y.isNan = true
     let is := fun (cond : Nat) (p : Prop) => (fcmpB f cond a b).1 = true ↔ p
     is 0 (x.equal y) ∧ is 1 (¬x.equal y) ∧ is 2 (x.less False y) ∧ is 3 (x.less False y ∨ x.equal y) ∧
     is 4 (y.less False x) ∧ is 5 (y.less False x ∨ x.equal y) ∧ is 6 un ∧
     (∀ cond, cond = 0 ∨ cond = 1 ∨ cond = 6 → (fcmpB f cond a b).2 = nvOf [x, y]) ∧
     (∀ cond, 2 ≤ cond → cond ≤ 5 → (un → (fcmpB f cond a b).2 = fNV) ∧ (¬un → (fcmpB f cond a b).2 = 0)))

/-- 03 R98 to R101, 04 R116 to R118, R120: a reduction gives every element of a sequence the result of that sequence,
whatever the predicate of the element, and a scalar destination the result of the whole tile: wrapped to 64 bits for the
sums and the index, extended from the type for the extremes. RSCN writes at each place the reduction of the sequence up to
there. On integers RSUM is the exact sum of the elements that take part, RMAX and RMIN their largest and smallest, and ARGM
the first place of the largest. A float sum adds in pairwise order, each sum rounded once, absent elements left out (log
78); float extremes and ARGM follow FMAX and FMIN. -/
def Obligations.ReductionsAndScansFillTheirSequences : Prop :=
  ((∀ (s u : State) (i : Instr) (o : SlotOp) (a : Val) (f : Nat → List (Bool × Nat) → Nat × Flags), s.verdict = .go →
      s.cur.stream = .x → s.strm = s.srcStrm → i.okIn .x = true → (∀ w, redRule (rmodeOf s) w i = some (o, f w)) →
      tooBig s o.ty = false → fetch s 4 o.ty o.a = .ok (a, u) →
      let dir := o.opx.val
      let xs := fun q => (seqMembers (rowsOf s) (colsOf s) dir q).map fun e => (bitAt (predOf s o) e, a.elem o.ty e)
      let w := tyBits o.ty
      (o.dst.scal = false → WritesTile s i o.dst o.ty (fun _ => true) (fun e => (f w (xs (seqNumber (colsOf s) dir e))).1)
        (orFlags ((List.range (seqCount (rowsOf s) (colsOf s) dir)).map fun q => (f w (xs q)).2))) ∧
      (o.dst.scal = true → WritesScalar s i o.dst
        (if i = .rmax o ∨ i = .rmin o ∨ i = .rmxa o then extended o.ty (f 64 (xs 0)).1 else (f 64 (xs 0)).1) (f 64 (xs 0)).2)) ∧
   (∀ (s u : State) (o : SlotOp) (a : Val), s.verdict = .go → s.cur.stream = .x → (Instr.rscn o).okIn .x = true →
      tooBig s o.ty = false → fetch s 4 o.ty o.a = .ok (a, u) →
      let dir := o.opx.val
      let r := fun e => sumOf o.ty (rmodeOf s) (tyBits o.ty) false
        (((seqMembers (rowsOf s) (colsOf s) dir (seqNumber (colsOf s) dir e)).take (seqPlace (colsOf s) dir e + 1)).map
          fun k => (bitAt (predOf s o) k, a.elem o.ty k))
      WritesTile s (.rscn o) o.dst o.ty (fun _ => true) (fun e => (r e).1)
        (orFlags ((List.range (elemsOf s)).map fun e => (r e).2)))) ∧
  (∀ (t : Ty) (mode w : Nat) (xs : List (Bool × Nat)), (t ∈ tysInt) → (∀ e ∈ xs, e.2 < 2 ^ tyBits t) →
     let vals := (xs.filter Prod.fst).map fun e => valI t e.2
     sumOf t mode w false xs = (wrapN w vals.sum, 0) ∧
     sumOf t mode w true xs = (wrapN w (vals.map fun v => v * v).sum, 0) ∧
     (vals ≠ [] → valI t (extreme t 0 xs).1 ∈ vals ∧ (∀ v ∈ vals, v ≤ valI t (extreme t 0 xs).1) ∧
       valI t (extreme t 1 xs).1 ∈ vals ∧ (∀ v ∈ vals, valI t (extreme t 1 xs).1 ≤ v)) ∧
     (vals = [] → valI t (extreme t 0 xs).1 = loI t ∧ valI t (extreme t 1 xs).1 = hiI t ∧ (argMax t xs).1 = -1) ∧
     (vals ≠ [] → ∃ k, (argMax t xs).1 = (k : Nat) ∧ ∃ x, xs[k]? = some (true, x) ∧ (∀ v ∈ vals, v ≤ valI t x) ∧
       ∀ j y, j < k → xs[j]? = some (true, y) → valI t y < valI t x)) ∧
  (∀ (mode fuel : Nat) (xs : List (Option Nat)), xs.length ≤ fuel →
     let tree := sumParts mode fuel
     (∀ x, xs = [x] → tree xs = (x, 0)) ∧
     (2 ≤ xs.length → ∃ k, 2 ^ k < xs.length ∧ xs.length ≤ 2 * 2 ^ k ∧
       let a := tree (xs.take (2 ^ k))
       let b := tree (xs.drop (2 ^ k))
       let fl := (tree xs).2 = a.2 ||| b.2
       (∀ x y, a.1 = some x → b.1 = some y →
         tree xs = (some (faddB .f32 mode x y).1, a.2 ||| b.2 ||| (faddB .f32 mode x y).2)) ∧
       (a.1 = none → (tree xs).1 = b.1 ∧ fl) ∧ (b.1 = none → (tree xs).1 = a.1 ∧ fl))) ∧
  (∀ (t : Ty) (mode w : Nat) (sq : Bool) (xs : List (Bool × Nat)), t ∈ tysF → xs ≠ [] →
     let wide := fun (x : Nat) => cvtB (fmtOf t) .f32 0 x
     let square := fun (x : Nat) => if sq then fmulB .f32 mode (wide x).1 (wide x).1 else ((wide x).1, (0 : Flags))
     let tree := sumParts mode xs.length (xs.map fun e => if e.1 then some (square e.2).1 else none)
     let sum := tree.1.getD 0x80000000
     let fl := orFlags ((xs.filter Prod.fst).map fun e => (wide e.2).2 ||| (square e.2).2) ||| tree.2
     sumOf t mode w sq xs = if t = .f32 then (sum, fl)
       else ((cvtB .f32 (fmtOf t) mode sum).1, fl ||| (cvtB .f32 (fmtOf t) mode sum).2)) ∧
  (∀ (t : Ty) (xs : List (Bool × Nat)), t ∈ tysF → (∀ e ∈ xs, e.2 < 2 ^ tyBits t) →
     let f := fmtOf t
     let v := unpack f
     let part := (xs.filter Prod.fst).map Prod.snd
     let nums := part.filter fun x => !(v x).isNan
     let mags := nums.map fun x => x % 2 ^ (tyBits t - 1)
     let nv : Flags := if ∃ x ∈ part, (v x).isSnan = true then fNV else 0
     let lost := fun (kind : Nat) => (extreme t kind xs).1 = if part = [] then
       (if kind = 0 then f.inf true else if kind = 1 then f.inf false else 0) else f.qnan
     (∀ kind, (extreme t kind xs).2 = nv) ∧ (argMax t xs).2 = nv ∧
     (nums = [] → lost 0 ∧ lost 1 ∧ lost 2 ∧ (argMax t xs).1 = -1) ∧
     (nums ≠ [] → (extreme t 0 xs).1 ∈ nums ∧ (∀ x ∈ nums, ¬(v (extreme t 0 xs).1).less True (v x)) ∧
       (extreme t 1 xs).1 ∈ nums ∧ (∀ x ∈ nums, ¬(v x).less True (v (extreme t 1 xs).1)) ∧
       (extreme t 2 xs).1 ∈ mags ∧ (∀ x ∈ mags, ¬(v (extreme t 2 xs).1).less True (v x)) ∧
       ∃ k, (argMax t xs).1 = (k : Nat) ∧ ∃ x, xs[k]? = some (true, x) ∧ (v x).isNan = false ∧
         (∀ y ∈ nums, ¬(v x).less True (v y)) ∧
         ∀ j y, j < k → xs[j]? = some (true, y) → (v y).isNan = false → (v y).less True (v x)))

/-- 03 R84 to R93, 04 R119, 05 R147 to R149: RMXA .blk forms one scale byte for each block of 32 elements and puts them,
with the format, into the bypass; a tile destination receives them in its first bytes. Each bundle of X that retires outside
the handler shifts the bypass by one stage; in the handler it stands. QBLK with an entry of its format and block count in
stage 3 quantises each block of 32 elements with its scale byte and writes the blocks; with any other stage 3 it raises
ILLEGAL. The scale exponent is the least at which the block's largest magnitude fits (R119), a code the nearest of its
format's values, on a tie the even one, saturated beyond them. -/
def Obligations.BlockScalesTravelTheBypass : Prop :=
  (∀ (s u : State) (o : SlotOp) (a : Val) (fmt : W32), s.verdict = .go → s.cur.stream = .x →
     (Instr.rmxaBlk o).okIn .x = true → o.b = .lit fmt → tooBig s o.ty = false → (colsOf s = 32 ∨ colsOf s = 64) →
     fetch s 4 o.ty o.a = .ok (a, u) →
     let sb := fun b => blockScale o.ty fmt.toNat ((List.range 32).map fun j => a.elem o.ty (32 * b + j))
     ∃ t, Goes (.rmxaBlk o) s t ∧ OnlyCore s t ∧
       (t.bnd.scales.map fun x => (x.format, x.sbs.map BitVec.toNat)) =
         some (fmt.toNat, (List.range (elemsOf s / 32)).map sb) ∧
       (o.dst = .none → t.m = s.m) ∧
       (∀ d, o.dst = .v d →
         TileHolds 8 (elemsOf s / 32) (fun _ => true) sb (s.core.vreg d.val) (t.core.vreg d.val) ∧
         (∀ k, k ≠ d.val → t.core.vreg k = s.core.vreg k) ∧ t.core = { s.core with v := t.core.v })) ∧
  (∀ (s u : State) (o : SlotOp) (a : Val), s.verdict = .go → s.cur.stream = .x → (Instr.qblk o).okIn .x = true →
     tooBig s o.ty = false → blockShape s (blockBytes o.opx.val) = true →
     let nb := elemsOf s / 32
     (∀ e, s.srcCore.stage3 = some e → e.format = o.opx.val → e.sbs.length = nb → fetch s 5 o.ty o.a = .ok (a, u) →
       let block := fun b => quantBlock o.ty o.opx.val (e.sbs.getD b 0).toNat
         ((List.range 32).map fun j => a.elem o.ty (32 * b + j))
       let bytes := (List.range nb).flatMap fun b => (block b).1
       WritesElems s (.qblk o) o.dst .n8 bytes.length (fun _ => true) (fun e => bytes.getD e 0)
         (orFlags ((List.range nb).map fun b => (block b).2))) ∧
     ((∀ e, s.srcCore.stage3 = some e → e.format ≠ o.opx.val ∨ e.sbs.length ≠ nb) → ∃ t x, exec (.qblk o) s = .next t ∧
       t.verdict = .trapped x ∧ x.code = 1 ∧ x.place = 5)) ∧
  (∀ (s : State) (b : Bundle), s.cur.stream = .x →
     let c := (retire b s).core
     (s.srcStrm.handler = none → c.stage3 = s.core.stage2 ∧ c.stage2 = s.core.stage1 ∧ c.stage1 = s.bnd.scales) ∧
     (s.srcStrm.handler ≠ none → c.stage3 = s.core.stage3 ∧ c.stage2 = s.core.stage2 ∧ c.stage1 = s.core.stage1)) ∧
  (∀ (t : Ty) (fmt : Nat) (xs : List Nat), t ∈ tysF → fmt < 6 →
     let v := fun (x : Nat) => unpack (fmtOf t) x
     let vmax : ℚ := ([15 / 2, 6, 8, 12, 127, 255 / 32] : List ℚ).getD fmt 0
     let fits := fun (e : Nat) => ∀ x ∈ xs, |(v x).q| ≤ vmax * (2 : ℚ) ^ ((e : Int) - 32)
     let emax := if fmt = 3 then 62 else 63
     ((∃ x ∈ xs, ¬(v x).num) → blockScale t fmt xs = 0xFF) ∧
     ((∀ x ∈ xs, (v x).num) → ∃ e, e ≤ emax ∧ blockScale t fmt xs = (if fmt < 4 then fmt else 0) * 64 + e ∧
       (fits e ∨ e = emax) ∧ ∀ k, k < e → ¬fits k)) ∧
  (∀ (t : Ty) (fmt sb : Nat) (xs : List Nat), t ∈ tysF → fmt < 6 → sb < 256 → xs.length = 32 →
     let v := fun (x : Nat) => unpack (fmtOf t) x
     let n := if fmt < 4 then 16 else 32
     let r := quantBlock t fmt sb xs
     let lo : ℚ := ([-15 / 2, -6, -8, -12, -128, -255 / 32] : List ℚ).getD fmt 0
     let hi : ℚ := ([15 / 2, 6, 8, 12, 127, 255 / 32] : List ℚ).getD fmt 0
     let q := fun (i : Nat) => (v (xs.getD i 0)).q / (2 : ℚ) ^ ((sb % 64 : Nat) - 32 : Int)
     let code := fun (i : Nat) => if fmt < 4 then r.1.getD (i / 2) 0 / 16 ^ (i % 2) % 16 else r.1.getD i 0
     let val := fun (c : Nat) => dyQ (codeVal fmt c)
     (sb = 0xFF ∨ (∃ x ∈ xs, ¬(v x).num) → r = (List.replicate n 0 ++ [0xFF],
       if ∃ x ∈ xs, (v x).isSnan = true ∨ (v x).isInf = true then fNV else 0)) ∧
     (sb ≠ 0xFF → (∀ x ∈ xs, (v x).num) → r.1.length = n + 1 ∧ r.1.getD n 0 = sb ∧
       (r.2 = 0 ∨ r.2 = fSAT) ∧ (r.2 = fSAT ↔ ∃ i, i < 32 ∧ (q i < lo ∨ hi < q i)) ∧
       ∀ i, i < 32 → code i < 2 ^ (if fmt < 4 then 4 else 8) ∧ (q i < lo → val (code i) = lo) ∧
         (hi < q i → val (code i) = hi) ∧ (val (code i) = 0 → code i = 0) ∧
         (lo ≤ q i → q i ≤ hi → ∀ c, c < 2 ^ (if fmt < 4 then 4 else 8) →
           |val (code i) - q i| ≤ |val c - q i| ∧
           (|val (code i) - q i| = |val c - q i| → val c ≠ val (code i) → code i % 2 = 0))))

/-- 04 R121: TOPK writes the k first of each row, ordered from the largest and by column among equals, with their columns
into the next register; columns from k on keep their values. Of a row, the elements that take part and are no NaN qualify;
each of the first k places holds a qualified element, the ones ahead of it in the order before it and no qualified one that
is left out ahead of it, and the places that remain hold −∞ (lo for integers) and −1. A signalling NaN that takes part sets
NV. -/
def Obligations.TopkWritesValuesAndColumns : Prop :=
  (∀ (t : Ty) (k : Nat) (xs : List (Bool × Nat)), (t ∈ tysInt ∨ tyFloat t = true) → (∀ e ∈ xs, e.2 < 2 ^ tyBits t) →
     let value := fun (i : Nat) => (xs.getD i (false, 0)).2
     let qualifies := fun (i : Nat) => (xs.getD i (false, 0)).1 = true ∧
       ¬(tyFloat t = true ∧ (unpack (fmtOf t) (value i)).isNan = true)
     let ahead := fun (i j : Nat) => elemLess t (value j) (value i) ∨ (¬elemLess t (value i) (value j) ∧ i < j)
     let lowest : Nat := if tyFloat t then (fmtOf t).inf true
       else (BitVec.ofInt (tyBits t) (if tySigned t then -2 ^ (tyBits t - 1) else 0)).toNat
     ∃ ix : List Nat, ix.length ≤ k ∧ (∀ i ∈ ix, qualifies i) ∧ ix.Pairwise ahead ∧
       (∀ i, qualifies i → i ∈ ix ∨ (ix.length = k ∧ ∀ j ∈ ix, ahead j i)) ∧
       topRow t k xs = (ix.map fun i => (value i, i)) ++ List.replicate (k - ix.length) (lowest, 2 ^ tyBits t - 1)) ∧
  ∀ (s u : State) (o : SlotOp) (a : Val) (k : Nat) (d : Fin 32), s.verdict = .go → s.cur.stream = .x →
    (Instr.topk o).okIn .x = true → o.dst = .v d → tooBig s o.ty = false → fetch s 4 o.ty o.a = .ok (a, u) →
    fetch64 u 4 o.b = .ok k →
    let c := colsOf s
    let n := min c (max 1 (k % 2 ^ 32))
    let row := fun e => (List.range c).map fun j =>
      (bitAt (predOf s o) (e / c * c + j), a.elem o.ty (e / c * c + j))
    let best := fun e => (topRow o.ty n (row e)).getD (e % c) (0, 0)
    let w := tyBits o.ty
    let fl := flagsOf (elemsOf s) (bitAt (predOf s o)) fun e =>
      if tyFloat o.ty && (unpack (fmtOf o.ty) (a.elem o.ty e)).isSnan then fNV else 0
    ∃ t, Goes (.topk o) s t ∧ OnlyCore s t ∧
      TileHolds w (elemsOf s) (fun e => decide (e % c < n)) (fun e => (best e).1) (s.core.vreg d.val)
        (t.core.vreg d.val) ∧
      TileHolds w (elemsOf s) (fun e => decide (e % c < n)) (fun e => (best e).2) (s.core.vreg (d.val + 1))
        (t.core.vreg (d.val + 1)) ∧
      (∀ r, r ≠ d.val → r ≠ d.val + 1 → t.core.vreg r = s.core.vreg r) ∧
      t.core = { s.core with v := t.core.v, x := { s.strm with fflg := s.strm.fflg ||| fl } }

/-- 04 R122 to R126: TRNS transposes; BCST repeats a row or a column, its number taken modulo their count; SHUF permutes by an
index tile; VEXT reads one element; VINS copies and replaces one; IOTA fills with start + index × step. That the first five
move the bits of a NaN and set no flag is the model's choice (log 79). -/
def Obligations.RearrangingOps : Prop :=
  ∀ (s u v : State) (o : SlotOp) (a b : Val), s.verdict = .go → s.cur.stream = .x → s.strm = s.srcStrm →
    tooBig s o.ty = false → fetch s 4 o.ty o.a = .ok (a, u) →
    let rows := rowsOf s
    let cols := colsOf s
    let all := elemsOf s
    let x := fun e => a.elem o.ty e
    let pred := bitAt (predOf s o)
    ((Instr.trns o).okIn .x = true → ∀ d, o.dst = .v d → ∃ t, Goes (.trns o) s t ∧ OnlyCore s t ∧
      (∀ i j, i < rows → j < cols →
        fld (t.core.vreg d.val) (tyBits o.ty * (j * rows + i)) (tyBits o.ty) = x (i * cols + j)) ∧
      (∀ k, k ≠ d.val → t.core.vreg k = s.core.vreg k)) ∧
    ((Instr.trns o).okIn .x = true → o.dst = .none → ∃ t, Goes (.trns o) s t ∧ OnlyStream s t) ∧
    ((Instr.bcst o).okIn .x = true → ∀ n, fetch64 u 4 o.b = .ok n → WritesTile s (.bcst o) o.dst o.ty pred
      (fun e => x (if o.opx.val = 0 then n % rows * cols + e % cols else e / cols * cols + n % cols)) 0) ∧
    ((Instr.shuf o).okIn .x = true → fetch u 4 o.ty o.b = .ok (b, v) → WritesTile s (.shuf o) o.dst o.ty pred
      (fun e => x (if o.opx.val = 0 then e / cols * cols + b.elem o.ty e % cols else b.elem o.ty e % all)) 0) ∧
    ((Instr.vext o).okIn .x = true → ∀ n, fetch64 u 4 o.b = .ok n →
      WritesScalar s (.vext o) o.dst (extended o.ty (x (n % all))) 0) ∧
    ((Instr.vins o).okIn .x = true → fetch u 4 o.ty o.b = .ok (b, v) → ∀ n, fetch64 v 4 o.c = .ok n →
      WritesTile s (.vins o) o.dst o.ty pred (fun e => if e = n % all then b.elem o.ty 0 else x e) 0) ∧
    ((Instr.iota o).okIn .x = true → fetch u 4 o.ty o.b = .ok (b, v) →
      let idx := fun e => if o.opx.val = 0 then e else if o.opx.val = 1 then e / cols else e % cols
      (tyFloat o.ty = false → WritesTile s (.iota o) o.dst o.ty pred (fun e =>
        (BitVec.ofNat (tyBits o.ty) (x 0) + BitVec.ofNat (tyBits o.ty) (idx e) *
          BitVec.ofNat (tyBits o.ty) (b.elem o.ty 0)).toNat) 0) ∧
      (tyFloat o.ty = true →
        let r := fun e => iotaElem o.ty (rmodeOf s) (x 0) (b.elem o.ty 0) (idx e)
        WritesTile s (.iota o) o.dst o.ty pred (fun e => (r e).1) (flagsOf all pred fun e => (r e).2)))

/-! ### Blocks, slices, random numbers, softmax and jet moves (05 R150 to R156, R162, R163) -/

/-- 03 R84 to R92, 05 R150 to R153: DQBK and DCF4 decode every element of the shape to a float; NWSL extracts a slice of each
NW8 block; NWPK writes the eight bit planes of all blocks, then their scale bytes. A code has the value that R87, R89 or R90
gives it at its block's scale, a NaN block and a bad scale give NaNs, and the slices of an NW8 code are exact, but for a
residual at a scale below 2^−27, which takes the nearest A8 code. -/
def Obligations.BlockDecodersAndSlices : Prop :=
  (∀ (s u : State) (o : SlotOp) (bits : Nat), s.verdict = .go → s.cur.stream = .x →
    fetch s 5 .n8 o.a = .ok (.tile bits, u) →
    let nb := elemsOf s / 32
    let pred := bitAt (predOf s o)
    ((Instr.dqbk o).okIn .x = true → tooBig s o.ty = false → blockShape s (if o.opx.val = 0 then 17 else 33) = true →
      let r := fun e => decodeNarrow (fmtOf o.ty) (rmodeOf s) (blockKind o.opx.val (blockSb o.opx.val bits (e / 32)))
        (blockCode o.opx.val bits (e / 32) (e % 32))
      WritesTile s (.dqbk o) o.dst o.ty pred (fun e => (r e).1) (flagsOf (elemsOf s) pred fun e => (r e).2)) ∧
    ((Instr.dcf4 o).okIn .x = true → tooBig s o.ty = false → ∀ n, fetch32 u 5 o.b = .ok n →
      let r := fun e =>
        let v := codeVal o.opx.val (fld bits (8 * e) 8 % 16)
        rndDyZ (fmtOf o.ty) (rmodeOf s) false ⟨v.m, v.e + max (-1000) (min 1000 (BitVec.ofNat 32 n).toInt)⟩
      WritesTile s (.dcf4 o) o.dst o.ty pred (fun e => (r e).1) (flagsOf (elemsOf s) pred fun e => (r e).2)) ∧
    ((Instr.nwsl o).okIn .x = true → blockShape s 33 = true →
      let r := fun b => sliceBlock o.opx.val (blockSb 2 bits b) ((List.range 32).map fun i => blockCode 2 bits b i)
      let bytes := (List.range nb).flatMap fun b => (r b).1
      WritesElems s (.nwsl o) o.dst .n8 bytes.length (fun _ => true) (fun e => bytes.getD e 0)
        (orFlags ((List.range nb).map fun b => (r b).2))) ∧
    ((Instr.nwpk o).okIn .x = true → blockShape s 33 = true →
      WritesElems s (.nwpk o) o.dst .n8 (33 * nb) (fun _ => true) (fun e =>
        if e < 32 * nb then
          let b := e % (4 * nb) / 4
          ((List.range 8).map fun k =>
            if bitAt (blockCode 2 bits b (8 * (e % 4) + k)) (7 - e / (4 * nb)) then 2 ^ k else 0).sum
        else blockSb 2 bits (e - 32 * nb)) 0)) ∧
  (∀ c, c < 16 →
     let at_ := fun (l : List ℚ) => (if c < 8 then 1 else -1) * l.getD (c % 8) 0
     dyQ (codeVal 0 c) = c - 15 / 2 ∧ dyQ (codeVal 1 c) = at_ [0, 1 / 2, 1, 3 / 2, 2, 3, 4, 6] ∧
     dyQ (codeVal 2 c) = at_ [0, 1 / 8, 1 / 4, 1 / 2, 1, 2, 4, 8] ∧ dyQ (codeVal 3 c) = at_ [0, 1, 2, 3, 4, 6, 8, 12]) ∧
  (∀ c, c < 256 → dyQ (codeVal 4 c) = (if c < 128 then (c : ℚ) else c - 256) ∧ dyQ (codeVal 5 c) = ((c : ℚ) - 255 / 2) / 16) ∧
  (∀ (f : FFmt) (mode cls sb c : Nat), (f = .f32 ∨ f = .bf16 ∨ f = .f16) → mode < 4 → cls < 3 → sb < 256 → c < 256 →
     let r := decodeNarrow f mode (blockKind cls sb) c
     let fmt := if cls = 0 then sb / 64 else 3 + cls
     (sb = 0xFF → r = (f.qnan, 0)) ∧ (sb ≠ 0xFF → cls ≠ 0 → 64 ≤ sb → r = (f.qnan, fBAD)) ∧
     (sb ≠ 0xFF → cls = 0 ∨ sb < 64 →
       RoundsTo f mode false (dyQ (codeVal fmt c) * (2 : ℚ) ^ ((sb % 64 : Nat) - 32 : Int)) r ∧
       (f = .f32 ∨ f = .bf16 → r.2 = 0))) ∧
  (∀ (sl sb : Nat) (codes : List Nat), sl < 4 → sb < 256 → codes.length = 32 → (∀ c ∈ codes, c < 256) →
     let m : Nat := if sl % 2 = 0 then 2 else 4
     let n := if sl < 2 then 16 else 32
     let r := sliceBlock sl sb codes
     let code := fun (i : Nat) => if sl < 2 then r.1.getD (i / 2) 0 / 16 ^ (i % 2) % 16 else r.1.getD i 0
     let fmt := if sl = 0 then 3 else if sl = 1 then 0 else 4
     let step : Nat → Nat := fun i => 2 ^ (8 - m) * (codes.getD i 0 / 2 ^ (8 - m))
     let half : ℚ := ((2 : ℚ) ^ (8 - m) - 1) / 2
     let rest := fun (i : Nat) => ((codes.getD i 0 % 2 ^ (8 - m) : Nat) : ℚ) - half
     let value := fun (i : Nat) => (if sl < 2 then (step i : ℚ) + half - 255 / 2 else rest i) / 16 * (2 : ℚ) ^ ((sb : Int) - 32)
     (sb = 0xFF → r = (List.replicate n 0 ++ [0xFF], 0)) ∧
     (sb ≠ 0xFF → 64 ≤ sb → r = (List.replicate n 0 ++ [0xFF], fBAD)) ∧
     (sb < 64 → r.2 = 0 ∧ r.1.length = n + 1 ∧
       r.1.getD n 0 = (if sl = 0 then 0xC0 + min sb 62 else if sl = 1 then sb else sb - 5) ∧
       ∀ i, i < 32 → code i < 256 ∧
         (sl < 2 ∨ 5 ≤ sb →
           dyQ (codeVal fmt (code i)) * (2 : ℚ) ^ (((r.1.getD n 0 % 64 : Nat) : Int) - 32) = value i) ∧
         (2 ≤ sl → sb < 5 → ∀ c, c < 256 →
           let away := fun (c : Nat) => |dyQ (codeVal 4 c) * (2 : ℚ) ^ (-32 : Int) - value i|
           away (code i) ≤ away c ∧ (away (code i) = away c → c ≠ code i → code i % 2 = 0))))

/-- 05 R155, R156, R162, R163: FSMX writes the softmax of each row over the elements that take part; RAND fills a tile from
the key, the counter and the job, whatever stood there. JSED keeps coefficient 0 of the group, copies A into coefficient 1
and clears the higher ones; JEXT copies coefficient j to a plain register, and multiplies it by j! in its fj forms. That plain
JEXT moves the bits of a NaN and sets no flag is the model's choice (log 79). RAND's words are those of R156's generator. A
result of FSMX lies within R155's bound of the softmax that the model forms to hundreds of bits (log 12), and R155's special
rows come out as it says. -/
def Obligations.SoftmaxRandomAndJetMoves : Prop :=
  (∀ (s u : State) (o : SlotOp) (a : Val), s.verdict = .go → s.cur.stream = .x → tooBig s o.ty = false →
     let pred := bitAt (predOf s o)
     let k := s.srcStrm.jord.toNat
     ((Instr.fsmx o).okIn .x = true → k ≠ 0 → ∀ d as, o.dst = .v d → d.val % jetAlign k = 0 →
       jetSrc s 5 o.ty k o.a = .ok (as, u) →
       let r := smxTile (fmtOf o.ty) (rmodeOf s) k (rowsOf s) (colsOf s) (predOf s o) fun e => as.map fun v => v.elem o.ty e
       ∃ t, Goes (.fsmx o) s t ∧ OnlyCore s t ∧
         (∀ j, j ≤ k → TileHolds (tyBits o.ty) (elemsOf s) pred (fun e => ((r.getD e []).getD j (0, 0)).1)
           (s.core.vreg (d.val + j)) (t.core.vreg (d.val + j))) ∧
         (∀ n, n < d.val ∨ d.val + k < n → t.core.vreg n = s.core.vreg n)) ∧
     ((Instr.fsmx o).okIn .x = true → s.srcStrm.jord = 0 → fetch s 5 o.ty o.a = .ok (a, u) →
       let r := fun e => ((smxTile (fmtOf o.ty) (rmodeOf s) 0 (rowsOf s) (colsOf s) (predOf s o)
         fun k => [a.elem o.ty k]).getD e []).getD 0 (0, 0)
       WritesTile s (.fsmx o) o.dst o.ty pred (fun e => (r e).1) (flagsOf (elemsOf s) pred fun e => (r e).2)) ∧
     ((Instr.rand o).okIn .x = true → ∀ ctr key, fetch64 s 5 o.a = .ok ctr → fetch64 s 5 o.b = .ok key →
       WritesTile s (.rand o) o.dst o.ty pred (randElem o.ty s.srcCore.jobid key ctr) 0)) ∧
  (∀ (s u : State) (o : SlotOp) (as : List Val), s.verdict = .go → s.cur.stream = .x → tooBig s o.ty = false →
     let k := s.srcStrm.jord.toNat
     let pred := bitAt (predOf s o)
     let x := fun j e => (as.getD j (.scal 0)).elem o.ty e
     let src := (k ≠ 0 → jetSrc s 5 o.ty k o.a = .ok (as, u)) ∧
       (k = 0 → ∃ a, as = [a] ∧ fetch s 5 o.ty o.a = .ok (a, u))
     src → (k = 0 → ∃ t y, exec (.jsed o) s = .next t ∧ t.verdict = .trapped y ∧ y.code = 1) ∧
     (k ≠ 0 → (Instr.jsed o).okIn .x = true → ∀ d, o.dst = .v d → d.val % jetAlign k = 0 → ∃ t, Goes (.jsed o) s t ∧ OnlyCore s t ∧
       t.core.vreg d.val = s.core.vreg d.val ∧
       (∀ j, 1 ≤ j → j ≤ k → TileHolds (tyBits o.ty) (elemsOf s) pred
         (fun e => if j = 1 then (fmovB (fmtOf o.ty) (x 0 e)).1 else 0)
         (s.core.vreg (d.val + j)) (t.core.vreg (d.val + j))) ∧
       (∀ n, n < d.val ∨ d.val + k < n → t.core.vreg n = s.core.vreg n)) ∧
     ((Instr.jext o).okIn .x = true → o.opx.val % 4 ≤ k →
       let j := o.opx.val % 4
       let r := fun e => if o.opx.val / 4 = 0 then (x j e, (0 : Flags))
         else mulV (fmtOf o.ty) (rmodeOf s) (unpack (fmtOf o.ty) (x j e)) (.fin ⟨Nat.factorial j, 0⟩)
       WritesTile s (.jext o) o.dst o.ty pred (fun e => (r e).1) (flagsOf (elemsOf s) pred fun e => (r e).2))) ∧
  (∀ (t : Ty) (job key ctr e : Nat), job < 2 ^ 48 → key < 2 ^ 64 → (t ∈ tysInt ∨ t ∈ tysF) →
     let mix := fun (z : W64) =>
       let y := (z ^^^ (z >>> 30)) * 0xBF58476D1CE4E5B9#64
       let x := (y ^^^ (y >>> 27)) * 0x94D049BB133111EB#64
       x ^^^ (x >>> 31)
     let k := BitVec.ofNat 64 key ^^^ (BitVec.ofNat 64 job * 0x9E3779B97F4A7C15#64)
     let x := (mix (mix (BitVec.ofNat 64 (ctr + e) ^^^ k) + k.rotateLeft 32)).toNat
     let d := randElem t job key ctr e
     let bits := if t = .f32 then 24 else if t = .bf16 then 8 else 11
     (t ∈ tysF → d < 2 ^ (tyBits t - 1) ∧ (unpack (fmtOf t) d).num ∧
       (unpack (fmtOf t) d).q = ((x / 2 ^ (64 - bits) : Nat) : ℚ) / 2 ^ bits) ∧
     (t ∈ tysInt → d = x / 2 ^ (64 - tyBits t))) ∧
  (∀ (f : FFmt) (mode rows cols pred : Nat) (x : Nat → Nat) (i j : Nat), (f = .f32 ∨ f = .bf16) → mode < 4 → i < rows →
     j < cols → (∀ k, x k < 2 ^ f.width) →
     let e := i * cols + j
     let part := ((List.range cols).map fun c => i * cols + c).filter (bitAt pred)
     let v := fun k => unpack f (x k)
     let y := ((smxTile f mode 0 rows cols pred fun k => [x k]).getD e []).getD 0 (0, 0)
     let wide := fun k => (unpack .f32 (cvtB f .f32 mode (x k)).1).dy
     let tops := part.filter fun k => decide (v k = .inf false)
     bitAt pred e = true →
     ((∃ k ∈ part, (v k).isNan = true) → y = (f.qnan, nvOf (part.map v))) ∧
     ((∀ k ∈ part, (v k).isNan = false) →
       (tops ≠ [] → v e = .inf false → RoundsTo f mode false (1 / (tops.length : ℚ)) y) ∧
       (tops ≠ [] → v e ≠ .inf false → y = (f.zero false, 0)) ∧
       ((∀ k ∈ part, v k = .inf true) → y = (f.qnan, fNV)) ∧
       (tops = [] → ∀ t ∈ part, (v t).num → (∀ k ∈ part, ¬(v t).less False (v k)) →
         let term := fun k => if v k = .inf true then Dy.zero else expDy (Dy.sub (wide k) (wide t))
         let exact := Dy.quot (term e) ⟨(part.map fun k => (term k).fix 512).sum, -512⟩
         (v e = .inf true → y = (f.zero false, 0)) ∧
         ((v e).num → (unpack f y.1).num ∧ ∀ k : Int, (2 : ℚ) ^ k ≤ dyQ exact → dyQ exact < (2 : ℚ) ^ (k + 1) →
           |(unpack f y.1).q - dyQ exact| ≤ (if f = .f32 then (3 : ℚ) else 1) * (2 : ℚ) ^ (max k f.emin - f.fbits)))))

/-! ### Loads, stores and moves (08 R217 to R226, R243, 06 R172) -/

/-- 01 R22, 14 R332, R334, 08 R218: a local address in the unit scratchpad names the core's own bytes, one in the cluster or
die scratchpad inside the context's grant the bytes of its cluster or die behind the grant's base, and a range that
leaves its region or its grant is ADDRCLASS; stored bytes read back from where they were stored. A scratchpad that a freeze
holds answers no access (15 R365). -/
def Obligations.LocalAddressesFollowTheMap : Prop :=
  ∀ (m : Module) (ctx : Fin 64) (d : Fin 16) (c : Fin 128) (o : Nat) (bs : List Byte),
    let n := bs.length
    let whole := fun (a : Nat) (at_ : Nat → Loc) => ∃ ls, localLocs m ctx d (some c) a n = some ls ∧
      locBytes ls = (List.range n).map at_ ∧
      ((∃ l ∈ ls, l.1.frozen m = true) → loadLocal m none ctx d (some c) a n = .error .busy ∧
        storeLocal m none ctx d (some c) a bs = .error .busy) ∧
      ((∀ l ∈ ls, l.1.frozen m = false ∧ l.1.poisoned m = false) →
        loadLocal m none ctx d (some c) a n = .ok ((List.range n).map fun k => m.byteAt (at_ k), m)) ∧
      ((∀ l ∈ ls, l.1.frozen m = false) → ∃ t, storeLocal m none ctx d (some c) a bs = .ok t ∧ (List.range n).map (fun k => t.byteAt (at_ k)) = bs ∧
        (∀ l, (∀ k, k < n → l ≠ at_ k) → t.byteAt l = m.byteAt l))
    (o + n ≤ 0x100000 → whole o fun k => .unit (coreKey d c) (o + k)) ∧
    (1 ≤ n → o + n ≤ ctxCsize m ctx → o + n ≤ 0x1000000 → whole (0x100000000 + o) fun k =>
      .phys (0x080000000000 + d.val * 0x10000000 + 0x8000000 + c.val / 16 * 0x1000000 + ctxCbase m ctx + o + k)) ∧
    (1 ≤ n → o + n ≤ ctxDsize m ctx → o + n ≤ 0x8000000 → whole (0x200000000 + o) fun k =>
      .phys (0x080000000000 + d.val * 0x10000000 + ctxDbase m ctx + o + k)) ∧
    (ctxCsize m ctx < o + n → o + n ≤ 0x1000000 →
      loadLocal m none ctx d (some c) (0x100000000 + o) n = .error (.fault 4 0 (0x100000000 + o) none)) ∧
    (0x100000 < o + n → o < 0x100000000 → 1 ≤ n →
      storeLocal m none ctx d (some c) o bs = .error (.fault 4 0 o none))

/-- 08 R217, R219, R221 to R223, 05 R152, 06 R172, R173: LDS from a scratchpad reads the element at its effective address,
extended as its type says, and leaves every byte; LDS from the synchronisation region reads a snapshot of the object; a
misaligned address raises ALIGN. LDT, LDB and GATH push what they load as one entry of qlx, while it has room and no ring,
and leave every byte: the tile's bytes; codes and scale bytes joined block by block; the pieces that the index list names in
order. LDNW reads the planes of its slice and the scale bytes behind the np planes of the image, from the block that its
control word names, and pushes the blocks that NWSL makes of the rebuilt codes, or the NW8 blocks themselves; control words
outside their limits raise ILLEGAL. -/
def Obligations.LoadsReadTheirAddresses : Prop :=
  ((∀ (s u : State) (o : SlotOp) (bs : List Byte), s.verdict = .go → s.strm = s.srcStrm →
      (Instr.lds o).okIn s.cur.stream = true →
      let a := effAddr s o.a o.b
      let n := tyBytes o.ty
      (a % n ≠ 0 → ∃ t x, exec (.lds o) s = .next t ∧ t.verdict = .trapped x ∧ x.code = 3 ∧ x.addr = BitVec.ofNat 64 a) ∧
      (a % n = 0 → (∀ off, regionOf a n ≠ some (.sync, off)) → memLoad 4 a n s = .ok (bs, u) →
        ∃ t, Goes (.lds o) s t ∧ OtherScalarsKept o.dst s t ∧ dstReads t o.dst = dstKeeps o.dst (extended o.ty (ofBytes bs)) ∧
          SameMemory s.m t.m ∧ t.strm.fflg = s.strm.fflg) ∧
      (∀ off, a % n = 0 → regionOf a n = some (.sync, off) →
        WritesScalar s (.lds o) o.dst (extended o.ty (ofBytes ((List.range n).map fun k =>
          BitVec.ofNat 8 (syncByte s.src s.cur.die (off + k))))) 0)) ∧
   (∀ (s u v : State) (o : SlotOp) (bs cs : List Byte), s.verdict = .go → s.cur.stream = .l → o.dst = .qlx →
      s.core.qlx.entries.length < 8 → s.core.qlx.ring = none →
      let a := effAddr s o.a o.b
      let pushes := fun (i : Instr) (e : List Byte) => ∃ t, Goes i s t ∧ SameMemory s.m t.m ∧ t.strm = s.strm ∧
        t.core = { s.core with qlx := { s.core.qlx with
          entries := s.core.qlx.entries ++ [{ size := e.length, data := BitVec.ofNat 32768 (ofBytes e) }] } }
      let nb := elemsOf s / 32
      let per := if o.ty = .f4 then 16 else 32
      (∀ n, tileBytes s o.ty = some n → a % tileAlign o.ty = 0 → memLoad 4 a n s = .ok (bs, u) → pushes (.ldt o) bs) ∧
      (∀ n, tileBytes s o.ty = some n → memLoad 4 a (nb * per) s = .ok (bs, u) →
        memLoad 4 (addrOf s o.c) nb u = .ok (cs, v) →
        pushes (.ldb o) ((List.range nb).flatMap fun b => (bs.drop (b * per)).take per ++ (cs.drop b).take 1)) ∧
      (∀ addrs size, pieceAddrs o s = .ok (addrs, size, u) → loadPieces size addrs u = .ok (bs, v) → pushes (.gath o) bs))) ∧
  (∀ (s u v : State) (o : SlotOp) (ctl : Nat) (pl : List (List Byte)) (sbs : List Byte), s.verdict = .go →
     s.cur.stream = .l → (Instr.ldnw o).okIn .l = true → s.core.qlx.entries.length < 8 → s.core.qlx.ring = none →
     fetch32 s 4 o.c = .ok ctl →
     let k := o.opx.val
     let stride := 64 * fld ctl 0 12
     let fp := fld ctl 12 3
     let np := fld ctl 15 4
     let b0 := fld ctl 19 13
     let nb := elemsOf s / 32
     let first := match k with | 0 => 0 | 1 => 0 | 2 => 2 | 3 => 4 | _ => 0
     let count := match k with | 0 => 2 | 1 => 4 | 2 => 6 | 3 => 4 | _ => 8
     let a := effAddr s o.a o.b
     let legal := stride ≠ 0 ∧ np ≠ 0 ∧ fp + np ≤ 8 ∧ fp ≤ first ∧ first + count ≤ fp + np ∧
       blockShape s (if k < 2 then 17 else 33) = true
     (¬legal → ∃ t x, exec (.ldnw o) s = .next t ∧ t.verdict = .trapped x ∧ x.code = 1) ∧
     (legal → a % 64 = 0 →
       loadPlanes (4 * nb) ((List.range count).map fun i => a + (first + i - fp) * stride + 4 * b0) s = .ok (pl, u) →
       memLoad 4 (a + np * stride + b0) nb u = .ok (sbs, v) →
       ∃ t e, Goes (.ldnw o) s t ∧ SameMemory s.m t.m ∧
         t.core.qlx.entries = s.core.qlx.entries ++ [e] ∧ e.size = (if k < 2 then 17 else 33) * nb ∧
         let per := if k < 2 then 17 else 33
         let codes := fun b => (List.range 32).map fun i => ((List.range count).map fun p =>
           if bitAt (ofBytes (((pl.getD p []).drop (4 * b)).take 4)) i then 2 ^ (7 - (first + p)) else 0).sum
         let sb := fun b => (sbs.getD b 0).toNat
         let block := fun b => if k = 4 then (codes b ++ [sb b], (0 : Flags)) else sliceBlock k (sb b) (codes b)
         (∀ b j, b < nb → j < per → fld e.data.toNat (8 * (per * b + j)) 8 = (block b).1.getD j 0) ∧
         t.strm.fflg = s.strm.fflg ||| orFlags ((List.range nb).map fun b => (block b).2)))

/-- 08 R217, R218, R220, R221, R223, R224: STS, STT and TMOV to a scratchpad store at their effective or destination address
the scalar's element, the tile or the broadcast scalar, and the bytes of the source range, and change no other byte. SCAT
stores its pieces in ascending order of their index, so that of two pieces at one place the later stays; outside all pieces
no byte changes. -/
def Obligations.StoresWriteTheirAddressOnly : Prop :=
  (∀ (s u : State) (o : SlotOp) (v : Val), s.verdict = .go →
     ((Instr.sts o).okIn s.cur.stream = true → fetch s 4 o.ty o.c = .ok (v, u) →
       effAddr s o.a o.b % tyBytes o.ty = 0 →
       (∀ w off, regionOf (effAddr s o.a o.b) (tyBytes o.ty) ≠ some (.window w, off)) →
       StoresAt s u (.sts o) (effAddr s o.a o.b) (toBytes (tyBytes o.ty) (v.elem o.ty 0))) ∧
     ((Instr.stt o).okIn s.cur.stream = true → ∀ n bs, tileBytes s o.ty = some n → storeBytes s o.ty o.c n = .ok (bs, u) →
       effAddr s o.a o.b % tileAlign o.ty = 0 →
       (∀ w off, regionOf (effAddr s o.a o.b) n ≠ some (.window w, off)) →
       bs.length = n ∧ StoresAt s u (.stt o) (effAddr s o.a o.b) bs) ∧
     ((Instr.tmov o).okIn s.cur.stream = true → ∀ n bs, fetch32 s 4 o.c = .ok n → 64 ≤ n → n ≤ 65536 → n % 64 = 0 →
       addrOf s o.a % 64 = 0 → addrOf s o.b % 64 = 0 → memLoad 4 (addrOf s o.b) n s = .ok (bs, u) →
       (∀ w off, regionOf (addrOf s o.a) n ≠ some (.window w, off)) → StoresAt s u (.tmov o) (addrOf s o.a) bs)) ∧
  (∀ (s u v w : State) (o : SlotOp) (addrs : List Nat) (size : Nat) (bs : List Byte), s.verdict = .go →
     (Instr.scat o).okIn s.cur.stream = true → pieceAddrs o s = .ok (addrs, size, u) →
     storeBytes u o.ty o.c (addrs.length * size) = .ok (bs, v) →
     (∀ a ∈ addrs, ∀ k off, regionOf a size ≠ some (.window k, off)) →
     (List.range addrs.length).foldlM (fun x k => memStore 4 (addrs.getD k 0) ((bs.drop (k * size)).take size) x) v =
       .ok w →
     Goes (.scat o) s w ∧
     ∀ l, (∀ a ∈ addrs, ∀ ls, localLocs s.m s.core.ctx s.cur.die (some s.cur.core) a size = some ls → l ∉ locBytes ls) →
       w.m.byteAt l = s.m.byteAt l)

/-- 08 R225, R243, 09 R289, R290: FENC changes nothing, every access of this model being performed in its own turn (the
model's choice, log 36); WFEN on an open window closes the epoch: the next one has the next number and no byte yet. -/
def Obligations.FencesCloseTheirEpochs : Prop :=
  ∀ (s : State) (o : SlotOp) (v : Nat) (e : WinEnt), s.verdict = .go →
    Goes (.fenc o) s s ∧
    (fetch64 s 4 o.a = .ok v → ∀ h : v < 64, winFor s 4 ⟨v, h⟩ (0x1000000000 + v * 0x100000000) = .ok e →
      ∃ t, Goes (.wfen o) s t ∧ (Tbl.get {} t.core.epochs v) =
        { number := (Tbl.get {} s.srcCore.epochs v).number + 1, bytes := 0, paths := [] } ∧ SameMemory s.m t.m ∧
        t.strm = s.strm ∧ t.core = { s.core with epochs := t.core.epochs } ∧
        let ep := Tbl.get {} s.srcCore.epochs v
        let paths : List (Fin 72 × BitVec 10) := if ep.paths = [] then [((directPath s.m e.peer).getD 0, e.peer)]
          else ep.paths.map fun k => (Fin.ofNat 72 (k / 1024), BitVec.ofNat 10 k)
        let copy : Marker := {
          srcDev := s.m.device, srcCtx := s.srcCore.ctx, srcWin := ⟨v, h⟩
          srcJob := BitVec.ofNat 32 (s.cur.die.val * 128 + s.cur.core.val), epoch := ep.number, pctx := e.pctx
          pwin := Fin.ofNat 64 e.pwin, bytes := BitVec.ofNat 48 ep.bytes, copies := BitVec.ofNat 16 paths.length }
        ((∀ j, (s.m.port j).met = none) → ∀ j, ∃ l, (t.m.port j).sendq = (s.m.port j).sendq ++ l ∧
          l.map (fun x => (x.1, x.2.dst, x.2.body)) =
            (paths.filter fun p => decide (p.1 = j)).map fun p => (p.2, e.peer, FlitBody.marker copy)))

/-! ### Circular buffers (09 R264 to R266, 08 R388) -/

/-- 09 R265, R266, 08 R388: with a valid handle of the right role and a count from 1 to the number of entries, CBPB
publishes claimed entries, CBRL moves its cursor on, CBWT of a consumer returns the address of its first available entry and
CBWT of a producer claims free entries and returns the first; each moves only its own count, the first two release. CBST.get
reads a consumer's count with its available entries, or the producer's count with the free ones; CBST.init of a buffer whose
counts agree takes base, entry size, entries and cursors from a legal image, with all counts zero. That only the counts of
the cursors in use have to agree is the model's choice (log 37). CBST through a consumer's handle whose cursor is not in use
raises ILLEGAL. -/
def Obligations.BufferOpsMoveTheirCounts : Prop :=
  (∀ (s : State) (o : SlotOp) (h n : Nat), s.verdict = .go → s.strm = s.srcStrm → s.src = s.m →
     fetch64 s 4 o.a = .ok h → h < 16 → fetch64 s 4 o.b = .ok n →
     let w := (Tbl.get 0 s.srcCore.cb h).toNat
     let obj := hObject w
     let b := s.m.buf s.cur.die obj
     let entryAt := fun (v : W32) => b.base.toNat + v.toNat % b.nent.toNat * b.ebytes.toNat
     hValid w = true → 1 ≤ n → n ≤ b.nent.toNat → (hConsumer w = true → hCursor w ≤ b.ncons.toNat) →
     (hConsumer w = false → n ≤ (b.claim - b.prod).toNat →
       publishStalls s.m s.cur.die obj ((b.prod + BitVec.ofNat 32 n).setWidth 16) = false →
       releaseWaits s.m s.cur false = false → ∃ t, Goes (.cbpb o) s t ∧ ReleasedBy s t ∧
         t.m.buf s.cur.die obj = { b with prod := b.prod + BitVec.ofNat 32 n, clks := (t.m.buf s.cur.die obj).clks }) ∧
     (hConsumer w = true → n ≤ (b.prod - b.consOf (hCursor w)).toNat →
       (releaseWaits s.m s.cur false = false → ∃ t, Goes (.cbrl o) s t ∧ ReleasedBy s t ∧
         let b' := t.m.buf s.cur.die obj
         b'.consOf (hCursor w) = b.consOf (hCursor w) + BitVec.ofNat 32 n ∧
         (∀ k, k ≠ hCursor w → b'.consOf k = b.consOf k) ∧ b' = { b with cons := b'.cons, clks := b'.clks }) ∧
       ((Instr.cbwtConsumer o).okIn s.cur.stream = true → ∃ t, Goes (.cbwtConsumer o) s t ∧
         dstReads t o.dst = dstKeeps o.dst (entryAt (b.consOf (hCursor w))) ∧ t.m.buf s.cur.die obj = b ∧
         Tbl.get none t.core.bufs h = some (b.consOf (hCursor w) + BitVec.ofNat 32 n - 1) ∧ OtherScalarsKept o.dst s t)) ∧
     (hConsumer w = true → (b.prod - b.consOf (hCursor w)).toNat < n →
       exec (.cbwtConsumer o) s = .next { s with verdict := .blocked }) ∧
     (hConsumer w = false → (∀ k, k ≤ b.ncons.toNat → (b.claim - b.consOf k).toNat + n ≤ b.nent.toNat) →
       (Instr.cbwtProducer o).okIn s.cur.stream = true → ∃ t, Goes (.cbwtProducer o) s t ∧
         dstReads t o.dst = dstKeeps o.dst (entryAt b.claim) ∧ OtherScalarsKept o.dst s t ∧
         t.m.buf s.cur.die obj = { b with claim := b.claim + BitVec.ofNat 32 n, clks := (t.m.buf s.cur.die obj).clks })) ∧
  (∀ (s u : State) (o : SlotOp) (h : Nat) (bs : List Byte), s.verdict = .go → s.strm = s.srcStrm → s.src = s.m →
     fetch64 s 4 o.a = .ok h → h < 16 →
     let w := (Tbl.get 0 s.srcCore.cb h).toNat
     let b := s.m.buf s.cur.die (hObject w)
     hValid w = true →
     ((Instr.cbstGet o).okIn s.cur.stream = true → hConsumer w = true → hCursor w ≤ b.ncons.toNat →
       WritesScalar s (.cbstGet o) o.dst ((b.consOf (hCursor w)).toNat +
         2 ^ 32 * ((b.prod - b.consOf (hCursor w)).toNat % 2 ^ 16)) 0) ∧
     ((Instr.cbstGet o).okIn s.cur.stream = true → hConsumer w = false →
       WritesScalar s (.cbstGet o) o.dst (b.prod.toNat + 2 ^ 32 * (b.free % 2 ^ 16)) 0) ∧
     (hConsumer w = true → b.ncons.toNat < hCursor w → ∀ i, i = .cbstInit o ∨ i = .cbstGet o →
       ∃ t x, exec i s = .next t ∧ t.verdict = .trapped x ∧ x.code = 1) ∧
     ((hConsumer w = true → hCursor w ≤ b.ncons.toNat) → memLoad 4 (addrOf s o.b) 64 s = .ok (bs, u) → b.claim = b.prod → (∀ k, k ≤ b.ncons.toNat → b.consOf k = b.prod) →
       cbImageOk (ofBytes bs) = true → ∃ t, Goes (.cbstInit o) s t ∧ SameMemory s.m t.m ∧
         t.m.buf s.cur.die (hObject w) =
           { base := BitVec.ofNat 48 (fld (ofBytes bs) 256 48), ebytes := BitVec.ofNat 32 (fld (ofBytes bs) 224 32)
             nent := BitVec.ofNat 16 (fld (ofBytes bs) 208 16), ncons := BitVec.ofNat 2 (fld (ofBytes bs) 206 2) }))

/-! ### Atomics, combining and signals (08 R228 to R238) -/

/-- 08 R228, R229, 07 R193, R194, 15 R352, R365: an atomic at a mapped, aligned and sound device address, the routers on its
way idle, performs at once: the word takes the op's new value, the destination the op's result, no other byte of memory and
no other register changes. A release joins the job's clock into the record of the word's line and advances the job's count;
an acquire then joins that record into the job's clock. At a frozen scratchpad it waits. A misaligned address raises ALIGN,
an aligned one outside device space ADDRCLASS; a stream whose request is under way waits, and one whose reply has come
writes it and goes on. Three readings are the model's choice: the atomic translates at the issuing die's synchronisation
engine (log 22), ALIGN comes first at an address that is both (log 63), and what a release waits for beside the scrubber
(log 90). -/
def Obligations.AtomicsUpdateOneWordOrWait : Prop :=
  (∀ (s u w : State) (i : Instr) (o : SlotOp) (op : AtomOp) (b c : Val) (pa v : Nat) (m : Module), s.verdict = .go →
     s.strm = s.srcStrm → s.src = s.m → i.okIn s.cur.stream = true → atomRule i = some (o, op) → s.srcStrm.wait = .none →
     fetch64 s 5 o.a = .ok v → fetch s 5 o.ty o.b = .ok (b, u) → fetch s 5 o.ty o.c = .ok (c, w) →
     v < 2 ^ 57 → v % tyBytes o.ty = 0 →
     translate s.m (some (.sye s.cur.die)) s.srcCore.ctx .write v = .ok (pa, m) →
     ((Loc.phys pa).frozen m = true → exec i s = .next { s with verdict := .unissued }) ∧
     ((Loc.phys pa).frozen m = false → poisoned m pa = false →
     (bitAt o.opx.val 1 = true → releaseWaits s.m s.cur true = false) →
     (∀ r, r = .cluster s.cur.die (clusterOf s.cur.core) ∨ r = .later (homeDie pa) →
       (s.m.router r).busy = false ∧ (s.m.router r).arriving = [] ∧ (s.m.router r).queue = []) →
     let n := tyBytes o.ty
     let r := atomNew op o.ty (Memory.read s.m.phys pa n) (b.elem o.ty 0) (c.elem o.ty 0)
     let rel := bitAt o.opx.val 1
     let acq := bitAt o.opx.val 0
     let line := fun (m : Module) => Tbl.get [] (m.die (homeDie pa)).words (lineKey pa)
     let own := partyKey s.cur.die s.cur.core.val
     let clk := if rel then Tbl.ins s.core.clk own (Clock.at s.core.clk own + 1) else s.core.clk
     ∃ t, Goes i s t ∧ Memory.read t.m.phys pa n = r.1 % 2 ^ (8 * n) ∧
       (∀ a, a < pa ∨ pa + n ≤ a → Memory.byte t.m.phys a = Memory.byte s.m.phys a) ∧ t.m.host = s.m.host ∧
       dstReads t o.dst = dstKeeps o.dst r.2 ∧ OtherScalarsKept o.dst s t ∧ t.core.unitMem = s.core.unitMem ∧
       line t.m = (if rel then Clock.join (line s.m) s.core.clk else line s.m) ∧
       t.core.clk = if acq then Clock.join clk (Clock.ofDie s.cur.die (line t.m)) else clk)) ∧
  (∀ (s : State) (i : Instr) (o : SlotOp) (op : AtomOp) (v : Nat), s.verdict = .go → s.strm = s.srcStrm → s.src = s.m →
     i.okIn s.cur.stream = true → atomRule i = some (o, op) →
     (∀ old k, s.srcStrm.wait = .replied old k → ∃ t, Goes i s t ∧ dstReads t o.dst = dstKeeps o.dst old.toNat ∧
       OtherScalarsKept o.dst s t ∧ t.core.clk = Clock.join s.core.clk (Clock.ofDie s.cur.die k) ∧ SameMemory s.m t.m) ∧
     (s.srcStrm.wait = .atomic → exec i s = .next { s with verdict := .blocked }) ∧
     (∀ old a, s.srcStrm.wait = .lost old a → ∃ t x, exec i s = .next t ∧ t.verdict = .trapped x ∧ x.code = 0x0B ∧
       x.addr = a ∧ x.info = old) ∧
     (s.srcStrm.wait = .none → fetch64 s 5 o.a = .ok v → (∃ b u, fetch s 5 o.ty o.b = .ok (b, u)) →
       (∃ c u, fetch s 5 o.ty o.c = .ok (c, u)) →
       (v % tyBytes o.ty ≠ 0 → ∃ t x, exec i s = .next t ∧ t.verdict = .trapped x ∧ x.code = 3 ∧ x.addr = BitVec.ofNat 64 v) ∧
       (v % tyBytes o.ty = 0 → 2 ^ 57 ≤ v → ∃ t x, exec i s = .next t ∧ t.verdict = .trapped x ∧ x.code = 4)))

/-- 04 R111, 08 R230 to R232: the new value and the result of each atomic on words of `n` bits: fetch-and-op in T, compare
and swap, the wraps at the bound B, and AFAB, which adds only while the sum stays from 0 to C and marks success in bit 63.
AFAF rounds the sum to nearest even whatever rmode holds, AFMX takes FMAX, and a NaN that either stores is canonical. -/
def Obligations.AtomicFunctions : Prop :=
  (∀ (t : Ty) (x b c : Nat), t = .i32 ∨ t = .i64 ∨ t = .n32 →
    let n := tyBits t
    x < 2 ^ n → b < 2 ^ n → c < 2 ^ n →
    let X := BitVec.ofNat n x
    let B := BitVec.ofNat n b
    let le := fun (p q : BitVec n) => intOf (tySigned t) p ≤ intOf (tySigned t) q
    (∀ op, op ≠ .addBounded → op ≠ .signal → (atomNew op t x b c).2 = extended t x) ∧
    (atomNew .add t x b c).1 = (X + B).toNat ∧
    (atomNew .cas t x b c).1 = (if x = b then c else x) ∧ (atomNew .swap t x b c).1 = b ∧
    (atomNew .and t x b c).1 = (X &&& B).toNat ∧ (atomNew .or t x b c).1 = (X ||| B).toNat ∧
    (le X B → (atomNew .min t x b c).1 = x ∧ (atomNew .max t x b c).1 = b) ∧
    (le B X → (atomNew .min t x b c).1 = b ∧ (atomNew .max t x b c).1 = x) ∧
    (t = .n32 →
      (atomNew .incWrap t x b c).1 = (if x < b then x + 1 else 0) ∧
      (atomNew .decWrap t x b c).1 = (if 0 < x ∧ x ≤ b then x - 1 else b) ∧
      (0 ≤ (x : Int) + (BitVec.ofNat 32 b).toInt → (x : Int) + (BitVec.ofNat 32 b).toInt ≤ c →
        ((atomNew .addBounded t x b c).1 : Int) = x + (BitVec.ofNat 32 b).toInt ∧
        (atomNew .addBounded t x b c).2 = 2 ^ 63 + x) ∧
      (¬(0 ≤ (x : Int) + (BitVec.ofNat 32 b).toInt ∧ (x : Int) + (BitVec.ofNat 32 b).toInt ≤ c) →
        atomNew .addBounded t x b c = (x, x)))) ∧
  ∀ x b c : Nat, x < 2 ^ 32 → b < 2 ^ 32 →
    let f := FFmt.f32
    let u := unpack f x
    let v := unpack f b
    let sum := (atomNew .fadd .f32 x b c).1
    let top := (atomNew .fmax .f32 x b c).1
    (u.isNan = true ∨ v.isNan = true → sum = f.qnan) ∧
    (u.num → v.num → ∃ fl, RoundsTo f 0 (u.neg && v.neg) (u.q + v.q) (sum, fl)) ∧
    (∀ m, u = .inf m → (v.num → sum = f.inf m) ∧ ∀ n, v = .inf n → sum = if m = n then f.inf m else f.qnan) ∧
    (∀ n, u.num → v = .inf n → sum = f.inf n) ∧
    (u.isNan = true → top = if v.isNan then f.qnan else b) ∧ (v.isNan = true → u.isNan = false → top = x) ∧
    (u.isNan = false → v.isNan = false → (top = x ∨ top = b) ∧ ¬(unpack f top).less True u ∧ ¬(unpack f top).less True v)

/-- 08 R229, R233 to R235, R237, 15 R365: combining loses and invents no request: an arriving request joins those of one
entry of the output queue with which it may combine, or stands behind them. AFAD may combine with AFAD, and AFAB with up to
three AFAB of the same bound at a cluster's router, of one context, address and type and without order. Combined requests
act as they would one after another, each receiving the value before it. The oldest entry goes on to a later router where
requests wait or are held back; otherwise it is performed at its home, and a plain request is answered at the stream that
waits for it; a frozen scratchpad holds it back, and a poisoned line raises ECCUE at the stream with no effect. The split of
a combined reply answers each part whose record is not lost with its own value, and a lost one with ATOMLOST's old value.
That all the later routers on the way to a home stand as one, the clock of a reply, and which members a lost record loses
are the model's choices (log 39). -/
def Obligations.RoutersCombineApplyAndAnswer : Prop :=
  (∀ (s : State) (die : Fin 16) (cluster : Option (Fin 8)) (y : AtomReq) (ys : List AtomReq),
     let r := RouterId.of die cluster
     let x := s.m.router r
     x.arriving = y :: ys → ∃ q, exec (.routerCombine die cluster) s =
         .next { s with m := s.m.setRouter r { x with arriving := ys, queue := q } } ∧ q.flatten.Perm (x.queue.flatten ++ [y]) ∧
       (q = x.queue ++ [[y]] ∨ ∃ l ps e, x.queue = l ++ ps :: e ∧ mayCombine r ps y = true ∧ q = l ++ (ps ++ [y]) :: e)) ∧
  (∀ (r : RouterId) (ps : List AtomReq) (y : AtomReq), mayCombine r ps y = true ↔ ∀ x ∈ ps, x.op = y.op ∧ x.order = 0 ∧
     y.order = 0 ∧ x.ctx = y.ctx ∧ x.dev = y.dev ∧ x.ty = y.ty ∧
     (x.op = .add ∨ (x.op = .addBounded ∧ x.c = y.c ∧ ps.length < 4 ∧ ∃ d k, r = .cluster d k))) ∧
  (∀ (t : Ty) (old : Nat) (ms : List Member), t = .i32 ∨ t = .i64 ∨ t = .n32 → old < 2 ^ tyBits t →
     let sum := fun (k : Nat) => ((ms.take k).map fun x => x.b.toNat).sum
     (atomMembers .add t 0 old ms).1 = (old + sum ms.length) % 2 ^ tyBits t ∧
     (atomMembers .add t 0 old ms).2.map Prod.fst = ms.map (fun x => x.who) ∧
     ∀ k, k < ms.length → ((atomMembers .add t 0 old ms).2.map Prod.snd).getD k 0 =
       extended t ((old + sum k) % 2 ^ tyBits t)) ∧
  (∀ (p : AtomReq) (ps : List AtomReq) (old j : Nat),
     joinReqs (p :: ps) = some { p with members := (p :: ps).flatMap fun q => q.members } ∧
     ∀ q, (p :: ps)[j]? = some q → (partOlds old (p :: ps))[j]? =
       some (((p :: ps).take j).foldl (fun v r => (atomMembers r.op r.ty r.c.toNat v r.members).1) old, q)) ∧
  (∀ (s : State) (die : Fin 16) (cluster : Option (Fin 8)),
     let r := RouterId.of die cluster
     let x := s.m.router r
     let later := fun (q : AtomReq) => RouterId.later (homeDie q.pa)
     (∀ q rs y, x.busy = false → x.queue = [q] :: rs → q.members = [y] → q.op ≠ .signal → bitAt q.order 1 = false →
       (s.m.strm y.who).wait = .atomic → (cluster = none ∨ (s.m.router (later q)).idle = true) →
       ((Loc.phys q.pa).frozen s.m = true → exec (.atomicApply die cluster) s = .next s) ∧
       ((Loc.phys q.pa).frozen s.m = false → poisoned s.m q.pa = true →
         (s.m.strm y.who).doomed = false → ∃ t, exec (.atomicApply die cluster) s = .next t ∧ t.m.phys = s.m.phys ∧
         (t.m.strm y.who).status = .held ∧ fld (t.m.strm y.who).trec.w0.toNat 0 8 = 0x0F) ∧
       ((Loc.phys q.pa).frozen s.m = false → poisoned s.m q.pa = false → ∃ t k, exec (.atomicApply die cluster) s = .next t ∧
         let old := Memory.read s.m.phys q.pa (tyBytes q.ty)
         let new := atomNew q.op q.ty old y.b.toNat q.c.toNat
         (t.m.router r).queue = rs ∧ (t.m.router r).arriving = x.arriving ∧ (t.m.router r).replies = x.replies ∧
         Memory.read t.m.phys q.pa (tyBytes q.ty) = new.1 % 2 ^ (8 * tyBytes q.ty) ∧
         (∀ a, a < q.pa ∨ q.pa + tyBytes q.ty ≤ a → Memory.byte t.m.phys a = Memory.byte s.m.phys a) ∧
         (t.m.strm y.who).wait = .replied (BitVec.ofNat 64 new.2) k)) ∧
     (∀ c ps rs q, cluster = some c → x.busy = false → x.queue = ps :: rs → joinReqs ps = some q →
       (s.m.router (later q)).idle = false → ∃ t, exec (.atomicApply die cluster) s = .next t ∧
         t.m.router r = { x with queue := rs, sent := x.sent ++ [ps] } ∧
         t.m.router (later q) = { s.m.router (later q) with arriving := (s.m.router (later q)).arriving ++ [q] } ∧
         t.m.phys = s.m.phys) ∧
     (∀ p ps lost j q y old, x.replies = p :: ps → (partOlds p.old.toNat p.parts)[j]? = some (old, q) → q.members = [y] →
       (s.m.strm y.who).wait = .atomic →
       (∀ k z, p.parts[k]? = some z → (∃ w ∈ z.members, w.who = y.who) → k = j) →
       ∃ t, exec (.decombineReply die cluster lost) s = .next t ∧ t.m.phys = s.m.phys ∧
         ((∀ z ∈ p.parts, z.members.length = 1) → (t.m.router r).replies = ps) ∧
         (recordLost q.op lost j = true → (t.m.strm y.who).wait = .lost p.old q.dev) ∧
         (recordLost q.op lost j = false → (t.m.strm y.who).wait =
           .replied (BitVec.ofNat 64 (atomNew q.op q.ty old y.b.toNat q.c.toNat).2) [])))

/-- 08 R238, 07 R193, R194: SDEC subtracts and SADD adds its 64-bit operand at a signal, returning the old value, as a
release: the job's clock joins the signal's and the job's count advances; a signal that falls to 0 or less wakes every
stream that waits on it, with the signal's clock. Two readings are the model's choice: the change translates at the issuing
die's synchronisation engine (log 22), and what a release of module scope waits for beside the scrubber (log 90). -/
def Obligations.SignalOpsReleaseAndWake : Prop :=
  ∀ (s : State) (i : Instr) (o : SlotOp) (a b pa : Nat) (m : Module), s.verdict = .go → s.strm = s.srcStrm → s.src = s.m →
    i.okIn s.cur.stream = true → i = .sdec o ∨ i = .sadd o → s.srcStrm.wait = .none →
    fetch64 s 5 o.a = .ok a → fetch64 s 5 o.b = .ok b → a < 2 ^ 57 → a % 8 = 0 →
    translate s.m (some (.sye s.cur.die)) s.srcCore.ctx .write a = .ok (pa, m) → (Loc.phys pa).frozen m = false →
    poisoned m pa = false → releaseWaits s.m s.cur true = false →
    (∀ r, r = .cluster s.cur.die (clusterOf s.cur.core) ∨ r = .later (homeDie pa) →
      (s.m.router r).busy = false ∧ (s.m.router r).arriving = [] ∧ (s.m.router r).queue = []) →
    let old : W64 := BitVec.ofNat 64 (Memory.read s.m.phys pa 8)
    let new := if i = .sdec o then old - BitVec.ofNat 64 b else old + BitVec.ofNat 64 b
    let clk := fun (m : Module) => Tbl.get [] (m.die (homeDie pa)).words pa
    ∃ t, Goes i s t ∧ dstReads t o.dst = dstKeeps o.dst old.toNat ∧ ReleasedBy s t ∧
      clk t.m = Clock.join (clk s.m) s.core.clk ∧ Memory.read t.m.phys pa 8 = new.toNat ∧
      (∀ k, k < pa ∨ pa + 8 ≤ k → Memory.byte t.m.phys k = Memory.byte s.m.phys k) ∧
      (∀ w dev, w ≠ s.cur → (s.m.strm w).cwait = .waits (homeDie pa) pa dev →
        (t.m.strm w).cwait = if new.toInt ≤ 0 then .woken (clk t.m) else .waits (homeDie pa) pa dev)

/-! ### Barrier slots (07 R208 to R211, 08 R239 to R241) -/

/-- 08 R239, R240, 07 R209 to R212, 14 R333: on a granted slot BINV resets it with its parties, valid, keeping the phase;
BEXP posts its bytes to P or P + 1; BARV arrives in the open phase, or in the next, returns the phase it joined, records it
and releases. An arrival beyond both counts, or at a slot whose ovr is set, raises OVERRUN; where a dropped window write has
set it, RACE (R214). A slot that is not ready, or whose flip a stale stamp stalls, stays as it is; a ready one flips: the
next phase opens with what was posted and has arrived for it, and the clocks of the phase join the done clock. The oldest
completion that another die sent takes its bytes off the phase that it captured, gives up its hold when it is the last, and
the slot is settled. Three readings are the model's choice: which events set ovr (log 9), the done clock that BINV keeps
(log 40), and what a release of die scope waits for beside the scrubber (log 90). -/
def Obligations.BarrierSlotsCountAndFlip : Prop :=
  (∀ (s : State) (o : SlotOp) (n e : Nat) (slot : Fin 256), s.verdict = .go → s.strm = s.srcStrm → s.src = s.m →
     fetch64 s 5 o.a = .ok n → n = slot.val →
     let d := s.cur.die
     let b := s.m.barrier d slot
     let settled := Barrier.settle (fun φ => !flipStalls s.m d slot.val φ) 3
     let traps := fun (i : Instr) (code : Nat) => ∃ t x, exec i s = .next t ∧ t.verdict = .trapped x ∧ x.code = code
     (b.valid = false → traps (.barv o) 1 ∧ (fetch64 s 5 o.b = .ok e → traps (.bexp o) 1)) ∧
     (grantSlot s.m s.srcCore.ctx n = false →
       (b.valid = true → traps (.barv o) 2) ∧
       (fetch64 s 5 o.b = .ok e → (b.valid = true → traps (.bexp o) 2) ∧ (e < 65536 → traps (.binv o) 2))) ∧
     (grantSlot s.m s.srcCore.ctx n = true →
       (fetch64 s 5 o.b = .ok e → e < 65536 → b.pend = 0 → b.npend = 0 → ∃ t, Goes (.binv o) s t ∧
         t.m.barrier d slot = { phase := b.phase, parties := e, valid := true, clkDone := b.clkDone } ∧
         (∀ k, k ≠ slot → t.m.barrier d k = s.m.barrier d k)) ∧
       (fetch64 s 5 o.b = .ok e → b.valid = true → ∃ t, Goes (.bexp o) s t ∧
         t.m.barrier d slot = settled (if o.opx.val % 2 = 1
           then { b with nxt := b.nxt + (e % 2 ^ 48 : Nat), nxp := true, ovr := b.ovr || !ctrOk (b.nxt + (e % 2 ^ 48 : Nat)) }
           else { b with cur := b.cur + (e % 2 ^ 48 : Nat), xp := true, ovr := b.ovr || !ctrOk (b.cur + (e % 2 ^ 48 : Nat)) }) ∧
         (∀ k, k ≠ slot → t.m.barrier d k = s.m.barrier d k)) ∧
       (b.valid = true → b.ovr = false → releaseWaits s.m s.cur false = false → (Instr.barv o).okIn s.cur.stream = true →
         (∀ φ, s.strm.cwait ≠ .waitb slot φ) →
         let k := releaseClock s.m d s.cur.core
         let arrives := fun (b' : Barrier) (φ : W32) => ∃ t, Goes (.barv o) s t ∧ ReleasedBy s t ∧
           dstReads t o.dst = dstKeeps o.dst φ.toNat ∧ t.m.barrier d slot = settled b' ∧
           Tbl.get none t.core.arrivals slot.val = some φ ∧ OtherScalarsKept o.dst s t
         (b.arrived < b.parties → arrives { b with arrived := b.arrived + 1, clkCur := Clock.join b.clkCur k } b.phase) ∧
         (b.parties ≤ b.arrived → b.narrived < b.parties →
           arrives { b with narrived := b.narrived + 1, clkNxt := Clock.join b.clkNxt k } (b.phase + 1)) ∧
         (b.parties ≤ b.arrived → b.parties ≤ b.narrived →
           ∃ t x, exec (.barv o) s = .next t ∧ t.verdict = .trapped x ∧ x.code = 12)) ∧
       (b.valid = true → b.ovr = true → b.raced = none →
         ∃ t x, exec (.barv o) s = .next t ∧ t.verdict = .trapped x ∧ x.code = 12) ∧
       (∀ line tag stamp, b.valid = true → b.ovr = true → b.raced = some (line, tag, stamp) →
         ∃ t x, exec (.barv o) s = .next t ∧ t.verdict = .trapped x ∧ x.code = 8 ∧ x.addr = line ∧ x.info = stamp))) ∧
  ((∀ (ok : BitVec 16 → Bool) (n : Nat) (b : Barrier),
      (b.ready = true ↔ b.valid = true ∧ b.xp = true ∧ b.ovr = false ∧ b.arrived = b.parties ∧ b.cur = 0 ∧ b.pend = 0) ∧
      (b.ready = false ∨ ok (b.phase.setWidth 16 + 1) = false → Barrier.settle ok n b = b) ∧
      (b.ready = true → ok (b.phase.setWidth 16 + 1) = true → b.nxp = false →
        Barrier.settle ok (n + 1) b = { b with
          phase := b.phase + 1, cur := b.nxt, nxt := 0, xp := false, nxp := false, arrived := b.narrived, narrived := 0
          pend := b.npend, npend := 0, ovr := false, clkDone := Clock.join b.clkDone b.clkCur, clkCur := b.clkNxt, clkNxt := []
          epoch := b.epoch + 1 })) ∧
   (∀ (s : State) (die : Fin 16) (n : Fin 256) (φ : W32) (bytes : Nat) (rest : List (Fin 256 × W32 × Nat × Bool)),
      (s.m.die die).deliveries = (n, φ, bytes, true) :: rest →
      let b := s.m.barrier die n
      let settled := Barrier.settle (fun p => !flipStalls s.m die n.val p) 3
      φ = b.phase → ∃ t, exec (.barrierDelivery die) s = .next t ∧ (t.m.die die).deliveries = rest ∧
        t.m.barrier die n = settled { b with
          cur := b.cur - bytes, pend := b.pend - 1
          ovr := b.ovr || !ctrOk (b.cur - bytes) || (b.xp && decide (0 ≤ b.cur) && decide (b.cur - bytes < 0)) } ∧
        t.m.phys = s.m.phys))

/-! ### Tuples (08 R244 to R252, 01 R26) -/

/-- 08 R244, R245, R249: TDEP of an image whose tag a job may deposit, no parked request wanting it and room in its home
slice, stores it there under the job's context number, without care mask, with the job's clock; it answers DONE and
releases. A reserved tag raises PRIV. A deposit satisfies the parked requests of its home slice that match it in the order
in which they parked, up to and including the first take: each goes on with the tuple and the depositor's clock, the others
stay parked. A take keeps the tuple out of the slice; otherwise it is stored there. -/
def Obligations.DepositStoresATuple : Prop :=
  (
  ∀ (s u : State) (o : SlotOp) (img : Line), s.verdict = .go → s.strm = s.srcStrm → s.src = s.m →
    (Instr.tdep o).okIn s.cur.stream = true → loadImage (addrOf s o.a) s = .ok (img, u) →
    let d := s.cur.die
    let k := homeSlice (tupTag img)
    let ours := tupStored img (ctxTuple u.m s.srcCore.ctx)
    (0xFFFFFF00 < tupTag img → ∃ t x, exec (.tdep o) s = .next t ∧ t.verdict = .trapped x ∧ x.code = 2) ∧
    (tupTag img < 0xFFFFFF00 → releaseWaits u.src s.cur false = false →
      (∀ q ∈ (u.m.slice d k).parked, tupMatch ours q.pattern = false) → (u.m.slice d k).stored.length < 4096 →
      ∃ t, Goes (.tdep o) s t ∧ ReleasedBy u t ∧ t.strm.tstat = 0 ∧ dstReads t o.dst = dstKeeps o.dst 0 ∧
        SameMemory s.m t.m ∧ t.m.slice d k = { u.m.slice d k with stored := (u.m.slice d k).stored ++
          [{ image := ours, clk := releaseClock u.m d s.cur.core, age := u.m.ticket }] })) ∧
  (
  ∀ (s u : State) (o : SlotOp) (img : Line), s.verdict = .go → s.strm = s.srcStrm → s.src = s.m →
    (Instr.tdep o).okIn s.cur.stream = true → loadImage (addrOf s o.a) s = .ok (img, u) → tupTag img < 0xFFFFFF00 →
    let d := s.cur.die
    let k := homeSlice (tupTag img)
    let sl := u.m.slice d k
    let ours := tupStored img (ctxTuple u.m s.srcCore.ctx)
    let clk := releaseClock u.m d s.cur.core
    let wants := fun (q : Parked) => tupMatch ours q.pattern
    let goesOn := fun (t : State) (q : Parked) => (t.m.strm q.who).wait = .tupleDone ours clk
    releaseWaits u.src s.cur false = false →
    (∀ l q r, sl.parked = l ++ q :: r → wants q = true → q.take = true → (∀ x ∈ l, wants x = true → x.take = false) →
      ∃ t, Goes (.tdep o) s t ∧ ReleasedBy u t ∧ dstReads t o.dst = dstKeeps o.dst 0 ∧
        t.m.slice d k = { sl with parked := (l.filter fun x => !wants x) ++ r } ∧
        goesOn t q ∧ ∀ x ∈ l, wants x = true → goesOn t x) ∧
    ((∀ x ∈ sl.parked, wants x = true → x.take = false) → sl.stored.length < 4096 →
      ∃ t, Goes (.tdep o) s t ∧ ReleasedBy u t ∧ dstReads t o.dst = dstKeeps o.dst 0 ∧
        t.m.slice d k = { sl with
          parked := sl.parked.filter fun x => !wants x
          stored := sl.stored ++ [{ image := ours, clk := clk, age := u.m.ticket }] } ∧
        ∀ x ∈ sl.parked, wants x = true → goesOn t x))


/-- 08 R245 to R247, R250 to R252: a request that finds tuples of its context matching its pattern takes the oldest: its
image is stored at the result address and the status is DONE; TTAK removes it, TCPY and TPRB leave the slice. Without a
match TPRB answers NONE, and TCPY and TTAK park while the slice and the context's share allow it and answer FULL otherwise.
The oldest match is one whose image has the pattern's tag, context and cared fields, and no other match is older. TCAN
withdraws the parked request of a stream of its job and answers DONE, NONE if it has none; a stream whose request was
withdrawn goes on with CANCELLED; and a slice takes its oldest overflow tuple back when it has room. -/
def Obligations.TupleRequestsAnswerParkOrCancel : Prop :=
  ((∀ (s u : State) (i : Instr) (o : SlotOp) (img : Line) (ls : List (Loc × Nat)), s.verdict = .go → s.strm = s.srcStrm →
      s.src = s.m → i.okIn s.cur.stream = true → i = .tcpy o ∨ i = .ttak o ∨ i = .tprb o → s.srcStrm.wait = .none →
      addrOf s o.a % 64 = 0 → localLocs s.m s.core.ctx s.cur.die (some s.cur.core) (addrOf s o.a) 64 = some ls →
      (∀ l ∈ ls, ∃ c p, l.1 = .unit c p) → loadImage (addrOf s o.b) s = .ok (img, u) →
      (i = .ttak o → tupTag img ≠ 0xFFFFFF00) →
      let d := s.cur.die
      let k := homeSlice (tupTag img)
      let pat := tupPattern img (ctxTuple u.m s.srcCore.ctx)
      let answers := fun (t : State) (status : Nat) => t.strm.tstat = BitVec.ofNat 4 status ∧
        dstReads t o.dst = dstKeeps o.dst status
      (∀ x, findTuple u.m d pat = some x → ∃ t, Goes i s t ∧ answers t 0 ∧
        (locBytes ls).map t.m.byteAt = toBytes 64 x.image.toNat ∧ (∀ l, l ∉ locBytes ls → t.m.byteAt l = s.m.byteAt l) ∧
        t.m.dies = (if i = .ttak o then removeTuple u.m d x else u.m).dies) ∧
      (findTuple u.m d pat = none →
        (i = .tprb o → ∃ t, Goes i s t ∧ answers t 1 ∧ SameMemory s.m t.m) ∧
        (i ≠ .tprb o → mayPark s.m d k s.srcCore.ctx = false → ∃ t, Goes i s t ∧ answers t 2 ∧ SameMemory s.m t.m) ∧
        (i ≠ .tprb o → mayPark s.m d k s.srcCore.ctx = true → ∃ t, exec i s = .next t ∧ t.verdict = .blocked ∧
          t.strm.wait = .tuple (Fin.ofNat 16 k) ∧ (t.m.slice d k).parked = (s.m.slice d k).parked ++
            [{ who := s.cur, pattern := pat, take := decide (i = .ttak o) }]))) ∧
   (∀ (pat : Line) (ts : List Tuple),
      (∀ x, oldest pat ts = some x → x ∈ ts ∧ tupMatch x.image pat = true ∧
        ∀ y ∈ ts, tupMatch y.image pat = true → x.age ≤ y.age) ∧
      (oldest pat ts = none → ∀ y ∈ ts, tupMatch y.image pat = false) ∧
      ∀ x : Line, tupMatch x pat = true ↔ tupTag x = tupTag pat ∧ tupCtx x = tupCtx pat ∧
        ∀ f, f < 7 → bitAt (tupCare pat) f = true → tupField x f = tupField pat f)) ∧
  (∀ (s : State) (o : SlotOp) (die k : Fin 16) (st : StreamName), s.verdict = .go → s.strm = s.srcStrm → s.src = s.m →
     let w : Who := { s.cur with stream := st }
     (fetch64 s 5 o.a = .ok (streamNo st) → (Instr.tcan o).okIn s.cur.stream = true →
       (∀ j, (s.m.strm w).wait = .tuple j → ∃ t, Goes (.tcan o) s t ∧ t.strm.tstat = 0 ∧
         (t.m.strm w).wait = .tupleCancelled ∧
         (t.m.slice w.die j.val).parked = (s.m.slice w.die j.val).parked.filter fun q => decide (q.who ≠ w)) ∧
       ((∀ j, (s.m.strm w).wait ≠ .tuple j) → ∃ t, Goes (.tcan o) s t ∧ t.strm.tstat = 1)) ∧
     (s.srcStrm.wait = .tupleCancelled → ∀ i, i = .tcpy o ∨ i = .ttak o → ∃ t, Goes i s t ∧ t.strm.tstat = 3) ∧
     (∀ x xs, (s.m.slice die k.val).overflow = x :: xs → (s.m.slice die k.val).stored.length < 4096 →
       ∃ t, exec (.tupleOverflowReturn die k) s = .next t ∧ t.m.slice die k.val =
         { s.m.slice die k.val with stored := (s.m.slice die k.val).stored ++ [x], overflow := xs }))

/-! ### User-level interrupts, spill rings, the fetch buffer (09 R270 to R274, 11 R311, R312, 02 R387, 15 R361, R363) -/

/-- 09 R270 to R274, 02 R40: a stream that runs, may take interrupts, is outside its handler and is in no wait that
excludes them takes its oldest interrupt between bundles: the next bundle is at uvec, hs0 keeps the address of the bundle
that was next, hs1 and hs2 tell the source, and what the waiting bundle had done stands aside; otherwise nothing happens.
UIRQ queues an interrupt on a stream of its core, waits while 16 are queued, and is ILLEGAL for stream numbers
above 2. ERET goes to bits 56:0 of hs0 and takes up what stood aside, unless hs0 has changed; an hs0 that is no bundle
address raises ALIGN. The model's choices: what stood is taken up only under an unchanged hs0 (log 26); hs2 shows the progress
word at the entry, and no interrupt is taken while the pager, a parity error or a freeze holds the stream (log 52). -/
def Obligations.InterruptsEnterAndLeaveTheHandler : Prop :=
  (∀ (s : State) (w : Who),
     let x := s.m.strm w
     let able := x.status = .running ∧ x.uien = true ∧ x.handler = none ∧ x.paged = false ∧ x.parityAt = none ∧
       stopping s.m w.die w.core = false ∧ coreFrozen s.m w.die w.core = false ∧ x.wait.aside = true ∧
       x.cwait.aside = true ∧ x.doomed = false
     (x.irqs = [] ∨ ¬able → exec (.interruptTake w) s = .next s) ∧
     (∀ q qs, x.irqs = q :: qs → able → ∃ n y, exec (.interruptTake w) s = .next { s with m := n } ∧ y = n.strm w ∧
       y = { x with irqs := qs, pc := x.uvec, handler := some 0, wait := .none, cwait := .none, hs := y.hs
                    issued := none, fetch := y.fetch, aside := some (x.pc, x.wait.standing, x.cwait.standing) } ∧
       (y.fetch = [] ∨ y.fetch = x.fetch) ∧
       Tbl.get 0 y.hs 0 = x.pc.setWidth 64 ∧ (∀ k, 3 ≤ k → Tbl.get 0 y.hs k = Tbl.get 0 x.hs k) ∧
       (q.uirq = true → Tbl.get 0 y.hs 1 = 0x80000000 ∧ Tbl.get 0 y.hs 2 = q.value) ∧
       (q.uirq = false → Tbl.get 0 y.hs 1 = BitVec.ofNat 64 (q.slot.val * 65536 + q.code.toNat) ∧
         Tbl.get 0 y.hs 2 = BitVec.ofNat 64 (progWord (s.m.chain (.job w.die w.core q.slot)))) ∧
       (∀ v, v ≠ w → n.strm v = s.m.strm v) ∧ SameMemory s.m n ∧ n.chains = s.m.chains)) ∧
  (∀ (s : State) (o : SlotOp) (n v : Nat), s.verdict = .go → s.strm = s.srcStrm → s.src = s.m →
     (Instr.uirq o).okIn s.cur.stream = true → fetch64 s 5 o.a = .ok n → fetch64 s 5 o.b = .ok v →
     (∀ st, n = streamNo st →
       ((s.core.stream st).irqs.length < 16 → ∃ t, Goes (.uirq o) s t ∧ OnlyCore s t ∧
         t.core = s.core.setStream st { s.core.stream st with irqs := (s.core.stream st).irqs ++
           [{ uirq := true, slot := 0, code := 0, value := BitVec.ofNat 64 v }] }) ∧
       (16 ≤ (s.core.stream st).irqs.length → exec (.uirq o) s = .next { s with verdict := .blocked })) ∧
     (2 < n → ∃ t x, exec (.uirq o) s = .next t ∧ t.verdict = .trapped x ∧ x.code = 1 ∧ x.place = 5)) ∧
  (∀ s : State, s.verdict = .go → s.strm = s.srcStrm →
     let hs0 := Tbl.get 0 s.srcStrm.hs 0
     let pc := hs0.setWidth 57
     (hs0.toNat % 64 = 0 → ∃ t, Goes .eret s t ∧ OnlyStream s t ∧ t.bnd = { s.bnd with flow := .jump } ∧
       (∀ k c, s.strm.aside = some (pc, k, c) → t.strm.wait = k ∧ t.strm.cwait = c) ∧
       ((∀ k c, s.strm.aside ≠ some (pc, k, c)) → t.strm.wait = .none ∧ t.strm.cwait = .none) ∧
       t.strm = { s.strm with
         pc := pc, handler := none, aside := none, wait := t.strm.wait, cwait := t.strm.cwait }) ∧
     (hs0.toNat % 64 ≠ 0 → Raises .eret s { code := 3, place := 1, addr := pc.setWidth 64 }))

/-- 11 R307, R311, R312, 02 R39, R387, 15 R361, R363: QSPL gives a queue whose ring holds nothing a ring of its quota, or
none at address 0; a quota that is no positive multiple of 4,096 or a ring that holds entries is ILLEGAL, a misaligned
address ALIGN. A refill moves the oldest entry of the ring to the tail of a queue that has room and gives its charge back. A
fetch puts the first bundle that the buffer lacks into it; one that fails at the program counter traps at place 6, one ahead
of it leaves everything as it was. A bundle held on a parity error is released at its cycle and not before. The model's
choices: QSPL tests its quota also for address 0 (log 53); a fault of a bundle ahead is left for later, and the oldest
bundle leaves a full buffer (log 54). LDT that finds qlx with eight entries, or with a ring that holds some, pushes what it
loads to the tail of the ring, charged to the context's quota. A ring without a free slot, or a full queue without a ring,
keeps the bundle from issuing, or is ILLEGAL when the stream that pops has exited; a spent quota is QUOTA. -/
def Obligations.RingsAndFetchBuffersRefill : Prop :=
  (
  (∀ (s : State) (o : SlotOp) (a n : Nat) (q : QName), s.verdict = .go → s.strm = s.srcStrm → s.src = s.m →
     (Instr.qspl o).okIn s.cur.stream = true → fetch64 s 5 o.a = .ok a → fetch32 s 5 o.b = .ok n →
     o.opx.val = 0 ∧ q = .qlx ∨ o.opx.val = 1 ∧ q = .qxs →
     let empty := ∀ r, (s.core.queue q).ring = some r → r.sizes = []
     let legal := 4096 ≤ n ∧ n % 4096 = 0 ∧ empty
     (legal → a % 4096 = 0 → ∃ t, Goes (.qspl o) s t ∧ OnlyCore s t ∧ t.core = s.core.setQueue q { s.core.queue q with
       ring := if a % 2 ^ 57 = 0 then none
         else some { addr := BitVec.ofNat 57 a, quota := n, first := 0, sizes := [] } }) ∧
     (¬legal → ∃ t x, exec (.qspl o) s = .next t ∧ t.verdict = .trapped x ∧ x.code = 1 ∧ x.place = 5) ∧
     (legal → a % 4096 ≠ 0 → ∃ t x, exec (.qspl o) s = .next t ∧ t.verdict = .trapped x ∧ x.code = 3 ∧
       x.addr = BitVec.ofNat 64 (a % 2 ^ 57))) ∧
  (∀ (s : State) (d : Fin 16) (c : Fin 128) (q : QName),
     let x := (s.m.core d c).queue q
     let ctx := (s.m.core d c).ctx
     (x.ring = none ∨ 8 ≤ x.entries.length ∨ coreFrozen s.m d c = true → exec (.eddyRefill d c q) s = .next s) ∧
     (∀ r, x.ring = some r → r.sizes = [] → exec (.eddyRefill d c q) s = .next s) ∧
     (∀ r n ns bs m, x.ring = some r → r.sizes = n :: ns → x.entries.length < 8 → coreFrozen s.m d c = false →
       loadDev s.m none none ctx .read (r.slotAddr r.first) 4096 = .ok (bs, m) →
       ∃ w, exec (.eddyRefill d c q) s = .next { s with m := w } ∧
         w.core d c = (m.core d c).setQueue q {
           entries := x.entries ++ [{ size := n, data := BitVec.ofNat 32768 (ofBytes bs) }]
           ring := some { r with first := (r.first + 1) % (r.quota / 4096), sizes := ns } } ∧
         (w.ctx ctx).spill = (m.ctx ctx).spill - 4096 ∧ w = { m with cores := w.cores, ctxs := w.ctxs })) ∧
  (∀ (s : State) (w : Who) (k : Nat),
     let x := s.m.strm w
     let at_ := fun (j : Nat) => (x.pc + BitVec.ofNat 57 (64 * j)).toNat
     let holds := fun (j : Nat) => ∃ e ∈ x.fetch, e.1 = at_ j
     let load := loadDev s.m none (some (.core w.die w.core)) (s.m.core w.die w.core).ctx .fetch (at_ k) 64
     (x.status ≠ .running ∨ x.paged = true ∨ (∀ j, j < 32 → holds j) → exec (.bundleFetch w) s = .next s) ∧
     (x.status = .running → x.paged = false → k < 32 → (∀ j, j < k → holds j) → ¬holds k → at_ k % 64 = 0 →
       (∀ bs m, load = .ok (bs, m) → ∃ n, exec (.bundleFetch w) s = .next { s with m := n } ∧
         n = m.setStrm w { m.strm w with
           fetch := ((at_ k, BitVec.ofNat 512 (ofBytes bs)) :: (m.strm w).fetch).take 32 }) ∧
       (∀ code sub addr line, load = .error (.fault code sub addr line) →
         (k ≠ 0 → exec (.bundleFetch w) s = .next s) ∧
         (k = 0 → exec (.bundleFetch w) s = .next { s with
           m := takeTrap s.m w { code := code, place := 6, sub := sub, addr := BitVec.ofNat 64 addr, line := line }
           cur := w, pre := none, verdict := .go, bnd := {} })))) ∧
  (∀ (s : State) (w : Who) (c : W64), (s.m.strm w).parityAt = some c →
     let past := (s.m.die w.die).cyc - c
     (past.toNat < 2 ^ 63 → exec (.parityReissue w) s =
       .next { s with m := s.m.setStrm w { s.m.strm w with parityAt := none } }) ∧
     (2 ^ 63 ≤ past.toNat → exec (.parityReissue w) s = .next s))) ∧
  (
  ∀ (s u : State) (o : SlotOp) (n : Nat) (bs : List Byte), s.verdict = .go → s.cur.stream = .l → o.dst = .qlx →
    tileBytes s o.ty = some n → effAddr s o.a o.b % tileAlign o.ty = 0 → memLoad 4 (effAddr s o.a o.b) n s = .ok (bs, u) →
    let q := u.core.qlx
    let c := u.core.ctx
    let traps := fun (code : Nat) => ∃ t x, exec (.ldt o) s = .next t ∧ t.verdict = .trapped x ∧ x.code = code ∧ x.place = 4
    let full := (u.core.x.status ≠ .exited → exec (.ldt o) s = .next { s with m := s.src, verdict := .unissued }) ∧
      (u.core.x.status = .exited → traps 1)
    (8 ≤ q.entries.length → q.ring = none → full) ∧
    (∀ r, q.ring = some r → 8 ≤ q.entries.length ∨ r.sizes ≠ [] →
      (r.quota ≤ 4096 * r.sizes.length → full) ∧
      (4096 * r.sizes.length < r.quota →
        ∀ m, storeDev u.m none none c (r.slotAddr (r.first + r.sizes.length)) (toBytes 4096 (ofBytes bs % 2 ^ 32768)) = .ok m →
        ((u.m.ctx c).spill + 4096 ≤ ctxSquota u.m c → ∃ t, Goes (.ldt o) s t ∧ t.m.phys = m.phys ∧ t.strm = s.strm ∧
          (t.m.ctx c).spill = (m.ctx c).spill + 4096 ∧
          t.core = { u.core with qlx := { q with ring := some { r with sizes := r.sizes ++ [bs.length] } } }) ∧
        (ctxSquota u.m c < (u.m.ctx c).spill + 4096 → traps 9))))


/-! ### Command chains (09 R253 to R263, R267, R269, 11 R299, 15 R362) -/

/-- 09 R259 to R263, 07 R195, R210, 02 R40: ECHN with a legal selector, an idle or ended slot, a granted and valid barrier
slot, an aligned head in a scratchpad and room in its engine's queue queues the chain with the views of its job, takes a
hold on the phase that it captures, and releases; its bad operands and an invalid slot raise ILLEGAL, a valid ungranted one
PRIV (15 R352), a head outside the scratchpads ADDRCLASS. ECWT of an idle or ended chain writes its progress word, and waits
for any other. ECNC does the same, ends a queued chain at once as cancelled, and marks a running one and waits. An engine
that no freeze holds takes the chain at the head of its queue and puts it at its first record. -/
def Obligations.ChainsStartWaitAndCancel : Prop :=
  (∀ (s : State) (o : SlotOp) (sel bar : Nat), s.verdict = .go → s.strm = s.srcStrm → s.src = s.m →
     fetch64 s 5 o.a = .ok sel → fetch64 s 5 o.c = .ok bar →
     let d := s.cur.die
     let head := addrOf s o.b
     let n := o.opx.val % 4
     let cls : EngClass := if n = 0 then .copy else if n = 1 then .kantele else if n = 2 then .zither else .chain
     let i : ChainId := .job d s.cur.core (Fin.ofNat 16 sel)
     let bdie : Fin 16 := Fin.ofNat 16 (bar / 512)
     let slot : Fin 256 := Fin.ofNat 256 bar
     let b := s.m.barrier bdie slot
     let next := bitAt bar 8
     let k : Chain := {
       state := 1, cls := cls, ctx := s.core.ctx, head := BitVec.ofNat 48 head, who := some s.cur, core := some s.cur.core
       die := d, inst := if cls = .zither then Fin.ofNat 8 (d.val / 2) else Fin.ofNat 8 (sel / 16)
       slotDie := bdie, slot := slot, phase := if next then b.phase + 1 else b.phase, hold := true
       views := { die := d, party := s.cur.core.val, clk := s.core.clk, phases := s.core.phases, bufs := s.core.bufs
                  handles := s.core.cb } }
     let legal := sel < 128 ∧ (cls = .copy ∨ sel < 16) ∧ bar < 2 ^ 13 ∧ (s.m.chain i).state ≠ 1 ∧ (s.m.chain i).state ≠ 2
     (¬legal → ∃ t x, exec (.echn o) s = .next t ∧ t.verdict = .trapped x ∧ x.code = 1 ∧ x.place = 5) ∧
     (legal → b.valid = false → ∃ t x, exec (.echn o) s = .next t ∧ t.verdict = .trapped x ∧ x.code = 1) ∧
     (legal → b.valid = true → grantSlot s.m s.core.ctx slot.val = false →
       ∃ t x, exec (.echn o) s = .next t ∧ t.verdict = .trapped x ∧ x.code = 2 ∧ x.place = 5) ∧
     (legal → grantSlot s.m s.core.ctx slot.val = true →
       (b.valid = true → head % 32 ≠ 0 → ∃ t x, exec (.echn o) s = .next t ∧ t.verdict = .trapped x ∧ x.code = 3) ∧
       (b.valid = true → head % 32 = 0 → localLocs s.m s.core.ctx d (some s.cur.core) head 32 = none →
         ∃ t x, exec (.echn o) s = .next t ∧ t.verdict = .trapped x ∧ x.code = 4 ∧ x.addr = BitVec.ofNat 64 head) ∧
       (b.valid = true → head % 32 = 0 → localLocs s.m s.core.ctx d (some s.cur.core) head 32 ≠ none →
         (engineQueueCap (engineOf k) ≤ (engQueue s.m (engineOf k)).length →
           exec (.echn o) s = .next { s with verdict := .unissued }) ∧
         ((engQueue s.m (engineOf k)).length < engineQueueCap (engineOf k) → releaseWaits s.m s.cur true = false →
           ∃ t, Goes (.echn o) s t ∧ ReleasedBy s t ∧ t.m.chain i = k ∧ (∀ j, j ≠ i → t.m.chain j = s.m.chain j) ∧
             engQueue t.m (engineOf k) = engQueue s.m (engineOf k) ++ [i] ∧
             t.m.barrier bdie slot = (if next then { b with npend := b.npend + 1 } else { b with pend := b.pend + 1 }) ∧
             SameMemory s.m t.m)))) ∧
  (∀ (s : State) (o : SlotOp) (n : Nat), s.verdict = .go → s.strm = s.srcStrm → s.src = s.m → fetch64 s 5 o.a = .ok n →
     let i : ChainId := .job s.cur.die s.cur.core (Fin.ofNat 16 n)
     let k := s.m.chain i
     (16 ≤ n → ∀ j, j = .ecwt o ∨ j = .ecnc o → ∃ t x, exec j s = .next t ∧ t.verdict = .trapped x ∧ x.code = 1) ∧
     (n < 16 → k.state ≠ 1 → k.state ≠ 2 →
       WritesScalar s (.ecwt o) o.dst (progWord k) 0 ∧ WritesScalar s (.ecnc o) o.dst (progWord k) 0) ∧
     (n < 16 → k.state = 1 ∨ k.state = 2 → exec (.ecwt o) s = .next { s with verdict := .blocked }) ∧
     (n < 16 → k.state = 1 → s.strm.wait ≠ .ecnc → ∃ t, Goes (.ecnc o) s t ∧
       t.m.chain i = { k with
         state := 5, hold := false, held := false, tier := false, reached := false, old := none, markers := none
         done := none, fired := none } ∧
       dstReads t o.dst = dstKeeps o.dst (progWord { k with state := 5 }) ∧
       engQueue t.m (engineOf k) = (engQueue s.m (engineOf k)).filter fun j => decide (j ≠ i)) ∧
     (n < 16 → k.state = 2 → s.strm.wait ≠ .ecnc → ∃ t, exec (.ecnc o) s = .next t ∧ t.verdict = .blocked ∧
       t.m.chain i = { k with cancel := true } ∧ t.strm = { s.strm with wait := .ecnc }) ∧
     (n < 16 → k.state = 2 → s.strm.wait = .ecnc → exec (.ecnc o) s = .next { s with verdict := .blocked })) ∧
  (∀ (s : State) (e : EngineId),
     (engQueue s.m e = [] ∨ engineFrozen s.m e = true → exec (.chainStart e) s = .next s) ∧
     (∀ i is, engQueue s.m e = i :: is → engineFrozen s.m e = false → ∃ n, exec (.chainStart e) s = .next { s with m := n } ∧
       n.chain i = { s.m.chain i with state := 2, pos := 0 } ∧ (∀ j, j ≠ i → n.chain j = s.m.chain j) ∧
       engQueue n e = is ∧ SameMemory s.m n ∧ n.cores = s.m.cores))

/-- 09 R253, R256, R257, R262, R269, R270, 08 R238, 15 R362: JMP goes its signed distance; LPC goes on at a count of zero
and otherwise decrements it and branches; IFZ and IFNZ skip a record on their condition; SGD subtracts its amount from its
signal; NTE queues an interrupt on the stream that issued the chain, once there is room; each goes on at the next record
else, and an index outside 0 to 65,535 stops the chain with ILLEGAL behind the record's own effect. END ends it as done and
releases its hold. The completion of a command publishes its output entry and releases its input entry, delivers its bytes,
decrements its signal, queues its interrupt, and then the chain is cancelled, ends behind its last record, or goes on with
the next. The signals are those of a chain that stands ahead of no marker. A freeze of its engine or core holds it (15
R365). -/
def Obligations.ChainsWalkTheirRecords : Prop :=
  (∀ (s : State) (r : Rec),
     let c := s.chain
     let k := s.m.chain c
     let next : Int := k.index + 1
     (∀ n : Int, n = k.index + r.w1.toInt → GoesOn s (.jmp r) s.m n) ∧
     (∀ bs m, chLoad s.m c none (recWord r) 4 = .ok (bs, m) →
       (ofBytes bs = 0 → GoesOn s (.lpc r) m next ∧ GoesOn s (.ifz r) m (next + 1) ∧ GoesOn s (.ifnz r) m next) ∧
       (ofBytes bs ≠ 0 → GoesOn s (.ifz r) m next ∧ GoesOn s (.ifnz r) m (next + 1) ∧
         ∀ m', chStore m c none (recWord r) (toBytes 4 (ofBytes bs - 1)) = .ok m' →
           GoesOn s (.lpc r) m' (k.index + r.w1.toInt))) ∧
     (∀ pa m, k.old = none → recSignal r % 8 = 0 → translate s.m none k.ctx .write (recSignal r) = .ok (pa, m) → poisoned m pa = false →
       GoesOn s (.sgd r) (changeSignal m pa
         (BitVec.ofNat 64 (Memory.read m.phys pa 8) - BitVec.ofNat 64 (recAmount r)) k.views.clk) next) ∧
     (∀ d co n w, c = .job d co n → k.who = some w →
       ((s.m.strm w).irqs.length < 16 → GoesOn s (.nte r) (s.m.setStrm w { s.m.strm w with
         irqs := (s.m.strm w).irqs ++ [{ uirq := false, slot := n, code := r.w3.setWidth 16, value := 0 }] }) next) ∧
       (16 ≤ (s.m.strm w).irqs.length → k.cancel = false → exec (.nte r) s = .next s)) ∧
     (∃ n, exec (.endRec r) s = .next { s with m := n } ∧ n.chain c = { k with
       state := 3, hold := false, held := false, tier := false, reached := false, old := none, markers := none
       done := none, fired := none } ∧
       (∀ j, j ≠ c → n.chain j = s.m.chain j) ∧ SameMemory s.m n)) ∧
  (∀ (s : State) (c : ChainId) (p : Perf),
     let k := s.m.chain c
     (k.done = none ∨ k.state ≠ 2 ∨ k.held = true ∨ k.tier = true ∨ chainFrozen s.m k = true ∨ k.acks ≠ [] →
       exec (.commandComplete c) s = .next { s with chain := c }) ∧
     (k.done = some p → k.state = 2 → k.held = false → k.tier = false → chainFrozen s.m k = false → k.acks = [] →
       p.stage = 0 → publishWaits s.m k p = false →
       (p.cmd.sig = false → p.cmd.ntf = false → ∃ n, exec (.commandComplete c) s = .next { s with m := n, chain := c } ∧
         (k.cancel = true → (n.chain c).state = 5) ∧ (k.cancel = false → p.cmd.last = true → (n.chain c).state = 3) ∧
         (k.cancel = false → p.cmd.last = false → k.index < 65535 →
           n.chain c = { k with pos := k.index + 1, reached := false, old := none, done := none, fired := none }) ∧
         (∀ o, p.publish = some o → (∀ r ∈ p.release, r.1 ≠ o) →
           (n.buf k.die o).prod = (s.m.buf k.die o).prod + 1 ∧ (n.buf k.die o).claim = (s.m.buf k.die o).claim) ∧
         (∀ q cur, p.release = [(q, cur)] → p.publish ≠ some q →
           (n.buf k.die q).consOf cur = (s.m.buf k.die q).consOf cur + 1 ∧
           ∀ j, j ≠ cur → (n.buf k.die q).consOf j = (s.m.buf k.die q).consOf j) ∧
         (p.cmd.byt = true → p.cmd.last = false → k.cancel = false → k.index < 65535 → k.engDie ≠ k.slotDie →
           (n.die k.slotDie).deliveries = (s.m.die k.slotDie).deliveries ++ [(k.slot, k.phase, p.bytes, false)])) ∧
       (∀ pa m, p.cmd.sig = true → p.cmd.ntf = false → p.publish = none → p.release = [] → p.cmd.byt = false → p.flags = 0 →
         k.old = none → recSignal p.cmd % 8 = 0 → translate s.m none k.ctx .write (recSignal p.cmd) = .ok (pa, m) →
         poisoned m pa = false → ∃ n, exec (.commandComplete c) s = .next { s with m := n, chain := c } ∧
           Memory.read n.phys pa 8 =
             (BitVec.ofNat 64 (Memory.read s.m.phys pa 8) - BitVec.ofNat 64 (recAmount p.cmd)).toNat) ∧
       (∀ d co i w, p.cmd.sig = false → p.cmd.ntf = true → c = .job d co i → k.who = some w →
         (s.m.strm w).irqs.length < 16 → ∃ n, exec (.commandComplete c) s = .next { s with m := n, chain := c } ∧
           (n.strm w).irqs = (s.m.strm w).irqs ++
             [{ uirq := false, slot := i, code := p.cmd.w3.setWidth 16, value := 0 }])))

/-! ### Commands: firing, copies, migration (09 R265, R267, R275, R276, R291, 14 R340, R341, 15 R362) -/

/-- 09 R267, R275, R276, R291, 15 R362: a command fires once each input buffer has an entry, its output buffer room and its
engine a place, capturing the versions and claiming the output; until then it waits. A bad descriptor is ILLEGAL, a side of
which a run leaves its scratchpad or device space ADDRCLASS before any byte moves. Run (i1, i2, i3) of CPY moves the run's
bytes from the source at i1·s1 + i2·s2 + i3·s3 to the destination at its own three strides; run n of CPG from its index
times the run length to n run lengths. The last run leaves the command performed with its bytes, and a run that faults stops
the chain with its number, what it has done standing. CPM sends each run in packets of at most 224 bytes, each acknowledged
by every member of its group. The model's choices: CPG reads its whole index list when it fires and a run is the precision
of a stop (log 42); the runs of a command are turns of one agent (log 58). -/
def Obligations.CopiesMoveTheirRuns : Prop :=
  (∀ (m : Module) (i : ChainId) (h o cur : Nat),
     let k := m.chain i
     let b := m.buf k.die o
     let v := b.consOf cur
     inProgress m (engineOf k) < engineRunCap (engineOf k) →
     (chHandle m k h true = .ok (o, cur) → b.prod = v → fire m i [h] none = .error .wait) ∧
     (chHandle m k h true = .ok (o, cur) → b.prod ≠ v → ∃ w, fire m i [h] none = .ok w ∧ ChainOnly m w i ∧
       w.chain i = { k with fired := some [(h, v)], units := 0
                            views := { k.views with clk := Clock.join k.views.clk (b.clksOf 0 [v])
                                                    bufs := Tbl.set none k.views.bufs h (some v) } }) ∧
     (chHandle m k h false = .ok (o, cur) → b.free = 0 → fire m i [] (some h) = .error .wait) ∧
     (chHandle m k h false = .ok (o, cur) → b.free ≠ 0 → ∃ w, fire m i [] (some h) = .ok w ∧
       (w.buf k.die o).claim = b.claim + 1 ∧ (w.buf k.die o).prod = b.prod ∧
       w.chain i = { k with fired := some [(h, b.claim)], units := 0
                            views := { k.views with clk := Clock.join k.views.clk (b.clksOf 1 [b.claim]) } })) ∧
  (∀ (m : Module) (i : ChainId), inProgress m (engineOf (m.chain i)) < engineRunCap (engineOf (m.chain i)) →
     fire m i [] none = .ok (m.setChain i { m.chain i with fired := some [], units := 0 })) ∧
  (∀ (s : State) (r : Rec) (bs : List Byte) (m : Module),
     let c := s.chain
     let k := s.m.chain c
     let d := ofBytes bs
     let side := fun (m : Module) (buf : Bool) (h field : Nat) (consumer : Bool) (x : Nat × Bool) =>
       (buf = false → x = (if bitAt field 63 then (fld field 0 48, true) else (fld field 0 57, false))) ∧
       (buf = true → ∃ o cur, chHandle m k h consumer = .ok (o, cur) ∧ let b := m.buf k.die o
         x = (b.entryAddr (if consumer then b.consOf cur else b.claim), true))
     let lowest := fun (x : Nat × Bool) (span : Int × Int) => wrapN (if x.2 then 48 else 64) ((x.1 : Int) + span.1)
     let inside := fun (m : Module) (x : Nat × Bool) (span : Int × Int) =>
       if x.2 then chRange m k ((x.1 : Int) + span.1) ((span.2 - span.1).toNat + dLen d) = true
       else 0 ≤ (x.1 : Int) + span.1 ∧ (x.1 : Int) + span.2 + dLen d ≤ 2 ^ 57
     let starts := fun (i : Instr) (n : Module) (idxs : List W32) (ins : List Nat) (out : Option Nat) =>
       (∀ f, fire n c ins out = .ok f → ∃ w, exec i s = .next { s with m := w } ∧ ChainOnly f w c ∧
         w.chain c = { f.chain c with desc := BitVec.ofNat 512 d, idxs := idxs }) ∧
       (fire n c ins out = .error .wait → exec i s = .next s)
     let ins := if recInb r then [recIn r] else []
     let out := if recOutb r then some (recOut r) else none
     let copies := fun (i : Instr) (cpg : Bool) (n : Module) (idxs : List W32) => ∀ src dst,
       side n (recInb r) (recIn r) (dSrc d) true src → side n (recOutb r) (recOut r) (dDst d) false dst →
       let from_ := copySpan cpg d idxs false
       let to_ := copySpan cpg d idxs true
       (inside n src from_ → inside n dst to_ → starts i n idxs ins out) ∧
       (¬inside n src from_ → exec i s = .next { s with m := stopChain s.m c 4 0 (lowest src from_) 0 }) ∧
       (inside n src from_ → ¬inside n dst to_ →
         exec i s = .next { s with m := stopChain s.m c 4 0 (lowest dst to_) 0 })
     k.fired = none → chLoad s.m c none (recDesc r) 64 = .ok (bs, m) →
     (copyBad false r d = true → exec (.cpy r) s = .next { s with m := stopChain s.m c 1 0 0 0 }) ∧
     (copyBad true r d = true → exec (.cpg r) s = .next { s with m := stopChain s.m c 1 0 0 0 }) ∧
     (copyBad false r d = false → copies (.cpy r) false m []) ∧
     (∀ ls n, copyBad true r d = false → chLoad m c none (dIdx d) (4 * dCount d 0) = .ok (ls, n) →
       copies (.cpg r) true n ((words32 (dCount d 0) ls).map (BitVec.ofNat 32))) ∧
     (fld r.bufs.toNat 11 5 = 0 → recOutb r = false → 1 ≤ dLen d → dLen d ≤ 2 ^ 24 → dCount d 0 ≠ 0 →
       fld d 176 336 = 0 → fld d 112 16 = 0 →
       (recInb r = false → if bitAt (dSrc d) 63 then fld (dSrc d) 48 15 = 0 else fld (dSrc d) 57 6 = 0) →
       ∀ src, side m (recInb r) (recIn r) (dSrc d) true src →
       let span : Int × Int := (0, ((dCount d 0 - 1) * dLen d : Nat))
       (inside m src span → starts (.cpm r) m [(Tbl.get {} m.mcast (fld d 64 8)).version.setWidth 32] ins none) ∧
       (¬inside m src span → exec (.cpm r) s = .next { s with m := stopChain s.m c 4 0 (lowest src span) 0 }))) ∧
  (∀ (s : State) (r : Rec) (f : List (Nat × W32)) (bs : List Byte) (m m1 : Module),
     let c := s.chain
     let k := s.m.chain c
     let d := k.desc.toNat
     let len := dLen d
     let src := copySide s.m c (recInb r) (recIn r) (dSrc d)
     let dst := copySide s.m c (recOutb r) (recOut r) (dDst d)
     let moved := fun (i : Instr) (n runs from_ to_ : Nat) =>
       (sideLoad s.m c src from_ len = .ok (bs, m) → sideStore m c dst to_ bs = .ok m1 →
         ∃ w, exec i s = .next { s with m := w } ∧ ChainOnly m1 w c ∧
         w.chain c = { k with
           units := k.units + len
           done := if n + 1 < runs then k.done else some {
             cmd := r, bytes := runs * len, flags := 0
             publish := if recOutb r then some (hObject (Tbl.get 0 k.views.handles (recOut r)).toNat) else none
             release := if recInb r && !recKeep r then releasedBy k [recIn r] else [] } }) ∧
       (∀ code sub a st,
         (sideLoad s.m c src from_ len = .error (.stop code sub a st none) →
           exec i s = .next { s with m := stopChain s.m c code sub a n }) ∧
         (∀ w b, sideLoad s.m c src from_ len = .error (.after w b (.stop code sub a st none)) →
           exec i s = .next { s with m := stopChain w c code sub a n }) ∧
         (sideLoad s.m c src from_ len = .ok (bs, m) → sideStore m c dst to_ bs = .error (.stop code sub a st none) →
           exec i s = .next { s with m := stopChain s.m c code sub a n }) ∧
         (∀ w b, sideLoad s.m c src from_ len = .ok (bs, m) →
           sideStore m c dst to_ bs = .error (.after w b (.stop code sub a st none)) →
           exec i s = .next { s with m := stopChain w c code sub a n }))
     k.fired = some f → 0 < len →
     (∀ i1 i2 i3 : Nat, i1 < dCount d 0 → i2 < dCount d 1 → i3 < dCount d 2 →
       let n := i1 + dCount d 0 * (i2 + dCount d 1 * i3)
       k.units = n * len → moved (.cpy r) n (dCount d 0 * dCount d 1 * dCount d 2)
         ((src.1 : Int) + (i1 * dStride d 0 + i2 * dStride d 1 + i3 * dStride d 2)).toNat
         ((dst.1 : Int) + (i1 * dStride d 3 + i2 * dStride d 4 + i3 * dStride d 5)).toNat) ∧
     (∀ n, n < dCount d 0 → k.units = n * len →
       moved (.cpg r) n (dCount d 0) (src.1 + (k.idxs.getD n 0).toNat * len) (dst.1 + n * len)) ∧
     (∀ n, n < dCount d 0 → k.units = n * len → sideLoad s.m c src (src.1 + n * len) len = .ok (bs, m) → bs.length = len →
       ∃ w, exec (.cpm r) s = .next { s with m := w } ∧
         let members := (Tbl.get {} s.m.mcast (fld d 64 8)).at_ ((k.idxs.getD 0 0).setWidth 8)
         w.chain c = { k with
           units := k.units + len
           acks := k.acks ++ (List.replicate ((len + 223) / 224)
             (members.map fun x => (x, BitVec.ofNat 8 (fld d 64 8)))).flatten
           done := if n + 1 < dCount d 0 then k.done else some {
             cmd := r, bytes := dCount d 0 * len, flags := 0, publish := none
             release := if recInb r && !recKeep r then releasedBy k [recIn r] else [] } }))

/-- 14 R337, R340, R341, 07 R215, R216, 09 R276, R277, 15 R361: markers put every command that stands ahead of them under
the tables it began with, take the tables as they stand for what follows and drop the held entries of their range. A
migration sets busy in every replica of the page's entry and places markers; once nothing stands ahead of them it moves the
page's bytes to a frame of its size, writes frame and tier into every replica, not busy, drops the held entries and rewrites
the tier in the headers of the page's blocks; a move that fails leaves the page where it was. MIG does so and is performed
with the page's bytes; it waits while the page is busy or a uvec names it. The pager lets its requester go on, a bundle from
its issue, once the page is off flash, or lies no higher than a demotion asks; it moves the page there as a service stream,
or delivers TIER when the flash read or the move fails. INVM places markers over its range and retires once nothing stands
ahead of them; it is PRIV without selfmap, ALIGN off a page, ADDRCLASS outside device space. The model's choices: the frame
that a move takes is a free value (log 14); an access that meets a busy page waits (log 20); how markers stand in queues
that the spec does not order is log 45, the mapping that they put in force log 69; MIG runs in the chain of a job on its own
pages (log 46), and waits for a page that a uvec names (log 71). -/
def Obligations.PagesMigrate : Prop :=
  (∀ (m : Module) (c : Fin 64) (lo hi : Nat) (behind : Nat → Chain → Bool),
     let r := placeMarkers m c lo hi behind
     let w := r.2
     r.1.2 = atomicsAhead m c ∧ (w.ctx c).tables = m.phys ∧
     w = { m with chains := w.chains, held := w.held, ctxs := w.ctxs } ∧
     (∀ d, d ≠ c → w.ctx d = m.ctx d) ∧ w.ctx c = { m.ctx c with tables := (w.ctx c).tables } ∧
     (∀ h, h ∈ w.held ↔ h ∈ m.held ∧ ¬(h.ctx = c ∧ h.page < hi ∧ lo < h.page + 2 ^ (12 + h.size))) ∧
     (∀ n, (∀ e ∈ m.chains, e.1 = n → e.2 = Tbl.get {} m.chains n) →
       let k := Tbl.get {} m.chains n
       let ahead := k.ctx = c ∧ behind n k = false ∧ (k.cls = .copy ∨ k.cls = .zither) ∧ k.markers = none ∧
         (k.state = 1 ∨ (k.state = 2 ∧ k.held = false ∧ k.tier = false ∧
           (k.fired ≠ none ∨ k.reached = true ∨ k.old ≠ none ∨ k.pos = 0)))
       (n ∈ r.1.1 ↔ ahead) ∧ (¬ahead → Tbl.get {} w.chains n = k) ∧
       (ahead → Tbl.get {} w.chains n = { k with old := some (k.old.getD (m.ctx c).tables) }))) ∧
  (∀ (m : Module) (c : Fin 64) (addr size e page : Nat), e < 2 ^ 64 → Memory.wf m.phys = true →
     let moved := fun (w : Module) => w.host = m.host ∧
       (∀ a ∈ replicas m c addr size, Memory.read w.phys a 8 = e) ∧
       (∀ a, (∀ p ∈ replicas m c addr size, a < p ∨ p + 8 ≤ a) → Memory.byte w.phys a = Memory.byte m.phys a)
     moved (putEntry m c addr size e) ∧
     let w := endMove m c addr size e page
     moved w ∧ (w.ctx c).tables = w.phys ∧
     (∀ h, h ∈ w.held ↔ h ∈ m.held ∧ ¬(h.ctx = c ∧ h.page < page + 2 ^ (12 + size) ∧ page < h.page + 2 ^ (12 + h.size)))) ∧
  (∀ (m : Module) (c : Fin 64) (addr e page size : Nat) (behind : Nat → Chain → Bool),
     (∀ x, walk m c addr = .error x → beginMove m c addr behind = .error x) ∧
     (walk m c addr = .ok (e, page, size) →
       let hi := page + 2 ^ (12 + size)
       (pteTier e ≠ 2 ∧ uvecNames m c page hi = true → beginMove m c addr behind = .error .busy) ∧
       (¬(pteTier e ≠ 2 ∧ uvecNames m c page hi = true) → beginMove m c addr behind =
         .ok (placeMarkers (putEntry m c addr size (putFld e 10 1 1)) c page hi behind)))) ∧
  (∀ (m w : Module) (c : Fin 64) (addr tier n e page size : Nat) (p : Actor), tier < 4 → Memory.wf m.phys = true →
     leafEntry m c addr = (e, page, size) →
     (finishMove m c addr tier p = (.ok n, w) → n = 2 ^ (12 + size) ∧ ∃ f x, f % n = 0 ∧
       (tier = 0 → f + n ≤ zitherBase) ∧ (tier ≠ 0 → poolBase ≤ f) ∧
       w = retier (endMove x c addr size (putFld (putFld (putFld e 10 1 0) 12 36 (f / 4096)) 8 2 tier) page)
         c page (page + n) (tierCode tier f) ∧
       x.host = m.host ∧ x.held = m.held ∧ Memory.wf x.phys = true ∧
       (∀ k, k < n → Memory.byte x.phys (f + k) = Memory.byte m.phys (pteFrame e + k)) ∧
       (∀ a, a < f ∨ f + n ≤ a → Memory.byte x.phys a = Memory.byte m.phys a)) ∧
     (∀ y, finishMove m c addr tier p = (.error y, w) → ∃ x, x.phys = m.phys ∧ x.host = m.host ∧ x.held = m.held ∧
       w = endMove x c addr size (putFld e 10 1 0) page)) ∧
  (∀ (m w : Module) (c : Fin 64) (lo hi code : Nat) (p : ZPool) (bs : List Byte),
     retierPool m c lo hi code { p with hcount := 0 } = m ∧
     let x := retierPool m c lo hi code p
     let a := p.hbase + 64 * p.hcount
     let h := ofBytes bs
     let named := h ≠ 0 ∧ lo ≤ hBlock h ∧ hBlock h < hi
     let y := retierPool m c lo hi code { p with hcount := p.hcount + 1 }
     (∀ e, loadDev x none none c .read a 64 = .error e → y = x) ∧
     (∀ v, loadDev x none none c .read a 64 = .ok (bs, v) → (¬named → y = x) ∧
       (named → storeDev x none none c a (toBytes 64 (putFld h 136 2 code)) = .ok w → y = w))) ∧
  (∀ (s : State) (r : Rec) (bs : List Byte) (m : Module),
     let c := s.chain
     let k := s.m.chain c
     let d := k.desc.toNat
     (k.fired = none → chLoad s.m c none (recDesc r) 64 = .ok (bs, m) →
       let d := ofBytes bs
       let legal := r.bufs = 0 ∧ dSrc d < 2 ^ 57 ∧ dDst d ≤ 2 ∧ fld d 128 384 = 0
       (¬legal → exec (.mig r) s = .next { s with m := stopChain s.m c 1 0 0 0 }) ∧
       (legal → inProgress s.m (engineOf k) < engineRunCap (engineOf k) → ∃ w,
         exec (.mig r) s = .next { s with m := w } ∧ ChainOnly m w c ∧
         w.chain c = { k with fired := some [], units := 0, desc := BitVec.ofNat 512 d, idxs := [] })) ∧
     (∀ f, k.fired = some f → k.markers = none →
       let behind := fun (n : Nat) (j : Chain) =>
         decide (n = chainKey c) || (decide (j.state = 1) && decide (engineOf j = engineOf k))
       let begun := beginMove s.m k.ctx (dSrc d) behind
       (∀ q, begun = .ok (q, m) → exec (.mig r) s =
         .next { s with m := m.setChain c { m.chain c with markers := some q, old := none } }) ∧
       (begun = .error .busy → exec (.mig r) s = .next s) ∧
       (∀ code sub a, begun = .error (.fault code sub a none) →
         exec (.mig r) s = .next { s with m := stopChain s.m c code sub a 0 })) ∧
     (∀ f ks ws, k.fired = some f → k.markers = some (ks, ws) →
       let waits := (∃ n ∈ ks, (Tbl.get {} s.m.chains n).old ≠ none) ∨ ∃ w ∈ ws, (s.m.strm w).wait = .atomic
       let done := finishMove s.m k.ctx (dSrc d) (dDst d) (chainActor k none)
       (waits → exec (.mig r) s = .next s) ∧
       (¬waits → (∀ n, done = (.ok n, m) → ∃ w, exec (.mig r) s = .next { s with m := w } ∧ ChainOnly m w c ∧
           w.chain c = { m.chain c with
             units := n, markers := none
             done := some { cmd := r, bytes := n, flags := 0, publish := none, release := [] } }) ∧
         (∀ code sub a, done = (.error (.fault code sub a none), m) → exec (.mig r) s =
           .next { s with m := stopChain (m.setChain c { m.chain c with markers := none }) c code sub a 0 })))) ∧
  (∀ (s : State) (d : Fin 16) (fails : Bool) (n : Nat) (c : Fin 64) (a : DevAddr),
     let slot := Tbl.get {} (s.m.die d).services n
     let idle := fun (k : Nat) => serveSlot s.m d k fails = none
     let freed := fun (m : Module) =>
       let y := Tbl.get {} (m.die d).services n
       Tbl.set {} (m.die d).services n ({ clk := y.clk, phases := y.phases } : Service)
     let frees := fun (m t : Module) => DieOnly m t d ∧ t.die d = { m.die d with
       services := freed m }
     let goesOn := fun (m : Module) => ∃ t, exec (.tierFaultService d fails) s = .next { s with m := t } ∧ SameMemory m t ∧
       (t.die d).services = freed m ∧
       (∀ w, slot.who = some w → t.strm w = { m.strm w with paged := false, issued := none }) ∧
       (∀ i, slot.chain = some i → t.chain i = { m.chain i with tier := false })
     let record := slot.trap.getD { code := 6, place := 6, addr := a.setWidth 64 }
     let delivers := fun (m : Module) =>
       (∀ w, slot.who = some w → slot.chain = none → slot.disp = false → (m.strm w).paged = true →
         ∃ t, exec (.tierFaultService d fails) s = .next { s with m := t } ∧ frees (takeTrap m w record) t) ∧
       (∀ i, slot.who = none → slot.chain = some i → slot.disp = false → (m.chain i).tier = true →
         ∃ t, exec (.tierFaultService d fails) s = .next { s with m := t } ∧
           let w := stopChain m i 6 0 a.toNat record.info.toNat
           let e := (w.chain i).record
           frees (w.setChain i { w.chain i with record := { e with w2 := record.stamp.getD e.w2 } }) t) ∧
       (slot.who = none → slot.chain = none → slot.disp = true →
         ∃ t, exec (.tierFaultService d fails) s = .next { s with m := t } ∧ DieOnly m t d ∧ t.die d = { m.die d with
           stuckPages := (c, a) :: (m.die d).stuckPages
           services := freed m })
     let there := fun (e : Nat) => if slot.tier = 0 then pteTier e ≠ 2 else slot.tier ≤ pteTier e
     let move := finishMove s.m c a.toNat slot.tier (serviceActor s.m d n c)
     (slot.dev = none → idle n) ∧
     (slot.dev = some (c, a) → slot.markers = none → walk s.m c a.toNat = .error .busy → idle n) ∧
     ((∀ k, k < 16 → idle k) → exec (.tierFaultService d fails) s = .next s) ∧
     (n < 16 → (∀ k, k < n → idle k) → slot.dev = some (c, a) →
       (slot.markers = none →
         (∀ x, walk s.m c a.toNat = .error x → x ≠ .busy → goesOn s.m) ∧
         (∀ e page size, walk s.m c a.toNat = .ok (e, page, size) → (there e → goesOn s.m) ∧
           (¬there e → ∀ q m, beginMove s.m c a.toNat (fun _ _ => false) = .ok (q, m) →
             ∃ t, exec (.tierFaultService d fails) s = .next { s with m := t } ∧ DieOnly m t d ∧ t.die d = { m.die d with
               services := Tbl.set {} (m.die d).services n { slot with markers := some q } }))) ∧
       (∀ ks ws, slot.markers = some (ks, ws) →
         let waits := (∃ k ∈ ks, (Tbl.get {} s.m.chains k).old ≠ none) ∨ ∃ w ∈ ws, (s.m.strm w).wait = .atomic
         (waits → idle n) ∧
         (¬waits → fails = true → slot.tier = 0 → ∀ e page size, leafEntry s.m c a.toNat = (e, page, size) →
           delivers (endMove s.m c a.toNat size (putFld e 10 1 0) page)) ∧
         (¬waits → fails = false ∨ slot.tier ≠ 0 → (∀ b m, move = (.ok b, m) → goesOn m) ∧
           (∀ x m, move = (.error x, m) → delivers m))))) ∧
  (∀ (s : State) (o : SlotOp) (a n : Nat), s.verdict = .go → s.strm = s.srcStrm → s.src = s.m →
     fetch64 s 5 o.a = .ok a → fetch32 s 5 o.b = .ok n →
     let c := s.core.ctx
     let traps := fun (code : Nat) => ∃ t x, exec (.invm o) s = .next t ∧ t.verdict = .trapped x ∧ x.code = code
     let legal := ctxSelfmap s.m c = true ∧ a % 4096 = 0 ∧ a < 2 ^ 57
     let lo := if n = 0 then 0 else a
     let hi := if n = 0 then 2 ^ 57 else a + 4096 * n
     (ctxSelfmap s.m c = false → traps 2) ∧
     (ctxSelfmap s.m c = true → a % 4096 ≠ 0 → traps 3) ∧
     (ctxSelfmap s.m c = true → a % 4096 = 0 → 2 ^ 57 ≤ a → traps 4) ∧
     (legal → (∀ ks ws, s.strm.wait ≠ .invm ks ws) → ∀ ks ws m,
       placeMarkers s.m c lo hi (fun _ _ => false) = ((ks, ws), m) →
       (ks = [] ∧ ws = [] → Goes (.invm o) s { s with m := m }) ∧
       (¬(ks = [] ∧ ws = []) → exec (.invm o) s = .next { s with
         m := m.setStrm s.cur { m.strm s.cur with wait := .invm ks ws }, verdict := .blocked })) ∧
     (∀ ks ws, legal → s.strm.wait = .invm ks ws →
       let ks' := ks.filter fun n => decide ((Tbl.get {} s.m.chains n).old ≠ none)
       let ws' := ws.filter fun w => decide ((s.m.strm w).wait = .atomic)
       (ks' = [] ∧ ws' = [] → Goes (.invm o) s s) ∧
       (¬(ks' = [] ∧ ws' = []) → exec (.invm o) s = .next { s with
         m := s.m.setStrm s.cur { s.m.strm s.cur with wait := .invm ks' ws' }, verdict := .blocked })))

/-! ### The Kantele array (06 R169 to R184, 03 R91 to R97, 15 R371) -/

/-- 06 R174 to R177: LEAS places a request for 1 to 64 commands and waits until it is granted; another count is ILLEGAL, and
a job that holds or awaits a lease raises LEASE. LREL ends the job's own lease, at once or, while the array has a command in
progress, behind it. A free array with requests in a cluster that no freeze holds grants one that has seen 15 grants, the
oldest such, or else one of the highest priority, nearest from the pointer on; the bank is cleared, the pointer stands
behind the core, and every other request has seen one grant more. A request of a core that a freeze holds is passed over and
stays as it is (15 R365). -/
def Obligations.LeasesAreGrantedByRule : Prop :=
  (∀ (s : State) (o : SlotOp) (n : Nat), s.verdict = .go → s.strm = s.srcStrm → s.src = s.m →
     let c := s.cur.core
     let x := s.m.cluster s.cur.die (clusterOf c)
     (s.strm.wait = .leased → Goes (.leas o) s s) ∧
     (s.strm.wait = .lease → exec (.leas o) s = .next { s with verdict := .blocked }) ∧
     (fetch32 s 5 o.a = .ok n → s.strm.wait = .none →
       let has := (∃ k, x.lease = some (c, k)) ∨ ∃ r ∈ x.reqs, r.core = c
       (n = 0 ∨ 64 < n → ∃ t y, exec (.leas o) s = .next t ∧ t.verdict = .trapped y ∧ y.code = 1) ∧
       (1 ≤ n → n ≤ 64 → has → ∃ t y, exec (.leas o) s = .next t ∧ t.verdict = .trapped y ∧ y.code = 0x13) ∧
       (1 ≤ n → n ≤ 64 → ¬has → ∃ t, exec (.leas o) s = .next t ∧ t.verdict = .blocked ∧
         t.strm = { s.strm with wait := .lease } ∧ t.m.cluster s.cur.die (clusterOf c) = { x with
           reqs := x.reqs ++ [{ core := c, n := n, prio := jobPrio s.core, seen := 0 }] })) ∧
     (∃ t, Goes (.lrel o) s t ∧ ClusterOnly s.m t.m s.cur.die (clusterOf c) ∧
       let y := t.m.cluster s.cur.die (clusterOf c)
       y = { x with lease := y.lease } ∧
       (∀ k, x.lease = some (c, k) →
         y.lease = if arrayBusy s.m s.cur.die (clusterOf c) then some (c, 0) else none) ∧
       ((∀ k, x.lease ≠ some (c, k)) → y.lease = x.lease))) ∧
  (∀ (rr : Fin 16) (reqs : List LeaseReq),
     let dist := fun (r : LeaseReq) => (r.core.val % 16 + 16 - rr.val) % 16
     (chooseLease rr reqs = none ↔ reqs = []) ∧
     (∀ r, chooseLease rr reqs = some r → r ∈ reqs ∧
       ((∃ q ∈ reqs, 15 ≤ q.seen) → 15 ≤ r.seen ∧ ∃ l l', reqs = l ++ r :: l' ∧ ∀ q ∈ l, q.seen < 15) ∧
       ((∀ q ∈ reqs, q.seen < 15) → ∀ q ∈ reqs, q.prio ≤ r.prio ∧ (q.prio = r.prio → dist r ≤ dist q)))) ∧
  (∀ (s : State) (d : Fin 16) (k : Fin 8) (r : LeaseReq),
     let x := s.m.cluster d k
     let frozen := fun (q : LeaseReq) => isFrozen s.m d (.unit d q.core)
     let live := x.reqs.filter fun q => !frozen q
     (chooseLease x.rr live = some r → clusterOf r.core = k → arrayBusy s.m d k = false → isFrozen s.m d (.cluster d k) = false →
       (∀ h n, x.lease = some (h, n) → n = 0) → ∃ w, exec (.leaseGrant d k) s = .next { s with m := w } ∧
         w.cluster d k = { x with
           lease := some (r.core, r.n), bank := [], anchor := 0, rr := Fin.ofNat 16 (r.core.val + 1)
           reqs := (x.reqs.filter fun q => decide (q.core ≠ r.core)).map fun q => if frozen q then q else { q with seen := q.seen + 1 } } ∧
         (∀ n, (s.m.strm ⟨d, r.core, n⟩).wait = .lease →
           w.strm ⟨d, r.core, n⟩ = { s.m.strm ⟨d, r.core, n⟩ with wait := .leased }) ∧
         (∀ v, ¬(v.die = d ∧ v.core = r.core) → w.strm v = s.m.strm v)) ∧
     (live = [] ∨ arrayBusy s.m d k = true ∨ isFrozen s.m d (.cluster d k) = true ∨ (∃ h n, x.lease = some (h, n) ∧ n ≠ 0) →
       exec (.leaseGrant d k) s = .next s))

/-- 03 R91 to R97, 06 R169, R171, R178 to R184, 15 R371: MMP with fields in range, a mask that fits its mode, an array that
accepts it and entries large enough fires on its two inputs; without a lease it stops with LEASE, and without START under
another anchor with ILLEGAL. Performed, every element of its rows and columns takes, in order, one contribution of each
pair of codes, from zero when it starts; no other element changes, and the bytes and releases are its weights' and inputs'.
A contribution that fits adds the exact product scaled from the anchor. One checksum mismatch is logged and the command goes
on; a second one stops it with KCHECK. MDR stores the rounded elements, their status bits behind them and zeros between,
claims its output, and clears the elements it drains when asked; where a store of it stops, the rows written stand and its
units count them. The model's choices: LEASE comes before the anchor's ILLEGAL (log 84), and an MDR that stops with LEASE at
its firing has claimed no entry (log 85). -/
def Obligations.KanteleCommandsAccumulateAndDrain : Prop :=
  (∀ (s : State) (r : Rec) (p : Nat) (m : Module),
     let c := s.chain
     let k := s.m.chain c
     let core := k.core.getD 0
     let anchor : BitVec 8 := if mAreg r then (s.m.core k.die core).anchor else BitVec.ofNat 8 (mAnchor r)
     let same := mStart r = true ∨ anchor = (s.m.cluster k.die (clusterOf core)).anchor
     k.fired = none → mmpOk r = true → planesOf (mMode r) (mMask r) = some p →
     (arrayAccepts (clusterOf core) (mMode r) p = false →
       exec (.mmp r) s = .next { s with m := stopChain s.m c 1 0 0 0 }) ∧
     (arrayAccepts (clusterOf core) (mMode r) p = true → entryTest s.m k (mAcb r) (actBytes r) true = .ok () →
       entryTest s.m k (mWcb r) (wgtBytes r (planeRange (mMode r) p).2) true = .ok () →
       fire s.m c [mAcb r, mWcb r] none = .ok m →
       (leaseTest s.m k ≠ .ok () → exec (.mmp r) s = .next { s with m := stopChain s.m c 0x13 0 0 0 }) ∧
       (leaseTest s.m k = .ok () → ¬same → exec (.mmp r) s = .next { s with m := stopChain s.m c 1 0 0 0 }) ∧
       (leaseTest s.m k = .ok () → same → ∃ w, exec (.mmp r) s = .next { s with m := w } ∧ ChainOnly m w c ∧
         w.chain c = { m.chain c with desc := 0, idxs := [anchor.setWidth 32] }))) ∧
  (∀ (s : State) (r : Rec) (f : List (Nat × W32)) (p : Nat) (act scales : List Byte) (planes : List (List Nat))
     (m m1 : Module),
     let c := s.chain
     let k := s.m.chain c
     let kl := clusterOf (k.core.getD 0)
     let a := firedEntry s.m k (mAcb r)
     let wt := firedEntry s.m k (mWcb r)
     let np := (planeRange (mMode r) p).2
     let x := s.m.cluster k.die kl
     let anchor : BitVec 8 := (k.idxs.getD 0 0).setWidth 8
     k.fired = some f → planesOf (mMode r) (mMask r) = some p → mN r ≤ 512 →
     chLoad s.m c (some (a.1, a.2.1)) a.2.2 (actBytes r) = .ok (act, m) →
     loadImageOf m c (wt.1, wt.2.1) wt.2.2 (mStride r) (mBlocks r) np = .ok (planes, scales, m1) →
     (x.mismatches ≤ 1 → ∃ w, exec (.mmp r) s = .next { s with m := w } ∧
       let y := w.cluster k.die kl
       y = { x with anchor := anchor, bank := y.bank, mismatches := 0 } ∧
       (∀ row n, row < mCc r * mM r → n < mN r → Tbl.get {} y.bank (row * 512 + n) =
         ((List.range (mKb r)).flatMap fun kb => blockTerms (mMode r) p (actBlock r act row kb)
           (wgtBlock r (planeRange (mMode r) p).1 planes scales n kb)).foldl (fun e t => e.add (anchorOf anchor) t)
           (if mStart r then {} else Tbl.get {} x.bank (row * 512 + n))) ∧
       (∀ i, ¬(i / 512 < mCc r * mM r ∧ i % 512 < mN r) → Tbl.get {} y.bank i = Tbl.get {} x.bank i) ∧
       w.chain c = { k with
         units := mCc r * mM r
         done := some {
           cmd := r, bytes := wgtBytes r np, publish := none, flags := if mmpBad r act scales then fBAD else 0
           release := releasedBy k ((if mKeepA r then [] else [mAcb r]) ++ (if mKeepW r then [] else [mWcb r])) } } ∧
       (x.mismatches = 0 → (w.die k.die).klog = (s.m.die k.die).klog) ∧
       (x.mismatches = 1 → ∃ e, (w.die k.die).klog = (e :: (s.m.die k.die).klog).take 16)) ∧
     (2 ≤ x.mismatches → ∃ w, exec (.mmp r) s = .next { s with m := w } ∧ (w.chain c).state = 4 ∧
       fld (w.chain c).record.w0.toNat 0 8 = 0x0E ∧ (w.cluster k.die kl).bank = x.bank)) ∧
  (∀ (x : Acc) (anchor n e : Int), x.nan = false → x.ovf = false → 0 ≤ e - anchor + 64 →
     let v := x.a.toInt + n * 2 ^ (e - anchor + 64).toNat
     let y := x.add anchor (some (n, e))
     (-(2 : Int) ^ 127 ≤ v → v < 2 ^ 127 → y.a.toInt = v ∧ y = { x with a := y.a }) ∧
     ((2 : Int) ^ 127 ≤ v → y.a.toInt = 2 ^ 127 - 1 ∧ y.ovf = true) ∧
     (v < -(2 : Int) ^ 127 → y.a.toInt = -2 ^ 127 ∧ y.ovf = true) ∧
     (x.add anchor none).nan = true) ∧
  (∀ (s : State) (r : Rec) (m : Module),
     let c := s.chain
     let k := s.m.chain c
     let kl := clusterOf (k.core.getD 0)
     let x := s.m.cluster k.die kl
     (k.fired = none → mdrOk r = false → exec (.mdr r) s = .next { s with m := stopChain s.m c 1 0 0 0 }) ∧
     (k.fired = none → mdrOk r = true → entryTest s.m k (rOcb r) (rData r + rStatus r) false = .ok () →
       fire s.m c [] (some (rOcb r)) = .ok m →
       (leaseTest s.m k = .ok () → exec (.mdr r) s = .next { s with m := m }) ∧
       (leaseTest s.m k ≠ .ok () → exec (.mdr r) s = .next { s with m := stopChain s.m c 0x13 0 0 0 })) ∧
     (∀ f, k.fired = some f → rN r ≤ 512 →
       let o := firedEntry s.m k (rOcb r)
       let elem := fun (i : Nat) => Tbl.get {} x.bank (i / rN r * 512 + i % rN r)
       let value := fun (i : Nat) =>
         if (elem i).nan then ((fmtOf (rType r)).qnan, 0)
         else if (elem i).a = 0 then ((fmtOf (rType r)).zero false, 0)
         else rndDy (fmtOf (rType r)) 0 ⟨(elem i).a.toInt, anchorOf x.anchor - 64⟩
       let all := List.range (rR r * rN r)
       let data := all.flatMap fun i => toBytes (tyBytes (rType r)) (value i).1
       let bits := (all.map fun i => ((if (elem i).inexact then 1 else 0) + if (elem i).ovf then 2 else 0) * 4 ^ i).sum
       let store := chStore s.m c (some (o.1, o.2.1)) o.2.2
         (data ++ List.replicate (rData r - data.length) 0 ++ toBytes (rStatus r) bits)
       (∀ w n code sub a st, store = .error (.after w n (.stop code sub a st none)) → exec (.mdr r) s = .next { s with
         m := stopChain (w.setChain c { w.chain c with units := min (rR r) (n / (rN r * tyBytes (rType r))) }) c code sub a st }) ∧
       (store = .ok m → ∃ w, exec (.mdr r) s = .next { s with m := w } ∧
         w.chain c = { k with
           units := rR r
           done := some { cmd := r, bytes := rData r + rStatus r, publish := some o.1, release := []
                          flags := orFlags (all.map fun i => (value i).2) } } ∧
         let y := w.cluster k.die kl
         (rClr r = false → y = x) ∧
         (rClr r = true → y = { x with bank := y.bank } ∧ ∀ i, Tbl.get {} y.bank i =
           if i / 512 < rR r ∧ i % 512 < rN r then {} else Tbl.get {} x.bank i))))

/-! ### The attention cache (09 R277 to R284, 14 R330, R342) -/

/-- 09 R277 to R284, 14 R342: a descriptor that breaks R279 stops an attention command with ILLEGAL. KTR and KFK that start,
or go on, are performed once their list has been cut, or forked with the new head stored; KAP once its token stands,
releasing its input; ATN writes one row for each query, over the tokens below N and those whose mask bit is set, a NaN row
when none is visible. A token is stored behind the fill of a header with room, which counts one more; a cut to no fewer
tokens than the list holds changes nothing, a cut inside the first header sets its fill and ends the list there; a fork of
one header takes a free one, counts its block once more and copies the header with its fill cut, marked copy-on-write unless
the block stays full. The model's choices: a list that runs in a circle keeps its command waiting (log 49), the auxiliary
word of KAP, KTR and KFK is not tested and n = 0 empties a list or makes an empty fork (log 50), and the bytes of the stack
area are free values (log 70). -/
def Obligations.AttentionCommandsKeepTheirLists : Prop :=
  (∀ (s : State) (r : Rec) (bs : List Byte) (m : Module), (s.m.chain s.chain).fired = none →
     chLoad s.m s.chain none (recDesc r) 64 = .ok (bs, m) →
     let stops := fun (i : Instr) => exec i s = .next { s with m := stopChain s.m s.chain 1 0 0 0 }
     (zDescOk true (ofBytes bs) = false → stops (.atn r)) ∧
     (zDescOk false (ofBytes bs) = false → stops (.kap r) ∧ stops (.ktr r) ∧ stops (.kfk r))) ∧
  (∀ (s : State) (r : Rec) (f : List (Nat × W32)) (bs : List Byte) (m0 m1 m : Module) (q : ZActor),
     let c := s.chain
     let k := s.m.chain c
     let d := (m1.chain c).desc.toNat
     let starts := k.fired = none ∧ chLoad s.m c none (recDesc r) 64 = .ok (bs, m0) ∧ bs.length = 64 ∧
       zDescOk false (ofBytes bs) = true ∧ r.bufs = 0 ∧ inProgress s.m (engineOf k) < engineRunCap (engineOf k) ∧
       m1 = m0.setChain c { k with
         fired := some [], units := 0, desc := BitVec.ofNat 512 (ofBytes bs), idxs := [] }
     let ends := fun (i : Instr) (n : Module) => ∃ w, exec i s = .next { s with m := w } ∧ ChainOnly n w c ∧
       w.chain c = { m1.chain c with
         units := zN d, done := some { cmd := r, bytes := 0, flags := 0, publish := none, release := [] } }
     starts ∨ (k.fired = some f ∧ m1 = s.m) → zActorOf m1 c = .ok q →
     (cutList q m1 (zHead d) (zN d) = .ok m → ends (.ktr r) m) ∧
     (chRange m1 (m1.chain c) (zAux d) 8 = true → ∀ g n, forkList q m1 (zHead d) (zN d) = .ok (g, n) →
       chStore n c none (zAux d) (toBytes 8 g) = .ok m → ends (.kfk r) m)) ∧
  (∀ (s : State) (r : Rec) (f : List (Nat × W32)) (bs : List Byte) (m n : Module) (q : ZActor),
     let c := s.chain
     let k := s.m.chain c
     let d := k.desc.toNat
     let e := firedEntry s.m k (recIn r)
     k.fired = some f → zActorOf s.m c = .ok q → zN d = 1 → k.units = 0 →
     chLoad s.m c (some (e.1, e.2.1)) e.2.2 (4 * zDh d) = .ok (bs, m) → bs.length = 4 * zDh d →
     appendToken q m (zHead d) (zDh d) bs = .ok n → ∃ w, exec (.kap r) s = .next { s with m := w } ∧ ChainOnly n w c ∧
       w.chain c = { k with
         units := 1
         done := some { cmd := r, bytes := 4 * zDh d, flags := 0, publish := none
                        release := releasedBy k [recIn r] } }) ∧
  (∀ (s : State) (r : Rec) (f : List (Nat × W32)) (qs ms : List Byte) (hs : List (Nat × Nat)) (toks : List (Nat × KV))
     (m1 m2 m3 m4 m5 : Module) (q : ZActor),
     let c := s.chain
     let k := s.m.chain c
     let d := k.desc.toNat
     let e := firedEntry s.m k (recIn r)
     let u := firedEntry s.m k (recOut r)
     let row := fun (i : Nat) => attendRow (zScale d) (zDh d) (halves (zDh d) (qs.drop (i * zDh d * 2)))
       ((toks.filter fun t => decide (t.1 < zN d) || (decide (t.1 < zN d + 64) &&
         bitAt (ofBytes ((ms.drop (8 * i)).take 8)) (t.1 - zN d))).map Prod.snd)
     let rows := (List.range (zQ d)).map row
     k.fired = some f → zActorOf s.m c = .ok q →
     chLoad s.m c (some (e.1, e.2.1)) e.2.2 (zQ d * zDh d * 2) = .ok (qs, m1) →
     chLoad m1 c none (zAux d) (8 * zQ d) = .ok (ms, m2) → listAt q m2 (zHead d) = .ok (hs, m3) →
     ((hs.foldr insertHeader []).foldlM (fun (a : List (Nat × KV) × Module) h => do
       let (ts, m) ← headerTokens q (zDh d) a.2 h
       .ok (a.1 ++ ts, m)) ([], m3) : ZM _) = .ok (toks, m4) →
     chStore m4 c (some (u.1, u.2.1)) u.2.2 (rows.flatMap fun x => x.1.flatMap (toBytes 4)) = .ok m5 →
     ∃ w, exec (.atn r) s = .next { s with m := w } ∧ ChainOnly m5 w c ∧ w.chain c = { k with
       units := toks.length
       done := some { cmd := r, bytes := zQ d * zDh d * 4, flags := orFlags (rows.map Prod.snd), publish := some u.1
                      release := releasedBy k [recIn r] } }) ∧
  (∀ scale dh qrow, attendRow scale dh qrow [] = (List.replicate dh 0x7FC00000, 0)) ∧
  (∀ (q : ZActor) (m m0 m1 m2 : Module) (head a h n dh : Nat) (t : List Byte), listAt q m head = .ok ([(a, h)], m0) →
     h < 2 ^ 512 →
     (hFill h < 16 → hCow h = false → zStore q m0 a (hBlock h + hFill h * (4 * dh)) t = .ok m1 →
       (∀ h', h' < 2 ^ 512 → hFill h' = hFill h + 1 → withFill h' 0 = withFill h 0 →
         zStore q m1 a a (toBytes 64 h') = .ok m2 → appendToken q m head dh t = .ok m2)) ∧
     (hFill h ≤ n → cutList q m head n = .ok m0) ∧
     (hFirst h = 0 → n < hFill h → zStore q m0 a a (toBytes 64 (withNext (withFill h n) 0)) = .ok m1 →
       cutList q m head n = .ok m1) ∧
     (∀ g, hFirst h = 0 → 0 < n → n ≤ hFill h → hFill h ≤ 16 → takeHeader q m0 a = .ok (g, m1) →
       incCount q m1 a (hBlock h) = .ok m2 →
       let copy := if n < 16 then withCow (withFill (withNext h 0) n) true else withFill (withNext h 0) n
       ∀ m3, zStore q m2 g g (toBytes 64 copy) = .ok m3 → forkList q m head n = .ok (g, m3)))

/-! ### Passes of the chain engine (05 R164 to R168, 09 R276) -/

/-- 05 R164 to R168, 09 R276: CHN with jord 0, an aligned and legal descriptor, a granted and valid slot, both ranges in one
scratchpad each and room in the queue queues its pass with the views of its job and the constants that it uses, takes a hold
on the slot's phase and releases; a bad descriptor or a jord above 0 is ILLEGAL, a full queue keeps the bundle from issuing
before its descriptor is read. The oldest pass runs its elements in order, writes its status behind them and delivers its
bytes with its hold; one that faults delivers nothing and gives the hold back. PAS starts once no accepted pass is left, and
ends with the same status. One element passes through the op words with the source, the running value, a constant or a
literal; an op word computes what the V op or the special function of its code computes in f32. The model's choices: what a
pass reads at once and where it stops (log 42, log 48); an s or m register names the descriptor with all its bits (log 68);
a pass of CHN that stops is reported by nothing (log 83); what a release of module scope waits for beside the scrubber (log
90). -/
def Obligations.PassesRunTheirWords : Prop :=
  (∀ (s u : State) (o : SlotOp) (bs : List Byte), s.verdict = .go → s.strm = s.srcStrm → s.src = s.m →
     let dst := s.cur.die
     let at_ := addrOf s o.a
     let d := ofBytes bs
     let slot : Fin 256 := Fin.ofNat 256 (pSlot d)
     let cl := clusterOf s.cur.core
     let traps := fun (code : Nat) => ∃ t x, exec (.chn o) s = .next t ∧ t.verdict = .trapped x ∧ x.code = code
     (s.strm.jord ≠ 0 → traps 1) ∧
     let full := 8 ≤ (s.m.cluster dst cl).passes.length
     (s.strm.jord = 0 → full → exec (.chn o) s = .next { s with verdict := .unissued }) ∧
     (s.strm.jord = 0 → ¬full → at_ % 64 ≠ 0 → traps 3) ∧
     (s.strm.jord = 0 → ¬full → at_ % 64 = 0 → memLoad 5 at_ 64 s = .ok (bs, u) →
       (passOk d = false → traps 1) ∧
       (passOk d = true → (s.m.barrier dst slot).valid = false → traps 1) ∧
       (passOk d = true → (s.m.barrier dst slot).valid = true → grantSlot s.m s.core.ctx (pSlot d) = false → traps 2) ∧
       (passOk d = true → grantSlot s.m s.core.ctx (pSlot d) = true → (s.m.barrier dst slot).valid = true →
         (∀ x, passRanges s.m s.core.ctx true d = some x → traps 4) ∧
         (passRanges s.m s.core.ctx true d = none → constWaits s.core d = false →
           releaseWaits u.src s.cur true = false →
             ∃ t, Goes (.chn o) s t ∧ ReleasedBy u t ∧ SameMemory s.m t.m ∧
               t.m.barrier dst slot = { s.m.barrier dst slot with pend := (s.m.barrier dst slot).pend + 1 } ∧
               t.m.cluster dst cl = { s.m.cluster dst cl with passes := (s.m.cluster dst cl).passes ++ [{
                 who := s.cur, ctx := s.core.ctx, at_ := BitVec.ofNat 48 at_, desc := BitVec.ofNat 512 d, slot := slot
                 phase := (s.m.barrier dst slot).phase
                 views := { die := dst, party := s.cur.core.val, clk := u.core.clk, phases := u.core.phases
                            bufs := u.core.bufs, handles := u.core.cb }
                 consts := (List.range (pNops d)).map fun w =>
                   if wX (pOp d w) = 2 ∨ wY (pOp d w) = 2 then Tbl.get 0 s.core.kbank (wVal (pOp d w)) else 0 }] })))) ∧
  (∀ (s : State) (die : Fin 16) (cl : Fin 8) (p : Pass) (ps : List Pass) (m n : Module) (fl : Flags) (j : Nat),
     let d := p.desc.toNat
     let b := fun (x : Module) => x.barrier die p.slot
     let done := fun (x : Module) (bytes : Nat) => ∃ w, exec (.passComplete die cl) s = .next { s with m := w } ∧
       (w.cluster die cl).passes = ps ∧ w.phys = x.phys ∧ w.host = x.host ∧
       b w = Barrier.settle (fun φ => !flipStalls x die p.slot.val φ) 3 ((b x).deliver p.phase bytes true)
     let run := passLoop p.actor p.ctx die (some p.who.core) d p.consts (pCount d) 0 0 s.m
     ((s.m.cluster die cl).passes = [] ∨ isFrozen s.m die (.cluster die cl) = true →
       exec (.passComplete die cl) s = .next s) ∧
     ((s.m.cluster die cl).passes = p :: ps → isFrozen s.m die (.cluster die cl) = false →
       (run = (m, fl, j, none) → storeLocal m (some p.actor) p.ctx die (some p.who.core) (p.at_.toNat + 24)
           (toBytes 4 (2 ^ 31 + fl.toNat % 32)) = .ok n → done n (pCount d * pOutBytes d + 4)) ∧
       (∀ code sub x, run = (m, fl, j, some (.fault code sub x none)) → done m 0))) ∧
  (∀ (s : State) (r : Rec) (bs : List Byte) (m n : Module) (co : Fin 128),
     let c := s.chain
     let k := s.m.chain c
     let d := ofBytes bs
     (k.fired = none → k.core = some co → chLoad s.m c none (recDesc r) 64 = .ok (bs, m) →
       (r.bufs ≠ 0 ∨ passOk d = false ∨ pSlot d ≠ k.slot.val →
         exec (.pas r) s = .next { s with m := stopChain s.m c 1 0 0 0 }) ∧
       (r.bufs = 0 → passOk d = true → pSlot d = k.slot.val → passRanges s.m k.ctx true d = none →
         ((s.m.cluster k.die (clusterOf co)).passes ≠ [] → exec (.pas r) s = .next s) ∧
         ((s.m.cluster k.die (clusterOf co)).passes = [] → constWaits (s.m.core k.die co) d = false →
           inProgress s.m (engineOf k) < engineRunCap (engineOf k) → ∃ w, exec (.pas r) s = .next { s with m := w } ∧
             ChainOnly m w c ∧
             w.chain c = { k with fired := some [], units := 0, desc := BitVec.ofNat 512 d, idxs := [0] }))) ∧
     (∀ f fl j, k.fired = some f → k.core = some co → k.units = 0 → k.idxs = [0] →
       let e := k.desc.toNat
       passLoop (chainActor k none) k.ctx k.die k.core e (passConsts (s.m.core k.die co) e) (pCount e) 0 0 s.m =
         (m, fl, j, none) →
       chStore (m.setChain c { k with units := j * pOutBytes e, idxs := [fl.setWidth 32] }) c none (recDesc r + 24)
         (toBytes 4 (2 ^ 31 + fl.toNat % 32)) = .ok n →
       ∃ w, exec (.pas r) s = .next { s with m := w } ∧ ChainOnly n w c ∧ w.chain c = { k with
         units := j * pOutBytes e, idxs := [fl.setWidth 32]
         done := some { cmd := r, bytes := pCount e * pOutBytes e + 4, flags := 0, publish := none, release := [] } })) ∧
  (∀ (p : Actor) (ctx : Fin 64) (die : Fin 16) (core : Option (Fin 128)) (d i n : Nat) (consts : List W32) (fl : Flags)
     (bs : List Byte) (m m1 m2 : Module),
     let v := passEval d consts (ofBytes bs)
     passLoop p ctx die core d consts 0 i fl m = (m, fl, i, none) ∧
     (loadLocal m (some p) ctx die core (pIns d + i * pInBytes d) (pInBytes d) = .ok (bs, m1) →
       storeLocal m1 (some p) ctx die core (pDst d + i * pOutBytes d) (toBytes (pOutBytes d) v.1) = .ok m2 →
       passLoop p ctx die core d consts (n + 1) i fl m = passLoop p ctx die core d consts n (i + 1) (fl ||| v.2) m2)) ∧
  (∀ (d e : Nat) (consts : List W32),
     let x := widenF (passTy (pIn d)) e
     let last := fun (v : Nat × Flags) =>
       ((cvtB .f32 (fmtOf (passTy (pOut d))) (pRnd d) v.1).1, v.2 ||| (cvtB .f32 (fmtOf (passTy (pOut d))) (pRnd d) v.1).2)
     let word := fun (w : Nat) (run k : Nat) => if wX (pOp d w) = 0 then passAlu (wOp (pOp d w)) (pRnd d) x k
       else passAlu (wOp (pOp d w)) (pRnd d) run k
     (pNops d = 1 → wX (pOp d 0) = 0 → wY (pOp d 0) = 3 →
       passEval d consts e = last (word 0 x (wVal (pOp d 0) * 2 ^ 16))) ∧
     (pNops d = 2 → wX (pOp d 0) = 0 → wY (pOp d 0) = 2 → wX (pOp d 1) = 1 → wY (pOp d 1) = 0 →
       let y := word 0 x (consts.getD 0 0).toNat
       passEval d consts e = last ((word 1 y.1 x).1, y.2 ||| (word 1 y.1 x).2))) ∧
  (∀ (o : SlotOp) (mode : Nat), o.ty = .f32 → ∀ e ∈ ([(0x20, .faddF32 o), (0x23, .fsubF32 o), (0x26, .fmulF32 o),
       (0x2C, .fdivF32 o), (0x2F, .fminF32 o), (0x32, .fmaxF32 o), (0x35, .fabs o), (0x36, .fneg o), (0x68, .fexp o),
       (0x69, .fexp2 o), (0x6A, .flog o), (0x6B, .flog2 o), (0x6C, .frcp o), (0x6D, .fsqt o), (0x6E, .frsq o),
       (0x6F, .ftnh o), (0x70, .fsig o), (0x71, .fglu o), (0x72, .fsin o), (0x73, .fcos o)] : List (Nat × Instr)),
     ∃ r, floatElem mode e.2 = some r ∧ r.td = .f32 ∧ ∀ x y z, passAlu e.1 mode x y = r.f x y z)

/-! ### Sequence managers (11 R314 to R320) -/

/-- 11 R314 to R320: SQRS opens the request of a legal image under the lowest free number, answers all ones when none is
free, and refuses any other image with ILLEGAL; SQPM stores the image back and closes the request; an image read and written
is the same. SQTR keeps a legal tree, SQRB shortens the request and cuts its list, SQST reads its state or 0. SQAC walks the
tree by its rule: from each node the first child that the rule takes, in ascending index, until none is taken or left; a
stochastic draw compares exactly and leaves the rest of the distribution, and a sampled correction is the first token whose
running sum exceeds its draw (a sum beyond FP32 leaves it a free value, log 16). With the greedy rule and one draft node
accepts it when its token is the largest of its row and then corrects with the largest of the next row, else it stops at the
root; the length grows by what is accepted in line, and the tree is gone. A request of another context is PRIV, a number
beyond the table or not open ILLEGAL. -/
def Obligations.SequenceRequestsAreJudgedInOrder : Prop :=
  (∀ (s : State) (o : SlotOp) (n : Nat), s.verdict = .go → s.strm = s.srcStrm → s.src = s.m → fetch64 s 5 o.a = .ok n →
     let d := s.cur.die
     let traps := fun (i : Instr) (code : Nat) => ∃ t x, exec i s = .next t ∧ t.verdict = .trapped x ∧ x.code = code
     let sync := fun (u : State) (r : SeqReq) => Clock.join r.clk (releaseClock u.m d s.cur.core)
     let synced := fun (u t : State) (r : SeqReq) =>
       t.core.clk = ((acquire (afterRelease u.m d s.cur.core) d s.cur.core (sync u r)).core d s.cur.core).clk
     let named : Instr → Prop := fun i => i = .sqtr o ∨ i = .sqac o ∨ i = .sqrb o ∨ i = .sqpm o
     (2048 ≤ n → traps (.sqst o) 1) ∧ (n < 2048 → getReq s.m d n = none → WritesScalar s (.sqst o) o.dst 0 0) ∧
     (2048 ≤ n ∨ getReq s.m d n = none → ∀ i, named i → traps i 1) ∧
     (∀ r, n < 2048 → getReq s.m d n = some r → r.ctx ≠ s.core.ctx →
       traps (.sqst o) 2 ∧ ∀ i, named i → traps i 2) ∧
     (∀ r, n < 2048 → getReq s.m d n = some r → r.ctx = s.core.ctx →
       WritesScalar s (.sqst o) o.dst (2 ^ 40 + r.rule * 2 ^ 38 + r.nodes.length * 2 ^ 32 + r.length.toNat) 0 ∧
       (addrOf s o.b % 64 = 0 → ∀ u, memStore 5 (addrOf s o.b) (toBytes 64 (reqImage r)) s = .ok u →
         releaseWaits u.src s.cur false = false → ∃ t, Goes (.sqpm o) s t ∧ synced u t r ∧
           getReq t.m d n = none ∧ dstReads t o.dst = dstKeeps o.dst 0 ∧ t.m.phys = u.m.phys ∧
           t.core.unitMem = u.core.unitMem) ∧
       (∀ len u, fetch32 s 5 o.b = .ok len → len ≤ r.length.toNat → cutChain s r len = .ok u → ∃ t, Goes (.sqrb o) s t ∧
         getReq t.m d n = some { r with length := BitVec.ofNat 32 len, tree := none } ∧ t.m.phys = u.m.phys) ∧
       (∀ len, fetch32 s 5 o.b = .ok len → r.length.toNat < len → traps (.sqrb o) 1) ∧
       (r.tree ≠ none → traps (.sqtr o) 1) ∧ (r.tree = none → traps (.sqac o) 1) ∧
       (∀ hb eb u v ns, r.tree = none → addrOf s o.b % 64 = 0 → memLoad 5 (addrOf s o.b) 64 s = .ok (hb, u) →
         let h := ofBytes hb
         let nn := fld h 64 6
         fld h 48 16 = 0 → fld h 70 26 = 0 → fld h 128 384 = 0 → 1 ≤ nn → nn ≤ 32 →
         strideOk r.vocab.toNat (fld h 96 32) = true → memLoad 5 (addrOf s o.b + 64) (8 * nn) u = .ok (eb, v) →
         treeNodes r.vocab.toNat [] ((List.range nn).map fun k => ofBytes ((eb.drop (8 * k)).take 8)) = some ns →
         releaseWaits v.src s.cur false = false → ∃ t, Goes (.sqtr o) s t ∧ synced v t r ∧
           dstReads t o.dst = dstKeeps o.dst 0 ∧ getReq t.m d n = some { r with
             clk := sync v r, tree := some (ns, BitVec.ofNat 48 (fld h 0 48), BitVec.ofNat 32 (fld h 96 32)) }) ∧
       (∀ hb u v z tok pd dr ds p0 p1, r.rule = 0 → r.tree = some ([(tok, 31, pd)], dr, ds) → addrOf s o.b % 64 = 0 →
         memLoad 5 (addrOf s o.b) 64 s = .ok (hb, u) →
         let h := ofBytes hb
         fld h 48 48 = 0 → fld h 128 384 = 0 → strideOk r.vocab.toNat (fld h 96 32) = true →
         readRows u (fld h 0 48) (fld h 96 32) r.vocab.toNat [0, 1] = .ok ([p0, p1], v) →
         releaseWaits v.src s.cur false = false →
         let hit := argmaxRow p0 = tok
         let len := r.length + if hit then 1 else 0
         let r' := { r with length := len, tree := none, clk := sync v r }
         cutChain (jobAcquire (sync v r) (jobReleased v)) r' len.toNat = .ok z → ∃ t, Goes (.sqac o) s t ∧
           getReq t.m d n = some r' ∧ t.m.phys = z.m.phys ∧
           dstReads t o.dst = dstKeeps o.dst (if hit then 2 ^ 28 + 2 ^ 24 + argmaxRow p1 else 31 * 2 ^ 32 + argmaxRow p0)) ∧
       (∀ hb u v w z ns dr ds full draft, r.tree = some (ns, dr, ds) → addrOf s o.b % 64 = 0 →
         memLoad 5 (addrOf s o.b) 64 s = .ok (hb, u) →
         let h := ofBytes hb
         let rows := List.range (ns.length + 1)
         fld h 48 48 = 0 → fld h 128 384 = 0 → strideOk r.vocab.toNat (fld h 96 32) = true →
         readRows u (fld h 0 48) (fld h 96 32) r.vocab.toNat rows = .ok (full, v) →
         (if r.rule = 2 then readRows v dr.toNat ds.toNat r.vocab.toNat rows else .ok ([], v)) = .ok (draft, w) →
         let j := judgeLoop r (fun k => full.getD k []) (fun k => draft.getD k []) w.m 9 { draws := r.draws.toNat }
         let x : State := { w with m := j.2.2 }
         releaseWaits x.src s.cur false = false →
         let r' := { r with
           length := r.length + BitVec.ofNat 32 j.1.c, tree := none, clk := sync x r, draws := BitVec.ofNat 64 j.1.draws }
         cutChain (jobAcquire (sync x r) (jobReleased x)) r' r'.length.toNat = .ok z → ∃ t, Goes (.sqac o) s t ∧
           getReq t.m d n = some r' ∧ t.m.phys = z.m.phys ∧
           dstReads t o.dst = dstKeeps o.dst (j.1.node.getD 31 * 2 ^ 32 + j.1.c * 2 ^ 28 + j.1.k * 2 ^ 24 + j.2.1)))) ∧
  (∀ (ns : List (Nat × Nat × W32)) (node : Option Nat) (e : Nat × Nat × W32), (∀ n, node = some n → n < 31) →
     (e ∈ kidsOf ns node ↔ ns[e.1]? = some (e.2.1, node.getD 31, e.2.2)) ∧
     ((kidsOf ns node).map Prod.fst).Pairwise (· < ·)) ∧
  (∀ (r : SeqReq) (full draft : Nat → List Nat) (m : Module) (k : Nat) (j : Judge),
     let kids := kidsOf r.nodes j.node
     let p := full j.row
     let best := argmaxRow p
     let val := fun (x : Nat) => dyQ (rowVal x)
     let loop := judgeLoop r full draft m (k + 1) j
     let stops := fun (p : List Nat) (draws : Nat) => let c := sampleRow m r.key.toNat draws p (full j.row)
       loop = if r.rule = 2 then ({ j with draws := c.2.1 }, c.1, c.2.2) else ({ j with draws := draws }, argmaxRow p, m)
     let goes := fun (i draws : Nat) =>
       let on := j.inchain && decide (i = j.k)
       let j' : Judge := { node := some i, row := i + 1, k := j.k + 1, c := if on then j.k + 1 else j.c, inchain := on
                           draws := draws }
       let c := sampleRow m r.key.toNat draws (full (i + 1)) (full (i + 1))
       loop = if kidsOf r.nodes (some i) ≠ [] then judgeLoop r full draft m k j'
         else if r.rule = 2 then ({ j' with draws := c.2.1 }, c.1, c.2.2) else (j', argmaxRow (full (i + 1)), m)
     let takes := fun (f : Nat × Nat × W32 → Prop) =>
       ((∀ e ∈ kids, ¬f e) → stops p j.draws) ∧
       ∀ a e b, kids = a ++ e :: b → (∀ x ∈ a, ¬f x) → f e → goes e.1 j.draws
     (r.rule = 0 → takes fun e => e.2.1 = best) ∧
     (r.rule = 1 → takes fun e => val r.tau.toNat * val (p.getD best 0) ≤ val (p.getD e.2.1 0)) ∧
     (r.rule = 2 → let x := stochPick r.key.toNat (draft j.row) kids p j.draws
       (x.1 = none → stops x.2.1 x.2.2) ∧ ∀ i, x.1 = some i → goes i x.2.2)) ∧
  (∀ (key draws i tok : Nat) (pd : W32) (q p : List Nat) (kids : List (Nat × Nat × W32)),
     let picks := stochPick key q ((i, tok, pd) :: kids) p draws
     let u : ℚ := ((randElem .i64 0 key draws 0 / 2 ^ 40 : Nat) : ℚ) / 2 ^ 24
     let val := fun (x : Nat) => dyQ (rowVal x)
     stochPick key q [] p draws = (none, p, draws) ∧
     (val pd.toNat = 0 → picks = (some i, p, draws)) ∧
     (val pd.toNat ≠ 0 → u * val pd.toNat < val (p.getD tok 0) → picks = (some i, p, (draws + 1) % 2 ^ 64)) ∧
     (val pd.toNat ≠ 0 → val (p.getD tok 0) ≤ u * val pd.toNat →
       ∃ p', picks = stochPick key q kids p' ((draws + 1) % 2 ^ 64) ∧ p'.length = min p.length q.length ∧
         ∀ k, k < p'.length →
           let y := (fsubB .f32 0 (p.getD k 0) (q.getD k 0)).1
           p'.getD k 0 = if y < 0x7F800000 then y else 0)) ∧
  (∀ (m : Module) (key draws : Nat) (p full : List Nat), (∀ x ∈ p ++ full, x < 0x7F800000) →
     let sum := fun (row : List Nat) (k : Nat) => (row.take (k + 1)).foldl (fun a x => (faddB .f32 0 a x).1) 0
     let total := fun (row : List Nat) => sum row (row.length - 1)
     let drawn := sampleRow m key draws p full
     let u : ℚ := ((randElem .i64 0 key draws 0 / 2 ^ 40 : Nat) : ℚ) / 2 ^ 24
     let val := fun (x : Nat) => (unpack .f32 x).q
     let from_ := fun (row : List Nat) => (unpack .f32 (total row)).num → ∃ t, drawn = (t, (draws + 1) % 2 ^ 64, m) ∧
       t < row.length ∧ u * val (total row) < val (sum row t) ∧ ∀ k, k < t → val (sum row k) ≤ u * val (total row)
     (total p ≠ 0 → from_ p) ∧ (total p = 0 → total full ≠ 0 → from_ full) ∧
     (total p = 0 → total full = 0 → drawn = (0, draws, m))) ∧
  (∀ (s u : State) (o : SlotOp) (bs : List Byte), s.verdict = .go → s.strm = s.srcStrm → s.src = s.m →
     addrOf s o.a % 64 = 0 → memLoad 5 (addrOf s o.a) 64 s = .ok (bs, u) →
     (imageReq s.core.ctx (ofBytes bs) = none → ∃ t x, exec (.sqrs o) s = .next t ∧ t.verdict = .trapped x ∧ x.code = 1) ∧
     (∀ r n, imageReq s.core.ctx (ofBytes bs) = some r → n < 2048 → getReq s.m s.cur.die n = none →
       (∀ k, k < n → getReq s.m s.cur.die k ≠ none) → releaseWaits u.src s.cur false = false →
       ∃ t, Goes (.sqrs o) s t ∧
         getReq t.m s.cur.die n = some { r with clk := Clock.join r.clk (releaseClock u.m s.cur.die s.cur.core) } ∧
         dstReads t o.dst = dstKeeps o.dst n) ∧
     (∀ r, imageReq s.core.ctx (ofBytes bs) = some r → (∀ k, k < 2048 → getReq s.m s.cur.die k ≠ none) →
       ∃ t, Goes (.sqrs o) s t ∧ dstReads t o.dst = dstKeeps o.dst (2 ^ 64 - 1) ∧ t.m.dies = u.m.dies)) ∧
  (∀ (c : Fin 64) (x : Nat) (r : SeqReq), x < 2 ^ 512 → imageReq c x = some r → reqImage r = x) ∧
  (∀ p : List Nat, p ≠ [] → argmaxRow p < p.length ∧
     ∀ k, k < p.length → dyQ (rowVal (p.getD k 0)) ≤ dyQ (rowVal (p.getD (argmaxRow p) 0)) ∧
       (k < argmaxRow p → dyQ (rowVal (p.getD k 0)) < dyQ (rowVal (p.getD (argmaxRow p) 0))))

/-! ### Special registers (02 R53 to R62, 04 R140, R141, 14 R333, 15 R361) -/

/-- 02 R53 to R62, 04 R140, R141: GETX reads each register that R53 lists, as its bundle found it when it issued, and is
ILLEGAL for any other number. SETX writes each writable register with the bits that it has, flags of the bundle's other ops
joining a written flag register; an illegal shape, an unlisted or a read-only number is ILLEGAL, an ungranted valid handle
PRIV, a misaligned handler address ALIGN. Nothing else of the stream or the core changes. -/
def Obligations.SpecialRegistersReadAndWrite : Prop :=
  (∀ (s : State) (o : SlotOp) (w : W32) (i : Issued), s.verdict = .go → s.strm = s.srcStrm → s.src = s.m → o.a = .lit w →
     specListed w.toNat = true → s.strm.issued = some i → WritesScalar s (.getx o) o.dst i.getx.toNat 0) ∧
  (∀ (s : State) (o : SlotOp) (w : W32), s.verdict = .go → s.strm = s.srcStrm → s.src = s.m → o.a = .lit w →
     s.strm.issued = none →
     let x := s.strm
     let c := s.core
     let d := s.m.die s.cur.die
     let reads := fun (n v : Nat) => w.toNat = n → WritesScalar s (.getx o) o.dst v 0
     reads 0 (x.cols.toNat * 256 + x.rows.toNat) ∧ reads 1 x.jord.toNat ∧ reads 2 x.jflg.toNat ∧ reads 3 x.fflg.toNat ∧
     reads 4 x.rmode.toNat ∧ reads 5 (s.cur.die.val * 4096 + s.cur.core.val / 16 * 512 + s.cur.core.val * 4 + streamNo s.cur.stream) ∧
     (∀ j, c.job = some j → reads 6 (j.node.toNat * 65536 + j.index.toNat) ∧ reads 7 (ctxTuple s.m j.ctx * 256 + j.ctx.val)) ∧
     reads 8 d.cyc.toNat ∧ reads 9 x.uvec.toNat ∧ reads 0xA ((if x.irqs = [] then 0 else 2) + if x.uien then 1 else 0) ∧
     (c.qlx.ring = none → c.qxs.ring = none → reads 0xB (c.tsx * 2 ^ 23 + c.txs * 2 ^ 18 + c.txl * 2 ^ 13 + c.tlx * 2 ^ 8 +
       c.qxs.entries.length * 2 ^ 4 + c.qlx.entries.length)) ∧
     reads 0xC c.anchor.toNat ∧ reads 0xD x.tstat.toNat ∧ reads 0xE c.est.toNat ∧
     (∀ k, k < 16 → reads (0x10 + k) (Tbl.get 0 c.cb k).toNat ∧ reads (0x50 + k) (d.alog.getD k 0).toNat ∧
       reads (0x60 + k) (d.blog.getD k 0).toNat ∧ reads (0x70 + k) (d.klog.getD k 0).toNat ∧
       reads (0x80 + k) (progWord (s.m.chain (.job s.cur.die s.cur.core (Fin.ofNat 16 k))))) ∧
     (∀ k, k < 8 → reads (0x40 + k) (x.trec.word k) ∧ reads (0x48 + k) (x.tprev.word k)) ∧
     reads 0x90 (bmapOf s.m s.cur.die c.ctx) ∧
     (w.toNat = 0xF ∨ (0x20 ≤ w.toNat ∧ w.toNat < 0x40) ∨ 0x90 < w.toNat →
       ∃ t y, exec (.getx o) s = .next t ∧ t.verdict = .trapped y ∧ y.code = 1)) ∧
  (∀ (s : State) (o : SlotOp) (w : W32) (v : Nat), s.verdict = .go → s.strm = s.srcStrm → s.src = s.m → o.a = .lit w →
     fetch64 s 5 o.b = .ok v →
     let traps := fun (code : Nat) => ∃ t y, exec (.setx o) s = .next t ∧ t.verdict = .trapped y ∧ y.code = code
     let strm := fun (n : Nat) (y : Stream) => w.toNat = n → ∃ t, Goes (.setx o) s t ∧ OnlyStream s t ∧ t.strm = y
     let core := fun (n : Nat) (y : Core) => w.toNat = n → ∃ t, Goes (.setx o) s t ∧ OnlyCore s t ∧ t.core = y
     (1 ≤ v % 128 → v % 128 ≤ 64 → 1 ≤ v / 256 % 128 → v / 256 % 128 ≤ 64 →
       strm 0 { s.strm with rows := BitVec.ofNat 7 v, cols := BitVec.ofNat 7 (v / 256) }) ∧
     (w.toNat = 0 → v % 128 = 0 ∨ 64 < v % 128 ∨ v / 256 % 128 = 0 ∨ 64 < v / 256 % 128 → traps 1) ∧
     strm 1 { s.strm with jord := BitVec.ofNat 2 v } ∧
     strm 2 { s.strm with jflg := BitVec.ofNat 20 v ||| s.bnd.jflg } ∧
     strm 3 { s.strm with fflg := BitVec.ofNat 7 v ||| s.bnd.fflg } ∧
     strm 4 { s.strm with rmode := BitVec.ofNat 2 v } ∧
     (w.toNat = 9 → v % 64 ≠ 0 → traps 3) ∧
     (∀ pa m, w.toNat = 9 → v % 64 = 0 →
       translate s.m (some (.core s.cur.die s.cur.core)) s.core.ctx .fetch (v % 2 ^ 57) = .ok (pa, m) →
       ∃ t, Goes (.setx o) s t ∧ t.m = m.setStrm s.cur { s.strm with uvec := BitVec.ofNat 57 v }) ∧
     strm 0xA { s.strm with uien := bitAt v 0 } ∧
     core 0xC { s.core with anchor := BitVec.ofNat 8 v } ∧
     core 0xE { s.core with est := BitVec.ofNat 32 v, estAt := (s.m.die s.cur.die).cyc } ∧
     (∀ k, k < 16 →
       (bitAt v 63 = true → 0x480 ≤ v % 2 ^ 17 → grantBuf s.m s.core.ctx (v % 2 ^ 17) = false → w.toNat = 0x10 + k →
         traps 2) ∧
       (bitAt v 63 = false ∨ v % 2 ^ 17 < 0x480 ∨ grantBuf s.m s.core.ctx (v % 2 ^ 17) = true → core (0x10 + k) { s.core with
         cb := Tbl.set 0 s.core.cb k (BitVec.ofNat 64 (v / 2 ^ 63 % 2 * 2 ^ 63 + v % 2 ^ 20))
         bufs := Tbl.set none s.core.bufs k none })) ∧
     (w.toNat ∈ [5, 6, 7, 8, 0xB, 0xD, 0xF] ∨ 0x20 ≤ w.toNat → traps 1))

/-! ### The graph dispatcher (01 R25, R26, 11 R294 to R307, 14 R332) -/

/-- 01 R25, R26, 11 R294 to R301: a launch of a graph without live instance whose tuple breaks R25, or whose header breaks
R297, is reported with cause 2. While the last four bytes of its payload are not the tag, it is read again 500 cycles later,
and the sixteenth reading reports it with cause 1. With the tag there, the instance opens and its entry node becomes ready:
a ready node enters the pool of its die at its priority, no higher than the ceiling of its context and behind the overflow
entries that can enter, with its pending count as its record has it. A completion counts a successor's pending count down,
and at zero the successor becomes ready. A line of a constant image fills its words of the bank; one that faults ends the
load and reports the instance. The model's choices: what a broken record reports, a node without a shape, the tail that is
read again, and a successor without predecessors are log 55. -/
def Obligations.GraphsLaunchAndBecomeReady : Prop :=
  (∀ (s : State) (d : Fin 16) (l : Launch) (rest : List Launch) (j : Instr),
     let f := l.image
     let c := l.ctx
     let g : DevAddr := BitVec.ofNat 57 (launchGraph f)
     let entry := launchEntry f
     let tag := fld (tupField f 4) 0 32
     let fails := fun (m : Module) (cause : Nat) =>
       exec j s = .next { s with m := setLaunch (reportTuple m c f entry cause) d l none }
     (s.m.die d).launches = l :: rest → ctxValid s.m c = true → findInst s.m c g = none →
     (j = .launch d ∧ l.reads = 0 ∧ ∀ i ∈ s.m.graphs, i.home = d → i.nodes ≠ []) ∨
       (j = .launchTagReread d ∧ l.reads ≠ 0 ∧ ((s.m.die d).cyc - l.nextAt).toNat < 2 ^ 63) →
     (launchOk f = false → fails s.m 2) ∧
     (∀ e m1, launchOk f = true → dispRead s.m d c g.toNat 64 = .ok (.error e, m1) → fails m1 e) ∧
     (∀ x m1, launchOk f = true → dispRead s.m d c g.toNat 64 = .ok (.ok x, m1) →
       (headerOk g.toNat entry x = false → fails m1 2) ∧
       (∀ y m2 t m3, headerOk g.toNat entry x = true → dispRead m1 d c (nodeAt g entry) 64 = .ok (.ok y, m2) →
         dispRead m2 d c ((launchArg f + fld (tupField f 4) 32 32 - 4) % 2 ^ 57) 4 = .ok (.ok t, m3) →
         (t ≠ tag → l.reads < 15 →
           let again : Launch := { l with reads := l.reads + 1, nextAt := (m3.die d).cyc + 500 }
           exec j s = .next { s with m := setLaunch m3 d l (some again) }) ∧
         (t ≠ tag → 15 ≤ l.reads → fails (sendEvent m3 (some d) c.val 1 g.toNat tag) 1) ∧
         (t = tag →
           let i : Instance := {
             ctx := c, graph := g, home := d, image := f, prio := min (fld (tupField f 3) 0 3) (ctxCeiling m3 c)
             tokens := fld (tupField f 3) 8 8, sig := BitVec.ofNat 57 (fld x 64 57), nnodes := fld x 0 16
             pending := [], iter := [], nodes := [], clks := Tbl.set [] [] entry l.clk, reported := false }
           let m4 := setLaunch { m3 with graphs := m3.graphs ++ [i] } d l none
           ∀ w, makeReady m4 c g entry = .ok w → (∃ k, findInst w c g = some k ∧ k.nodes ≠ []) →
             exec j s = .next { s with m := w })))) ∧
  (∀ (m m1 : Module) (c : Fin 64) (g : DevAddr) (n : Nat) (i : Instance) (l : Line), findInst m c g = some i →
     i.reported = false → readyRecord m i n = .ok (.ok l, m1) →
     let d : Fin 16 := if nodeDie l = 0xFF then i.home else Fin.ofNat 16 (nodeDie l)
     let pr := min (if n = launchEntry i.image ∨ nodeInh l = true then i.prio else nodePrio l) (ctxCeiling m1 c)
     let cyc := (m1.die d).cyc
     let m2 := enterAll d (m1.die d).overflow.length m1
     let enters := (m2.die d).pool.length < 4096 ∧
       ((m2.die d).pool.filter fun p => decide (p.ctx = c)).length < ctxPshare m2 c
     let entry : PoolEnt :=
       { ctx := c, graph := g, node := BitVec.ofNat 16 n, prio := pr, readyAt := cyc, levelAt := cyc, seq := m1.ticket }
     (¬enters → ctxSquota m2 c < (m2.ctx c).spill + 64 → ∃ w, makeReady m c g n = .ok (reportInst w c g n 4)) ∧
     (enters ∨ (m2.ctx c).spill + 64 ≤ ctxSquota m2 c → ∃ w, makeReady m c g n = .ok w ∧
       (enters → (w.die d).pool = (m2.die d).pool ++ [entry] ∧ (w.die d).overflow = (m2.die d).overflow) ∧
       (¬enters → (w.die d).pool = (m2.die d).pool ∧ (w.ctx c).spill = (m2.ctx c).spill + 64 ∧
         (w.die d).overflow.Perm (entry :: (m2.die d).overflow) ∧
         ((m2.die d).overflow.Pairwise (fun e f => e.seq ≤ f.seq) →
           (w.die d).overflow.Pairwise fun e f => e.seq ≤ f.seq)) ∧
       findInst w c g = some { i with
         pending := Tbl.set none i.pending n (some (nodeNpred l))
         nodes := i.nodes ++ [{
           node := BitVec.ofNat 16 n, die := d, image := l, st := .waiting, readyAt := cyc, seq := m1.ticket, prio := pr
           decision := .none, heldBack := false, again := false, jobsLeft := 0, saved := [], savedOld := []
           clk := Tbl.get [] i.clks n, avoid := none }] })) ∧
  (∀ (s : State) (d : Fin 16) (k : Nat), (∃ t, exec (.poolOverflowEnter d) s = .next t ∧
       enterAll d (k + 1) s.m = enterAll d k t.m) ∧
     let w := enterAll d (s.m.die d).overflow.length s.m
     ∀ f ∈ (w.die d).overflow, ¬((w.die d).pool.length < 4096 ∧
       ((w.die d).pool.filter fun p => decide (p.ctx = f.ctx)).length < ctxPshare w f.ctx)) ∧
  (∀ (m : Module) (c : Fin 64) (g : DevAddr) (n p : Nat) (k : Clock) (i : Instance), findInst m c g = some i →
     Tbl.get none i.pending n = some p → p < 65536 →
     let counted := fun (v : Nat) => modInst m c g fun x => { x with
       pending := Tbl.set none x.pending n (some v), clks := Tbl.set [] x.clks n (Clock.join (Tbl.get [] x.clks n) k) }
     (2 ≤ p → decPending m c g n k = .ok (counted (p - 1))) ∧
     (p = 0 → decPending m c g n k = .ok (counted 65535)) ∧
     (p = 1 → (∀ x ∈ i.nodes, x.node.toNat ≠ n) → decPending m c g n k = makeReady (counted 0) c g n)) ∧
  (∀ (s : State) (d : Fin 16) (co : Fin 128) (bs : List Byte) (m : Module),
     let c := s.m.core d co
     let a := (c.kaddr.toNat + 4 * c.kloaded) % 2 ^ 57
     let n := min ((64 - a % 64) / 4) (c.nconst - c.kloaded)
     (c.job = none ∨ c.nconst ≤ c.kloaded ∨ c.kfault = true → exec (.constantBankLoad d co) s = .next s) ∧
     (∀ j e, c.job = some j → c.kloaded < c.nconst → c.kfault = false →
       dispLine s.m d c.ctx a (4 * n) = .ok (.error e, m) → exec (.constantBankLoad d co) s = .next { s with
         m := reportInst (m.setCore d co { m.core d co with kfault := true }) j.ctx j.graph j.node.toNat e }) ∧
     (c.job ≠ none → c.kloaded < c.nconst → c.kfault = false → dispLine s.m d c.ctx a (4 * n) = .ok (.ok bs, m) →
       ∃ w, exec (.constantBankLoad d co) s = .next { s with m := w } ∧
         let y := w.core d co
         y = { m.core d co with kbank := y.kbank, kloaded := (m.core d co).kloaded + n } ∧
         (∀ k, k < n → Tbl.get 0 y.kbank ((m.core d co).kloaded + k) =
           BitVec.ofNat 32 (ofBytes ((bs.drop (4 * k)).take 4))) ∧
         (∀ k, k < (m.core d co).kloaded ∨ (m.core d co).kloaded + n ≤ k →
           Tbl.get 0 y.kbank k = Tbl.get 0 (m.core d co).kbank k)))

/-- 01 R26, 11 R299 to R301, R304, R305, R307, 14 R332: the pool is taken by priority and then by age of readiness. A KERN
node whose width its class cannot give is reported with cause 3; one whose width is free, beside the cores held for the
head, is placed on the first free cores in its order; the first that is not placed becomes the head, and a head that has
left the pool is the head no more and may choose victims anew later. Every job starts with its index, its argument, its
shape and its three streams at the entries of the image; a COPY node goes to its engine; GATE completes with all successors,
LOOP and COND with the one that their word chooses. A job whose streams have exited and whose chains have ended frees its
core and counts down at its node, which completes at its last job, unless a job of it has failed. The model's choices: log
55, the moment at which a width is tested (log 76) and how long a head stays one (log 87). -/
def Obligations.NodesDispatchAndComplete : Prop :=
  (∀ pool : List PoolEnt, (pool.foldr insertEntry []).Perm pool ∧
     (pool.foldr insertEntry []).Pairwise fun e f => f.prio < e.prio ∨ (e.prio = f.prio ∧ e.seq ≤ f.seq)) ∧
  (∀ (s : State) (d : Fin 16) (e : PoolEnt) (es : List PoolEnt) (i : Instance) (n : NodeRun),
     let l := n.image
     let tick := exec (.dispatchTick d) s
     let m := unpool s.m i.ctx i.graph n
     let need := if n.saved = [] then nodeWidth l else n.saved.length
     let held := match headOf s.m d with
       | some (h, use) => if h = e then [] else use
       | none => []
     let free := (classCores (nodeClass l) n.avoid).filter fun c => (s.m.core d c).job.isNone && !held.contains c
     (∀ c g b, (s.m.die d).head = some (c, g, b) → (s.m.die d).pool = [] → tick = .next { s with
       m := modNode (s.m.setDie d { s.m.die d with head := none }) c g b fun x => { x with chosen := false } }) ∧
     ((s.m.die d).head = none → (s.m.die d).pool = [] → tick = .next s) ∧
     ((s.m.die d).head = none ∨ headOf s.m d ≠ none → (s.m.die d).pool.foldr insertEntry [] = e :: es → findInst s.m e.ctx e.graph = some i → ctxValid s.m e.ctx = true →
       findNode s.m e.ctx e.graph e.node = some n →
       (nodeKind l = 0 → (classCores (nodeClass l) none).length < need →
         tick = dispOut s d (failNode (unpool s.m e.ctx e.graph n) i n 3)) ∧
       (nodeKind l = 0 → need ≤ (classCores (nodeClass l) none).length → need ≤ free.length →
         tick = dispOut s d (placeNode s.m i n e.prio (free.take need))) ∧
       (nodeKind l = 0 → need ≤ (classCores (nodeClass l) none).length → free.length < need → es = [] →
         headOf s.m d = none → tick = .next { s with
           m := preempt (s.m.setDie d { s.m.die d with head := some (e.ctx, e.graph, e.node) }) i n e.prio
             (classCores (nodeClass l) n.avoid) free.length need }) ∧
       (nodeKind l = 1 → (engQueue s.m (.copy d (Fin.ofNat 8 (nodeOpa l / 2 ^ 48)))).length < 32 →
         tick = .next { s with m := dispatchCopy s.m i n }) ∧
       (nodeKind l = 5 → tick = dispOut s d (completeNode m i.ctx i.graph n (allSucc l) n.clk)) ∧
       (∀ w m1, nodeKind l = 3 → dispRead m n.die i.ctx (nodeOpa l) 8 = .ok (.ok w, m1) → tick = dispOut s d
         (completeNode m1 i.ctx i.graph n [nodeSucc l (if w = 0 then 1 else 0)] n.clk)) ∧
       (∀ w m1, nodeKind l = 2 → dispRead m n.die i.ctx (nodeOpa l) 8 = .ok (.ok w, m1) →
         let it := Tbl.get 0 i.iter n.node.toNat
         let goes := w ≠ 0 ∧ it < nodeOpb l
         tick = dispOut s d (completeNode (modInst m1 i.ctx i.graph fun x => { x with
           iter := Tbl.set 0 x.iter n.node.toNat (if goes then it + 1 else 0) }) i.ctx i.graph n
           [nodeSucc l (if goes then 0 else 1)] n.clk)) ∧
       (∀ m1, nodeKind l = 4 → dispSignal m n.die i.ctx (nodeOpa l) (nodeOpb l) n.clk = .ok (none, m1) →
         tick = dispOut s d (completeNode m1 i.ctx i.graph n (allSucc l) n.clk)))) ∧
  (∀ (m m1 m2 : Module) (i : Instance) (n : NodeRun) (level img : Nat) (cs : List (Fin 128)) (bs : List Byte),
     let d := n.die
     let arg := if nodeOpb n.image % 2 ^ 57 = 0 then launchArg i.image else nodeOpb n.image % 2 ^ 57
     n.saved = [] → findInst m i.ctx i.graph = some i → findNode m i.ctx i.graph n.node = some n →
     dispRead m d i.ctx (nodeOpa n.image) 64 = .ok (.ok img, m1) → imageOk img = true →
     dispBytes m1 d i.ctx (imgConst img) (4 * imgNconst img) = .ok (.ok bs, m2) →
     ∃ w, placeNode m i n level cs = .ok w ∧
       findNode w i.ctx i.graph n.node = some { n with
         st := .running (ascending cs) (m2.die d).cyc level, decision := .none, heldBack := false, chosen := false
         failed := false, jobsLeft := (ascending cs).length, saved := [], savedChains := [], savedOld := []
         avoid := none } ∧
       ∀ k c, (ascending cs)[k]? = some c →
         let y := w.core d c
         y.job = some { ctx := i.ctx, graph := i.graph, node := n.node.setWidth 32, index := BitVec.ofNat 16 k
                        width := nodeWidth n.image, prio := level, placedAt := (m2.die d).cyc } ∧
         y.lastCtx = some i.ctx ∧ y.v = [] ∧ y.p = [] ∧ y.qlx = {} ∧ y.qxs = {} ∧ y.kloaded = 0 ∧
         y.nconst = imgNconst img ∧ y.est = BitVec.ofNat 32 (nodeEst n.image) ∧
         y.unitMem = (if (m2.core d c).lastCtx.any (fun x => decide (x ≠ i.ctx)) then [] else (m2.core d c).unitMem) ∧
         (∀ q, let x := y.stream q
           x.status = .running ∧ x.pc = BitVec.ofNat 57 (imgEntry img q) ∧
           x.sreg 1 = arg % 2 ^ 64 ∧ x.sreg 2 = k % 2 ^ 64 ∧ x.sreg 3 = nodeWidth n.image ∧
           (∀ r, 4 ≤ r → x.sreg r = 0) ∧ x.a = [] ∧ x.m = [] ∧ x.loops = [] ∧ x.calls = [] ∧ x.irqs = [] ∧
           x.wait = .none ∧ x.cwait = .none ∧ x.fflg = 0 ∧ x.rmode = 0 ∧ x.jord = 0 ∧
           (imgShape img = 0 → x.rows = 64 ∧ x.cols = 16) ∧
           (imgShape img ≠ 0 → x.rows.toNat = imgShape img % 128 ∧ x.cols.toNat = imgShape img / 256))) ∧
  (∀ (s : State) (d : Fin 16) (co : Fin 128),
     let c := s.m.core d co
     let all := fun (x : Status) => ∀ q, (c.stream q).status = x
     let ended := ¬chainsLive s.m d co ∧ (all .exited ∨ all .failed ∨ all .idle)
     (c.job = none ∨ ¬ended → exec (.jobEnd d co) s = .next s) ∧
     (c.job ≠ none → ended → (all .exited → releaseStalls s.m d co = false) →
       (∀ i n, jobNode s.m d co = some (i, n) → n.heldBack = false) →
       ∃ w, exec (.jobEnd d co) s = .next { s with m := w } ∧
         let y := w.core d co
         y.job = none ∧ y.l = {} ∧ y.x = {} ∧ y.st = {} ∧ y.v = [] ∧ y.lastCtx = c.lastCtx ∧ y.unitMem = c.unitMem ∧
         (∀ i n, jobNode s.m d co = some (i, n) → findNode s.m i.ctx i.graph n.node = some n →
           ∃ n', findNode w i.ctx i.graph n.node = some n' ∧ n'.jobsLeft = n.jobsLeft - 1 ∧
             n'.cores = n.cores.filter (fun x => decide (x ≠ co)) ∧ (all .failed → n'.failed = true)))) ∧
  (∀ (s : State) (c : Fin 64) (g : DevAddr) (b : BitVec 16) (n : NodeRun),
     let completes := exec (.nodeComplete c g b) s
     let k := s.m.chain (.node n.die c g b)
     (findNode s.m c g b = none → completes = .next s) ∧
     (findNode s.m c g b = some n →
       (n.st = .waiting → completes = .next s) ∧
       (∀ cs t p, n.st = .running cs t p →
         (n.jobsLeft ≠ 0 → completes = .next s) ∧
         (n.jobsLeft = 0 → n.failed = false →
           completes = dispOut s n.die (completeNode s.m c g n (allSucc n.image) n.clk)) ∧
         (n.jobsLeft = 0 → n.failed = true → completes = dispOut s n.die (checkEnd (dropNode s.m c g b) c g))) ∧
       (n.st = .chain →
         (k.state < 3 → completes = .next s) ∧
         (k.state = 3 →
           completes = dispOut s n.die (completeNode s.m c g n (allSucc n.image) (Clock.join n.clk k.views.clk))) ∧
         (k.state = 4 ∨ k.state = 5 → completes = dispOut s n.die (checkEnd (dropNode s.m c g b) c g))))) ∧
  (∀ (m : Module) (c : Fin 64) (g : DevAddr) (n : NodeRun) (k : Clock) (i : Instance), findInst m c g = some i →
     nodeSig n.image = 0 → n.again = false → (∃ x ∈ i.nodes, x.node ≠ n.node) →
     (∀ d k, ∀ h ∈ (m.group d k).out, ¬(h.ctx = c ∧ h.graph = g ∧ h.node = n.node)) →
     ∃ w, completeNode m c g n [0xFFFF] k = .ok w ∧ w = { m with graphs := w.graphs } ∧
       findInst w c g = some { i with
         nodes := i.nodes.filter fun x => decide (x.node ≠ n.node)
         clks := Tbl.set [] i.clks 65536 (Clock.join (Tbl.get [] i.clks 65536) k) })

/-! ### The ready pool, pre-emption and regions (11 R303, R321 to R325, 14 R348) -/

/-- 11 R303, R321 to R325, 14 R348: a head that waits takes, if its instance has a token and they suffice, running nodes of
lower priority on cores that it can use, of lowest priority first and placed last first, and decides against each that has
no decision pending. Ageing raises an entry that has stood 2^21 cycles at its level by one, up to its context's ceiling, and
leaves the others. The oldest overflow entry that fits enters the pool and gives its charge back. A drain that has run out
is decided by what the node has run so far: KILL if it may restart and has run less than 2,000 ns and 8 ns a KiB, else
CHECKPOINT; an open region holds either back. KILL stops every stream of the node and puts it back into the pool at its
priority; a CHECKPOINT whose cores can all be saved does the same with its cores saved and the bits of its jobs held in
their groups, and a resumed job takes its bits to its new party number. A region whose bound has run out is closed. A hot
cluster runs one step slower, to four at most, a cool one faster. The model's choices: a decision that is pending stands
(log 74), and an overflow entry whose context has its share keeps nobody out (log 75). -/
def Obligations.PoolsAgeAndVictimsLeave : Prop :=
  (∀ (m : Module) (i : Instance) (n : NodeRun) (level free need pn : Nat) (use : List (Fin 128)),
     let now := (m.die n.die).cyc
     let vs := victims m n.die use pn
     let since := fun (v : NodeRun) => (now - placedAt v).toNat
     vs.Perm ((m.graphs.flatMap fun j => j.nodes.map fun v => (j, v)).filter fun v => decide (v.2.die = n.die) &&
       decide (runPrio v.2 < pn) && v.2.cores.any (fun c => use.contains c)) ∧
     (vs.Pairwise fun v w => runPrio v.2 < runPrio w.2 ∨ (runPrio v.2 = runPrio w.2 ∧ since v.2 ≤ since w.2)) ∧
     (∃ k, (takeVictims m use need vs free).1 = vs.take k ∧ (takeVictims m use need vs free).2 =
         free + ((vs.take k).map fun v => usable m v.2 use).sum ∧
       (k < vs.length → need ≤ (takeVictims m use need vs free).2) ∧
       ∀ j, j < k → free + ((vs.take j).map fun v => usable m v.2 use).sum < need) ∧
     (n.chosen = true ∨ i.tokens = 0 ∨ free + ((victims m n.die use level).map fun v => usable m v.2 use).sum < need →
       preempt m i n level use free need = m) ∧
     (∀ c g, n.decision ≠ .none → decideVictim m c g n = m) ∧
     (∀ c g, n.decision = .none → remaining m n ≤ ctxDrain m c → decideVictim m c g n = modNode m c g n.node fun x =>
       { x with decision := .drain (now + BitVec.ofNat 64 (2 * ctxDrain m c)) })) ∧
  (∀ (s : State) (d : Fin 16), ∃ w, exec (.poolAgeing d) s = .next { s with m := w } ∧ DieOnly s.m w d ∧
     let x := s.m.die d
     let aged := fun (e : PoolEnt) =>
       if 2 ^ 21 ≤ (x.cyc - e.levelAt).toNat ∧ e.prio < ctxCeiling s.m e.ctx
       then { e with prio := e.prio + 1, levelAt := e.levelAt + 2 ^ 21 } else e
     w.die d = { x with pool := x.pool.map aged, overflow := x.overflow.map aged }) ∧
  (∀ (s : State) (d : Fin 16) (l r : List PoolEnt) (e : PoolEnt),
     let x := s.m.die d
     let fits := fun (f : PoolEnt) => x.pool.length < 4096 ∧
       (x.pool.filter fun p => decide (p.ctx = f.ctx)).length < ctxPshare s.m f.ctx
     ((∀ f ∈ x.overflow, ¬fits f) → exec (.poolOverflowEnter d) s = .next s) ∧
     (x.overflow = l ++ e :: r → (∀ f ∈ l, ¬fits f) → fits e → e ∉ l → e ∉ r →
       ∃ w, exec (.poolOverflowEnter d) s = .next { s with m := w } ∧
         w.die d = { x with pool := x.pool ++ [e], overflow := l ++ r } ∧
         w.ctx e.ctx = { s.m.ctx e.ctx with spill := (s.m.ctx e.ctx).spill - 64 })) ∧
  (∀ (s : State) (c : Fin 64) (g : DevAddr) (b : BitVec 16) (n : NodeRun) (t : W64),
     findNode s.m c g b = some n →
     let expires := exec (.drainExpire c g b) s
     let due := ((s.m.die n.die).cyc - t).toNat < 2 ^ 63
     let ran := ((s.m.die n.die).cyc - placedAt n).toNat / 2
     ((∀ u, n.decision ≠ .drain u) → expires = .next s) ∧
     (n.decision = .drain t → ¬due ∨ n.cores = [] → expires = .next s) ∧
     (n.decision = .drain t → due → n.cores ≠ [] →
       let then_ : Decision := if nodeRestart n.image = true ∧ ran < 2000 + 8 * nodeCkpt n.image then .kill
         else .checkpoint none
       expires = .next { s with m := decideNode s.m c g n then_ })) ∧
  (∀ (m : Module) (c : Fin 64) (g : DevAddr) (n : NodeRun) (x : Decision) (cs : List (Fin 128)) (t : W64) (pr : Nat),
     findNode m c g n.node = some n → n.st = .running cs t pr →
     (regionOpen m n = true →
       findNode (decideNode m c g n x) c g n.node = some { n with decision := x, heldBack := true } ∧
       decideNode m c g n x = { m with graphs := (decideNode m c g n x).graphs }) ∧
     (regionOpen m n = false → ∀ o, findNode (decideNode m c g n (.checkpoint o)) c g n.node =
       some { n with decision := .checkpoint o, heldBack := false }) ∧
     let share := fun (x : Fin 64) => ((m.die n.die).pool.filter fun p => decide (p.ctx = x)).length < ctxPshare m x
     (regionOpen m n = false → (∀ i, findInst m c g = some i → i.reported = false) → (m.die n.die).pool.length < 4096 →
       share c → (∀ f ∈ (m.die n.die).overflow, ¬share f.ctx) →
       let w := decideNode m c g n .kill
       (w.die n.die).pool = (m.die n.die).pool ++ [{ ctx := c, graph := g, node := n.node, prio := pr, readyAt := n.readyAt
                                                     levelAt := (m.die n.die).cyc, seq := n.seq }] ∧
       (∃ n', findNode w c g n.node = some n' ∧ n'.st = .waiting ∧ n'.saved = []) ∧
       ∀ k ∈ cs, ∀ q, (w.strm ⟨n.die, k, q⟩).status = .idle)) ∧
  (∀ (s : State) (c : Fin 64) (g : DevAddr) (b : BitVec 16) (n : NodeRun) (out : Option (Fin 8)) (cs : List (Fin 128))
     (t : W64) (pr : Nat), findNode s.m c g b = some n →
     let saves := exec (.checkpointSave c g b) s
     ((∀ o, n.decision ≠ .checkpoint o) → saves = .next s) ∧
     (n.st = .running cs t pr → n.heldBack = true ∨ cs = [] ∨ (∃ k ∈ cs, canSave s.m n.die k = false) → saves = .next s) ∧
     (n.decision = .checkpoint out → n.st = .running cs t pr → n.heldBack = false → cs ≠ [] → cs.Nodup →
       (∀ k ∈ cs, canSave s.m n.die k = true) → (∀ i, findInst s.m c g = some i → i.reported = false) →
       let share := fun (x : Fin 64) => ((s.m.die n.die).pool.filter fun p => decide (p.ctx = x)).length < ctxPshare s.m x
       (s.m.die n.die).pool.length < 4096 → share c → (∀ f ∈ (s.m.die n.die).overflow, ¬share f.ctx) →
       ∃ w, saves = .next { s with m := w } ∧ (w.die n.die).pool = (s.m.die n.die).pool ++ [{
           ctx := c, graph := g, node := n.node, prio := pr, readyAt := n.readyAt, levelAt := (s.m.die n.die).cyc
           seq := n.seq }] ∧
         (∃ n', findNode w c g b = some n' ∧ n'.st = .waiting ∧ n'.saved.length = cs.length ∧ n'.savedOld = cs ∧
           n'.avoid = out) ∧
         ∀ k ∈ cs, (w.core n.die k).job = none ∧ ∀ j gr, (s.m.core n.die k).job = some j →
           let x := s.m.group n.die gr
           let bit := BitVec.ofNat 128 (2 ^ k.val)
           x.mask &&& bit ≠ 0 → (w.group n.die gr).mask &&& bit = 0 ∧
             { ctx := j.ctx, graph := j.graph, node := j.node.setWidth 16, index := j.index, party := k
               need := decide (x.need &&& bit ≠ 0), arr := decide (x.arr &&& bit ≠ 0) } ∈ (w.group n.die gr).out)) ∧
  (∀ (m : Module) (d : Fin 16) (co : Fin 128) (j : Job) (gr : Nat) (h : HeldBits) (l r : List HeldBits),
     let x := m.group d gr
     let bit := BitVec.ofNat 128 (2 ^ co.val)
     let put := fun (on : Bool) (v : BitVec 128) => if on then v ||| bit else v
     (m.core d co).job = some j → x.out = l ++ h :: r → h.ofJob j = true → (∀ k ∈ l ++ r, k.ofJob j = false) →
     (takeBits m d co).group d gr =
       { x with mask := put true x.mask, need := put h.need x.need, arr := put h.arr x.arr, out := l ++ r }) ∧
  (∀ (s : State) (d : Fin 16) (co : Fin 128) (t : W64) (j : Job),
     let c := s.m.core d co
     (c.region = none ∨ c.job = none → exec (.npreExpire d co) s = .next s) ∧
     (c.region = some t → c.job = some j →
       (2 ^ 63 ≤ ((s.m.die d).cyc - t).toNat → exec (.npreExpire d co) s = .next s) ∧
       (((s.m.die d).cyc - t).toNat < 2 ^ 63 → exec (.npreExpire d co) s = .next { s with
         m := closeRegion (sendEvent s.m (some d) j.ctx.val 7 co.val j.graph.toNat) d co }))) ∧
  (∀ (s : State) (d : Fin 16) (k : Fin 8) (hot : Bool), ∃ w, exec (.thermalStep d k hot) s = .next { s with m := w } ∧
     ClusterOnly s.m w d k ∧ w.cluster d k = { s.m.cluster d k with
       slow := if hot then min 4 ((s.m.cluster d k).slow + 1) else (s.m.cluster d k).slow - 1 })

/-! ### Upkeep of memory (07 R200, R201, R207, 14 R345, 15 R365 to R370) -/

/-- 07 R200 to R207, 14 R345, 15 R365 to R370: a sweep retires every tag whose age has reached 2^14 (a stamp ahead of the
current count has no age, log 17) and raises every clock entry that is as old; no byte changes. A die reset empties its
clocks, views, tags and wire swaps, gives back what its spilled reader lists had charged, sets cyc to 0 and keeps the rest
of its slots, masks and logs (the model's choice, log 60). A correctable scratchpad error freezes its domain for the cycles
of the table, behind a freeze of it that has not ended; a lasting one is counted at its line. A stacked line without error
changes nothing; a corrected one is logged, kind 1 or 2; an uncorrectable one is logged and poisoned and a poisoned one
logged, and the requester meets ECCUE; a retried transfer is counted and logged; four failures have the failing wire
replaced by the lowest free spare, at 4:1 too; a bus that fails after two repairs retires with its banks, those that heat
had retired among them (what a repair and a loss send: log 60). A written line ends its poison. A bank retired by heat is
listed and logged. An access to a tracked line races with the line's writer, and a write with its readers too, unless the
tag is ordered before it; a write leaves its tag alone, a read drops the ordered readers and adds its own; more than two
spill and are charged to the quota, which is met before any effect. A scalar load or store that races raises RACE with the
line, its own tag and the conflicting one, and one that does not leaves its tag. -/
def Obligations.MemoryUpkeep : Prop :=
  (∀ (p : Actor) (q : Nat) (c : BitVec 16),
     let upto := fun (x : BitVec 16) => (x - c).toNat < 2 ^ 15
     (ordered p (.party q c) = true ↔ p.party = some q ∨ (p.blind = false ∧ upto (Clock.at p.clk (partyKey p.die q)))) ∧
     (ordered p (.bar q c) = true ↔ .bar q c ∈ p.stamps ∨ (p.blind = false ∧ upto (viewPhase p.phases q))) ∧
     (ordered p (.buf q c) = true ↔ (∃ v, .buf q v ∈ p.stamps ∧ upto v) ∨
       ∃ h ∈ p.handles, bitAt h.2.toNat 63 = true ∧ 0x480 ≤ fld h.2.toNat 0 17 ∧ fld h.2.toNat 0 17 = q ∧
         ∃ v : W32, Tbl.get none p.bufs h.1 = some v ∧ upto (v.setWidth 16))) ∧
  (∀ (p : Actor) (line : Nat) (t : LineTag),
     let free := fun (x : Tag) => ordered p x = false
     let rd := t.rd.filter (fun x => !ordered p x) ++ [p.tag]
     (∀ x write, t.wr = some x → free x → lineAccess p line write t = .error (.race line x write)) ∧
     ((∀ x, t.wr = some x → ¬free x) →
       lineAccess p line false t = .ok { wr := t.wr, rd := rd, spill := t.spill || decide (2 < rd.length) } ∧
       ((∀ x ∈ t.rd, ¬free x) → lineAccess p line true t = .ok { wr := some p.tag, rd := [], spill := false }) ∧
       ∀ l x r, t.rd = l ++ x :: r → (∀ y ∈ l, ¬free y) → free x → lineAccess p line true t = .error (.race line x true))) ∧
  (∀ (m : Module) (p : Actor) (line : Nat) (write : Bool),
     let d := trackedDie line
     let t := Tbl.get {} (m.die d).tags (line / 64)
     let held := fun (y : LineTag) => if y.spill then (y.rd.length + 11) / 12 * 64 else 0
     let access := trackedAccess m p line write
     (∀ e, lineAccess p line write t = .error e → access = .error e) ∧
     (∀ y, lineAccess p line write t = .ok y →
       let used := (m.ctx p.ctx).race + held y - held t
       let full := held t < held y ∧ ctxRquota m p.ctx < used
       (full → access = .error (.quota line)) ∧
       (¬full → ∃ w, access = .ok w ∧ w = { m with dies := w.dies, ctxs := w.ctxs } ∧
         (w.ctx p.ctx).race = (if t.spill || y.spill then used else (m.ctx p.ctx).race) ∧
         (Tbl.sorted (m.die d).tags = true → ∀ k, Tbl.get {} (w.die d).tags k =
           if k = line / 64 then y else Tbl.get {} (m.die d).tags k)))) ∧
  (∀ (s : State) (o : SlotOp) (ls : List (Loc × Nat)), s.verdict = .go → s.strm = s.srcStrm → s.src = s.m →
     s.srcStrm.wait.inFlight = false →
     let a := effAddr s o.a o.b
     a % tyBytes o.ty = 0 → localLocs s.m s.core.ctx s.cur.die (some s.cur.core) a (tyBytes o.ty) = some ls →
     (∀ l ∈ ls, l.1.frozen s.m = false ∧ l.1.poisoned s.m = false) →
     let track := fun (write : Bool) => trackedAll s.m (jobActor s.m s.cur.die s.cur.core) write (trackedOf ls)
     let races := fun (i : Instr) (write : Bool) => ∀ l x b, track write = .error (.race l x b) →
       ∃ t y, exec i s = .next t ∧ t.verdict = .trapped y ∧ y.code = 8 ∧ y.place = 4 ∧ y.addr = BitVec.ofNat 64 (a / 64 * 64) ∧
         y.opc = BitVec.ofNat 64 (2 ^ 35 + s.cur.core.val * 2 ^ 16 + (ownCount s.m s.cur.die s.cur.core).toNat) ∧
         y.info = BitVec.ofNat 64 (tagBits x + if b then 2 ^ 36 else 0)
     let tags := fun (i : Instr) (write : Bool) => ∀ m, track write = .ok m →
       ∃ t, Goes i s t ∧ ∀ d, (t.m.die d).tags = (m.die d).tags
     ((Instr.lds o).okIn s.cur.stream = true → races (.lds o) false ∧ tags (.lds o) false) ∧
     (∀ v u, (Instr.sts o).okIn s.cur.stream = true → fetch s 4 o.ty o.c = .ok (v, u) → u = s →
       races (.sts o) true ∧ tags (.sts o) true)) ∧
  (∀ (s : State) (d : Fin 16), Tbl.sorted (s.m.die d).tags = true →
     let old := fun (t : Tag) =>
       let age := (tagCount s.m d t - t.count).toNat
       decide (2 ^ 14 ≤ age) && (decide (age < 2 ^ 15) || match t with
         | .party _ _ => true
         | _ => false)
     ∃ w, exec (.scrubSweep d) s = .next { s with m := w } ∧ SameMemory s.m w ∧
       (∀ line, let t := Tbl.get {} (s.m.die d).tags line
         Tbl.get {} (w.die d).tags line = { wr := t.wr.filter fun x => !old x, rd := t.rd.filter fun x => !old x
                                            spill := t.spill && t.rd.any fun x => !old x }) ∧
       (∀ c p, p < 144 →
         let k := partyKey d p
         let cur := partyCount s.m k
         let x := Clock.at (s.m.core d c).clk k
         Clock.at (w.core d c).clk k = if 2 ^ 14 ≤ (cur - x).toNat then cur - 2 ^ 14 else x) ∧
       let f := raiseClock s.m
       let x := s.m.die d
       (w.die d).launches = x.launches.map (fun l => { l with clk := f l.clk }) ∧
       (Tbl.sorted x.groups = true → ∀ k, Tbl.get {} (w.die d).groups k =
         { Tbl.get {} x.groups k with clk := f (Tbl.get {} x.groups k).clk }) ∧
       (Tbl.sorted x.slices = true → ∀ k, Tbl.get {} (w.die d).slices k = { Tbl.get {} x.slices k with
         stored := (Tbl.get {} x.slices k).stored.map fun t => { t with clk := f t.clk }
         overflow := (Tbl.get {} x.slices k).overflow.map fun t => { t with clk := f t.clk } })) ∧
  (∀ (m : Module) (c : Clock) (k : Nat), Tbl.find (raiseClock m c) k = (Tbl.find c k).map fun x =>
     if 2 ^ 14 ≤ (partyCount m k - x).toNat then partyCount m k - 2 ^ 14 else x) ∧
  (∀ (s : State) (d : Fin 16),
     let x := s.m.die d
     ∃ w, exec (.dieReset d) s = .next { s with m := w } ∧ w = { s.m with dies := w.dies, cores := w.cores, ctxs := w.ctxs } ∧
       (∀ c, w.ctx c = { s.m.ctx c with race := (s.m.ctx c).race -
         ((x.tags.filter fun e => decide (lineOwner s.m (e.1 * 64) = some c)).map fun e => spillBytes e.2).sum }) ∧
       (∀ c, w.core d c = { s.m.core d c with clk := [], phases := [], bufs := [] }) ∧
       (∀ e, e ≠ d → w.die e = s.m.die e ∧ ∀ c, w.core e c = s.m.core e c) ∧
       let y := w.die d
       y = { x with cyc := 0, tags := [], words := [], services := y.services, slots := y.slots, groups := y.groups
                    bufs := y.bufs, buses := y.buses } ∧
       (Tbl.sorted x.services = true → ∀ k, Tbl.get {} y.services k =
         { Tbl.get {} x.services k with clk := [], phases := [] }) ∧
       (Tbl.sorted x.slots = true → ∀ k, Tbl.get {} y.slots k =
         { Tbl.get {} x.slots k with clkCur := [], clkNxt := [], clkDone := [] }) ∧
       (Tbl.sorted x.groups = true → ∀ k, Tbl.get {} y.groups k = { Tbl.get {} x.groups k with clk := [] }) ∧
       (Tbl.sorted x.bufs = true → ∀ k, Tbl.get {} y.bufs k = { Tbl.get {} x.bufs k with clks := [] }) ∧
       (Tbl.sorted x.buses = true → ∀ k, Tbl.get {} y.buses k =
         { Tbl.get {} x.buses k with quarter := false, swaps := [], used := [] })) ∧
  (∀ (s : State) (f : FreezeDomain) (lasting : Option Nat),
     let d : Fin 16 := match f with | .unit d _ => d | .cluster d _ => d | .slice d _ => d
     let cycles : W64 := match f with | .unit _ _ => 24 | _ => 40
     let x := s.m.die d
     let mine := x.freezes.filter fun p => decide (p.1 = f)
     let errors := fun (y : Die) (l : Nat) =>
       ((y.scratchErrors.find? fun e => decide (e.1 = (f, l))).map Prod.snd).getD 0
     let freeze := fun (t : W64) => ∃ w, exec (.scratchpadFreeze { domain := f, lasting := lasting }) s = .next { s with m := w } ∧ DieOnly s.m w d ∧
       w.die d = { x with freezes := x.freezes ++ [(f, t + cycles)], counters := countFreeze f x.counters
                          scratchErrors := (w.die d).scratchErrors } ∧
       (lasting = none → (w.die d).scratchErrors = x.scratchErrors) ∧
       ∀ l, errors (w.die d) l = if lasting = some l then errors x l + 1 else errors x l
     (mine = [] → freeze x.cyc) ∧
     (∀ l p, mine = l ++ [p] → freeze (if (x.cyc - p.2).toNat < 2 ^ 63 then x.cyc else p.2)) ∧
     (∀ l r t, x.freezes = l ++ (f, t) :: r → (∀ p ∈ l, p.1 ≠ f) →
       ((x.cyc - t).toNat < 2 ^ 63 → ∃ w, exec (.freezeExpire f) s = .next { s with m := w } ∧ DieOnly s.m w d ∧
         w.die d = { x with freezes := l ++ r }) ∧
       (2 ^ 63 ≤ (x.cyc - t).toNat → exec (.freezeExpire f) s = .next s)) ∧
     (mine = [] → exec (.freezeExpire f) s = .next s)) ∧
  (∀ (s : State) (a : LocAddr) (f : LineFaults) (data : Line),
     let reads := exec (.stackedLineRead a f) s
     let writes := exec (.stackedLineWrite a data f) s
     (linePlace s.m a.toNat = none → reads = .next s ∧ writes = .next s) ∧
     (∀ p, linePlace s.m a.toNat = some p →
       let x := s.m.die p.die
       let place := fun (e : W64) (layer bank stack : Nat) => fld e.toNat layer 4 = p.layer.val ∧
         fld e.toNat bank 5 = p.bank.val ∧ fld e.toNat stack 1 = p.stack.val ∧ fld e.toNat 0 22 = fld x.cyc.toNat 20 22
       let arrays := fun (w : Module) (kind sym : Nat) => ∃ e : W64, DieOnly { s.m with poison := w.poison } w p.die ∧
         w.die p.die = { x with alog := (e :: x.alog).take 16, lasting := (w.die p.die).lasting } ∧ place e 55 50 59 ∧
         fld e.toNat 60 4 = kind ∧ fld e.toNat 29 21 = p.line % 2 ^ 21 ∧ fld e.toNat 22 7 = sym
       let buses := fun (w : Module) (kind wire spare retries : Nat) => ∃ e : W64,
         (w.die p.die).blog = (e :: x.blog).take 16 ∧ place e 30 25 59 ∧ fld e.toNat 60 4 = kind ∧
         fld e.toNat 56 3 = p.bank.val % 8 ∧ fld e.toNat 46 10 = wire ∧ fld e.toNat 36 10 = spare ∧ fld e.toNat 34 2 = retries
       (f.crc = [] →
         (s.m.poison.contains (a.toNat / 64) = false →
           (f.check = .clean → reads = .next s) ∧
           (∀ n, f.check = .oneSymbol n false → ∃ w, reads = .next { s with m := w } ∧ arrays w 1 n.val ∧
             w.poison = s.m.poison) ∧
           (∀ n, f.check = .oneSymbol n true →
             (x.lasting.filter fun e => decide (e.1 = p.stack.val * 512 + p.layer.val * 32 + p.bank.val) &&
               decide ((x.cyc - e.2).toNat ≤ 2 ^ 31)).length < 3 →
             ∃ w, reads = .next { s with m := w } ∧ arrays w 2 n.val ∧ w.poison = s.m.poison) ∧
           (f.check = .uncorrectable → ∃ w, reads = .next { s with m := failLine w f.user 0x0F } ∧ arrays w 3 127 ∧
             w.poison = (a.toNat / 64) :: s.m.poison)) ∧
         (s.m.poison.contains (a.toNat / 64) = true → ∃ w, reads = .next { s with m := failLine w f.user 0x0F } ∧
           arrays w 4 127 ∧ w.poison = s.m.poison) ∧
         ∃ w, writes = .next { s with m := w } ∧ w = { s.m with
             phys := w.phys, poison := s.m.poison.filter fun k => !decide (k = a.toNat / 64) } ∧
           (∀ k, k < 64 → Memory.byte w.phys (a.toNat / 64 * 64 + k) = BitVec.ofNat 8 (data.toNat / 2 ^ (8 * k))) ∧
           ∀ b, b / 64 ≠ a.toNat / 64 → Memory.byte w.phys b = Memory.byte s.m.phys b) ∧
       (f.crc = [false, true] → f.check = .clean → s.m.poison.contains (a.toNat / 64) = false →
         ∃ w, reads = .next { s with m := w } ∧ DieOnly s.m w p.die ∧ buses w 1 1023 1023 1 ∧ w.die p.die = { x with
           blog := (w.die p.die).blog, counters := { x.counters with crcRetries := x.counters.crcRetries + 1 } }) ∧
       (∀ (n : Fin 512) (k : Nat), f.crc = [false, false, false, false] → f.wires = [[n]] → f.check = .clean →
         s.m.poison.contains (a.toNat / 64) = false →
         512 ≤ k → k < 544 → k ∉ (busOf s.m p).used → (∀ j, 512 ≤ j → j < k → j ∈ (busOf s.m p).used) →
         ∃ w, reads = .next { s with m := w } ∧ buses w 2 n.val k 3 ∧ busOf w p = { busOf s.m p with
           swaps := Tbl.set none (busOf s.m p).swaps n.val (some k), used := (busOf s.m p).used ++ [k] }) ∧
       (f.crc = List.replicate 12 false → f.wires = [] → ∃ w, reads = .next { s with m := failLine w f.user 0x10 } ∧
         (busOf w p).retired = true ∧
         ∀ (l : Fin 16) (b : Fin 32), b.val % 8 = p.bank.val % 8 → bankRetired (w.die p.die) p.stack l b = true ∧
           ((∀ r ∈ x.retired, r.stack = p.stack → r.layer = l → r.bank = b → r.cause ≠ .bus ∧ r.remapped = false) →
             ⟨p.stack, l, b, .bus, false⟩ ∈ (w.die p.die).retired)))) ∧
  (∀ (m : Module) (w : Who) (c : ChainId) (dev : DevAddr) (code : Nat),
     failLine m .none code = m ∧
     ((m.strm w).status = .running → (m.strm w).wait = .none → (m.strm w).cwait = .none →
       failLine m (.fetch w) code = takeTrap m w { code := code, place := 6, addr := (m.strm w).pc.setWidth 64 }) ∧
     ((m.chain c).state = 2 → failLine m (.chain c dev) code = stopChain m c code 0 dev.toNat 0)) ∧
  (∀ (s : State) (d : Fin 16) (k : Fin 2) (l : Fin 16) (b : Fin 32),
     let x := s.m.die d
     let same := fun (r : RetiredBank) => decide (r.stack = k) && decide (r.layer = l) && decide (r.bank = b)
     let heats := exec (.bankRetiredByHeat d k l b) s
     ((∀ r ∈ x.retired, same r = true → r.cause = .lasting ∧ r.remapped = false) → ∃ w e,
       heats = .next { s with m := w } ∧ (w.die d).alog = (e :: x.alog).take 16 ∧ fld e.toNat 60 4 = 5 ∧
       fld e.toNat 59 1 = k.val ∧ fld e.toNat 55 4 = l.val ∧ fld e.toNat 50 5 = b.val ∧ fld e.toNat 22 7 = 127 ∧
       (w.die d).retired = x.retired.filter (fun r => !same r) ++ [⟨k, l, b, .heat, false⟩]) ∧
     ((∃ r ∈ x.retired, same r = true ∧ (r.cause ≠ .lasting ∨ r.remapped = true)) → heats = .next s))

/-! ### The fabric (08 R225, 09 R285 to R291, 14 R347, 07 R213, R214, R386, 15 R374 to R377) -/

/-- 07 R213, R214, R386, 08 R218, R225, 09 R287 to R290, 14 R347, 17 R385: an STS through a window whose bytes the allowance
admits retires with its bytes charged, counted in the open epoch and under way as one line with its mask; beyond the
allowance it waits with nothing done. An arriving write that no entry accepts, or beyond its size, is refused; one whose
entry or page cannot be read yet waits, and so does one behind a waiting write of its source for the same line and one of an
epoch after the next; one of an earlier epoch sets ovr; another lands byte o at land + o and delivers its bytes to its
phase, unless a line of the target races (ovr and the record) or fails (ovr, the bytes delivered, the source refused). Equal
writes and markers count each. A marker copy is counted by its job's epoch; the last posts the epoch's bytes and arrives.
Returned bytes leave the window's charge, those it was not charged first, and a refusal is noted. What a target does with
arrivals is log 24. STS, STT, SCAT and TMOV through a valid window entry whose allowance admits their bytes retire with the
bytes charged, counted in the open epoch and under way as flits that hold up to three consecutive lines of one write, which
among them carry each byte once; beyond the allowance the op waits with nothing done. No byte of memory changes beside those
that SCAT stores in scratchpads. A window without entry, with one of kind 1 or after a refusal raises WINDOW. The model's
choice: each piece of SCAT lies in one region, and what its bundle sends through one window is charged together (log 73). -/
def Obligations.RemoteWritesChargeAndLand : Prop :=
  (
  (∀ (s u : State) (o : SlotOp) (v : Val) (w : Fin 64) (off : Nat) (e : WinEnt), s.verdict = .go →
     (Instr.sts o).okIn s.cur.stream = true → fetch s 4 o.ty o.c = .ok (v, u) →
     let a := effAddr s o.a o.b
     let n := tyBytes o.ty
     a % n = 0 → regionOf a n = some (.window w, off) → winFor u 4 w a = .ok e →
     let c := s.srcCore.ctx
     let used := Tbl.get 0 (s.src.ctx c).charged w.val
     let fits := (n ≤ e.allow ∧ used + n ≤ e.allow) ∨ (e.allow < n ∧ used = 0)
     let ep := Tbl.get {} s.srcCore.epochs w.val
     (¬fits → ∃ t, exec (.sts o) s = .next t ∧ t.verdict = .blocked ∧ t.m = s.src) ∧
     (fits → e.pwin < 64 → ∃ t, Goes (.sts o) s t ∧ t.m.phys = s.m.phys ∧ t.strm = s.strm ∧
       t.core = { s.core with epochs := t.core.epochs } ∧ Tbl.get 0 (t.m.ctx c).charged w.val = used + min n e.allow ∧
       (let ep' := Tbl.get {} t.core.epochs w.val
        ep'.number = ep.number ∧ ep'.bytes = ep.bytes + n ∧ ep'.paths ≠ []) ∧
       ∃ q hop f, ((hop, f) ∈ (t.m.port q).sendq ∨ ∃ x ∈ ((t.m.port f.pair).peer e.peer).replay, x.flit = f) ∧
         f.dst = e.peer ∧ flitLines s.m.device f.body = [{
           srcDev := s.m.device, srcCtx := c, srcWin := w, epoch := ep.number, pctx := e.pctx, pwin := Fin.ofNat 64 e.pwin
           offset := BitVec.ofNat 64 (off - off % 64)
           data := BitVec.ofNat 512 (v.elem o.ty 0 % 2 ^ (8 * n) * 2 ^ (8 * (off % 64)))
           bytes := BitVec.ofNat 64 ((2 ^ n - 1) * 2 ^ (off % 64)) }])) ∧
  (∀ (s : State) (x : RemoteWrite),
     let lands := exec (.remoteWriteLand x) s
     let n := popN 64 x.bytes.toNat
     let held := s.m.heldWrites
     let m0 := { s.m with heldWrites := held.erase x }
     let kept := if x ∈ held then s.m else { s.m with heldWrites := held ++ [x] }
     let behind := (x ∉ held ∧ ∃ v ∈ held, before v x = true) ∨ ∃ l r, held = l ++ x :: r ∧ x ∉ l ∧ ∃ v ∈ l, before v x = true
     let answers := fun (w : Module) (refused : Bool) =>
       lands = .next { s with m := ackWrite w x.srcDev x.srcCtx x.srcWin n refused }
     let accepts := acceptWin m0 x.srcDev x.srcCtx x.srcWin x.pctx x.pwin
     (behind → lands = .next { s with m := kept }) ∧
     (¬behind →
       (accepts = .refuse → answers m0 true) ∧
       (∀ page, accepts = .later page → lands = .next { s with
         m := askPage kept x.pctx (page.map fun a => (ctxHome s.m x.pctx, a)) }) ∧
       (∀ e, accepts = .yes e →
         let b := s.m.barrier e.idie e.islot
         let ahead := (x.epoch - b.epoch).toNat
         let φ := b.phase + BitVec.ofNat 32 ahead
         let ps := landPieces (e.land + x.offset.toNat) x.data x.bytes
         (e.lsize < x.offset.toNat + 64 → answers m0 true) ∧
         (x.offset.toNat + 64 ≤ e.lsize →
           (2 ^ 31 ≤ ahead → ∃ w, answers w false ∧ SameMemory s.m w ∧ (w.barrier e.idie e.islot).ovr = true) ∧
           (2 ≤ ahead → ahead < 2 ^ 31 → lands = .next { s with m := kept }) ∧
           (ahead ≤ 1 →
             (∀ page, mustWait m0 e x.pctx φ ps = some page → lands = .next { s with
               m := askPage kept x.pctx (page.map fun a => (e.idie, a)) }) ∧
             (mustWait m0 e x.pctx φ ps = none → ∀ w told, ps.foldl (landOne e x.pctx φ) (m0, false) = (w, told) →
               answers w told)))))) ∧
  (∀ (a : Nat) (data : Line) (mask : BitVec 64),
     let ps := landPieces a data mask
     (∀ p ∈ ps, p.1 % 64 = 0 ∧ p.2.2 ≠ 0 ∧ ∀ j, j < 64 → bitAt p.2.2.toNat j = true → a ≤ p.1 + j ∧ p.1 + j < a + 64 ∧
       bitAt mask.toNat (p.1 + j - a) = true ∧ fld p.2.1.toNat (8 * j) 8 = fld data.toNat (8 * (p.1 + j - a)) 8) ∧
     (ps.Pairwise fun p q => p.1 < q.1) ∧
     (∀ k, k < 64 → bitAt mask.toNat k = true → ∃ p ∈ ps, p.1 = (a + k) / 64 * 64 ∧ bitAt p.2.2.toNat ((a + k) % 64) = true)) ∧
  (∀ (e : WinEnt) (c : Fin 64) (φ : W32) (m : Module) (told : Bool) (a : Nat) (data : Line) (mask : BitVec 64),
     let w := (landOne e c φ (m, told) (a, data, mask)).1
     let refused := (landOne e c φ (m, told) (a, data, mask)).2
     let got := (m.barrier e.idie e.islot).deliver φ (popN 64 mask.toNat) false
     let stamp := Tag.bar e.islot.val (φ.setWidth 16)
     let actor : Actor := {
       ctx := c, die := e.idie, party := none, clk := [], phases := [], bufs := [], handles := []
       stamps := [stamp], tag := stamp, blind := true }
     let fails := refused = true ∧ w.phys = m.phys ∧ (w.barrier e.idie e.islot).ovr = true ∧
       (got.ready = false → w.barrier e.idie e.islot = { got with ovr := true })
     a % 64 = 0 →
     (∀ pa m1, translate m none c .write (a % 2 ^ 57) = .ok (pa, m1) →
       let track := if isScratch pa then trackedAccess m1 actor pa true else .ok m1
       (poisoned m1 pa = true → mask ≠ BitVec.allOnes 64 → fails) ∧
       (poisoned m1 pa = false ∨ mask = BitVec.allOnes 64 →
         (∀ m2, track = .ok m2 → refused = told ∧
           (∀ k, k < 64 → Memory.byte w.phys (pa + k) = if bitAt mask.toNat k
             then BitVec.ofNat 8 (data.toNat / 2 ^ (8 * k)) else Memory.byte m.phys (pa + k)) ∧
           (∀ p, p < pa ∨ pa + 64 ≤ p → Memory.byte w.phys p = Memory.byte m.phys p) ∧
           (got.ready = false → w.barrier e.idie e.islot = got)) ∧
         (∀ l t k, track = .error (.race l t k) → refused = told ∧ w.phys = m.phys ∧
           (w.barrier e.idie e.islot).ovr = true ∧ (w.barrier e.idie e.islot).raced =
             some (BitVec.ofNat 64 a, BitVec.ofNat 64 (tagBits t), BitVec.ofNat 64 (tagBits stamp))) ∧
         (∀ l, track = .error (.quota l) → fails))) ∧
     (∀ code i f l, translate m none c .write (a % 2 ^ 57) = .error (.fault code i f l) → fails)) ∧
  (∀ (s : State) (k : Marker) (e : WinEnt),
     let lands := exec (.markerLand k) s
     let held := s.m.heldMarkers
     let m0 := { s.m with heldMarkers := held.erase k }
     let kept := if k ∈ held then s.m else { s.m with heldMarkers := held ++ [k] }
     let accepts := acceptWin m0 k.srcDev k.srcCtx k.srcWin k.pctx k.pwin
     let b := s.m.barrier e.idie e.islot
     let ahead := (k.epoch - b.epoch).toNat
     let waits := ∃ v ∈ s.m.heldWrites, v.srcDev = k.srcDev ∧ v.srcCtx = k.srcCtx ∧ v.srcWin = k.srcWin ∧
       v.epoch.toNat ≤ k.epoch.toNat
     let key := k.srcDev.toNat + 2 ^ 10 * k.srcCtx.val + 2 ^ 16 * k.srcWin.val + 2 ^ 22 * k.srcJob.toNat +
       2 ^ 54 * k.epoch.toNat
     let n := ((b.markers.find? fun p => decide (p.1 = key)).map Prod.snd).getD 0 + 1
     let rest := b.markers.filter fun p => !decide (p.1 = key)
     (accepts = .refuse → lands = .next { s with m := ackWrite m0 k.srcDev k.srcCtx k.srcWin 0 true }) ∧
     (∀ page, accepts = .later page → lands = .next { s with
       m := askPage kept k.pctx (page.map fun a => (ctxHome s.m k.pctx, a)) }) ∧
     (accepts = .yes e →
       (2 ^ 31 ≤ ahead → ∃ w, lands = .next { s with m := w } ∧ SameMemory s.m w ∧
         (w.barrier e.idie e.islot).ovr = true) ∧
       (ahead < 2 ^ 31 → waits ∨ 2 ≤ ahead → lands = .next { s with m := kept }) ∧
       (ahead < 2 → ¬waits →
         (n < k.copies.toNat → ∃ w, lands = .next { s with m := w } ∧ DieOnly m0 w e.idie ∧
           w.barrier e.idie e.islot = { b with markers := (key, n) :: rest }) ∧
         (k.copies.toNat ≤ n →
           let p : Barrier := { b with markers := rest }.post (decide (ahead = 1)) k.bytes.toNat
           let q : Barrier := if ahead = 0 ∧ p.arrived < p.parties then
               { p with arrived := p.arrived + 1, clkCur := Clock.join p.clkCur [] }
             else if p.narrived < p.parties then
               { p with narrived := p.narrived + 1, clkNxt := if ahead = 0 then Clock.join p.clkNxt [] else p.clkNxt }
             else { p with ovr := true }
           ∃ w, lands = .next { s with m := w } ∧ SameMemory s.m w ∧ w.barrier e.idie e.islot =
             Barrier.settle (fun φ => !flipStalls s.m e.idie e.islot.val φ) 3 q)))) ∧
  (∀ (s : State) (c win : Fin 64) (n : W32) (r : Bool), ∃ w, exec (.allowanceReturn c win n r) s = .next { s with m := w } ∧
     w = { s.m with ctxs := w.ctxs } ∧ (∀ d, d ≠ c → w.ctx d = s.m.ctx d) ∧
     let x := s.m.ctx c
     let y := w.ctx c
     let free := Tbl.get 0 x.excess win.val
     y = { x with charged := y.charged, excess := y.excess, refused := y.refused } ∧
     (∀ k, Tbl.get 0 y.charged k =
       if k = win.val then Tbl.get 0 x.charged k - (n.toNat - free) else Tbl.get 0 x.charged k) ∧
     (∀ k, Tbl.get 0 y.excess k = if k = win.val then free - n.toNat else Tbl.get 0 x.excess k) ∧
     ∀ k, Tbl.get false y.refused k = if k = win.val ∧ r = true then true else Tbl.get false x.refused k)) ∧
  (
  (∀ (s : State) (place addr : Nat) (w : Fin 64),
     let c := s.srcCore.ctx
     (∀ e, readWin s.src c w.val = .ok e →
       let usable := e.valid = true ∧ e.multi = false ∧ Tbl.get false (s.src.ctx c).refused w.val = false
       (usable → winFor s place w addr = .ok e) ∧
       (¬usable → winFor s place w addr =
         .error (.trap { code := 10, place := place, addr := BitVec.ofNat 64 addr }))) ∧
     (∀ x, readWin s.src c w.val = .error x → winFor s place w addr = accStop s place x)) ∧
  (∀ (s : State) (place addr : Nat) (w : Fin 64) (ps : List (Nat × List Byte)) (e : WinEnt),
     winFor s place w addr = .ok e →
     let c := s.srcCore.ctx
     let n := (ps.map fun p => p.2.length).sum
     let used := Tbl.get 0 (s.src.ctx c).charged w.val
     let fits := (n ≤ e.allow ∧ used + n ≤ e.allow) ∨ (e.allow < n ∧ used = 0)
     let ep := Tbl.get {} s.srcCore.epochs w.val
     let flits := ps.flatMap fun p => writeFlits c w ep.number e p.1 p.2
     (¬fits → winStore s place w addr ps = .error (.wait s.src)) ∧
     (fits → flits.length < 2 ^ 24 → ∃ t, winStore s place w addr ps = .ok t ∧ t = { s with m := t.m } ∧
       t.m.phys = s.m.phys ∧ t.m.poison = s.m.poison ∧ t.core = { s.core with epochs := t.core.epochs } ∧
       (∀ d k, ¬(d = s.cur.die ∧ k = s.cur.core) → t.m.core d k = s.m.core d k) ∧
       ((∀ q, (s.m.port q).losses = []) → t.m.host = s.m.host) ∧
       Tbl.get 0 (t.m.ctx c).charged w.val = used + min n e.allow ∧
       Tbl.get 0 (t.m.ctx c).excess w.val = n - e.allow ∧
       (let ep' := Tbl.get {} t.core.epochs w.val
        ep'.number = ep.number ∧ ep'.bytes = ep.bytes + n ∧ ep'.paths ≠ []) ∧
       ∀ b ∈ flits, ∃ q hop f, ((hop, f) ∈ (t.m.port q).sendq ∨
           ∃ x ∈ ((t.m.port f.pair).peer e.peer).replay, x.flit = f) ∧
         f.dst = e.peer ∧ f.src = s.m.device ∧ f.body = b)) ∧
  (∀ (dev : BitVec 10) (c w : Fin 64) (ep : BitVec 32) (e : WinEnt) (off : Nat) (bs : List Byte),
     off + bs.length ≤ 2 ^ 64 → e.pwin < 64 →
     let fs := writeFlits c w ep e off bs
     let ls := fs.flatMap (flitLines dev)
     (∀ f ∈ fs, 1 ≤ (flitLines dev f).length ∧ (flitLines dev f).length ≤ 3 ∧
       ∀ j l l', (flitLines dev f)[j]? = some l → (flitLines dev f)[j + 1]? = some l' →
         l'.offset.toNat = l.offset.toNat + 64) ∧
     (∀ l ∈ ls, l.srcDev = dev ∧ l.srcCtx = c ∧ l.srcWin = w ∧ l.epoch = ep ∧ l.pctx = e.pctx ∧ l.pwin.val = e.pwin ∧
       l.offset.toNat % 64 = 0 ∧ l.bytes ≠ 0 ∧
       ∀ k, k < 64 → bitAt l.bytes.toNat k = true →
         off ≤ l.offset.toNat + k ∧ bs[l.offset.toNat + k - off]? = some (BitVec.ofNat 8 (l.data.toNat / 2 ^ (8 * k)))) ∧
     ls.Pairwise (fun l l' => l.offset.toNat < l'.offset.toNat) ∧
     ∀ k, k < bs.length → ∃ l ∈ ls, l.offset.toNat = (off + k) / 64 * 64 ∧ bitAt l.bytes.toNat ((off + k) % 64) = true) ∧
  (∀ (s u : State) (o : SlotOp) (w : Fin 64), s.verdict = .go → s.pre = some s.src →
     let sends := fun (i : Instr) (u : State) (a : Nat) (bs : List Byte) =>
       (∀ t, winStore u 4 w a [(a % 2 ^ 32, bs)] = .ok t → Goes i s t) ∧
       (∀ m, winStore u 4 w a [(a % 2 ^ 32, bs)] = .error (.wait m) →
         exec i s = .next { s with m := m, verdict := .blocked }) ∧
       (∀ x, winStore u 4 w a [(a % 2 ^ 32, bs)] = .error (.trap x) → ∃ t y, exec i s = .next t ∧
         t.verdict = .trapped y ∧ y.code = x.code ∧ y.addr = x.addr)
     (∀ v, (Instr.sts o).okIn s.cur.stream = true → fetch s 4 o.ty o.c = .ok (v, u) →
       let a := effAddr s o.a o.b
       a % tyBytes o.ty = 0 → (∃ off, regionOf a (tyBytes o.ty) = some (.window w, off)) →
       sends (.sts o) u a (toBytes (tyBytes o.ty) (v.elem o.ty 0))) ∧
     (∀ n bs, (Instr.stt o).okIn s.cur.stream = true → tileBytes s o.ty = some n →
       let a := effAddr s o.a o.b
       a % (if tyBytes o.ty = 0 then 1 else tyBytes o.ty) = 0 → (∃ off, regionOf a n = some (.window w, off)) →
       (∃ e, winFor s 4 w a = .ok e) → storeBytes s o.ty o.c n = .ok (bs, u) → sends (.stt o) u a bs) ∧
     (∀ n bs, (Instr.tmov o).okIn s.cur.stream = true → fetch32 s 4 o.c = .ok n → 64 ≤ n → n ≤ 65536 → n % 64 = 0 →
       let a := addrOf s o.a
       a % 64 = 0 → addrOf s o.b % 64 = 0 → (∃ off, regionOf a n = some (.window w, off)) →
       (∃ e, winFor s 4 w a = .ok e) → memLoad 4 (addrOf s o.b) n s = .ok (bs, u) → sends (.tmov o) u a bs) ∧
     (∀ addrs size u0 bs t1, (Instr.scat o).okIn s.cur.stream = true → pieceAddrs o s = .ok (addrs, size, u0) →
       storeTest 4 (addrs.map fun a => (a, List.replicate size 0)) u0 = .ok () →
       storeBytes u0 o.ty o.c (addrs.length * size) = .ok (bs, u) →
       let ps := cutPieces size addrs bs
       let sent := (windowsOf ps).foldlM (fun s w =>
         let mine := ps.filter fun p => decide (windowOf p = some w)
         winStore s 4 w ((mine.head?.map Prod.fst).getD 0) (mine.map fun p => (p.1 % 2 ^ 32, p.2))) u
       (∀ m, sent = .error (.wait m) → exec (.scat o) s = .next { s with m := m, verdict := .blocked }) ∧
       (sent = .ok t1 → ∀ t, (ps.filter fun p => (windowOf p).isNone).foldlM (fun s p => memStore 4 p.1 p.2 s) t1 = .ok t →
         Goes (.scat o) s t))))

/-- 01 R10, 09 R285, R286, 15 R374 to R377: a port whose table agrees with the first beat of a slot meets its sender, one
that disagrees sends nothing and counts a path down, and without a beat it meets nobody. The flits whose next hop a port
meets leave it, into the replay buffer of their pair, a new one under the key that its port sends with then; a queue that
empties begins the port's idle time. A relay sends on the oldest flit whose target is met. A flit that fails is refused with
a NAK of the first missing sequence; one in sequence takes effect once and is acknowledged; a duplicate and a flit beyond a
gap change no memory; a flit for another device is held for relaying. An acknowledgement frees the flits up to it and the
old keys that both ends have dropped; a NAK re-sends those from the one it names, as they were and in order, over the path
picked then, and the sixteenth failure of one flit on a direct path marks it down. A lost module's wavelengths leave the
port, and the loss is reported at once, when no unacknowledged flit was on them or they were parked, or with its first
replay; parking keeps the first module with light, waking and joining bring wavelengths back. What other devices do is an
input (log 13, log 47); what a mark down counts is log 60. -/
def Obligations.PortsKeepSequenceAndLight : Prop :=
  (∀ (s : State) (q : Fin 72) (d : BitVec 10) (k : Fin 32),
     let x := s.m.port q
     (∃ w, exec (.slotBoundary q none k) s = .next { s with m := w } ∧ PortOnly s.m w q ∧
       w.port q = { x with met := none, disagree := false }) ∧
     (Tbl.get none x.table_ k.val = some d → exec (.slotBoundary q (some d) k) s = .next { s with
       m := pump (repick (s.m.setPort q { x with met := some d, disagree := false })) q }) ∧
     (Tbl.get none x.table_ k.val ≠ some d → ∃ w, exec (.slotBoundary q (some d) k) s = .next { s with m := w } ∧
       w = { s.m with ports := w.ports, dies := w.dies } ∧ w.port q = { x with met := none, disagree := true } ∧
       (∀ j, j ≠ q → w.port j = s.m.port j) ∧
       (w.die (portDie q)).counters.pathsDown = (s.m.die (portDie q)).counters.pathsDown + 1)) ∧
  (∀ (m : Module) (q : Fin 72),
     let x := m.port q
     let w := pump m q
     SameMemory m { w with host := m.host } ∧
     ((∀ e ∈ x.sendq, leaves m q e.1 e.2 = false) → ∀ j, w.port j = m.port j) ∧
     (∀ d, x.met = some d → x.sends = true → (x.peer d).down = false → (∀ e ∈ x.sendq, e.1 = d) →
       (∀ j, Tbl.sorted (m.port j).peers = true ∧ (m.port j).unacked + x.sendq.length ≤ 4096) →
       (∀ e ∈ x.sendq, ∀ e' ∈ x.sendq, e.2.pair = e'.2.pair → e.2.dst = e'.2.dst → e.2.seq = e'.2.seq → e.2 = e'.2) →
       (w.port q).sendq = [] ∧ (w.port q).idleSince = (if x.sendq = [] then x.idleSince else portNow m q) ∧
       (x.sendq ≠ [] → (w.port q).change = none) ∧
       ∀ e ∈ x.sendq, sequenced e.2.body = true → ∃ y ∈ ((w.port e.2.pair).peer e.2.dst).replay,
         y.flit.seq = e.2.seq ∧ y.port = q ∧ y.direct = decide (d = e.2.dst) ∧ y.lanes = lanesOf x.live ∧
         (inReplay m e.2 = false → y.flit = { e.2 with key := (m.port e.2.pair).sendKey }) ∧
         (inReplay m e.2 = true → ∃ o ∈ ((m.port e.2.pair).peer e.2.dst).replay, o.flit.seq = e.2.seq ∧ y.flit = o.flit))) ∧
  (∀ live : BitVec 16, ∀ k, k < 16 → bitAt (lanesOf live).toNat k = bitAt live.toNat k) ∧
  (∀ (m : Module) (q : Fin 72) (e : BitVec 10 × Flit) (path : Fin 72 × BitVec 10),
     ((∀ j, ∀ y ∈ (m.port j).sendq, stranded m j y = false) → repick m = m) ∧
     ((m.port q).sendq = [e] → (∀ j, j ≠ q → (m.port j).sendq = []) → stranded m q e = true →
       (pickPath m e.2.dst = none → repick m = m) ∧
       (pickPath m e.2.dst = some path → path.1 ≠ q →
         repick m = enqueue (m.setPort q { m.port q with sendq := [], idleSince := portNow m q }) path e.2))) ∧
  (∀ (s : State) (q : Fin 72) (l r : List (Fin 72 × Flit)) (e : Fin 72 × Flit),
     let p := s.m.port q
     let on := fun (x : Fin 72 × Flit) => p.sends = true ∧ p.met = some x.2.dst
     (s.m.relay = l ++ e :: r → (∀ x ∈ l, ¬on x) → on e →
       exec (.relaySend q) s = .next { s with m := { s.m with relay := l ++ r } }) ∧
     ((∀ x ∈ s.m.relay, ¬on x) → exec (.relaySend q) s = .next s)) ∧
  (∀ (s : State) (q : Fin 72) (f : Flit) (good : Bool),
     let x := (s.m.port f.pair).peer f.src
     let takes := exec (.flitReceive q f good) s
     let answers := fun (m : Module) (b : FlitBody) =>
       let path := (pickPath m f.src).getD (0, f.src)
       takes = .next { s with m := enqueue m path {
         pair := f.pair, seq := 0, key := (m.port path.1).sendKey, dst := f.src, src := m.device, body := b } }
     let verifies := good = true ∧ (Tbl.get none (s.m.port q).keys f.key.val).isSome = true
     (¬verifies → answers (countRetries s.m (portDie q) 1) (.nak (if f.dst = s.m.device then x.expect else f.seq))) ∧
     (verifies → f.dst ≠ s.m.device →
       (s.m.relay.length < 32768 → takes = .next { s with m := { s.m with relay := s.m.relay ++ [(q, f)] } }) ∧
       (32768 ≤ s.m.relay.length → answers s.m (.nak f.seq))) ∧
     (verifies → f.dst = s.m.device →
       (sequenced f.body = true →
         (f.seq ≠ x.expect → answers s.m (if (f.seq - x.expect).toNat < 2 ^ 23 then .nak x.expect else .ack (x.expect - 1))) ∧
         (f.seq = x.expect →
           let m := s.m.setPort f.pair ((s.m.port f.pair).setPeer f.src { x with expect := x.expect + 1 })
           (∀ c w e pc pw b, f.body = .write c w e pc pw b →
             answers ((flitLines f.src f.body).foldl landWrite m) (.ack f.seq)) ∧
           (∀ k, f.body = .marker k → answers (landMarker m k) (.ack f.seq)) ∧
           (∀ o n g v c off data, f.body = .multicast o n g v c true off data → answers
             (landCopy m { origin := o, cmd := n, group := g, ctx := c, off := off.toNat, data := data }) (.ack f.seq)) ∧
           (∀ o n g v c off data, f.body = .multicast o n g v c false off data →
             answers (replicate m o n g v c off data) (.ack f.seq)))) ∧
       (∀ upto, f.body = .ack upto → takes = exec (.flitAck f.pair f.src upto) s) ∧
       (∀ first, f.body = .nak first → takes = exec (.flitNak f.pair f.src first) s) ∧
       (∀ c w n r, f.body = .landing c w n r → takes = exec (.allowanceReturn c w n r) s) ∧
       (∀ n g, f.body = .multicastAck n g → Tbl.sorted s.m.chains = true → ∃ w, takes = .next { s with m := w } ∧
         w = { s.m with chains := w.chains } ∧ ∀ i, w.chain i = if chainKey i = n then
           { s.m.chain i with acks := (s.m.chain i).acks.erase (f.src, g) } else s.m.chain i))) ∧
  (∀ (s : State) (q : Fin 72) (d : BitVec 10) (n : BitVec 24),
     let p := s.m.port q
     let x := p.peer d
     let left := x.replay.filter fun e => !decide ((n - e.flit.seq).toNat < 2 ^ 23)
     ∃ w, exec (.flitAck q d n) s = .next { s with m := w } ∧ SameMemory s.m { w with host := s.m.host } ∧
       ((∀ j, (s.m.port j).sendq = []) → ((w.port q).peer d).replay = left ∧
         (p.oldKeys = [] → (∀ j, (s.m.port j).losses = []) → PortOnly s.m w q ∧
           w.port q = { p with peers := (w.port q).peers }) ∧
         (∀ k, p.oldKeys = [(k, false)] → (w.port q).oldKeys = [(k, false)] ∧ (w.port q).keys = p.keys) ∧
         (∀ k, p.oldKeys = [(k, true)] → left = [] → Tbl.sorted p.peers = true →
           (∀ e, e ≠ d → ∀ f ∈ (p.peer e).replay, f.flit.key ≠ k) → (∀ e ∈ Tbl.keys p.peers, e < 1024) →
           Tbl.get none (w.port q).keys k.val = none ∧ (w.port q).oldKeys = []))) ∧
  (∀ (m : Module) (q : Fin 72) (d : BitVec 10) (n : BitVec 24),
     let x := (m.port q).peer d
     let w := countFailure m q d n
     ((∀ e ∈ x.replay, e.flit.seq ≠ n) → w = m) ∧
     (∀ l e r, x.replay = l ++ e :: r → (∀ y ∈ l, y.flit.seq ≠ n) → e.flit.seq = n →
       let down := ((m.port e.port).peer d).down
       let failed := Tbl.get 0 e.fails e.port.val + 1
       (e.direct = false → w = m) ∧
       (e.direct = true → w = { m with ports := w.ports, dies := w.dies } ∧
         ((w.port q).peer d).replay = x.replay.map (fun o => if o.flit.seq = n then
           { o with fails := Tbl.set 0 o.fails e.port.val (Tbl.get 0 o.fails e.port.val + 1) } else o) ∧
         ((w.port e.port).peer d).down = (down || decide (16 ≤ failed)) ∧
         (w.die (portDie e.port)).counters.pathsDown = (m.die (portDie e.port)).counters.pathsDown +
           (if down = false ∧ 16 ≤ failed then 1 else 0)))) ∧
  (∀ (s : State) (q : Fin 72) (d : BitVec 10) (n : BitVec 24),
     let x := (s.m.port q).peer d
     let again := x.replay.filter fun e => decide ((e.flit.seq - n).toNat < 2 ^ 23)
     let naks := exec (.flitNak q d n) s
     let path := (pickPath (countFailure s.m q d n) d).getD (q, d)
     (again = [] → naks = .next s) ∧
     (again ≠ [] → (x.replay.map fun e => e.flit.seq).Nodup → ∃ w, naks = .next { s with m := w } ∧
       SameMemory s.m { w with host := s.m.host } ∧
       ((∀ j, (s.m.port j).sendq = []) →
         ((w.port q).peer d).replay.map (fun e => e.flit) = x.replay.map (fun e => e.flit)) ∧
       ((∀ j, (s.m.port j).met = none) → (∀ j, (s.m.port j).sendq = []) →
         (w.port path.1).sendq = again.map (fun e => (path.2, e.flit)) ∧
         ∀ j, (w.port j).losses = (s.m.port j).losses.map fun l =>
           if l.replay = none ∧ ∃ e ∈ again, e.port = j ∧ e.lanes &&& l.mask ≠ 0 then { l with replay := some {
             pair := q, dst := d, first := (again.head?.map fun e => e.flit.seq).getD 0
             last := (again.getLast?.map fun e => e.flit.seq).getD 0, count := again.length } }
           else l)) ∧
     (x.replay = [] → exec (.flitReplayTimeout q d) s = .next s) ∧
     (∀ e r, x.replay = e :: r → exec (.flitReplayTimeout q d) s = exec (.flitNak q d e.flit.seq) s)) ∧
  (∀ (s : State) (q : Fin 72) (l : Fin 4),
     let x := s.m.port q
     let mask : BitVec 16 := match l.val with | 0 => 0x000F | 1 => 0xF000 | 2 => 0x00F0 | _ => 0x0F00
     let hit := ∃ p ∈ s.m.ports, ∃ y ∈ p.2.peers, ∃ e ∈ y.2.replay, e.port = q ∧ e.lanes &&& mask ≠ 0
     let live := x.live &&& ~~~mask
     let parked := x.parked &&& ~~~mask
     let wake := if live = 0 then parked else 0
     let lost := x.lost ||| BitVec.ofNat 4 (2 ^ l.val)
     let goes := exec (.lossOfLight q l) s
     let y : Port := { x with
       live := live, parked := parked &&& ~~~wake, waking := (x.waking &&& ~~~mask) ||| wake, lost := lost
       change := if x.live = live then x.change else some ((x.change.map Prod.fst).getD x.live, live)
       losses := if x.live &&& mask = 0 then x.losses else x.losses ++ [{ lm := l, mask := mask }] }
     (bitAt x.lost.toNat l.val = true → goes = .next s) ∧
     (bitAt x.lost.toNat l.val = false → lost ≠ 0xF → (∀ j, (s.m.port j).losses = []) → ∃ w, goes = .next { s with m := w } ∧
       (∀ j, j ≠ q → w.port j = s.m.port j) ∧
       (x.live &&& mask ≠ 0 ∧ hit → w.port q = y ∧ w.evseq = s.m.evseq) ∧
       (¬(x.live &&& mask ≠ 0 ∧ hit) → w.port q = { y with losses := [] } ∧ w.evseq = s.m.evseq + 1)) ∧
     (bitAt x.lost.toNat l.val = false → lost = 0xF →
       goes = .next { s with m := portDown (if x.live &&& mask = 0 then sendLoslight (s.m.setPort q y) q l mask 0 0
         else clearLosses (s.m.setPort q y)) q })) ∧
  (∀ (m : Module) (q : Fin 72), (∀ e ∈ (m.port q).peers, e.2.replay = []) → portDown m q = repick m) ∧
  (∀ (m : Module) (q : Fin 72) (d : BitVec 10) (x : Peer) (f : Sent) (r : List Sent),
     (m.port q).peers = [(d.toNat, x)] → x.replay = f :: r → portDown m q = repick (replayPair m q d f.flit.seq)) ∧
  (∀ (s : State) (q : Fin 72),
     let x := s.m.port q
     let mask : Fin 4 → BitVec 16 := fun l => match l.val with | 0 => 0x000F | 1 => 0xF000 | 2 => 0x00F0 | _ => 0x0F00
     let idle := x.sendq = [] ∧ x.idleNs.toNat * 2 ≤ ((s.m.die (portDie q)).cyc - x.idleSince).toNat
     let striped : BitVec 16 → Port := fun live => { x with live := live, change := if x.live = live then x.change else some ((x.change.map Prod.fst).getD x.live, live) }
     (¬idle → exec (.portPark q) s = .next s) ∧
     (∀ l, idle → x.live &&& mask l ≠ 0 → (∀ j, j < l → x.live &&& mask j = 0) →
       ∃ w, exec (.portPark q) s = .next { s with m := w } ∧ PortOnly s.m w q ∧
         w.port q = { striped (x.live &&& mask l) with parked := x.parked ||| (x.live &&& ~~~mask l) }) ∧
     (idle → x.live = 0 → ∃ w, exec (.portPark q) s = .next { s with m := w } ∧ PortOnly s.m w q ∧ w.port q = x) ∧
     (x.parked = 0 ∨ x.sendq.length ≤ x.threshold.toNat → exec (.portWake q) s = .next s) ∧
     (x.parked ≠ 0 → x.threshold.toNat < x.sendq.length → ∃ w, exec (.portWake q) s = .next { s with m := w } ∧
       PortOnly s.m w q ∧ w.port q = { x with waking := x.waking ||| x.parked, parked := 0 }) ∧
     ∀ k : Fin 16, let bit : BitVec 16 := BitVec.ofNat 16 (2 ^ k.val)
       (x.waking &&& bit = 0 → exec (.wavelengthJoin q k) s = .next s) ∧
       (x.waking &&& bit ≠ 0 → ∃ w, exec (.wavelengthJoin q k) s = .next { s with m := w } ∧ PortOnly s.m w q ∧
         w.port q = { striped (x.live ||| bit) with waking := x.waking &&& ~~~bit }))

/-! ### Host and management (01 R27, 14 R331, R345 to R350, 15 R356 to R358, R378 to R381) -/

/-- 15 R356 to R358, R362, R378, R380, 01 R27: REPLAY has a held stream issue again, NEXT has it go on behind its bundle,
the scale bypass of X shifting once, FAIL ends its job, a stream in the middle of a bundle once that retires; of a held
chain REPLAY ends the hold and STOP the chain; a target that is not held answers 2 and an unknown one 1, and a checkpointed
job has the disposition applied to what it will resume with. READREC writes the two records of a stream, or an engine record
and zeros. EVRING sets the ring and both indices; a base or size that R356 does not admit answers 3 (the model's choice, log
33). RESYNC writes as many whole pieces of the summary as the buffer holds and says whether it was cut. The write of bytes 0
to 7 of a deposit slot or of the take pattern completes it: the host's deposits and takes go through its context's home die;
its other bytes are held, its other writes discarded, its reads answer the counts, the status and the tuple taken, and its
read index never stands beyond the write index (log 64). -/
def Obligations.DispositionsAndHostAccess : Prop :=
  (∀ (s : State) (q : StreamName),
     let c := mailCtx s
     let g := mailGraph s
     let ends := fun (i : Instr) (n : Nat) (m : Module) =>
       exec i s = .next { s with m := { m with busy := false, result := BitVec.ofNat 8 n } }
     let each := fun (n : Nat) => ends .disposeReplay n s.m ∧ ends .disposeNext n s.m ∧ ends .disposeFail n s.m
     let skips := fun (x : Stream) => { advance x with
       status := Status.running, handler := x.handler.map (· + 1), oplog := ([] :: x.oplog).take 64 }
     let shifts := fun (x : Core) => if q = .x ∧ (x.stream q).handler = none
       then { x with stage3 := x.stage2, stage2 := x.stage1, stage1 := none } else x
     (mailStream s = none → each 1) ∧
     (mailStream s = some q →
       (mailJob s = .none → each 1) ∧ (mailJob s = .waiting → each 2) ∧
       (∀ d k, mailJob s = .core d k →
         let x := s.m.core d k
         ((x.stream q).status ≠ .held → each 2) ∧
         ((x.stream q).status = .held →
           ends .disposeReplay 0 (s.m.setCore d k (x.setStream q { x.stream q with status := .running })) ∧
           ends .disposeNext 0 (s.m.setCore d k ((shifts x).setStream q (skips (x.stream q)))) ∧
           ∃ w, ends .disposeFail 0 w ∧ (w.strm ⟨d, k, q⟩).status = .failed ∧ ∀ r, (w.strm ⟨d, k, r⟩).status = .failed ∨
             ((x.stream r).status = .running ∧ (w.strm ⟨d, k, r⟩).doomed = true))) ∧
       (∀ n k, mailJob s = .saved n k → findNode s.m c g n.node = some n →
         let x := n.saved.getD k {}
         ((x.stream q).status ≠ .held → each 2) ∧
         ((x.stream q).status = .held →
           let edits := fun (i : Instr) (f : Core → Core) => ∃ w, ends i 0 w ∧ w = { s.m with graphs := w.graphs } ∧
             findNode w c g n.node = some { n with saved := n.saved.modify k f }
           edits .disposeReplay (fun x => x.setStream q { x.stream q with status := .running }) ∧
           edits .disposeNext (fun x => (shifts x).setStream q (skips (x.stream q))) ∧
           edits .disposeFail (fun x => x.setStream q { x.stream q with status := .failed }))))) ∧
  (∀ (s : State) (j : ChainId),
     let ends := fun (i : Instr) (n : Nat) (m : Module) =>
       exec i s = .next { s with m := { m with busy := false, result := BitVec.ofNat 8 n } }
     let each := fun (n : Nat) => ends .disposeChainReplay n s.m ∧ ends .disposeChainStop n s.m
     let names := (mailIndex s ≠ 0xFFFF ∧ ∃ d k, mailJob s = .core d k ∧ j = .job d k (Fin.ofNat 16 (fld (mailW s 1) 16 4))) ∨
       (mailIndex s = 0xFFFF ∧ ∃ n, findNode s.m (mailCtx s) (mailGraph s) (BitVec.ofNat 16 (mailNode s)) = some n ∧
         n.st = .chain ∧ j = .node n.die (mailCtx s) (mailGraph s) n.node)
     (mailIndex s ≠ 0xFFFF → mailJob s = .none → each 1) ∧
     (mailIndex s ≠ 0xFFFF → mailJob s = .waiting ∨ (∃ n k, mailJob s = .saved n k) → each 2) ∧
     (names → (s.m.chain j).held = false → each 2) ∧
     (names → (s.m.chain j).held = true →
       ends .disposeChainReplay 0 (s.m.setChain j { s.m.chain j with held := false }) ∧
       ∃ w, ends .disposeChainStop 0 w ∧ (w.chain j).state = 4 ∧ (w.chain j).held = false ∧
         (w.chain j).record = (s.m.chain j).record)) ∧
  (∀ (s : State) (q : StreamName) (d : Fin 16) (k : Fin 128),
     let words := fun (r : Rec8) => [r.w0, r.w1, r.w2, r.w3, r.w4, r.w5, r.w6, r.w7]
     let a := mailW s 4
     let gets := fun (r t : Rec8) => ∃ w, exec .readrec s = .next { s with m := w } ∧
       w = { s.m with host := w.host, busy := false, result := 0 } ∧
       (∀ i, i < 8 → Memory.read w.host (a + 8 * i) 8 = ((words r).getD i 0).toNat ∧
         Memory.read w.host (a + 64 + 8 * i) 8 = ((words t).getD i 0).toNat) ∧
       ∀ b, b < a ∨ a + 128 ≤ b → Memory.byte w.host b = Memory.byte s.m.host b
     (bitAt (mailW s 1) 8 = false → mailStream s = some q → mailJob s = .core d k →
       gets ((s.m.core d k).stream q).trec ((s.m.core d k).stream q).tprev) ∧
     (bitAt (mailW s 1) 8 = true → mailIndex s ≠ 0xFFFF → mailJob s = .core d k →
       gets (s.m.chain (.job d k (Fin.ofNat 16 (fld (mailW s 1) 16 4)))).record {}) ∧
     (mailIndex s ≠ 0xFFFF → mailJob s = .none →
       exec .readrec s = .next { s with m := { s.m with busy := false, result := 1 } })) ∧
  (∀ (s : State) (v : W64),
     let ok := mailW s 1 % 4096 = 0 ∧ ∃ n, 6 ≤ n ∧ n ≤ 16 ∧ mailW s 2 = 2 ^ n
     (ok → exec .evring s = .next { s with m := { s.m with
       ring := some { base := s.m.mail.w1, entries := mailW s 2, vector := s.m.mail.w3 }, widx := 0, ridx := 0
       busy := false, result := 0 } }) ∧
     (¬ok → exec .evring s = .next { s with m := { s.m with busy := false, result := 3 } }) ∧
     exec (.eventReadIndexWrite v) s = .next { s with m := { s.m with
       ridx := if (s.m.widx - v).toNat < 2 ^ 63 then v else s.m.widx } } ∧
     ∃ ps qs, (summary s.m).flatMap (Section.pieces s.m) = ps ++ qs ∧ ps.flatten.length ≤ mailW s 1 ∧
       (∀ p r, qs = p :: r → mailW s 1 < ps.flatten.length + p.length) ∧
       exec .resync s = .next { s with m := { s.m with
         host := Memory.puts s.m.host (mailW s 2) ps.flatten, busy := false, result := if qs = [] then 0 else 4 } }) ∧
  (∀ (s : State) (c : Fin 64) (slot : Fin 512) (off : BitVec 16) (v : W64),
     let deposits := exec (.hostDeposit c slot v) s
     let x := s.m.ctx c
     let img := BitVec.ofNat 512 (putFld (Tbl.get 0 x.slots slot.val).toNat 0 64 v.toNat)
     let pat := BitVec.ofNat 512 (putFld x.pattern.toNat 0 64 v.toNat)
     let full := { x with slots := Tbl.set 0 x.slots slot.val img }
     let d := ctxHome s.m c
     let ours := tupStored img (ctxTuple s.m c)
     let k := homeSlice (tupTag img)
     exec (.registerWriteOther c off v) s = .next s ∧
     (ctxValid s.m c = false ∨ 0xFFFFFF00 < tupTag img →
       ∃ w, deposits = .next { s with m := w } ∧ w = { s.m with ctxs := w.ctxs } ∧ (∀ e, e ≠ c → w.ctx e = s.m.ctx e) ∧
         w.ctx c = { full with refusedDeposits := x.refusedDeposits + 1 }) ∧
     (ctxValid s.m c = true → tupTag img < 0xFFFFFF00 → (∀ q ∈ (s.m.slice d k).parked, tupMatch ours q.pattern = false) →
       (s.m.slice d k).stored.length < 4096 → ∃ w, deposits = .next { s with m := w } ∧ SameMemory s.m w ∧
         w.slice d k = { s.m.slice d k with stored := (s.m.slice d k).stored ++
           [{ image := ours, clk := [], age := s.m.ticket }] } ∧
         w.ctx c = { full with applied := x.applied + 1 }) ∧
     (ctxValid s.m c = true → tupTag img = 0xFFFFFF00 → ctxOfTuple s.m (ctxTuple s.m c) = some c →
       ∃ w, deposits = .next { s with m := w } ∧ w.ctx c = { full with applied := x.applied + 1 } ∧
         w.die d = { s.m.die d with launches := (s.m.die d).launches ++
           [{ ctx := c, image := ours, clk := [], reads := 0, nextAt := (s.m.die d).cyc }] }) ∧
     let takes := exec (.hostTake c v) s
     let found := if ctxValid s.m c = true ∧ tupTag pat ≠ 0xFFFFFF00
       then findTuple s.m d (tupPattern pat (ctxTuple s.m c)) else none
     (found = none → ∃ w, takes = .next { s with m := w } ∧ w = { s.m with ctxs := w.ctxs } ∧
       (∀ e, e ≠ c → w.ctx e = s.m.ctx e) ∧ w.ctx c = { x with pattern := pat, status := 1 }) ∧
     (∀ t, found = some t → ∃ w, takes = .next { s with m := w } ∧ (w.ctx c).pattern = pat ∧ (w.ctx c).area = t.image ∧
       (w.ctx c).status = 0 ∧ w.dies = (removeTuple s.m d t).dies) ∧
     let o := off.toNat / 8 * 8
     let writes := fun (y : CtxDyn) => ∃ w, windowWrite exec c off v s = .next { s with m := w } ∧ w = { s.m with ctxs := w.ctxs } ∧
       (∀ e, e ≠ c → w.ctx e = s.m.ctx e) ∧ w.ctx c = y
     let line := fun (l : Line) => BitVec.ofNat 512 (putFld l.toNat (8 * (o % 64)) 64 v.toNat)
     (o < 0x8000 → o % 64 = 0 → slot.val = o / 64 → windowWrite exec c off v s = deposits) ∧
     (o < 0x8000 → o % 64 ≠ 0 → slot.val = o / 64 → writes { x with
       slots := Tbl.set 0 x.slots slot.val (line (Tbl.get 0 x.slots slot.val)) }) ∧
     (o = 0x9000 → windowWrite exec c off v s = takes) ∧
     (0x9000 < o → o < 0x9040 → writes { x with pattern := line x.pattern }) ∧
     ((0x8000 ≤ o ∧ o < 0x9000) ∨ 0x9040 ≤ o → windowWrite exec c off v s = .next s) ∧
     windowRead s.m c off =
       if o = 0x8000 then x.applied else if o = 0x8008 then x.refusedDeposits else if o = 0x9040 then x.status.setWidth 64
       else if 0x9080 ≤ o ∧ o ≤ 0x90B8 then BitVec.ofNat 64 (x.area.toNat / 2 ^ (8 * (o - 0x9080)) % 2 ^ 64) else 0)

/-- 00 R4, 14 R330 to R333, R345, 15 R357, R368, 11 R325: CTXLOAD is refused with 3 while its context is resident or a test
of R331 fails; otherwise the control block stands with valid set, the granted bytes are zero or those of the save area,
every other byte stays (but for the stack areas, which the Zithers then fill as they build their free lists: log 70), the
tags of the granted lines are gone, the granted slots invalid and the granted groups and buffers empty. CTXUNLOAD of a
context with a job or a running chain answers 3; otherwise its granted bytes stand in its area, which its own tables map,
and valid is cleared. That a granted byte's place in the area follows its physical address, and that an area that cannot be
reached is refused with 3, is the model's choice (log 18). CCBSET writes words 2 and 3 and the ceiling alone. The reserved
bits of a word of the block are ignored. WINSET writes an entry where it can. REMAP retires its die's lost banks for good:
units that stay keep their bytes, units beyond the new capacity lose them, and units of a bank lost with its bus are
poisoned. MIGRATE decides on the nodes of its cluster. A context that is not resident answers 1 (the model's choice, log
34). -/
def Obligations.ContextsLoadAndMemoryRemaps : Prop :=
  (∀ (m : Module) (c : Fin 64), loadOk m c = true →
     (ctxDbase m c + ctxDsize m c ≤ 2048 * 65536 ∧ ctxCbase m c + ctxCsize m c ≤ 256 * 65536 ∧
       ctxGbase m c + ctxGcount m c ≤ 1024 ∧ ctxBbase m c + ctxBcount m c ≤ 256) ∧
     (∀ x, x ≠ c → ctxValid m x = true →
       (∀ r, ¬(ctxDbase m c ≤ r ∧ r < ctxDbase m c + ctxDsize m c ∧ ctxDbase m x ≤ r ∧ r < ctxDbase m x + ctxDsize m x)) ∧
       (∀ r, ¬(ctxCbase m c ≤ r ∧ r < ctxCbase m c + ctxCsize m c ∧ ctxCbase m x ≤ r ∧ r < ctxCbase m x + ctxCsize m x)) ∧
       (∀ k, ¬(grantSlot m c k = true ∧ grantSlot m x k = true)) ∧ (∀ k, ¬(grantGroup m c k = true ∧ grantGroup m x k = true)) ∧
       ∀ k, ¬(grantBuf m c k = true ∧ grantBuf m x k = true)) ∧
     (((List.finRange 64).filter fun x => ctxValid m x).map (ctxTshare m)).sum ≤ 256 ∧
     (((List.finRange 64).filter fun x => ctxValid m x).map (ctxPshare m)).sum ≤ 4096 ∧
     ∀ w e, w < 64 → readWin m c w = .ok e → e.valid = true → grantSlot m c e.islot.val = true) ∧
  (∀ k, k < 32 → ccbBits k = [0x0000FFFFFFFFF000, 0xC0000000FFFFF73F, 0x01FF1FFFFFFFFFFF, 0xFFFFFFFFFFFFFFFF,
     0x01FFFFFFFFFFFFFF, 0x01FFFFFFFFFFFFFF, 0x01FFFFFFFFFFFFFF, 0x01FFFFFFFFFFFFFF, 0x01FFFFFFFFFFFFFF,
     0x000007FFFFFFFFFF, 0x0000003FFFFFFFFF, 0x00000003FFFFFFFF].getD k (if k < 20 then 0xFFFFFFFFFFFFFFFF else 0)) ∧
  (∀ (m : Module) (c : Fin 64) (k : AccKind) (area : Nat) (ps : List (Nat × Nat × Nat)), saveArea m c k area = .ok ps →
     ∀ i, i < 16 * grantDie m c → ∃ p ∈ ps, p.1 ≤ i ∧ i < p.1 + p.2.2 ∧ (area + p.1) / 4096 = (area + i) / 4096 ∧
       ∃ r, translate m none c k ((area + p.1) % 2 ^ 57) = .ok r ∧ r.1 = p.2.1) ∧
  (∀ (m : Module) (c : Fin 64) (z : Fin 8),
     (∀ p, zpoolOf m c z = .ok p → p.hcount = 0 ∧ p.bcount = 0) → (buildPool m c z).phys = m.phys) ∧
  (∀ (s : State),
     let word := fun (k : Nat) => BitVec.ofNat 64 (Memory.read s.m.host (mailW s 1 + 8 * k) 8) &&& ccbBits k
     let c : Fin 64 := Fin.ofNat 64 (word 1).toNat
     let area := mailW s 2
     let block : Tbl W64 := ((List.range 32).zip (((List.range 32).map word).set 1 (word 1 ||| 2 ^ 63))).foldl
       (fun t e => Tbl.set 0 t e.1 e.2) []
     let loaded := { s.m with ccbs := Tbl.set ccbReset s.m.ccbs c.val block }.modCtx c fun x => { x with tables := s.m.phys }
     let refused := exec .ctxload s = .next { s with m := { s.m with busy := false, result := 3 } }
     let reads := if area = 0 then .ok [] else saveArea loaded c .read area
     (ctxValid s.m c = true ∨ loadOk loaded c = false → refused) ∧
     (ctxValid s.m c = false → loadOk loaded c = true → reads = .error .busy → exec .ctxload s = .next s) ∧
     (ctxValid s.m c = false → loadOk loaded c = true → ∀ e, reads = .error e → e ≠ .busy → refused) ∧
     (ctxValid s.m c = false → loadOk loaded c = true → ∀ ps, reads = .ok ps → ∃ v w, exec .ctxload s = .next { s with m := w } ∧
       w.phys = ((List.finRange 8).foldl (fun m z => buildPool m c z) v).phys ∧ w.busy = false ∧ w.result = 0 ∧ ctxValid w c = true ∧
       (∀ k, k < 32 → ccb w c k = (if k = 1 then word 1 ||| 2 ^ 63 else word k).toNat) ∧
       (∀ x k, x ≠ c → ccb w x k = ccb s.m x k) ∧
       (∀ a, grantKey w c a = none → Memory.byte v.phys a = Memory.byte s.m.phys a) ∧
       (area = 0 → ∀ a, grantKey w c a ≠ none → Memory.byte v.phys a = 0) ∧
       (∀ a k p, area ≠ 0 → Memory.wf s.m.phys = true → grantKey w c a = some k → p ∈ ps → p.1 ≤ k → k < p.1 + p.2.2 →
         Memory.byte v.phys a = Memory.byte s.m.phys (p.2.1 + (k - p.1))) ∧
       ∀ d, (∀ line, grantKey w c (64 * line) ≠ none → Tbl.get {} (w.die d).tags line = {}) ∧
         (∀ k : Fin 256, grantSlot w c k.val = true → (w.barrier d k).valid = false) ∧
         (∀ g, grantGroup w c g = true → w.group d g = {}) ∧ ∀ o, grantBuf w c o = true → w.buf d o = {})) ∧
  (∀ (s : State),
     let c := mailCtx s
     let area := mailW s 2
     let busy := (∃ e ∈ s.m.cores, ∃ j, e.2.job = some j ∧ j.ctx = c) ∨
       ∃ e ∈ s.m.chains, e.2.ctx = c ∧ (e.2.state = 1 ∨ e.2.state = 2)
     let ends := fun (i : Instr) (n : Nat) =>
       exec i s = .next { s with m := { s.m with busy := false, result := BitVec.ofNat 8 n } }
     (ctxValid s.m c = false → ends .ctxunload 1 ∧ ends .ccbset 1 ∧ ends .winset 1) ∧
     (ctxValid s.m c = true → busy → ends .ctxunload 3) ∧
     let writes := saveArea s.m c .write area
     (ctxValid s.m c = true → ¬busy → writes = .error .busy → exec .ctxunload s = .next s) ∧
     (ctxValid s.m c = true → ¬busy → ∀ e, writes = .error e → e ≠ .busy → ends .ctxunload 3) ∧
     (ctxValid s.m c = true → ¬busy → ∀ ps, writes = .ok ps → ∃ w, exec .ctxunload s = .next { s with m := w } ∧
       w = { s.m with phys := w.phys, poison := w.poison, ccbs := w.ccbs, busy := false, result := 0 } ∧ ctxValid w c = false ∧
       (∀ x k, ccb w x k = if x = c ∧ k = 1 then (BitVec.ofNat 64 (ccb s.m c 1 - 2 ^ 63) &&& ccbBits 1).toNat
         else ccb s.m x k) ∧
       (Memory.wf s.m.phys = true →
         (∀ a, (∀ p ∈ ps, ¬(p.2.1 ≤ a ∧ a < p.2.1 + p.2.2)) → Memory.byte w.phys a = Memory.byte s.m.phys a) ∧
         ((∀ p ∈ ps, ∀ q ∈ ps, p = q ∨ p.2.1 + p.2.2 ≤ q.2.1 ∨ q.2.1 + q.2.2 ≤ p.2.1) →
           ∀ a k p, grantKey s.m c a = some k → p ∈ ps → p.1 ≤ k → k < p.1 + p.2.2 →
             Memory.byte w.phys (p.2.1 + (k - p.1)) = Memory.byte s.m.phys a))) ∧
     (ctxValid s.m c = true →
       let k := fld (mailW s 1) 8 5
       let v := (s.m.mail.w2 &&& ccbBits k).toNat
       let allowed := k = 2 ∨ k = 3 ∨ (k = 1 ∧ putFld v 8 3 0 = putFld (ccb s.m c 1) 8 3 0)
       (¬allowed → ends .ccbset 3) ∧
       (allowed → ∃ w, exec .ccbset s = .next { s with m := w } ∧ w = { s.m with ccbs := w.ccbs, busy := false, result := 0 } ∧
         ∀ x j, ccb w x j = if x = c ∧ j = k then v else ccb s.m x j) ∧
       let stores := storeDev s.m none none c (winAddr s.m c (fld (mailW s 1) 8 6)) (Memory.bytes s.m.host (mailW s 2) 32)
       (∀ w, stores = .ok w → exec .winset s = .next { s with m := { w with busy := false, result := 0 } }) ∧
       (stores = .error .busy → exec .winset s = .next s) ∧
       ∀ e, stores = .error e → e ≠ .busy → ends .winset 3)) ∧
  (∀ (s : State),
     let d : Fin 16 := Fin.ofNat 16 (mailW s 1)
     let x := s.m.die d
     ∃ w, exec .remap s = .next { s with m := w } ∧
       w = { s.m with phys := w.phys, poison := w.poison, dies := w.dies, busy := false, result := 0 } ∧
       (∀ e, e ≠ d → w.die e = s.m.die e) ∧
       w.die d = { x with retired := x.retired.map (fun r => { r with remapped := true }), gen := x.gen + 1 } ∧
       (∀ a, ((∃ k l o, stackedAt a = some (d.val, k, l, o) ∧ (layerBanks (w.die d) k l).length * 32768 ≤ o / 4096) →
           Memory.byte w.phys a = 0) ∧
         (¬(∃ k l o, stackedAt a = some (d.val, k, l, o) ∧ (layerBanks (w.die d) k l).length * 32768 ≤ o / 4096) →
           Memory.byte w.phys a = Memory.byte s.m.phys a)) ∧
       ∀ k l u b o j, k < 2 → l < 16 → u < (layerBanks (w.die d) k l).length * 32768 → bankAt x k l (4096 * u) = some (b, o) →
         (∃ r ∈ x.retired, r.remapped = false ∧ r.cause = .bus ∧ r.stack.val = k ∧ r.layer.val = l ∧ r.bank.val = b) → j < 64 →
         poisoned w (d.val * 0x2000000000 + k * 0x1000000000 + l * 0x100000000 + 4096 * u + 64 * j) = true) ∧
  (∀ (s : State),
     let d : Fin 16 := Fin.ofNat 16 (mailW s 1)
     let k : Fin 8 := Fin.ofNat 8 (mailW s 1 / 16)
     let takes := fun (n : NodeRun) => n.die = d ∧ (∃ c ∈ n.cores, clusterOf c = k) ∧ n.decision ≠ .kill
     ∃ w, exec .migrate s = .next { s with m := { w with busy := false, result := 0 } } ∧
       ((∀ i ∈ s.m.graphs, ∀ n ∈ i.nodes, ¬takes n) → w = s.m) ∧
       ∀ i n l r p q, s.m.graphs = l ++ i :: r → i.nodes = p ++ n :: q → takes n →
         (∀ j ∈ l ++ r, ∀ v ∈ j.nodes, ¬takes v) → (∀ v ∈ p ++ q, ¬takes v) → (∀ c ∈ n.cores, (s.m.core d c).region = none) →
         w = decideNode s.m i.ctx i.graph n (.checkpoint (some k)))

/-- 14 R349, R350, 15 R357, R375, R376, 09 R285, R291: MATCHSET writes the 32 entries of a port's table; PARKSET its idle
time and threshold; KEYSET a key into a free index, under which the port sends from then on when it is asked to, the key
before standing until both ends say that no flit under it is left; an index that holds a key answers 3. MCAST makes the next
version of a group and completes when no packet of the one before is left. ATTEST writes the report's fields and digests at
their offsets, the RSASSA-PSS signature of the identity key over them under some salt of 64 bytes, and the certificate;
FUSEMIN raises the minimum version only. BOOT runs the images up to the first that does not verify, and the firmware when
all four do. SHA-512 and the verification are those of log 77, which also leaves the place of the version and the bytes of
the key free. What answers 1, an entry that names no device, and more than 64 fuses are the model's choices (log 34). -/
def Obligations.ManagementServesFabricAndSecurity : Prop :=
  (∀ (s : State) (q : Fin 72),
     let x := s.m.port q
     let n := fld (mailW s 1) 0 7
     let ends := fun (i : Instr) (n : Nat) =>
       exec i s = .next { s with m := { s.m with busy := false, result := BitVec.ofNat 8 n } }
     let sets := fun (i : Instr) (w : Module) => exec i s = .next { s with m := { w with busy := false, result := 0 } }
     (72 ≤ n → ends .matchset 1 ∧ ends .parkset 1 ∧ ends .keyset 1) ∧
     (n = q.val →
       let entry := fun (k : Nat) => Memory.read s.m.host (mailW s 2 + 2 * k) 2
       ((∃ k, k < 32 ∧ 1024 ≤ entry k ∧ entry k ≠ 0xFFFF) → ends .matchset 3) ∧
       ((∀ k, k < 32 → entry k < 1024 ∨ entry k = 0xFFFF) → ∃ w, sets .matchset w ∧ PortOnly s.m w q ∧
         w.port q = { x with table_ := (w.port q).table_ } ∧
         ∀ k, k < 32 → Tbl.get none (w.port q).table_ k =
           if entry k = 0xFFFF then none else some (BitVec.ofNat 10 (entry k))) ∧
       (∃ w, sets .parkset w ∧ PortOnly s.m w q ∧ w.port q = { x with idleNs := s.m.mail.w2, threshold := s.m.mail.w3 }) ∧
       let k := fld (mailW s 1) 8 2
       let key := BitVec.ofNat 256 (Memory.read s.m.host (mailW s 2) 32)
       (Tbl.get none x.keys k ≠ none → ends .keyset 3) ∧
       (Tbl.get none x.keys k = none → (∀ j ∈ x.oldKeys, j.1.val ≠ k) → ∃ w, sets .keyset w ∧
         Tbl.get none (w.port q).keys k = some key ∧
         (bitAt (mailW s 1) 16 = true → (w.port q).sendKey.val = k) ∧
         (bitAt (mailW s 1) 16 = false → (w.port q).sendKey = x.sendKey) ∧
         ((∀ j ∈ x.oldKeys, j.2 = false) → PortOnly s.m w q ∧
           (∀ j, j ≠ k → Tbl.get none (w.port q).keys j = Tbl.get none x.keys j) ∧
           (bitAt (mailW s 1) 16 = false → w.port q = { x with keys := (w.port q).keys }) ∧
           (bitAt (mailW s 1) 16 = true → w.port q = { x with
             keys := (w.port q).keys, sendKey := (w.port q).sendKey
             oldKeys := if Tbl.get none x.keys x.sendKey.val = none ∨ x.sendKey.val = k then x.oldKeys
               else x.oldKeys ++ [(x.sendKey, false)] }))))) ∧
  (∀ (m : Module) (q : Fin 72) (k : Fin 4) (done : Bool), (m.port q).oldKeys = [(k, done)] →
     let used := ∃ e ∈ (m.port q).peers, ∃ f ∈ e.2.replay, f.flit.key = k
     (done = false ∨ used → rollKeys m q = m) ∧
     (done = true → ¬used → Tbl.get none ((rollKeys m q).port q).keys k.val = none ∧ ((rollKeys m q).port q).oldKeys = [] ∧
       (rollKeys m q).evseq = m.evseq + 1)) ∧
  (∀ (s : State),
     let g := fld (mailW s 1) 0 8
     let n := mailW s 3
     let old := Tbl.get {} s.m.mcast g
     let made : McGroup := {
       members := (List.range n).map fun k => BitVec.ofNat 10 (Memory.read s.m.host (mailW s 2 + 2 * k) 2)
       version := old.version + 1, old := some (old.version, old.members) }
     let new := if old.old.isSome then old else made
     let left := packetsOf s.m (BitVec.ofNat 8 g) ((new.old.map Prod.fst).getD 0)
     (1024 < n → exec .mcast s = .next { s with m := { s.m with busy := false, result := 3 } }) ∧
     (n ≤ 1024 → ∃ w, exec .mcast s = .next { s with m := w } ∧
       (left = true → w = { s.m with mcast := w.mcast }) ∧
       (left = false → w = { s.m with mcast := w.mcast, busy := false, result := 0 }) ∧
       Tbl.get {} w.mcast g = (if left then new else { new with old := none }) ∧
       ∀ h, h ≠ g → Tbl.get {} w.mcast h = Tbl.get {} s.m.mcast h)) ∧
  (∀ (s : State),
     let c := mailW s 1
     let a := mailW s 3
     let named := c = 0xFFFFFFFF ∨ ∃ h : c < 64, ctxValid s.m ⟨c, h⟩ = true
     (¬named → exec .attest s = .next { s with m := { s.m with busy := false, result := 1 } }) ∧
     (named → ∃ w, exec .attest s = .next { s with m := w } ∧ w.busy = false ∧ w.result = 0 ∧ w.phys = s.m.phys ∧
       Memory.read w.host a 4 = 1 ∧ Memory.bytes w.host (a + 12) 32 = Memory.bytes s.m.host (mailW s 2) 32 ∧
       Memory.read w.host (a + 300) 4 = s.m.minVersion % 2 ^ 32 ∧ Memory.read w.host (a + 304) 4 = c ∧
       (c = 0xFFFFFFFF → Memory.read w.host (a + 308) 64 = 0) ∧
       (∀ h : c < 64, Memory.bytes w.host (a + 308) 64 =
         sha512 ((List.range 32).flatMap fun k => toBytes 8 (ccb s.m ⟨c, h⟩ k))) ∧
       (∀ k i, k < 4 → s.m.images[k]? = some i → Memory.bytes w.host (a + 44 + 64 * k) 64 = sha512 i.bytes) ∧
       Memory.read w.host (a + 372) 8 = (s.m.die 0).cyc.toNat ∧ Memory.read w.host (a + 380) 4 = 0 ∧
       (∃ salt : List Byte, salt.length = 64 ∧ Memory.bytes w.host (a + 384) 512 = bigEndian 512
         (powMod (ofBig (pssEncode (sha512 (Memory.bytes w.host a 384)) salt)) Config.identityPrivate Config.identityModulus)) ∧
       Memory.bytes w.host (a + 896) Config.certificate.length = Config.certificate ∧
       ∀ b, b < a → Memory.byte w.host b = Memory.byte s.m.host b)) ∧
  (∀ digest salt : List Byte, salt.length = 64 → pssOk digest (pssEncode digest salt) = true) ∧
  (∀ (s : State) (is : List FwImage),
     let v := mailW s 1
     (v ≤ s.m.minVersion ∨ 64 < v → exec .fusemin s = .next { s with m := { s.m with busy := false, result := 3 } }) ∧
     (s.m.minVersion < v → v ≤ 64 →
       exec .fusemin s = .next { s with m := { s.m with minVersion := v, busy := false, result := 0 } }) ∧
     let ok := fun (i : FwImage) =>
       BitVec.ofNat 512 (ofBig (sha512 (Config.keyBytes i.modulus i.exponent))) = s.m.rootKey ∧
       rsaPssOk i.modulus i.exponent i.bytes i.signature = true ∧ s.m.minVersion ≤ (Config.imageVersion i.bytes).toNat
     ∃ l r, is = l ++ r ∧ (∀ i ∈ l, ok i) ∧ (∀ i t, r = i :: t → ¬ok i) ∧
       exec (.boot is) s = .next { s with m := { s.m with images := l, booted := r.isEmpty && is.length == 4 } })

/-! ### Reset, a step, the encodings -/

/-- 02 R50 to R53, 07 R200, R201, R208, 09 R264, 11 R309, 14 R330, 15 R356, R369, R376: after reset the clocks are 0, the
phase views 0xFFFF, tags, slots, groups and buffer objects empty, the tile shape 64 by 16, the bank, logs and ports as their
tables give them; nothing is resident, placed or in progress. What the spec gives no reset value (memory that nothing has
written, the registers of a core without a job) reads as the model chooses (logs 1 and 2). The invariants of the steps hold.
-/
def Obligations.ResetLeavesTheModule : Prop :=
  let m := State.reset.m
  State.reset.quiet ∧ State.reset.memInv ∧ State.reset.agenda = [] ∧
  (∀ a, Memory.byte m.phys a = 0) ∧ (∀ a, Memory.byte m.host a = 0) ∧ m.poison = [] ∧ m.graphs = [] ∧ m.held = [] ∧
  m.reports = none ∧ m.busy = false ∧ m.widx = 0 ∧ m.ridx = 0 ∧ m.ring = none ∧
  (∀ (d : Fin 16) (c : Fin 128),
     let x := m.core d c
     x.job = none ∧ (∀ k, Clock.at x.clk k = 0) ∧ (∀ k, viewPhase x.phases k = 0xFFFF) ∧
     (∀ n, x.vreg n = 0) ∧ x.preg 0 = 2 ^ 4096 - 1 ∧ (∀ n, n ≠ 0 → x.preg n = 0) ∧ x.qlx.entries = [] ∧ x.qxs.entries = [] ∧
     x.tlx = 0 ∧ x.txl = 0 ∧ x.txs = 0 ∧ x.tsx = 0 ∧ (∀ a, Memory.byte x.unitMem a = 0) ∧
     ∀ q, let y := x.stream q
       y.status = .idle ∧ (∀ n, y.sreg n = 0) ∧ (∀ n, y.areg n = 0) ∧ (∀ n, y.mreg n = {}) ∧ y.rows = 64 ∧ y.cols = 16 ∧
       y.jord = 0 ∧ y.jflg = 0 ∧ y.fflg = 0 ∧ y.rmode = 0 ∧ y.uvec = 0 ∧ y.uien = false ∧ y.tstat = 0 ∧ y.trec = {} ∧
       y.tprev = {} ∧ y.doomed = false ∧ y.loops = [] ∧ y.calls = [] ∧ y.irqs = [] ∧ y.handler = none) ∧
  (∀ (d : Fin 16),
     (m.die d).cyc = 0 ∧ (∀ k, k < 16 → (m.die d).alog.getD k 0 = 0 ∧ (m.die d).blog.getD k 0 = 0 ∧ (m.die d).klog.getD k 0 = 0) ∧
     (m.die d).pool = [] ∧ (m.die d).launches = [] ∧ (∀ l, Tbl.get {} (m.die d).tags l = {}) ∧
     (∀ k, (m.barrier d k).bits = 0) ∧ (∀ g, m.group d g = {}) ∧ (∀ o, m.buf d o = {}) ∧
     ∀ k, (m.cluster d k).lease = none ∧ (m.cluster d k).reqs = [] ∧ (m.cluster d k).slow = 0) ∧
  (∀ c : Fin 64, ctxValid m c = false ∧ ctxCeiling m c = 7 ∧ ctxDrain m c = 25000 ∧
     ∀ k, k ≠ 1 → k ≠ 2 → ccb m c k = 0) ∧
  (∀ q : Fin 72, (m.port q).idleNs = 50000 ∧ (m.port q).live = 0xFFFF ∧ (m.port q).sendq = [] ∧
     ∀ k, Tbl.get none (m.port q).keys k = none) ∧
  ∀ c, (m.chain c).state = 0

/-- 02 R36 to R39, R46 to R48, 04 R136, 09 R257, 15 R352, R356, R382: the turn of a stream that runs and whose buffer holds
the bundle at its program counter performs the meanings of the decoded ops in the order of their fields, each on what the
ones before have left and on the registers as they stood at issue; when all go through the bundle retires, when one waits or
traps the bundle does as it says. A bundle that waits has taken its tokens, and its parity and tokens are not tested again
when it goes on. A bundle that does not decode, or holds an op its stream does not accept, raises ILLEGAL with the lowest
field at fault, which may be an op before it that the stream's state makes illegal. A stream that is to take an interrupt
takes it first. A retired bundle outside loops and jumps stands 64 bytes further. The turn of a running chain reads its next
record and performs its meaning, one that waits to fire is not read again, an event's turn is the event, a mailbox write the
command it names, and a turn of time adds to every cyc. Which turn comes next is the agenda's (log 3). -/
def Obligations.StepRunsTheDecodedInstruction : Prop :=
  (∀ (s : State) (w : Who) (rest : List Turn) (line : Line),
     let x := s.m.strm w
     let core := fun (m : Module) => m.core w.die w.core
     let s1 : State := { s with agenda := rest, cur := w, pre := some s.m, verdict := .go, bnd := {} }
     let s0 : State := { s1 with pre := some (match x.issued with
       | some i => s.m.modCore w.die w.core fun c => { c with v := i.v, p := i.p, kbank := i.kbank }
       | none => s.m) }
     let least := illegalField w.stream x.handler x.jord.toNat line.toNat
     s.agenda = .stream w :: rest → x.status = .running → x.paged = false → x.parityAt = none → x.soft = false →
     x.doomed = false → takesInterrupt s.m w = false → coreFrozen s.m w.die w.core = false → stopping s.m w.die w.core = false →
     x.fetch.find? (fun e => decide (e.1 = x.pc.toNat)) = some (x.pc.toNat, line) →
     (∀ e, decodeBundle line.toNat = .error e → least.isSome = true) ∧
     (∀ p, least = some p → ∃ r t, runBundle exec (bundleBefore p line.toNat) s0 = .ok r ∧ t.code = 1 ∧
       step s = .next (settled (raise t s1)) ∧
       (r.best = some t ∨ (t.place = p ∧ ∀ u, r.best = some u → u.code ≠ 1))) ∧
     (∀ b, decodeBundle line.toNat = .ok b → least = none →
       (x.issued = none → parityTest s0 s.m w b = none ∧ tokenTest (core s.m) w.stream b = .go) →
       (∀ t, (b.ops.map (resolveOp s0)).foldlM (fun u i => match exec i u with
           | .next v => if v.verdict = .go then some v else none
           | _ => none) s0 = some t → step s = .next (retire b t)) ∧
       (∀ i t, b.ops.map (resolveOp s0) = [i] → exec i s0 = .next t →
         (t.verdict = .blocked → ∃ u, step s = .next (settled { s0 with m := u }) ∧
           (core u).v = (core s.m).v ∧ (core u).p = (core s.m).p ∧ (core u).kbank = (core s.m).kbank ∧
           (x.issued = none →
             (∃ k, u.strm w = { t.m.strm w with issued := some k } ∧ k.v = (core s.m).v ∧ k.p = (core s.m).p ∧
               k.kbank = (core s.m).kbank) ∧
             tokIn (core u) w.stream true = tokIn (core t.m) w.stream true - (if b.popL then 1 else 0) ∧
             tokIn (core u) w.stream false = tokIn (core t.m) w.stream false - (if b.popR then 1 else 0)) ∧
           (x.issued ≠ none → u.strm w = t.m.strm w)) ∧
         (t.verdict = .unissued → step s = .next (settled s0)) ∧
         (∀ y, t.verdict = .trapped y → x.wait.inFlight = false ∨ y.code = 0x0B → step s = .next (settled (raise y s1)))))) ∧
  (∀ (s : State) (w : Who) (rest : List Turn), s.agenda = .stream w :: rest → (s.m.strm w).soft = false →
     takesInterrupt s.m w = true → step s = exec (.interruptTake w) { s with agenda := rest }) ∧
  (∀ (q : StreamName) (h : Option Nat) (j w p : Nat), illegalField q h j w = some p →
     (p = 0 ↔ badTokens q h.isSome w = true) ∧
     ∀ f, f ∈ bundleFields w → p ≠ 0 → f.1 < p → ∃ i, f.2 = some i ∧ badOp q h.isSome f.1 i = false ∧
       ∀ e ∈ bundleFields w, ∀ k, e.1 ≠ f.1 → e.2 = some k → sameDest j i k = false) ∧
  (∀ (b : Bundle) (s : State), s.bnd.flow = .seq → s.strm.loops = [] →
     (retire b s).m.strm s.cur = { s.strm with
       pc := s.strm.pc + 64, restored := [], oplog := (s.bnd.writes :: s.strm.oplog).take 64, issued := none
       badRegs := s.strm.badRegs.filter fun e => !s.bnd.renewed.any fun r => decide (r.1 = e.1) && bitAt r.2 e.2
       handler := s.strm.handler.map (· + 1)
       wait := if s.strm.handler = none ∧ s.srcStrm.handler.isSome = true then s.strm.wait else .none
       cwait := if s.strm.handler = none ∧ s.srcStrm.handler.isSome = true then s.strm.cwait else .none }) ∧
  (∀ (s : State) (c : ChainId) (rest : List Turn) (r : Instr),
     let k := s.m.chain c
     let s0 : State := { s with agenda := rest, chain := c }
     s.agenda = .chain c :: rest → k.state = 2 → k.held = false → k.tier = false → k.done = none →
     chainFrozen s.m k = false →
     (k.fired ≠ none ∨ (k.cancel = false ∧ k.reached = true) → decodeRec k.raw.toNat = some r → step s = exec r s0) ∧
     (∀ (bs : List Byte) (m : Module) (code : Nat) (f : Rec), k.fired = none → k.cancel = false → k.reached = false →
       chLoad s.m c none (k.head.toNat + 32 * k.pos) 32 = .ok (bs, m) → decodeRec (ofBytes bs) = some r →
       recCode r = some (code, f) →
       (recBad k.cls k.who.isSome code f = true → step s = .next { s0 with m := stopChain m c 1 0 0 0 }) ∧
       (recBad k.cls k.who.isSome code f = false → ∃ w, ChainOnly m w c ∧ step s = exec r { s0 with m := w } ∧
         w.chain c = { m.chain c with
           index := k.pos, raw := BitVec.ofNat 256 (ofBytes bs), reached := true
           units := if (cmdClass code).isSome then 0 else (m.chain c).units }))) ∧
  (∀ (s : State) (rest : List Turn),
     (∀ i, s.agenda = .step i :: rest → isEvent i = true → step s = exec i { s with agenda := rest }) ∧
     (∀ n, s.agenda = .time n :: rest → ∃ w, step s = .next { s with agenda := rest, m := w } ∧
       w = { s.m with dies := w.dies } ∧ ∀ d, w.die d = { s.m.die d with cyc := (s.m.die d).cyc + BitVec.ofNat 64 n }) ∧
     (∀ r, s.agenda = .mail r :: rest →
       let s1 : State := { s with agenda := rest, m := { s.m with mail := r, busy := true } }
       let ends := fun (n : Byte) => step s = .next { s1 with m := { s1.m with busy := false, result := n } }
       (s.m.busy = true → step s = .next { s with agenda := rest }) ∧
       (s.m.busy = false →
         (decodeMail r = .badAction → ends 3) ∧ (decodeMail r = .unknown → ends 5) ∧
         ∀ i, decodeMail r = .cmd i →
           (s.m.booted = true ∨ isRecovery i = true → step s = exec i s1) ∧
           (s.m.booted = false → isRecovery i = false → ends 3))))

/-- 02 R34, R35, R40 to R45, R72, 04 R113, R117, 05 R148, 06 R174, 08 R221, R230, 09 R254, 11 R306 to R311, R324, 14 R340,
15 R360: the words that the spec writes out decode to the instructions it gives them for, in their places of a bundle; a
record's code names its command. -/
def Obligations.WrittenWordsDecode : Prop :=
  let slot := fun (n w : Nat) (i : Instr) => decodeTableWord 512 (w * 2 ^ (128 * n)) = some i
  let op := fun (d : Dst) (a b c : Src) (t : Ty) (p x : Fin 8) =>
    ({ dst := d, a := a, b := b, c := c, ty := t, pred := p, opx := x } : SlotOp)
  slot 0 0x00000001000000000000000004000500 (.loop (.imm 4) 1) ∧ slot 0 0x000000000000000000000000002A1100 (.trap 42) ∧
  slot 0 0x00000000000000000000000000071000 (.waitb 7) ∧ slot 0 0x00000000000000000000000000000900 .rdv ∧
  slot 0 0x00000000000000000000000000000A00 .exit ∧ slot 0 0x00000000000000000000000000000B00 .yield ∧
  slot 0 0x000000000000000000000000000C0F00 (.waits 12) ∧ slot 0 0x00000000000000000000000000050E00 (.gbar 5) ∧
  slot 0 0x00000000000000000000000000321300 (.npre 50) ∧
  slot 1 0x000000003FC000000000002021000C20 (.faddF32 (op .qxs .qlx (.lit 0x3FC00000) (.tile 0) .i8 0 0)) ∧
  slot 2 0x00000000C04000000000000629A10C41 (.fcmp (op (.p 1) (.tile 6) (.lit 0xC0400000) (.tile 0) .f32 0 5)) ∧
  slot 2 0x00000000000000000000000607050048 (.rsum (op (.v 7) (.tile 6) (.tile 0) (.tile 0) .f32 1 0)) ∧
  slot 2 0x00000007000000000000004420031D85 (.ldnw (op .qlx (.a 4) (.lit 0) (.s 7) .nw8 0 0)) ∧
  slot 2 0x00000000000000000000004344010D82 (.lds (op (.s 4) (.a 3) (.lit 0) (.tile 0) .f32 0 0)) ∧
  slot 3 0x000000000000000000000010FF0003B9 (.leas (op .none (.lit 16) (.tile 0) (.tile 0) .i8 0 0)) ∧
  slot 3 0x0000000000000001000000044A00CDA0 (.afad (op (.s 10) (.s 4) (.lit 1) (.tile 0) .i64 0 0)) ∧
  slot 3 0x000000070000004600000025FF0037B7 (.echn (op .none (.lit 0x25) (.a 6) (.lit 7) .i8 0 0)) ∧
  slot 3 0x000000000001000000000014FF200DBC (.qspl (op .none (.s 20) (.lit 65536) (.tile 0) .i8 0 1)) ∧
  slot 3 0x000000000000004600000004490005C0 (.sqac (op (.s 9) (.s 4) (.a 6) (.tile 0) .i8 0 0)) ∧
  slot 3 0x000000000000001000000004FF000DC5 (.invm (op .none (.s 4) (.lit 16) (.tile 0) .i8 0 0)) ∧
  slot 3 0x00000000000000000000000821210063 (.qblk (op .qxs (.tile 8) (.tile 0) (.tile 0) .f32 0 1)) ∧
  slot 0 (1 * 2 ^ 48 + 2 * 2 ^ 52 + 4096 * 2 ^ 64) (.ainc 2 4096) ∧
  decodeTableWord 256 (0x00000010 + 0xFFFFFFFD * 2 ^ 32) = some (.jmp {
    cls := .copy, bufs := 0, last := false, ntf := false, sig := false, byt := false
    w1 := 0xFFFFFFFD, w2 := 0, w3 := 0, w4 := 0, w5 := 0, w6 := 0, w7 := 0 }) ∧
  decodeTableWord 256 (0x00039206 + 0x40 * 2 ^ 32 + 1 * 2 ^ 64) = some (.atn {
    cls := .zither, bufs := 3, last := true, ntf := false, sig := false, byt := true
    w1 := 0x40, w2 := 1, w3 := 0, w4 := 0, w5 := 0, w6 := 0, w7 := 0 })

/-- 02 R33 to R35, R40 to R45, R48, 09 R253, R255, R256: decoding the words of an encoded bundle whose ops are well formed and
stand in their kinds of places gives the bundle back, with every operand at every value; the same of a chain record. Every
512-bit word that decodes is the encoding of what it decodes to, and so is every 256-bit record: no bit is ignored. -/
def Obligations.DecodeInvertsEncode : Prop :=
  (∀ b : Bundle, (∀ i ∈ b.ctl, i.place = .control ∧ i.wf = true) → (∀ i ∈ b.adr, i.place = .address ∧ i.wf = true) →
     (∀ i ∈ [b.s1, b.s2, b.s3], i = .nop ∨ (i.wf = true ∧ (slotCode i).isSome = true ∧ ∀ o, i ≠ .cbwtProducer o)) →
     encodeBundle b < 2 ^ 512 ∧ decodeBundle (encodeBundle b) = .ok b) ∧
  (∀ (w : Nat) (b : Bundle), w < 2 ^ 512 → decodeBundle w = .ok b → encodeBundle b = w) ∧
  (∀ i : Instr, (recCode i).isSome = true → encodeRec i < 2 ^ 256 ∧ decodeRec (encodeRec i) = some i) ∧
  ∀ (w : Nat) (i : Instr), w < 2 ^ 256 → decodeRec w = some i → encodeRec i = w

/-- 15 R352, R353: no instruction and no step ever ends the machine in this model, since every trap is taken; and between two
steps no bundle is in progress. -/
def Obligations.StepAlwaysAnswersBetweenBundles : Prop :=
  (∀ (i : Instr) (s : State), ∃ t, exec i s = .next t) ∧ ∀ s : State, ∃ t, step s = .next t ∧ (s.quiet → t.quiet)

/-- 01 R22, 14 R334: every step keeps every memory of the machine in its canonical form: physical memory, the host's, the unit
scratchpads and those of the jobs that a checkpoint has saved. -/
def Obligations.StepKeepsMemoryCanonical : Prop :=
  ∀ s t : State, s.quiet → s.memInv → step s = .next t → t.memInv
end

