-- ==== Sys2Proof/Laws/Table.lean ====
section
/-! SUPPORT. What reading a sparse table or memory answers after an update, and that every update keeps the canonical
form. The reads hold of every table, canonical or not. -/

namespace Sys2Proof

section
variable {α : Type}

@[simp] theorem Tbl.get_nil (d : α) (k : Nat) : Tbl.get d ([] : Tbl α) k = d := rfl

theorem Tbl.get_del (d : α) (t : Tbl α) (k j : Nat) :
    Tbl.get d (Tbl.del t k) j = if j = k then d else Tbl.get d t j := by
  induction t with
  | nil => simp [Tbl.del, Tbl.get]
  | cons e t ih =>
    obtain ⟨i, v⟩ := e
    by_cases h : k = i
    · by_cases hj : j = k <;> simp_all [Tbl.del, Tbl.get]
    · by_cases hj : j = i
      · subst hj; simp [Tbl.del, Tbl.get, h, Ne.symm h]
      · simp [Tbl.del, Tbl.get, h, hj, ih]

theorem Tbl.get_ins (d : α) (t : Tbl α) (k j : Nat) (v : α) :
    Tbl.get d (Tbl.ins t k v) j = if j = k then v else Tbl.get d t j := by
  induction t with
  | nil => by_cases h : j = k <;> simp [Tbl.ins, Tbl.get, h]
  | cons e t ih =>
    obtain ⟨i, w⟩ := e
    by_cases h : k = i
    · subst h; by_cases hj : j = k <;> simp [Tbl.ins, Tbl.get, hj]
    · by_cases hlt : k < i
      · by_cases hj : j = k <;> simp [Tbl.ins, Tbl.get, h, hlt, hj]
      · by_cases hj : j = i
        · subst hj; simp [Tbl.ins, Tbl.get, h, hlt, Ne.symm h]
        · simp [Tbl.ins, Tbl.get, h, hlt, hj, ih]

variable [DecidableEq α]

/-- Reading after setting: the new value at the key, every other key as before. -/
theorem Tbl.get_set (d : α) (t : Tbl α) (k j : Nat) (v : α) :
    Tbl.get d (Tbl.set d t k v) j = if j = k then v else Tbl.get d t j := by
  unfold Tbl.set
  split
  · next h => subst h; exact Tbl.get_del _ t k j
  · exact Tbl.get_ins d t k j v

@[simp] theorem Tbl.get_set_same (d : α) (t : Tbl α) (k : Nat) (v : α) : Tbl.get d (Tbl.set d t k v) k = v := by
  simp [Tbl.get_set]

theorem Tbl.get_set_ne (d : α) (t : Tbl α) {k j : Nat} (v : α) (h : j ≠ k) :
    Tbl.get d (Tbl.set d t k v) j = Tbl.get d t j := by
  simp [Tbl.get_set, h]

theorem Tbl.get_upd (d : α) (t : Tbl α) (k j : Nat) (f : α → α) :
    Tbl.get d (Tbl.upd d t k f) j = if j = k then f (Tbl.get d t k) else Tbl.get d t j :=
  Tbl.get_set d t k j _

end

/-- Every key of a table is at least `n`. -/
def Tbl.above {α : Type} (n : Nat) (t : Tbl α) : Prop := ∀ e ∈ t, n ≤ e.1

section
variable {α : Type}

theorem Tbl.sorted_cons (k : Nat) (v : α) (t : Tbl α) :
    Tbl.sorted ((k, v) :: t) = true ↔ Tbl.above (k + 1) t ∧ Tbl.sorted t = true := by
  induction t generalizing k v with
  | nil => simp [Tbl.sorted, Tbl.above]
  | cons e t ih =>
    obtain ⟨i, w⟩ := e
    rw [Tbl.sorted, Bool.and_eq_true, decide_eq_true_iff, ih]
    constructor
    · rintro ⟨hk, ha, hs⟩
      refine ⟨?_, ha, hs⟩
      intro x hx
      rcases List.mem_cons.1 hx with rfl | hx
      · exact hk
      · have := ha x hx; omega
    · rintro ⟨ha, h⟩
      exact ⟨ha (i, w) (List.mem_cons_self ..), h⟩

theorem Tbl.mem_del {t : Tbl α} {k : Nat} {e : Nat × α} (h : e ∈ Tbl.del t k) : e ∈ t := by
  induction t with
  | nil => simp [Tbl.del] at h
  | cons x t ih =>
    obtain ⟨i, w⟩ := x
    unfold Tbl.del at h
    split at h
    · exact List.mem_cons_of_mem _ (ih h)
    · rcases List.mem_cons.1 h with rfl | h
      · exact List.mem_cons_self ..
      · exact List.mem_cons_of_mem _ (ih h)

theorem Tbl.mem_ins {t : Tbl α} {k : Nat} {v : α} {e : Nat × α} (h : e ∈ Tbl.ins t k v) : e = (k, v) ∨ e ∈ t := by
  induction t with
  | nil => simpa [Tbl.ins] using h
  | cons x t ih =>
    obtain ⟨i, w⟩ := x
    unfold Tbl.ins at h
    split at h
    · rcases List.mem_cons.1 h with rfl | h
      · exact .inl rfl
      · exact .inr (List.mem_cons_of_mem _ h)
    · split at h
      · rcases List.mem_cons.1 h with rfl | h
        · exact .inl rfl
        · exact .inr h
      · rcases List.mem_cons.1 h with rfl | h
        · exact .inr (List.mem_cons_self ..)
        · exact (ih h).imp id (List.mem_cons_of_mem _)

theorem Tbl.sorted_del {t : Tbl α} (k : Nat) (h : Tbl.sorted t = true) : Tbl.sorted (Tbl.del t k) = true := by
  induction t with
  | nil => rfl
  | cons x t ih =>
    obtain ⟨i, w⟩ := x
    obtain ⟨ha, hs⟩ := (Tbl.sorted_cons i w t).1 h
    unfold Tbl.del
    split
    · exact ih hs
    · exact (Tbl.sorted_cons i w _).2 ⟨fun e he => ha e (Tbl.mem_del he), ih hs⟩

theorem Tbl.sorted_ins {t : Tbl α} (k : Nat) (v : α) (h : Tbl.sorted t = true) :
    Tbl.sorted (Tbl.ins t k v) = true := by
  induction t with
  | nil => rfl
  | cons x t ih =>
    obtain ⟨i, w⟩ := x
    obtain ⟨ha, hs⟩ := (Tbl.sorted_cons i w t).1 h
    unfold Tbl.ins
    split
    · next hk => subst hk; exact (Tbl.sorted_cons _ v t).2 ⟨ha, hs⟩
    · split
      · refine (Tbl.sorted_cons k v _).2 ⟨?_, h⟩
        intro e he
        rcases List.mem_cons.1 he with rfl | he
        · simpa using ‹k < i›
        · have := ha e he; omega
      · refine (Tbl.sorted_cons i w _).2 ⟨?_, ih hs⟩
        intro e he
        rcases Tbl.mem_ins he with rfl | he
        · simp only; omega
        · exact ha e he

variable [DecidableEq α]

theorem Tbl.wf_iff (d : α) (t : Tbl α) : Tbl.wf d t = true ↔ Tbl.sorted t = true ∧ ∀ e ∈ t, e.2 ≠ d := by
  simp [Tbl.wf]

/-- Setting a key keeps the canonical form. -/
theorem Tbl.wf_set (d : α) {t : Tbl α} (k : Nat) (v : α) (h : Tbl.wf d t = true) : Tbl.wf d (Tbl.set d t k v) = true := by
  obtain ⟨hs, hd⟩ := (Tbl.wf_iff d t).1 h
  refine (Tbl.wf_iff d _).2 ?_
  unfold Tbl.set
  split
  · exact ⟨Tbl.sorted_del k hs, fun e he => hd e (Tbl.mem_del he)⟩
  · refine ⟨Tbl.sorted_ins k v hs, fun e he => ?_⟩
    rcases Tbl.mem_ins he with rfl | he
    · assumption
    · exact hd e he

theorem Tbl.wf_upd (d : α) {t : Tbl α} (k : Nat) (f : α → α) (h : Tbl.wf d t = true) :
    Tbl.wf d (Tbl.upd d t k f) = true := Tbl.wf_set d k _ h

end

/-! ### Memory -/

theorem Memory.byte_put (m : Memory) (a b : Nat) (v : Byte) :
    Memory.byte (Memory.put m a v) b = if b = a then v else Memory.byte m b := Tbl.get_set _ m a b v

/-- After storing bytes from `a`: those bytes there, every other byte as before. -/
theorem Memory.byte_puts (m : Memory) (a : Nat) (bs : List Byte) (b : Nat) :
    Memory.byte (Memory.puts m a bs) b = if a ≤ b ∧ b < a + bs.length then bs.getD (b - a) 0 else Memory.byte m b := by
  induction bs generalizing m a with
  | nil => simp [Memory.puts]
  | cons x xs ih =>
    simp only [Memory.puts, ih, Memory.byte_put, List.length_cons]
    by_cases h : a + 1 ≤ b ∧ b < a + 1 + xs.length
    · have h1 : a ≤ b ∧ b < a + (xs.length + 1) := by omega
      have h2 : b - a = (b - (a + 1)) + 1 := by omega
      rw [if_pos h, if_pos h1, h2, List.getD_cons_succ]
    · rw [if_neg h]
      by_cases hb : b = a
      · subst hb; simp
      · have h1 : ¬(a ≤ b ∧ b < a + (xs.length + 1)) := by omega
        rw [if_neg h1, if_neg hb]

theorem Memory.byte_puts_out (m : Memory) (a : Nat) (bs : List Byte) (b : Nat) (h : b < a ∨ a + bs.length ≤ b) :
    Memory.byte (Memory.puts m a bs) b = Memory.byte m b := by
  rw [Memory.byte_puts, if_neg (by omega)]

@[simp] theorem toBytes_length (n v : Nat) : (toBytes n v).length = n := by
  induction n generalizing v with
  | zero => rfl
  | succ n ih => simp [toBytes, ih]

/-- The value of the bytes of a value is the value, cut to their number. -/
theorem ofBytes_toBytes (n v : Nat) : ofBytes (toBytes n v) = v % 2 ^ (8 * n) := by
  induction n generalizing v with
  | zero => simp [toBytes, ofBytes, Nat.mod_one]
  | succ n ih =>
    have h : (2 : Nat) ^ (8 * (n + 1)) = 256 * 2 ^ (8 * n) := by rw [Nat.mul_add, Nat.pow_add]; omega
    rw [h, toBytes, ofBytes, ih, BitVec.toNat_ofNat, Nat.mod_mul]

@[simp] theorem Memory.bytes_length (m : Memory) (a n : Nat) : (Memory.bytes m a n).length = n := by
  induction n generalizing a with
  | zero => rfl
  | succ n ih => simp [Memory.bytes, ih]

/-- Two memories whose bytes agree over a range read the same there. -/
theorem Memory.bytes_congr {m k : Memory} {a n : Nat}
    (h : ∀ b, a ≤ b → b < a + n → Memory.byte m b = Memory.byte k b) : Memory.bytes m a n = Memory.bytes k a n := by
  induction n generalizing a with
  | zero => rfl
  | succ n ih =>
    simp only [Memory.bytes]
    rw [h a (le_refl a) (by omega), ih fun b h1 h2 => h b (by omega) (by omega)]

/-- Bytes read back where they were stored. -/
theorem Memory.bytes_puts (m : Memory) (a : Nat) (bs : List Byte) :
    Memory.bytes (Memory.puts m a bs) a bs.length = bs := by
  induction bs generalizing m a with
  | nil => rfl
  | cons x xs ih =>
    simp only [Memory.puts, List.length_cons, Memory.bytes]
    rw [ih, Memory.byte_puts_out _ _ _ _ (by omega), Memory.byte_put, if_pos rfl]

theorem Memory.read_write (m : Memory) (a n v : Nat) : Memory.read (Memory.write m a n v) a n = v % 2 ^ (8 * n) := by
  have h := Memory.bytes_puts m a (toBytes n v)
  rw [toBytes_length] at h
  rw [Memory.read, Memory.write, h, ofBytes_toBytes]

theorem Memory.wf_put {m : Memory} (a : Nat) (b : Byte) (h : Memory.wf m = true) : Memory.wf (Memory.put m a b) = true :=
  Tbl.wf_set _ a b h

theorem Memory.wf_puts {m : Memory} (a : Nat) (bs : List Byte) (h : Memory.wf m = true) :
    Memory.wf (Memory.puts m a bs) = true := by
  induction bs generalizing m a with
  | nil => exact h
  | cons x xs ih => exact ih (a + 1) (Memory.wf_put a x h)

theorem Memory.wf_write {m : Memory} (a n v : Nat) (h : Memory.wf m = true) : Memory.wf (Memory.write m a n v) = true :=
  Memory.wf_puts a _ h

end Sys2Proof
end

