-- ==== Sys2Proof/Laws/State.lean ====
section
/-! SUPPORT. Reading a part of the module or of the state after an update of one part: one lemma for each field and
update. -/

namespace Sys2Proof.Machine

theorem coreKey_inj {d d' : Fin 16} {c c' : Fin 128} : coreKey d c = coreKey d' c' ↔ d = d' ∧ c = c' := by
  unfold coreKey
  constructor
  · intro h; exact ⟨Fin.ext (by omega), Fin.ext (by omega)⟩
  · rintro ⟨rfl, rfl⟩; rfl

theorem clusterKey_inj {d d' : Fin 16} {k k' : Fin 8} : clusterKey d k = clusterKey d' k' ↔ d = d' ∧ k = k' := by
  unfold clusterKey
  constructor
  · intro h; exact ⟨Fin.ext (by omega), Fin.ext (by omega)⟩
  · rintro ⟨rfl, rfl⟩; rfl

/-! ### One part after the update of that part -/

theorem Module.core_setCore (m : Module) (d d' : Fin 16) (c c' : Fin 128) (x : Core) :
    (m.setCore d c x).core d' c' = if d' = d ∧ c' = c then x else m.core d' c' := by
  simp only [Module.setCore, Module.core, Tbl.get_set, coreKey_inj]

@[simp] theorem Module.core_setCore_same (m : Module) (d : Fin 16) (c : Fin 128) (x : Core) :
    (m.setCore d c x).core d c = x := by simp [Module.core_setCore]

theorem Module.core_modCore (m : Module) (d d' : Fin 16) (c c' : Fin 128) (f : Core → Core) :
    (m.modCore d c f).core d' c' = if d' = d ∧ c' = c then f (m.core d c) else m.core d' c' :=
  Module.core_setCore m d d' c c' _

@[simp] theorem Module.core_modCore_same (m : Module) (d : Fin 16) (c : Fin 128) (f : Core → Core) :
    (m.modCore d c f).core d c = f (m.core d c) := Module.core_setCore_same m d c _

theorem Module.die_setDie (m : Module) (d d' : Fin 16) (x : Die) :
    (m.setDie d x).die d' = if d' = d then x else m.die d' := by
  simp only [Module.setDie, Module.die, Tbl.get_set, Fin.val_inj]

@[simp] theorem Module.die_setDie_same (m : Module) (d : Fin 16) (x : Die) : (m.setDie d x).die d = x := by
  simp [Module.die_setDie]

theorem Module.die_modDie (m : Module) (d d' : Fin 16) (f : Die → Die) :
    (m.modDie d f).die d' = if d' = d then f (m.die d) else m.die d' := Module.die_setDie m d d' _

@[simp] theorem Module.die_modDie_same (m : Module) (d : Fin 16) (f : Die → Die) :
    (m.modDie d f).die d = f (m.die d) := Module.die_setDie_same m d _

theorem Module.cluster_setCluster (m : Module) (d d' : Fin 16) (k k' : Fin 8) (x : Cluster) :
    (m.setCluster d k x).cluster d' k' = if d' = d ∧ k' = k then x else m.cluster d' k' := by
  simp only [Module.setCluster, Module.cluster, Tbl.get_set, clusterKey_inj]

@[simp] theorem Module.cluster_setCluster_same (m : Module) (d : Fin 16) (k : Fin 8) (x : Cluster) :
    (m.setCluster d k x).cluster d k = x := by simp [Module.cluster_setCluster]

@[simp] theorem Module.cluster_modCluster_same (m : Module) (d : Fin 16) (k : Fin 8) (f : Cluster → Cluster) :
    (m.modCluster d k f).cluster d k = f (m.cluster d k) := Module.cluster_setCluster_same m d k _

theorem Module.ctx_setCtx (m : Module) (c c' : Fin 64) (x : CtxDyn) :
    (m.setCtx c x).ctx c' = if c' = c then x else m.ctx c' := by
  simp only [Module.setCtx, Module.ctx, Tbl.get_set, Fin.val_inj]

@[simp] theorem Module.ctx_setCtx_same (m : Module) (c : Fin 64) (x : CtxDyn) : (m.setCtx c x).ctx c = x := by
  simp [Module.ctx_setCtx]

@[simp] theorem Module.ctx_modCtx_same (m : Module) (c : Fin 64) (f : CtxDyn → CtxDyn) :
    (m.modCtx c f).ctx c = f (m.ctx c) := Module.ctx_setCtx_same m c _

@[simp] theorem Module.chain_setChain_same (m : Module) (i : ChainId) (x : Chain) : (m.setChain i x).chain i = x :=
  Tbl.get_set_same ..

@[simp] theorem Module.chain_modChain_same (m : Module) (i : ChainId) (f : Chain → Chain) :
    (m.modChain i f).chain i = f (m.chain i) := Tbl.get_set_same ..

theorem Module.port_setPort (m : Module) (p p' : Fin 72) (x : Port) :
    (m.setPort p x).port p' = if p' = p then x else m.port p' := by
  simp only [Module.setPort, Module.port, Tbl.get_set, Fin.val_inj]

@[simp] theorem Module.port_setPort_same (m : Module) (p : Fin 72) (x : Port) : (m.setPort p x).port p = x := by
  simp [Module.port_setPort]

@[simp] theorem Module.zither_setZither_same (m : Module) (z : Nat) (x : Zither) : (m.setZither z x).zither z = x :=
  Tbl.get_set_same ..

theorem Module.barrier_setBarrier (m : Module) (d d' : Fin 16) (s s' : Fin 256) (b : Barrier) :
    (m.setBarrier d s b).barrier d' s' = if d' = d ∧ s' = s then b else m.barrier d' s' := by
  simp only [Module.setBarrier, Module.barrier, Module.die_modDie]
  by_cases h : d' = d
  · subst h; simp [Tbl.get_set, Fin.val_inj]
  · simp [h]

@[simp] theorem Module.barrier_setBarrier_same (m : Module) (d : Fin 16) (s : Fin 256) (b : Barrier) :
    (m.setBarrier d s b).barrier d s = b := by simp [Module.barrier_setBarrier]

theorem Module.group_setGroup (m : Module) (d d' : Fin 16) (g g' : Nat) (x : Group) :
    (m.setGroup d g x).group d' g' = if d' = d ∧ g' = g then x else m.group d' g' := by
  simp only [Module.setGroup, Module.group, Module.die_modDie]
  by_cases h : d' = d
  · subst h; simp [Tbl.get_set]
  · simp [h]

@[simp] theorem Module.group_setGroup_same (m : Module) (d : Fin 16) (g : Nat) (x : Group) :
    (m.setGroup d g x).group d g = x := by simp [Module.group_setGroup]

@[simp] theorem Module.buf_setBuf_same (m : Module) (d : Fin 16) (n : Nat) (x : BufObj) :
    (m.setBuf d n x).buf d n = x := by simp [Module.setBuf, Module.buf]

@[simp] theorem Module.slice_setSlice_same (m : Module) (d : Fin 16) (n : Nat) (x : Slice) :
    (m.setSlice d n x).slice d n = x := by simp [Module.setSlice, Module.slice]

/-! ### Streams of a core -/

theorem Core.stream_setStream (c : Core) (n n' : StreamName) (x : Stream) :
    (c.setStream n x).stream n' = if n' = n then x else c.stream n' := by
  cases n <;> cases n' <;> rfl

@[simp] theorem Core.stream_setStream_same (c : Core) (n : StreamName) (x : Stream) : (c.setStream n x).stream n = x := by
  cases n <;> rfl

/-- A stream's update leaves what the core's streams share. -/
theorem Core.setStream_eq (c : Core) (n : StreamName) (x : Stream) :
    c.setStream n x = { c with l := (c.setStream n x).l, x := (c.setStream n x).x, st := (c.setStream n x).st } := by
  cases n <;> rfl

@[simp] theorem Core.setStream_v (c : Core) (n : StreamName) (x : Stream) : (c.setStream n x).v = c.v := by
  cases n <;> rfl
@[simp] theorem Core.setStream_p (c : Core) (n : StreamName) (x : Stream) : (c.setStream n x).p = c.p := by
  cases n <;> rfl
@[simp] theorem Core.setStream_kbank (c : Core) (n : StreamName) (x : Stream) : (c.setStream n x).kbank = c.kbank := by
  cases n <;> rfl
@[simp] theorem Core.setStream_nconst (c : Core) (n : StreamName) (x : Stream) : (c.setStream n x).nconst = c.nconst := by
  cases n <;> rfl
@[simp] theorem Core.setStream_kaddr (c : Core) (n : StreamName) (x : Stream) : (c.setStream n x).kaddr = c.kaddr := by
  cases n <;> rfl
@[simp] theorem Core.setStream_kloaded (c : Core) (n : StreamName) (x : Stream) : (c.setStream n x).kloaded = c.kloaded := by
  cases n <;> rfl
@[simp] theorem Core.setStream_kfault (c : Core) (n : StreamName) (x : Stream) : (c.setStream n x).kfault = c.kfault := by
  cases n <;> rfl
@[simp] theorem Core.setStream_qlx (c : Core) (n : StreamName) (x : Stream) : (c.setStream n x).qlx = c.qlx := by
  cases n <;> rfl
@[simp] theorem Core.setStream_qxs (c : Core) (n : StreamName) (x : Stream) : (c.setStream n x).qxs = c.qxs := by
  cases n <;> rfl
@[simp] theorem Core.setStream_tlx (c : Core) (n : StreamName) (x : Stream) : (c.setStream n x).tlx = c.tlx := by
  cases n <;> rfl
@[simp] theorem Core.setStream_txl (c : Core) (n : StreamName) (x : Stream) : (c.setStream n x).txl = c.txl := by
  cases n <;> rfl
@[simp] theorem Core.setStream_txs (c : Core) (n : StreamName) (x : Stream) : (c.setStream n x).txs = c.txs := by
  cases n <;> rfl
@[simp] theorem Core.setStream_tsx (c : Core) (n : StreamName) (x : Stream) : (c.setStream n x).tsx = c.tsx := by
  cases n <;> rfl
@[simp] theorem Core.setStream_anchor (c : Core) (n : StreamName) (x : Stream) : (c.setStream n x).anchor = c.anchor := by
  cases n <;> rfl
@[simp] theorem Core.setStream_est (c : Core) (n : StreamName) (x : Stream) : (c.setStream n x).est = c.est := by
  cases n <;> rfl
@[simp] theorem Core.setStream_estAt (c : Core) (n : StreamName) (x : Stream) : (c.setStream n x).estAt = c.estAt := by
  cases n <;> rfl
@[simp] theorem Core.setStream_cb (c : Core) (n : StreamName) (x : Stream) : (c.setStream n x).cb = c.cb := by
  cases n <;> rfl
@[simp] theorem Core.setStream_stage1 (c : Core) (n : StreamName) (x : Stream) : (c.setStream n x).stage1 = c.stage1 := by
  cases n <;> rfl
@[simp] theorem Core.setStream_stage2 (c : Core) (n : StreamName) (x : Stream) : (c.setStream n x).stage2 = c.stage2 := by
  cases n <;> rfl
@[simp] theorem Core.setStream_stage3 (c : Core) (n : StreamName) (x : Stream) : (c.setStream n x).stage3 = c.stage3 := by
  cases n <;> rfl
@[simp] theorem Core.setStream_unitMem (c : Core) (n : StreamName) (x : Stream) : (c.setStream n x).unitMem = c.unitMem := by
  cases n <;> rfl
@[simp] theorem Core.setStream_clk (c : Core) (n : StreamName) (x : Stream) : (c.setStream n x).clk = c.clk := by
  cases n <;> rfl
@[simp] theorem Core.setStream_phases (c : Core) (n : StreamName) (x : Stream) : (c.setStream n x).phases = c.phases := by
  cases n <;> rfl
@[simp] theorem Core.setStream_bufs (c : Core) (n : StreamName) (x : Stream) : (c.setStream n x).bufs = c.bufs := by
  cases n <;> rfl
@[simp] theorem Core.setStream_arrivals (c : Core) (n : StreamName) (x : Stream) : (c.setStream n x).arrivals = c.arrivals := by
  cases n <;> rfl
@[simp] theorem Core.setStream_epochs (c : Core) (n : StreamName) (x : Stream) : (c.setStream n x).epochs = c.epochs := by
  cases n <;> rfl
@[simp] theorem Core.setStream_job (c : Core) (n : StreamName) (x : Stream) : (c.setStream n x).job = c.job := by
  cases n <;> rfl
@[simp] theorem Core.setStream_lastCtx (c : Core) (n : StreamName) (x : Stream) : (c.setStream n x).lastCtx = c.lastCtx := by
  cases n <;> rfl
@[simp] theorem Core.setStream_region (c : Core) (n : StreamName) (x : Stream) : (c.setStream n x).region = c.region := by
  cases n <;> rfl

theorem Module.strm_setStrm (m : Module) (w w' : Who) (x : Stream) :
    (m.setStrm w x).strm w' = if w' = w then x else m.strm w' := by
  obtain ⟨d, c, n⟩ := w
  obtain ⟨d', c', n'⟩ := w'
  simp only [Module.setStrm, Module.strm, Module.core_modCore, Who.mk.injEq]
  by_cases h : d' = d ∧ c' = c
  · obtain ⟨rfl, rfl⟩ := h; simp [Core.stream_setStream]
  · rw [if_neg h]
    by_cases h' : d' = d ∧ c' = c ∧ n' = n
    · exact absurd ⟨h'.1, h'.2.1⟩ h
    · rw [if_neg h']

@[simp] theorem Module.strm_setStrm_same (m : Module) (w : Who) (x : Stream) : (m.setStrm w x).strm w = x := by
  simp [Module.strm_setStrm]

theorem Module.strm_modStrm (m : Module) (w w' : Who) (f : Stream → Stream) :
    (m.modStrm w f).strm w' = if w' = w then f (m.strm w) else m.strm w' := Module.strm_setStrm m w w' _

@[simp] theorem Module.strm_modStrm_same (m : Module) (w : Who) (f : Stream → Stream) :
    (m.modStrm w f).strm w = f (m.strm w) := Module.strm_setStrm_same m w _

theorem Module.core_modStrm (m : Module) (w : Who) (d : Fin 16) (c : Fin 128) (f : Stream → Stream) :
    (m.modStrm w f).core d c =
      if d = w.die ∧ c = w.core then (m.core w.die w.core).setStream w.stream (f (m.strm w)) else m.core d c :=
  Module.core_modCore m w.die d w.core c _

/-! ### Fields that an update leaves -/

@[simp] theorem Module.setCore_phys (m : Module) (d : Fin 16) (c : Fin 128) (x : Core) : (m.setCore d c x).phys = m.phys := rfl
@[simp] theorem Module.setCore_host (m : Module) (d : Fin 16) (c : Fin 128) (x : Core) : (m.setCore d c x).host = m.host := rfl
@[simp] theorem Module.setCore_hostData (m : Module) (d : Fin 16) (c : Fin 128) (x : Core) : (m.setCore d c x).hostData = m.hostData := rfl
@[simp] theorem Module.setCore_poison (m : Module) (d : Fin 16) (c : Fin 128) (x : Core) : (m.setCore d c x).poison = m.poison := rfl
@[simp] theorem Module.setCore_unitPoison (m : Module) (d : Fin 16) (c : Fin 128) (x : Core) : (m.setCore d c x).unitPoison = m.unitPoison := rfl
@[simp] theorem Module.setCore_clusters (m : Module) (d : Fin 16) (c : Fin 128) (x : Core) : (m.setCore d c x).clusters = m.clusters := rfl
@[simp] theorem Module.setCore_dies (m : Module) (d : Fin 16) (c : Fin 128) (x : Core) : (m.setCore d c x).dies = m.dies := rfl
@[simp] theorem Module.setCore_zithers (m : Module) (d : Fin 16) (c : Fin 128) (x : Core) : (m.setCore d c x).zithers = m.zithers := rfl
@[simp] theorem Module.setCore_ports (m : Module) (d : Fin 16) (c : Fin 128) (x : Core) : (m.setCore d c x).ports = m.ports := rfl
@[simp] theorem Module.setCore_chains (m : Module) (d : Fin 16) (c : Fin 128) (x : Core) : (m.setCore d c x).chains = m.chains := rfl
@[simp] theorem Module.setCore_ccbs (m : Module) (d : Fin 16) (c : Fin 128) (x : Core) : (m.setCore d c x).ccbs = m.ccbs := rfl
@[simp] theorem Module.setCore_ctxs (m : Module) (d : Fin 16) (c : Fin 128) (x : Core) : (m.setCore d c x).ctxs = m.ctxs := rfl
@[simp] theorem Module.setCore_graphs (m : Module) (d : Fin 16) (c : Fin 128) (x : Core) : (m.setCore d c x).graphs = m.graphs := rfl
@[simp] theorem Module.setCore_held (m : Module) (d : Fin 16) (c : Fin 128) (x : Core) : (m.setCore d c x).held = m.held := rfl
@[simp] theorem Module.setCore_relay (m : Module) (d : Fin 16) (c : Fin 128) (x : Core) : (m.setCore d c x).relay = m.relay := rfl
@[simp] theorem Module.setCore_heldWrites (m : Module) (d : Fin 16) (c : Fin 128) (x : Core) : (m.setCore d c x).heldWrites = m.heldWrites := rfl
@[simp] theorem Module.setCore_heldMarkers (m : Module) (d : Fin 16) (c : Fin 128) (x : Core) : (m.setCore d c x).heldMarkers = m.heldMarkers := rfl
@[simp] theorem Module.setCore_heldCopies (m : Module) (d : Fin 16) (c : Fin 128) (x : Core) : (m.setCore d c x).heldCopies = m.heldCopies := rfl
@[simp] theorem Module.setCore_relayFull (m : Module) (d : Fin 16) (c : Fin 128) (x : Core) : (m.setCore d c x).relayFull = m.relayFull := rfl
@[simp] theorem Module.setCore_nextMatch (m : Module) (d : Fin 16) (c : Fin 128) (x : Core) : (m.setCore d c x).nextMatch = m.nextMatch := rfl
@[simp] theorem Module.setCore_mcast (m : Module) (d : Fin 16) (c : Fin 128) (x : Core) : (m.setCore d c x).mcast = m.mcast := rfl
@[simp] theorem Module.setCore_device (m : Module) (d : Fin 16) (c : Fin 128) (x : Core) : (m.setCore d c x).device = m.device := rfl
@[simp] theorem Module.setCore_mail (m : Module) (d : Fin 16) (c : Fin 128) (x : Core) : (m.setCore d c x).mail = m.mail := rfl
@[simp] theorem Module.setCore_busy (m : Module) (d : Fin 16) (c : Fin 128) (x : Core) : (m.setCore d c x).busy = m.busy := rfl
@[simp] theorem Module.setCore_result (m : Module) (d : Fin 16) (c : Fin 128) (x : Core) : (m.setCore d c x).result = m.result := rfl
@[simp] theorem Module.setCore_ring (m : Module) (d : Fin 16) (c : Fin 128) (x : Core) : (m.setCore d c x).ring = m.ring := rfl
@[simp] theorem Module.setCore_widx (m : Module) (d : Fin 16) (c : Fin 128) (x : Core) : (m.setCore d c x).widx = m.widx := rfl
@[simp] theorem Module.setCore_ridx (m : Module) (d : Fin 16) (c : Fin 128) (x : Core) : (m.setCore d c x).ridx = m.ridx := rfl
@[simp] theorem Module.setCore_evseq (m : Module) (d : Fin 16) (c : Fin 128) (x : Core) : (m.setCore d c x).evseq = m.evseq := rfl
@[simp] theorem Module.setCore_msix (m : Module) (d : Fin 16) (c : Fin 128) (x : Core) : (m.setCore d c x).msix = m.msix := rfl
@[simp] theorem Module.setCore_booted (m : Module) (d : Fin 16) (c : Fin 128) (x : Core) : (m.setCore d c x).booted = m.booted := rfl
@[simp] theorem Module.setCore_minVersion (m : Module) (d : Fin 16) (c : Fin 128) (x : Core) : (m.setCore d c x).minVersion = m.minVersion := rfl
@[simp] theorem Module.setCore_rootKey (m : Module) (d : Fin 16) (c : Fin 128) (x : Core) : (m.setCore d c x).rootKey = m.rootKey := rfl
@[simp] theorem Module.setCore_images (m : Module) (d : Fin 16) (c : Fin 128) (x : Core) : (m.setCore d c x).images = m.images := rfl
@[simp] theorem Module.setCore_ticket (m : Module) (d : Fin 16) (c : Fin 128) (x : Core) : (m.setCore d c x).ticket = m.ticket := rfl
@[simp] theorem Module.setCore_reports (m : Module) (d : Fin 16) (c : Fin 128) (x : Core) : (m.setCore d c x).reports = m.reports := rfl
@[simp] theorem Module.setCore_fresh (m : Module) (d : Fin 16) (c : Fin 128) (x : Core) : (m.setCore d c x).fresh = m.fresh := rfl

@[simp] theorem Module.modCore_phys (m : Module) (d : Fin 16) (c : Fin 128) (f : Core → Core) : (m.modCore d c f).phys = m.phys := rfl
@[simp] theorem Module.modCore_host (m : Module) (d : Fin 16) (c : Fin 128) (f : Core → Core) : (m.modCore d c f).host = m.host := rfl
@[simp] theorem Module.modCore_hostData (m : Module) (d : Fin 16) (c : Fin 128) (f : Core → Core) : (m.modCore d c f).hostData = m.hostData := rfl
@[simp] theorem Module.modCore_poison (m : Module) (d : Fin 16) (c : Fin 128) (f : Core → Core) : (m.modCore d c f).poison = m.poison := rfl
@[simp] theorem Module.modCore_unitPoison (m : Module) (d : Fin 16) (c : Fin 128) (f : Core → Core) : (m.modCore d c f).unitPoison = m.unitPoison := rfl
@[simp] theorem Module.modCore_clusters (m : Module) (d : Fin 16) (c : Fin 128) (f : Core → Core) : (m.modCore d c f).clusters = m.clusters := rfl
@[simp] theorem Module.modCore_dies (m : Module) (d : Fin 16) (c : Fin 128) (f : Core → Core) : (m.modCore d c f).dies = m.dies := rfl
@[simp] theorem Module.modCore_zithers (m : Module) (d : Fin 16) (c : Fin 128) (f : Core → Core) : (m.modCore d c f).zithers = m.zithers := rfl
@[simp] theorem Module.modCore_ports (m : Module) (d : Fin 16) (c : Fin 128) (f : Core → Core) : (m.modCore d c f).ports = m.ports := rfl
@[simp] theorem Module.modCore_chains (m : Module) (d : Fin 16) (c : Fin 128) (f : Core → Core) : (m.modCore d c f).chains = m.chains := rfl
@[simp] theorem Module.modCore_ccbs (m : Module) (d : Fin 16) (c : Fin 128) (f : Core → Core) : (m.modCore d c f).ccbs = m.ccbs := rfl
@[simp] theorem Module.modCore_ctxs (m : Module) (d : Fin 16) (c : Fin 128) (f : Core → Core) : (m.modCore d c f).ctxs = m.ctxs := rfl
@[simp] theorem Module.modCore_graphs (m : Module) (d : Fin 16) (c : Fin 128) (f : Core → Core) : (m.modCore d c f).graphs = m.graphs := rfl
@[simp] theorem Module.modCore_held (m : Module) (d : Fin 16) (c : Fin 128) (f : Core → Core) : (m.modCore d c f).held = m.held := rfl
@[simp] theorem Module.modCore_relay (m : Module) (d : Fin 16) (c : Fin 128) (f : Core → Core) : (m.modCore d c f).relay = m.relay := rfl
@[simp] theorem Module.modCore_heldWrites (m : Module) (d : Fin 16) (c : Fin 128) (f : Core → Core) : (m.modCore d c f).heldWrites = m.heldWrites := rfl
@[simp] theorem Module.modCore_heldMarkers (m : Module) (d : Fin 16) (c : Fin 128) (f : Core → Core) : (m.modCore d c f).heldMarkers = m.heldMarkers := rfl
@[simp] theorem Module.modCore_heldCopies (m : Module) (d : Fin 16) (c : Fin 128) (f : Core → Core) : (m.modCore d c f).heldCopies = m.heldCopies := rfl
@[simp] theorem Module.modCore_relayFull (m : Module) (d : Fin 16) (c : Fin 128) (f : Core → Core) : (m.modCore d c f).relayFull = m.relayFull := rfl
@[simp] theorem Module.modCore_nextMatch (m : Module) (d : Fin 16) (c : Fin 128) (f : Core → Core) : (m.modCore d c f).nextMatch = m.nextMatch := rfl
@[simp] theorem Module.modCore_mcast (m : Module) (d : Fin 16) (c : Fin 128) (f : Core → Core) : (m.modCore d c f).mcast = m.mcast := rfl
@[simp] theorem Module.modCore_device (m : Module) (d : Fin 16) (c : Fin 128) (f : Core → Core) : (m.modCore d c f).device = m.device := rfl
@[simp] theorem Module.modCore_mail (m : Module) (d : Fin 16) (c : Fin 128) (f : Core → Core) : (m.modCore d c f).mail = m.mail := rfl
@[simp] theorem Module.modCore_busy (m : Module) (d : Fin 16) (c : Fin 128) (f : Core → Core) : (m.modCore d c f).busy = m.busy := rfl
@[simp] theorem Module.modCore_result (m : Module) (d : Fin 16) (c : Fin 128) (f : Core → Core) : (m.modCore d c f).result = m.result := rfl
@[simp] theorem Module.modCore_ring (m : Module) (d : Fin 16) (c : Fin 128) (f : Core → Core) : (m.modCore d c f).ring = m.ring := rfl
@[simp] theorem Module.modCore_widx (m : Module) (d : Fin 16) (c : Fin 128) (f : Core → Core) : (m.modCore d c f).widx = m.widx := rfl
@[simp] theorem Module.modCore_ridx (m : Module) (d : Fin 16) (c : Fin 128) (f : Core → Core) : (m.modCore d c f).ridx = m.ridx := rfl
@[simp] theorem Module.modCore_evseq (m : Module) (d : Fin 16) (c : Fin 128) (f : Core → Core) : (m.modCore d c f).evseq = m.evseq := rfl
@[simp] theorem Module.modCore_msix (m : Module) (d : Fin 16) (c : Fin 128) (f : Core → Core) : (m.modCore d c f).msix = m.msix := rfl
@[simp] theorem Module.modCore_booted (m : Module) (d : Fin 16) (c : Fin 128) (f : Core → Core) : (m.modCore d c f).booted = m.booted := rfl
@[simp] theorem Module.modCore_minVersion (m : Module) (d : Fin 16) (c : Fin 128) (f : Core → Core) : (m.modCore d c f).minVersion = m.minVersion := rfl
@[simp] theorem Module.modCore_rootKey (m : Module) (d : Fin 16) (c : Fin 128) (f : Core → Core) : (m.modCore d c f).rootKey = m.rootKey := rfl
@[simp] theorem Module.modCore_images (m : Module) (d : Fin 16) (c : Fin 128) (f : Core → Core) : (m.modCore d c f).images = m.images := rfl
@[simp] theorem Module.modCore_ticket (m : Module) (d : Fin 16) (c : Fin 128) (f : Core → Core) : (m.modCore d c f).ticket = m.ticket := rfl
@[simp] theorem Module.modCore_reports (m : Module) (d : Fin 16) (c : Fin 128) (f : Core → Core) : (m.modCore d c f).reports = m.reports := rfl
@[simp] theorem Module.modCore_fresh (m : Module) (d : Fin 16) (c : Fin 128) (f : Core → Core) : (m.modCore d c f).fresh = m.fresh := rfl

@[simp] theorem Module.setStrm_phys (m : Module) (w : Who) (x : Stream) : (m.setStrm w x).phys = m.phys := rfl
@[simp] theorem Module.setStrm_host (m : Module) (w : Who) (x : Stream) : (m.setStrm w x).host = m.host := rfl
@[simp] theorem Module.setStrm_hostData (m : Module) (w : Who) (x : Stream) : (m.setStrm w x).hostData = m.hostData := rfl
@[simp] theorem Module.setStrm_poison (m : Module) (w : Who) (x : Stream) : (m.setStrm w x).poison = m.poison := rfl
@[simp] theorem Module.setStrm_unitPoison (m : Module) (w : Who) (x : Stream) : (m.setStrm w x).unitPoison = m.unitPoison := rfl
@[simp] theorem Module.setStrm_clusters (m : Module) (w : Who) (x : Stream) : (m.setStrm w x).clusters = m.clusters := rfl
@[simp] theorem Module.setStrm_dies (m : Module) (w : Who) (x : Stream) : (m.setStrm w x).dies = m.dies := rfl
@[simp] theorem Module.setStrm_zithers (m : Module) (w : Who) (x : Stream) : (m.setStrm w x).zithers = m.zithers := rfl
@[simp] theorem Module.setStrm_ports (m : Module) (w : Who) (x : Stream) : (m.setStrm w x).ports = m.ports := rfl
@[simp] theorem Module.setStrm_chains (m : Module) (w : Who) (x : Stream) : (m.setStrm w x).chains = m.chains := rfl
@[simp] theorem Module.setStrm_ccbs (m : Module) (w : Who) (x : Stream) : (m.setStrm w x).ccbs = m.ccbs := rfl
@[simp] theorem Module.setStrm_ctxs (m : Module) (w : Who) (x : Stream) : (m.setStrm w x).ctxs = m.ctxs := rfl
@[simp] theorem Module.setStrm_graphs (m : Module) (w : Who) (x : Stream) : (m.setStrm w x).graphs = m.graphs := rfl
@[simp] theorem Module.setStrm_held (m : Module) (w : Who) (x : Stream) : (m.setStrm w x).held = m.held := rfl
@[simp] theorem Module.setStrm_relay (m : Module) (w : Who) (x : Stream) : (m.setStrm w x).relay = m.relay := rfl
@[simp] theorem Module.setStrm_heldWrites (m : Module) (w : Who) (x : Stream) : (m.setStrm w x).heldWrites = m.heldWrites := rfl
@[simp] theorem Module.setStrm_heldMarkers (m : Module) (w : Who) (x : Stream) : (m.setStrm w x).heldMarkers = m.heldMarkers := rfl
@[simp] theorem Module.setStrm_heldCopies (m : Module) (w : Who) (x : Stream) : (m.setStrm w x).heldCopies = m.heldCopies := rfl
@[simp] theorem Module.setStrm_relayFull (m : Module) (w : Who) (x : Stream) : (m.setStrm w x).relayFull = m.relayFull := rfl
@[simp] theorem Module.setStrm_nextMatch (m : Module) (w : Who) (x : Stream) : (m.setStrm w x).nextMatch = m.nextMatch := rfl
@[simp] theorem Module.setStrm_mcast (m : Module) (w : Who) (x : Stream) : (m.setStrm w x).mcast = m.mcast := rfl
@[simp] theorem Module.setStrm_device (m : Module) (w : Who) (x : Stream) : (m.setStrm w x).device = m.device := rfl
@[simp] theorem Module.setStrm_mail (m : Module) (w : Who) (x : Stream) : (m.setStrm w x).mail = m.mail := rfl
@[simp] theorem Module.setStrm_busy (m : Module) (w : Who) (x : Stream) : (m.setStrm w x).busy = m.busy := rfl
@[simp] theorem Module.setStrm_result (m : Module) (w : Who) (x : Stream) : (m.setStrm w x).result = m.result := rfl
@[simp] theorem Module.setStrm_ring (m : Module) (w : Who) (x : Stream) : (m.setStrm w x).ring = m.ring := rfl
@[simp] theorem Module.setStrm_widx (m : Module) (w : Who) (x : Stream) : (m.setStrm w x).widx = m.widx := rfl
@[simp] theorem Module.setStrm_ridx (m : Module) (w : Who) (x : Stream) : (m.setStrm w x).ridx = m.ridx := rfl
@[simp] theorem Module.setStrm_evseq (m : Module) (w : Who) (x : Stream) : (m.setStrm w x).evseq = m.evseq := rfl
@[simp] theorem Module.setStrm_msix (m : Module) (w : Who) (x : Stream) : (m.setStrm w x).msix = m.msix := rfl
@[simp] theorem Module.setStrm_booted (m : Module) (w : Who) (x : Stream) : (m.setStrm w x).booted = m.booted := rfl
@[simp] theorem Module.setStrm_minVersion (m : Module) (w : Who) (x : Stream) : (m.setStrm w x).minVersion = m.minVersion := rfl
@[simp] theorem Module.setStrm_rootKey (m : Module) (w : Who) (x : Stream) : (m.setStrm w x).rootKey = m.rootKey := rfl
@[simp] theorem Module.setStrm_images (m : Module) (w : Who) (x : Stream) : (m.setStrm w x).images = m.images := rfl
@[simp] theorem Module.setStrm_ticket (m : Module) (w : Who) (x : Stream) : (m.setStrm w x).ticket = m.ticket := rfl
@[simp] theorem Module.setStrm_reports (m : Module) (w : Who) (x : Stream) : (m.setStrm w x).reports = m.reports := rfl
@[simp] theorem Module.setStrm_fresh (m : Module) (w : Who) (x : Stream) : (m.setStrm w x).fresh = m.fresh := rfl

@[simp] theorem Module.modStrm_phys (m : Module) (w : Who) (f : Stream → Stream) : (m.modStrm w f).phys = m.phys := rfl
@[simp] theorem Module.modStrm_host (m : Module) (w : Who) (f : Stream → Stream) : (m.modStrm w f).host = m.host := rfl
@[simp] theorem Module.modStrm_hostData (m : Module) (w : Who) (f : Stream → Stream) : (m.modStrm w f).hostData = m.hostData := rfl
@[simp] theorem Module.modStrm_poison (m : Module) (w : Who) (f : Stream → Stream) : (m.modStrm w f).poison = m.poison := rfl
@[simp] theorem Module.modStrm_unitPoison (m : Module) (w : Who) (f : Stream → Stream) : (m.modStrm w f).unitPoison = m.unitPoison := rfl
@[simp] theorem Module.modStrm_clusters (m : Module) (w : Who) (f : Stream → Stream) : (m.modStrm w f).clusters = m.clusters := rfl
@[simp] theorem Module.modStrm_dies (m : Module) (w : Who) (f : Stream → Stream) : (m.modStrm w f).dies = m.dies := rfl
@[simp] theorem Module.modStrm_zithers (m : Module) (w : Who) (f : Stream → Stream) : (m.modStrm w f).zithers = m.zithers := rfl
@[simp] theorem Module.modStrm_ports (m : Module) (w : Who) (f : Stream → Stream) : (m.modStrm w f).ports = m.ports := rfl
@[simp] theorem Module.modStrm_chains (m : Module) (w : Who) (f : Stream → Stream) : (m.modStrm w f).chains = m.chains := rfl
@[simp] theorem Module.modStrm_ccbs (m : Module) (w : Who) (f : Stream → Stream) : (m.modStrm w f).ccbs = m.ccbs := rfl
@[simp] theorem Module.modStrm_ctxs (m : Module) (w : Who) (f : Stream → Stream) : (m.modStrm w f).ctxs = m.ctxs := rfl
@[simp] theorem Module.modStrm_graphs (m : Module) (w : Who) (f : Stream → Stream) : (m.modStrm w f).graphs = m.graphs := rfl
@[simp] theorem Module.modStrm_held (m : Module) (w : Who) (f : Stream → Stream) : (m.modStrm w f).held = m.held := rfl
@[simp] theorem Module.modStrm_relay (m : Module) (w : Who) (f : Stream → Stream) : (m.modStrm w f).relay = m.relay := rfl
@[simp] theorem Module.modStrm_heldWrites (m : Module) (w : Who) (f : Stream → Stream) : (m.modStrm w f).heldWrites = m.heldWrites := rfl
@[simp] theorem Module.modStrm_heldMarkers (m : Module) (w : Who) (f : Stream → Stream) : (m.modStrm w f).heldMarkers = m.heldMarkers := rfl
@[simp] theorem Module.modStrm_heldCopies (m : Module) (w : Who) (f : Stream → Stream) : (m.modStrm w f).heldCopies = m.heldCopies := rfl
@[simp] theorem Module.modStrm_relayFull (m : Module) (w : Who) (f : Stream → Stream) : (m.modStrm w f).relayFull = m.relayFull := rfl
@[simp] theorem Module.modStrm_nextMatch (m : Module) (w : Who) (f : Stream → Stream) : (m.modStrm w f).nextMatch = m.nextMatch := rfl
@[simp] theorem Module.modStrm_mcast (m : Module) (w : Who) (f : Stream → Stream) : (m.modStrm w f).mcast = m.mcast := rfl
@[simp] theorem Module.modStrm_device (m : Module) (w : Who) (f : Stream → Stream) : (m.modStrm w f).device = m.device := rfl
@[simp] theorem Module.modStrm_mail (m : Module) (w : Who) (f : Stream → Stream) : (m.modStrm w f).mail = m.mail := rfl
@[simp] theorem Module.modStrm_busy (m : Module) (w : Who) (f : Stream → Stream) : (m.modStrm w f).busy = m.busy := rfl
@[simp] theorem Module.modStrm_result (m : Module) (w : Who) (f : Stream → Stream) : (m.modStrm w f).result = m.result := rfl
@[simp] theorem Module.modStrm_ring (m : Module) (w : Who) (f : Stream → Stream) : (m.modStrm w f).ring = m.ring := rfl
@[simp] theorem Module.modStrm_widx (m : Module) (w : Who) (f : Stream → Stream) : (m.modStrm w f).widx = m.widx := rfl
@[simp] theorem Module.modStrm_ridx (m : Module) (w : Who) (f : Stream → Stream) : (m.modStrm w f).ridx = m.ridx := rfl
@[simp] theorem Module.modStrm_evseq (m : Module) (w : Who) (f : Stream → Stream) : (m.modStrm w f).evseq = m.evseq := rfl
@[simp] theorem Module.modStrm_msix (m : Module) (w : Who) (f : Stream → Stream) : (m.modStrm w f).msix = m.msix := rfl
@[simp] theorem Module.modStrm_booted (m : Module) (w : Who) (f : Stream → Stream) : (m.modStrm w f).booted = m.booted := rfl
@[simp] theorem Module.modStrm_minVersion (m : Module) (w : Who) (f : Stream → Stream) : (m.modStrm w f).minVersion = m.minVersion := rfl
@[simp] theorem Module.modStrm_rootKey (m : Module) (w : Who) (f : Stream → Stream) : (m.modStrm w f).rootKey = m.rootKey := rfl
@[simp] theorem Module.modStrm_images (m : Module) (w : Who) (f : Stream → Stream) : (m.modStrm w f).images = m.images := rfl
@[simp] theorem Module.modStrm_ticket (m : Module) (w : Who) (f : Stream → Stream) : (m.modStrm w f).ticket = m.ticket := rfl
@[simp] theorem Module.modStrm_reports (m : Module) (w : Who) (f : Stream → Stream) : (m.modStrm w f).reports = m.reports := rfl
@[simp] theorem Module.modStrm_fresh (m : Module) (w : Who) (f : Stream → Stream) : (m.modStrm w f).fresh = m.fresh := rfl

@[simp] theorem Module.setDie_phys (m : Module) (d : Fin 16) (x : Die) : (m.setDie d x).phys = m.phys := rfl
@[simp] theorem Module.setDie_host (m : Module) (d : Fin 16) (x : Die) : (m.setDie d x).host = m.host := rfl
@[simp] theorem Module.setDie_hostData (m : Module) (d : Fin 16) (x : Die) : (m.setDie d x).hostData = m.hostData := rfl
@[simp] theorem Module.setDie_poison (m : Module) (d : Fin 16) (x : Die) : (m.setDie d x).poison = m.poison := rfl
@[simp] theorem Module.setDie_unitPoison (m : Module) (d : Fin 16) (x : Die) : (m.setDie d x).unitPoison = m.unitPoison := rfl
@[simp] theorem Module.setDie_cores (m : Module) (d : Fin 16) (x : Die) : (m.setDie d x).cores = m.cores := rfl
@[simp] theorem Module.setDie_clusters (m : Module) (d : Fin 16) (x : Die) : (m.setDie d x).clusters = m.clusters := rfl
@[simp] theorem Module.setDie_zithers (m : Module) (d : Fin 16) (x : Die) : (m.setDie d x).zithers = m.zithers := rfl
@[simp] theorem Module.setDie_ports (m : Module) (d : Fin 16) (x : Die) : (m.setDie d x).ports = m.ports := rfl
@[simp] theorem Module.setDie_chains (m : Module) (d : Fin 16) (x : Die) : (m.setDie d x).chains = m.chains := rfl
@[simp] theorem Module.setDie_ccbs (m : Module) (d : Fin 16) (x : Die) : (m.setDie d x).ccbs = m.ccbs := rfl
@[simp] theorem Module.setDie_ctxs (m : Module) (d : Fin 16) (x : Die) : (m.setDie d x).ctxs = m.ctxs := rfl
@[simp] theorem Module.setDie_graphs (m : Module) (d : Fin 16) (x : Die) : (m.setDie d x).graphs = m.graphs := rfl
@[simp] theorem Module.setDie_held (m : Module) (d : Fin 16) (x : Die) : (m.setDie d x).held = m.held := rfl
@[simp] theorem Module.setDie_relay (m : Module) (d : Fin 16) (x : Die) : (m.setDie d x).relay = m.relay := rfl
@[simp] theorem Module.setDie_heldWrites (m : Module) (d : Fin 16) (x : Die) : (m.setDie d x).heldWrites = m.heldWrites := rfl
@[simp] theorem Module.setDie_heldMarkers (m : Module) (d : Fin 16) (x : Die) : (m.setDie d x).heldMarkers = m.heldMarkers := rfl
@[simp] theorem Module.setDie_heldCopies (m : Module) (d : Fin 16) (x : Die) : (m.setDie d x).heldCopies = m.heldCopies := rfl
@[simp] theorem Module.setDie_relayFull (m : Module) (d : Fin 16) (x : Die) : (m.setDie d x).relayFull = m.relayFull := rfl
@[simp] theorem Module.setDie_nextMatch (m : Module) (d : Fin 16) (x : Die) : (m.setDie d x).nextMatch = m.nextMatch := rfl
@[simp] theorem Module.setDie_mcast (m : Module) (d : Fin 16) (x : Die) : (m.setDie d x).mcast = m.mcast := rfl
@[simp] theorem Module.setDie_device (m : Module) (d : Fin 16) (x : Die) : (m.setDie d x).device = m.device := rfl
@[simp] theorem Module.setDie_mail (m : Module) (d : Fin 16) (x : Die) : (m.setDie d x).mail = m.mail := rfl
@[simp] theorem Module.setDie_busy (m : Module) (d : Fin 16) (x : Die) : (m.setDie d x).busy = m.busy := rfl
@[simp] theorem Module.setDie_result (m : Module) (d : Fin 16) (x : Die) : (m.setDie d x).result = m.result := rfl
@[simp] theorem Module.setDie_ring (m : Module) (d : Fin 16) (x : Die) : (m.setDie d x).ring = m.ring := rfl
@[simp] theorem Module.setDie_widx (m : Module) (d : Fin 16) (x : Die) : (m.setDie d x).widx = m.widx := rfl
@[simp] theorem Module.setDie_ridx (m : Module) (d : Fin 16) (x : Die) : (m.setDie d x).ridx = m.ridx := rfl
@[simp] theorem Module.setDie_evseq (m : Module) (d : Fin 16) (x : Die) : (m.setDie d x).evseq = m.evseq := rfl
@[simp] theorem Module.setDie_msix (m : Module) (d : Fin 16) (x : Die) : (m.setDie d x).msix = m.msix := rfl
@[simp] theorem Module.setDie_booted (m : Module) (d : Fin 16) (x : Die) : (m.setDie d x).booted = m.booted := rfl
@[simp] theorem Module.setDie_minVersion (m : Module) (d : Fin 16) (x : Die) : (m.setDie d x).minVersion = m.minVersion := rfl
@[simp] theorem Module.setDie_rootKey (m : Module) (d : Fin 16) (x : Die) : (m.setDie d x).rootKey = m.rootKey := rfl
@[simp] theorem Module.setDie_images (m : Module) (d : Fin 16) (x : Die) : (m.setDie d x).images = m.images := rfl
@[simp] theorem Module.setDie_ticket (m : Module) (d : Fin 16) (x : Die) : (m.setDie d x).ticket = m.ticket := rfl
@[simp] theorem Module.setDie_reports (m : Module) (d : Fin 16) (x : Die) : (m.setDie d x).reports = m.reports := rfl
@[simp] theorem Module.setDie_fresh (m : Module) (d : Fin 16) (x : Die) : (m.setDie d x).fresh = m.fresh := rfl

@[simp] theorem Module.modDie_phys (m : Module) (d : Fin 16) (f : Die → Die) : (m.modDie d f).phys = m.phys := rfl
@[simp] theorem Module.modDie_host (m : Module) (d : Fin 16) (f : Die → Die) : (m.modDie d f).host = m.host := rfl
@[simp] theorem Module.modDie_hostData (m : Module) (d : Fin 16) (f : Die → Die) : (m.modDie d f).hostData = m.hostData := rfl
@[simp] theorem Module.modDie_poison (m : Module) (d : Fin 16) (f : Die → Die) : (m.modDie d f).poison = m.poison := rfl
@[simp] theorem Module.modDie_unitPoison (m : Module) (d : Fin 16) (f : Die → Die) : (m.modDie d f).unitPoison = m.unitPoison := rfl
@[simp] theorem Module.modDie_cores (m : Module) (d : Fin 16) (f : Die → Die) : (m.modDie d f).cores = m.cores := rfl
@[simp] theorem Module.modDie_clusters (m : Module) (d : Fin 16) (f : Die → Die) : (m.modDie d f).clusters = m.clusters := rfl
@[simp] theorem Module.modDie_zithers (m : Module) (d : Fin 16) (f : Die → Die) : (m.modDie d f).zithers = m.zithers := rfl
@[simp] theorem Module.modDie_ports (m : Module) (d : Fin 16) (f : Die → Die) : (m.modDie d f).ports = m.ports := rfl
@[simp] theorem Module.modDie_chains (m : Module) (d : Fin 16) (f : Die → Die) : (m.modDie d f).chains = m.chains := rfl
@[simp] theorem Module.modDie_ccbs (m : Module) (d : Fin 16) (f : Die → Die) : (m.modDie d f).ccbs = m.ccbs := rfl
@[simp] theorem Module.modDie_ctxs (m : Module) (d : Fin 16) (f : Die → Die) : (m.modDie d f).ctxs = m.ctxs := rfl
@[simp] theorem Module.modDie_graphs (m : Module) (d : Fin 16) (f : Die → Die) : (m.modDie d f).graphs = m.graphs := rfl
@[simp] theorem Module.modDie_held (m : Module) (d : Fin 16) (f : Die → Die) : (m.modDie d f).held = m.held := rfl
@[simp] theorem Module.modDie_relay (m : Module) (d : Fin 16) (f : Die → Die) : (m.modDie d f).relay = m.relay := rfl
@[simp] theorem Module.modDie_heldWrites (m : Module) (d : Fin 16) (f : Die → Die) : (m.modDie d f).heldWrites = m.heldWrites := rfl
@[simp] theorem Module.modDie_heldMarkers (m : Module) (d : Fin 16) (f : Die → Die) : (m.modDie d f).heldMarkers = m.heldMarkers := rfl
@[simp] theorem Module.modDie_heldCopies (m : Module) (d : Fin 16) (f : Die → Die) : (m.modDie d f).heldCopies = m.heldCopies := rfl
@[simp] theorem Module.modDie_relayFull (m : Module) (d : Fin 16) (f : Die → Die) : (m.modDie d f).relayFull = m.relayFull := rfl
@[simp] theorem Module.modDie_nextMatch (m : Module) (d : Fin 16) (f : Die → Die) : (m.modDie d f).nextMatch = m.nextMatch := rfl
@[simp] theorem Module.modDie_mcast (m : Module) (d : Fin 16) (f : Die → Die) : (m.modDie d f).mcast = m.mcast := rfl
@[simp] theorem Module.modDie_device (m : Module) (d : Fin 16) (f : Die → Die) : (m.modDie d f).device = m.device := rfl
@[simp] theorem Module.modDie_mail (m : Module) (d : Fin 16) (f : Die → Die) : (m.modDie d f).mail = m.mail := rfl
@[simp] theorem Module.modDie_busy (m : Module) (d : Fin 16) (f : Die → Die) : (m.modDie d f).busy = m.busy := rfl
@[simp] theorem Module.modDie_result (m : Module) (d : Fin 16) (f : Die → Die) : (m.modDie d f).result = m.result := rfl
@[simp] theorem Module.modDie_ring (m : Module) (d : Fin 16) (f : Die → Die) : (m.modDie d f).ring = m.ring := rfl
@[simp] theorem Module.modDie_widx (m : Module) (d : Fin 16) (f : Die → Die) : (m.modDie d f).widx = m.widx := rfl
@[simp] theorem Module.modDie_ridx (m : Module) (d : Fin 16) (f : Die → Die) : (m.modDie d f).ridx = m.ridx := rfl
@[simp] theorem Module.modDie_evseq (m : Module) (d : Fin 16) (f : Die → Die) : (m.modDie d f).evseq = m.evseq := rfl
@[simp] theorem Module.modDie_msix (m : Module) (d : Fin 16) (f : Die → Die) : (m.modDie d f).msix = m.msix := rfl
@[simp] theorem Module.modDie_booted (m : Module) (d : Fin 16) (f : Die → Die) : (m.modDie d f).booted = m.booted := rfl
@[simp] theorem Module.modDie_minVersion (m : Module) (d : Fin 16) (f : Die → Die) : (m.modDie d f).minVersion = m.minVersion := rfl
@[simp] theorem Module.modDie_rootKey (m : Module) (d : Fin 16) (f : Die → Die) : (m.modDie d f).rootKey = m.rootKey := rfl
@[simp] theorem Module.modDie_images (m : Module) (d : Fin 16) (f : Die → Die) : (m.modDie d f).images = m.images := rfl
@[simp] theorem Module.modDie_ticket (m : Module) (d : Fin 16) (f : Die → Die) : (m.modDie d f).ticket = m.ticket := rfl
@[simp] theorem Module.modDie_reports (m : Module) (d : Fin 16) (f : Die → Die) : (m.modDie d f).reports = m.reports := rfl
@[simp] theorem Module.modDie_fresh (m : Module) (d : Fin 16) (f : Die → Die) : (m.modDie d f).fresh = m.fresh := rfl

@[simp] theorem Module.setCluster_phys (m : Module) (d : Fin 16) (k : Fin 8) (x : Cluster) : (m.setCluster d k x).phys = m.phys := rfl
@[simp] theorem Module.setCluster_host (m : Module) (d : Fin 16) (k : Fin 8) (x : Cluster) : (m.setCluster d k x).host = m.host := rfl
@[simp] theorem Module.setCluster_hostData (m : Module) (d : Fin 16) (k : Fin 8) (x : Cluster) : (m.setCluster d k x).hostData = m.hostData := rfl
@[simp] theorem Module.setCluster_poison (m : Module) (d : Fin 16) (k : Fin 8) (x : Cluster) : (m.setCluster d k x).poison = m.poison := rfl
@[simp] theorem Module.setCluster_unitPoison (m : Module) (d : Fin 16) (k : Fin 8) (x : Cluster) : (m.setCluster d k x).unitPoison = m.unitPoison := rfl
@[simp] theorem Module.setCluster_cores (m : Module) (d : Fin 16) (k : Fin 8) (x : Cluster) : (m.setCluster d k x).cores = m.cores := rfl
@[simp] theorem Module.setCluster_dies (m : Module) (d : Fin 16) (k : Fin 8) (x : Cluster) : (m.setCluster d k x).dies = m.dies := rfl
@[simp] theorem Module.setCluster_zithers (m : Module) (d : Fin 16) (k : Fin 8) (x : Cluster) : (m.setCluster d k x).zithers = m.zithers := rfl
@[simp] theorem Module.setCluster_ports (m : Module) (d : Fin 16) (k : Fin 8) (x : Cluster) : (m.setCluster d k x).ports = m.ports := rfl
@[simp] theorem Module.setCluster_chains (m : Module) (d : Fin 16) (k : Fin 8) (x : Cluster) : (m.setCluster d k x).chains = m.chains := rfl
@[simp] theorem Module.setCluster_ccbs (m : Module) (d : Fin 16) (k : Fin 8) (x : Cluster) : (m.setCluster d k x).ccbs = m.ccbs := rfl
@[simp] theorem Module.setCluster_ctxs (m : Module) (d : Fin 16) (k : Fin 8) (x : Cluster) : (m.setCluster d k x).ctxs = m.ctxs := rfl
@[simp] theorem Module.setCluster_graphs (m : Module) (d : Fin 16) (k : Fin 8) (x : Cluster) : (m.setCluster d k x).graphs = m.graphs := rfl
@[simp] theorem Module.setCluster_held (m : Module) (d : Fin 16) (k : Fin 8) (x : Cluster) : (m.setCluster d k x).held = m.held := rfl
@[simp] theorem Module.setCluster_relay (m : Module) (d : Fin 16) (k : Fin 8) (x : Cluster) : (m.setCluster d k x).relay = m.relay := rfl
@[simp] theorem Module.setCluster_heldWrites (m : Module) (d : Fin 16) (k : Fin 8) (x : Cluster) : (m.setCluster d k x).heldWrites = m.heldWrites := rfl
@[simp] theorem Module.setCluster_heldMarkers (m : Module) (d : Fin 16) (k : Fin 8) (x : Cluster) : (m.setCluster d k x).heldMarkers = m.heldMarkers := rfl
@[simp] theorem Module.setCluster_heldCopies (m : Module) (d : Fin 16) (k : Fin 8) (x : Cluster) : (m.setCluster d k x).heldCopies = m.heldCopies := rfl
@[simp] theorem Module.setCluster_relayFull (m : Module) (d : Fin 16) (k : Fin 8) (x : Cluster) : (m.setCluster d k x).relayFull = m.relayFull := rfl
@[simp] theorem Module.setCluster_nextMatch (m : Module) (d : Fin 16) (k : Fin 8) (x : Cluster) : (m.setCluster d k x).nextMatch = m.nextMatch := rfl
@[simp] theorem Module.setCluster_mcast (m : Module) (d : Fin 16) (k : Fin 8) (x : Cluster) : (m.setCluster d k x).mcast = m.mcast := rfl
@[simp] theorem Module.setCluster_device (m : Module) (d : Fin 16) (k : Fin 8) (x : Cluster) : (m.setCluster d k x).device = m.device := rfl
@[simp] theorem Module.setCluster_mail (m : Module) (d : Fin 16) (k : Fin 8) (x : Cluster) : (m.setCluster d k x).mail = m.mail := rfl
@[simp] theorem Module.setCluster_busy (m : Module) (d : Fin 16) (k : Fin 8) (x : Cluster) : (m.setCluster d k x).busy = m.busy := rfl
@[simp] theorem Module.setCluster_result (m : Module) (d : Fin 16) (k : Fin 8) (x : Cluster) : (m.setCluster d k x).result = m.result := rfl
@[simp] theorem Module.setCluster_ring (m : Module) (d : Fin 16) (k : Fin 8) (x : Cluster) : (m.setCluster d k x).ring = m.ring := rfl
@[simp] theorem Module.setCluster_widx (m : Module) (d : Fin 16) (k : Fin 8) (x : Cluster) : (m.setCluster d k x).widx = m.widx := rfl
@[simp] theorem Module.setCluster_ridx (m : Module) (d : Fin 16) (k : Fin 8) (x : Cluster) : (m.setCluster d k x).ridx = m.ridx := rfl
@[simp] theorem Module.setCluster_evseq (m : Module) (d : Fin 16) (k : Fin 8) (x : Cluster) : (m.setCluster d k x).evseq = m.evseq := rfl
@[simp] theorem Module.setCluster_msix (m : Module) (d : Fin 16) (k : Fin 8) (x : Cluster) : (m.setCluster d k x).msix = m.msix := rfl
@[simp] theorem Module.setCluster_booted (m : Module) (d : Fin 16) (k : Fin 8) (x : Cluster) : (m.setCluster d k x).booted = m.booted := rfl
@[simp] theorem Module.setCluster_minVersion (m : Module) (d : Fin 16) (k : Fin 8) (x : Cluster) : (m.setCluster d k x).minVersion = m.minVersion := rfl
@[simp] theorem Module.setCluster_rootKey (m : Module) (d : Fin 16) (k : Fin 8) (x : Cluster) : (m.setCluster d k x).rootKey = m.rootKey := rfl
@[simp] theorem Module.setCluster_images (m : Module) (d : Fin 16) (k : Fin 8) (x : Cluster) : (m.setCluster d k x).images = m.images := rfl
@[simp] theorem Module.setCluster_ticket (m : Module) (d : Fin 16) (k : Fin 8) (x : Cluster) : (m.setCluster d k x).ticket = m.ticket := rfl
@[simp] theorem Module.setCluster_reports (m : Module) (d : Fin 16) (k : Fin 8) (x : Cluster) : (m.setCluster d k x).reports = m.reports := rfl
@[simp] theorem Module.setCluster_fresh (m : Module) (d : Fin 16) (k : Fin 8) (x : Cluster) : (m.setCluster d k x).fresh = m.fresh := rfl

@[simp] theorem Module.modCluster_phys (m : Module) (d : Fin 16) (k : Fin 8) (f : Cluster → Cluster) : (m.modCluster d k f).phys = m.phys := rfl
@[simp] theorem Module.modCluster_host (m : Module) (d : Fin 16) (k : Fin 8) (f : Cluster → Cluster) : (m.modCluster d k f).host = m.host := rfl
@[simp] theorem Module.modCluster_hostData (m : Module) (d : Fin 16) (k : Fin 8) (f : Cluster → Cluster) : (m.modCluster d k f).hostData = m.hostData := rfl
@[simp] theorem Module.modCluster_poison (m : Module) (d : Fin 16) (k : Fin 8) (f : Cluster → Cluster) : (m.modCluster d k f).poison = m.poison := rfl
@[simp] theorem Module.modCluster_unitPoison (m : Module) (d : Fin 16) (k : Fin 8) (f : Cluster → Cluster) : (m.modCluster d k f).unitPoison = m.unitPoison := rfl
@[simp] theorem Module.modCluster_cores (m : Module) (d : Fin 16) (k : Fin 8) (f : Cluster → Cluster) : (m.modCluster d k f).cores = m.cores := rfl
@[simp] theorem Module.modCluster_dies (m : Module) (d : Fin 16) (k : Fin 8) (f : Cluster → Cluster) : (m.modCluster d k f).dies = m.dies := rfl
@[simp] theorem Module.modCluster_zithers (m : Module) (d : Fin 16) (k : Fin 8) (f : Cluster → Cluster) : (m.modCluster d k f).zithers = m.zithers := rfl
@[simp] theorem Module.modCluster_ports (m : Module) (d : Fin 16) (k : Fin 8) (f : Cluster → Cluster) : (m.modCluster d k f).ports = m.ports := rfl
@[simp] theorem Module.modCluster_chains (m : Module) (d : Fin 16) (k : Fin 8) (f : Cluster → Cluster) : (m.modCluster d k f).chains = m.chains := rfl
@[simp] theorem Module.modCluster_ccbs (m : Module) (d : Fin 16) (k : Fin 8) (f : Cluster → Cluster) : (m.modCluster d k f).ccbs = m.ccbs := rfl
@[simp] theorem Module.modCluster_ctxs (m : Module) (d : Fin 16) (k : Fin 8) (f : Cluster → Cluster) : (m.modCluster d k f).ctxs = m.ctxs := rfl
@[simp] theorem Module.modCluster_graphs (m : Module) (d : Fin 16) (k : Fin 8) (f : Cluster → Cluster) : (m.modCluster d k f).graphs = m.graphs := rfl
@[simp] theorem Module.modCluster_held (m : Module) (d : Fin 16) (k : Fin 8) (f : Cluster → Cluster) : (m.modCluster d k f).held = m.held := rfl
@[simp] theorem Module.modCluster_relay (m : Module) (d : Fin 16) (k : Fin 8) (f : Cluster → Cluster) : (m.modCluster d k f).relay = m.relay := rfl
@[simp] theorem Module.modCluster_heldWrites (m : Module) (d : Fin 16) (k : Fin 8) (f : Cluster → Cluster) : (m.modCluster d k f).heldWrites = m.heldWrites := rfl
@[simp] theorem Module.modCluster_heldMarkers (m : Module) (d : Fin 16) (k : Fin 8) (f : Cluster → Cluster) : (m.modCluster d k f).heldMarkers = m.heldMarkers := rfl
@[simp] theorem Module.modCluster_heldCopies (m : Module) (d : Fin 16) (k : Fin 8) (f : Cluster → Cluster) : (m.modCluster d k f).heldCopies = m.heldCopies := rfl
@[simp] theorem Module.modCluster_relayFull (m : Module) (d : Fin 16) (k : Fin 8) (f : Cluster → Cluster) : (m.modCluster d k f).relayFull = m.relayFull := rfl
@[simp] theorem Module.modCluster_nextMatch (m : Module) (d : Fin 16) (k : Fin 8) (f : Cluster → Cluster) : (m.modCluster d k f).nextMatch = m.nextMatch := rfl
@[simp] theorem Module.modCluster_mcast (m : Module) (d : Fin 16) (k : Fin 8) (f : Cluster → Cluster) : (m.modCluster d k f).mcast = m.mcast := rfl
@[simp] theorem Module.modCluster_device (m : Module) (d : Fin 16) (k : Fin 8) (f : Cluster → Cluster) : (m.modCluster d k f).device = m.device := rfl
@[simp] theorem Module.modCluster_mail (m : Module) (d : Fin 16) (k : Fin 8) (f : Cluster → Cluster) : (m.modCluster d k f).mail = m.mail := rfl
@[simp] theorem Module.modCluster_busy (m : Module) (d : Fin 16) (k : Fin 8) (f : Cluster → Cluster) : (m.modCluster d k f).busy = m.busy := rfl
@[simp] theorem Module.modCluster_result (m : Module) (d : Fin 16) (k : Fin 8) (f : Cluster → Cluster) : (m.modCluster d k f).result = m.result := rfl
@[simp] theorem Module.modCluster_ring (m : Module) (d : Fin 16) (k : Fin 8) (f : Cluster → Cluster) : (m.modCluster d k f).ring = m.ring := rfl
@[simp] theorem Module.modCluster_widx (m : Module) (d : Fin 16) (k : Fin 8) (f : Cluster → Cluster) : (m.modCluster d k f).widx = m.widx := rfl
@[simp] theorem Module.modCluster_ridx (m : Module) (d : Fin 16) (k : Fin 8) (f : Cluster → Cluster) : (m.modCluster d k f).ridx = m.ridx := rfl
@[simp] theorem Module.modCluster_evseq (m : Module) (d : Fin 16) (k : Fin 8) (f : Cluster → Cluster) : (m.modCluster d k f).evseq = m.evseq := rfl
@[simp] theorem Module.modCluster_msix (m : Module) (d : Fin 16) (k : Fin 8) (f : Cluster → Cluster) : (m.modCluster d k f).msix = m.msix := rfl
@[simp] theorem Module.modCluster_booted (m : Module) (d : Fin 16) (k : Fin 8) (f : Cluster → Cluster) : (m.modCluster d k f).booted = m.booted := rfl
@[simp] theorem Module.modCluster_minVersion (m : Module) (d : Fin 16) (k : Fin 8) (f : Cluster → Cluster) : (m.modCluster d k f).minVersion = m.minVersion := rfl
@[simp] theorem Module.modCluster_rootKey (m : Module) (d : Fin 16) (k : Fin 8) (f : Cluster → Cluster) : (m.modCluster d k f).rootKey = m.rootKey := rfl
@[simp] theorem Module.modCluster_images (m : Module) (d : Fin 16) (k : Fin 8) (f : Cluster → Cluster) : (m.modCluster d k f).images = m.images := rfl
@[simp] theorem Module.modCluster_ticket (m : Module) (d : Fin 16) (k : Fin 8) (f : Cluster → Cluster) : (m.modCluster d k f).ticket = m.ticket := rfl
@[simp] theorem Module.modCluster_reports (m : Module) (d : Fin 16) (k : Fin 8) (f : Cluster → Cluster) : (m.modCluster d k f).reports = m.reports := rfl
@[simp] theorem Module.modCluster_fresh (m : Module) (d : Fin 16) (k : Fin 8) (f : Cluster → Cluster) : (m.modCluster d k f).fresh = m.fresh := rfl

@[simp] theorem Module.setCtx_phys (m : Module) (c : Fin 64) (x : CtxDyn) : (m.setCtx c x).phys = m.phys := rfl
@[simp] theorem Module.setCtx_host (m : Module) (c : Fin 64) (x : CtxDyn) : (m.setCtx c x).host = m.host := rfl
@[simp] theorem Module.setCtx_hostData (m : Module) (c : Fin 64) (x : CtxDyn) : (m.setCtx c x).hostData = m.hostData := rfl
@[simp] theorem Module.setCtx_poison (m : Module) (c : Fin 64) (x : CtxDyn) : (m.setCtx c x).poison = m.poison := rfl
@[simp] theorem Module.setCtx_unitPoison (m : Module) (c : Fin 64) (x : CtxDyn) : (m.setCtx c x).unitPoison = m.unitPoison := rfl
@[simp] theorem Module.setCtx_cores (m : Module) (c : Fin 64) (x : CtxDyn) : (m.setCtx c x).cores = m.cores := rfl
@[simp] theorem Module.setCtx_clusters (m : Module) (c : Fin 64) (x : CtxDyn) : (m.setCtx c x).clusters = m.clusters := rfl
@[simp] theorem Module.setCtx_dies (m : Module) (c : Fin 64) (x : CtxDyn) : (m.setCtx c x).dies = m.dies := rfl
@[simp] theorem Module.setCtx_zithers (m : Module) (c : Fin 64) (x : CtxDyn) : (m.setCtx c x).zithers = m.zithers := rfl
@[simp] theorem Module.setCtx_ports (m : Module) (c : Fin 64) (x : CtxDyn) : (m.setCtx c x).ports = m.ports := rfl
@[simp] theorem Module.setCtx_chains (m : Module) (c : Fin 64) (x : CtxDyn) : (m.setCtx c x).chains = m.chains := rfl
@[simp] theorem Module.setCtx_ccbs (m : Module) (c : Fin 64) (x : CtxDyn) : (m.setCtx c x).ccbs = m.ccbs := rfl
@[simp] theorem Module.setCtx_graphs (m : Module) (c : Fin 64) (x : CtxDyn) : (m.setCtx c x).graphs = m.graphs := rfl
@[simp] theorem Module.setCtx_held (m : Module) (c : Fin 64) (x : CtxDyn) : (m.setCtx c x).held = m.held := rfl
@[simp] theorem Module.setCtx_relay (m : Module) (c : Fin 64) (x : CtxDyn) : (m.setCtx c x).relay = m.relay := rfl
@[simp] theorem Module.setCtx_heldWrites (m : Module) (c : Fin 64) (x : CtxDyn) : (m.setCtx c x).heldWrites = m.heldWrites := rfl
@[simp] theorem Module.setCtx_heldMarkers (m : Module) (c : Fin 64) (x : CtxDyn) : (m.setCtx c x).heldMarkers = m.heldMarkers := rfl
@[simp] theorem Module.setCtx_heldCopies (m : Module) (c : Fin 64) (x : CtxDyn) : (m.setCtx c x).heldCopies = m.heldCopies := rfl
@[simp] theorem Module.setCtx_relayFull (m : Module) (c : Fin 64) (x : CtxDyn) : (m.setCtx c x).relayFull = m.relayFull := rfl
@[simp] theorem Module.setCtx_nextMatch (m : Module) (c : Fin 64) (x : CtxDyn) : (m.setCtx c x).nextMatch = m.nextMatch := rfl
@[simp] theorem Module.setCtx_mcast (m : Module) (c : Fin 64) (x : CtxDyn) : (m.setCtx c x).mcast = m.mcast := rfl
@[simp] theorem Module.setCtx_device (m : Module) (c : Fin 64) (x : CtxDyn) : (m.setCtx c x).device = m.device := rfl
@[simp] theorem Module.setCtx_mail (m : Module) (c : Fin 64) (x : CtxDyn) : (m.setCtx c x).mail = m.mail := rfl
@[simp] theorem Module.setCtx_busy (m : Module) (c : Fin 64) (x : CtxDyn) : (m.setCtx c x).busy = m.busy := rfl
@[simp] theorem Module.setCtx_result (m : Module) (c : Fin 64) (x : CtxDyn) : (m.setCtx c x).result = m.result := rfl
@[simp] theorem Module.setCtx_ring (m : Module) (c : Fin 64) (x : CtxDyn) : (m.setCtx c x).ring = m.ring := rfl
@[simp] theorem Module.setCtx_widx (m : Module) (c : Fin 64) (x : CtxDyn) : (m.setCtx c x).widx = m.widx := rfl
@[simp] theorem Module.setCtx_ridx (m : Module) (c : Fin 64) (x : CtxDyn) : (m.setCtx c x).ridx = m.ridx := rfl
@[simp] theorem Module.setCtx_evseq (m : Module) (c : Fin 64) (x : CtxDyn) : (m.setCtx c x).evseq = m.evseq := rfl
@[simp] theorem Module.setCtx_msix (m : Module) (c : Fin 64) (x : CtxDyn) : (m.setCtx c x).msix = m.msix := rfl
@[simp] theorem Module.setCtx_booted (m : Module) (c : Fin 64) (x : CtxDyn) : (m.setCtx c x).booted = m.booted := rfl
@[simp] theorem Module.setCtx_minVersion (m : Module) (c : Fin 64) (x : CtxDyn) : (m.setCtx c x).minVersion = m.minVersion := rfl
@[simp] theorem Module.setCtx_rootKey (m : Module) (c : Fin 64) (x : CtxDyn) : (m.setCtx c x).rootKey = m.rootKey := rfl
@[simp] theorem Module.setCtx_images (m : Module) (c : Fin 64) (x : CtxDyn) : (m.setCtx c x).images = m.images := rfl
@[simp] theorem Module.setCtx_ticket (m : Module) (c : Fin 64) (x : CtxDyn) : (m.setCtx c x).ticket = m.ticket := rfl
@[simp] theorem Module.setCtx_reports (m : Module) (c : Fin 64) (x : CtxDyn) : (m.setCtx c x).reports = m.reports := rfl
@[simp] theorem Module.setCtx_fresh (m : Module) (c : Fin 64) (x : CtxDyn) : (m.setCtx c x).fresh = m.fresh := rfl

@[simp] theorem Module.modCtx_phys (m : Module) (c : Fin 64) (f : CtxDyn → CtxDyn) : (m.modCtx c f).phys = m.phys := rfl
@[simp] theorem Module.modCtx_host (m : Module) (c : Fin 64) (f : CtxDyn → CtxDyn) : (m.modCtx c f).host = m.host := rfl
@[simp] theorem Module.modCtx_hostData (m : Module) (c : Fin 64) (f : CtxDyn → CtxDyn) : (m.modCtx c f).hostData = m.hostData := rfl
@[simp] theorem Module.modCtx_poison (m : Module) (c : Fin 64) (f : CtxDyn → CtxDyn) : (m.modCtx c f).poison = m.poison := rfl
@[simp] theorem Module.modCtx_unitPoison (m : Module) (c : Fin 64) (f : CtxDyn → CtxDyn) : (m.modCtx c f).unitPoison = m.unitPoison := rfl
@[simp] theorem Module.modCtx_cores (m : Module) (c : Fin 64) (f : CtxDyn → CtxDyn) : (m.modCtx c f).cores = m.cores := rfl
@[simp] theorem Module.modCtx_clusters (m : Module) (c : Fin 64) (f : CtxDyn → CtxDyn) : (m.modCtx c f).clusters = m.clusters := rfl
@[simp] theorem Module.modCtx_dies (m : Module) (c : Fin 64) (f : CtxDyn → CtxDyn) : (m.modCtx c f).dies = m.dies := rfl
@[simp] theorem Module.modCtx_zithers (m : Module) (c : Fin 64) (f : CtxDyn → CtxDyn) : (m.modCtx c f).zithers = m.zithers := rfl
@[simp] theorem Module.modCtx_ports (m : Module) (c : Fin 64) (f : CtxDyn → CtxDyn) : (m.modCtx c f).ports = m.ports := rfl
@[simp] theorem Module.modCtx_chains (m : Module) (c : Fin 64) (f : CtxDyn → CtxDyn) : (m.modCtx c f).chains = m.chains := rfl
@[simp] theorem Module.modCtx_ccbs (m : Module) (c : Fin 64) (f : CtxDyn → CtxDyn) : (m.modCtx c f).ccbs = m.ccbs := rfl
@[simp] theorem Module.modCtx_graphs (m : Module) (c : Fin 64) (f : CtxDyn → CtxDyn) : (m.modCtx c f).graphs = m.graphs := rfl
@[simp] theorem Module.modCtx_held (m : Module) (c : Fin 64) (f : CtxDyn → CtxDyn) : (m.modCtx c f).held = m.held := rfl
@[simp] theorem Module.modCtx_relay (m : Module) (c : Fin 64) (f : CtxDyn → CtxDyn) : (m.modCtx c f).relay = m.relay := rfl
@[simp] theorem Module.modCtx_heldWrites (m : Module) (c : Fin 64) (f : CtxDyn → CtxDyn) : (m.modCtx c f).heldWrites = m.heldWrites := rfl
@[simp] theorem Module.modCtx_heldMarkers (m : Module) (c : Fin 64) (f : CtxDyn → CtxDyn) : (m.modCtx c f).heldMarkers = m.heldMarkers := rfl
@[simp] theorem Module.modCtx_heldCopies (m : Module) (c : Fin 64) (f : CtxDyn → CtxDyn) : (m.modCtx c f).heldCopies = m.heldCopies := rfl
@[simp] theorem Module.modCtx_relayFull (m : Module) (c : Fin 64) (f : CtxDyn → CtxDyn) : (m.modCtx c f).relayFull = m.relayFull := rfl
@[simp] theorem Module.modCtx_nextMatch (m : Module) (c : Fin 64) (f : CtxDyn → CtxDyn) : (m.modCtx c f).nextMatch = m.nextMatch := rfl
@[simp] theorem Module.modCtx_mcast (m : Module) (c : Fin 64) (f : CtxDyn → CtxDyn) : (m.modCtx c f).mcast = m.mcast := rfl
@[simp] theorem Module.modCtx_device (m : Module) (c : Fin 64) (f : CtxDyn → CtxDyn) : (m.modCtx c f).device = m.device := rfl
@[simp] theorem Module.modCtx_mail (m : Module) (c : Fin 64) (f : CtxDyn → CtxDyn) : (m.modCtx c f).mail = m.mail := rfl
@[simp] theorem Module.modCtx_busy (m : Module) (c : Fin 64) (f : CtxDyn → CtxDyn) : (m.modCtx c f).busy = m.busy := rfl
@[simp] theorem Module.modCtx_result (m : Module) (c : Fin 64) (f : CtxDyn → CtxDyn) : (m.modCtx c f).result = m.result := rfl
@[simp] theorem Module.modCtx_ring (m : Module) (c : Fin 64) (f : CtxDyn → CtxDyn) : (m.modCtx c f).ring = m.ring := rfl
@[simp] theorem Module.modCtx_widx (m : Module) (c : Fin 64) (f : CtxDyn → CtxDyn) : (m.modCtx c f).widx = m.widx := rfl
@[simp] theorem Module.modCtx_ridx (m : Module) (c : Fin 64) (f : CtxDyn → CtxDyn) : (m.modCtx c f).ridx = m.ridx := rfl
@[simp] theorem Module.modCtx_evseq (m : Module) (c : Fin 64) (f : CtxDyn → CtxDyn) : (m.modCtx c f).evseq = m.evseq := rfl
@[simp] theorem Module.modCtx_msix (m : Module) (c : Fin 64) (f : CtxDyn → CtxDyn) : (m.modCtx c f).msix = m.msix := rfl
@[simp] theorem Module.modCtx_booted (m : Module) (c : Fin 64) (f : CtxDyn → CtxDyn) : (m.modCtx c f).booted = m.booted := rfl
@[simp] theorem Module.modCtx_minVersion (m : Module) (c : Fin 64) (f : CtxDyn → CtxDyn) : (m.modCtx c f).minVersion = m.minVersion := rfl
@[simp] theorem Module.modCtx_rootKey (m : Module) (c : Fin 64) (f : CtxDyn → CtxDyn) : (m.modCtx c f).rootKey = m.rootKey := rfl
@[simp] theorem Module.modCtx_images (m : Module) (c : Fin 64) (f : CtxDyn → CtxDyn) : (m.modCtx c f).images = m.images := rfl
@[simp] theorem Module.modCtx_ticket (m : Module) (c : Fin 64) (f : CtxDyn → CtxDyn) : (m.modCtx c f).ticket = m.ticket := rfl
@[simp] theorem Module.modCtx_reports (m : Module) (c : Fin 64) (f : CtxDyn → CtxDyn) : (m.modCtx c f).reports = m.reports := rfl
@[simp] theorem Module.modCtx_fresh (m : Module) (c : Fin 64) (f : CtxDyn → CtxDyn) : (m.modCtx c f).fresh = m.fresh := rfl

@[simp] theorem Module.setChain_phys (m : Module) (i : ChainId) (x : Chain) : (m.setChain i x).phys = m.phys := rfl
@[simp] theorem Module.setChain_host (m : Module) (i : ChainId) (x : Chain) : (m.setChain i x).host = m.host := rfl
@[simp] theorem Module.setChain_hostData (m : Module) (i : ChainId) (x : Chain) : (m.setChain i x).hostData = m.hostData := rfl
@[simp] theorem Module.setChain_poison (m : Module) (i : ChainId) (x : Chain) : (m.setChain i x).poison = m.poison := rfl
@[simp] theorem Module.setChain_unitPoison (m : Module) (i : ChainId) (x : Chain) : (m.setChain i x).unitPoison = m.unitPoison := rfl
@[simp] theorem Module.setChain_cores (m : Module) (i : ChainId) (x : Chain) : (m.setChain i x).cores = m.cores := rfl
@[simp] theorem Module.setChain_clusters (m : Module) (i : ChainId) (x : Chain) : (m.setChain i x).clusters = m.clusters := rfl
@[simp] theorem Module.setChain_dies (m : Module) (i : ChainId) (x : Chain) : (m.setChain i x).dies = m.dies := rfl
@[simp] theorem Module.setChain_zithers (m : Module) (i : ChainId) (x : Chain) : (m.setChain i x).zithers = m.zithers := rfl
@[simp] theorem Module.setChain_ports (m : Module) (i : ChainId) (x : Chain) : (m.setChain i x).ports = m.ports := rfl
@[simp] theorem Module.setChain_ccbs (m : Module) (i : ChainId) (x : Chain) : (m.setChain i x).ccbs = m.ccbs := rfl
@[simp] theorem Module.setChain_ctxs (m : Module) (i : ChainId) (x : Chain) : (m.setChain i x).ctxs = m.ctxs := rfl
@[simp] theorem Module.setChain_graphs (m : Module) (i : ChainId) (x : Chain) : (m.setChain i x).graphs = m.graphs := rfl
@[simp] theorem Module.setChain_held (m : Module) (i : ChainId) (x : Chain) : (m.setChain i x).held = m.held := rfl
@[simp] theorem Module.setChain_relay (m : Module) (i : ChainId) (x : Chain) : (m.setChain i x).relay = m.relay := rfl
@[simp] theorem Module.setChain_heldWrites (m : Module) (i : ChainId) (x : Chain) : (m.setChain i x).heldWrites = m.heldWrites := rfl
@[simp] theorem Module.setChain_heldMarkers (m : Module) (i : ChainId) (x : Chain) : (m.setChain i x).heldMarkers = m.heldMarkers := rfl
@[simp] theorem Module.setChain_heldCopies (m : Module) (i : ChainId) (x : Chain) : (m.setChain i x).heldCopies = m.heldCopies := rfl
@[simp] theorem Module.setChain_relayFull (m : Module) (i : ChainId) (x : Chain) : (m.setChain i x).relayFull = m.relayFull := rfl
@[simp] theorem Module.setChain_nextMatch (m : Module) (i : ChainId) (x : Chain) : (m.setChain i x).nextMatch = m.nextMatch := rfl
@[simp] theorem Module.setChain_mcast (m : Module) (i : ChainId) (x : Chain) : (m.setChain i x).mcast = m.mcast := rfl
@[simp] theorem Module.setChain_device (m : Module) (i : ChainId) (x : Chain) : (m.setChain i x).device = m.device := rfl
@[simp] theorem Module.setChain_mail (m : Module) (i : ChainId) (x : Chain) : (m.setChain i x).mail = m.mail := rfl
@[simp] theorem Module.setChain_busy (m : Module) (i : ChainId) (x : Chain) : (m.setChain i x).busy = m.busy := rfl
@[simp] theorem Module.setChain_result (m : Module) (i : ChainId) (x : Chain) : (m.setChain i x).result = m.result := rfl
@[simp] theorem Module.setChain_ring (m : Module) (i : ChainId) (x : Chain) : (m.setChain i x).ring = m.ring := rfl
@[simp] theorem Module.setChain_widx (m : Module) (i : ChainId) (x : Chain) : (m.setChain i x).widx = m.widx := rfl
@[simp] theorem Module.setChain_ridx (m : Module) (i : ChainId) (x : Chain) : (m.setChain i x).ridx = m.ridx := rfl
@[simp] theorem Module.setChain_evseq (m : Module) (i : ChainId) (x : Chain) : (m.setChain i x).evseq = m.evseq := rfl
@[simp] theorem Module.setChain_msix (m : Module) (i : ChainId) (x : Chain) : (m.setChain i x).msix = m.msix := rfl
@[simp] theorem Module.setChain_booted (m : Module) (i : ChainId) (x : Chain) : (m.setChain i x).booted = m.booted := rfl
@[simp] theorem Module.setChain_minVersion (m : Module) (i : ChainId) (x : Chain) : (m.setChain i x).minVersion = m.minVersion := rfl
@[simp] theorem Module.setChain_rootKey (m : Module) (i : ChainId) (x : Chain) : (m.setChain i x).rootKey = m.rootKey := rfl
@[simp] theorem Module.setChain_images (m : Module) (i : ChainId) (x : Chain) : (m.setChain i x).images = m.images := rfl
@[simp] theorem Module.setChain_ticket (m : Module) (i : ChainId) (x : Chain) : (m.setChain i x).ticket = m.ticket := rfl
@[simp] theorem Module.setChain_reports (m : Module) (i : ChainId) (x : Chain) : (m.setChain i x).reports = m.reports := rfl
@[simp] theorem Module.setChain_fresh (m : Module) (i : ChainId) (x : Chain) : (m.setChain i x).fresh = m.fresh := rfl

@[simp] theorem Module.modChain_phys (m : Module) (i : ChainId) (f : Chain → Chain) : (m.modChain i f).phys = m.phys := rfl
@[simp] theorem Module.modChain_host (m : Module) (i : ChainId) (f : Chain → Chain) : (m.modChain i f).host = m.host := rfl
@[simp] theorem Module.modChain_hostData (m : Module) (i : ChainId) (f : Chain → Chain) : (m.modChain i f).hostData = m.hostData := rfl
@[simp] theorem Module.modChain_poison (m : Module) (i : ChainId) (f : Chain → Chain) : (m.modChain i f).poison = m.poison := rfl
@[simp] theorem Module.modChain_unitPoison (m : Module) (i : ChainId) (f : Chain → Chain) : (m.modChain i f).unitPoison = m.unitPoison := rfl
@[simp] theorem Module.modChain_cores (m : Module) (i : ChainId) (f : Chain → Chain) : (m.modChain i f).cores = m.cores := rfl
@[simp] theorem Module.modChain_clusters (m : Module) (i : ChainId) (f : Chain → Chain) : (m.modChain i f).clusters = m.clusters := rfl
@[simp] theorem Module.modChain_dies (m : Module) (i : ChainId) (f : Chain → Chain) : (m.modChain i f).dies = m.dies := rfl
@[simp] theorem Module.modChain_zithers (m : Module) (i : ChainId) (f : Chain → Chain) : (m.modChain i f).zithers = m.zithers := rfl
@[simp] theorem Module.modChain_ports (m : Module) (i : ChainId) (f : Chain → Chain) : (m.modChain i f).ports = m.ports := rfl
@[simp] theorem Module.modChain_ccbs (m : Module) (i : ChainId) (f : Chain → Chain) : (m.modChain i f).ccbs = m.ccbs := rfl
@[simp] theorem Module.modChain_ctxs (m : Module) (i : ChainId) (f : Chain → Chain) : (m.modChain i f).ctxs = m.ctxs := rfl
@[simp] theorem Module.modChain_graphs (m : Module) (i : ChainId) (f : Chain → Chain) : (m.modChain i f).graphs = m.graphs := rfl
@[simp] theorem Module.modChain_held (m : Module) (i : ChainId) (f : Chain → Chain) : (m.modChain i f).held = m.held := rfl
@[simp] theorem Module.modChain_relay (m : Module) (i : ChainId) (f : Chain → Chain) : (m.modChain i f).relay = m.relay := rfl
@[simp] theorem Module.modChain_heldWrites (m : Module) (i : ChainId) (f : Chain → Chain) : (m.modChain i f).heldWrites = m.heldWrites := rfl
@[simp] theorem Module.modChain_heldMarkers (m : Module) (i : ChainId) (f : Chain → Chain) : (m.modChain i f).heldMarkers = m.heldMarkers := rfl
@[simp] theorem Module.modChain_heldCopies (m : Module) (i : ChainId) (f : Chain → Chain) : (m.modChain i f).heldCopies = m.heldCopies := rfl
@[simp] theorem Module.modChain_relayFull (m : Module) (i : ChainId) (f : Chain → Chain) : (m.modChain i f).relayFull = m.relayFull := rfl
@[simp] theorem Module.modChain_nextMatch (m : Module) (i : ChainId) (f : Chain → Chain) : (m.modChain i f).nextMatch = m.nextMatch := rfl
@[simp] theorem Module.modChain_mcast (m : Module) (i : ChainId) (f : Chain → Chain) : (m.modChain i f).mcast = m.mcast := rfl
@[simp] theorem Module.modChain_device (m : Module) (i : ChainId) (f : Chain → Chain) : (m.modChain i f).device = m.device := rfl
@[simp] theorem Module.modChain_mail (m : Module) (i : ChainId) (f : Chain → Chain) : (m.modChain i f).mail = m.mail := rfl
@[simp] theorem Module.modChain_busy (m : Module) (i : ChainId) (f : Chain → Chain) : (m.modChain i f).busy = m.busy := rfl
@[simp] theorem Module.modChain_result (m : Module) (i : ChainId) (f : Chain → Chain) : (m.modChain i f).result = m.result := rfl
@[simp] theorem Module.modChain_ring (m : Module) (i : ChainId) (f : Chain → Chain) : (m.modChain i f).ring = m.ring := rfl
@[simp] theorem Module.modChain_widx (m : Module) (i : ChainId) (f : Chain → Chain) : (m.modChain i f).widx = m.widx := rfl
@[simp] theorem Module.modChain_ridx (m : Module) (i : ChainId) (f : Chain → Chain) : (m.modChain i f).ridx = m.ridx := rfl
@[simp] theorem Module.modChain_evseq (m : Module) (i : ChainId) (f : Chain → Chain) : (m.modChain i f).evseq = m.evseq := rfl
@[simp] theorem Module.modChain_msix (m : Module) (i : ChainId) (f : Chain → Chain) : (m.modChain i f).msix = m.msix := rfl
@[simp] theorem Module.modChain_booted (m : Module) (i : ChainId) (f : Chain → Chain) : (m.modChain i f).booted = m.booted := rfl
@[simp] theorem Module.modChain_minVersion (m : Module) (i : ChainId) (f : Chain → Chain) : (m.modChain i f).minVersion = m.minVersion := rfl
@[simp] theorem Module.modChain_rootKey (m : Module) (i : ChainId) (f : Chain → Chain) : (m.modChain i f).rootKey = m.rootKey := rfl
@[simp] theorem Module.modChain_images (m : Module) (i : ChainId) (f : Chain → Chain) : (m.modChain i f).images = m.images := rfl
@[simp] theorem Module.modChain_ticket (m : Module) (i : ChainId) (f : Chain → Chain) : (m.modChain i f).ticket = m.ticket := rfl
@[simp] theorem Module.modChain_reports (m : Module) (i : ChainId) (f : Chain → Chain) : (m.modChain i f).reports = m.reports := rfl
@[simp] theorem Module.modChain_fresh (m : Module) (i : ChainId) (f : Chain → Chain) : (m.modChain i f).fresh = m.fresh := rfl

@[simp] theorem Module.setPort_phys (m : Module) (p : Fin 72) (x : Port) : (m.setPort p x).phys = m.phys := rfl
@[simp] theorem Module.setPort_host (m : Module) (p : Fin 72) (x : Port) : (m.setPort p x).host = m.host := rfl
@[simp] theorem Module.setPort_hostData (m : Module) (p : Fin 72) (x : Port) : (m.setPort p x).hostData = m.hostData := rfl
@[simp] theorem Module.setPort_poison (m : Module) (p : Fin 72) (x : Port) : (m.setPort p x).poison = m.poison := rfl
@[simp] theorem Module.setPort_unitPoison (m : Module) (p : Fin 72) (x : Port) : (m.setPort p x).unitPoison = m.unitPoison := rfl
@[simp] theorem Module.setPort_cores (m : Module) (p : Fin 72) (x : Port) : (m.setPort p x).cores = m.cores := rfl
@[simp] theorem Module.setPort_clusters (m : Module) (p : Fin 72) (x : Port) : (m.setPort p x).clusters = m.clusters := rfl
@[simp] theorem Module.setPort_dies (m : Module) (p : Fin 72) (x : Port) : (m.setPort p x).dies = m.dies := rfl
@[simp] theorem Module.setPort_zithers (m : Module) (p : Fin 72) (x : Port) : (m.setPort p x).zithers = m.zithers := rfl
@[simp] theorem Module.setPort_chains (m : Module) (p : Fin 72) (x : Port) : (m.setPort p x).chains = m.chains := rfl
@[simp] theorem Module.setPort_ccbs (m : Module) (p : Fin 72) (x : Port) : (m.setPort p x).ccbs = m.ccbs := rfl
@[simp] theorem Module.setPort_ctxs (m : Module) (p : Fin 72) (x : Port) : (m.setPort p x).ctxs = m.ctxs := rfl
@[simp] theorem Module.setPort_graphs (m : Module) (p : Fin 72) (x : Port) : (m.setPort p x).graphs = m.graphs := rfl
@[simp] theorem Module.setPort_held (m : Module) (p : Fin 72) (x : Port) : (m.setPort p x).held = m.held := rfl
@[simp] theorem Module.setPort_relay (m : Module) (p : Fin 72) (x : Port) : (m.setPort p x).relay = m.relay := rfl
@[simp] theorem Module.setPort_heldWrites (m : Module) (p : Fin 72) (x : Port) : (m.setPort p x).heldWrites = m.heldWrites := rfl
@[simp] theorem Module.setPort_heldMarkers (m : Module) (p : Fin 72) (x : Port) : (m.setPort p x).heldMarkers = m.heldMarkers := rfl
@[simp] theorem Module.setPort_heldCopies (m : Module) (p : Fin 72) (x : Port) : (m.setPort p x).heldCopies = m.heldCopies := rfl
@[simp] theorem Module.setPort_relayFull (m : Module) (p : Fin 72) (x : Port) : (m.setPort p x).relayFull = m.relayFull := rfl
@[simp] theorem Module.setPort_nextMatch (m : Module) (p : Fin 72) (x : Port) : (m.setPort p x).nextMatch = m.nextMatch := rfl
@[simp] theorem Module.setPort_mcast (m : Module) (p : Fin 72) (x : Port) : (m.setPort p x).mcast = m.mcast := rfl
@[simp] theorem Module.setPort_device (m : Module) (p : Fin 72) (x : Port) : (m.setPort p x).device = m.device := rfl
@[simp] theorem Module.setPort_mail (m : Module) (p : Fin 72) (x : Port) : (m.setPort p x).mail = m.mail := rfl
@[simp] theorem Module.setPort_busy (m : Module) (p : Fin 72) (x : Port) : (m.setPort p x).busy = m.busy := rfl
@[simp] theorem Module.setPort_result (m : Module) (p : Fin 72) (x : Port) : (m.setPort p x).result = m.result := rfl
@[simp] theorem Module.setPort_ring (m : Module) (p : Fin 72) (x : Port) : (m.setPort p x).ring = m.ring := rfl
@[simp] theorem Module.setPort_widx (m : Module) (p : Fin 72) (x : Port) : (m.setPort p x).widx = m.widx := rfl
@[simp] theorem Module.setPort_ridx (m : Module) (p : Fin 72) (x : Port) : (m.setPort p x).ridx = m.ridx := rfl
@[simp] theorem Module.setPort_evseq (m : Module) (p : Fin 72) (x : Port) : (m.setPort p x).evseq = m.evseq := rfl
@[simp] theorem Module.setPort_msix (m : Module) (p : Fin 72) (x : Port) : (m.setPort p x).msix = m.msix := rfl
@[simp] theorem Module.setPort_booted (m : Module) (p : Fin 72) (x : Port) : (m.setPort p x).booted = m.booted := rfl
@[simp] theorem Module.setPort_minVersion (m : Module) (p : Fin 72) (x : Port) : (m.setPort p x).minVersion = m.minVersion := rfl
@[simp] theorem Module.setPort_rootKey (m : Module) (p : Fin 72) (x : Port) : (m.setPort p x).rootKey = m.rootKey := rfl
@[simp] theorem Module.setPort_images (m : Module) (p : Fin 72) (x : Port) : (m.setPort p x).images = m.images := rfl
@[simp] theorem Module.setPort_ticket (m : Module) (p : Fin 72) (x : Port) : (m.setPort p x).ticket = m.ticket := rfl
@[simp] theorem Module.setPort_reports (m : Module) (p : Fin 72) (x : Port) : (m.setPort p x).reports = m.reports := rfl
@[simp] theorem Module.setPort_fresh (m : Module) (p : Fin 72) (x : Port) : (m.setPort p x).fresh = m.fresh := rfl

@[simp] theorem Module.setZither_phys (m : Module) (z : Nat) (x : Zither) : (m.setZither z x).phys = m.phys := rfl
@[simp] theorem Module.setZither_host (m : Module) (z : Nat) (x : Zither) : (m.setZither z x).host = m.host := rfl
@[simp] theorem Module.setZither_hostData (m : Module) (z : Nat) (x : Zither) : (m.setZither z x).hostData = m.hostData := rfl
@[simp] theorem Module.setZither_poison (m : Module) (z : Nat) (x : Zither) : (m.setZither z x).poison = m.poison := rfl
@[simp] theorem Module.setZither_unitPoison (m : Module) (z : Nat) (x : Zither) : (m.setZither z x).unitPoison = m.unitPoison := rfl
@[simp] theorem Module.setZither_cores (m : Module) (z : Nat) (x : Zither) : (m.setZither z x).cores = m.cores := rfl
@[simp] theorem Module.setZither_clusters (m : Module) (z : Nat) (x : Zither) : (m.setZither z x).clusters = m.clusters := rfl
@[simp] theorem Module.setZither_dies (m : Module) (z : Nat) (x : Zither) : (m.setZither z x).dies = m.dies := rfl
@[simp] theorem Module.setZither_ports (m : Module) (z : Nat) (x : Zither) : (m.setZither z x).ports = m.ports := rfl
@[simp] theorem Module.setZither_chains (m : Module) (z : Nat) (x : Zither) : (m.setZither z x).chains = m.chains := rfl
@[simp] theorem Module.setZither_ccbs (m : Module) (z : Nat) (x : Zither) : (m.setZither z x).ccbs = m.ccbs := rfl
@[simp] theorem Module.setZither_ctxs (m : Module) (z : Nat) (x : Zither) : (m.setZither z x).ctxs = m.ctxs := rfl
@[simp] theorem Module.setZither_graphs (m : Module) (z : Nat) (x : Zither) : (m.setZither z x).graphs = m.graphs := rfl
@[simp] theorem Module.setZither_held (m : Module) (z : Nat) (x : Zither) : (m.setZither z x).held = m.held := rfl
@[simp] theorem Module.setZither_relay (m : Module) (z : Nat) (x : Zither) : (m.setZither z x).relay = m.relay := rfl
@[simp] theorem Module.setZither_heldWrites (m : Module) (z : Nat) (x : Zither) : (m.setZither z x).heldWrites = m.heldWrites := rfl
@[simp] theorem Module.setZither_heldMarkers (m : Module) (z : Nat) (x : Zither) : (m.setZither z x).heldMarkers = m.heldMarkers := rfl
@[simp] theorem Module.setZither_heldCopies (m : Module) (z : Nat) (x : Zither) : (m.setZither z x).heldCopies = m.heldCopies := rfl
@[simp] theorem Module.setZither_relayFull (m : Module) (z : Nat) (x : Zither) : (m.setZither z x).relayFull = m.relayFull := rfl
@[simp] theorem Module.setZither_nextMatch (m : Module) (z : Nat) (x : Zither) : (m.setZither z x).nextMatch = m.nextMatch := rfl
@[simp] theorem Module.setZither_mcast (m : Module) (z : Nat) (x : Zither) : (m.setZither z x).mcast = m.mcast := rfl
@[simp] theorem Module.setZither_device (m : Module) (z : Nat) (x : Zither) : (m.setZither z x).device = m.device := rfl
@[simp] theorem Module.setZither_mail (m : Module) (z : Nat) (x : Zither) : (m.setZither z x).mail = m.mail := rfl
@[simp] theorem Module.setZither_busy (m : Module) (z : Nat) (x : Zither) : (m.setZither z x).busy = m.busy := rfl
@[simp] theorem Module.setZither_result (m : Module) (z : Nat) (x : Zither) : (m.setZither z x).result = m.result := rfl
@[simp] theorem Module.setZither_ring (m : Module) (z : Nat) (x : Zither) : (m.setZither z x).ring = m.ring := rfl
@[simp] theorem Module.setZither_widx (m : Module) (z : Nat) (x : Zither) : (m.setZither z x).widx = m.widx := rfl
@[simp] theorem Module.setZither_ridx (m : Module) (z : Nat) (x : Zither) : (m.setZither z x).ridx = m.ridx := rfl
@[simp] theorem Module.setZither_evseq (m : Module) (z : Nat) (x : Zither) : (m.setZither z x).evseq = m.evseq := rfl
@[simp] theorem Module.setZither_msix (m : Module) (z : Nat) (x : Zither) : (m.setZither z x).msix = m.msix := rfl
@[simp] theorem Module.setZither_booted (m : Module) (z : Nat) (x : Zither) : (m.setZither z x).booted = m.booted := rfl
@[simp] theorem Module.setZither_minVersion (m : Module) (z : Nat) (x : Zither) : (m.setZither z x).minVersion = m.minVersion := rfl
@[simp] theorem Module.setZither_rootKey (m : Module) (z : Nat) (x : Zither) : (m.setZither z x).rootKey = m.rootKey := rfl
@[simp] theorem Module.setZither_images (m : Module) (z : Nat) (x : Zither) : (m.setZither z x).images = m.images := rfl
@[simp] theorem Module.setZither_ticket (m : Module) (z : Nat) (x : Zither) : (m.setZither z x).ticket = m.ticket := rfl
@[simp] theorem Module.setZither_reports (m : Module) (z : Nat) (x : Zither) : (m.setZither z x).reports = m.reports := rfl
@[simp] theorem Module.setZither_fresh (m : Module) (z : Nat) (x : Zither) : (m.setZither z x).fresh = m.fresh := rfl

@[simp] theorem Module.setBarrier_phys (m : Module) (d : Fin 16) (s : Fin 256) (b : Barrier) : (m.setBarrier d s b).phys = m.phys := rfl
@[simp] theorem Module.setBarrier_host (m : Module) (d : Fin 16) (s : Fin 256) (b : Barrier) : (m.setBarrier d s b).host = m.host := rfl
@[simp] theorem Module.setBarrier_hostData (m : Module) (d : Fin 16) (s : Fin 256) (b : Barrier) : (m.setBarrier d s b).hostData = m.hostData := rfl
@[simp] theorem Module.setBarrier_poison (m : Module) (d : Fin 16) (s : Fin 256) (b : Barrier) : (m.setBarrier d s b).poison = m.poison := rfl
@[simp] theorem Module.setBarrier_unitPoison (m : Module) (d : Fin 16) (s : Fin 256) (b : Barrier) : (m.setBarrier d s b).unitPoison = m.unitPoison := rfl
@[simp] theorem Module.setBarrier_cores (m : Module) (d : Fin 16) (s : Fin 256) (b : Barrier) : (m.setBarrier d s b).cores = m.cores := rfl
@[simp] theorem Module.setBarrier_clusters (m : Module) (d : Fin 16) (s : Fin 256) (b : Barrier) : (m.setBarrier d s b).clusters = m.clusters := rfl
@[simp] theorem Module.setBarrier_zithers (m : Module) (d : Fin 16) (s : Fin 256) (b : Barrier) : (m.setBarrier d s b).zithers = m.zithers := rfl
@[simp] theorem Module.setBarrier_ports (m : Module) (d : Fin 16) (s : Fin 256) (b : Barrier) : (m.setBarrier d s b).ports = m.ports := rfl
@[simp] theorem Module.setBarrier_chains (m : Module) (d : Fin 16) (s : Fin 256) (b : Barrier) : (m.setBarrier d s b).chains = m.chains := rfl
@[simp] theorem Module.setBarrier_ccbs (m : Module) (d : Fin 16) (s : Fin 256) (b : Barrier) : (m.setBarrier d s b).ccbs = m.ccbs := rfl
@[simp] theorem Module.setBarrier_ctxs (m : Module) (d : Fin 16) (s : Fin 256) (b : Barrier) : (m.setBarrier d s b).ctxs = m.ctxs := rfl
@[simp] theorem Module.setBarrier_graphs (m : Module) (d : Fin 16) (s : Fin 256) (b : Barrier) : (m.setBarrier d s b).graphs = m.graphs := rfl
@[simp] theorem Module.setBarrier_held (m : Module) (d : Fin 16) (s : Fin 256) (b : Barrier) : (m.setBarrier d s b).held = m.held := rfl
@[simp] theorem Module.setBarrier_relay (m : Module) (d : Fin 16) (s : Fin 256) (b : Barrier) : (m.setBarrier d s b).relay = m.relay := rfl
@[simp] theorem Module.setBarrier_heldWrites (m : Module) (d : Fin 16) (s : Fin 256) (b : Barrier) : (m.setBarrier d s b).heldWrites = m.heldWrites := rfl
@[simp] theorem Module.setBarrier_heldMarkers (m : Module) (d : Fin 16) (s : Fin 256) (b : Barrier) : (m.setBarrier d s b).heldMarkers = m.heldMarkers := rfl
@[simp] theorem Module.setBarrier_heldCopies (m : Module) (d : Fin 16) (s : Fin 256) (b : Barrier) : (m.setBarrier d s b).heldCopies = m.heldCopies := rfl
@[simp] theorem Module.setBarrier_relayFull (m : Module) (d : Fin 16) (s : Fin 256) (b : Barrier) : (m.setBarrier d s b).relayFull = m.relayFull := rfl
@[simp] theorem Module.setBarrier_nextMatch (m : Module) (d : Fin 16) (s : Fin 256) (b : Barrier) : (m.setBarrier d s b).nextMatch = m.nextMatch := rfl
@[simp] theorem Module.setBarrier_mcast (m : Module) (d : Fin 16) (s : Fin 256) (b : Barrier) : (m.setBarrier d s b).mcast = m.mcast := rfl
@[simp] theorem Module.setBarrier_device (m : Module) (d : Fin 16) (s : Fin 256) (b : Barrier) : (m.setBarrier d s b).device = m.device := rfl
@[simp] theorem Module.setBarrier_mail (m : Module) (d : Fin 16) (s : Fin 256) (b : Barrier) : (m.setBarrier d s b).mail = m.mail := rfl
@[simp] theorem Module.setBarrier_busy (m : Module) (d : Fin 16) (s : Fin 256) (b : Barrier) : (m.setBarrier d s b).busy = m.busy := rfl
@[simp] theorem Module.setBarrier_result (m : Module) (d : Fin 16) (s : Fin 256) (b : Barrier) : (m.setBarrier d s b).result = m.result := rfl
@[simp] theorem Module.setBarrier_ring (m : Module) (d : Fin 16) (s : Fin 256) (b : Barrier) : (m.setBarrier d s b).ring = m.ring := rfl
@[simp] theorem Module.setBarrier_widx (m : Module) (d : Fin 16) (s : Fin 256) (b : Barrier) : (m.setBarrier d s b).widx = m.widx := rfl
@[simp] theorem Module.setBarrier_ridx (m : Module) (d : Fin 16) (s : Fin 256) (b : Barrier) : (m.setBarrier d s b).ridx = m.ridx := rfl
@[simp] theorem Module.setBarrier_evseq (m : Module) (d : Fin 16) (s : Fin 256) (b : Barrier) : (m.setBarrier d s b).evseq = m.evseq := rfl
@[simp] theorem Module.setBarrier_msix (m : Module) (d : Fin 16) (s : Fin 256) (b : Barrier) : (m.setBarrier d s b).msix = m.msix := rfl
@[simp] theorem Module.setBarrier_booted (m : Module) (d : Fin 16) (s : Fin 256) (b : Barrier) : (m.setBarrier d s b).booted = m.booted := rfl
@[simp] theorem Module.setBarrier_minVersion (m : Module) (d : Fin 16) (s : Fin 256) (b : Barrier) : (m.setBarrier d s b).minVersion = m.minVersion := rfl
@[simp] theorem Module.setBarrier_rootKey (m : Module) (d : Fin 16) (s : Fin 256) (b : Barrier) : (m.setBarrier d s b).rootKey = m.rootKey := rfl
@[simp] theorem Module.setBarrier_images (m : Module) (d : Fin 16) (s : Fin 256) (b : Barrier) : (m.setBarrier d s b).images = m.images := rfl
@[simp] theorem Module.setBarrier_ticket (m : Module) (d : Fin 16) (s : Fin 256) (b : Barrier) : (m.setBarrier d s b).ticket = m.ticket := rfl
@[simp] theorem Module.setBarrier_reports (m : Module) (d : Fin 16) (s : Fin 256) (b : Barrier) : (m.setBarrier d s b).reports = m.reports := rfl
@[simp] theorem Module.setBarrier_fresh (m : Module) (d : Fin 16) (s : Fin 256) (b : Barrier) : (m.setBarrier d s b).fresh = m.fresh := rfl

@[simp] theorem Module.setGroup_phys (m : Module) (d : Fin 16) (g : Nat) (x : Group) : (m.setGroup d g x).phys = m.phys := rfl
@[simp] theorem Module.setGroup_host (m : Module) (d : Fin 16) (g : Nat) (x : Group) : (m.setGroup d g x).host = m.host := rfl
@[simp] theorem Module.setGroup_hostData (m : Module) (d : Fin 16) (g : Nat) (x : Group) : (m.setGroup d g x).hostData = m.hostData := rfl
@[simp] theorem Module.setGroup_poison (m : Module) (d : Fin 16) (g : Nat) (x : Group) : (m.setGroup d g x).poison = m.poison := rfl
@[simp] theorem Module.setGroup_unitPoison (m : Module) (d : Fin 16) (g : Nat) (x : Group) : (m.setGroup d g x).unitPoison = m.unitPoison := rfl
@[simp] theorem Module.setGroup_cores (m : Module) (d : Fin 16) (g : Nat) (x : Group) : (m.setGroup d g x).cores = m.cores := rfl
@[simp] theorem Module.setGroup_clusters (m : Module) (d : Fin 16) (g : Nat) (x : Group) : (m.setGroup d g x).clusters = m.clusters := rfl
@[simp] theorem Module.setGroup_zithers (m : Module) (d : Fin 16) (g : Nat) (x : Group) : (m.setGroup d g x).zithers = m.zithers := rfl
@[simp] theorem Module.setGroup_ports (m : Module) (d : Fin 16) (g : Nat) (x : Group) : (m.setGroup d g x).ports = m.ports := rfl
@[simp] theorem Module.setGroup_chains (m : Module) (d : Fin 16) (g : Nat) (x : Group) : (m.setGroup d g x).chains = m.chains := rfl
@[simp] theorem Module.setGroup_ccbs (m : Module) (d : Fin 16) (g : Nat) (x : Group) : (m.setGroup d g x).ccbs = m.ccbs := rfl
@[simp] theorem Module.setGroup_ctxs (m : Module) (d : Fin 16) (g : Nat) (x : Group) : (m.setGroup d g x).ctxs = m.ctxs := rfl
@[simp] theorem Module.setGroup_graphs (m : Module) (d : Fin 16) (g : Nat) (x : Group) : (m.setGroup d g x).graphs = m.graphs := rfl
@[simp] theorem Module.setGroup_held (m : Module) (d : Fin 16) (g : Nat) (x : Group) : (m.setGroup d g x).held = m.held := rfl
@[simp] theorem Module.setGroup_relay (m : Module) (d : Fin 16) (g : Nat) (x : Group) : (m.setGroup d g x).relay = m.relay := rfl
@[simp] theorem Module.setGroup_heldWrites (m : Module) (d : Fin 16) (g : Nat) (x : Group) : (m.setGroup d g x).heldWrites = m.heldWrites := rfl
@[simp] theorem Module.setGroup_heldMarkers (m : Module) (d : Fin 16) (g : Nat) (x : Group) : (m.setGroup d g x).heldMarkers = m.heldMarkers := rfl
@[simp] theorem Module.setGroup_heldCopies (m : Module) (d : Fin 16) (g : Nat) (x : Group) : (m.setGroup d g x).heldCopies = m.heldCopies := rfl
@[simp] theorem Module.setGroup_relayFull (m : Module) (d : Fin 16) (g : Nat) (x : Group) : (m.setGroup d g x).relayFull = m.relayFull := rfl
@[simp] theorem Module.setGroup_nextMatch (m : Module) (d : Fin 16) (g : Nat) (x : Group) : (m.setGroup d g x).nextMatch = m.nextMatch := rfl
@[simp] theorem Module.setGroup_mcast (m : Module) (d : Fin 16) (g : Nat) (x : Group) : (m.setGroup d g x).mcast = m.mcast := rfl
@[simp] theorem Module.setGroup_device (m : Module) (d : Fin 16) (g : Nat) (x : Group) : (m.setGroup d g x).device = m.device := rfl
@[simp] theorem Module.setGroup_mail (m : Module) (d : Fin 16) (g : Nat) (x : Group) : (m.setGroup d g x).mail = m.mail := rfl
@[simp] theorem Module.setGroup_busy (m : Module) (d : Fin 16) (g : Nat) (x : Group) : (m.setGroup d g x).busy = m.busy := rfl
@[simp] theorem Module.setGroup_result (m : Module) (d : Fin 16) (g : Nat) (x : Group) : (m.setGroup d g x).result = m.result := rfl
@[simp] theorem Module.setGroup_ring (m : Module) (d : Fin 16) (g : Nat) (x : Group) : (m.setGroup d g x).ring = m.ring := rfl
@[simp] theorem Module.setGroup_widx (m : Module) (d : Fin 16) (g : Nat) (x : Group) : (m.setGroup d g x).widx = m.widx := rfl
@[simp] theorem Module.setGroup_ridx (m : Module) (d : Fin 16) (g : Nat) (x : Group) : (m.setGroup d g x).ridx = m.ridx := rfl
@[simp] theorem Module.setGroup_evseq (m : Module) (d : Fin 16) (g : Nat) (x : Group) : (m.setGroup d g x).evseq = m.evseq := rfl
@[simp] theorem Module.setGroup_msix (m : Module) (d : Fin 16) (g : Nat) (x : Group) : (m.setGroup d g x).msix = m.msix := rfl
@[simp] theorem Module.setGroup_booted (m : Module) (d : Fin 16) (g : Nat) (x : Group) : (m.setGroup d g x).booted = m.booted := rfl
@[simp] theorem Module.setGroup_minVersion (m : Module) (d : Fin 16) (g : Nat) (x : Group) : (m.setGroup d g x).minVersion = m.minVersion := rfl
@[simp] theorem Module.setGroup_rootKey (m : Module) (d : Fin 16) (g : Nat) (x : Group) : (m.setGroup d g x).rootKey = m.rootKey := rfl
@[simp] theorem Module.setGroup_images (m : Module) (d : Fin 16) (g : Nat) (x : Group) : (m.setGroup d g x).images = m.images := rfl
@[simp] theorem Module.setGroup_ticket (m : Module) (d : Fin 16) (g : Nat) (x : Group) : (m.setGroup d g x).ticket = m.ticket := rfl
@[simp] theorem Module.setGroup_reports (m : Module) (d : Fin 16) (g : Nat) (x : Group) : (m.setGroup d g x).reports = m.reports := rfl
@[simp] theorem Module.setGroup_fresh (m : Module) (d : Fin 16) (g : Nat) (x : Group) : (m.setGroup d g x).fresh = m.fresh := rfl

@[simp] theorem Module.setBuf_phys (m : Module) (d : Fin 16) (o : Nat) (x : BufObj) : (m.setBuf d o x).phys = m.phys := rfl
@[simp] theorem Module.setBuf_host (m : Module) (d : Fin 16) (o : Nat) (x : BufObj) : (m.setBuf d o x).host = m.host := rfl
@[simp] theorem Module.setBuf_hostData (m : Module) (d : Fin 16) (o : Nat) (x : BufObj) : (m.setBuf d o x).hostData = m.hostData := rfl
@[simp] theorem Module.setBuf_poison (m : Module) (d : Fin 16) (o : Nat) (x : BufObj) : (m.setBuf d o x).poison = m.poison := rfl
@[simp] theorem Module.setBuf_unitPoison (m : Module) (d : Fin 16) (o : Nat) (x : BufObj) : (m.setBuf d o x).unitPoison = m.unitPoison := rfl
@[simp] theorem Module.setBuf_cores (m : Module) (d : Fin 16) (o : Nat) (x : BufObj) : (m.setBuf d o x).cores = m.cores := rfl
@[simp] theorem Module.setBuf_clusters (m : Module) (d : Fin 16) (o : Nat) (x : BufObj) : (m.setBuf d o x).clusters = m.clusters := rfl
@[simp] theorem Module.setBuf_zithers (m : Module) (d : Fin 16) (o : Nat) (x : BufObj) : (m.setBuf d o x).zithers = m.zithers := rfl
@[simp] theorem Module.setBuf_ports (m : Module) (d : Fin 16) (o : Nat) (x : BufObj) : (m.setBuf d o x).ports = m.ports := rfl
@[simp] theorem Module.setBuf_chains (m : Module) (d : Fin 16) (o : Nat) (x : BufObj) : (m.setBuf d o x).chains = m.chains := rfl
@[simp] theorem Module.setBuf_ccbs (m : Module) (d : Fin 16) (o : Nat) (x : BufObj) : (m.setBuf d o x).ccbs = m.ccbs := rfl
@[simp] theorem Module.setBuf_ctxs (m : Module) (d : Fin 16) (o : Nat) (x : BufObj) : (m.setBuf d o x).ctxs = m.ctxs := rfl
@[simp] theorem Module.setBuf_graphs (m : Module) (d : Fin 16) (o : Nat) (x : BufObj) : (m.setBuf d o x).graphs = m.graphs := rfl
@[simp] theorem Module.setBuf_held (m : Module) (d : Fin 16) (o : Nat) (x : BufObj) : (m.setBuf d o x).held = m.held := rfl
@[simp] theorem Module.setBuf_relay (m : Module) (d : Fin 16) (o : Nat) (x : BufObj) : (m.setBuf d o x).relay = m.relay := rfl
@[simp] theorem Module.setBuf_heldWrites (m : Module) (d : Fin 16) (o : Nat) (x : BufObj) : (m.setBuf d o x).heldWrites = m.heldWrites := rfl
@[simp] theorem Module.setBuf_heldMarkers (m : Module) (d : Fin 16) (o : Nat) (x : BufObj) : (m.setBuf d o x).heldMarkers = m.heldMarkers := rfl
@[simp] theorem Module.setBuf_heldCopies (m : Module) (d : Fin 16) (o : Nat) (x : BufObj) : (m.setBuf d o x).heldCopies = m.heldCopies := rfl
@[simp] theorem Module.setBuf_relayFull (m : Module) (d : Fin 16) (o : Nat) (x : BufObj) : (m.setBuf d o x).relayFull = m.relayFull := rfl
@[simp] theorem Module.setBuf_nextMatch (m : Module) (d : Fin 16) (o : Nat) (x : BufObj) : (m.setBuf d o x).nextMatch = m.nextMatch := rfl
@[simp] theorem Module.setBuf_mcast (m : Module) (d : Fin 16) (o : Nat) (x : BufObj) : (m.setBuf d o x).mcast = m.mcast := rfl
@[simp] theorem Module.setBuf_device (m : Module) (d : Fin 16) (o : Nat) (x : BufObj) : (m.setBuf d o x).device = m.device := rfl
@[simp] theorem Module.setBuf_mail (m : Module) (d : Fin 16) (o : Nat) (x : BufObj) : (m.setBuf d o x).mail = m.mail := rfl
@[simp] theorem Module.setBuf_busy (m : Module) (d : Fin 16) (o : Nat) (x : BufObj) : (m.setBuf d o x).busy = m.busy := rfl
@[simp] theorem Module.setBuf_result (m : Module) (d : Fin 16) (o : Nat) (x : BufObj) : (m.setBuf d o x).result = m.result := rfl
@[simp] theorem Module.setBuf_ring (m : Module) (d : Fin 16) (o : Nat) (x : BufObj) : (m.setBuf d o x).ring = m.ring := rfl
@[simp] theorem Module.setBuf_widx (m : Module) (d : Fin 16) (o : Nat) (x : BufObj) : (m.setBuf d o x).widx = m.widx := rfl
@[simp] theorem Module.setBuf_ridx (m : Module) (d : Fin 16) (o : Nat) (x : BufObj) : (m.setBuf d o x).ridx = m.ridx := rfl
@[simp] theorem Module.setBuf_evseq (m : Module) (d : Fin 16) (o : Nat) (x : BufObj) : (m.setBuf d o x).evseq = m.evseq := rfl
@[simp] theorem Module.setBuf_msix (m : Module) (d : Fin 16) (o : Nat) (x : BufObj) : (m.setBuf d o x).msix = m.msix := rfl
@[simp] theorem Module.setBuf_booted (m : Module) (d : Fin 16) (o : Nat) (x : BufObj) : (m.setBuf d o x).booted = m.booted := rfl
@[simp] theorem Module.setBuf_minVersion (m : Module) (d : Fin 16) (o : Nat) (x : BufObj) : (m.setBuf d o x).minVersion = m.minVersion := rfl
@[simp] theorem Module.setBuf_rootKey (m : Module) (d : Fin 16) (o : Nat) (x : BufObj) : (m.setBuf d o x).rootKey = m.rootKey := rfl
@[simp] theorem Module.setBuf_images (m : Module) (d : Fin 16) (o : Nat) (x : BufObj) : (m.setBuf d o x).images = m.images := rfl
@[simp] theorem Module.setBuf_ticket (m : Module) (d : Fin 16) (o : Nat) (x : BufObj) : (m.setBuf d o x).ticket = m.ticket := rfl
@[simp] theorem Module.setBuf_reports (m : Module) (d : Fin 16) (o : Nat) (x : BufObj) : (m.setBuf d o x).reports = m.reports := rfl
@[simp] theorem Module.setBuf_fresh (m : Module) (d : Fin 16) (o : Nat) (x : BufObj) : (m.setBuf d o x).fresh = m.fresh := rfl

@[simp] theorem Module.setSlice_phys (m : Module) (d : Fin 16) (k : Nat) (x : Slice) : (m.setSlice d k x).phys = m.phys := rfl
@[simp] theorem Module.setSlice_host (m : Module) (d : Fin 16) (k : Nat) (x : Slice) : (m.setSlice d k x).host = m.host := rfl
@[simp] theorem Module.setSlice_hostData (m : Module) (d : Fin 16) (k : Nat) (x : Slice) : (m.setSlice d k x).hostData = m.hostData := rfl
@[simp] theorem Module.setSlice_poison (m : Module) (d : Fin 16) (k : Nat) (x : Slice) : (m.setSlice d k x).poison = m.poison := rfl
@[simp] theorem Module.setSlice_unitPoison (m : Module) (d : Fin 16) (k : Nat) (x : Slice) : (m.setSlice d k x).unitPoison = m.unitPoison := rfl
@[simp] theorem Module.setSlice_cores (m : Module) (d : Fin 16) (k : Nat) (x : Slice) : (m.setSlice d k x).cores = m.cores := rfl
@[simp] theorem Module.setSlice_clusters (m : Module) (d : Fin 16) (k : Nat) (x : Slice) : (m.setSlice d k x).clusters = m.clusters := rfl
@[simp] theorem Module.setSlice_zithers (m : Module) (d : Fin 16) (k : Nat) (x : Slice) : (m.setSlice d k x).zithers = m.zithers := rfl
@[simp] theorem Module.setSlice_ports (m : Module) (d : Fin 16) (k : Nat) (x : Slice) : (m.setSlice d k x).ports = m.ports := rfl
@[simp] theorem Module.setSlice_chains (m : Module) (d : Fin 16) (k : Nat) (x : Slice) : (m.setSlice d k x).chains = m.chains := rfl
@[simp] theorem Module.setSlice_ccbs (m : Module) (d : Fin 16) (k : Nat) (x : Slice) : (m.setSlice d k x).ccbs = m.ccbs := rfl
@[simp] theorem Module.setSlice_ctxs (m : Module) (d : Fin 16) (k : Nat) (x : Slice) : (m.setSlice d k x).ctxs = m.ctxs := rfl
@[simp] theorem Module.setSlice_graphs (m : Module) (d : Fin 16) (k : Nat) (x : Slice) : (m.setSlice d k x).graphs = m.graphs := rfl
@[simp] theorem Module.setSlice_held (m : Module) (d : Fin 16) (k : Nat) (x : Slice) : (m.setSlice d k x).held = m.held := rfl
@[simp] theorem Module.setSlice_relay (m : Module) (d : Fin 16) (k : Nat) (x : Slice) : (m.setSlice d k x).relay = m.relay := rfl
@[simp] theorem Module.setSlice_heldWrites (m : Module) (d : Fin 16) (k : Nat) (x : Slice) : (m.setSlice d k x).heldWrites = m.heldWrites := rfl
@[simp] theorem Module.setSlice_heldMarkers (m : Module) (d : Fin 16) (k : Nat) (x : Slice) : (m.setSlice d k x).heldMarkers = m.heldMarkers := rfl
@[simp] theorem Module.setSlice_heldCopies (m : Module) (d : Fin 16) (k : Nat) (x : Slice) : (m.setSlice d k x).heldCopies = m.heldCopies := rfl
@[simp] theorem Module.setSlice_relayFull (m : Module) (d : Fin 16) (k : Nat) (x : Slice) : (m.setSlice d k x).relayFull = m.relayFull := rfl
@[simp] theorem Module.setSlice_nextMatch (m : Module) (d : Fin 16) (k : Nat) (x : Slice) : (m.setSlice d k x).nextMatch = m.nextMatch := rfl
@[simp] theorem Module.setSlice_mcast (m : Module) (d : Fin 16) (k : Nat) (x : Slice) : (m.setSlice d k x).mcast = m.mcast := rfl
@[simp] theorem Module.setSlice_device (m : Module) (d : Fin 16) (k : Nat) (x : Slice) : (m.setSlice d k x).device = m.device := rfl
@[simp] theorem Module.setSlice_mail (m : Module) (d : Fin 16) (k : Nat) (x : Slice) : (m.setSlice d k x).mail = m.mail := rfl
@[simp] theorem Module.setSlice_busy (m : Module) (d : Fin 16) (k : Nat) (x : Slice) : (m.setSlice d k x).busy = m.busy := rfl
@[simp] theorem Module.setSlice_result (m : Module) (d : Fin 16) (k : Nat) (x : Slice) : (m.setSlice d k x).result = m.result := rfl
@[simp] theorem Module.setSlice_ring (m : Module) (d : Fin 16) (k : Nat) (x : Slice) : (m.setSlice d k x).ring = m.ring := rfl
@[simp] theorem Module.setSlice_widx (m : Module) (d : Fin 16) (k : Nat) (x : Slice) : (m.setSlice d k x).widx = m.widx := rfl
@[simp] theorem Module.setSlice_ridx (m : Module) (d : Fin 16) (k : Nat) (x : Slice) : (m.setSlice d k x).ridx = m.ridx := rfl
@[simp] theorem Module.setSlice_evseq (m : Module) (d : Fin 16) (k : Nat) (x : Slice) : (m.setSlice d k x).evseq = m.evseq := rfl
@[simp] theorem Module.setSlice_msix (m : Module) (d : Fin 16) (k : Nat) (x : Slice) : (m.setSlice d k x).msix = m.msix := rfl
@[simp] theorem Module.setSlice_booted (m : Module) (d : Fin 16) (k : Nat) (x : Slice) : (m.setSlice d k x).booted = m.booted := rfl
@[simp] theorem Module.setSlice_minVersion (m : Module) (d : Fin 16) (k : Nat) (x : Slice) : (m.setSlice d k x).minVersion = m.minVersion := rfl
@[simp] theorem Module.setSlice_rootKey (m : Module) (d : Fin 16) (k : Nat) (x : Slice) : (m.setSlice d k x).rootKey = m.rootKey := rfl
@[simp] theorem Module.setSlice_images (m : Module) (d : Fin 16) (k : Nat) (x : Slice) : (m.setSlice d k x).images = m.images := rfl
@[simp] theorem Module.setSlice_ticket (m : Module) (d : Fin 16) (k : Nat) (x : Slice) : (m.setSlice d k x).ticket = m.ticket := rfl
@[simp] theorem Module.setSlice_reports (m : Module) (d : Fin 16) (k : Nat) (x : Slice) : (m.setSlice d k x).reports = m.reports := rfl
@[simp] theorem Module.setSlice_fresh (m : Module) (d : Fin 16) (k : Nat) (x : Slice) : (m.setSlice d k x).fresh = m.fresh := rfl

/-! ### The state around the module -/

@[simp] theorem State.modCore_pre (s : State) (f : Core → Core) : (s.modCore f).pre = s.pre := rfl
@[simp] theorem State.modCore_cur (s : State) (f : Core → Core) : (s.modCore f).cur = s.cur := rfl
@[simp] theorem State.modCore_chain (s : State) (f : Core → Core) : (s.modCore f).chain = s.chain := rfl
@[simp] theorem State.modCore_verdict (s : State) (f : Core → Core) : (s.modCore f).verdict = s.verdict := rfl
@[simp] theorem State.modCore_bnd (s : State) (f : Core → Core) : (s.modCore f).bnd = s.bnd := rfl
@[simp] theorem State.modCore_agenda (s : State) (f : Core → Core) : (s.modCore f).agenda = s.agenda := rfl

@[simp] theorem State.modStrm_pre (s : State) (f : Stream → Stream) : (s.modStrm f).pre = s.pre := rfl
@[simp] theorem State.modStrm_cur (s : State) (f : Stream → Stream) : (s.modStrm f).cur = s.cur := rfl
@[simp] theorem State.modStrm_chain (s : State) (f : Stream → Stream) : (s.modStrm f).chain = s.chain := rfl
@[simp] theorem State.modStrm_verdict (s : State) (f : Stream → Stream) : (s.modStrm f).verdict = s.verdict := rfl
@[simp] theorem State.modStrm_bnd (s : State) (f : Stream → Stream) : (s.modStrm f).bnd = s.bnd := rfl
@[simp] theorem State.modStrm_agenda (s : State) (f : Stream → Stream) : (s.modStrm f).agenda = s.agenda := rfl

@[simp] theorem State.modM_pre (s : State) (f : Module → Module) : (s.modM f).pre = s.pre := rfl
@[simp] theorem State.modM_cur (s : State) (f : Module → Module) : (s.modM f).cur = s.cur := rfl
@[simp] theorem State.modM_chain (s : State) (f : Module → Module) : (s.modM f).chain = s.chain := rfl
@[simp] theorem State.modM_verdict (s : State) (f : Module → Module) : (s.modM f).verdict = s.verdict := rfl
@[simp] theorem State.modM_bnd (s : State) (f : Module → Module) : (s.modM f).bnd = s.bnd := rfl
@[simp] theorem State.modM_agenda (s : State) (f : Module → Module) : (s.modM f).agenda = s.agenda := rfl

@[simp] theorem State.core_modCore (s : State) (f : Core → Core) : (s.modCore f).core = f s.core :=
  Module.core_modCore_same ..
@[simp] theorem State.strm_modStrm (s : State) (f : Stream → Stream) : (s.modStrm f).strm = f s.strm :=
  Module.strm_modStrm_same ..

/-- While no bundle has issued, what an op reads is the state itself. -/
theorem State.src_of_pre_none {s : State} (h : s.pre = none) : s.src = s.m := by simp [State.src, h]

end Sys2Proof.Machine
end

