-- ==== Sys2Proof/Laws/Frames.lean ====
section
/-! SUPPORT. Frames compose, and each shared update keeps to its own part. -/

namespace Sys2Proof.Machine

variable {s t u : State}

theorem Core.setStream_setStream (c : Core) (n : StreamName) (x y : Stream) :
    (c.setStream n x).setStream n y = c.setStream n y := by cases n <;> rfl

theorem Core.setStream_self (c : Core) (n : StreamName) : c.setStream n (c.stream n) = c := by cases n <;> rfl

theorem OnlyCore.refl (s : State) : OnlyCore s s := ⟨rfl, rfl, fun _ _ _ => rfl⟩

theorem OnlyStream.refl (s : State) : OnlyStream s s := ⟨.refl s, (Core.setStream_self _ _).symm⟩

theorem OnlyCore.cur (h : OnlyCore s t) : t.cur = s.cur := by rw [h.state]
theorem OnlyCore.pre (h : OnlyCore s t) : t.pre = s.pre := by rw [h.state]
theorem OnlyCore.verdict (h : OnlyCore s t) : t.verdict = s.verdict := by rw [h.state]

theorem OnlyCore.trans (h : OnlyCore s t) (k : OnlyCore t u) : OnlyCore s u := by
  refine ⟨?_, ?_, ?_⟩
  · rw [k.state, h.state]
  · rw [k.module, h.module]
  · intro d c hn
    rw [k.others d c (by rw [h.cur]; exact hn), h.others d c hn]

theorem OnlyStream.trans (h : OnlyStream s t) (k : OnlyStream t u) : OnlyStream s u := by
  refine ⟨h.toOnlyCore.trans k.toOnlyCore, ?_⟩
  rw [k.core, h.core, h.cur, Core.setStream_setStream]

theorem OnlyCore.modCore (s : State) (f : Core → Core) : OnlyCore s (s.modCore f) :=
  ⟨rfl, rfl, fun d c hn => by
    show (s.m.modCore s.cur.die s.cur.core f).core d c = _
    rw [Module.core_modCore, if_neg hn]⟩

theorem OnlyStream.modStrm (s : State) (f : Stream → Stream) : OnlyStream s (s.modStrm f) where
  state := rfl
  module := rfl
  others d c hn := by
    show (s.m.modStrm s.cur f).core d c = _
    rw [Module.core_modStrm, if_neg hn]
  core := by
    show (s.m.modStrm s.cur f).core s.cur.die s.cur.core = Core.setStream _ _ ((s.m.modStrm s.cur f).strm s.cur)
    rw [Module.core_modStrm, if_pos ⟨rfl, rfl⟩, Module.strm_modStrm_same]
    rfl

/-- What the bundle notes is outside every frame. -/
theorem OnlyCore.note (h : OnlyCore s t) (b : Progress) : OnlyCore s { t with bnd := b } :=
  ⟨by show _ = { s with m := t.m, bnd := b }; rw [h.state], h.module, h.others⟩

theorem OnlyStream.note (h : OnlyStream s t) (b : Progress) : OnlyStream s { t with bnd := b } :=
  ⟨h.toOnlyCore.note b, h.core⟩

theorem OnlyCore.sameMemory (h : OnlyCore s t) (hu : t.core.unitMem = s.core.unitMem) : SameMemory s.m t.m := by
  refine ⟨fun a => by rw [h.module], fun a => by rw [h.module], fun d c a => ?_⟩
  by_cases hn : d = s.cur.die ∧ c = s.cur.core
  · obtain ⟨rfl, rfl⟩ := hn
    have : t.m.core s.cur.die s.cur.core = t.core := by rw [State.core, h.cur]
    rw [this, hu]; rfl
  · rw [h.others d c hn]

theorem OnlyStream.sameMemory (h : OnlyStream s t) : SameMemory s.m t.m :=
  h.toOnlyCore.sameMemory (by rw [h.core, Core.setStream_unitMem])

end Sys2Proof.Machine
end

