-- ==== Sys2Proof/Laws/Ops.lean ====
section
/-! SUPPORT. What each shared operation can do, said once: how an op ends, what reading a source leaves, what a load and a
store of locations leave. -/

namespace Sys2Proof.Machine

/-! ### How an op ends -/

@[simp] theorem firstCause_ok (t : State) (p : Res) : firstCause (.ok t) p = .ok t := rfl
@[simp] theorem firstCause_wait (m : Module) (p : Res) : firstCause (.error (.wait m)) p = .error (.wait m) := by
  cases p <;> rfl
@[simp] theorem firstCause_hold (p : Res) : firstCause (.error .hold) p = .error .hold := by cases p <;> rfl

@[simp] theorem slot_ok (i : Instr) (s t : State) : slot i s (.ok t) = .next t := by
  unfold slot; cases (slotCode i).bind fun c => dstQueue c.2.dst <;> rfl
@[simp] theorem slot_wait (i : Instr) (s : State) (m : Module) :
    slot i s (.error (.wait m)) = .next { s with m := m, verdict := .blocked } := by
  unfold slot
  cases (slotCode i).bind fun c => dstQueue c.2.dst <;> simp only [firstCause_wait] <;> rfl
@[simp] theorem slot_hold (i : Instr) (s : State) :
    slot i s (.error .hold) = .next { s with m := s.src, verdict := .unissued } := by
  unfold slot
  cases (slotCode i).bind fun c => dstQueue c.2.dst <;> simp only [firstCause_hold] <;> rfl

/-- The queue that an op pushes, none for an op outside the slots. -/
def opQueue (i : Instr) : Option QName := (slotCode i).bind fun c => dstQueue c.2.dst

/-- A trap of an op that pushes no queue has its code, place, sub-code and address; only the operand words are filled in. -/
theorem slot_trap (i : Instr) (s : State) (t : Trap) (hq : opQueue i = none := by rfl) :
    ∃ x, slot i s (.error (.trap t)) = .next (raise x s) ∧ x.code = t.code ∧ x.place = t.place ∧ x.sub = t.sub ∧
      x.addr = t.addr ∧ x.info = t.info ∧ x.line = t.line := by
  unfold opQueue at hq
  unfold slot
  rw [hq]
  exact ⟨_, rfl, rfl, rfl, rfl, rfl, rfl, rfl⟩

/-- A trap of an op that pushes a queue gives way to an earlier cause of the push alone (15 R352). -/
theorem slot_trap_push (i : Instr) (s : State) (t : Trap) :
    ∃ r, slot i s (.error (.trap t)) = finish s (withSrcs i s r) ∧ (r = .error (.trap t) ∨
      ∃ p u, r = .error p ∧ p.cause = some u ∧ trapBefore u t) := by
  unfold slot
  cases (slotCode i).bind fun c => dstQueue c.2.dst with
  | none => exact ⟨_, rfl, .inl rfl⟩
  | some q =>
    refine ⟨_, rfl, ?_⟩
    dsimp only
    generalize pushQueue (placeCode i.place) q { size := 0, data := 0 } s = r
    cases r with
    | ok _ => exact .inl rfl
    | error p =>
      have hc : (Stop.trap t).cause = some t := rfl
      cases hp : p.cause with
      | none => exact .inl (by simp [firstCause, hc, hp])
      | some u =>
        by_cases hu : trapBefore u t
        · exact .inr ⟨p, u, by simp [firstCause, hc, hp, hu], hp, hu⟩
        · exact .inl (by simp [firstCause, hc, hp, hu])

@[simp] theorem raise_verdict (t : Trap) (s : State) : (raise t s).verdict = .trapped t := rfl

/-- An op always answers a next state. -/
theorem slot_next (i : Instr) (s : State) (r : Res) : ∃ t, slot i s r = .next t := ⟨_, rfl⟩

/-! ### Reading a source -/

@[simp] theorem notePop_m (q : QName) (s : State) : (notePop q s).m = s.m := by cases q <;> rfl

/-- Reading a source changes nothing but what the bundle notes. -/
theorem fetch_frame {s u : State} {place : Nat} {t : Ty} {x : Src} {v : Val} (h : fetch s place t x = .ok (v, u)) :
    u = { s with bnd := u.bnd } := by
  cases x <;> simp only [fetch] at h
  case qlx =>
    cases hp : popHead s place .qlx <;> rw [hp] at h <;> cases h
    rfl
  case qxs =>
    cases hp : popHead s place .qxs <;> rw [hp] at h <;> cases h
    rfl
  case k =>
    split at h
    · cases h
    · cases h; rfl
  all_goals (cases h; rfl)

theorem fetch_onlyStream {s u : State} {place : Nat} {t : Ty} {x : Src} {v : Val} (h : fetch s place t x = .ok (v, u)) :
    OnlyStream s u := by
  rw [fetch_frame h]
  exact (OnlyStream.refl s).note _

/-! ### Loads and stores -/

/-- An access that is performed changes the tags of its line and the race records of its context, and no byte. -/
theorem trackedAccess_frame {m n : Module} {p : Actor} {line : Nat} {write : Bool}
    (h : trackedAccess m p line write = .ok n) : n = { m with dies := n.dies, ctxs := n.ctxs } := by
  unfold trackedAccess at h
  dsimp only at h
  split at h
  · cases h
  · split_ifs at h <;> cases h <;> rfl

theorem trackedAll_frame {m n : Module} {p : Actor} {write : Bool} {ls : List Nat}
    (h : trackedAll m p write ls = .ok n) : n = { m with dies := n.dies, ctxs := n.ctxs } := by
  induction ls generalizing m with
  | nil => cases h; rfl
  | cons l ls ih =>
    simp only [trackedAll] at h
    split at h
    · cases h
    · next m' hm => rw [ih h, trackedAccess_frame hm]

theorem trackLocs_frame {m n : Module} {p : Option Actor} {write : Bool} {a : Nat} {ls : List (Loc × Nat)}
    (h : trackLocs m p write a ls = .ok n) : n = { m with dies := n.dies, ctxs := n.ctxs } := by
  unfold trackLocs at h
  split at h
  · cases h; rfl
  · split at h
    · next hm => cases h; exact trackedAll_frame hm
    · cases h
    · cases h

/-- A load answers the bytes of its locations and changes none. -/
theorem loadLocs_frame {m n : Module} {p : Option Actor} {a : Nat} {ls : List (Loc × Nat)} {bs : List Byte}
    (h : loadLocs m p a ls = .ok (bs, n)) : bs = readLocs m ls ∧ n = { m with dies := n.dies, ctxs := n.ctxs } := by
  unfold loadLocs at h
  split at h
  · cases h
  · split at h
    · cases h
    · split at h
      · cases h
      · next hm => cases h; exact ⟨rfl, trackLocs_frame hm⟩

/-- A store of bytes writes them at its locations after the test, and nothing else. -/
theorem storeLocs_eq {m n : Module} {p : Option Actor} {a : Nat} {ls : List (Loc × Nat)} {bs : List Byte}
    (h : storeLocs m p a ls bs = .ok n) :
    ∃ k, trackLocs m p true a ls = .ok k ∧ n = writeLocs k ls bs := by
  unfold storeLocs at h
  split at h
  · cases h
  · split at h
    · cases h
    · next k hk => cases h; exact ⟨k, hk, rfl⟩

theorem loadLocal_sameMemory {m n : Module} {p : Option Actor} {c : Fin 64} {d : Fin 16} {core : Option (Fin 128)}
    {a len : Nat} {bs : List Byte} (h : loadLocal m p c d core a len = .ok (bs, n)) :
    SameMemory m n ∧ n.cores = m.cores := by
  unfold loadLocal at h
  split at h
  · cases h
  · have hf := (loadLocs_frame h).2
    rw [hf]
    exact ⟨⟨fun _ => rfl, fun _ => rfl, fun _ _ _ => rfl⟩, rfl⟩

/-! ### The canonical form of memory -/

theorem memWf_reset : State.reset.m.memWf := ⟨rfl, rfl, fun _ _ => rfl⟩

/-- Leaving out addresses keeps the canonical form. -/
theorem Memory.wf_filter {m : Memory} (f : Nat × Byte → Bool) (h : Memory.wf m = true) :
    Memory.wf (m.filter f) = true := by
  obtain ⟨hs, hd⟩ := (Tbl.wf_iff _ m).1 h
  refine (Tbl.wf_iff _ _).2 ⟨?_, fun e he => hd e (List.mem_filter.1 he).1⟩
  clear h hd
  induction m with
  | nil => rfl
  | cons e m ih =>
    obtain ⟨k, v⟩ := e
    obtain ⟨ha, hm⟩ := (Tbl.sorted_cons k v m).1 hs
    by_cases hf : f (k, v) = true
    · rw [List.filter_cons_of_pos hf]
      exact (Tbl.sorted_cons k v _).2 ⟨fun e he => ha e (List.mem_filter.1 he).1, ih hm⟩
    · rw [List.filter_cons_of_neg hf]
      exact ih hm

/-- Storing bytes one after another keeps it. -/
theorem Memory.wf_foldl {α : Type} (f : α → Nat) (g : α → Byte) (xs : List α) {m : Memory} (h : Memory.wf m = true) :
    Memory.wf (xs.foldl (fun a x => Memory.put a (f x) (g x)) m) = true := by
  induction xs generalizing m with
  | nil => exact h
  | cons x xs ih => exact ih (Memory.wf_put _ _ h)

/-- Moving a page keeps it. -/
theorem copyPhys_wf {m : Memory} (src dst n : Nat) (h : Memory.wf m = true) :
    Memory.wf (copyPhys m src dst n) = true :=
  Memory.wf_foldl _ _ _ (Memory.wf_filter _ h)

/-- What a resumed job finds in its scratchpad is in canonical form. -/
theorem overlay_wf {m k : Memory} (n : Nat) (hm : Memory.wf m = true) (hk : Memory.wf k = true) :
    Memory.wf (overlay n m k) = true := by
  have h1 := (Tbl.wf_iff _ _).1 (Memory.wf_filter (fun e => decide (e.1 < 1024 * n)) hm)
  have h2 := (Tbl.wf_iff _ _).1 (Memory.wf_filter (fun e => decide (1024 * n ≤ e.1)) hk)
  have key : ∀ l : Memory, Tbl.sorted l = true → (∀ e ∈ l, e.1 < 1024 * n) →
      Tbl.sorted (l ++ k.filter fun e => decide (1024 * n ≤ e.1)) = true := by
    intro l
    induction l with
    | nil => exact fun _ _ => h2.1
    | cons e l ih =>
      obtain ⟨j, v⟩ := e
      intro hs hb
      obtain ⟨ha, hl⟩ := (Tbl.sorted_cons j v l).1 hs
      refine (Tbl.sorted_cons j v _).2 ⟨fun e he => ?_, ih hl fun e he => hb e (List.mem_cons_of_mem _ he)⟩
      rcases List.mem_append.1 he with he | he
      · exact ha e he
      · have := hb (j, v) (List.mem_cons_self ..)
        have := of_decide_eq_true (List.mem_filter.1 he).2
        simp only at *; omega
  refine (Tbl.wf_iff _ _).2 ⟨key _ h1.1 fun e he => of_decide_eq_true (List.mem_filter.1 he).2, fun e he => ?_⟩
  rcases List.mem_append.1 he with he | he
  · exact h1.2 e he
  · exact h2.2 e he

/-- Writing a location keeps every memory in canonical form. -/
theorem writeLoc_memWf {m : Module} (l : Loc) (bs : List Byte) (h : m.memWf) : (writeLoc m l bs).memWf := by
  cases l with
  | phys pa =>
    unfold writeLoc; dsimp only
    split <;> exact ⟨Memory.wf_puts _ _ h.1, h.2.1, h.2.2⟩
  | unit c o =>
    have hc : Memory.wf (Tbl.get {} m.cores c).unitMem = true ∨ ∀ d k, coreKey d k ≠ c := by
      by_cases hx : ∃ d k, coreKey d k = c
      · obtain ⟨d, k, rfl⟩ := hx; exact .inl (h.2.2 d k)
      · exact .inr fun d k e => hx ⟨d, k, e⟩
    have key : ∀ d k, Memory.wf (Tbl.get {} (Tbl.set {} m.cores c { Tbl.get {} m.cores c with
        unitMem := Memory.puts (Tbl.get {} m.cores c).unitMem o bs }) (coreKey d k)).unitMem = true := by
      intro d k
      rw [Tbl.get_set]
      split
      · next he =>
        rcases hc with hc | hc
        · exact Memory.wf_puts _ _ hc
        · exact absurd he (hc d k)
      · exact h.2.2 d k
    unfold writeLoc; dsimp only
    split <;> exact ⟨h.1, h.2.1, key⟩

theorem writeLocs_memWf {m : Module} (ls : List (Loc × Nat)) (bs : List Byte) (h : m.memWf) :
    (writeLocs m ls bs).memWf := by
  induction ls generalizing m bs with
  | nil => exact h
  | cons l ls ih => exact ih _ (writeLoc_memWf _ _ h)

end Sys2Proof.Machine
end

