-- ==== Sys2Proof/Laws/PerInstr.lean ====
section
/-! SUPPORT. One law per instruction: its opcode or record code is in range and names it (02 R64 to R69, 09 R255, R256). -/

namespace Sys2Proof.Laws.Encoding

/-- The opcode of a slot op lies in 1 to 255 and, when the op is well formed, names it (CBWT's producer form by way of
its consumer form, 08 R388); the code of a chain record names it. -/
def Statement (i : Instr) : Prop :=
  (∀ c o, slotCode i = some (c, o) → 0 < c ∧ c < 256 ∧
    (i.wf = true → ∃ j, slotOf c o = some j ∧ (j = i ∨ j.asProducer = i))) ∧
  ∀ c r, recCode i = some (c, r) → c < 256 ∧ recOf c r = some i

theorem of_slot {i : Instr} {c : Nat} {o : SlotOp} (h : slotCode i = some (c, o)) (hr : recCode i = none)
    (hp : 0 < c) (hc : c < 256) (hs : i.wf = true → ∃ j, slotOf c o = some j ∧ (j = i ∨ j.asProducer = i)) :
    Statement i := by
  refine ⟨fun c' o' h' => ?_, fun c' r' h' => ?_⟩
  · rw [h] at h'; cases h'; exact ⟨hp, hc, hs⟩
  · rw [hr] at h'; cases h'

theorem of_rec {i : Instr} {c : Nat} {r : Rec} (h : slotCode i = none) (hr : recCode i = some (c, r)) (hc : c < 256)
    (hs : recOf c r = some i) : Statement i := by
  refine ⟨fun c' o' h' => ?_, fun c' r' h' => ?_⟩
  · rw [h] at h'; cases h'
  · rw [hr] at h'; cases h'; exact ⟨hc, hs⟩

theorem of_none {i : Instr} (h : slotCode i = none) (hr : recCode i = none) : Statement i := by
  refine ⟨fun c' o' h' => ?_, fun c' r' h' => ?_⟩
  · rw [h] at h'; cases h'
  · rw [hr] at h'; cases h'

/-- The op-specific field of a well-formed op is one that its row lists (02 R45). -/
theorem opx_of_wf {i : Instr} {o : SlotOp} {sh : OpShape} (h : i.shape = some (o, sh)) (hw : i.wf = true) :
    sh.opx.contains o.opx.val = true := by
  have key : ∀ st, i.okIn st = true → sh.opx.contains o.opx.val = true := by
    intro st hs
    simp only [Instr.okIn, h, slotOk, Bool.and_eq_true] at hs
    simp_all
  simp only [Instr.wf, Bool.or_eq_true] at hw
  rcases hw with (hw | hw) | hw <;> exact key _ hw

theorem br (off : W32) : Statement (.br off) := of_none rfl rfl
theorem brz (r : Fin 64) (off : BitVec 24) : Statement (.brz r off) := of_none rfl rfl
theorem brnz (r : Fin 64) (off : BitVec 24) : Statement (.brnz r off) := of_none rfl rfl
theorem brp (p : Fin 8) (t : MaskTest) (off : BitVec 24) : Statement (.brp p t off) := of_none rfl rfl
theorem brqe (q : QName) (off : BitVec 24) : Statement (.brqe q off) := of_none rfl rfl
theorem loop (n : LoopCount) (last : BitVec 16) : Statement (.loop n last) := of_none rfl rfl
theorem call (off : W32) : Statement (.call off) := of_none rfl rfl
theorem jmpi (r : JmpReg) : Statement (.jmpi r) := of_none rfl rfl
theorem join (g : Fin 1024) : Statement (.join g) := of_none rfl rfl
theorem leave (g : Fin 1024) : Statement (.leave g) := of_none rfl rfl
theorem gbar (g : Fin 1024) : Statement (.gbar g) := of_none rfl rfl
theorem waits (r : Fin 64) : Statement (.waits r) := of_none rfl rfl
theorem waitb (slot : Fin 256) : Statement (.waitb slot) := of_none rfl rfl
theorem trap (n : BitVec 16) : Statement (.trap n) := of_none rfl rfl
theorem npre (us : BitVec 8) : Statement (.npre us) := of_none rfl rfl
theorem ainc (a : Fin 16) (imm : W32) : Statement (.ainc a imm) := of_none rfl rfl
theorem amod (a : Fin 16) (m : Fin 16) : Statement (.amod a m) := of_none rfl rfl
theorem abrv (a : Fin 16) (m : Fin 16) : Statement (.abrv a m) := of_none rfl rfl
theorem acir (a : Fin 16) (m : Fin 16) : Statement (.acir a m) := of_none rfl rfl
theorem aset (a : Fin 16) (hi : BitVec 4) (lo : W32) : Statement (.aset a hi lo) := of_none rfl rfl
theorem mset (part : Fin 4) (m : Fin 16) (v : W32) : Statement (.mset part m v) := of_none rfl rfl
theorem iadd (o : SlotOp) : Statement (.iadd o) :=
  of_slot rfl rfl (by decide) (by decide) fun _ => ⟨_, rfl, .inl rfl⟩
theorem isub (o : SlotOp) : Statement (.isub o) :=
  of_slot rfl rfl (by decide) (by decide) fun _ => ⟨_, rfl, .inl rfl⟩
theorem iadds (o : SlotOp) : Statement (.iadds o) :=
  of_slot rfl rfl (by decide) (by decide) fun _ => ⟨_, rfl, .inl rfl⟩
theorem isubs (o : SlotOp) : Statement (.isubs o) :=
  of_slot rfl rfl (by decide) (by decide) fun _ => ⟨_, rfl, .inl rfl⟩
theorem imul (o : SlotOp) : Statement (.imul o) :=
  of_slot rfl rfl (by decide) (by decide) fun _ => ⟨_, rfl, .inl rfl⟩
theorem imulh (o : SlotOp) : Statement (.imulh o) :=
  of_slot rfl rfl (by decide) (by decide) fun _ => ⟨_, rfl, .inl rfl⟩
theorem imad (o : SlotOp) : Statement (.imad o) :=
  of_slot rfl rfl (by decide) (by decide) fun _ => ⟨_, rfl, .inl rfl⟩
theorem ishl (o : SlotOp) : Statement (.ishl o) :=
  of_slot rfl rfl (by decide) (by decide) fun _ => ⟨_, rfl, .inl rfl⟩
theorem ishr (o : SlotOp) : Statement (.ishr o) :=
  of_slot rfl rfl (by decide) (by decide) fun _ => ⟨_, rfl, .inl rfl⟩
theorem isra (o : SlotOp) : Statement (.isra o) :=
  of_slot rfl rfl (by decide) (by decide) fun _ => ⟨_, rfl, .inl rfl⟩
theorem iand (o : SlotOp) : Statement (.iand o) :=
  of_slot rfl rfl (by decide) (by decide) fun _ => ⟨_, rfl, .inl rfl⟩
theorem ior (o : SlotOp) : Statement (.ior o) :=
  of_slot rfl rfl (by decide) (by decide) fun _ => ⟨_, rfl, .inl rfl⟩
theorem ixor (o : SlotOp) : Statement (.ixor o) :=
  of_slot rfl rfl (by decide) (by decide) fun _ => ⟨_, rfl, .inl rfl⟩
theorem imin (o : SlotOp) : Statement (.imin o) :=
  of_slot rfl rfl (by decide) (by decide) fun _ => ⟨_, rfl, .inl rfl⟩
theorem imax (o : SlotOp) : Statement (.imax o) :=
  of_slot rfl rfl (by decide) (by decide) fun _ => ⟨_, rfl, .inl rfl⟩
theorem iabs (o : SlotOp) : Statement (.iabs o) :=
  of_slot rfl rfl (by decide) (by decide) fun _ => ⟨_, rfl, .inl rfl⟩
theorem iclz (o : SlotOp) : Statement (.iclz o) :=
  of_slot rfl rfl (by decide) (by decide) fun _ => ⟨_, rfl, .inl rfl⟩
theorem ipop (o : SlotOp) : Statement (.ipop o) :=
  of_slot rfl rfl (by decide) (by decide) fun _ => ⟨_, rfl, .inl rfl⟩
theorem imov (o : SlotOp) : Statement (.imov o) :=
  of_slot rfl rfl (by decide) (by decide) fun _ => ⟨_, rfl, .inl rfl⟩
theorem ibfe (o : SlotOp) : Statement (.ibfe o) :=
  of_slot rfl rfl (by decide) (by decide) fun _ => ⟨_, rfl, .inl rfl⟩
theorem ibfi (o : SlotOp) : Statement (.ibfi o) :=
  of_slot rfl rfl (by decide) (by decide) fun _ => ⟨_, rfl, .inl rfl⟩
theorem faddF32 (o : SlotOp) : Statement (.faddF32 o) :=
  of_slot rfl rfl (by decide) (by decide) fun _ => ⟨_, rfl, .inl rfl⟩
theorem faddBf16 (o : SlotOp) : Statement (.faddBf16 o) :=
  of_slot rfl rfl (by decide) (by decide) fun _ => ⟨_, rfl, .inl rfl⟩
theorem faddF16 (o : SlotOp) : Statement (.faddF16 o) :=
  of_slot rfl rfl (by decide) (by decide) fun _ => ⟨_, rfl, .inl rfl⟩
theorem fsubF32 (o : SlotOp) : Statement (.fsubF32 o) :=
  of_slot rfl rfl (by decide) (by decide) fun _ => ⟨_, rfl, .inl rfl⟩
theorem fsubBf16 (o : SlotOp) : Statement (.fsubBf16 o) :=
  of_slot rfl rfl (by decide) (by decide) fun _ => ⟨_, rfl, .inl rfl⟩
theorem fsubF16 (o : SlotOp) : Statement (.fsubF16 o) :=
  of_slot rfl rfl (by decide) (by decide) fun _ => ⟨_, rfl, .inl rfl⟩
theorem fmulF32 (o : SlotOp) : Statement (.fmulF32 o) :=
  of_slot rfl rfl (by decide) (by decide) fun _ => ⟨_, rfl, .inl rfl⟩
theorem fmulBf16 (o : SlotOp) : Statement (.fmulBf16 o) :=
  of_slot rfl rfl (by decide) (by decide) fun _ => ⟨_, rfl, .inl rfl⟩
theorem fmulF16 (o : SlotOp) : Statement (.fmulF16 o) :=
  of_slot rfl rfl (by decide) (by decide) fun _ => ⟨_, rfl, .inl rfl⟩
theorem fmaF32 (o : SlotOp) : Statement (.fmaF32 o) :=
  of_slot rfl rfl (by decide) (by decide) fun _ => ⟨_, rfl, .inl rfl⟩
theorem fmaBf16 (o : SlotOp) : Statement (.fmaBf16 o) :=
  of_slot rfl rfl (by decide) (by decide) fun _ => ⟨_, rfl, .inl rfl⟩
theorem fmaF16 (o : SlotOp) : Statement (.fmaF16 o) :=
  of_slot rfl rfl (by decide) (by decide) fun _ => ⟨_, rfl, .inl rfl⟩
theorem fdivF32 (o : SlotOp) : Statement (.fdivF32 o) :=
  of_slot rfl rfl (by decide) (by decide) fun _ => ⟨_, rfl, .inl rfl⟩
theorem fdivBf16 (o : SlotOp) : Statement (.fdivBf16 o) :=
  of_slot rfl rfl (by decide) (by decide) fun _ => ⟨_, rfl, .inl rfl⟩
theorem fdivF16 (o : SlotOp) : Statement (.fdivF16 o) :=
  of_slot rfl rfl (by decide) (by decide) fun _ => ⟨_, rfl, .inl rfl⟩
theorem fminF32 (o : SlotOp) : Statement (.fminF32 o) :=
  of_slot rfl rfl (by decide) (by decide) fun _ => ⟨_, rfl, .inl rfl⟩
theorem fminBf16 (o : SlotOp) : Statement (.fminBf16 o) :=
  of_slot rfl rfl (by decide) (by decide) fun _ => ⟨_, rfl, .inl rfl⟩
theorem fminF16 (o : SlotOp) : Statement (.fminF16 o) :=
  of_slot rfl rfl (by decide) (by decide) fun _ => ⟨_, rfl, .inl rfl⟩
theorem fmaxF32 (o : SlotOp) : Statement (.fmaxF32 o) :=
  of_slot rfl rfl (by decide) (by decide) fun _ => ⟨_, rfl, .inl rfl⟩
theorem fmaxBf16 (o : SlotOp) : Statement (.fmaxBf16 o) :=
  of_slot rfl rfl (by decide) (by decide) fun _ => ⟨_, rfl, .inl rfl⟩
theorem fmaxF16 (o : SlotOp) : Statement (.fmaxF16 o) :=
  of_slot rfl rfl (by decide) (by decide) fun _ => ⟨_, rfl, .inl rfl⟩
theorem fabs (o : SlotOp) : Statement (.fabs o) :=
  of_slot rfl rfl (by decide) (by decide) fun _ => ⟨_, rfl, .inl rfl⟩
theorem fneg (o : SlotOp) : Statement (.fneg o) :=
  of_slot rfl rfl (by decide) (by decide) fun _ => ⟨_, rfl, .inl rfl⟩
theorem fmov (o : SlotOp) : Statement (.fmov o) :=
  of_slot rfl rfl (by decide) (by decide) fun _ => ⟨_, rfl, .inl rfl⟩
theorem fscl (o : SlotOp) : Statement (.fscl o) :=
  of_slot rfl rfl (by decide) (by decide) fun _ => ⟨_, rfl, .inl rfl⟩
theorem fclp (o : SlotOp) : Statement (.fclp o) :=
  of_slot rfl rfl (by decide) (by decide) fun _ => ⟨_, rfl, .inl rfl⟩
theorem flrp (o : SlotOp) : Statement (.flrp o) :=
  of_slot rfl rfl (by decide) (by decide) fun _ => ⟨_, rfl, .inl rfl⟩
theorem icmp (o : SlotOp) : Statement (.icmp o) :=
  of_slot rfl rfl (by decide) (by decide) fun _ => ⟨_, rfl, .inl rfl⟩
theorem fcmp (o : SlotOp) : Statement (.fcmp o) :=
  of_slot rfl rfl (by decide) (by decide) fun _ => ⟨_, rfl, .inl rfl⟩
theorem sel (o : SlotOp) : Statement (.sel o) :=
  of_slot rfl rfl (by decide) (by decide) fun _ => ⟨_, rfl, .inl rfl⟩
theorem pand (o : SlotOp) : Statement (.pand o) :=
  of_slot rfl rfl (by decide) (by decide) fun _ => ⟨_, rfl, .inl rfl⟩
theorem por (o : SlotOp) : Statement (.por o) :=
  of_slot rfl rfl (by decide) (by decide) fun _ => ⟨_, rfl, .inl rfl⟩
theorem pxor (o : SlotOp) : Statement (.pxor o) :=
  of_slot rfl rfl (by decide) (by decide) fun _ => ⟨_, rfl, .inl rfl⟩
theorem pnot (o : SlotOp) : Statement (.pnot o) :=
  of_slot rfl rfl (by decide) (by decide) fun _ => ⟨_, rfl, .inl rfl⟩
theorem pcnt (o : SlotOp) : Statement (.pcnt o) :=
  of_slot rfl rfl (by decide) (by decide) fun _ => ⟨_, rfl, .inl rfl⟩
theorem rsum (o : SlotOp) : Statement (.rsum o) :=
  of_slot rfl rfl (by decide) (by decide) fun _ => ⟨_, rfl, .inl rfl⟩
theorem rsqs (o : SlotOp) : Statement (.rsqs o) :=
  of_slot rfl rfl (by decide) (by decide) fun _ => ⟨_, rfl, .inl rfl⟩
theorem rmax (o : SlotOp) : Statement (.rmax o) :=
  of_slot rfl rfl (by decide) (by decide) fun _ => ⟨_, rfl, .inl rfl⟩
theorem rmin (o : SlotOp) : Statement (.rmin o) :=
  of_slot rfl rfl (by decide) (by decide) fun _ => ⟨_, rfl, .inl rfl⟩
theorem rmxa (o : SlotOp) : Statement (.rmxa o) := of_slot rfl rfl (by decide) (by decide) fun hw => by
  have h : o.opx.val ≠ 4 := by
    intro h; have := opx_of_wf rfl hw; rw [h] at this; exact absurd this (by decide)
  exact ⟨_, rfl, .inl (by simp [h])⟩
theorem rmxaBlk (o : SlotOp) : Statement (.rmxaBlk o) := of_slot rfl rfl (by decide) (by decide) fun hw => by
  have h : o.opx.val = 4 := by
    have := opx_of_wf rfl hw
    revert this; generalize o.opx = x; revert x; decide
  exact ⟨_, rfl, .inl (by simp [h])⟩
theorem rscn (o : SlotOp) : Statement (.rscn o) :=
  of_slot rfl rfl (by decide) (by decide) fun _ => ⟨_, rfl, .inl rfl⟩
theorem argm (o : SlotOp) : Statement (.argm o) :=
  of_slot rfl rfl (by decide) (by decide) fun _ => ⟨_, rfl, .inl rfl⟩
theorem topk (o : SlotOp) : Statement (.topk o) :=
  of_slot rfl rfl (by decide) (by decide) fun _ => ⟨_, rfl, .inl rfl⟩
theorem trns (o : SlotOp) : Statement (.trns o) :=
  of_slot rfl rfl (by decide) (by decide) fun _ => ⟨_, rfl, .inl rfl⟩
theorem bcst (o : SlotOp) : Statement (.bcst o) :=
  of_slot rfl rfl (by decide) (by decide) fun _ => ⟨_, rfl, .inl rfl⟩
theorem shuf (o : SlotOp) : Statement (.shuf o) :=
  of_slot rfl rfl (by decide) (by decide) fun _ => ⟨_, rfl, .inl rfl⟩
theorem vext (o : SlotOp) : Statement (.vext o) :=
  of_slot rfl rfl (by decide) (by decide) fun _ => ⟨_, rfl, .inl rfl⟩
theorem vins (o : SlotOp) : Statement (.vins o) :=
  of_slot rfl rfl (by decide) (by decide) fun _ => ⟨_, rfl, .inl rfl⟩
theorem iota (o : SlotOp) : Statement (.iota o) :=
  of_slot rfl rfl (by decide) (by decide) fun _ => ⟨_, rfl, .inl rfl⟩
theorem cvt (o : SlotOp) : Statement (.cvt o) :=
  of_slot rfl rfl (by decide) (by decide) fun _ => ⟨_, rfl, .inl rfl⟩
theorem cvfi (o : SlotOp) : Statement (.cvfi o) :=
  of_slot rfl rfl (by decide) (by decide) fun _ => ⟨_, rfl, .inl rfl⟩
theorem cvif (o : SlotOp) : Statement (.cvif o) :=
  of_slot rfl rfl (by decide) (by decide) fun _ => ⟨_, rfl, .inl rfl⟩
theorem qblk (o : SlotOp) : Statement (.qblk o) :=
  of_slot rfl rfl (by decide) (by decide) fun _ => ⟨_, rfl, .inl rfl⟩
theorem dqbk (o : SlotOp) : Statement (.dqbk o) :=
  of_slot rfl rfl (by decide) (by decide) fun _ => ⟨_, rfl, .inl rfl⟩
theorem dcf4 (o : SlotOp) : Statement (.dcf4 o) :=
  of_slot rfl rfl (by decide) (by decide) fun _ => ⟨_, rfl, .inl rfl⟩
theorem nwsl (o : SlotOp) : Statement (.nwsl o) :=
  of_slot rfl rfl (by decide) (by decide) fun _ => ⟨_, rfl, .inl rfl⟩
theorem nwpk (o : SlotOp) : Statement (.nwpk o) :=
  of_slot rfl rfl (by decide) (by decide) fun _ => ⟨_, rfl, .inl rfl⟩
theorem fexp (o : SlotOp) : Statement (.fexp o) :=
  of_slot rfl rfl (by decide) (by decide) fun _ => ⟨_, rfl, .inl rfl⟩
theorem fexp2 (o : SlotOp) : Statement (.fexp2 o) :=
  of_slot rfl rfl (by decide) (by decide) fun _ => ⟨_, rfl, .inl rfl⟩
theorem flog (o : SlotOp) : Statement (.flog o) :=
  of_slot rfl rfl (by decide) (by decide) fun _ => ⟨_, rfl, .inl rfl⟩
theorem flog2 (o : SlotOp) : Statement (.flog2 o) :=
  of_slot rfl rfl (by decide) (by decide) fun _ => ⟨_, rfl, .inl rfl⟩
theorem frcp (o : SlotOp) : Statement (.frcp o) :=
  of_slot rfl rfl (by decide) (by decide) fun _ => ⟨_, rfl, .inl rfl⟩
theorem fsqt (o : SlotOp) : Statement (.fsqt o) :=
  of_slot rfl rfl (by decide) (by decide) fun _ => ⟨_, rfl, .inl rfl⟩
theorem frsq (o : SlotOp) : Statement (.frsq o) :=
  of_slot rfl rfl (by decide) (by decide) fun _ => ⟨_, rfl, .inl rfl⟩
theorem ftnh (o : SlotOp) : Statement (.ftnh o) :=
  of_slot rfl rfl (by decide) (by decide) fun _ => ⟨_, rfl, .inl rfl⟩
theorem fsig (o : SlotOp) : Statement (.fsig o) :=
  of_slot rfl rfl (by decide) (by decide) fun _ => ⟨_, rfl, .inl rfl⟩
theorem fglu (o : SlotOp) : Statement (.fglu o) :=
  of_slot rfl rfl (by decide) (by decide) fun _ => ⟨_, rfl, .inl rfl⟩
theorem fsin (o : SlotOp) : Statement (.fsin o) :=
  of_slot rfl rfl (by decide) (by decide) fun _ => ⟨_, rfl, .inl rfl⟩
theorem fcos (o : SlotOp) : Statement (.fcos o) :=
  of_slot rfl rfl (by decide) (by decide) fun _ => ⟨_, rfl, .inl rfl⟩
theorem fsmx (o : SlotOp) : Statement (.fsmx o) :=
  of_slot rfl rfl (by decide) (by decide) fun _ => ⟨_, rfl, .inl rfl⟩
theorem rand (o : SlotOp) : Statement (.rand o) :=
  of_slot rfl rfl (by decide) (by decide) fun _ => ⟨_, rfl, .inl rfl⟩
theorem jsed (o : SlotOp) : Statement (.jsed o) :=
  of_slot rfl rfl (by decide) (by decide) fun _ => ⟨_, rfl, .inl rfl⟩
theorem jext (o : SlotOp) : Statement (.jext o) :=
  of_slot rfl rfl (by decide) (by decide) fun _ => ⟨_, rfl, .inl rfl⟩
theorem ldt (o : SlotOp) : Statement (.ldt o) :=
  of_slot rfl rfl (by decide) (by decide) fun _ => ⟨_, rfl, .inl rfl⟩
theorem stt (o : SlotOp) : Statement (.stt o) :=
  of_slot rfl rfl (by decide) (by decide) fun _ => ⟨_, rfl, .inl rfl⟩
theorem lds (o : SlotOp) : Statement (.lds o) :=
  of_slot rfl rfl (by decide) (by decide) fun _ => ⟨_, rfl, .inl rfl⟩
theorem sts (o : SlotOp) : Statement (.sts o) :=
  of_slot rfl rfl (by decide) (by decide) fun _ => ⟨_, rfl, .inl rfl⟩
theorem ldb (o : SlotOp) : Statement (.ldb o) :=
  of_slot rfl rfl (by decide) (by decide) fun _ => ⟨_, rfl, .inl rfl⟩
theorem ldnw (o : SlotOp) : Statement (.ldnw o) :=
  of_slot rfl rfl (by decide) (by decide) fun _ => ⟨_, rfl, .inl rfl⟩
theorem gath (o : SlotOp) : Statement (.gath o) :=
  of_slot rfl rfl (by decide) (by decide) fun _ => ⟨_, rfl, .inl rfl⟩
theorem scat (o : SlotOp) : Statement (.scat o) :=
  of_slot rfl rfl (by decide) (by decide) fun _ => ⟨_, rfl, .inl rfl⟩
theorem tmov (o : SlotOp) : Statement (.tmov o) :=
  of_slot rfl rfl (by decide) (by decide) fun _ => ⟨_, rfl, .inl rfl⟩
theorem wfen (o : SlotOp) : Statement (.wfen o) :=
  of_slot rfl rfl (by decide) (by decide) fun _ => ⟨_, rfl, .inl rfl⟩
theorem cbpb (o : SlotOp) : Statement (.cbpb o) :=
  of_slot rfl rfl (by decide) (by decide) fun _ => ⟨_, rfl, .inl rfl⟩
theorem cbrl (o : SlotOp) : Statement (.cbrl o) :=
  of_slot rfl rfl (by decide) (by decide) fun _ => ⟨_, rfl, .inl rfl⟩
theorem cbwtConsumer (o : SlotOp) : Statement (.cbwtConsumer o) :=
  of_slot rfl rfl (by decide) (by decide) fun _ => ⟨_, rfl, .inl rfl⟩
theorem cbwtProducer (o : SlotOp) : Statement (.cbwtProducer o) :=
  of_slot rfl rfl (by decide) (by decide) fun _ => ⟨_, rfl, .inr rfl⟩
theorem cbstGet (o : SlotOp) : Statement (.cbstGet o) := of_slot rfl rfl (by decide) (by decide) fun hw => by
  have h : o.opx.val ≠ 1 := by
    intro h; have := opx_of_wf rfl hw; rw [h] at this; exact absurd this (by decide)
  exact ⟨_, rfl, .inl (by simp [h])⟩
theorem cbstInit (o : SlotOp) : Statement (.cbstInit o) := of_slot rfl rfl (by decide) (by decide) fun hw => by
  have h : o.opx.val = 1 := by
    have := opx_of_wf rfl hw
    revert this; generalize o.opx = x; revert x; decide
  exact ⟨_, rfl, .inl (by simp [h])⟩
theorem afad (o : SlotOp) : Statement (.afad o) :=
  of_slot rfl rfl (by decide) (by decide) fun _ => ⟨_, rfl, .inl rfl⟩
theorem afab (o : SlotOp) : Statement (.afab o) :=
  of_slot rfl rfl (by decide) (by decide) fun _ => ⟨_, rfl, .inl rfl⟩
theorem ainw (o : SlotOp) : Statement (.ainw o) :=
  of_slot rfl rfl (by decide) (by decide) fun _ => ⟨_, rfl, .inl rfl⟩
theorem adcw (o : SlotOp) : Statement (.adcw o) :=
  of_slot rfl rfl (by decide) (by decide) fun _ => ⟨_, rfl, .inl rfl⟩
theorem acas (o : SlotOp) : Statement (.acas o) :=
  of_slot rfl rfl (by decide) (by decide) fun _ => ⟨_, rfl, .inl rfl⟩
theorem aswp (o : SlotOp) : Statement (.aswp o) :=
  of_slot rfl rfl (by decide) (by decide) fun _ => ⟨_, rfl, .inl rfl⟩
theorem amin (o : SlotOp) : Statement (.amin o) :=
  of_slot rfl rfl (by decide) (by decide) fun _ => ⟨_, rfl, .inl rfl⟩
theorem amax (o : SlotOp) : Statement (.amax o) :=
  of_slot rfl rfl (by decide) (by decide) fun _ => ⟨_, rfl, .inl rfl⟩
theorem aand (o : SlotOp) : Statement (.aand o) :=
  of_slot rfl rfl (by decide) (by decide) fun _ => ⟨_, rfl, .inl rfl⟩
theorem aor (o : SlotOp) : Statement (.aor o) :=
  of_slot rfl rfl (by decide) (by decide) fun _ => ⟨_, rfl, .inl rfl⟩
theorem afaf (o : SlotOp) : Statement (.afaf o) :=
  of_slot rfl rfl (by decide) (by decide) fun _ => ⟨_, rfl, .inl rfl⟩
theorem afmx (o : SlotOp) : Statement (.afmx o) :=
  of_slot rfl rfl (by decide) (by decide) fun _ => ⟨_, rfl, .inl rfl⟩
theorem atomicApply (die : Fin 16) (cluster : Option (Fin 8)) : Statement (.atomicApply die cluster) := of_none rfl rfl
theorem routerCombine (die : Fin 16) (cluster : Option (Fin 8)) : Statement (.routerCombine die cluster) := of_none rfl rfl
theorem decombineReply (die : Fin 16) (cluster : Option (Fin 8)) (lost : List Nat) : Statement (.decombineReply die cluster lost) := of_none rfl rfl
theorem sdec (o : SlotOp) : Statement (.sdec o) :=
  of_slot rfl rfl (by decide) (by decide) fun _ => ⟨_, rfl, .inl rfl⟩
theorem sadd (o : SlotOp) : Statement (.sadd o) :=
  of_slot rfl rfl (by decide) (by decide) fun _ => ⟨_, rfl, .inl rfl⟩
theorem bexp (o : SlotOp) : Statement (.bexp o) :=
  of_slot rfl rfl (by decide) (by decide) fun _ => ⟨_, rfl, .inl rfl⟩
theorem barv (o : SlotOp) : Statement (.barv o) :=
  of_slot rfl rfl (by decide) (by decide) fun _ => ⟨_, rfl, .inl rfl⟩
theorem binv (o : SlotOp) : Statement (.binv o) :=
  of_slot rfl rfl (by decide) (by decide) fun _ => ⟨_, rfl, .inl rfl⟩
theorem barrierDelivery (die : Fin 16) : Statement (.barrierDelivery die) := of_none rfl rfl
theorem fenc (o : SlotOp) : Statement (.fenc o) :=
  of_slot rfl rfl (by decide) (by decide) fun _ => ⟨_, rfl, .inl rfl⟩
theorem tdep (o : SlotOp) : Statement (.tdep o) :=
  of_slot rfl rfl (by decide) (by decide) fun _ => ⟨_, rfl, .inl rfl⟩
theorem tcpy (o : SlotOp) : Statement (.tcpy o) :=
  of_slot rfl rfl (by decide) (by decide) fun _ => ⟨_, rfl, .inl rfl⟩
theorem ttak (o : SlotOp) : Statement (.ttak o) :=
  of_slot rfl rfl (by decide) (by decide) fun _ => ⟨_, rfl, .inl rfl⟩
theorem tcan (o : SlotOp) : Statement (.tcan o) :=
  of_slot rfl rfl (by decide) (by decide) fun _ => ⟨_, rfl, .inl rfl⟩
theorem tprb (o : SlotOp) : Statement (.tprb o) :=
  of_slot rfl rfl (by decide) (by decide) fun _ => ⟨_, rfl, .inl rfl⟩
theorem tupleOverflowReturn (die : Fin 16) (slice : Fin 16) : Statement (.tupleOverflowReturn die slice) := of_none rfl rfl
theorem echn (o : SlotOp) : Statement (.echn o) :=
  of_slot rfl rfl (by decide) (by decide) fun _ => ⟨_, rfl, .inl rfl⟩
theorem ecwt (o : SlotOp) : Statement (.ecwt o) :=
  of_slot rfl rfl (by decide) (by decide) fun _ => ⟨_, rfl, .inl rfl⟩
theorem ecnc (o : SlotOp) : Statement (.ecnc o) :=
  of_slot rfl rfl (by decide) (by decide) fun _ => ⟨_, rfl, .inl rfl⟩
theorem leas (o : SlotOp) : Statement (.leas o) :=
  of_slot rfl rfl (by decide) (by decide) fun _ => ⟨_, rfl, .inl rfl⟩
theorem lrel (o : SlotOp) : Statement (.lrel o) :=
  of_slot rfl rfl (by decide) (by decide) fun _ => ⟨_, rfl, .inl rfl⟩
theorem leaseGrant (die : Fin 16) (cluster : Fin 8) : Statement (.leaseGrant die cluster) := of_none rfl rfl
theorem chn (o : SlotOp) : Statement (.chn o) :=
  of_slot rfl rfl (by decide) (by decide) fun _ => ⟨_, rfl, .inl rfl⟩
theorem passComplete (die : Fin 16) (cluster : Fin 8) : Statement (.passComplete die cluster) := of_none rfl rfl
theorem qspl (o : SlotOp) : Statement (.qspl o) :=
  of_slot rfl rfl (by decide) (by decide) fun _ => ⟨_, rfl, .inl rfl⟩
theorem eddyRefill (die : Fin 16) (core : Fin 128) (q : QName) : Statement (.eddyRefill die core q) := of_none rfl rfl
theorem uirq (o : SlotOp) : Statement (.uirq o) :=
  of_slot rfl rfl (by decide) (by decide) fun _ => ⟨_, rfl, .inl rfl⟩
theorem interruptTake (w : Who) : Statement (.interruptTake w) := of_none rfl rfl
theorem sqtr (o : SlotOp) : Statement (.sqtr o) :=
  of_slot rfl rfl (by decide) (by decide) fun _ => ⟨_, rfl, .inl rfl⟩
theorem sqac (o : SlotOp) : Statement (.sqac o) :=
  of_slot rfl rfl (by decide) (by decide) fun _ => ⟨_, rfl, .inl rfl⟩
theorem sqrb (o : SlotOp) : Statement (.sqrb o) :=
  of_slot rfl rfl (by decide) (by decide) fun _ => ⟨_, rfl, .inl rfl⟩
theorem sqpm (o : SlotOp) : Statement (.sqpm o) :=
  of_slot rfl rfl (by decide) (by decide) fun _ => ⟨_, rfl, .inl rfl⟩
theorem sqrs (o : SlotOp) : Statement (.sqrs o) :=
  of_slot rfl rfl (by decide) (by decide) fun _ => ⟨_, rfl, .inl rfl⟩
theorem sqst (o : SlotOp) : Statement (.sqst o) :=
  of_slot rfl rfl (by decide) (by decide) fun _ => ⟨_, rfl, .inl rfl⟩
theorem invm (o : SlotOp) : Statement (.invm o) :=
  of_slot rfl rfl (by decide) (by decide) fun _ => ⟨_, rfl, .inl rfl⟩
theorem getx (o : SlotOp) : Statement (.getx o) :=
  of_slot rfl rfl (by decide) (by decide) fun _ => ⟨_, rfl, .inl rfl⟩
theorem setx (o : SlotOp) : Statement (.setx o) :=
  of_slot rfl rfl (by decide) (by decide) fun _ => ⟨_, rfl, .inl rfl⟩
theorem bundleFetch (w : Who) : Statement (.bundleFetch w) := of_none rfl rfl
theorem parityReissue (w : Who) : Statement (.parityReissue w) := of_none rfl rfl
theorem chainStart (e : EngineId) : Statement (.chainStart e) := of_none rfl rfl
theorem commandComplete (c : ChainId) : Statement (.commandComplete c) := of_none rfl rfl
theorem cpy (r : Rec) : Statement (.cpy r) := of_rec rfl rfl (by decide) rfl
theorem cpg (r : Rec) : Statement (.cpg r) := of_rec rfl rfl (by decide) rfl
theorem cpm (r : Rec) : Statement (.cpm r) := of_rec rfl rfl (by decide) rfl
theorem mmp (r : Rec) : Statement (.mmp r) := of_rec rfl rfl (by decide) rfl
theorem mdr (r : Rec) : Statement (.mdr r) := of_rec rfl rfl (by decide) rfl
theorem atn (r : Rec) : Statement (.atn r) := of_rec rfl rfl (by decide) rfl
theorem kap (r : Rec) : Statement (.kap r) := of_rec rfl rfl (by decide) rfl
theorem ktr (r : Rec) : Statement (.ktr r) := of_rec rfl rfl (by decide) rfl
theorem kfk (r : Rec) : Statement (.kfk r) := of_rec rfl rfl (by decide) rfl
theorem mig (r : Rec) : Statement (.mig r) := of_rec rfl rfl (by decide) rfl
theorem pas (r : Rec) : Statement (.pas r) := of_rec rfl rfl (by decide) rfl
theorem jmp (r : Rec) : Statement (.jmp r) := of_rec rfl rfl (by decide) rfl
theorem lpc (r : Rec) : Statement (.lpc r) := of_rec rfl rfl (by decide) rfl
theorem ifz (r : Rec) : Statement (.ifz r) := of_rec rfl rfl (by decide) rfl
theorem ifnz (r : Rec) : Statement (.ifnz r) := of_rec rfl rfl (by decide) rfl
theorem sgd (r : Rec) : Statement (.sgd r) := of_rec rfl rfl (by decide) rfl
theorem nte (r : Rec) : Statement (.nte r) := of_rec rfl rfl (by decide) rfl
theorem endRec (r : Rec) : Statement (.endRec r) := of_rec rfl rfl (by decide) rfl
theorem hostDeposit (ctx : Fin 64) (slot : Fin 512) (v : W64) : Statement (.hostDeposit ctx slot v) := of_none rfl rfl
theorem hostTake (ctx : Fin 64) (v : W64) : Statement (.hostTake ctx v) := of_none rfl rfl
theorem registerWriteOther (ctx : Fin 64) (off : BitVec 16) (v : W64) : Statement (.registerWriteOther ctx off v) := of_none rfl rfl
theorem launch (die : Fin 16) : Statement (.launch die) := of_none rfl rfl
theorem launchTagReread (die : Fin 16) : Statement (.launchTagReread die) := of_none rfl rfl
theorem constantBankLoad (die : Fin 16) (core : Fin 128) : Statement (.constantBankLoad die core) := of_none rfl rfl
theorem dispatchTick (die : Fin 16) : Statement (.dispatchTick die) := of_none rfl rfl
theorem jobEnd (die : Fin 16) (core : Fin 128) : Statement (.jobEnd die core) := of_none rfl rfl
theorem nodeComplete (ctx : Fin 64) (graph : DevAddr) (node : BitVec 16) : Statement (.nodeComplete ctx graph node) := of_none rfl rfl
theorem poolAgeing (die : Fin 16) : Statement (.poolAgeing die) := of_none rfl rfl
theorem poolOverflowEnter (die : Fin 16) : Statement (.poolOverflowEnter die) := of_none rfl rfl
theorem drainExpire (ctx : Fin 64) (graph : DevAddr) (node : BitVec 16) : Statement (.drainExpire ctx graph node) := of_none rfl rfl
theorem checkpointSave (ctx : Fin 64) (graph : DevAddr) (node : BitVec 16) : Statement (.checkpointSave ctx graph node) := of_none rfl rfl
theorem npreExpire (die : Fin 16) (core : Fin 128) : Statement (.npreExpire die core) := of_none rfl rfl
theorem thermalStep (die : Fin 16) (cluster : Fin 8) (hot : Bool) : Statement (.thermalStep die cluster hot) := of_none rfl rfl
theorem scrubSweep (die : Fin 16) : Statement (.scrubSweep die) := of_none rfl rfl
theorem tierFaultService (die : Fin 16) (readFails : Bool) : Statement (.tierFaultService die readFails) := of_none rfl rfl
theorem remoteWriteLand (w : RemoteWrite) : Statement (.remoteWriteLand w) := of_none rfl rfl
theorem markerLand (k : Marker) : Statement (.markerLand k) := of_none rfl rfl
theorem allowanceReturn (ctx : Fin 64) (win : Fin 64) (bytes : W32) (refused : Bool) : Statement (.allowanceReturn ctx win bytes refused) := of_none rfl rfl
theorem slotBoundary (port : Fin 72) (sender : Option (BitVec 10)) (matching : Fin 32) : Statement (.slotBoundary port sender matching) := of_none rfl rfl
theorem relaySend (port : Fin 72) : Statement (.relaySend port) := of_none rfl rfl
theorem flitReceive (port : Fin 72) (f : Flit) (good : Bool) : Statement (.flitReceive port f good) := of_none rfl rfl
theorem flitAck (port : Fin 72) (peer : BitVec 10) (upto : BitVec 24) : Statement (.flitAck port peer upto) := of_none rfl rfl
theorem flitNak (port : Fin 72) (peer : BitVec 10) (first : BitVec 24) : Statement (.flitNak port peer first) := of_none rfl rfl
theorem flitReplayTimeout (port : Fin 72) (peer : BitVec 10) : Statement (.flitReplayTimeout port peer) := of_none rfl rfl
theorem lossOfLight (port : Fin 72) (lm : Fin 4) : Statement (.lossOfLight port lm) := of_none rfl rfl
theorem portPark (port : Fin 72) : Statement (.portPark port) := of_none rfl rfl
theorem portWake (port : Fin 72) : Statement (.portWake port) := of_none rfl rfl
theorem wavelengthJoin (port : Fin 72) (wl : Fin 16) : Statement (.wavelengthJoin port wl) := of_none rfl rfl
theorem stackedLineRead (addr : LocAddr) (f : LineFaults) : Statement (.stackedLineRead addr f) := of_none rfl rfl
theorem scratchpadFreeze (e : ScratchpadError) : Statement (.scratchpadFreeze e) :=
  of_none rfl rfl
theorem freezeExpire (d : FreezeDomain) : Statement (.freezeExpire d) := of_none rfl rfl
theorem dieReset (die : Fin 16) : Statement (.dieReset die) := of_none rfl rfl
theorem boot (images : List FwImage) : Statement (.boot images) := of_none rfl rfl
theorem eventReadIndexWrite (v : W64) : Statement (.eventReadIndexWrite v) := of_none rfl rfl
theorem stackedLineWrite (addr : LocAddr) (data : Line) (f : LineFaults) : Statement (.stackedLineWrite addr data f) := of_none rfl rfl
theorem bankRetiredByHeat (die : Fin 16) (stack : Fin 2) (layer : Fin 16) (bank : Fin 32) : Statement (.bankRetiredByHeat die stack layer bank) := of_none rfl rfl
theorem ret : Statement .ret := of_none rfl rfl
theorem rdv : Statement .rdv := of_none rfl rfl
theorem exit : Statement .exit := of_none rfl rfl
theorem yield : Statement .yield := of_none rfl rfl
theorem eret : Statement .eret := of_none rfl rfl
theorem xpre : Statement .xpre := of_none rfl rfl
theorem nop : Statement .nop := of_none rfl rfl
theorem disposeReplay : Statement .disposeReplay := of_none rfl rfl
theorem disposeNext : Statement .disposeNext := of_none rfl rfl
theorem disposeFail : Statement .disposeFail := of_none rfl rfl
theorem disposeChainReplay : Statement .disposeChainReplay := of_none rfl rfl
theorem disposeChainStop : Statement .disposeChainStop := of_none rfl rfl
theorem readrec : Statement .readrec := of_none rfl rfl
theorem evring : Statement .evring := of_none rfl rfl
theorem resync : Statement .resync := of_none rfl rfl
theorem ctxload : Statement .ctxload := of_none rfl rfl
theorem ctxunload : Statement .ctxunload := of_none rfl rfl
theorem ccbset : Statement .ccbset := of_none rfl rfl
theorem winset : Statement .winset := of_none rfl rfl
theorem remap : Statement .remap := of_none rfl rfl
theorem migrate : Statement .migrate := of_none rfl rfl
theorem matchset : Statement .matchset := of_none rfl rfl
theorem parkset : Statement .parkset := of_none rfl rfl
theorem keyset : Statement .keyset := of_none rfl rfl
theorem mcast : Statement .mcast := of_none rfl rfl
theorem attest : Statement .attest := of_none rfl rfl
theorem fusemin : Statement .fusemin := of_none rfl rfl

end Sys2Proof.Laws.Encoding
end

