-- ==== Sys2Proof/Tests/Slice0.lean ====
section
/-! SUPPORT. Tests: ill-formed terms that the checks refuse, words of the spec that decode, single steps with results
worked out by hand from the rules, and for every statement a state that meets its hypotheses. -/

namespace Sys2Proof.Tests

set_option maxRecDepth 10000
set_option Elab.async false

open Sys2Proof Sys2Proof.Machine

/-! ### Helpers -/

/-- A result is there and meets a test. -/
def okAnd {ε α : Type} (x : Except ε α) (p : α → Bool) : Bool :=
  match x with
  | .ok a => p a
  | .error _ => false

/-- A result is there. -/
def isOk {ε α : Type} (x : Except ε α) : Bool := okAnd x fun _ => true

/-- What an instruction makes of a state. -/
def after (i : Instr) (s : State) : State :=
  match exec i s with
  | .next t => t
  | _ => s

/-- A slot op without operands. -/
def op0 : SlotOp := { dst := .none, a := .tile 0, b := .tile 0, c := .tile 0, ty := .i8, pred := 0, opx := 0 }

/-- The job of the test core. -/
def job : Job := { ctx := 0, graph := 0x40, node := 0, index := 0, width := 1, prio := 3, placedAt := 0 }

/-- The test core: a job, streams that run, tiles, masks and scalars to read. -/
def core0 : Core :=
  { job := some job
    v := [(1, 0x07), (2, 0x0304), (8, 0x3F800000), (9, 0x40000000)]
    p := [(1, 0x5), (2, 0x3)]
    l := { status := .running, s := [(1, 0x40), (2, 3)], a := [(1, 0x100000040), (2, 0x200000080), (3, 0x200)] }
    x := { status := .running, s := [(1, 0x40), (2, 3)], rows := 2, cols := 32 }
    st := { status := .running, s := [(1, 0x40), (2, 3)], a := [(1, 0x100000040), (2, 0x200000080), (3, 0x200)] } }

/-- The control block of the test context: root at 0x1000, resident, selfmap, tuple context 5, grants of two
granules of each scratchpad, four groups, four slots, eight buffer objects, every layer of stack 0. -/
def ccb0 : Tbl W64 :=
  [(0, 0x1000), (1, 0xC000000000050700), (2, 0x00100040000061A8), (3, 0x0000004000000040), (6, 0x8000),
   (9, 0x80000400), (10, 0x20000400), (11, 0x100480), (12, 0xFFFF)]

/-- Tables of the test context: its first 2 MiB of device space are the 2 MiB at 0x200000 (14 R335, R336). -/
def tables0 : Memory := [(0x1000, 0x01), (0x1001, 0x20), (0x2000, 0x01), (0x2001, 0x30), (0x3000, 0x01), (0x3001, 0x40),
  (0x4000, 0x9F), (0x4002, 0x20)]

/-- The test die: slot 1 valid for two parties, group 2 with this core as a member, a buffer object. -/
def die0 : Die :=
  { slots := [(1, { valid := true, parties := 2 })]
    groups := [(2, { mask := 3, need := 3 })]
    bufs := [(0x480, { ebytes := 64, nent := 4, base := 0x100, prod := 1, claim := 2 })] }

/-- The test die with a valid slot 4, which the test context does not hold. -/
def die4 : Die := { die0 with slots := [(4, { valid := true, parties := 2 })] }

/-- The module around a core. -/
def world (c : Core) : Module :=
  { phys := tables0, cores := [(0, c)], dies := [(0, die0)], ccbs := [(0, ccb0)] }

/-- A bundle of a stream of die 0, core 0 in progress. -/
def at_ (m : Module) (q : StreamName) : State := { m := m, pre := some m, cur := ⟨0, 0, q⟩ }

/-- The test state of each stream. -/
def sL : State := at_ (world core0) .l
def sX : State := at_ (world core0) .x
def sS : State := at_ (world core0) .s

/-- The test state of a stream with its stream record changed. -/
def with_ (q : StreamName) (f : Stream → Stream) : State := at_ (world (core0.setStream q (f (core0.stream q)))) q

/-! ### Control, traps, address ops -/

/-- BranchTransfersOnItsCondition: a condition that holds and one that does not, for each branch. -/
theorem test_hyp_BranchTransfersOnItsCondition :
    (∃ c dest, branchRule sX (.br 3) = some (c, dest) ∧ c) ∧
    (∃ c dest, branchRule sX (.brz 0 3) = some (c, dest) ∧ c) ∧ (∃ c dest, branchRule sX (.brz 1 3) = some (c, dest) ∧ ¬c) ∧
    (∃ c dest, branchRule sX (.brnz 1 3) = some (c, dest) ∧ c) ∧
    (∃ c dest, branchRule sX (.brp 1 .any 3) = some (c, dest) ∧ c) ∧
    (∃ c dest, branchRule sX (.brqe .qlx 3) = some (c, dest) ∧ c) ∧ sX.verdict = .go := by
  refine ⟨⟨_, _, rfl, trivial⟩, ⟨_, _, rfl, by decide +kernel⟩, ⟨_, _, rfl, by decide +kernel⟩, ⟨_, _, rfl, by decide +kernel⟩,
    ⟨_, _, rfl, ⟨0, by decide +kernel⟩⟩, ⟨_, _, rfl, ⟨rfl, fun r h => ?_⟩⟩, rfl⟩
  cases h

/-- LoopsRunTheirBodies: counts 0 and 1, three and four entries, one pass and two. -/
theorem test_hyp_LoopsRunTheirBodies :
    let e : LoopEntry := { start := 0x40, stop := 0x80, remaining := 2 }
    let s3 := with_ .x fun x => { x with loops := List.replicate 3 e }
    let s4 := with_ .x fun x => { x with loops := List.replicate 4 e }
    s3.srcStrm.loops.length < 4 ∧ 4 ≤ s4.srcStrm.loops.length ∧ s3.srcStrm.sreg 0 = 0 ∧ s4.srcStrm.sreg 2 = 3 ∧
      s3.verdict = .go ∧ s4.verdict = .go ∧
      ∃ x : Stream, x.handler = none ∧ x.loops = [e] ∧ 1 ≤ e.remaining := by
  refine ⟨by decide +kernel, by decide +kernel, by decide +kernel, by decide +kernel, rfl, rfl, ⟨{ loops := [_] }, rfl, rfl, by decide⟩⟩

/-- CallsReturnsAndIndirectJumps: fifteen and sixteen calls, a return, an aligned and a misaligned target. -/
theorem test_hyp_CallsReturnsAndIndirectJumps :
    let s15 := with_ .x fun x => { x with calls := List.replicate 15 0x40 }
    let s16 := with_ .x fun x => { x with calls := List.replicate 16 0x40 }
    s15.verdict = .go ∧ s16.verdict = .go ∧
    s15.srcStrm.calls.length < 16 ∧ 16 ≤ s16.srcStrm.calls.length ∧ (∃ a as, s15.srcStrm.calls = a :: as) ∧
      sX.srcStrm.calls = [] ∧ sX.srcStrm.sreg 1 % 64 = 0 ∧ sX.srcStrm.sreg 2 % 64 ≠ 0 ∧ sS.srcStrm.areg 1 % 64 = 0 := by
  refine ⟨rfl, rfl, by decide +kernel, by decide +kernel, ⟨_, _, rfl⟩, by decide +kernel⟩

/-- A KERN node of class ANY that runs on the test core, and one that waits in the pool with a higher priority. -/
def node0 (st : NodeState) (n : BitVec 16) : NodeRun :=
  { node := n, die := 0, image := 0, st := st, readyAt := 0, seq := 0, prio := 3, decision := .none, heldBack := false
    again := false, jobsLeft := 1, saved := [], savedOld := [], clk := [], avoid := none }
def inst0 (ns : List NodeRun) : Machine.Instance :=
  { ctx := 0, graph := 0x40, home := 0, image := 0, prio := 3, tokens := 1, sig := 0, nnodes := 2, pending := [], iter := []
    nodes := ns, clks := [], reported := false }
def worldNodes (pr : Nat) (region : Option W64) : Module :=
  { world { core0 with region := region } with
    graphs := [inst0 [node0 (.running [0] 0 3) 0, node0 .waiting 1]]
    dies := [(0, { die0 with pool := [{ ctx := 0, graph := 0x40, node := 1, prio := pr, readyAt := 0, levelAt := 0, seq := 0 }] })] }

/-- JobControlTakesEffect: a higher node that waits, none that does, an open region, none. -/
theorem test_hyp_JobControlTakesEffect :
    let s := at_ (worldNodes 4 none) .x
    let t := at_ (worldNodes 3 (some 100)) .x
    (∃ i n cs c pr, jobNode s.src s.cur.die s.cur.core = some (i, n) ∧ n.st = .running cs c pr ∧
      higherWaits s.src s.cur.die s.cur.core pr = true ∧ regionOpen s.src n = false) ∧
    (∃ i n cs c pr, jobNode t.src t.cur.die t.cur.core = some (i, n) ∧ n.st = .running cs c pr ∧
      higherWaits t.src t.cur.die t.cur.core pr = false ∧ regionOpen t.src n = true) ∧
    s.srcCore.region = none ∧ actionHeld s.src s.cur.die s.cur.core = false ∧ t.srcCore.region ≠ none ∧
    jobNode sX.m sX.cur.die sX.cur.core = none ∧ s.verdict = .go := by
  refine ⟨⟨_, _, _, _, _, rfl, rfl, by decide +kernel⟩, ⟨_, _, _, _, _, rfl, rfl, by decide +kernel⟩,
    by decide +kernel⟩

/-- The test core's node with a decision, its region open, and that of core 1 beside it. -/
def worldHeld (x : Decision) (held : Bool) (other : Option W64) : Module :=
  { world { core0 with region := some 100 } with
    cores := [(0, { core0 with region := some 100 }), (1, { job := some job, region := other })]
    graphs := [inst0 [{ node0 (.running [0, 1] 0 3) 0 with decision := x, heldBack := held }]] }

/-- JobControlTakesEffect, XPRE: no action, one that waits while another region is open, a KILL and a CHECKPOINT that do not. -/
theorem test_hyp_JobControl_xpre :
    let closed := fun (m : Module) => m.setCore 0 0 { m.core 0 0 with region := none }
    let is := fun (x : Decision) (held open_ : Bool) => ∃ i n,
      jobNode (worldHeld x held (if open_ then some 7 else none)) 0 0 = some (i, n) ∧ n.heldBack = held ∧ n.decision = x ∧
      (n.cores.any fun c => ((closed (worldHeld x held (if open_ then some 7 else none))).core n.die c).region.isSome) = open_
    is .none false false ∧ is .kill true true ∧ is .kill true false ∧ is (.checkpoint none) true false := by
  refine ⟨⟨_, _, rfl, ?_⟩, ⟨_, _, rfl, ?_⟩, ⟨_, _, rfl, ?_⟩, ⟨_, _, rfl, ?_⟩⟩ <;> decide +kernel

/-- RendezvousRetiresTogether: both partners level, one behind and running, one behind and exited. -/
theorem test_hyp_RendezvousRetiresTogether :
    let behind := fun (s : State) (n : Nat) (p : StreamName) => decide (p ≠ s.cur.stream) && decide ((s.srcCore.stream p).rdvs < n)
    let none_ := at_ (world { core0 with l := { core0.l with rdvs := 1 }, st := { core0.st with rdvs := 1 } }) .x
    let gone := at_ (world { core0 with l := { core0.l with status := .exited } }) .x
    (StreamName.all.all fun p => !behind none_ 1 p) = true ∧ behind sX 1 .l = true ∧ sX.srcCore.l.status ≠ .exited ∧
      sX.srcCore.st.status ≠ .exited ∧ behind gone 1 .l = true ∧ gone.srcCore.l.status = .exited ∧ sX.srcStrm.rdvs = 0 ∧
      sX.srcStrm.cwait ≠ .rdv ∧ sX.verdict = .go := by
  decide +kernel

/-- The test module with another group 2. -/
def worldGroup (g : Machine.Group) : Module := { world core0 with dies := [(0, { die0 with groups := [(2, g)] })] }

/-- The bits of a checkpointed member that ran on core 0, which has arrived or not. -/
def heldBits (arr : Bool) : HeldBits := { ctx := 0, graph := 0x40, node := 1, index := 0, party := 0, need := true, arr := arr }

/-- GroupOpsFollowThePseudocode: the grant's last group and the first beyond it; a member whose arrival completes the phase,
one whose does not, one that is not required, one that has arrived; a core that is no member, one whose bit is another job's;
waits for a phase and a phase that has completed. -/
theorem test_hyp_GroupOpsFollowThePseudocode :
    let b := BitVec.ofNat 128 (2 ^ 0)
    let at2 := fun (g : Machine.Group) => (at_ (worldGroup g) .x).src.group 0 2
    let last := at2 { mask := 3, need := 3, arr := 2 }
    let first := at2 { mask := 3, need := 3 }
    let later := at2 { mask := 3, need := 2 }
    let done := at2 { mask := 3, need := 3, arr := 1 }
    let wait := fun (w : Wait) => (with_ .x fun x => { x with cwait := w }).srcStrm.cwait
    grantGroup sX.src sX.srcCore.ctx 3 = true ∧ grantGroup sX.src sX.srcCore.ctx 4 = false ∧
    grantGroup sX.src sX.srcCore.ctx 2 = true ∧ bitOut sX.src 0 2 0 = false ∧ bitOut (worldGroup { mask := 3, out := [heldBits true] }) 0 2 0 = true ∧
    (∀ h ∈ (at2 { mask := 3, out := [heldBits true] }).out, h.arr = h.need) ∧ (heldBits false).arr ≠ (heldBits false).need ∧
    releaseWaits sX.src sX.cur false = false ∧ wait .none = .none ∧ wait (.gbarNext 1) = .gbarNext 1 ∧ first.phase ≠ 1 ∧
    last.mask &&& b ≠ 0 ∧ last.need &&& b ≠ 0 ∧ last.arr &&& b = 0 ∧ last.arr ||| b = last.need ∧ first.arr ||| b ≠ first.need ∧
    later.mask &&& b ≠ 0 ∧ later.need &&& b = 0 ∧ done.arr &&& b ≠ 0 ∧ (at2 { mask := 2, need := 2 }).mask &&& b = 0 ∧
    wait (.gbar 2 0) = .gbar 2 first.phase ∧ wait (.gbarDone []) = .gbarDone [] ∧ sX.verdict = .go := by
  decide +kernel

/-- WaitsReturnOnceTheirConditionHolds, WAITS: an aligned, mapped, sound signal that is 0, one that is positive, a misaligned
one, and a stream that has been woken. -/
theorem test_hyp_WaitsReturn_signal :
    let pos := at_ { world core0 with phys := tables0 ++ [(0x200040, 1)] } .x
    let tr := fun (s : State) => translate s.src (some (.sye s.cur.die)) s.srcCore.ctx .read (s.srcStrm.sreg 1 % 2 ^ 57)
    sX.srcStrm.cwait = .none ∧ sX.srcStrm.sreg 1 % 2 ^ 57 % 8 = 0 ∧ sX.srcStrm.sreg 2 % 2 ^ 57 % 8 ≠ 0 ∧
    okAnd (tr sX) (fun r => !(Loc.phys r.1).frozen sX.src && !poisoned sX.src r.1 && decide ((BitVec.ofNat 64 (Memory.read sX.src.phys r.1 8)).toInt ≤ 0)) = true ∧
    okAnd (tr pos) (fun r => !(Loc.phys r.1).frozen pos.src && !poisoned pos.src r.1 &&
      decide (0 < (BitVec.ofNat 64 (Memory.read pos.src.phys r.1 8)).toInt)) = true ∧
    (with_ .x fun x => { x with cwait := .woken [] }).srcStrm.cwait = .woken [] := by
  decide +kernel

/-- The test module with another slot 1. -/
def worldSlot (b : Barrier) : Module := { world core0 with dies := [(0, { die0 with slots := [(1, b)] })] }

/-- WaitsReturnOnceTheirConditionHolds, WAITB: a slot that has passed the phase, one that has not, one with ovr, an invalid
one, the last granted and the first ungranted slot. -/
theorem test_hyp_WaitsReturn_slot :
    let done := at_ (worldSlot { valid := true, parties := 2, phase := 1 }) .x
    let open_ := at_ (worldSlot { valid := true, parties := 2 }) .x
    let ovr := at_ (worldSlot { valid := true, parties := 2, ovr := true }) .x
    let cur := at_ { worldSlot { valid := true, parties := 2 } with
      cores := [(0, { core0 with arrivals := [(1, some 0)] })] } .x
    grantSlot sX.src sX.srcCore.ctx 3 = true ∧ grantSlot sX.src sX.srcCore.ctx 4 = false ∧
    (({ sX.m with dies := [(0, die4)] } : Module).barrier 0 4).valid = true ∧
    grantSlot sX.src sX.srcCore.ctx 1 = true ∧ (done.src.barrier 0 1).valid = true ∧ (done.src.barrier 0 1).ovr = false ∧
    waitbTarget done 1 ≠ (done.src.barrier 0 1).phase.setWidth 16 ∧
    atOrBefore (waitbTarget done 1) ((done.src.barrier 0 1).phase.setWidth 16) = true ∧
    waitbTarget cur 1 = (cur.src.barrier 0 1).phase.setWidth 16 ∧ (open_.src.barrier 0 2).valid = false ∧
    (ovr.src.barrier 0 1).valid = true ∧ (ovr.src.barrier 0 1).ovr = true ∧ (ovr.src.barrier 0 1).raced = none ∧
    cur.srcStrm.cwait = .none ∧ cur.verdict = .go := by
  decide +kernel

/-- TrapsWriteTheirRecords: a trap of the held class and one of the continued class. -/
theorem test_hyp_TrapsWriteTheirRecords :
    let t : Trap := { code := 0x14, place := 1, sub := 255 }
    trapClass t.code = 0 ∧ isDouble (sX.m.strm sX.cur) t = false ∧ t.code < 256 ∧ t.sub < 256 ∧ t.place < 16 ∧ t.stamp = none ∧
      isDouble (sX.m.strm sX.cur) { code := 0x0B, place := 5 } = false := by
  decide +kernel

/-- AddressOpsWriteTheirRegister: a modifier register of each unit, one of a reserved mode, lengths 0, 1, 2 and 3. -/
theorem test_hyp_AddressOpsWriteTheirRegister :
    let r := fun (n : Nat) => ({ inc := 5, len := BitVec.ofNat 32 n, mode := 0 } : MReg)
    (r 0).unit = some 1 ∧ ({ mode := 1 } : MReg).unit = some 64 ∧ ({ mode := 2 } : MReg).unit = some 4096 ∧
      ({ mode := 3 } : MReg).unit = none ∧ (r 0).len.toNat = 0 ∧ (r 1).len.toNat * 1 = 1 ∧
      (2 : Int) ^ 1 ≤ (r 3).len.toNat ∧ ((r 3).len.toNat : Int) < 2 ^ (1 + 1) ∧ (2 : Int) ^ 1 ≤ (r 2).len.toNat ∧
      (with_ .s fun x => { x with m := [(4, r 3)] }).srcStrm.mreg 4 = r 3 ∧ sS.verdict = .go := by
  decide +kernel

/-! ### Element-wise ops, compares, reductions -/

/-- ElementwiseScalarFormWritesItsResult: an integer op of S, a float op and a conversion of X, FSCL of L. -/
theorem test_hyp_ElementwiseScalarFormWritesItsResult :
    let i : SlotOp := { op0 with dst := .s 5, a := .s 1, b := .lit 7, ty := .i64 }
    let f : SlotOp := { op0 with dst := .s 5, a := .lit 0x3F800000, b := .s 2 }
    let v : SlotOp := { op0 with dst := .s 5, a := .s 2, ty := .f32, opx := 2 }
    let n : SlotOp := { op0 with dst := .a 5, a := .s 2, b := .lit 3, ty := .f32 }
    (∃ r a b c u, ElemOf sS (.iadd i) r ∧ (Instr.iadd i).okIn .s = true ∧ isScalar (.iadd i) r.op = true ∧
      Sources sS (.iadd i) r a b c u) ∧
    (∃ r a b c u, ElemOf sX (.faddF32 f) r ∧ (Instr.faddF32 f).okIn .x = true ∧ isScalar (.faddF32 f) r.op = true ∧
      Sources sX (.faddF32 f) r a b c u) ∧
    (∃ r a b c u, ElemOf sX (.cvif v) r ∧ (Instr.cvif v).okIn .x = true ∧ isScalar (.cvif v) r.op = true ∧
      Sources sX (.cvif v) r a b c u) ∧
    (∃ r a b c u, ElemOf sL (.fscl n) r ∧ (Instr.fscl n).okIn .l = true ∧ isScalar (.fscl n) r.op = true ∧
      Sources sL (.fscl n) r a b c u) ∧ sS.strm = sS.srcStrm ∧ sS.verdict = .go := by
  refine ⟨⟨_, _, _, _, _, .int rfl, by decide +kernel, by decide +kernel, _, _, rfl, rfl, rfl⟩,
    ⟨_, _, _, _, _, .float rfl, by decide +kernel, by decide +kernel, _, _, rfl, rfl, rfl⟩,
    ⟨_, _, _, _, _, .float rfl, by decide +kernel, by decide +kernel, _, _, rfl, rfl, rfl⟩,
    ⟨_, _, _, _, _, .scale rfl, by decide +kernel, by decide +kernel, _, _, rfl, rfl, rfl⟩, rfl, rfl⟩

/-- ElementwiseTileFormWritesEveryElement: tiles under a mask, to a register, a queue and nothing. -/
theorem test_hyp_ElementwiseTileFormWritesEveryElement :
    let o := fun (d : Dst) => ({ op0 with dst := d, a := .tile 1, b := .tile 2, pred := 1, ty := .n16 } : SlotOp)
    (∀ d ∈ [Dst.v 3, .qxs, .none], ∃ r a b c u, ElemOf sX (.iadd (o d)) r ∧ (Instr.iadd (o d)).okIn .x = true ∧
      isScalar (.iadd (o d)) r.op = false ∧ tooBig sX r.ta = false ∧ tooBig sX r.td = false ∧
      Sources sX (.iadd (o d)) r a b c u) ∧
    sX.core.qxs.entries.length < 8 ∧ sX.core.qxs.ring = none ∧ sX.srcStrm.jord = 0 ∧ sX.verdict = .go := by
  refine ⟨?_, by decide, rfl, rfl, rfl⟩
  intro d h
  simp only [List.mem_cons, List.not_mem_nil, or_false] at h
  rcases h with rfl | rfl | rfl <;>
    exact ⟨_, _, _, _, _, .int rfl, by decide +kernel, by decide +kernel, by decide +kernel, by decide +kernel, _, _, rfl, rfl, rfl⟩

/-- JetFormWritesEveryCoefficient: order 1 and order 3. -/
theorem test_hyp_JetFormWritesEveryCoefficient :
    let o : SlotOp := { op0 with dst := .v 4, a := .tile 8, b := .lit 0x40000000 }
    let s1 := with_ .x fun x => { x with jord := 1, cols := 8 }
    let s3 := with_ .x fun x => { x with jord := 3, cols := 8 }
    ∀ s ∈ [s1, s3], ∃ r, ElemOf s (.fmulF32 o) r ∧ (Instr.fmulF32 o).okIn .x = true ∧
      isScalar (.fmulF32 o) r.op = false ∧ jetAware (.fmulF32 o) = true ∧ s.srcStrm.jord.toNat ≠ 0 ∧
      tooBig s r.ta = false ∧ tooBig s r.td = false ∧ r.op.dst = .v 4 ∧ 4 % jetAlign s.srcStrm.jord.toNat = 0 ∧
      okAnd (jetSrc s 3 r.ta s.srcStrm.jord.toNat r.op.a) (fun x => okAnd (jetSrc x.2 3 r.tb s.srcStrm.jord.toNat r.op.b)
        fun y => isOk (jetSrc y.2 3 r.tc s.srcStrm.jord.toNat r.op.c)) = true := by
  intro o s1 s3 s h
  simp only [List.mem_cons, List.not_mem_nil, or_false] at h
  rcases h with rfl | rfl <;>
    exact ⟨_, .float rfl, by decide +kernel⟩

/-- JetFormWritesEveryCoefficient: a group that is not aligned and a queue. -/
theorem test_hyp_Jet_misaligned :
    let o := fun (d : Dst) => ({ op0 with dst := d, a := .tile 8, b := .lit 0x40000000 } : SlotOp)
    let s := with_ .x fun x => { x with jord := 3, cols := 8 }
    ∀ d ∈ [Dst.v 5, .qxs], ∃ r, ElemOf s (.fmulF32 (o d)) r ∧ (Instr.fmulF32 (o d)).okIn .x = true ∧
      isScalar (.fmulF32 (o d)) r.op = false ∧ jetAware (.fmulF32 (o d)) = true ∧ s.srcStrm.jord ≠ 0 ∧
      (r.op.dst = .qxs ∨ r.op.dst = .v 5) ∧ 5 % jetAlign s.srcStrm.jord.toNat ≠ 0 := by
  intro o s d h
  simp only [List.mem_cons, List.not_mem_nil, or_false] at h
  rcases h with rfl | rfl <;> exact ⟨_, .float rfl, by decide +kernel⟩

/-- e and e^100 in binary32: the implementation's choice among the allowed results stands for both. -/
theorem exp_choice (w : Nat) (v : Dy) (lo : Int) (n : Nat) (p : Nat × Flags → Prop) (hu : unpack .f32 w = .fin v)
    (hk : boundKeys .f32 (expDy v) (boundOf .f32 (expDy v) 1 none) = (lo, lo + n))
    (h : ∀ r : Fin (n + 1), p (atKey .f32 0 (expDy v) false (lo + (r.val : Int)))) : p (specB .exp .f32 0 w) := by
  have hr : specRes .exp .f32 w = .val (expDy v) false := by unfold specRes; rw [hu]; rfl
  unfold specB spec32
  rw [if_pos rfl]
  simp only [hr, bounded, show SpecFn.exp.ulps .f32 = 1 from rfl, show SpecFn.exp.absBound .f32 = none from rfl, hk]
  have e : (lo + (n : Int) - lo).toNat = n := by omega
  rw [e]
  exact h ⟨_, Nat.mod_lt _ (Nat.succ_pos n)⟩

/-- FloatArithmeticRoundsOnce, special functions: results that are numbers, one that overflows and one that does not, 2 and 3
with whole values, a negative number. -/
theorem test_hyp_Float_special :
    (specB .exp .f32 0 0x3F800000).2 &&& fOF = 0 ∧ (specB .exp .f32 0 0x42C80000).2 &&& fOF ≠ 0 ∧
    (let u := unpack .f32
     let is := fun (fn : SpecFn) (w : Nat) (p : Dy → Bool) => (match specRes fn .f32 w with | .val v _ => p v | _ => false) = true
     is .exp 0x3F800000 (fun v => decide (0 < v.m ∧ (2 : ℚ) ^ (1 : Int) ≤ dyQ v ∧ dyQ v < (2 : ℚ) ^ (2 : Int))) ∧
     is .exp 0x42C80000 (fun v => decide (0 < v.m)) ∧ is .rsq 0x40000000 (fun v => decide (0 < v.m)) ∧
     dyQ (u 0x40400000).dy = 3 ∧ dyQ (u 0x40000000).dy = (2 : ℚ) ^ (1 : Int) ∧ dyQ (u 0x3F800000).dy = 1 ∧
     dyQ (u 0xBF800000).dy < 0 ∧ (u 0x40400000).isNan = false ∧ (u 0x40400000).isInf = false ∧
     (u 0xBF800000).isNan = false ∧ (u 0xBF800000).isInf = false) := by
  refine ⟨exp_choice _ ⟨2 ^ 23, -23⟩ 1076754516 1 (fun r => r.2 &&& fOF = 0) (by decide +kernel) (by decide +kernel)
      (by decide +kernel),
    exp_choice _ ⟨13107200, -17⟩ 2139095040 0 (fun r => r.2 &&& fOF ≠ 0) (by decide +kernel) (by decide +kernel)
      (by decide +kernel), by decide +kernel⟩

/-- FloatArithmeticRoundsOnce: in binary32 a number, both zeros, both infinities, a quiet and a signalling NaN. -/
theorem test_hyp_FloatArithmeticRoundsOnce :
    let u := unpack .f32
    u 0x3F800000 = .fin ⟨2 ^ 23, -23⟩ ∧ u 0 = .zero false ∧ u 0x80000000 = .zero true ∧ u 0x7F800000 = .inf false ∧
      u 0xFF800000 = .inf true ∧ u 0x7FC00000 = .nan false ∧ u 0x7F800001 = .nan true := by
  decide +kernel

/-- RoundingChoosesTheRightNeighbour: 1 + 2^-24 in binary32 is inexact in every mode and overflows in none; it lies midway
between its result to nearest and another value. -/
theorem test_hyp_RoundingChoosesTheRightNeighbour :
    (let q := fun (x : Nat) => dyQ (unpack .f32 x).dy
     let v := dyQ ⟨2 ^ 24 + 1, -24⟩
     let w := (rndDy .f32 0 ⟨2 ^ 24 + 1, -24⟩).1
     |q w - v| = |q 0x3F800001 - v| ∧ q 0x3F800001 ≠ q w) ∧
    ∀ mode : Fin 4, (rndDy .f32 mode.val ⟨2 ^ 24 + 1, -24⟩).2 &&& fOF = 0 ∧ (rndDy .f32 mode.val ⟨2 ^ 24 + 1, -24⟩).2 &&& fNX ≠ 0 := by
  decide +kernel

/-- ComparesSelectsAndMasks: compares in both forms, a select and mask ops. -/
theorem test_hyp_ComparesSelectsAndMasks :
    let t : SlotOp := { op0 with dst := .p 3, a := .tile 1, b := .tile 2, ty := .n16, opx := 5 }
    let c : SlotOp := { op0 with dst := .s 3, a := .s 1, b := .lit 9, ty := .f32, opx := 6 }
    let sel : SlotOp := { op0 with dst := .v 3, a := .tile 1, b := .lit 7, c := .mask 1, ty := .n16 }
    let k : SlotOp := { op0 with dst := .p 3, a := .mask 1, b := .mask 2 }
    let cnt : SlotOp := { op0 with dst := .s 3, a := .mask 1 }
    (Instr.icmp t).okIn .x = true ∧ isScalar (.icmp t) t = false ∧ tooBig sX t.ty = false ∧
    (Instr.fcmp c).okIn .x = true ∧ isScalar (.fcmp c) c = true ∧ (Instr.sel sel).okIn .x = true ∧
    (Instr.pand k).okIn .x = true ∧ (Instr.por k).okIn .x = true ∧ (Instr.pxor k).okIn .x = true ∧
    (Instr.pnot { k with b := .tile 0 }).okIn .x = true ∧ (Instr.pcnt cnt).okIn .x = true ∧
    isOk (fetch sX 4 t.ty t.a) = true ∧ isOk (fetch sX 4 t.ty t.b) = true ∧ isOk (fetch sX 4 c.ty c.a) = true ∧
    isOk (fetch sX 4 sel.ty sel.b) = true ∧ sX.strm = sX.srcStrm := by
  decide +kernel

/-- ReductionsAndScansFillTheirSequences: a reduction to a tile, one to a scalar, a scan; a sequence with and without
members. -/
theorem test_hyp_ReductionsAndScansFillTheirSequences :
    let t : SlotOp := { op0 with dst := .v 3, a := .tile 1, ty := .n16, opx := 1, pred := 1 }
    let c : SlotOp := { op0 with dst := .s 3, a := .tile 1, ty := .i16, opx := 2 }
    (∃ f : Nat → List (Bool × Nat) → Nat × Flags, (∀ w, redRule (rmodeOf sX) w (.rsum t) = some (t, f w)) ∧ (Instr.rsum t).okIn .x = true ∧ t.dst.scal = false) ∧
    (∃ f : Nat → List (Bool × Nat) → Nat × Flags, (∀ w, redRule (rmodeOf sX) w (.argm c) = some (c, f w)) ∧ (Instr.argm c).okIn .x = true ∧ c.dst.scal = true) ∧
    (Instr.rscn t).okIn .x = true ∧ tooBig sX t.ty = false ∧ isOk (fetch sX 4 t.ty t.a) = true ∧
    (∀ e ∈ [(true, 255), (false, 3), (true, 0)], e.2 < 2 ^ tyBits .n8) ∧
    ([(true, 255), (false, 3)].filter Prod.fst).map (fun e => valI .n8 e.2) ≠ [] ∧
    ([(false, 3)].filter Prod.fst).map (fun e => valI .n8 e.2) = [] := by
  refine ⟨⟨_, fun _ => rfl, by decide +kernel⟩, ⟨_, fun _ => rfl, by decide +kernel⟩, by decide +kernel⟩

/-- ReductionsAndScansFillTheirSequences, floats: a sum of three with one that is absent, one and three members, NaNs, no
numbers, none that take part. -/
theorem test_hyp_Reductions_float :
    let xs := [(true, 0x3F800000), (true, 0x7FC00000), (false, 0x40000000), (true, 0x80000000)]
    let nums := fun (l : List (Bool × Nat)) => (((l.filter Prod.fst).map Prod.snd).filter fun x => !(unpack .f32 x).isNan)
    let two := [some 0x3F800000, none, some 0x40000000]
    Ty.f32 ∈ tysF ∧ Ty.bf16 ∈ tysF ∧ (∀ e ∈ xs, e.2 < 2 ^ tyBits .f32) ∧ nums xs ≠ [] ∧ nums [(true, 0x7FC00000)] = [] ∧
    ([(false, 0)] : List (Bool × Nat)).filter Prod.fst = [] ∧ 2 ≤ two.length ∧ two.length ≤ 3 ∧
    (sumParts 0 3 (two.take 2)).1 = some 0x3F800000 ∧ (sumParts 0 3 (two.drop 2)).1 = some 0x40000000 ∧
    (sumParts 0 3 [none]).1 = none := by
  decide +kernel

/-- BlockScalesTravelTheBypass: blocks with and without their entry in stage 3; a bundle of X outside and in the handler. -/
theorem test_hyp_BlockScalesTravelTheBypass :
    let b : SlotOp := { op0 with dst := .v 3, a := .tile 1, b := .lit 0, ty := .bf16, opx := 4 }
    let q : SlotOp := { op0 with dst := .qxs, a := .tile 1, ty := .bf16 }
    let e : Scales := { format := 0, sbs := [1, 2] }
    let full := at_ (world { core0 with stage3 := some e }) .x
    (Instr.rmxaBlk b).okIn .x = true ∧ tooBig sX .bf16 = false ∧ colsOf sX = 32 ∧ isOk (fetch sX 4 .bf16 b.a) = true ∧
    (Instr.qblk q).okIn .x = true ∧ blockShape sX (blockBytes 0) = true ∧ full.srcCore.stage3 = some e ∧
    e.format = q.opx.val ∧ e.sbs.length = elemsOf full / 32 ∧ sX.srcCore.stage3 = none ∧ sX.srcStrm.handler = none ∧
    (with_ .x fun x => { x with handler := some 0 }).srcStrm.handler ≠ none ∧ sX.cur.stream = .x := by
  decide +kernel

/-- BlockScalesTravelTheBypass, one block: numbers within the format's range, below and above it, a NaN, a NaN block. -/
theorem test_hyp_BlockScales_block :
    let v := fun (x : Nat) => unpack .f32 x
    let blk := [0x3F800000, 0x47800000, 0xC7800000] ++ List.replicate 29 0
    let q := fun (i : Nat) => dyQ (v (blk.getD i 0)).dy / (2 : ℚ) ^ ((32 % 64 : Nat) - 32 : Int)
    blk.length = 32 ∧ (∀ x ∈ blk, (v x).isNan = false ∧ (v x).isInf = false) ∧ (v 0x7FC00000).isNan = true ∧
    -6 ≤ q 0 ∧ q 0 ≤ 6 ∧ 6 < q 1 ∧ q 2 < -6 ∧ dyQ (codeVal 1 0) = 0 := by
  decide +kernel

/-- TopkWritesValuesAndColumns: k of 0 and of 40 columns out of 32. -/
theorem test_hyp_TopkWritesValuesAndColumns :
    let o := fun (k : W32) => ({ op0 with dst := .v 4, a := .tile 1, b := .lit k, ty := .n16 } : SlotOp)
    (Instr.topk (o 0)).okIn .x = true ∧ (Instr.topk (o 40)).okIn .x = true ∧ tooBig sX .n16 = false ∧
      isOk (fetch sX 4 .n16 (.tile 1)) = true ∧ isOk (fetch64 sX 4 (.lit 0)) = true ∧ isOk (fetch64 sX 4 (.lit 40)) = true := by
  decide +kernel

/-- TopkWritesValuesAndColumns: a row with a NaN, an element that takes no part, equal values and both zeros. -/
theorem test_hyp_Topk_row :
    let xs := [(true, 0x3F800000), (false, 0x40000000), (true, 0x7FC00000), (true, 0x3F800000), (true, 0), (true, 0x80000000)]
    (∀ e ∈ xs, e.2 < 2 ^ tyBits .f32) ∧ Ty.n8 ∈ tysInt ∧ (∀ e ∈ [(true, 255), (false, 0)], e.2 < 2 ^ tyBits .n8) ∧
      (unpack (fmtOf .f32) 0x7FC00000).isNan = true := by
  decide +kernel

/-- RearrangingOps: each op with a register, VEXT with a scalar, IOTA in an integer and a float type. -/
theorem test_hyp_RearrangingOps :
    let o : SlotOp := { op0 with dst := .v 4, a := .tile 1, b := .tile 2, ty := .n16 }
    let n : SlotOp := { o with b := .lit 40 }
    let i : SlotOp := { o with a := .lit 1, b := .lit 2 }
    (Instr.trns { o with b := .tile 0 }).okIn .x = true ∧ (Instr.trns { o with b := .tile 0, dst := .none }).okIn .x = true ∧
    (Instr.bcst n).okIn .x = true ∧ (Instr.bcst { n with opx := 1 }).okIn .x = true ∧
    (Instr.shuf o).okIn .x = true ∧ (Instr.shuf { o with opx := 2 }).okIn .x = true ∧
    (Instr.vext { n with dst := .s 4 }).okIn .x = true ∧ (Instr.vins { n with c := .lit 3 }).okIn .x = true ∧
    (Instr.iota i).okIn .x = true ∧ (Instr.iota { i with ty := .f16, opx := 2 }).okIn .x = true ∧
    tooBig sX .n16 = false ∧ isOk (fetch sX 4 .n16 (.tile 1)) = true ∧ isOk (fetch64 sX 4 n.b) = true ∧
    isOk (fetch sX 4 .n16 (.lit 3)) = true := by
  decide +kernel

/-- BlockDecodersAndSlices: each decoder on a tile of two blocks. -/
theorem test_hyp_BlockDecodersAndSlices :
    let o : SlotOp := { op0 with dst := .v 4, a := .tile 1, ty := .bf16 }
    let w : SlotOp := { o with ty := .nw8, dst := .qxs }
    (∃ u, fetch sX 5 .n8 o.a = .ok (.tile (sX.srcCore.vreg 1), u)) ∧
    (Instr.dqbk o).okIn .x = true ∧ (Instr.dqbk { o with opx := 2 }).okIn .x = true ∧ tooBig sX .bf16 = false ∧
    blockShape sX 17 = true ∧ blockShape sX 33 = true ∧
    (Instr.dcf4 { o with b := .lit 0xFFFFFFFF }).okIn .x = true ∧ isOk (fetch32 sX 5 (.lit 0xFFFFFFFF)) = true ∧
    (Instr.nwsl w).okIn .x = true ∧ (Instr.nwsl { w with opx := 3 }).okIn .x = true ∧ (Instr.nwpk w).okIn .x = true := by
  refine ⟨⟨_, rfl⟩, by decide +kernel⟩

/-- SoftmaxRandomAndJetMoves, a row: numbers and −∞, one with +∞ twice, one of −∞, one with a NaN; an exact result from 2^-1
to 2^0. -/
theorem test_hyp_Softmax_row :
    let v := fun (x : Nat) => unpack .f32 x
    let row := [0x3F800000, 0xFF800000, 0x3F800000]
    let terms := row.map fun x => if v x = .inf true then Dy.zero else expDy (Dy.sub (v x).dy (v 0x3F800000).dy)
    let exact := Dy.quot (terms.getD 0 Dy.zero) ⟨(terms.map fun t => t.fix 512).sum, -512⟩
    v 0x7F800000 = .inf false ∧ v 0xFF800000 = .inf true ∧ (v 0x7FC00000).isNan = true ∧ (v 0x3F800000).isNan = false ∧
    (v 0x3F800000).isInf = false ∧ bitAt (predOf sX op0) 1 = true ∧ (2 : ℚ) ^ (-1 : Int) ≤ dyQ exact ∧
    dyQ exact < (2 : ℚ) ^ (-1 + 1 : Int) ∧ Ty.bf16 ∈ tysF ∧ Ty.i16 ∈ tysInt := by
  decide +kernel

/-- SoftmaxRandomAndJetMoves: jet orders 0 and 1. -/
theorem test_hyp_SoftmaxRandomAndJetMoves :
    let o : SlotOp := { op0 with dst := .v 4, a := .tile 2, ty := .bf16 }
    let s1 := with_ .x fun x => { x with jord := 1 }
    (Instr.fsmx o).okIn .x = true ∧ tooBig sX o.ty = false ∧ sX.srcStrm.jord = 0 ∧ isOk (fetch sX 5 o.ty o.a) = true ∧
    s1.srcStrm.jord.toNat ≠ 0 ∧ 4 % jetAlign s1.srcStrm.jord.toNat = 0 ∧ isOk (jetSrc s1 5 o.ty 1 o.a) = true ∧
    (Instr.rand { o with a := .s 1, b := .s 2 }).okIn .x = true ∧ isOk (fetch64 sX 5 (.s 1)) = true ∧
    (Instr.jsed o).okIn .x = true ∧ (Instr.jext { o with opx := 5 }).okIn .x = true ∧ (Instr.jext o).okIn .x = true := by
  decide +kernel

/-! ### Memory, buffers, atomics, barriers, tuples -/

/-- LocalAddressesFollowTheMap: the last bytes of the unit scratchpad and of both grants, the first beyond them. -/
theorem test_hyp_LocalAddressesFollowTheMap :
    let m := sL.m
    0xFFFFC + 4 ≤ 0x100000 ∧ 0x1FFFC + 4 ≤ ctxCsize m 0 ∧ 0x1FFFC + 4 ≤ ctxDsize m 0 ∧ ctxCsize m 0 < 0x1FFFD + 4 ∧
      0x1FFFD + 4 ≤ 0x1000000 ∧ 0x100000 < 0xFFFFD + 4 ∧ m.poison = [] ∧ m.unitPoison = [] ∧
      (Loc.unit 0 0x200).frozen { m with dies := [(0, { die0 with freezes := [(.unit 0 0, 9)] })] } = true ∧
      (Loc.unit 0 0x200).frozen m = false := by
  decide +kernel

/-- LoadsReadTheirAddresses, LDS: a scratchpad word, a misaligned address, a slot of the synchronisation region. -/
theorem test_hyp_Loads_scalar :
    let o : SlotOp := { op0 with dst := .s 5, a := .a 1, b := .lit 4, ty := .i32 }
    let y := with_ .l fun x => { x with a := [(4, 0x300000020)] }
    (Instr.lds o).okIn .l = true ∧ effAddr sL o.a o.b % 4 = 0 ∧ effAddr sL o.a (.lit 5) % 4 ≠ 0 ∧
    regionOf (effAddr sL o.a o.b) 4 = some (.cluster, 0x44) ∧ isOk (memLoad 4 (effAddr sL o.a o.b) 4 sL) = true ∧
    regionOf (effAddr y (.a 4) (.lit 0)) 4 = some (.sync, 0x20) ∧ sL.strm = sL.srcStrm := by
  decide +kernel

/-- The test state of L with a shape of two blocks. -/
def sLt : State := with_ .l fun x => { x with rows := 2, cols := 32 }

/-- LoadsReadTheirAddresses, tiles, blocks, gathers and slices. -/
theorem test_hyp_Loads_tiles :
    let o : SlotOp := { op0 with dst := .qlx, a := .a 3, b := .lit 0, ty := .n16 }
    let ctl : W32 := 0x00040001
    sLt.core.qlx.entries.length < 8 ∧ sLt.core.qlx.ring = none ∧
    tileBytes sLt .n16 = some 128 ∧ effAddr sLt o.a o.b % tileAlign o.ty = 0 ∧ isOk (memLoad 4 0x200 128 sLt) = true ∧
    tileBytes sLt .f4 = some 34 ∧ okAnd (memLoad 4 0x200 32 sLt) (fun r => isOk (memLoad 4 (addrOf sLt (.a 1)) 2 r.2)) = true ∧
    okAnd (pieceAddrs { o with b := .a 1 } sLt) (fun r => isOk (loadPieces r.2.1 r.1 r.2.2)) = true ∧
    (Instr.ldnw { o with c := .lit ctl, ty := .nw8, opx := 4 }).okIn .l = true ∧
    isOk (fetch32 sLt 4 (.lit ctl)) = true ∧ fld ctl.toNat 0 12 = 1 ∧ fld ctl.toNat 12 3 + fld ctl.toNat 15 4 = 8 ∧
    blockShape sLt 33 = true ∧ 0x200 % 64 = 0 ∧
    (Instr.ldnw { o with c := .lit ctl, ty := .nw8, opx := 2 }).okIn .l = true ∧ blockShape sLt 17 = true ∧
    okAnd (loadPlanes 8 ((List.range 2).map fun i => 0x200 + i * 64) sLt) (fun r => isOk (memLoad 4 0x400 2 r.2)) = true ∧
    okAnd (loadPlanes 8 ((List.range 8).map fun i => 0x200 + i * 64) sLt) (fun r => isOk (memLoad 4 0x400 2 r.2)) = true := by
  decide +kernel

/-- StoresWriteTheirAddressOnly: a scalar, a tile and a broadcast, a move, a scatter; the locations and their tags. -/
theorem test_hyp_StoresWriteTheirAddressOnly :
    let s := with_ .s fun x => { x with rows := 2, cols := 32 }
    let o : SlotOp := { op0 with a := .a 1, b := .lit 4, c := .s 2, ty := .i32 }
    let mv : SlotOp := { op0 with a := .a 1, b := .a 3, c := .lit 64 }
    let sc : SlotOp := { op0 with a := .a 2, b := .a 3, c := .s 2, ty := .n16 }
    (Instr.sts o).okIn .s = true ∧ isOk (fetch s 4 o.ty o.c) = true ∧ effAddr s o.a o.b % 4 = 0 ∧
    regionOf (effAddr s o.a o.b) 4 = some (.cluster, 0x44) ∧
    (Instr.stt { o with ty := .n16 }).okIn .s = true ∧ tileBytes s .n16 = some 128 ∧ isOk (storeBytes s .n16 o.c 128) = true ∧
    effAddr s o.a o.b % tileAlign .n16 = 0 ∧ regionOf (effAddr s o.a o.b) 128 = some (.cluster, 0x44) ∧
    (Instr.tmov mv).okIn .s = true ∧ isOk (fetch32 s 4 mv.c) = true ∧ addrOf s mv.a % 64 = 0 ∧ addrOf s mv.b % 64 = 0 ∧
    isOk (memLoad 4 (addrOf s mv.b) 64 s) = true ∧
    (match localLocs s.m 0 0 (some 0) (effAddr s o.a o.b) 4 with
     | some ls => isOk (trackLocs s.m (some (jobActor s.m 0 0)) true (effAddr s o.a o.b) ls)
     | none => false) = true ∧
    (Instr.scat sc).okIn .s = true ∧ okAnd (pieceAddrs sc s) (fun r => (r.1.all fun a => regionOf a 2 == some (.die, 0x80)) &&
      okAnd (storeBytes r.2.2 .n16 sc.c (r.1.length * 2)) fun b => isOk ((List.range r.1.length).foldlM (fun x k =>
        memStore 4 (r.1.getD k 0) ((b.1.drop (k * 2)).take 2) x) b.2)) = true := by
  decide +kernel

/-- The window table of the test context: window 1 names device 7, its context 2 and window 3, with 1 KiB, slot 1 and one
page at 0x1000. -/
def winMem : Memory :=
  Memory.write (Memory.write (Memory.write (Memory.write tables0 0x208020 8 (2 ^ 63 + 7 * 2 ^ 32 + 3 * 2 ^ 21 + 2 * 2 ^ 15 + 1))
    0x208028 8 1) 0x208030 8 0x1000) 0x208038 8 1
def worldWin : Module := { world core0 with phys := winMem }

/-- FencesCloseTheirEpochs. -/
theorem test_hyp_FencesCloseTheirEpochs :
    let s := at_ worldWin .s
    isOk (fetch64 s 4 (.lit 1)) = true ∧ isOk (winFor s 4 1 (0x1000000000 + 1 * 0x100000000)) = true ∧ s.verdict = .go ∧
    (∀ j, (s.m.port j).met = none) ∧ (Tbl.get {} s.srcCore.epochs 1).paths = [] := by
  decide +kernel

/-- Handles: a consumer's and a producer's of buffer object 0x480. -/
def coreCb : Core :=
  { core0 with cb := [(0, 0x8000000000080480), (1, 0x8000000000000480)], unitMem := Memory.put (Memory.put [] 0x21A 1) 0x21C 64 }

/-- BufferOpsMoveTheirCounts: one available and one claimed entry, two free ones; two are not available; an object whose counts
agree and a legal image. -/
theorem test_hyp_BufferOpsMoveTheirCounts :
    let m := world coreCb
    let s := at_ m .s
    let b := m.buf 0 0x480
    let e := at_ { m with dies := [(0, { die0 with bufs := [] })] } .s
    let h := fun (n : Nat) => (Tbl.get 0 s.srcCore.cb n).toNat
    hValid (h 0) = true ∧ hConsumer (h 0) = true ∧ hCursor (h 0) ≤ b.ncons.toNat ∧ hValid (h 1) = true ∧ hConsumer (h 1) = false ∧
    hObject (h 0) = 0x480 ∧ hObject (h 1) = 0x480 ∧ 1 ≤ (b.claim - b.prod).toNat ∧
    publishStalls m 0 0x480 ((b.prod + 1).setWidth 16) = false ∧ releaseWaits m s.cur false = false ∧
    1 ≤ (b.prod - b.consOf (hCursor (h 0))).toNat ∧ (b.prod - b.consOf (hCursor (h 0))).toNat < 2 ∧
    (∀ k : Fin 1, (b.claim - b.consOf k.val).toNat + 2 ≤ b.nent.toNat) ∧ b.ncons = 0 ∧
    isOk (fetch64 s 4 (.lit 1)) = true ∧
    (Instr.cbwtConsumer { op0 with dst := .a 5, a := .lit 0, b := .lit 1 }).okIn .s = true ∧
    (Instr.cbwtProducer { op0 with dst := .a 5, a := .lit 1, b := .lit 2 }).okIn .s = true ∧
    (Instr.cbstGet { op0 with dst := .s 5, a := .lit 0 }).okIn .s = true ∧
    (e.m.buf 0 0x480).claim = (e.m.buf 0 0x480).prod ∧ (e.m.buf 0 0x480).consOf 0 = (e.m.buf 0 0x480).prod ∧
    okAnd (memLoad 4 0x200 64 e) (fun r => cbImageOk (ofBytes r.1)) = true := by
  decide +kernel

/-- BufferOpsMoveTheirCounts, CBST: a consumer's handle whose cursor is not in use. -/
theorem test_hyp_Buffers_cursor :
    let s := at_ (world { coreCb with cb := [(0, 0x80000000000A0480)] }) .s
    let w := (Tbl.get 0 s.srcCore.cb 0).toNat
    isOk (fetch64 s 4 (.lit 0)) = true ∧ hValid w = true ∧ hConsumer w = true ∧
      (s.m.buf 0 (hObject w)).ncons.toNat < hCursor w := by
  decide +kernel

/-- AtomicsUpdateOneWordOrWait: an aligned word without and with a release; a misaligned one, one outside device space; streams
that wait, that have been answered, whose record was lost. -/
theorem test_hyp_AtomicsUpdateOneWordOrWait :
    let o : SlotOp := { op0 with dst := .s 5, a := .s 1, b := .lit 1, ty := .i32, opx := 2 }
    let far := with_ .s fun x => { x with s := [(1, 2 ^ 57)] }
    let w := fun (k : Wait) => (with_ .s fun x => { x with wait := k }).srcStrm.wait
    (Instr.afad o).okIn .s = true ∧ atomRule (.afad o) = some (o, .add) ∧ sS.srcStrm.wait = .none ∧
    isOk (fetch64 sS 5 o.a) = true ∧ isOk (fetch sS 5 o.ty o.b) = true ∧ isOk (fetch sS 5 o.ty o.c) = true ∧
    sS.srcStrm.sreg 1 < 2 ^ 57 ∧ sS.srcStrm.sreg 1 % 4 = 0 ∧ sS.srcStrm.sreg 2 % 4 ≠ 0 ∧ 2 ^ 57 ≤ far.srcStrm.sreg 1 ∧
    okAnd (translate sS.m (some (.sye 0)) sS.srcCore.ctx .write 0x40) (fun r => !poisoned r.2 r.1 && !(Loc.phys r.1).frozen r.2) = true ∧
    (Loc.phys scratchBase).frozen { sS.m with dies := [(0, { die0 with freezes := [(.slice 0 0, 9)] })] } = true ∧
    bitAt o.opx.val 1 = true ∧ releaseWaits sS.m sS.cur true = false ∧
    homeDie 0x200040 = 0 ∧ sS.m.router (.cluster 0 0) = {} ∧ sS.m.router (.later 0) = {} ∧
    w .atomic = .atomic ∧ w (.replied 3 []) = .replied 3 [] ∧ w (.lost 3 0x40) = .lost 3 0x40 ∧ sS.src = sS.m := by
  decide +kernel

/-- AtomicFunctions: sums at 0 and at the bound, one below and one above; both orders. -/
theorem test_hyp_AtomicFunctions :
    (0 ≤ ((5 : Nat) : Int) + (BitVec.ofNat 32 0xFFFFFFFB).toInt) ∧ ((5 : Nat) : Int) + (BitVec.ofNat 32 4).toInt ≤ (9 : Nat) ∧
    ¬(0 ≤ ((5 : Nat) : Int) + (BitVec.ofNat 32 0xFFFFFFFA).toInt) ∧ ¬(((5 : Nat) : Int) + (BitVec.ofNat 32 5).toInt ≤ (9 : Nat)) ∧
    intOf (tySigned .i32) (BitVec.ofNat 32 0xFFFFFFFF) ≤ intOf (tySigned .i32) (BitVec.ofNat 32 1) ∧
    intOf (tySigned .n32) (BitVec.ofNat 32 1) ≤ intOf (tySigned .n32) (BitVec.ofNat 32 0xFFFFFFFF) := by
  decide +kernel

/-- AtomicFunctions, floats: two numbers, a NaN of either side, both infinities. -/
theorem test_hyp_Atomic_floats :
    let u := unpack .f32
    (u 0x3F800000).isNan = false ∧ (u 0x3F800000).isInf = false ∧ (u 0x7FC00000).isNan = true ∧ u 0x7F800000 = .inf false ∧
    u 0xFF800000 = .inf true ∧ 0xFF800000 < 2 ^ 32 := by
  decide +kernel

/-- An AFAD of 5 that a stream of the test core waits for. -/
def areq (q : StreamName) : AtomReq :=
  { op := .add, ty := .i32, order := 0, clk := [], ctx := 0, dev := 0x40, pa := 0x200040, c := 0, members := [⟨⟨0, 0, q⟩, 5⟩] }
def worldRouter (r : Router) (later : Router) : Module :=
  ({ world (core0.setStream .s { core0.st with wait := .atomic }) with clusters := [(0, { router := r })] }).setRouter (.later 0) later

/-- RoutersCombineApplyAndAnswer: an arrival that finds one to combine with and one that does not; the oldest entry with the
later router idle, and not; a reply of two parts; a record that is lost and one that is not. -/
theorem test_hyp_RoutersCombineApplyAndAnswer :
    let one := [areq .s]
    let p : AtomReply := { old := 3, parts := [areq .l, areq .s] }
    let c := worldRouter { arriving := one, queue := [[areq .l]] } {}
    let a := fun (l : Router) => worldRouter { queue := [one] } l
    let r := worldRouter { replies := [p] } {}
    (c.router (.cluster 0 0)).arriving = one ∧ mayCombine (.cluster 0 0) [areq .l] (areq .s) = true ∧
    mayCombine (.later 0) [{ areq .l with op := .addBounded }] { areq .s with op := .addBounded } = false ∧
    (∀ n ∈ [3, 4], mayCombine (.cluster 0 0) (List.replicate n { areq .l with op := .addBounded })
      { areq .s with op := .addBounded } = (n == 3)) ∧
    ((a {}).router (.cluster 0 0)).queue = [one] ∧ ((a {}).router (.cluster 0 0)).busy = false ∧
    ((a {}).router (.later (homeDie (areq .s).pa))).idle = true ∧ ((a { busy := true }).router (.later 0)).idle = false ∧
    ((a { queue := [one] }).router (.later 0)).queue = [one] ∧ joinReqs one = some (areq .s) ∧
    (areq .s).op ≠ .signal ∧ bitAt (areq .s).order 1 = false ∧ ((a {}).strm ⟨0, 0, .s⟩).wait = .atomic ∧
    (r.router (.cluster 0 0)).replies = [p] ∧ (partOlds 3 p.parts)[1]? = some (8, areq .s) ∧
    (r.strm ⟨0, 0, .s⟩).wait = .atomic ∧ ((a {}).strm ⟨0, 0, .s⟩).doomed = false ∧
    (Loc.phys (areq .s).pa).frozen (a {}) = false ∧ poisoned (a {}) (areq .s).pa = false ∧
    poisoned { a {} with poison := [0x200040 / 64] } (areq .s).pa = true ∧ recordLost .add [1] 1 = true ∧ recordLost .add [] 1 = false := by
  decide +kernel

/-- SignalOpsReleaseAndWake: a signal on which another stream waits. -/
theorem test_hyp_SignalOpsReleaseAndWake :
    let o : SlotOp := { op0 with dst := .s 5, a := .s 1, b := .lit 1 }
    let s := at_ { world (core0.setStream .l { core0.l with cwait := .waits 0 0x200040 0x40 }) with
      phys := tables0 ++ [(0x200040, 1)] } .s
    (Instr.sdec o).okIn .s = true ∧ (Instr.sadd o).okIn .s = true ∧ s.srcStrm.wait = .none ∧ isOk (fetch64 s 5 o.a) = true ∧
    isOk (fetch64 s 5 o.b) = true ∧ s.srcStrm.sreg 1 % 8 = 0 ∧
    okAnd (translate s.m (some (.sye 0)) s.srcCore.ctx .write 0x40) (fun r => !poisoned r.2 r.1 && r.1 == 0x200040 &&
      !(Loc.phys r.1).frozen r.2) = true ∧ releaseWaits s.m s.cur true = false ∧ s.m.router (.cluster 0 0) = {} ∧
    s.m.router (.later (homeDie 0x200040)) = {} ∧
    (s.m.strm ⟨0, 0, .l⟩).cwait = .waits (homeDie 0x200040) 0x200040 0x40 := by
  decide +kernel

/-- BarrierSlotsCountAndFlip: granted and ungranted slots; a first and a last arrival, one beyond; a ready slot; a delivery. -/
theorem test_hyp_BarrierSlotsCountAndFlip :
    let s := sS
    let b := s.m.barrier 0 1
    let full : Barrier := { b with arrived := 2, narrived := 1 }
    let past : Barrier := { b with arrived := 2, narrived := 2 }
    let ready : Barrier := { b with xp := true, arrived := 2 }
    let d : Module := { world core0 with dies := [(0, { die0 with deliveries := [(1, 0, 64, true)] })] }
    isOk (fetch64 s 5 (.lit 1)) = true ∧ isOk (fetch64 s 5 (.lit 4)) = true ∧ grantSlot s.m s.srcCore.ctx 4 = false ∧
    grantSlot s.m s.srcCore.ctx 1 = true ∧ b.pend = 0 ∧ b.npend = 0 ∧ b.valid = true ∧ b.ovr = false ∧
    releaseWaits s.m s.cur false = false ∧ (Instr.barv { op0 with dst := .s 5, a := .lit 1 }).okIn .s = true ∧
    s.strm.cwait = .none ∧ b.arrived < b.parties ∧ full.parties ≤ full.arrived ∧ full.narrived < full.parties ∧
    past.parties ≤ past.narrived ∧ ({ b with ovr := true } : Barrier).raced = none ∧
    ({ b with ovr := true, raced := some (0x40, 3, 5) } : Barrier).raced = some (0x40, 3, 5) ∧ (s.m.barrier 0 2).valid = false ∧ (({ s.m with dies := [(0, die4)] } : Module).barrier 0 4).valid = true ∧ ready.ready = true ∧ ready.nxp = false ∧ b.ready = false ∧
    (d.die 0).deliveries = [(1, 0, 64, true)] ∧ (d.barrier 0 1).phase = 0 := by
  decide +kernel

/-- A tuple image with tag 0x12 in the unit scratchpad at 0x200, and one with a reserved tag at 0x240. -/
def coreTup : Core := { core0 with unitMem := [(0x200, 0x12), (0x240, 0xFF), (0x241, 0xFF), (0x242, 0xFF), (0x243, 0xFF)] }
def tup : Tuple := { image := tupStored 0x12 5, clk := [], age := 0 }
def worldTup (x : Slice) : Module := { world coreTup with dies := [(0, { die0 with slices := [(3, x)] })] }

/-- DepositStoresATuple: a tag that may be deposited, a reserved one. -/
theorem test_hyp_DepositStoresATuple :
    let s := at_ (world coreTup) .s
    (Instr.tdep { op0 with dst := .s 5, a := .a 3 }).okIn .s = true ∧
    okAnd (loadImage 0x200 s) (fun r => decide (tupTag r.1 < 0xFFFFFF00) && homeSlice (tupTag r.1) == 3 &&
      !releaseWaits r.2.src s.cur false && (r.2.m.slice 0 3).parked.isEmpty && decide ((r.2.m.slice 0 3).stored.length < 4096)) = true ∧
    okAnd (loadImage 0x240 s) (fun r => decide (0xFFFFFF00 < tupTag r.1)) = true := by
  decide +kernel

/-- DepositStoresATuple: requests that wait for the tag, a copy ahead of a take, and a copy alone. -/
theorem test_hyp_Deposit_parked :
    let q := fun (st : StreamName) (take : Bool) (tag : Nat) =>
      ({ who := ⟨0, 0, st⟩, pattern := tupPattern (BitVec.ofNat 512 tag) 5, take := take } : Parked)
    let y := fun (ps : List Parked) => at_ { worldTup { parked := ps } with cores := [(0, coreTup)] } .s
    let sl := fun (ps : List Parked) => (y ps).m.slice 0 3
    let wants := fun (p : Parked) => tupMatch (tupStored 0x12 5) p.pattern
    let two := [q .x false 0x12, q .l true 0x12]
    okAnd (loadImage 0x200 (y two)) (fun r => r.1 == 0x12 && !releaseWaits r.2.src (y two).cur false) = true ∧ (sl two).parked = two ∧
    wants (q .x false 0x12) = true ∧ wants (q .l true 0x12) = true ∧ wants (q .l true 0x13) = false ∧
    (sl [q .x false 0x12]).stored.length < 4096 := by
  decide +kernel

/-- TupleRequestsAnswerParkOrCancel: a match, none with room to park, none without; a parked request, one withdrawn, an
overflow tuple. -/
theorem test_hyp_TupleRequestsAnswerParkOrCancel :
    let o : SlotOp := { op0 with dst := .s 5, a := .a 4, b := .a 3 }
    let y := fun (m : Module) => at_ { m with
      cores := [(0, coreTup.setStream .s { coreTup.st with a := [(3, 0x200), (4, 0x300)] })] } .s
    let s := y (worldTup { stored := [tup] })
    let full := y { worldTup {} with ccbs := [(0, Tbl.set 0 ccb0 2 0x61A8)] }
    let park := at_ (world (coreTup.setStream .l { coreTup.l with wait := .tuple 3 })) .s
    (Instr.ttak o).okIn .s = true ∧ s.srcStrm.wait = .none ∧ addrOf s o.a % 64 = 0 ∧
    localLocs s.m s.core.ctx 0 (some 0) (addrOf s o.a) 64 = some [(.unit 0 0x300, 64)] ∧
    okAnd (loadImage (addrOf s o.b) s) (fun r => tupTag r.1 != 0xFFFFFF00 &&
      findTuple r.2.m 0 (tupPattern r.1 (ctxTuple r.2.m 0)) == some tup) = true ∧
    okAnd (loadImage 0x200 (y (world coreTup))) (fun r =>
      findTuple r.2.m 0 (tupPattern r.1 (ctxTuple r.2.m 0)) == none && mayPark r.2.m 0 3 0) = true ∧
    okAnd (loadImage 0x200 full) (fun _ => !mayPark full.m 0 3 0) = true ∧
    isOk (fetch64 park 5 (.lit 0)) = true ∧ (park.m.strm ⟨0, 0, .l⟩).wait = .tuple 3 ∧
    (park.m.strm ⟨0, 0, .x⟩).wait = .none ∧ (Instr.tcan { op0 with dst := .s 5, a := .lit 0 }).okIn .s = true ∧
    (with_ .s fun x => { x with wait := .tupleCancelled }).srcStrm.wait = .tupleCancelled ∧
    ((worldTup { overflow := [tup] }).slice 0 3).overflow = [tup] := by
  decide +kernel

/-! ### Interrupts, queues, chains, copies, pages -/

/-- InterruptsEnterAndLeaveTheHandler: an interrupt of each source that can be taken, none, one held off; a queue with 15 and
with 16; an aligned and a misaligned hs0, with and without what stood aside. -/
theorem test_hyp_InterruptsEnterAndLeaveTheHandler :
    let q := fun (u : Bool) => ({ uirq := u, slot := 2, code := 7, value := 9 } : Irq)
    let m := fun (u e : Bool) => (with_ .x fun x => { x with irqs := [q u], uien := e, uvec := 0x1000 }).m
    let able := fun (m : Module) => let x := m.strm ⟨0, 0, .x⟩
      decide (x.status = .running) && x.uien && decide (x.handler = none) && !x.paged && decide (x.parityAt = none) &&
        !stopping m 0 0 && !coreFrozen m 0 0 && x.wait.aside && x.cwait.aside
    let n := fun (k : Nat) => (with_ .s fun x => { x with irqs := List.replicate k (q true) }).core.st.irqs.length
    let h := fun (v : W64) (a : Option (DevAddr × Wait × Wait)) =>
      with_ .x fun x => { x with handler := some 1, hs := Tbl.set 0 [] 0 v, aside := a }
    able (m true true) = true ∧ able (m false true) = true ∧ able (m true false) = false ∧ sX.strm.irqs = [] ∧
    (Instr.uirq { op0 with a := .lit 2, b := .lit 5 }).okIn .s = true ∧ isOk (fetch64 sS 5 (.lit 2)) = true ∧
    n 15 < 16 ∧ 16 ≤ n 16 ∧
    (Tbl.get 0 (h 0x40 none).srcStrm.hs 0).toNat % 64 = 0 ∧ (Tbl.get 0 (h 0x41 none).srcStrm.hs 0).toNat % 64 ≠ 0 ∧
    (h 0x40 (some (0x40, .none, .rdv))).strm.aside = some ((Tbl.get 0 (h 0x40 none).srcStrm.hs 0).setWidth 57, .none, .rdv) ∧
    (h 0x40 none).strm.aside = none := by
  decide +kernel

/-- RingsAndFetchBuffersRefill: a quota of one page and none, an aligned and a misaligned ring; a ring with an entry; a fetch at
the program counter and one that fails; a parity error that is due and one that is not. -/
theorem test_hyp_RingsAndFetchBuffersRefill :
    let o : SlotOp := { op0 with a := .s 1, b := .lit 4096 }
    let r : Ring := { addr := 0x10000, quota := 8192, first := 1, sizes := [64] }
    let m := world { core0 with qlx := { ring := some r } }
    let x := with_ .x fun x => { x with pc := 0x10000 }
    let far := with_ .x fun x => { x with pc := 0x400000 }
    let p := fun (c : W64) => (with_ .x fun x => { x with parityAt := some c }).m
    (Instr.qspl o).okIn .s = true ∧ isOk (fetch64 sS 5 o.a) = true ∧ isOk (fetch32 sS 5 o.b) = true ∧
    sS.core.qlx.ring = none ∧ sS.srcStrm.sreg 1 % 4096 ≠ 0 ∧ sS.srcStrm.sreg 0 % 4096 = 0 ∧
    (m.core 0 0).qlx.ring = some r ∧ (m.core 0 0).qlx.entries.length < 8 ∧
    coreFrozen m 0 0 = false ∧ coreFrozen { m with dies := [(0, { die0 with freezes := [(.unit 0 0, 9)] })] } 0 0 = true ∧
    isOk (loadDev m none none (m.core 0 0).ctx .read (r.slotAddr r.first) 4096) = true ∧
    x.strm.status = .running ∧ x.strm.paged = false ∧ x.strm.fetch = [] ∧ x.strm.pc.toNat % 64 = 0 ∧
    isOk (loadDev x.m none (some (.core 0 0)) 0 .fetch 0x10000 64) = true ∧
    isOk (loadDev far.m none (some (.core 0 0)) 0 .fetch 0x400000 64) = false ∧
    (((p 0).die 0).cyc - 0).toNat < 2 ^ 63 ∧ 2 ^ 63 ≤ (((p 1).die 0).cyc - 1).toNat := by
  decide +kernel

/-- RingsAndFetchBuffersRefill, pushes: a full queue without a ring, a ring that is full, one with room, a context whose quota
is spent; a stream that pops and one that has exited. -/
theorem test_hyp_Rings_push :
    let o : SlotOp := { op0 with dst := .qlx, a := .a 3, b := .lit 0, ty := .n16 }
    let e : QEntry := { size := 64, data := 0 }
    let r := fun (n : Nat) => ({ addr := 0x10000, quota := 8192, first := 1, sizes := List.replicate n 64 } : Ring)
    let at2 := fun (q : Queue) (spill : Nat) (x : Status) =>
      let c := { core0 with qlx := q, l := { core0.l with rows := 2, cols := 32 }, x := { core0.x with status := x } }
      at_ { world c with ctxs := Tbl.set {} [] 0 { spill := spill } } .l
    let s := at2 { entries := List.replicate 8 e, ring := some (r 1) } 0 .running
    (Instr.ldt o).okIn .l = true ∧ tileBytes s .n16 = some 128 ∧ effAddr s o.a o.b % tileAlign o.ty = 0 ∧
    okAnd (memLoad 4 (effAddr s o.a o.b) 128 s) (fun x => decide (8 ≤ x.2.core.qlx.entries.length) &&
      isOk (storeDev x.2.m none none 0 ((r 1).slotAddr 2) (toBytes 4096 (ofBytes x.1 % 2 ^ 32768)))) = true ∧
    (at2 { entries := List.replicate 8 e } 0 .exited).core.qlx.ring = none ∧
    (at2 { entries := List.replicate 8 e } 0 .exited).core.x.status = .exited ∧ s.core.x.status ≠ .exited ∧
    (r 2).quota ≤ 4096 * (r 2).sizes.length ∧ 4096 * (r 1).sizes.length < (r 1).quota ∧ (r 1).sizes ≠ [] ∧
    (s.m.ctx 0).spill + 4096 ≤ ctxSquota s.m 0 ∧
    ctxSquota s.m 0 < ((at2 {} 0x10000 .running).m.ctx 0).spill + 4096 := by
  decide +kernel

/-- A running chain of job slot 0 of the test core, with bytes in the core's unit scratchpad. -/
def chain0 : Chain :=
  { state := 2, who := some ⟨0, 0, .x⟩, core := some 0, slot := 1
    views := { die := 0, party := 0, clk := [], phases := [], bufs := [], handles := [(0, 0x8000000000080480), (1, 0x8000000000000480)] } }
def rec0 : Rec :=
  { cls := .copy, bufs := 0, last := false, ntf := false, sig := false, byt := false, w1 := 0x200, w2 := 0, w3 := 0, w4 := 0
    w5 := 0, w6 := 0, w7 := 0 }
def chainAt (k : Chain) (mem : Memory) : State :=
  { m := { world { core0 with unitMem := mem } with chains := [(0, k)] }, chain := .job 0 0 0 }

/-- ChainsStartWaitAndCancel: a legal and an illegal selector, slots granted and not, valid and not, heads aligned and not,
room in the queue; chains in each state. -/
theorem test_hyp_ChainsStartWaitAndCancel :
    let o : SlotOp := { op0 with a := .lit 127, b := .a 3, c := .lit 1 }
    let q := fun (n : Nat) => ({ sS.m with dies := [(0, { die0 with
      copyq := [(0, List.replicate n (ChainId.job 0 0 1))] })] } : Module)
    isOk (fetch64 sS 5 o.a) = true ∧ isOk (fetch64 sS 5 o.c) = true ∧ (sS.m.chain (.job 0 0 15)).state = 0 ∧
    grantSlot sS.m sS.core.ctx 1 = true ∧ grantSlot sS.m sS.core.ctx 4 = false ∧ (sS.m.barrier 0 1).valid = true ∧
    (sS.m.barrier 0 2).valid = false ∧ (({ sS.m with dies := [(0, die4)] } : Module).barrier 0 4).valid = true ∧ addrOf sS o.b % 32 = 0 ∧
    (localLocs sS.m sS.core.ctx 0 (some 0) (addrOf sS o.b) 32).isSome = true ∧ releaseWaits sS.m sS.cur true = false ∧
    (engQueue (q 31) (.copy 0 0)).length < engineQueueCap (.copy 0 0) ∧
    engineQueueCap (.copy 0 0) ≤ (engQueue (q 32) (.copy 0 0)).length ∧
    ((chainAt { chain0 with state := 1 } []).m.chain (.job 0 0 0)).state = 1 ∧
    ((chainAt chain0 []).m.chain (.job 0 0 0)).state = 2 ∧ sS.strm.wait ≠ .ecnc ∧ engQueue sS.m (.copy 0 0) = [] ∧
    localLocs sS.m sS.core.ctx 0 (some 0) 0x100000 32 = none ∧ engineFrozen sS.m (.kantele 0 0) = false ∧
    engineFrozen { sS.m with dies := [(0, { die0 with freezes := [(.cluster 0 0, 9)] })] } (.kantele 0 0) = true := by
  decide +kernel

/-- ChainsWalkTheirRecords: targets at both ends of the range, a zero and a positive count, a signal, interrupts, and commands that
have been performed. -/
theorem test_hyp_ChainsWalkTheirRecords :
    let s := chainAt { chain0 with index := 3 } [(0x204, 2)]
    let r := fun (w2 : W32) => ({ rec0 with w2 := w2 } : Rec)
    let p : Perf := { cmd := { rec0 with byt := true }, bytes := 64, publish := some 0x480, release := [], flags := 0 }
    let d := chainAt { chain0 with done := some p, slotDie := 1 } []
    let g : Perf := { p with cmd := { rec0 with sig := true, w4 := 0x40 }, publish := none }
    (3 : Int) + (0xFFFFFFFD#32).toInt = 0 ∧ ¬((0 : Int) ≤ 3 + (0xFFFFFFFC#32).toInt) ∧ (3 : Int) + (65532#32).toInt = 65535 ∧
    okAnd (chLoad s.m s.chain none (recWord (r 0x200)) 4) (fun x => ofBytes x.1 == 0) = true ∧
    okAnd (chLoad s.m s.chain none (recWord (r 0x204)) 4) (fun x => ofBytes x.1 != 0 &&
      isOk (chStore x.2 s.chain none (recWord (r 0x204)) (toBytes 4 1))) = true ∧
    okAnd (translate s.m none 0 .write (recSignal { rec0 with w4 := 0x40 })) (fun x => !poisoned x.2 x.1) = true ∧
    (s.m.chain s.chain).who = some ⟨0, 0, .x⟩ ∧ (s.m.strm ⟨0, 0, .x⟩).irqs.length < 16 ∧
    (d.m.chain d.chain).done = some p ∧ (d.m.chain d.chain).state = 2 ∧ (d.m.chain d.chain).acks = [] ∧ p.stage = 0 ∧
    publishWaits d.m (d.m.chain d.chain) p = false ∧ chainFrozen d.m (d.m.chain d.chain) = false ∧
    chainFrozen { d.m with dies := [(0, { die0 with freezes := [(.unit 0 0, 9)] })] } chain0 = true ∧ (d.m.chain d.chain).engDie ≠ (d.m.chain d.chain).slotDie ∧
    publishWaits (chainAt { chain0 with done := some g } []).m { chain0 with done := some g } g = false := by
  decide +kernel

/-- A copy descriptor: two runs of 16 bytes from device address 0x100 to 0x800, 16 apart on both sides. -/
def desc0 : Nat :=
  0x100 + 0x800 * 2 ^ 64 + 16 * 2 ^ 128 + 2 * 2 ^ 160 + 2 ^ 176 + 2 ^ 192 + 16 * 2 ^ 224 + 16 * 2 ^ 320

/-- CopiesMoveTheirRuns, firing: an entry to take and none, room and none. -/
theorem test_hyp_Copies_fire :
    let s := chainAt chain0 []
    let m := s.m
    let none_ : Module := { m with dies := [(0, { die0 with bufs := [(0x480, { ebytes := 64, nent := 4 })] })] }
    let full : Module := { m with dies := [(0, { die0 with bufs := [(0x480, { ebytes := 64, nent := 1, claim := 1 })] })] }
    inProgress m (engineOf chain0) < engineRunCap (engineOf chain0) ∧
    okAnd (chHandle m chain0 0 true) (fun x => x.1 == 0x480 && x.2 == 0) = true ∧
    okAnd (chHandle m chain0 1 false) (fun x => x.1 == 0x480) = true ∧
    (m.buf 0 0x480).prod ≠ (m.buf 0 0x480).consOf 0 ∧ (none_.buf 0 0x480).prod = (none_.buf 0 0x480).consOf 0 ∧
    (none_.buf 0 0x480).free ≠ 0 ∧ (full.buf 0 0x480).free = 0 := by
  decide +kernel

/-- CopiesMoveTheirRuns: legal and bad descriptors, a local side beyond its region, the first and the last run, a run that
faults, a packed multicast. -/
theorem test_hyp_Copies_runs :
    let mem := Memory.write (Memory.write [] 0x200 64 desc0) 0x240 64 (desc0 % 2 ^ 176 + 0x280 * 2 ^ 416)
    let s := chainAt chain0 mem
    let r := rec0
    let g : Rec := { rec0 with w1 := 0x240 }
    let k : Chain := { chain0 with fired := some [], desc := BitVec.ofNat 512 desc0 }
    let t := chainAt k []
    let u := chainAt { k with units := 16, idxs := [0, 3] } []
    okAnd (chLoad s.m s.chain none (recDesc r) 64) (fun x => ofBytes x.1 == desc0 && !copyBad false r (ofBytes x.1)) = true ∧
    okAnd (chLoad s.m s.chain none (recDesc g) 64) (fun x => !copyBad true g (ofBytes x.1) &&
      isOk (chLoad x.2 s.chain none (dIdx (ofBytes x.1)) 8) && copyBad false g (ofBytes x.1)) = true ∧
    copyBad true r desc0 = true ∧ recInb r = false ∧ recOutb r = false ∧ bitAt (dDst desc0) 63 = false ∧
    bitAt (dSrc desc0) 63 = false ∧ bitAt (dSrc (desc0 + 2 ^ 63)) 63 = true ∧
    chRange s.m chain0 0xFFFF0 17 = false ∧ copyBad false r (desc0 - 0x100 + 2 ^ 63 + 0xFFFF0) = false ∧
    inProgress s.m (engineOf chain0) < engineRunCap (engineOf chain0) ∧
    fld (16 * 2 ^ 128 + 2 ^ 160) 176 336 = 0 ∧ fld (16 * 2 ^ 128 + 2 ^ 160) 112 16 = 0 ∧
    (t.m.chain t.chain).units = 0 * 16 ∧ (u.m.chain u.chain).units = 1 * 16 ∧ dCount desc0 0 = 2 ∧ dLen desc0 = 16 ∧
    copySide t.m t.chain false 0 (dSrc desc0) = (0x100, false, none) ∧
    okAnd (sideLoad t.m t.chain (0x100, false, none) 0x100 16) (fun x =>
      isOk (sideStore x.2 t.chain (0x800, false, none) 0x800 x.1)) = true ∧
    okAnd (sideLoad u.m u.chain (0x100, false, none) 0x130 16) (fun x => x.1.length == 16 &&
      isOk (sideStore x.2 u.chain (0x800, false, none) 0x810 x.1)) = true ∧
    (match sideLoad t.m t.chain (0x100, false, none) 0x400000 16 with
     | .error (.stop _ _ _ _ none) => true
     | _ => false) = true := by
  decide +kernel

/-- The test die with lines tagged by another party that no view of the test orders. -/
def raceTags (d : Die) (keys : List Nat) : Die := { d with tags := keys.map fun k => (k, { wr := some (.party 5 9) }) }

/-- CopiesMoveTheirRuns, sides: inside and outside, of a buffer, local and device, on the source and on the destination; a run
that a race stops on its second line, at its load and at its store; a run whose store faults. -/
theorem test_hyp_Copies_sides :
    let m := (chainAt chain0 []).m
    let span := fun (d : Nat) (y : Bool) => copySpan false d [] y
    let inDev := fun (d : Nat) (y : Bool) (a : Nat) =>
      decide (0 ≤ (a : Int) + (span d y).1 ∧ (a : Int) + (span d y).2 + dLen d ≤ 2 ^ 57)
    let inLoc := fun (d : Nat) (y : Bool) (a : Int) => chRange m chain0 (a + (span d y).1) (((span d y).2 - (span d y).1).toNat + dLen d)
    let far : Nat := desc0 + (2 ^ 57 - 16 - 0x800) * 2 ^ 64
    let back : Nat := desc0 + (2 ^ 32 - 32) * 2 ^ 320
    let local_ : Nat := desc0 + 2 ^ 63 + 2 ^ 127
    let inb : Rec := { rec0 with bufs := 0x100 }
    let outb : Rec := { rec0 with bufs := 0x210 }
    let k : Chain := { chain0 with fired := some [], desc := BitVec.ofNat 512 desc0 }
    let t := fun (keys : List Nat) => ({ (chainAt k []) with m := { (chainAt k []).m with dies := [(0, raceTags die0 keys)] } } : State)
    let stops := fun {α : Type} (x : Except ChStop α) => match x with
      | .error (.after _ 32 (.stop 8 0 0x200000080 0 none)) => true
      | _ => false
    (inDev desc0 false 0x100 && inDev desc0 true 0x800) = true ∧ (copyBad false rec0 far || inDev far true (2 ^ 57 - 16)) = false ∧
    (copyBad false rec0 (back - 0x800 * 2 ^ 64) || inDev back true 0) = false ∧
    (copyBad false rec0 local_ || !inLoc local_ false 0x100 || !inLoc local_ true 0x800) = false ∧
    (inLoc local_ false 0xFFFF0 || inLoc local_ true 0xFFFF0) = false ∧
    (recInb inb && okAnd (chHandle m chain0 (recIn inb) true) fun x => inLoc desc0 false ((m.buf 0 x.1).entryAddr 0)) = true ∧
    (recOutb outb && okAnd (chHandle m chain0 (recOut outb) false) fun x => inLoc desc0 true ((m.buf 0 x.1).entryAddr 0)) = true ∧
    stops (sideLoad (t [0x080000000000 / 64 + 2]).m (t []).chain (0x200000060, true, none) 0x200000060 64) = true ∧
    okAnd (sideLoad (t [0x080000000000 / 64 + 2]).m (t []).chain (0x100, true, none) 0x100 64) (fun x =>
      stops (sideStore x.2 (t []).chain (0x200000060, true, none) 0x200000060 x.1)) = true ∧
    okAnd (sideLoad (t []).m (t []).chain (0x100, false, none) 0x100 16) (fun x =>
      match sideStore x.2 (t []).chain (0x400000, false, none) 0x400000 x.1 with
      | .error (.stop _ _ _ _ none) => true
      | _ => false) = true := by
  decide +kernel

/-- PagesMigrate: a legal descriptor and an illegal one; a command that stands ahead of a marker and one that does not; a page
that can begin to move, one that a uvec names and one that another migration holds. -/
theorem test_hyp_Pages_begin :
    let s := chainAt chain0 (Memory.write [] 0x200 64 (0x1000 + 1 * 2 ^ 64))
    let c := fun (k : Chain) => ({ world core0 with chains := [(0, k)] } : Module)
    let run : Chain := { chain0 with fired := some [] }
    let far := world { core0 with l := { core0.l with uvec := 0x400000 }, x := { core0.x with uvec := 0x400000 }
                                  st := { core0.st with uvec := 0x400000 } }
    let no : Nat → Chain → Bool := fun _ _ => false
    let ahead := fun (m : Module) (x : List Nat × List Who) => decide ((placeMarkers m 0 0 0x200000 no).1 = x)
    okAnd (chLoad s.m s.chain none (recDesc rec0) 64) (fun x => rec0.bufs == 0 && decide (dSrc (ofBytes x.1) < 2 ^ 57) &&
      decide (dDst (ofBytes x.1) ≤ 2) && fld (ofBytes x.1) 128 384 == 0) = true ∧ ¬(dDst (3 * 2 ^ 64) ≤ 2) ∧
    inProgress s.m (engineOf chain0) < engineRunCap (engineOf chain0) ∧
    ahead (c run) ([0], []) = true ∧ ahead (c { run with held := true }) ([], []) = true ∧ Tbl.get {} (c run).chains 0 = run ∧
    okAnd (walk sX.m 0 0x40) (fun x => decide (pteTier x.1 ≠ 2 ∧ x.1 < 2 ^ 64)) = true ∧ Memory.wf sX.m.phys = true ∧
    uvecNames far 0 0 0x200000 = false ∧ uvecNames sX.m 0 0 0x200000 = true ∧ isOk (beginMove far 0 0x40 no) = true ∧
    (walk (putEntry sX.m 0 0x40 9 0x20049F) 0 0x40 = .error .busy) ∧
    isOk (walk sX.m 0 0x400000) = false := by
  decide +kernel

/-- The test module with a free-frame list. -/
def worldFrames : Module := { world core0 with ccbs := [(0, Tbl.set 0 ccb0 8 0x8000)] }

/-- PagesMigrate: whether a free frame is there is a free value; when the list has one, the page moves. -/
theorem test_hyp_Pages_frame (h : Config.freeValue 0 % 2 = 1) :
    leafEntry worldFrames 0 0x40 = (0x20009F, 0, 9) ∧ isOk (finishMove worldFrames 0 0x40 0 (chainActor chain0 none)).1 = true := by
  have hl : leafEntry worldFrames 0 0x40 = (0x20009F, 0, 9) := by decide +kernel
  have hn : worldFrames.nextFresh = (0, { worldFrames with fresh := 1 }) := rfl
  have hc : fld (ccb { worldFrames with fresh := 1 } 0 8) 0 57 ≠ 0 := by decide +kernel
  have hf : (takeFrame worldFrames 0 9 0).1.isSome = true := by
    unfold takeFrame
    rw [hn]
    simp [hc, h]
  refine ⟨hl, ?_⟩
  rcases ht : takeFrame worldFrames 0 9 0 with ⟨_ | f, m⟩
  · simp [ht] at hf
  · unfold finishMove
    rw [hl]
    have hp : ∀ e, readPage worldFrames (chainActor chain0 none) 0 (pteFrame 0x20009F) (2 ^ (12 + 9)) e = (worldFrames, none) :=
      fun _ => by unfold readPage; rw [if_neg (by decide +kernel)]; simp [show worldFrames.poison = [] from rfl]
    simp only [show putFld 0x20009F 10 1 0 = 0x20009F by decide +kernel, hp, ht]
    rfl

/-- PagesMigrate: a context without a free-frame list; a list header that names a block of the page, and one that names none. -/
theorem test_hyp_Pages_fail :
    let p : ZPool := { hbase := 0x1000, hcount := 1, bbase := 0, bcount := 0, ctab := 0, stack := 0 }
    let h := 0x40 * 2 ^ 64
    let m : Module := { world core0 with phys := Memory.write tables0 0x201000 8 0 }
    let n : Module := { world core0 with phys := Memory.write tables0 0x201000 64 h }
    isOk (finishMove sX.m 0 0x40 0 (chainActor chain0 none)).1 = false ∧ hBlock h = 0x40 ∧ h ≠ 0 ∧
    okAnd (loadDev m none none 0 .read p.hbase 64) (fun x => ofBytes x.1 == 0) = true ∧
    okAnd (loadDev n none none 0 .read p.hbase 64) (fun x => ofBytes x.1 == h &&
      isOk (storeDev n none none 0 p.hbase (toBytes 64 (putFld h 136 2 2)))) = true ∧
    isOk (loadDev n none none 0 .read 0x400000 64) = false := by
  decide +kernel

/-- PagesMigrate: MIG with and without markers, ahead of which something and nothing stands; a pager's stream, chain and
dispatcher's call on a page on flash; INVM with and without selfmap, in and beyond device space, with markers placed. -/
theorem test_hyp_Pages_serve :
    let k : Chain := { chain0 with fired := some [], desc := 0x40, markers := some ([1], []) }
    let j : Chain := { chain0 with old := some [] }
    let s := fun (old : Bool) => ({ m := { world core0 with chains := if old then [(0, k), (1, j)] else [(0, k)] }
                                    chain := .job 0 0 0 } : State)
    let waits := fun (s : State) (ks : List Nat) => ks.any fun n => (Tbl.get {} s.m.chains n).old.isSome
    let v : Service := { dev := some (0, 0x40), who := some ⟨0, 0, .x⟩ }
    let flash : Memory := Memory.put tables0 0x4001 2
    let p := with_ .x fun x => { x with paged := true }
    let m := fun (x : Service) => ({ p.m with phys := flash, dies := [(0, { die0 with services := [(2, x)] })] } : Module)
    let n : Module := { world core0 with ccbs := [(0, Tbl.set 0 ccb0 1 0x8000000000050700)] }
    let no : Nat → Chain → Bool := fun _ _ => false
    waits (s true) [1] = true ∧ waits (s false) [1] = false ∧ ((s true).m.chain (s true).chain).fired = some [] ∧
    okAnd (walk (m v) 0 0x40) (fun x => pteTier x.1 == 2) = true ∧ isOk (beginMove (m v) 0 0x40 no) = true ∧
    (Tbl.get {} ((m v).die 0).services 2).dev = some (0, 0x40) ∧ ((m v).strm ⟨0, 0, .x⟩).paged = true ∧
    (∀ i ∈ [0, 1], serveSlot (m v) 0 i false = none) ∧
    ({ v with who := none, disp := true } : Service).disp = true ∧ ({ v with who := none, chain := some (.job 0 0 0) } : Service).who = none ∧
    isOk (finishMove (m v) 0 0x40 0 (serviceActor (m v) 0 2 0)).1 = false ∧ isOk (walk (m v) 0 0x400000) = false ∧
    okAnd (walk sX.m 0 0x40) (fun x => pteTier x.1 != 2 && decide (¬2 ≤ pteTier x.1)) = true ∧ ({} : Service).dev = none ∧
    isOk (fetch64 sS 5 (.s 1)) = true ∧ isOk (fetch32 sS 5 (.lit 16)) = true ∧
    ctxSelfmap sS.m sS.core.ctx = true ∧ ctxSelfmap n 0 = false ∧ sS.srcStrm.sreg 1 % 4096 ≠ 0 ∧ sS.srcStrm.sreg 0 % 4096 = 0 ∧
    sS.strm.wait = .none ∧ (with_ .s fun x => { x with wait := .invm [1] [] }).strm.wait = .invm [1] [] := by
  decide +kernel

/-! ### Engines and sequence managers -/

/-- LeasesAreGrantedByRule: counts 0, 1, 64 and 65, jobs with and without a lease; requests that have seen 14 and 15 grants; an
array that is free, one that is leased and one that a freeze holds. -/
theorem test_hyp_LeasesAreGrantedByRule :
    let r := fun (c : Fin 128) (n : Nat) => ({ core := c, n := 4, prio := 1, seen := n } : LeaseReq)
    let m := fun (l : Option (Fin 128 × Nat)) (q : List LeaseReq) => ({ world core0 with clusters := [(0, { lease := l, reqs := q })] } : Module)
    isOk (fetch32 sS 5 (.lit 64)) = true ∧ sS.strm.wait = .none ∧ (sS.m.cluster 0 0).lease = none ∧
    (sS.m.cluster 0 0).reqs = [] ∧ ((m (some (0, 3)) []).cluster 0 0).lease = some (0, 3) ∧
    (with_ .s fun x => { x with wait := .lease }).strm.wait = .lease ∧
    (with_ .s fun x => { x with wait := .leased }).strm.wait = .leased ∧
    chooseLease 0 [r 3 14, r 5 15] = some (r 5 15) ∧ chooseLease 4 [r 3 14, r 5 14] = some (r 5 14) ∧
    isFrozen sS.m 0 (.cluster 0 0) = false ∧
    isFrozen { sS.m with dies := [(0, { die0 with freezes := [(.cluster 0 0, 9)] })] } 0 (.cluster 0 0) = true ∧
    clusterOf 3 = 0 ∧ arrayBusy (m none [r 3 0]) 0 0 = false ∧ chooseLease ((m none [r 3 0]).cluster 0 0).rr [r 3 0] = some (r 3 0) := by
  decide +kernel

/-- The test die with a buffer object of 1,024-byte entries at local address 0, one published and room for more. -/
def dieBig : Die := { die0 with bufs := [(0x480, { ebytes := 1024, nent := 4, prod := 1, claim := 1 })] }
/-- A command state: a chain, bytes of the unit scratchpad, a cluster. -/
def engineAt (k : Chain) (mem : Memory) (c : Cluster) : State :=
  { m := { (chainAt { k with views := { k.views with handles := [(0, 0x8000000000080480), (1, 0x8000000000000480), (2, 0x8000000000080480)] } } mem).m
      with dies := [(0, dieBig)], clusters := [(0, c)] }, chain := .job 0 0 0 }

/-- KanteleCommandsAccumulateAndDrain: a mode that array 0 accepts and one that it refuses, with and without a lease, under the same
and another anchor; the command in progress with 0, 1 and 2 mismatches; a drain, and one that a race stops. -/
theorem test_hyp_KanteleCommandsAccumulateAndDrain :
    let k : Chain := { chain0 with cls := .kantele }
    let r : Rec := { rec0 with cls := .kantele, bufs := 0x20, w1 := 0x00010101, w2 := 0x00004101 }
    let go := engineAt k [] { lease := some (0, 5) }
    let no := engineAt k [] {}
    let f : Chain := { k with fired := some [(0, 0), (2, 0)], idxs := [0] }
    let run := engineAt f [] { lease := some (0, 5) }
    let d : Rec := { rec0 with cls := .kantele, bufs := 1, w1 := 0x00010001, w2 := 4 }
    let out := engineAt { k with fired := some [(1, 1)] } [] { lease := some (0, 5) }
    let race := fun (keys : List Nat) => ({ out with m := { out.m with dies := [(0, raceTags { dieBig with
      bufs := [(0x480, { ebytes := 1024, nent := 4, prod := 1, claim := 1, base := 0x200000000 })] } keys)] } } : State)
    let p := planesOf (mMode r) (mMask r)
    mmpOk r = true ∧ p = some 1 ∧ arrayAccepts 0 (mMode r) 1 = true ∧ arrayAccepts 0 0 8 = false ∧ planesOf 0 0xFF = some 8 ∧
    isOk (entryTest go.m (go.m.chain go.chain) (mAcb r) (actBytes r) true) = true ∧
    isOk (entryTest go.m (go.m.chain go.chain) (mWcb r) (wgtBytes r (planeRange (mMode r) 1).2) true) = true ∧
    isOk (fire go.m go.chain [mAcb r, mWcb r] none) = true ∧ isOk (leaseTest go.m (go.m.chain go.chain)) = true ∧
    isOk (leaseTest no.m (no.m.chain no.chain)) = false ∧ mStart r = true ∧ mStart { r with w2 := 0x00010101 } = false ∧
    BitVec.ofNat 8 (mAnchor { r with w2 := 0x00010101 }) ≠ (go.m.cluster 0 0).anchor ∧
    okAnd (chLoad run.m run.chain (some (0x480, 0)) (firedEntry run.m (run.m.chain run.chain) 0).2.2 (actBytes r)) (fun x =>
      isOk (loadImageOf x.2 run.chain (0x480, 0) (firedEntry run.m (run.m.chain run.chain) 2).2.2 (mStride r) (mBlocks r) 1)) = true ∧
    mN r ≤ 512 ∧ mdrOk d = true ∧ mdrOk { d with w2 := 3 } = false ∧ rN d ≤ 512 ∧
    isOk (entryTest go.m (go.m.chain go.chain) (rOcb d) (rData d + rStatus d) false) = true ∧
    isOk (fire go.m go.chain [] (some (rOcb d))) = true ∧
    isOk (chStore out.m out.chain (some (0x480, 1)) (firedEntry out.m (out.m.chain out.chain) 1).2.2
      (List.replicate (rData d + rStatus d) 0)) = true ∧
    (match chStore (race [0x080000000400 / 64]).m out.chain (some (0x480, 1)) (firedEntry (race []).m (out.m.chain out.chain) 1).2.2
        (List.replicate (rData d + rStatus d) 0) with
     | .error (.after _ 0 (.stop 8 0 0x200000400 0 none)) => true
     | _ => false) = true ∧
    (-(2 : Int) ^ 127 ≤ 3 * 2 ^ (0 - 0 + 64 : Int).toNat) ∧ (3 * 2 ^ (0 - 0 + 64 : Int).toNat < (2 : Int) ^ 127) ∧
    ((2 : Int) ^ 127 ≤ 1 * 2 ^ (63 - 0 + 64 : Int).toNat) ∧ (-2 * 2 ^ (63 - 0 + 64 : Int).toNat < -(2 : Int) ^ 127) := by
  decide +kernel

/-- Pools of Zither 0 for the test context: four header frames from 0xA000, four block frames from 0x10000, counts at 0xB000;
a list of one header with three tokens of 64 bytes, its block counted once. -/
def zMem : Memory :=
  ([(0x209000, 8, 0xA000), (0x209008, 8, 4), (0x209010, 8, 0x10000), (0x209018, 8, 4), (0x209020, 8, 0xB000),
    (0x20A008, 8, 0x10000), (0x20A010, 8, 3), (0x20B000, 2, 1)] : List (Nat × Nat × Nat)).foldl
    (fun m e => Memory.write m e.1 e.2.1 e.2.2) tables0
def zAt (k : Chain) (mem : Memory) : State :=
  let s := engineAt { k with cls := .zither } mem {}
  { s with m := { s.m with phys := zMem, ccbs := [(0, Tbl.set 0 ccb0 7 0x9000)], zithers := [(0, { headers := [(0, [0xA040])] })] } }
/-- A descriptor for the list at 0xA000: heads of 16, with a count. -/
def zDesc (q n : Nat) : Nat := 16 * 2 ^ 240 + q * 2 ^ 256 + n * 2 ^ 288 + 0xA000 * 2 ^ 320 + 0x300 * 2 ^ 384

/-- AttentionCommandsKeepTheirLists: commands that start, that go on, one token to append, rows to attend; the changes of a list of
one header. -/
theorem test_hyp_AttentionCommandsKeepTheirLists :
    let s := zAt chain0 (Memory.write [] 0x200 64 (zDesc 0 2))
    let g := zAt { chain0 with fired := some [], desc := BitVec.ofNat 512 (zDesc 0 0) } []
    let a := zAt { chain0 with fired := some [(0, 0)], desc := BitVec.ofNat 512 (zDesc 0 1) } []
    let r : Rec := { rec0 with bufs := 0x10 }
    let n := zAt { chain0 with fired := some [(0, 0), (1, 1)], desc := BitVec.ofNat 512 (zDesc 1 3) } []
    zDescOk true (zDesc 0 2) = false ∧ zDescOk false (zDesc 1 2) = false ∧ zDescOk false (zDesc 0 2) = true ∧
    okAnd (chLoad s.m s.chain none (recDesc rec0) 64) (fun x => x.1.length == 64 && ofBytes x.1 == zDesc 0 2) = true ∧
    inProgress s.m (engineOf (s.m.chain s.chain)) < engineRunCap (engineOf (s.m.chain s.chain)) ∧
    okAnd (zActorOf g.m g.chain) (fun q =>
      okAnd (cutList q g.m 0xA000 2) (fun _ => true) && chRange g.m (g.m.chain g.chain) 0x300 8 &&
      okAnd (forkList q g.m 0xA000 0) fun f => isOk (chStore f.2 g.chain none 0x300 (toBytes 8 f.1))) = true ∧
    okAnd (zActorOf a.m a.chain) (fun q => okAnd (chLoad a.m a.chain (some (0x480, 0))
      (firedEntry a.m (a.m.chain a.chain) 0).2.2 (4 * 16)) fun x => x.1.length == 64 && isOk (appendToken q x.2 0xA000 16 x.1)) = true ∧
    okAnd (zActorOf n.m n.chain) (fun q => okAnd (chLoad n.m n.chain (some (0x480, 0))
      (firedEntry n.m (n.m.chain n.chain) (recIn r)).2.2 (16 * 2)) fun x => okAnd (chLoad x.2 n.chain none 0x300 8) fun y =>
        okAnd (listAt q y.2 0xA000) fun z => okAnd ((z.1.foldr insertHeader []).foldlM (fun (b : List (Nat × KV) × Module) h => do
          let (ts, m) ← headerTokens q 16 b.2 h
          .ok (b.1 ++ ts, m)) ([], z.2) : ZM _) fun w => w.1.length == 3 &&
            isOk (chStore w.2 n.chain (some (0x480, 1)) (firedEntry n.m (n.m.chain n.chain) (recOut r)).2.2 (List.replicate 64 0))) = true ∧
    okAnd (zActorOf g.m g.chain) (fun q => okAnd (listAt q g.m 0xA000) fun x => match x.1 with
      | [(0xA000, h)] => hFill h == 3 && !hCow h && hFirst h == 0 &&
          isOk (zStore q x.2 0xA000 (hBlock h + 3 * (4 * 16)) (List.replicate 64 1)) &&
          isOk (zStore q x.2 0xA000 0xA000 (toBytes 64 (withNext (withFill h 2) 0)))
      | _ => false) = true := by
  decide +kernel

/-- AttentionCommandsKeepTheirLists, the fork: a free header is there, whichever word of an unmapped stack area the Zither
writes, the block's count can be raised and the copy stored. -/
def zFork : Module :=
  let g := zAt { chain0 with fired := some [], desc := BitVec.ofNat 512 (zDesc 0 0) } []
  { g.m with phys := Memory.write zMem 0x209028 8 0x400000 }
def zForkActor : ZActor :=
  { ctx := 0, z := 0, actor := chainActor (zFork.chain (.job 0 0 0)) none, old := none
    pool := { hbase := 0xA000, hcount := 4, bbase := 0x10000, bcount := 4, ctab := 0xB000, stack := 0x400000 } }
theorem test_hyp_Attention_fork :
    okAnd (takeHeader zForkActor zFork 0xA000) (fun y => okAnd (incCount zForkActor y.2 0xA000 0x10000) fun m =>
      isOk (zStore zForkActor m y.1 y.1 (toBytes 64 0))) = true ∧
    okAnd (zActorOf zFork (.job 0 0 0)) (fun q => decide (q.pool.stack = zForkActor.pool.stack)) = true := by
  refine ⟨?_, by decide +kernel⟩
  have away : ∀ i < 8, ∀ v, ∃ e, storeDev { zFork with fresh := 3, zithers := [] } none none 0
      (0x400000 + 4 * i) (toBytes 4 v) = .error e := by
    intro i hi v
    have hl : (toBytes 4 v).length = 4 := by simp [toBytes]
    have hd : ∀ j : Fin 8, isOk (devLocs { zFork with fresh := 3, zithers := [] } none 0 .write
        (linePieces (0x400000 + 4 * j.val) 4)) = false := by decide +kernel
    have := hd ⟨i, hi⟩
    unfold storeDev
    rw [hl]
    generalize devLocs _ _ _ _ _ = y at this ⊢
    cases y with
    | error e => exact ⟨e, rfl⟩
    | ok y => cases this
  have touch : stackTouch { zFork with fresh := 1, zithers := [] } 0 zForkActor.pool =
      { zFork with fresh := 3, zithers := [] } := by
    obtain ⟨e, he⟩ := away (Config.freeValue 1 % 8) (Nat.mod_lt _ (by decide)) (Config.freeValue 2)
    simp only [stackTouch, Module.nextFresh]
    erw [he]
    rfl
  have take : takeHeader zForkActor zFork 0xA000 =
      .ok (0xA040, { zFork with fresh := 3, zithers := [] }) := by
    rw [← touch]
    unfold takeHeader takeFree
    simp only [Module.nextFresh]
    have h0 : Tbl.get [] (zFork.zither zForkActor.z.val).headers zForkActor.ctx.val = [0xA040] := by decide +kernel
    rw [h0]
    simp [Nat.mod_one]
    rfl
  rw [take]
  decide +kernel

/-- A pass descriptor: two f32 elements from 0x300 to 0x340 through one op, add the literal 1, slot 1. -/
def pDesc : Nat :=
  0x300 + 0x340 * 2 ^ 64 + 2 * 2 ^ 128 + 4 * 2 ^ 160 + 4 * 2 ^ 164 + 1 * 2 ^ 168 + 1 * 2 ^ 176 +
    (0x20 + 3 * 2 ^ 10 + 0x3F80 * 2 ^ 16) * 2 ^ 256

/-- PassesRunTheirWords: a legal and a bad descriptor, granted and ungranted slots, a jet order, a full queue; a pass that runs and one
that faults; a PAS that starts and runs. -/
theorem test_hyp_PassesRunTheirWords :
    let mem := Memory.write [] 0x200 64 pDesc
    let s := at_ { world { core0 with unitMem := mem } with dies := [(0, dieBig)] } .s
    let p : Pass := { who := ⟨0, 0, .s⟩, ctx := 0, at_ := 0x200, desc := BitVec.ofNat 512 pDesc, slot := 1, phase := 0
                      views := Views.empty, consts := [0] }
    let far : Nat := pDesc - 0x300 + 0xFFFFC
    let two : Nat := pDesc % 2 ^ 256 + 2 ^ 168 + (0x20 + 2 * 2 ^ 10) * 2 ^ 256 + (0x20 + 2 ^ 8) * 2 ^ 288
    let t := chainAt { chain0 with cls := .chain } mem
    passOk pDesc = true ∧ passOk (pDesc + 2 ^ 48) = false ∧ pSlot pDesc = 1 ∧ (s.m.barrier 0 1).valid = true ∧
    grantSlot s.m s.core.ctx 1 = true ∧ grantSlot s.m s.core.ctx (pSlot (pDesc + 3 * 2 ^ 176)) = false ∧ s.strm.jord = 0 ∧
    isOk (fetch64 s 5 (.a 3)) = true ∧ okAnd (memLoad 5 0x200 64 s) (fun x => ofBytes x.1 == pDesc && !releaseWaits x.2.src ⟨0, 0, .s⟩ true) = true ∧
    passRanges s.m s.core.ctx true pDesc = none ∧ (passRanges s.m s.core.ctx true far).isSome = true ∧
    constWaits s.core pDesc = false ∧ (s.m.cluster 0 0).passes.length < 8 ∧
    8 ≤ (({ s.m with clusters := [(0, { passes := List.replicate 8 p })] } : Module).cluster 0 0).passes.length ∧
    pSlot (pDesc + 2 ^ 176) = 2 ∧ passOk (pDesc + 2 ^ 176) = true ∧ (s.m.barrier 0 2).valid = false ∧
    passOk (pDesc + 3 * 2 ^ 176) = true ∧ (({ s.m with dies := [(0, die4)] } : Module).barrier 0 4).valid = true ∧ isFrozen s.m 0 (.cluster 0 0) = false ∧
    (match passLoop p.actor p.ctx 0 (some 0) pDesc p.consts 2 0 0 s.m with
     | (m, fl, _, none) => isOk (storeLocal m (some p.actor) p.ctx 0 (some 0) (0x200 + 24) (toBytes 4 (2 ^ 31 + fl.toNat % 32)))
     | _ => false) = true ∧
    (match passLoop p.actor p.ctx 0 (some 0) far p.consts 2 0 0 s.m with
     | (_, _, _, some (.fault _ _ _ none)) => true
     | _ => false) = true ∧
    (t.m.chain t.chain).core = some 0 ∧ pSlot pDesc = (t.m.chain t.chain).slot.val ∧
    okAnd (chLoad t.m t.chain none (recDesc rec0) 64) (fun x => ofBytes x.1 == pDesc) = true ∧
    inProgress t.m (engineOf (t.m.chain t.chain)) < engineRunCap (engineOf (t.m.chain t.chain)) ∧
    pNops pDesc = 1 ∧ wX (pOp pDesc 0) = 0 ∧ wY (pOp pDesc 0) = 3 ∧
    pNops two = 2 ∧ wX (pOp two 0) = 0 ∧ wY (pOp two 0) = 2 ∧ wX (pOp two 1) = 1 ∧ wY (pOp two 1) = 0 ∧ passOk two = true ∧
    isFrozen { s.m with dies := [(0, { dieBig with freezes := [(.cluster 0 0, 9)] })] } 0 (.cluster 0 0) = true ∧
    okAnd (loadLocal s.m (some p.actor) 0 0 (some 0) 0x300 4) (fun x =>
      isOk (storeLocal x.2 (some p.actor) 0 0 (some 0) 0x340 (toBytes 4 0))) = true := by
  decide +kernel

/-- A request of the test context: greedy, heads of 16, a vocabulary of 2, length 2, the list at 0xA000. -/
def reqBits : Nat := 0xA000 * 2 ^ 64 + 2 * 2 ^ 128 + 16 * 2 ^ 208 + 2 * 2 ^ 256
def req0 : SeqReq :=
  { ctx := 0, rule := 0, length := 2, head := 0xA000, dh := 16, vocab := 2, seq := 0, key := 0, draws := 0, tau := 0, tree := none
    clk := [] }
def seqAt (mem : Memory) (q : List (Nat × Option SeqReq)) : State :=
  at_ { world { core0 with unitMem := mem } with
    phys := zMem, ccbs := [(0, Tbl.set 0 ccb0 7 0x9000)], dies := [(0, { die0 with reqs := q })] } .s

/-- SequenceRequestsAreJudgedInOrder: free, open and foreign numbers; a legal image; a tree to submit and one to judge. -/
theorem test_hyp_SequenceRequestsAreJudgedInOrder :
    let free := seqAt (Memory.write [] 0x200 64 reqBits) []
    let tree := seqAt (Memory.write (Memory.write [] 0x200 64 (0x280 + 1 * 2 ^ 64 + 64 * 2 ^ 96)) 0x240 8 (1 + 31 * 2 ^ 24)) [(0, some req0)]
    let acc := seqAt (Memory.write [] 0x200 64 (0x280 + 64 * 2 ^ 96)) [(0, some { req0 with tree := some ([(0, 31, 0)], 0x400, 64) })]
    let other := seqAt [] [(0, some { req0 with ctx := 1 })]
    isOk (fetch64 free 5 (.lit 0)) = true ∧ getReq free.m 0 0 = none ∧ getReq tree.m 0 0 = some req0 ∧
    (match getReq other.m 0 0 with | some r => decide (r.ctx ≠ other.core.ctx) | none => false) = true ∧
    addrOf tree (.a 3) % 64 = 0 ∧
    okAnd (memStore 5 0x200 (toBytes 64 (reqImage req0)) tree) (fun u => !releaseWaits u.src ⟨0, 0, .s⟩ false) = true ∧
    isOk (fetch32 tree 5 (.lit 2)) = true ∧ 2 ≤ req0.length.toNat ∧ req0.length.toNat < 3 ∧ isOk (cutChain tree req0 2) = true ∧
    okAnd (memLoad 5 0x200 64 tree) (fun x => let h := ofBytes x.1
      fld h 48 16 == 0 && fld h 70 26 == 0 && fld h 128 384 == 0 && fld h 64 6 == 1 && strideOk 2 (fld h 96 32) &&
      okAnd (memLoad 5 0x240 8 x.2) fun y => (treeNodes 2 [] [ofBytes y.1]).isSome && !releaseWaits y.2.src ⟨0, 0, .s⟩ false) = true ∧
    okAnd (memLoad 5 0x200 64 acc) (fun x => let h := ofBytes x.1
      fld h 48 48 == 0 && fld h 128 384 == 0 && strideOk 2 (fld h 96 32) &&
      okAnd (readRows x.2 (fld h 0 48) (fld h 96 32) 2 [0, 1]) fun y => y.1.length == 2 && !releaseWaits y.2.src ⟨0, 0, .s⟩ false &&
        isOk (cutChain (jobAcquire [] (jobReleased y.2)) { req0 with length := 3 } 3)) = true ∧
    okAnd (memLoad 5 0x200 64 free) (fun x => (imageReq 0 (ofBytes x.1)).isSome && !releaseWaits x.2.src ⟨0, 0, .s⟩ true) = true ∧
    imageReq 0 (3 * 2 ^ 192) = none := by
  decide +kernel

/-- SequenceRequestsAreJudgedInOrder, trees: two draft nodes under the root, judged by each rule; a node that a draw takes and
one that it passes over, by its probability; rows that sum to 0 and to more. -/
theorem test_hyp_Sequence_trees :
    let ns : List (Nat × Nat × W32) := [(0, 31, 0x3F000000), (1, 31, 0x3F000000)]
    let q := fun (rule : Nat) => ({ req0 with rule := rule, tree := some (ns, 0x400, 64) } : SeqReq)
    let s := fun (rule : Nat) => seqAt (Memory.write (Memory.write [] 0x200 64 (0x280 + 64 * 2 ^ 96)) 0x280 8 0x3F0000003F000000)
      [(0, some (q rule))]
    let val := fun (x : Nat) => dyQ (rowVal x)
    let u : ℚ := ((randElem .i64 0 0 0 0 / 2 ^ 40 : Nat) : ℚ) / 2 ^ 24
    (∀ rule ∈ [0, 1, 2], getReq (s rule).m 0 0 = some (q rule) ∧
      okAnd (memLoad 5 0x200 64 (s rule)) (fun x => let h := ofBytes x.1
        fld h 48 48 == 0 && fld h 128 384 == 0 && strideOk 2 (fld h 96 32) &&
        okAnd (readRows x.2 (fld h 0 48) (fld h 96 32) 2 [0, 1, 2]) fun y =>
          okAnd (if rule = 2 then readRows y.2 0x400 64 2 [0, 1, 2] else .ok ([], y.2)) fun z =>
            let j := judgeLoop (q rule) (fun k => y.1.getD k []) (fun k => z.1.getD k []) z.2.m 9 { draws := 0 }
            let x : State := { z.2 with m := j.2.2 }
            !releaseWaits x.src ⟨0, 0, .s⟩ false &&
              isOk (cutChain (jobAcquire [] (jobReleased x)) { q rule with length := 2 + BitVec.ofNat 32 j.1.c } (2 + j.1.c))) = true) ∧
    kidsOf ns none = [(0, 0, 0x3F000000), (1, 1, 0x3F000000)] ∧ kidsOf ns (some 0) = [] ∧ val 0x3F000000 ≠ 0 ∧ val 0 = 0 ∧
    u * val 0x3F000000 < val 0x3F800000 ∧ val 0 ≤ u * val 0x3F000000 ∧ (∀ x ∈ [0, 0x3F000000], x < 0x7F800000) ∧
    (faddB .f32 0 0 0x3F000000).1 ≠ 0 ∧ (faddB .f32 0 0 0).1 = 0 ∧ (unpack .f32 0x3F000000).isNan = false := by
  decide +kernel

/-- SpecialRegistersReadAndWrite: shapes at their limits and beyond, a handler address that is aligned and mapped, handles that are
granted, not granted and invalid; a bundle that has issued and one that has not. -/
theorem test_hyp_SpecialRegistersReadAndWrite :
    specListed 0x90 = true ∧ specListed 0xF = false ∧ sX.strm.issued = none ∧
    (with_ .x fun x => { x with issued := some {
      v := [], p := [], kbank := [], getx := 7, qlxNone := true, qxsNone := true, popL := false, popR := false, opa := 0, opb := 0, opc := 0 } }).strm.issued.isSome = true ∧
    isOk (fetch64 sX 5 (.lit 0x4040)) = true ∧ 1 ≤ 0x4040 % 128 ∧ 0x4040 % 128 ≤ 64 ∧ 0x4040 / 256 % 128 = 64 ∧ 0x101 % 128 = 1 ∧
    64 < 0x4141 % 128 ∧ 0x4000 % 128 = 0 ∧ sX.core.job = some job ∧ sX.core.qlx.ring = none ∧ sX.core.qxs.ring = none ∧
    0x40 % 64 = 0 ∧ isOk (translate sX.m (some (.core 0 0)) sX.core.ctx .fetch 0x40) = true ∧
    grantBuf sX.m sX.core.ctx 0x487 = true ∧ grantBuf sX.m sX.core.ctx 0x488 = false ∧ sX.strm = sX.srcStrm := by
  decide +kernel

/-! ### Graphs, upkeep, fabric, management -/

/-- A dispatcher's read is there and meets a test. -/
def readAnd {α : Type} (x : Disp (Except Nat α × Module)) (p : α → Module → Bool) : Bool :=
  match x with
  | .ok (.ok a, m) => p a m
  | _ => false

/-- A graph of two nodes at device address 0x1000: node 0 a KERN node of width 1 with the job image at 0x1200, node 1 a GATE; the tag
0x77 at the end of the payload at 0x1400. -/
def nodeBits : Nat := 2 ^ 16 + (2 ^ 64 - 1) * 2 ^ 96 + 0xFF * 2 ^ 160 + 0x1200 * 2 ^ 256
def gateBits : Nat := 5 + (2 ^ 64 - 1) * 2 ^ 96 + 0xFF * 2 ^ 160
def graphMem : Memory :=
  Memory.write (Memory.write (Memory.write (Memory.write tables0 0x201000 2 2) 0x201040 64 nodeBits) 0x201080 64 gateBits) 0x201400 1 0x77
def launchBits (tag : Nat) : Nat := 0xFFFFFF00 + 5 * 2 ^ 32 + 0x1000 * 2 ^ 64 + 0x1400 * 2 ^ 192 + 3 * 2 ^ 256 + (tag + 4 * 2 ^ 32) * 2 ^ 320
def launchOf_ (tag reads : Nat) : Launch :=
  { ctx := 0, image := BitVec.ofNat 512 (launchBits tag), clk := [], reads := reads, nextAt := 0 }
def worldGraph (ls : List Launch) (gs : List Machine.Instance) : Module :=
  { phys := graphMem, ccbs := [(0, ccb0)], dies := [(0, { die0 with launches := ls })], graphs := gs }
def inst1 (ns : List NodeRun) : Machine.Instance := { inst0 ns with graph := 0x1000, image := BitVec.ofNat 512 (launchBits 0x77) }

def poolEnt (n : BitVec 16) (p : Nat) : PoolEnt := { ctx := 0, graph := 0x1000, node := n, prio := p, readyAt := 0, levelAt := 0, seq := 0 }

/-- GraphsLaunchAndBecomeReady: a tag that is there and one that is not, at the first reading and the last; a bad tuple; a node that
becomes ready in the pool, and in the overflow with and without quota; pending counts 0, 1 and 2; a line of a constant bank, one
that faults. -/
theorem test_hyp_GraphsLaunchAndBecomeReady :
    let l := launchOf_ 0x77 0
    let m := worldGraph [l] []
    let i := inst1 []
    let c := { core0 with nconst := 4, kaddr := 0x1500 }
    let late := fun (spill : Nat) => ({ worldGraph [] [i] with
      ticket := 5, dies := [(0, { die0 with overflow := [poolEnt 1 2] })], ctxs := [(0, { spill := spill })]
      ccbs := [(0, Tbl.set 0 ccb0 2 0x00100000000061A8)] } : Module)
    let enters := fun (m : Module) (ok : Module → Bool) => (match readyRecord m i 0 with
      | .ok (.ok _, m1) =>
        let m2 := enterAll 0 (m1.die 0).overflow.length m1
        (ok m2, decide ((m2.die 0).pool.length < 4096) &&
          decide (((m2.die 0).pool.filter fun p => decide (p.ctx = 0)).length < ctxPshare m2 0))
      | _ => (false, false))
    (m.die 0).launches = [l] ∧ ctxValid m l.ctx = true ∧ findInst m 0 (BitVec.ofNat 57 (launchGraph l.image)) = none ∧ l.reads = 0 ∧
    m.graphs = [] ∧ launchOk l.image = true ∧ launchOk (BitVec.ofNat 512 (launchBits 0x77 + 2 ^ 448)) = false ∧
    (launchOf_ 0x78 15).reads ≠ 0 ∧ ((m.die 0).cyc - (launchOf_ 0x78 15).nextAt).toNat < 2 ^ 63 ∧ ¬((launchOf_ 0x78 15).reads < 15) ∧
    readAnd (dispRead m 0 0 0x1000 64) (fun x m => headerOk 0x1000 0 x && !headerOk 0x1000 2 x &&
      readAnd (dispRead m 0 0 (nodeAt 0x1000 0) 64) fun _ m => readAnd (dispRead m 0 0 0x1400 4) fun t m => t == 0x77 &&
        match makeReady (setLaunch { m with graphs := [i] } 0 l none) 0 0x1000 0 with
        | .ok w => (match findInst w 0 0x1000 with
          | some k => !k.nodes.isEmpty
          | none => false)
        | .error _ => false) = true ∧
    enters (worldGraph [] [i]) (fun _ => true) = (true, true) ∧
    enters (late 0) (fun m => decide ((m.ctx 0).spill + 64 ≤ ctxSquota m 0)) = (true, false) ∧
    enters (late 0x10000) (fun m => decide (ctxSquota m 0 < (m.ctx 0).spill + 64)) = (true, false) ∧
    findInst (worldGraph [] [i]) 0 0x1000 = some i ∧ i.reported = false ∧
    (∀ n ∈ [0, 1, 2], Tbl.get none ([(1, some n)] : Tbl (Option Nat)) 1 = some n) ∧ c.kfault = false ∧ (∀ x ∈ i.nodes, x.node.toNat ≠ 1) ∧ c.job ≠ none ∧ c.kloaded < c.nconst ∧
    readAnd (dispLine (world c) 0 0 0x1500 16) (fun _ _ => true) = true ∧
    (match dispLine (world c) 0 0 0x400000 16 with
     | .ok (.error _, _) => true
     | _ => false) = true := by
  decide +kernel

/-- A node of the test graph with a record. -/
def nodeWith (bits : Nat) (st : NodeState) (n : BitVec 16) : NodeRun := { node0 st n with image := BitVec.ofNat 512 bits }
def worldPool (bits : Nat) : Module :=
  { worldGraph [] [inst1 [nodeWith bits .waiting 0, node0 .waiting 1]] with dies := [(0, { die0 with pool := [poolEnt 0 3] })] }

/-- NodesDispatchAndComplete: each kind at the head of the pool, a width that is too large and one that must wait, as the head and behind
another head; a job that has ended; nodes that have completed. -/
theorem test_hyp_NodesDispatchAndComplete :
    let m := worldPool nodeBits
    let i := inst1 [nodeWith nodeBits .waiting 0, node0 .waiting 1]
    let n := nodeWith nodeBits .waiting 0
    let wide := BitVec.ofNat 512 (nodeBits + 200 * 2 ^ 16)
    let all := BitVec.ofNat 512 (nodeBits + ((classCores 0 none).length - 1) * 2 ^ 16)
    let headed := { m with dies := [(0, { die0 with pool := [poolEnt 0 3, poolEnt 1 2], head := some (0, 0x1000, 0) })] }
    let word := fun (k : Nat) => (BitVec.ofNat 512 (k + 0x1400 * 2 ^ 256) : Line)
    let gone := fun (x : Status) => ({ worldGraph [] [inst1 [{ nodeWith nodeBits (.running [0] 0 3) 0 with jobsLeft := 1 }]] with
      cores := [(0, { core0 with job := some { job with graph := 0x1000 }, l := { core0.l with status := x }
                                 x := { core0.x with status := x }, st := { core0.st with status := x } })] } : Module)
    (m.die 0).pool.foldr insertEntry [] = [poolEnt 0 3] ∧ findInst m 0 0x1000 = some i ∧ ctxValid m 0 = true ∧
    findNode m 0 0x1000 0 = some n ∧ n.saved = [] ∧ nodeKind n.image = 0 ∧ nodeWidth n.image ≤ (classCores 0 none).length ∧
    nodeWidth n.image ≤ ((classCores 0 none).filter fun c => (m.core 0 c).job.isNone).length ∧ (classCores 0 none).length < nodeWidth wide ∧
    headOf m 0 = none ∧ nodeWidth all = (classCores 0 none).length ∧ nodeKind all = 0 ∧
    ((classCores 0 none).filter fun c => (({ m with cores := [(0, core0)] } : Module).core 0 c).job.isNone).length < nodeWidth all ∧
    (match headOf headed 0 with
     | some (h, use) => decide (h = poolEnt 0 3) && use.contains 5
     | none => false) = true ∧
    nodeKind (BitVec.ofNat 512 gateBits) = 5 ∧ nodeKind (word 1) = 1 ∧ (engQueue m (.copy 0 0)).length < 32 ∧
    readAnd (dispRead (unpool m 0 0x1000 n) 0 0 (nodeOpa (word 3)) 8) (fun w _ => w != 0) = true ∧
    (match dispSignal (unpool m 0 0x1000 n) 0 0 (nodeOpa (word 4)) 1 [] with
     | .ok (none, _) => true
     | _ => false) = true ∧
    readAnd (dispRead m 0 0 (nodeOpa n.image) 64) (fun img m1 => imageOk img &&
      readAnd (dispBytes m1 0 0 (imgConst img) (4 * imgNconst img)) fun _ _ => true) = true ∧
    ((gone .exited).core 0 0).job ≠ none ∧ chainsLive (gone .exited) 0 0 = false ∧ ((gone .exited).core 0 0).l.status = .exited ∧
    ((gone .failed).core 0 0).st.status = .failed ∧ releaseStalls (gone .exited) 0 0 = false ∧
    (match jobNode (gone .exited) 0 0 with
     | some (_, k) => !k.heldBack && k.jobsLeft == 1
     | none => false) = true ∧
    (match findNode (worldGraph [] [inst1 [{ nodeWith nodeBits (.running [] 0 3) 0 with jobsLeft := 0 }]]) 0 0x1000 0 with
     | some k => decide (k.st ≠ .waiting) && k.jobsLeft == 0 && !k.failed
     | none => false) = true ∧
    (match findNode (worldGraph [] [inst1 [nodeWith 1 .chain 0]]) 0 0x1000 0 with
     | some k => decide (k.st = .chain)
     | none => false) = true ∧
    nodeSig n.image = 0 ∧ n.again = false ∧ (∃ x ∈ i.nodes, x.node ≠ n.node) ∧
    (let left : Module := { m with dies := [(0, { die0 with head := some (0, 0x1000, 0) })] }
     (left.die 0).head = some (0, 0x1000, 0) ∧ (left.die 0).pool = []) ∧ headOf headed 0 ≠ none := by
  decide +kernel

/-- NodesDispatchAndComplete: no group of the test module holds bits of a checkpointed member. -/
theorem test_hyp_Nodes_groups : ∀ d k, ((worldPool nodeBits).group d k).out = [] := by
  intro d k
  unfold Module.group Module.die
  show (Tbl.get ({} : Machine.Group) (Tbl.get ({} : Die) [(0, { die0 with pool := [poolEnt 0 3] })] d.val).groups k).out = []
  rw [Tbl.get]
  split
  · show (Tbl.get ({} : Machine.Group) [(2, _)] k).out = []
    rw [Tbl.get]
    split <;> rfl
  · rfl

/-- PoolsAgeAndVictimsLeave, victims: a head of priority 4 that may pre-empt a node on core 0, for one that reaches its width and one
that does not; a head that has done so, an instance without a token; a node whose drain suffices, and one with a decision. -/
theorem test_hyp_Pools_victims :
    let v := nodeWith nodeBits (.running [0] 0 3) 0
    let n := node0 .waiting 1
    let m : Module := { worldGraph [] [inst1 [v, n]] with
      cores := [(0, { core0 with job := some { job with graph := 0x1000 }, est := 0 })] }
    let got := fun (need level : Nat) => (takeVictims m [0, 1] need (victims m 0 [0, 1] level) 1).2
    ((victims m 0 [0, 1] 4).map fun w => w.2.node) = [0] ∧ got 2 4 = 2 ∧ got 3 4 = 2 ∧ got 2 3 = 1 ∧ (takeVictims m [0, 1] 1 (victims m 0 [0, 1] 4) 1).1 = [] ∧
    (inst1 []).tokens = 1 ∧ n.chosen = false ∧ remaining m v ≤ ctxDrain m 0 ∧ v.decision = .none ∧
    ({ v with decision := .drain 5 } : NodeRun).decision ≠ .none ∧
    ((worldGraph [] [inst1 [v]]).die 0).pool.length < 4096 ∧ ctxPshare m 0 ≠ 0 ∧ (m.die 0).overflow = [] := by
  decide +kernel

/-- PoolsAgeAndVictimsLeave: an entry that has stood long enough; overflow that fits and that does not; a drain that is due, with and
without restart; a node to kill and to save, with and without an open region. -/
theorem test_hyp_PoolsAgeAndVictimsLeave :
    let run := fun (x : Decision) (h : Bool) => { nodeWith nodeBits (.running [0] 0 3) 0 with decision := x, heldBack := h }
    let m := fun (x : Decision) (h : Bool) (r : Option W64) => ({ worldGraph [] [inst1 [run x h]] with
      cores := [(0, { core0 with region := r, job := some { job with graph := 0x1000 } })]
      dies := [(0, { die0 with cyc := 2 ^ 21, overflow := [poolEnt 1 2] })] } : Module)
    let a := m (.drain 5) false none
    let k := m (.checkpoint (some 2)) false none
    2 ^ 21 ≤ ((a.die 0).cyc - (poolEnt 1 2).levelAt).toNat ∧ (poolEnt 1 2).prio < ctxCeiling a 0 ∧
    (a.die 0).overflow = [poolEnt 1 2] ∧ (a.die 0).pool.length < 4096 ∧ 0 < ctxPshare a 0 ∧
    findNode a 0 0x1000 0 = some (run (.drain 5) false) ∧ ((a.die 0).cyc - 5).toNat < 2 ^ 63 ∧ (run (.drain 5) false).cores ≠ [] ∧
    nodeRestart (BitVec.ofNat 512 (nodeBits + 32)) = true ∧ nodeRestart (BitVec.ofNat 512 nodeBits) = false ∧
    regionOpen (m .none false (some 9)) (run .none false) = true ∧ regionOpen a (run (.drain 5) false) = false ∧
    findInst a 0 0x1000 = some (inst1 [run (.drain 5) false]) ∧ (inst1 []).reported = false ∧
    canSave k 0 0 = true ∧ findNode k 0 0x1000 0 = some (run (.checkpoint (some 2)) false) ∧ [(0 : Fin 128)].Nodup ∧
    (((worldGroup { mask := 3, need := 3 }).group 0 2).mask &&& BitVec.ofNat 128 (2 ^ 0) ≠ 0) ∧
    (heldBits true).ofJob { job with node := 1 } = true ∧ ({ heldBits true with index := 1 } : HeldBits).ofJob { job with node := 1 } = false ∧
    ((m .none false (some 9)).core 0 0).region = some 9 ∧ (((m .none false (some 9)).die 0).cyc - 9).toNat < 2 ^ 63 := by
  decide +kernel

/-- MemoryUpkeep: tables in order, lines in each state of their checks, a bus before its first and after its last repair, banks; a domain that is
frozen, before and after its end, and one that is not. -/
theorem test_hyp_MemoryUpkeep :
    let m := world core0
    let p := linePlace m 0x200040
    Tbl.sorted (m.die 0).tags = true ∧ Tbl.sorted (m.die 0).slots = true ∧ (m.die 0).freezes = [] ∧ p.isSome = true ∧
    linePlace m 0x080000000000 = none ∧ m.poison.contains (0x200040 / 64) = false ∧
    (match p with
     | some q => !(busOf m q).quarter && (busOf m q).used.isEmpty
     | none => false) = true ∧
    (m.strm ⟨0, 0, .x⟩).status = .running ∧ (m.strm ⟨0, 0, .x⟩).wait = .none ∧ (m.strm ⟨0, 0, .x⟩).cwait = .none ∧
    Tbl.sorted (m.die 0).services = true ∧ Tbl.sorted (m.die 0).groups = true ∧ Tbl.sorted (m.die 0).bufs = true ∧
    Tbl.sorted (m.die 0).buses = true ∧ Tbl.sorted (m.die 0).slices = true ∧ (m.die 0).lasting.length < 3 ∧
    (([(.unit 0 0, 9), (.slice 0 3, 2)] : List (FreezeDomain × W64)).filter fun f => decide (f.1 = .slice 0 3)) = [(.slice 0 3, 2)] ∧
    ((5 : W64) - 2).toNat < 2 ^ 63 ∧ 2 ^ 63 ≤ ((5 : W64) - 9).toNat ∧
    (∀ b ∈ [3, 5], ¬(∃ r ∈ [(⟨0, 0, 3, .lasting, false⟩ : RetiredBank)], (decide (r.bank = b) && decide (r.cause ≠ .lasting)) = true)) ∧
    ((chainAt chain0 []).m.chain (.job 0 0 0)).state = 2 ∧ (m.die 0).retired = [] ∧ ctxValid m 0 = true := by
  decide +kernel

/-- MemoryUpkeep, the race detector: a line in a scratchpad whose writer is not ordered before the test's job, one without tags,
one with two readers, and an access that meets the quota; LDS and STS at them. -/
theorem test_hyp_Upkeep_races :
    let o : SlotOp := { op0 with dst := .s 5, a := .a 1, b := .lit 4, c := .s 2, ty := .i32 }
    let p := jobActor sS.m 0 0
    let at3 := fun (q : StreamName) (mem : Nat) (tags : List (Nat × LineTag)) => at_ { world core0 with
      dies := [(0, { die0 with tags := tags })], ccbs := [(0, Tbl.set 0 ccb0 3 (BitVec.ofNat 64 (mem * 2 ^ 32)))] } q
    let s := at3 .s
    let ls := (localLocs (s 64 []).m 0 0 (some 0) (effAddr (s 64 []) o.a o.b) 4).getD []
    let key := (trackedOf ls).getD 0 0 / 64
    let other : Tag := .party 5 9
    let two : LineTag := { rd := [other, .party 6 9] }
    effAddr (s 64 []) o.a o.b % 4 = 0 ∧ ls.length = 1 ∧ (trackedOf ls).length = 1 ∧ ordered p other = false ∧ ordered p p.tag = true ∧
    (∀ l ∈ ls, l.1.frozen (s 64 []).m = false ∧ l.1.poisoned (s 64 []).m = false) ∧
    (∀ w ∈ [true, false], isOk (trackedAll (s 64 []).m p w (trackedOf ls)) = true ∧
      (match trackedAll (s 64 [(key, { wr := some other })]).m p w (trackedOf ls) with | .error (.race _ _ _) => true | _ => false) = true) ∧
    (match trackedAll (s 64 [(key, two)]).m p true (trackedOf ls) with | .error (.race _ _ _) => true | _ => false) = true ∧
    isOk (trackedAll (s 64 [(key, two)]).m p false (trackedOf ls)) = true ∧
    (match trackedAll (s 0 [(key, two)]).m p false (trackedOf ls) with | .error (.quota _) => true | _ => false) = true ∧
    (∀ q ∈ [StreamName.l, .s], (at3 q 64 []).strm = (at3 q 64 []).srcStrm ∧ (at3 q 64 []).srcStrm.wait.inFlight = false ∧
      effAddr (at3 q 64 []) o.a o.b = effAddr (s 64 []) o.a o.b) ∧ (Instr.lds { o with c := .tile 0 }).okIn .l = true ∧ (Instr.sts { o with dst := .none }).okIn .s = true ∧
    okAnd (fetch (s 64 []) 4 o.ty o.c) (fun r => decide (r.2 = s 64 [])) = true ∧ Tbl.sorted ((s 64 []).m.die 0).tags = true := by
  decide +kernel

/-- A line of device 7 for the test context's window 1, which names it. -/
def line0 (e : W32) : RemoteWrite :=
  { srcDev := 7, srcCtx := 2, srcWin := 3, epoch := e, pctx := 0, pwin := 1, offset := 0, data := 5, bytes := 3 }
def mark0 (e : BitVec 32) (n : BitVec 16) : Marker :=
  { srcDev := 7, srcCtx := 2, srcWin := 3, srcJob := 0, epoch := e, pctx := 0, pwin := 1, bytes := 3, copies := n }

/-- RemoteWritesChargeAndLand, stores: within the allowance, one that must wait, one larger than it; a window that is not usable;
the flits of a write that crosses lines; a tile, a move and pieces that go through the window. -/
theorem test_hyp_RemoteWrites_send :
    let s := at_ { worldWin with cores := [(0, core0.setStream .s { core0.st with a := [(4, 0x1100000008), (5, 0x1100000000), (3, 0x200)] })] } .s
    let x := at_ { worldWin with cores := [(0, core0.setStream .s { core0.st with
      a := [(5, 0x1100000000), (3, 0x200)], rows := 1, cols := 4 })] } .s
    let o : SlotOp := { op0 with a := .a 4, b := .lit 0, c := .s 2, ty := .i32 }
    let t : SlotOp := { op0 with a := .a 5, b := .lit 0, c := .s 2 }
    let sc : SlotOp := { t with b := .a 3 }
    let c := { s.m with ctxs := [(0, { charged := [(1, 1022)], refused := [(1, true)] })] }
    let e := ({ WinEnt.of 0 with peer := 7, pctx := 2, pwin := 3 } : WinEnt)
    let fs := writeFlits 0 1 0 e 60 (List.replicate 264 9)
    (Instr.sts o).okIn .s = true ∧ okAnd (fetch s 4 o.ty o.c) (fun v => decide (v.2.src = s.src)) = true ∧
    regionOf (effAddr s o.a o.b) 4 = some (.window 1, 8) ∧
    okAnd (winFor s 4 1 (effAddr s o.a o.b)) (fun e => e.allow == 1024 && decide (e.pwin < 64)) = true ∧ Tbl.get 0 (s.src.ctx 0).charged 1 + 4 ≤ 1024 ∧
    ¬(Tbl.get 0 (c.ctx 0).charged 1 + 4 ≤ 1024) ∧ isOk (winFor { s with m := c, pre := some c } 4 1 0) = false ∧
    isOk (readWin c 0 1) = true ∧ isOk (winFor s 4 2 0) = false ∧
    okAnd (winStore s 4 1 0 [(8, List.replicate 1025 1)]) (fun t => Tbl.get 0 (t.m.ctx 0).excess 1 == 1) = true ∧
    (match winStore { s with m := c, pre := some { c with ctxs := [(0, { charged := [(1, 1022)] })] } } 4 1 0 [(8, [1, 2, 3, 4])] with
     | .error (.wait _) => true
     | _ => false) = true ∧
    (fs.map fun f => (flitLines 5 f).length) = [3, 3] ∧ ((fs.flatMap (flitLines 5)).map fun l => l.offset.toNat) = [0, 64, 128, 192, 256, 320] ∧
    (Instr.stt t).okIn .s = true ∧ tileBytes x .i8 = some 4 ∧ regionOf (effAddr x t.a t.b) 4 = some (.window 1, 0) ∧
    isOk (winFor x 4 1 (effAddr x t.a t.b)) = true ∧ okAnd (storeBytes x .i8 (.s 2) 4) (fun r => r.1 == [3, 3, 3, 3]) = true ∧
    (Instr.tmov { t with b := .a 3, c := .lit 64 }).okIn .s = true ∧ isOk (fetch32 s 4 (.lit 64)) = true ∧
    addrOf s (.a 5) % 64 = 0 ∧ addrOf s (.a 3) % 64 = 0 ∧ regionOf (addrOf s (.a 5)) 64 = some (.window 1, 0) ∧
    okAnd (memLoad 4 (addrOf s (.a 3)) 64 s) (fun r => r.1.length == 64) = true ∧
    (Instr.scat sc).okIn .s = true ∧ okAnd (pieceAddrs sc x) (fun r => r.1 == [0x1100000000, 0x1100000000, 0x1100000000, 0x1100000000] &&
      isOk (storeTest 4 (r.1.map fun a => (a, List.replicate r.2.1 0)) r.2.2) &&
      okAnd (storeBytes r.2.2 sc.ty sc.c 4) fun b => isOk (winStore b.2 4 1 0 ((cutPieces 1 r.1 b.1).map fun p => (p.1 % 2 ^ 32, p.2)))) = true := by
  decide +kernel

/-- RemoteWritesChargeAndLand, arrivals: lines of the current, the next, a later and an earlier epoch, accepted, refused and without a
readable entry, behind another and not, beyond the size; a target page that is not readable. -/
theorem test_hyp_RemoteWrites_arrive :
    let e := (match acceptWin worldWin 7 2 3 0 1 with | .yes e => e | _ => WinEnt.of 0)
    let busy : Module := { worldWin with phys := Memory.put winMem 0x4001 4 }
    let flash : Module := { worldWin with phys := Memory.put winMem 0x4001 2 }
    let ps := fun (a : Nat) => landPieces a 5 3
    let ahead := fun (n : W32) => ((line0 n).epoch - (worldWin.barrier 0 1).epoch).toNat
    acceptWin worldWin 7 2 3 0 1 = .yes e ∧ (e.lsize == 4096 && e.islot == 1 && e.idie == 0 && e.land == 0x1000) = true ∧
    acceptWin worldWin 8 2 3 0 1 = .refuse ∧ acceptWin busy 7 2 3 0 1 = .later none ∧ acceptWin flash 7 2 3 0 1 = .later (some 0x8020) ∧
    ahead 0 = 0 ∧ ahead 1 = 1 ∧ ahead 2 = 2 ∧ ahead 0xFFFFFFFF = 2 ^ 31 - 1 + 2 ^ 31 ∧
    before (line0 0) (line0 1) = true ∧ before (line0 2) (line0 1) = false ∧
    e.lsize < ({ line0 0 with offset := 4096 } : RemoteWrite).offset.toNat + 64 ∧ (line0 0).offset.toNat + 64 ≤ e.lsize ∧
    mustWait worldWin e 0 0 (ps 0x1000) = none ∧ mustWait busy e 0 0 (ps 0x1000) = some none ∧ mustWait flash e 0 0 (ps 0x1000) = some (some 0x1000) ∧
    (ps 0x103F).map (fun p => (p.1, p.2.2)) = [(0x1000, 2 ^ 63), (0x1040, 1)] ∧
    ((mark0 0 2).epoch - (worldWin.barrier 0 1).epoch).toNat = 0 ∧ 0 + 1 < (mark0 0 2).copies.toNat ∧
    (mark0 0 1).copies.toNat ≤ 0 + 1 ∧ worldWin.heldWrites = [] ∧
    (worldWin.barrier 0 1).arrived < (worldWin.barrier 0 1).parties := by
  decide +kernel

/-- RemoteWritesChargeAndLand, one line at its target: landed, whole and in part, on a poisoned line, on a line that races or has no
quota, and on a page that is not mapped. -/
theorem test_hyp_RemoteWrites_land :
    let m := fun (p : Bool) => ({ worldWin with poison := if p then [0x201000 / 64] else [] } : Module)
    let at2 := fun (p : Bool) (mask : BitVec 64) => (match landLine (m p) 0 0 1 0 0x1000 5 mask with
      | .landed _ => 0 | .raced _ _ => 1 | .failed => 2 | .later _ => 3)
    let p : Actor := { ctx := 0, die := 0, party := none, clk := [], phases := [], bufs := [], handles := []
                       stamps := [.bar 1 0], tag := .bar 1 0, blind := true }
    let line := scratchBase
    let tagged := { worldWin with dies := [(0, raceTags die0 [line / 64])] }
    at2 false 3 = 0 ∧ at2 true 3 = 2 ∧ at2 true (BitVec.allOnes 64) = 0 ∧ isScratch 0x201000 = false ∧ isScratch line = true ∧
    (match translate worldWin none 0 .write 0x400000 with | .error (.fault _ _ _ _) => true | _ => false) = true ∧
    isOk (trackedAccess worldWin p line true) = true ∧
    (match trackedAccess tagged p line true with | .error (.race _ _ _) => true | _ => false) = true ∧
    ((worldWin.barrier 0 1).deliver 0 2 false).ready = false := by
  decide +kernel

/-- A flit of port 1's pair to a device; a port with light that has sent it to device 7, alone and with another port. -/
def flit0 (n : BitVec 24) (dst src : BitVec 10) (b : FlitBody) : Flit := { pair := 1, seq := n, key := 0, dst := dst, src := src, body := b }
def write0 : FlitBody := .write 2 3 0 0 1 0
def sent0 (n : BitVec 24) (fails : Nat) : Sent := { flit := flit0 n 7 0 write0, port := 1, direct := true, fails := Tbl.set 0 [] 1 fails, lanes := 0xFFFF }
def port0 : Port := { table_ := [(0, some 7)], met := some 7, keys := [(0, some 1)], live := 0xFF0F, parked := 0xF0, waking := 1 }
def worldPort (p : Port) : Module := { world core0 with ports := [(1, p)] }

/-- PortsKeepSequenceAndLight, sending: a table that agrees and one that does not; flits that leave and that do not, all of which leave;
one that is stranded, with and without another path; relays' flits. -/
theorem test_hyp_Ports_send :
    let f := flit0 4 7 0 write0
    let m := worldPort { port0 with sendq := [(7, f)] }
    let down := worldPort { port0 with sendq := [(7, f)], peers := [(7, { down := true })] }
    let n : Module := { worldPort { port0 with met := none, table_ := [], sendq := [(7, f)] } with
      ports := [(1, { port0 with met := none, table_ := [], sendq := [(7, f)] }), (2, port0)] }
    let no := worldPort { port0 with met := none, table_ := [], sendq := [(7, f)] }
    Tbl.get none (m.port 1).table_ 0 = some 7 ∧ Tbl.get none (m.port 1).table_ 1 ≠ some 7 ∧ leaves m 1 7 f = true ∧
    leaves down 1 7 f = false ∧ (m.port 1).sends = true ∧ ((m.port 1).peer 7).down = false ∧
    (∀ j ∈ [0, 1, 2], Tbl.sorted (m.port j).peers = true ∧ (m.port j).unacked + 1 ≤ 4096) ∧ sequenced f.body = true ∧
    stranded m 1 (7, f) = false ∧ stranded n 1 (7, f) = true ∧ pickPath n 7 = some (2, 7) ∧ stranded no 1 (7, f) = true ∧ pickPath no 7 = none ∧ inReplay m f = false ∧
    inReplay (worldPort { port0 with peers := [(7, { replay := [sent0 4 0] })] }) f = true ∧
    ({ m with relay := [(2, flit0 4 8 0 write0), (1, f)] } : Module).relay = [(2, flit0 4 8 0 write0)] ++ (1, f) :: [] ∧
    (port0.sends = true ∧ port0.met = some f.dst) ∧ port0.met ≠ some (flit0 4 8 0 write0).dst := by
  decide +kernel

/-- PortsKeepSequenceAndLight, receiving: flits that verify and do not, in sequence, before it and beyond a gap, for this device and
for another, of every kind; acknowledgements and refusals of the first, of the second and of none; the sixteenth failure. -/
theorem test_hyp_Ports_receive :
    let x : Peer := { replay := [sent0 4 3, sent0 5 15], expect := 4 }
    let p : Port := { port0 with peers := [(7, x)] }
    let m := worldPort p
    let left := fun (n : BitVec 24) => (x.replay.filter fun e => !decide ((n - e.flit.seq).toNat < 2 ^ 23)).length
    let again := fun (n : BitVec 24) => (x.replay.filter fun e => decide ((e.flit.seq - n).toNat < 2 ^ 23)).length
    let f := fun (n : BitVec 24) (b : FlitBody) => flit0 n 0 7 b
    (Tbl.get none (m.port 1).keys 0).isSome = true ∧ (Tbl.get none (m.port 1).keys 1).isSome = false ∧ m.device = (f 4 write0).dst ∧
    (flit0 4 9 7 write0).dst ≠ m.device ∧ m.relay.length < 32768 ∧ (f 4 write0).seq = ((m.port 1).peer 7).expect ∧
    ((f 6 write0).seq - x.expect).toNat < 2 ^ 23 ∧ ¬(((f 3 write0).seq - x.expect).toNat < 2 ^ 23) ∧
    sequenced (.marker (mark0 0 1)) = true ∧ sequenced (.ack 4) = false ∧ sequenced (.multicast 7 0 1 0 0 true 0 []) = true ∧
    left 3 = 2 ∧ left 4 = 1 ∧ left 5 = 0 ∧ again 4 = 2 ∧ again 5 = 1 ∧ again 6 = 0 ∧
    (x.replay.map fun e => e.flit.seq).Nodup ∧ (∀ e ∈ x.replay, e.flit.seq ≠ 9) ∧
    x.replay = [sent0 4 3] ++ sent0 5 15 :: [] ∧ 16 ≤ Tbl.get 0 (sent0 5 15).fails 1 + 1 ∧ ¬(16 ≤ Tbl.get 0 (sent0 4 3).fails 1 + 1) ∧ (sent0 4 3).direct = true ∧
    (Tbl.sorted m.chains = true ∧ Tbl.sorted p.peers = true) ∧ (∀ e ∈ Tbl.keys p.peers, e < 1024) ∧
    (∀ f ∈ (p.peer 8).replay, f.flit.key ≠ 1) ∧ ({ p with oldKeys := [(1, true)] } : Port).oldKeys = [(1, true)] ∧
    (m.port 0).met = none ∧ (worldPort { p with met := none }).ports.all (fun e => e.2.met.isNone && e.2.sendq.isEmpty && e.2.losses.isEmpty) = true := by
  decide +kernel

/-- PortsKeepSequenceAndLight, light: a module that goes dark under a flit in flight and under none, the last one, one that is dark; an
idle port and one that is not, with light and without; parked and waking wavelengths. -/
theorem test_hyp_Ports_light :
    let busy := worldPort { port0 with peers := [(7, { replay := [sent0 4 0] })] }
    let still := fun (l : BitVec 16) => { port0 with live := l, parked := 0, idleNs := 0 }
    let l : Loss := { lm := 0, mask := 0x000F }
    bitAt port0.lost.toNat 0 = false ∧ bitAt ({ port0 with lost := 1 } : Port).lost.toNat 0 = true ∧
    (port0.lost ||| 1 ≠ 0xF) ∧ (0xE : BitVec 4) ||| 1 = 0xF ∧ (∃ p ∈ busy.ports, ∃ y ∈ p.2.peers, ∃ e ∈ y.2.replay, e.port = 1 ∧ e.lanes &&& 0x000F ≠ 0) ∧
    (∀ p ∈ (worldPort port0).ports, p.2.peers = [] ∧ p.2.losses = []) ∧ ({ port0 with losses := [l] } : Port).losses = [l] ∧
    busy.ports.map (fun p => (p.2.peers.map Prod.fst, p.2.peers.map fun y => y.2.replay.length)) = [([7], [1])] ∧
    (still 0xFF0F).sendq = [] ∧ (still 1).idleNs.toNat * 2 ≤ ((busy.die 0).cyc - (still 1).idleSince).toNat ∧
    ¬(port0.idleNs.toNat * 2 ≤ ((busy.die 0).cyc - port0.idleSince).toNat) ∧ (still 0xFF0F).live &&& 0x000F ≠ 0 ∧ (still 0).live = 0 ∧
    port0.parked ≠ 0 ∧ (still 1).parked = 0 ∧ port0.threshold.toNat < [(7, sent0 4 0)].length ∧ port0.waking &&& 1 ≠ 0 ∧
    port0.waking &&& 2 = 0 ∧ port0.live &&& 0x00F0 = 0 ∧ port0.live &&& 0x000F ≠ 0 := by
  decide +kernel

/-- A state in which the mailbox holds a command. -/
def mailAt (m : Module) (w1 w2 w3 w4 : W64) : State := { m := { m with mail := { w0 := 0, w1 := w1, w2 := w2, w3 := w3, w4 := w4 }, busy := true } }

/-- DispositionsAndHostAccess: a stream of a placed job that is held and one that is not, a held chain, no such job, jobs that wait and
that a checkpoint has saved, the chain of a node, an event ring at both limits; deposits and takes of a resident context, and
of one that is not; the registers of a window. -/
theorem test_hyp_DispositionsAndHostAccess :
    let n := nodeWith nodeBits (.running [0] 0 3) 0
    let m : Module := { worldGraph [] [inst1 [n]] with
      cores := [(0, { core0 with job := some { job with graph := 0x1000 }, x := { core0.x with status := .held } })]
      chains := [(0, { chain0 with held := true })] }
    let s := mailAt m 0x400 0x1000 0 0x100
    let t : Line := tupStored 0x12 5
    let jobs := fun (n : NodeRun) => mailAt (worldGraph [] [inst1 [n]]) 0x400 0x1000 0 0
    let kept : NodeRun := { nodeWith nodeBits .waiting 0 with saved := [{ core0 with job := some { job with graph := 0x1000 }, x := { core0.x with status := .held } }], savedOld := [0] }
    let node := mailAt (worldGraph [] [inst1 [nodeWith 1 .chain 0]]) 0x400 0x1000 0xFFFF00000000 0
    (mailStream s).isSome = true ∧ mailJob s = .core 0 0 ∧ (m.core 0 0).x.status = .held ∧ (m.core 0 0).l.status ≠ .held ∧
    mailJob (mailAt m 0x400 0x2000 0 0) = .none ∧ mailIndex s ≠ 0xFFFF ∧ (m.chain (.job 0 0 0)).held = true ∧
    mailW (mailAt m 0x1000 64 0 0) 1 % 4096 = 0 ∧ mailW (mailAt m 0x1000 64 0 0) 2 = 2 ^ 6 ∧ mailW (mailAt m 0x1000 65536 0 0) 2 = 2 ^ 16 ∧
    mailJob (jobs (nodeWith nodeBits .waiting 0)) = .waiting ∧ mailJob (jobs kept) = .saved kept 0 ∧
    findNode (jobs kept).m 0 0x1000 0 = some kept ∧ ((kept.saved.getD 0 {}).stream .x).status = .held ∧ ((kept.saved.getD 0 {}).stream .l).status ≠ .held ∧
    (mailIndex node = 0xFFFF ∧ (match findNode node.m 0 0x1000 (BitVec.ofNat 16 (mailNode node)) with
      | some n => decide (n.st = .chain)
      | none => false) = true) ∧
    bitAt (mailW s 1) 8 = false ∧ bitAt (mailW (mailAt m 0x100 0 0 0) 1) 8 = true ∧
    (∀ o ∈ [0x7FC0, 0x7FC8, 0x8000, 0x8008, 0x9000, 0x9008, 0x9038, 0x9040, 0x9080, 0x90B8, 0x90C0], (BitVec.ofNat 16 o).toNat / 8 * 8 = o) ∧
    ((m.slice 0 3).stored.length < 4096) ∧
    ctxValid m 0 = true ∧ ctxValid m 1 = false ∧ tupTag t < 0xFFFFFF00 ∧ (m.slice 0 (homeSlice (tupTag t))).parked = [] ∧
    tupTag (BitVec.ofNat 512 (launchBits 0x77)) = 0xFFFFFF00 ∧ ctxOfTuple m (ctxTuple m 0) = some 0 ∧
    ((worldTup { stored := [tup] }).slice 0 3).stored = [tup] ∧
    (findTuple (worldTup { stored := [tup] }) 0 (tupPattern 0x12 5)).isSome = true ∧ findTuple m 0 (tupPattern 0x12 5) = none := by
  decide +kernel

/-- The test module without a job, its context granted one granule of each die's scratchpad. -/
def worldIdle : Module :=
  { world core0 with cores := [], ccbs := [(0, Tbl.set 0 ccb0 9 0x40000000)], ctxs := [(0, { tables := tables0 })] }

/-- The tables of the test map the first 2 MiB by one page. -/
theorem worldIdle_walk (a : Nat) (h : a / 2 ^ 21 = 0) : walkIn worldIdle tables0 0 a = .ok (0x20009F, 0, 9) := by
  have f : ∀ l : Nat, 1 ≤ l → fld a (12 + 9 * l) 9 = 0 := by
    intro l hl
    have : a / 2 ^ (12 + 9 * l) = 0 := by
      apply Nat.div_eq_of_lt
      have h1 : a < 2 ^ 21 := by omega
      exact lt_of_lt_of_le h1 (Nat.pow_le_pow_right (by decide) (by omega))
    simp [fld, this]
  have r : ∀ b e, readEntry worldIdle tables0 0 0 b = .ok e → readEntry worldIdle tables0 0 a b = .ok e := by
    intro b e
    unfold readEntry
    split
    · exact fun h => by cases h
    · split
      · exact fun h => by cases h
      · exact id
  have g : ∀ l b n : Nat, 1 ≤ l → readEntry worldIdle tables0 0 0 b = .ok n → pteValid n = true → pteLeaf n = false →
      ¬(fld n 48 16 ≠ 0 ∨ bitAt n 11 ∨ pteBusy n ∨ pteTier n ≠ 0 ∨ pteSize n ≠ 0 ∨ pteX n ∨ pteW n) →
      walkFrom worldIdle tables0 0 a (l + 1) b = walkFrom worldIdle tables0 0 a l (pteFrame n) := by
    intro l b n hl h1 h2 h3 h4
    rw [walkFrom]
    simp only [f l hl, Nat.mul_zero, Nat.add_zero, r _ _ h1, h2, h3, if_neg h4]
    simp [show l ≠ 0 by omega]
  unfold walkIn
  rw [show fld (ccb worldIdle 0 0) 12 36 * 4096 = 0x1000 by decide +kernel,
    g 4 0x1000 0x2001 (by decide) (by decide +kernel) (by decide +kernel) (by decide +kernel) (by decide +kernel),
    g 3 _ 0x3001 (by decide) (by decide +kernel) (by decide +kernel) (by decide +kernel) (by decide +kernel),
    g 2 _ 0x4001 (by decide) (by decide +kernel) (by decide +kernel) (by decide +kernel) (by decide +kernel), walkFrom]
  have e : readEntry worldIdle tables0 0 a (pteFrame 0x4001) = .ok 0x20009F := r _ _ (by decide +kernel)
  simp only [f 1 (by decide), Nat.mul_zero, Nat.add_zero, Nat.zero_div, Nat.zero_mul, e]
  simp [show pteValid 0x20009F = true by decide +kernel, show pteLeaf 0x20009F = true by decide +kernel,
    show pteSize 0x20009F = 9 by decide +kernel, show fld 0x20009F 48 16 = 0 by decide +kernel,
    show bitAt 0x20009F 11 = false by decide +kernel, show pteFrame 0x20009F = 0x200000 by decide +kernel,
    show pteTier 0x20009F = 0 by decide +kernel, show pteBusy 0x20009F = false by decide +kernel]
  omega
/-- Where an address of the page lies. -/
theorem worldIdle_translate (k : AccKind) (a : Nat) (h : a / 2 ^ 21 = 0) (hp : physCheck worldIdle 0 (0x200000 + a) = none) (hk : k ≠ .fetch) :
    Machine.translate worldIdle none 0 k a = .ok (0x200000 + a, worldIdle) := by
  unfold Machine.translate
  simp only [Option.bind_none, mapping, show (worldIdle.ctx 0).tables = tables0 from rfl, worldIdle_walk a h, entryAccess,
    show pteFrame 0x20009F = 0x200000 by decide +kernel, show pteW 0x20009F = true by decide +kernel,
    show pteTier 0x20009F = 0 by decide +kernel, Nat.mod_eq_of_lt (show a < 2 ^ (12 + 9) by omega), hp]
  simp [hk]

/-- The pieces of a save area in the page. -/
theorem worldIdle_area (k : AccKind) (hk : k ≠ .fetch) : saveArea worldIdle 0 k 0x1000 =
    .ok ((pagePieces 0x1000 0x100000).map fun p => (p.1 - 0x1000, 0x200000 + p.1, p.2)) := by
  have all : ∀ p ∈ pagePieces 0x1000 0x100000, p.1 / 2 ^ 21 = 0 ∧ physCheck worldIdle 0 (0x200000 + p.1) = none := by decide +kernel
  unfold saveArea
  rw [show 16 * grantDie worldIdle 0 = 0x100000 by decide +kernel]
  revert all
  generalize pagePieces 0x1000 0x100000 = l
  intro all
  induction l with
  | nil => rfl
  | cons p l ih =>
    obtain ⟨h1, h2⟩ := all p (List.mem_cons_self ..)
    rw [List.mapM_cons, ih fun q hq => all q (List.mem_cons_of_mem _ hq), Nat.mod_eq_of_lt (by omega), worldIdle_translate k p.1 h1 h2 hk]
    rfl

/-- ContextsLoadAndMemoryRemaps, save areas: one that is mapped, to save into and to load from, its pieces apart; one that is
not mapped, one on a busy page; a Zither without frames. -/
theorem test_hyp_Contexts_area :
    (∀ k ∈ [AccKind.read, .write], ∃ ps, saveArea worldIdle 0 k 0x1000 = .ok ps ∧ ps ≠ [] ∧
      ∀ e ∈ ps.zip (ps.drop 1), e.1.2.1 + e.1.2.2 = e.2.2.1) ∧
    isOk (saveArea worldIdle 0 .write 0x400000) = false ∧
    (match saveArea { worldIdle with phys := Memory.put tables0 0x4001 4, ctxs := [] } 0 .write 0x1000 with
     | .error .busy => true
     | _ => false) = true ∧
    okAnd (zpoolOf worldIdle 0 0) (fun p => p.hcount == 0 && p.bcount == 0) = true := by
  refine ⟨fun k hk => ⟨_, worldIdle_area k (fun h => by subst h; simp at hk), ?_, ?_⟩, ?_⟩ <;> decide +kernel

/-- ContextsLoadAndMemoryRemaps: a block that may be loaded and one that may not, a context with and without a job, words that CCBSET
may write, a window entry that can be stored, a die with a lost bank. -/
theorem test_hyp_ContextsLoadAndMemoryRemaps :
    let blank : Module := {}
    let host := Memory.write [] 0x108 8 (2 ^ 63 + 3)
    let s := mailAt { world core0 with host := host } 0x100 0 0 0
    let idle : Module := { world { core0 with job := none } with cores := [] }
    let b : RetiredBank := ⟨0, 0, 3, .bus, false⟩
    let x := mailAt { idle with dies := [(0, { die0 with retired := [b] })] } 0 0 0 0
    loadOk blank 3 = true ∧ ctxValid s.m 3 = false ∧ mailW s 2 = 0 ∧ ctxValid idle 0 = true ∧ mailCtx (mailAt idle 0 0 0 0) = 0 ∧
    (idle.cores = [] ∧ idle.chains = []) ∧ (core0.job = some job ∧ job.ctx = 0) ∧ ctxValid blank 0 = false ∧
    fld (mailW (mailAt idle 0x200 5 0 0) 1) 8 5 = 2 ∧ fld (mailW (mailAt idle 0x400 5 0 0) 1) 8 5 = 4 ∧
    isOk (storeDev idle none none 0 (winAddr idle 0 1) (List.replicate 32 0)) = true ∧
    isOk (storeDev idle none none 0 0x400000 (List.replicate 32 0)) = false ∧ (x.m.die 0).retired = [b] ∧
    bankAt (x.m.die 0) 0 0 (4096 * 3) = some (3, 0) ∧ 3 < (layerBanks { die0 with retired := [{ b with remapped := true }] } 0 0).length * 32768 := by
  decide +kernel

/-- ManagementServesFabricAndSecurity: ports 71 and 72, entries 1,023, 1,024 and 0xFFFF, free and used key indices, 1,024 and 1,025 members,
versions at their limits; an old key that both ends have dropped, that one holds and that a flit needs. -/
theorem test_hyp_ManagementServesFabricAndSecurity :
    let m : Module := { world core0 with ports := [(71, { keys := [(0, some 1)] })], minVersion := 3, host := Memory.write [] 0x100 4 0xFFFF03FF }
    let s := mailAt m 71 0x100 0 0
    fld (mailW s 1) 0 7 = 71 ∧ fld (mailW (mailAt m 72 0 0 0) 1) 0 7 = 72 ∧ Memory.read s.m.host 0x100 2 = 1023 ∧
    Memory.read s.m.host 0x102 2 = 0xFFFF ∧ Memory.read s.m.host 0x104 2 < 1024 ∧ Tbl.get none (m.port 71).keys 0 ≠ none ∧
    Tbl.get none (m.port 71).keys 1 = none ∧ (m.port 71).oldKeys = [] ∧ ctxValid m 0 = true ∧ ctxValid m 1 = false ∧
    (({ port0 with oldKeys := [(1, true)] } : Port).oldKeys = [(1, true)] ∧ ({ port0 with oldKeys := [(1, false)] } : Port).oldKeys = [(1, false)]) ∧
    (∃ e ∈ [((7 : Nat), ({ replay := [sent0 4 0] } : Peer))], ∃ f ∈ e.2.replay, f.flit.key = 0) ∧
    m.minVersion < 4 ∧ 4 ≤ 64 ∧ 3 ≤ m.minVersion ∧ (Tbl.get {} m.mcast 0).old = none := by
  decide +kernel

/-! ### A step, the encodings -/

/-- The bundle that holds only EXIT, and one with a reserved bit. -/
def exitLine : Line := BitVec.ofNat 512 0x00000000000000000000000000000A00
def badLine : Line := BitVec.ofNat 512 (0x0A00 + 2 ^ 57)
def stepAt (l : Line) : State :=
  let s := with_ .x fun x => { x with fetch := [(0, l)] }
  { s with pre := none, agenda := [.stream ⟨0, 0, .x⟩] }

/-- The bundle that holds only WAITB 7, and one that pops a token from the left. -/
def waitLine : Line := BitVec.ofNat 512 0x00000000000000000000000000071000

/-- StepRunsTheDecodedInstruction: a stream whose buffer holds a bundle, one that has issued it and waits, a bundle that does not decode,
one with an op that its stream does not accept; a chain's record, reached and not, legal and not; an event, mail. -/
theorem test_hyp_StepRunsTheDecodedInstruction :
    let s := stepAt exitLine
    let w : Who := ⟨0, 0, .x⟩
    let x := s.m.strm w
    let k := chainAt chain0 [(0, 0x10)]
    let boot := { world core0 with booted := true }
    let iss : Issued := { v := [], p := [], kbank := [], getx := 7, qlxNone := true, qxsNone := true, popL := false, popR := false
                          opa := 0, opb := 0, opc := 0 }
    let chain1 : Chain := { chain0 with raw := 0x10, reached := true }
    s.agenda = [.stream w] ∧ x.doomed = false ∧ takesInterrupt s.m w = false ∧
    takesInterrupt (with_ .x fun x => { x with uien := true, irqs := [⟨true, 0, 5, 0⟩] }).m w = true ∧ x.status = .running ∧ x.paged = false ∧ x.parityAt = none ∧ x.soft = false ∧ coreFrozen s.m 0 0 = false ∧
    stopping s.m 0 0 = false ∧ x.fetch.find? (fun e => decide (e.1 = x.pc.toNat)) = some (x.pc.toNat, exitLine) ∧
    (match decodeBundle exitLine.toNat with
     | .ok b => decide (illegalField .x none 0 exitLine.toNat = none) && (parityTest s s.m w b).isNone && decide (tokenTest (s.m.core 0 0) .x b = .go) &&
         decide (b.ops.map (resolveOp s) = [.exit])
     | .error _ => false) = true ∧
    (x.issued = none ∧ ((stepAt waitLine).m.strm w).issued = none) ∧ (with_ .x fun x => { x with issued := some iss }).strm.issued = some iss ∧
    (match decodeBundle waitLine.toNat with
     | .ok b => decide (illegalField .x none 0 waitLine.toNat = none) && decide (b.ops.map (resolveOp s) = [.waitb 7])
     | .error _ => false) = true ∧
    (match exec (.waitb 1) { s with cur := w, pre := some s.m } with
     | .next t => decide (t.verdict = .blocked)
     | _ => false) = true ∧
    illegalField .x none 0 badLine.toNat = some 2 ∧ illegalField .l none 0 (0x0A00 + 2 ^ 25) = some 1 ∧ illegalField .l none 0 0x0A01 = some 0 ∧
    isOk (decodeBundle badLine.toNat) = false ∧ (k.m.chain k.chain).reached = false ∧ (k.m.chain k.chain).cancel = false ∧
    okAnd (chLoad k.m (.job 0 0 0) none 0 32) (fun r => (match decodeRec (ofBytes r.1) with
      | some i => (match recCode i with
        | some (code, f) => !recBad (k.m.chain k.chain).cls true code f && recBad .kantele true code f
        | none => false)
      | none => false)) = true ∧ (decodeRec chain1.raw.toNat).isSome = true ∧ chain1.reached = true ∧ (k.m.chain k.chain).state = 2 ∧ (k.m.chain k.chain).done = none ∧
    (k.m.chain k.chain).fired = none ∧
    okAnd (chLoad k.m (.job 0 0 0) none 0 32) (fun r => (decodeRec (ofBytes r.1)).isSome) = true ∧
    isEvent (.poolAgeing 0) = true ∧ boot.busy = false ∧
    (match decodeMail { w0 := 0x20, w1 := 0, w2 := 0, w3 := 0, w4 := 0 } with
     | .cmd _ => true
     | _ => false) = true := by
  decide +kernel

/-- A bundle of X without a transfer, in no loop. -/
theorem test_hyp_retire : sX.bnd.flow = .seq ∧ sX.strm.loops = [] := by decide

/-- DecodeInvertsEncode: a bundle with an op in every field, a word that decodes, a record. -/
theorem test_hyp_DecodeInvertsEncode :
    let b : Bundle := { ctl := some (.brz 3 5), adr := some (.ainc 2 64), s1 := .iadd { op0 with dst := .s 1, a := .s 2, b := .lit 7 }
                        s2 := .lds { op0 with dst := .s 3, a := .a 1, b := .lit 8 }, s3 := .fenc op0
                        popL := false, popR := true, pushL := false, pushR := true }
    (Instr.brz 3 5).place = .control ∧ (Instr.brz 3 5).wf = true ∧ (Instr.ainc 2 64).place = .address ∧ (Instr.ainc 2 64).wf = true ∧
    b.s1.wf = true ∧ (slotCode b.s1).isSome = true ∧ b.s2.wf = true ∧ (slotCode b.s2).isSome = true ∧ b.s3.wf = true ∧
    (slotCode b.s3).isSome = true ∧ isOk (decodeBundle exitLine.toNat) = true ∧ (recCode (.jmp rec0)).isSome = true ∧
    (decodeRec (encodeRec (.jmp rec0))).isSome = true := by
  decide +kernel

/-- StepAlwaysAnswersBetweenBundles and StepKeepsMemoryCanonical: the state after reset, and one with a stream that runs. -/
theorem test_hyp_StepKeepsMemoryCanonical : State.reset.quiet ∧ State.reset.memInv ∧ (stepAt exitLine).quiet ∧ (stepAt exitLine).memInv := by
  have unit : ∀ (m : Module) (d : Fin 16) (c : Fin 128), (∀ e ∈ m.cores, e.2.unitMem = []) → (m.core d c).unitMem = [] := by
    intro m d c h
    unfold Module.core
    generalize coreKey d c = k
    revert h
    generalize m.cores = t
    intro h
    induction t with
    | nil => rfl
    | cons e t ih =>
      obtain ⟨j, v⟩ := e
      unfold Tbl.get
      split
      · exact h (j, v) (List.mem_cons_self ..)
      · exact ih fun e he => h e (List.mem_cons_of_mem _ he)
  refine ⟨⟨rfl, rfl, rfl⟩, ⟨⟨rfl, rfl, fun d c => ?_⟩, fun i hi => by cases hi⟩, ⟨rfl, rfl, rfl⟩,
    ⟨⟨by decide +kernel, rfl, fun d c => ?_⟩, fun i hi => by cases hi⟩⟩
  · rw [unit _ d c (fun e he => by cases he)]; rfl
  · rw [unit _ d c (fun e he => by
      have : e = (0, (stepAt exitLine).m.core 0 0) := by simpa [stepAt, with_, at_, world, Module.core, coreKey, Tbl.get] using he
      rw [this]; rfl)]; rfl

/-! ### Ill-formed terms, one for each check of WellFormed -/

/-- A slot op of X on tiles. -/
def opT (t : Ty) : SlotOp := { op0 with dst := .v 2, a := .tile 4, b := .tile 6, ty := t }
/-- A slot op on scalars. -/
def opS (t : Ty) : SlotOp := { op0 with dst := .s 5, a := .s 1, b := .s 2, ty := t }

/-- The neighbours of the ill-formed terms below are well formed. -/
theorem test_wf_accepts :
    ([.topk { opT .f32 with b := .lit 3 }, .rsum { opS .f32 with a := .tile 4, b := .tile 0, opx := 2 },
      .argm { opS .f32 with a := .tile 4, b := .tile 0, opx := 2 }, .rmxaBlk { opT .f32 with b := .lit 5, opx := 4 },
      .getx { opS .i8 with a := .lit 1023, b := .tile 0 }, .setx { op0 with a := .lit 1023, b := .s 2 },
      .afab { opS .n32 with c := .lit 9 }, .npre 200, .loop (.imm 0) 1, .mset 3 0 0xFFFFF,
      .iadd (opS .i64), .isub (opT .i8), .icmp { opT .i8 with dst := .p 1 }, .faddF32 (opT .i8), .lds { opS .i32 with a := .a 1, b := .lit 0 },
      .iadd { opT .i16 with b := .lit 0xFFFF }] : List Instr).all (·.wf) = true := by
  decide +kernel

/-- The rules of single ops: an odd TOPK pair, a reduction of a row or ARGM of a row into a scalar, ARGM of a whole tile into a
tile, a sixth block format, special register 1,024, AFAB into an a register, bounds 0 and 201, a loop without a body, MSET part 3
beyond 20 bits. -/
theorem test_wf_refuses_extras :
    ([.topk { opT .f32 with dst := .v 3, b := .lit 3 }, .rsum { opS .f32 with a := .tile 4, b := .tile 0, opx := 1 },
      .argm { opS .f32 with a := .tile 4, b := .tile 0, opx := 1 }, .argm { opT .f32 with b := .tile 0, opx := 2 },
      .rmxaBlk { opT .f32 with b := .lit 6, opx := 4 },
      .getx { opS .i8 with a := .lit 1024, b := .tile 0 }, .setx { op0 with a := .lit 1024, b := .s 2 },
      .afab { opS .n32 with dst := .a 5, c := .lit 9 }, .npre 0, .npre 201, .loop (.imm 0) 0, .mset 3 0 0x100000] : List Instr).all
      (fun i => !i.wf) = true := by
  decide +kernel

/-- The rules of a slot op: a type and an op-specific value that the opcode does not list, an unused source that is not zero, a
source of the wrong class, a write of p0, a mask as the destination of an add, a predicate with a scalar destination and on an op
that needs p0, a tile read into a scalar, i64 on tiles, literal bits beyond the type. -/
theorem test_wf_refuses_slots :
    ([.iadd (opS .f32), .faddF32 (opT .f32), .iadd { opS .i8 with opx := 1 }, .icmp { opT .i8 with dst := .p 1, opx := 6 },
      .iadd { opS .i8 with c := .s 1 }, .lds { opS .i32 with a := .s 1, b := .lit 0 }, .pand { opT .i8 with dst := .p 1 },
      .icmp { opT .i8 with dst := .p 0 }, .iadd { opT .i8 with dst := .p 1 }, .iadd { opS .i8 with pred := 1 },
      .trns { opT .i8 with b := .tile 0, pred := 1 }, .iadd { opS .i8 with a := .tile 4 }, .iadd (opT .i64),
      .iadd { opT .i8 with b := .lit 0x100 }, .ldt { opT .i8 with a := .a 1, b := .lit 0 }] : List Instr).all
      (fun i => !i.wf) = true := by
  decide +kernel

/-- The rules of streams: memory ops outside X, M and C ops and mask branches in X, slot 1 of L in scalar form, queues only where
they end. -/
theorem test_wf_refuses_streams :
    (Instr.lds { opS .i32 with a := .a 1, b := .lit 0 }).okIn .x = false ∧ (Instr.pcnt { opS .i8 with a := .mask 1, b := .tile 0 }).okIn .l = false ∧
    (Instr.fexp { opT .f32 with b := .tile 0 }).okIn .s = false ∧ (Instr.brp 1 .any 2).okIn .s = false ∧
    (Instr.brqe .qlx 2).okIn .s = false ∧ (Instr.brqe .qxs 2).okIn .l = false ∧ (Instr.iadd (opT .i8)).okIn .l = false ∧
    (Instr.iadd (opS .i8)).okIn .l = true ∧ (Instr.imov { opT .i8 with a := .qxs, b := .tile 0 }).okIn .x = false ∧
    (Instr.imov { opT .i8 with a := .qlx, b := .tile 0 }).okIn .x = true ∧ (Instr.imov { opT .i8 with dst := .qlx, b := .tile 0 }).okIn .x = false ∧
    Instr.ret.okInHandler .x = false ∧ Instr.eret.okInHandler .x = true := by
  decide +kernel

/-! ### Decoding, from the tables 02 R40, R41, R64 to R69, 09 R255, R256, 15 R357 -/

/-- The fields of the words below (02 R35): destination v3, op-specific value 1, predicate p2, type f32, A the tile v5, B the
register s7, C the literal 9. -/
def opW : SlotOp := { dst := .v 3, a := .tile 5, b := .s 7, c := .lit 9, ty := .f32, pred := 2, opx := 1 }
/-- The slot word with those fields and an opcode; the low half-word holds the kinds and the type. -/
def slotWord (code : Nat) : Nat := 0x00000009000000070000000503293400 + code
/-- A slot of a bundle and whether consecutive opcodes from `code` decode to the listed ops there. -/
def opsFrom (slot code : Nat) (is : List Instr) : Bool :=
  (is.zipIdx code).all fun p => decodeTableWord 512 (slotWord p.2 * 2 ^ (128 * slot)) == some p.1

theorem test_decode_vInt : opsFrom 1 0x01 [.iadd opW, .isub opW, .iadds opW, .isubs opW, .imul opW, .imulh opW, .imad opW, .ishl opW,
    .ishr opW, .isra opW, .iand opW, .ior opW, .ixor opW, .imin opW, .imax opW, .iabs opW, .iclz opW, .ipop opW, .imov opW, .ibfe opW,
    .ibfi opW] = true := by decide +kernel

theorem test_decode_vFloat : opsFrom 1 0x20 [.faddF32 opW, .faddBf16 opW, .faddF16 opW, .fsubF32 opW, .fsubBf16 opW, .fsubF16 opW,
    .fmulF32 opW, .fmulBf16 opW, .fmulF16 opW, .fmaF32 opW, .fmaBf16 opW, .fmaF16 opW, .fdivF32 opW, .fdivBf16 opW, .fdivF16 opW,
    .fminF32 opW, .fminBf16 opW, .fminF16 opW, .fmaxF32 opW, .fmaxBf16 opW, .fmaxF16 opW, .fabs opW, .fneg opW, .fmov opW, .fscl opW,
    .fclp opW, .flrp opW] = true := by decide +kernel

theorem test_decode_m : opsFrom 2 0x40 [.icmp opW, .fcmp opW, .sel opW, .pand opW, .por opW, .pxor opW, .pnot opW, .pcnt opW, .rsum opW,
    .rsqs opW, .rmax opW, .rmin opW, .rmxa opW, .rscn opW, .argm opW, .topk opW, .trns opW, .bcst opW, .shuf opW, .vext opW, .vins opW,
    .iota opW] = true ∧
    decodeTableWord 512 ((slotWord 0x4C + 3 * 2 ^ 21) * 2 ^ 256) = some (.rmxaBlk { opW with opx := 4 }) := by decide +kernel

theorem test_decode_c : opsFrom 3 0x60 [.cvt opW, .cvfi opW, .cvif opW, .qblk opW, .dqbk opW, .dcf4 opW, .nwsl opW, .nwpk opW, .fexp opW,
    .fexp2 opW, .flog opW, .flog2 opW, .frcp opW, .fsqt opW, .frsq opW, .ftnh opW, .fsig opW, .fglu opW, .fsin opW, .fcos opW, .fsmx opW,
    .rand opW, .jsed opW, .jext opW] = true := by decide +kernel

/-- Op-specific value 1 of CBST initialises, 0 reads. -/
theorem test_decode_mem : opsFrom 2 0x80 [.ldt opW, .stt opW, .lds opW, .sts opW, .ldb opW, .ldnw opW, .gath opW, .scat opW, .tmov opW,
    .wfen opW, .cbpb opW, .cbrl opW, .cbwtConsumer opW, .cbstInit opW] = true ∧
    decodeTableWord 512 ((slotWord 0x8D - 2 ^ 21) * 2 ^ 256) = some (.cbstGet { opW with opx := 0 }) := by decide +kernel

theorem test_decode_sy : opsFrom 3 0xA0 [.afad opW, .afab opW, .ainw opW, .adcw opW, .acas opW, .aswp opW, .amin opW, .amax opW, .aand opW,
    .aor opW, .afaf opW, .afmx opW, .sdec opW, .sadd opW, .bexp opW, .barv opW, .binv opW, .fenc opW, .tdep opW, .tcpy opW, .ttak opW,
    .tcan opW, .tprb opW, .echn opW, .ecwt opW, .leas opW, .lrel opW, .chn opW, .qspl opW, .ecnc opW, .uirq opW, .sqtr opW, .sqac opW,
    .sqrb opW, .sqpm opW, .sqrs opW, .sqst opW, .invm opW, .getx opW, .setx opW] = true := by decide +kernel

/-- The control ops by code, operand c (header bits 47:16) and second operand (111:96). -/
theorem test_decode_control :
    ([(0x01, 0xFFFFFFFE, 0, .br (-2)), (0x02, 0x00000205, 0, .brz 5 2), (0x03, 0xFFFFFF3F, 0, .brnz 63 (-1)), (0x04, 0x00000309, 0, .brp 1 .all 3),
      (0x04, 0x00000012, 0, .brp 2 .none 0), (0x05, 0x00000A00, 4, .loop (.imm 10) 4), (0x05, 0x00000049, 4, .loop (.reg 9) 4),
      (0x06, 0x00000007, 0, .call 7), (0x07, 0, 0, .ret), (0x08, 0x0000003F, 0, .jmpi (.s 63)), (0x08, 0x00000042, 0, .jmpi (.a 2)),
      (0x09, 0, 0, .rdv), (0x0A, 0, 0, .exit), (0x0B, 0, 0, .yield), (0x0C, 0x3FF, 0, .join 1023), (0x0D, 2, 0, .leave 2), (0x0E, 2, 0, .gbar 2),
      (0x0F, 12, 0, .waits 12), (0x10, 255, 0, .waitb 255), (0x11, 0xFFFF, 0, .trap 0xFFFF), (0x12, 0, 0, .eret), (0x13, 200, 0, .npre 200),
      (0x14, 0, 0, .xpre), (0x15, 0x00000401, 0, .brqe .qxs 4)] : List (Nat × Nat × Nat × Instr)).all (fun r =>
      decodeTableWord 512 (r.1 * 2 ^ 8 + r.2.1 * 2 ^ 16 + r.2.2.1 * 2 ^ 96) == some r.2.2.2) = true ∧
    decodeTableWord 512 0 = some .nop := by
  decide +kernel

/-- The address ops by code, register field (51:48 holds the code, 55:52 the register), modifier field (59:56) and operand (95:64). -/
theorem test_decode_address :
    ([(1, 2, 0, 0xFFFFFFC0, .ainc 2 (-64)), (2, 3, 4, 0, .amod 3 4), (3, 15, 1, 0, .abrv 15 1), (4, 1, 15, 0, .acir 1 15),
      (5, 6, 0xF, 0x12345678, .aset 6 0xF 0x12345678), (6, 1, 5, 64, .mset 1 5 64)] : List (Nat × Nat × Nat × Nat × Instr)).all (fun r =>
      decodeTableWord 512 (r.1 * 2 ^ 48 + r.2.1 * 2 ^ 52 + r.2.2.1 * 2 ^ 56 + r.2.2.2.1 * 2 ^ 64) == some r.2.2.2.2) = true := by
  decide +kernel

/-- The fields of the record words below (09 R253): class Zither, NTF and BYT, buffers 0x0105, word 1 0x40. -/
def recW : Rec := { cls := .zither, bufs := 0x0105, last := false, ntf := true, sig := false, byt := true, w1 := 0x40, w2 := 0, w3 := 0, w4 := 0
                    w5 := 0, w6 := 0, w7 := 0 }

theorem test_decode_records :
    ([(0x01, .cpy recW), (0x02, .cpg recW), (0x03, .cpm recW), (0x04, .mmp recW), (0x05, .mdr recW), (0x06, .atn recW), (0x07, .kap recW),
      (0x08, .ktr recW), (0x09, .kfk recW), (0x0A, .mig recW), (0x0B, .pas recW), (0x10, .jmp recW), (0x11, .lpc recW), (0x12, .ifz recW),
      (0x13, .ifnz recW), (0x14, .sgd recW), (0x15, .nte recW), (0x1F, .endRec recW)] : List (Nat × Instr)).all (fun r =>
      decodeTableWord 256 (0x0000004001055200 + r.1) == some r.2) = true := by
  decide +kernel

/-- The mailbox commands by their codes; DISPOSE by its target and action, REPLAY 0, NEXT 1, FAIL or STOP 2 (15 R358). -/
theorem test_decode_mail :
    ([(0x02, .readrec), (0x03, .evring), (0x10, .resync), (0x20, .ctxload), (0x21, .ctxunload), (0x22, .ccbset), (0x23, .winset), (0x30, .remap),
      (0x31, .migrate), (0x40, .matchset), (0x41, .parkset), (0x42, .keyset), (0x43, .mcast), (0x50, .attest), (0x51, .fusemin)] :
      List (Nat × Instr)).all (fun r => decodeMail { w0 := BitVec.ofNat 64 r.1, w1 := 0, w2 := 0, w3 := 0, w4 := 0 } == .cmd r.2) = true ∧
    ([(0, .disposeReplay), (0x1000000, .disposeNext), (0x2000000, .disposeFail), (0x100, .disposeChainReplay),
      (0x2000100, .disposeChainStop)] : List (Nat × Instr)).all (fun r =>
      decodeMail { w0 := 1, w1 := BitVec.ofNat 64 r.1, w2 := 0, w3 := 0, w4 := 0 } == .cmd r.2) = true ∧
    decodeMail { w0 := 1, w1 := 0x1000100, w2 := 0, w3 := 0, w4 := 0 } = .badAction ∧
    decodeMail { w0 := 0x60, w1 := 0, w2 := 0, w3 := 0, w4 := 0 } = .unknown := by
  decide +kernel

/-- The unassigned codes of 02 R70, reserved bits and the field each is charged to (02 R48). -/
theorem test_decode_refuses :
    ((List.range' 0x16 10 ++ List.range' 0x3B 5 ++ List.range' 0x56 10 ++ List.range' 0x78 8 ++ List.range' 0x8E 18 ++ List.range' 0xC8 56).all
      fun c => (decodeSlot c).isNone) = true ∧
    ((List.range' 0x16 42).all fun c => (decodeCtl c 0 0).isNone) = true ∧ ((List.range' 7 9).all fun c => (decodeAdr c 0 0 0).isNone) = true ∧
    (match decodeBundle 0x10, decodeBundle 0x4000, decodeBundle (2 ^ 60), decodeBundle (0x78 * 2 ^ 128 + 0xFF * 2 ^ 256),
       decodeBundle (2 ^ (128 * 3 + 8)) with
     | .error .token, .error .control, .error .address, .error .slot1, .error .slot3 => true
     | _, _, _, _, _ => false) = true ∧
    decodeDst 0x22 = none ∧ decodeDst 0xA0 = none ∧ decodeTy 13 = none ∧ decodeSrc 0 34 = none ∧ decodeSrc 1 96 = none ∧
    decodeSrc 2 16384 = none ∧ decodeRec 0x0C = none ∧ decodeRec 0x401 = none := by
  decide +kernel

/-! ### Single steps, results by hand from the rules -/

/-- 04 R108, 03 R82: 3 + 127 in i8 wraps to -126 and is sign-extended; saturating it is 127. -/
theorem test_iadd_wraps :
    (after (.iadd { opS .i8 with a := .s 2, b := .lit 0x7F }) sX).strm.sreg 5 = 0xFFFFFFFFFFFFFF82 ∧
    (after (.iadds { opS .i8 with a := .s 2, b := .lit 0x7F }) sX).strm.sreg 5 = 0x7F := by decide +kernel

/-- 04 R108: the high half of -1 × -1 in i8 is 0, of 255 × 255 in n8 is 254. -/
theorem test_imulh_signs :
    (after (.imulh { opS .i8 with a := .lit 0xFF, b := .lit 0xFF }) sX).strm.sreg 5 = 0 ∧
    (after (.imulh { opS .n8 with a := .lit 0xFF, b := .lit 0xFF }) sX).strm.sreg 5 = 254 := by decide +kernel

/-- 04 R110, 02 R43: 1.5 + 2.25 is 3.75 in f32, 1.0 × -2.0 is -2.0 in f16. -/
theorem test_fadd_fmul :
    (after (.faddF32 { opS .i8 with a := .lit 0x3FC00000, b := .lit 0x40100000 }) sX).strm.sreg 5 = 0x40700000 ∧
    (after (.fmulF16 { opS .i8 with a := .lit 0x3C00, b := .lit 0xC000 }) sX).strm.sreg 5 = 0xC000 := by decide +kernel

/-- 03 R79: 1 + 2^-24 lies half-way between 1 and its neighbour and rounds to even; 1 ÷ 3 rounds to 0x3EAAAAAB. -/
theorem test_rounding :
    (after (.faddF32 { opS .i8 with a := .lit 0x3F800000, b := .lit 0x33800000 }) sX).strm.sreg 5 = 0x3F800000 ∧
    (after (.fdivF32 { opS .i8 with a := .lit 0x3F800000, b := .lit 0x40400000 }) sX).strm.sreg 5 = 0x3EAAAAAB := by decide +kernel

/-- 05 R145: 2.5 and 3.5 to i32 under nearest even are 2 and 4. -/
theorem test_cvfi_ties :
    (after (.cvfi { opS .i32 with a := .lit 0x40200000, b := .tile 0 }) sX).strm.sreg 5 = 2 ∧
    (after (.cvfi { opS .i32 with a := .lit 0x40600000, b := .tile 0 }) sX).strm.sreg 5 = 4 := by decide +kernel

/-- 02 R41, 04 R130: a1 + 64; ASET sets 36 bits. -/
theorem test_address_ops :
    (after (.ainc 1 64) sL).strm.areg 1 = 0x100000080 ∧ (after (.aset 2 0xF 1) sL).strm.areg 2 = 0xF00000001 := by decide +kernel

/-- 04 R113, R115: 3 < 4 as a scalar compare; p1 ∧ p2 of 0x5 and 0x3. -/
theorem test_compare_and_masks :
    (after (.icmp { opS .i32 with a := .s 2, b := .lit 4, opx := 2 }) sX).strm.sreg 5 = 1 ∧
    (after (.pand { op0 with dst := .p 3, a := .mask 1, b := .mask 2 }) sX).core.preg 3 = 1 := by decide +kernel

/-- 08 R221, R217: a store through a1 + 4 is read back by the same address, low byte first. -/
theorem test_store_then_load :
    let o : SlotOp := { op0 with a := .a 1, b := .lit 4, ty := .i32 }
    let s := after (.sts { o with c := .lit 0x80000001 }) sS
    (after (.lds { o with dst := .s 5 }) { s with pre := some s.m }).strm.sreg 5 = 0xFFFFFFFF80000001 ∧
    (after (.lds { o with dst := .s 5, ty := .i8 }) { s with pre := some s.m }).strm.sreg 5 = 1 := by decide +kernel

/-- 08 R218, 15 R354: a misaligned LDS traps with ALIGN, code 3, in slot 2, at its address 0x100000045. -/
theorem test_misaligned_traps :
    (match (after (.lds { op0 with dst := .s 5, a := .a 1, b := .lit 5, ty := .i32 }) sL).verdict with
     | .trapped t => decide (t.code = 3 ∧ t.place = 4 ∧ t.addr = 0x100000045)
     | _ => false) = true := by decide +kernel

end Sys2Proof.Tests
end

section
/-! SUPPORT. Tables filled and filtered by key; the places of granted scratchpad bytes; the pieces of a save area. -/

namespace Sys2Proof

/-! ### Tables filled and filtered by key -/

section
variable {α : Type}

/-- A table that holds `v` at a key, or gets it from a list of entries that give that key no other value. -/
theorem Tbl.get_foldl_set [DecidableEq α] {d v : α} {es : List (Nat × α)} {t : Tbl α} {k : Nat}
    (same : ∀ e ∈ es, e.1 = k → e.2 = v) (hv : Tbl.get d t k = v ∨ (k, v) ∈ es) :
    Tbl.get d (es.foldl (fun t e => Tbl.set d t e.1 e.2) t) k = v := by
  induction es generalizing t with
  | nil => simpa using hv
  | cons e es ih =>
    refine ih (fun x hx => same x (List.mem_cons_of_mem _ hx)) ?_
    by_cases hk : e.1 = k
    · left; subst hk; simpa using same e (List.mem_cons_self ..) rfl
    · refine hv.imp (fun hv => ?_) fun hv => (List.mem_cons.1 hv).resolve_left ?_
      · rw [Tbl.get_set_ne _ _ _ (Ne.symm hk), hv]
      · rintro rfl; exact hk rfl

theorem Tbl.get_filter_key (d : α) (t : Tbl α) (g : Nat → Bool) (k : Nat) :
    Tbl.get d (t.filter fun e => g e.1) k = if g k then Tbl.get d t k else d := by
  induction t with
  | nil => simp
  | cons e t ih =>
    obtain ⟨j, v⟩ := e
    by_cases hg : g j = true
    · rw [List.filter_cons_of_pos (p := fun e : Nat × α => g e.1) hg, Tbl.get, Tbl.get]
      split
      · next h => simp [h, hg]
      · exact ih
    · rw [List.filter_cons_of_neg (p := fun e : Nat × α => g e.1) hg, ih, Tbl.get]
      split
      · split
        · next h => exact absurd (h ▸ ‹g k = true›) hg
        · rfl
      · rfl

/-- What a table answers is its default or an entry that it lists. -/
theorem Tbl.get_eq_or_mem (d : α) (t : Tbl α) (k : Nat) : Tbl.get d t k = d ∨ (k, Tbl.get d t k) ∈ t := by
  induction t with
  | nil => exact .inl rfl
  | cons e t ih =>
    obtain ⟨j, v⟩ := e
    rw [Tbl.get]
    split
    · next h => exact .inr (h ▸ List.mem_cons_self ..)
    · exact ih.imp_right (List.mem_cons_of_mem _)

theorem Tbl.get_of_mem (d : α) {t : Tbl α} {e : Nat × α} (hs : Tbl.sorted t = true) (he : e ∈ t) :
    Tbl.get d t e.1 = e.2 := by
  induction t with
  | nil => cases he
  | cons x t ih =>
    obtain ⟨j, v⟩ := x
    obtain ⟨ha, ht⟩ := (Tbl.sorted_cons j v t).1 hs
    rcases List.mem_cons.1 he with rfl | he
    · simp [Tbl.get]
    · have := ha e he
      rw [Tbl.get, if_neg (by omega), ih ht he]

end

/-- The byte of an address after a list of stores that all give it the same value. -/
theorem Memory.byte_foldl_put {es : List (Nat × Byte)} {m : Memory} {a : Nat} {v : Byte}
    (same : ∀ e ∈ es, e.1 = a → e.2 = v) (hv : Memory.byte m a = v ∨ (a, v) ∈ es) :
    Memory.byte (es.foldl (fun t e => Memory.put t e.1 e.2) m) a = v :=
  Tbl.get_foldl_set same hv

theorem Memory.byte_foldl_put_out {es : List (Nat × Byte)} (m : Memory) {a : Nat} (h : ∀ e ∈ es, e.1 ≠ a) :
    Memory.byte (es.foldl (fun t e => Memory.put t e.1 e.2) m) a = Memory.byte m a :=
  Memory.byte_foldl_put (fun e he ha => absurd ha (h e he)) (.inl rfl)

theorem Memory.byte_filter (m : Memory) (g : Nat → Bool) (a : Nat) :
    Memory.byte (m.filter fun e => g e.1) a = if g a then Memory.byte m a else 0 := Tbl.get_filter_key 0 m g a

theorem Memory.mem_of_byte {m : Memory} {a : Nat} (h : Memory.byte m a ≠ 0) : (a, Memory.byte m a) ∈ m :=
  (Tbl.get_eq_or_mem 0 m a).resolve_left h

theorem Memory.byte_of_mem {m : Memory} {e : Nat × Byte} (hm : Memory.wf m = true) (he : e ∈ m) :
    Memory.byte m e.1 = e.2 := Tbl.get_of_mem 0 ((Tbl.wf_iff 0 m).1 hm).1 he

/-- A list of computations that all succeed: each input has its result in the list, and each result its input. -/
theorem mapM_ok_mem {ε β γ : Type} {f : β → Except ε γ} {xs : List β} {ys : List γ} (h : xs.mapM f = .ok ys) :
    (∀ x ∈ xs, ∃ y ∈ ys, f x = .ok y) ∧ ∀ y ∈ ys, ∃ x ∈ xs, f x = .ok y := by
  induction xs generalizing ys with
  | nil => cases h; simp
  | cons x xs ih =>
    rw [List.mapM_cons] at h
    cases hx : f x with
    | error e => rw [hx] at h; cases h
    | ok y =>
      cases hr : xs.mapM f with
      | error e => rw [hx, hr] at h; cases h
      | ok zs =>
        rw [hx, hr] at h
        cases h
        obtain ⟨h1, h2⟩ := ih hr
        refine ⟨List.forall_mem_cons.2 ⟨⟨y, List.mem_cons_self .., hx⟩, fun z hz => ?_⟩,
          List.forall_mem_cons.2 ⟨⟨x, List.mem_cons_self .., hx⟩, fun z hz => ?_⟩⟩
        · obtain ⟨w, hw, e⟩ := h1 z hz; exact ⟨w, List.mem_cons_of_mem _ hw, e⟩
        · obtain ⟨w, hw, e⟩ := h2 z hz; exact ⟨w, List.mem_cons_of_mem _ hw, e⟩

end Sys2Proof

namespace Sys2Proof.Machine

/-! ### The places of granted bytes (14 R331, R332; log 18) -/

/-- The byte at `a` stands at place `k` among a context's granted bytes. -/
inductive GrantPlace (m : Module) (c : Fin 64) : Nat → Nat → Prop
  | die (d : Fin 16) (r : Nat) : r < ctxDsize m c → GrantPlace m c (d.val * grantDie m c + r) (diePa d (ctxDbase m c + r))
  | cluster (d : Fin 16) (j : Fin 8) (r : Nat) : r < ctxCsize m c →
      GrantPlace m c (d.val * grantDie m c + (ctxDsize m c + (j.val * ctxCsize m c + r))) (clusterPa d j.val (ctxCbase m c + r))

/-- A cluster's share of a die's granted bytes ends within them. -/
theorem clusterPlace_lt {j n r : Nat} (d : Nat) (hj : j < 8) (hr : r < n) : d + (j * n + r) < d + 8 * n := by
  have : (j + 1) * n ≤ 8 * n := Nat.mul_le_mul_right n hj
  rw [Nat.succ_mul] at this
  omega

theorem div_mod_mul_add {q n r : Nat} (h : r < n) : (q * n + r) / n = q ∧ (q * n + r) % n = r := by
  constructor
  · rw [Nat.add_comm, Nat.add_mul_div_right _ _ (by omega), Nat.div_eq_of_lt h, Nat.zero_add]
  · rw [Nat.add_comm, Nat.add_mul_mod_self_right, Nat.mod_eq_of_lt h]

theorem place_lt_all {q n r : Nat} (hq : q < 16) (hr : r < n) : ¬16 * n ≤ q * n + r := by
  have : (q + 1) * n ≤ 16 * n := Nat.mul_le_mul_right n hq
  rw [Nat.succ_mul] at this
  omega

theorem GrantPlace.keyAddr {m : Module} {c : Fin 64} {k a : Nat} (h : GrantPlace m c k a) : keyAddr m c k = some a := by
  cases h with
  | die d r hr =>
    have hn : r < grantDie m c := by unfold grantDie; omega
    obtain ⟨hq, hm⟩ := div_mod_mul_add (q := d.val) hn
    unfold Machine.keyAddr
    simp only [hq, hm]
    rw [if_neg (place_lt_all d.isLt hn), if_pos hr, Fin.ofNat_eq_cast, Fin.cast_val_eq_self]
  | cluster d j r hr =>
    have hn : ctxDsize m c + (j.val * ctxCsize m c + r) < grantDie m c := clusterPlace_lt _ j.isLt hr
    obtain ⟨hq, hm⟩ := div_mod_mul_add (q := d.val) hn
    obtain ⟨hj, hk⟩ := div_mod_mul_add (q := j.val) hr
    unfold Machine.keyAddr
    simp only [hq, hm]
    rw [if_neg (place_lt_all d.isLt hn), if_neg (by omega), Nat.add_sub_cancel_left, hj, hk, Fin.ofNat_eq_cast,
      Fin.cast_val_eq_self]

theorem keyAddr_place {m : Module} {c : Fin 64} {k a : Nat} (h : keyAddr m c k = some a) : GrantPlace m c k a := by
  unfold keyAddr at h
  simp only at h
  have hk := Nat.div_add_mod' k (grantDie m c)
  split at h
  · cases h
  · next hlt =>
    have hn : 0 < grantDie m c := by omega
    have hq : k / grantDie m c < 16 := Nat.div_lt_of_lt_mul (by rw [Nat.mul_comm]; omega)
    have hr : k % grantDie m c < grantDie m c := Nat.mod_lt _ hn
    have hd : (Fin.ofNat 16 (k / grantDie m c)).val = k / grantDie m c := Nat.mod_eq_of_lt hq
    split at h
    · next hs =>
      cases h
      have := GrantPlace.die (m := m) (c := c) (Fin.ofNat 16 (k / grantDie m c)) _ hs
      rwa [hd, hk] at this
    · next hs =>
      cases h
      have hsize : k % grantDie m c < ctxDsize m c + 8 * ctxCsize m c := hr
      have hc : 0 < ctxCsize m c := by omega
      have hj : (k % grantDie m c - ctxDsize m c) / ctxCsize m c < 8 := Nat.div_lt_of_lt_mul (by omega)
      have := GrantPlace.cluster (m := m) (c := c) (Fin.ofNat 16 (k / grantDie m c)) ⟨_, hj⟩ _
        (Nat.mod_lt (k % grantDie m c - ctxDsize m c) hc)
      rwa [hd, Nat.div_add_mod', Nat.add_sub_cancel' (by omega), hk] at this

theorem isScratch_iff (a : Nat) : isScratch a = true ↔ scratchBase ≤ a ∧ a - scratchBase < 0x100000000 := by
  unfold isScratch
  rw [Bool.and_eq_true, decide_eq_true_iff, decide_eq_true_iff]
  omega

theorem grantKey_place {m : Module} {c : Fin 64} {k a : Nat} (h : grantKey m c a = some k) : GrantPlace m c k a := by
  unfold grantKey isScratch at h
  simp only [Bool.not_eq_true', Bool.and_eq_false_iff, decide_eq_false_iff_not] at h
  split at h
  · cases h
  · next hs =>
    have hd : (a - scratchBase) / 0x10000000 < 16 := by omega
    split at h
    · split at h
      · next hr =>
        cases h
        have := GrantPlace.die (m := m) (c := c) ⟨_, hd⟩ ((a - scratchBase) % 0x10000000 - ctxDbase m c) (by omega)
        convert this using 1
        unfold diePa
        simp only
        omega
      · cases h
    · split at h
      · next hr =>
        cases h
        have := GrantPlace.cluster (m := m) (c := c) ⟨_, hd⟩ ⟨((a - scratchBase) % 0x10000000 - 0x8000000) / 0x1000000, by omega⟩
          (((a - scratchBase) % 0x10000000 - 0x8000000) % 0x1000000 - ctxCbase m c) (by omega)
        convert this using 1
        · simp only [Nat.add_assoc]
        · unfold clusterPa
          simp only
          omega
      · cases h

/-- A place among the granted bytes names one byte. -/
theorem grantKey_inj {m : Module} {c : Fin 64} {k a b : Nat} (ha : grantKey m c a = some k) (hb : grantKey m c b = some k) :
    a = b :=
  Option.some.inj ((grantKey_place ha).keyAddr.symm.trans (grantKey_place hb).keyAddr)

/-- The grants of scratchpad lie within a die's and a cluster's scratchpad. -/
def GrantsInside (m : Module) (c : Fin 64) : Prop :=
  ctxDbase m c + ctxDsize m c ≤ 0x8000000 ∧ ctxCbase m c + ctxCsize m c ≤ 0x1000000

theorem GrantPlace.grantKey {m : Module} {c : Fin 64} {k a : Nat} (h : GrantPlace m c k a) (hi : GrantsInside m c) :
    grantKey m c a = some k := by
  obtain ⟨hdie, hcluster⟩ := hi
  cases h with
  | die d r hr =>
    have hd := d.isLt
    have h1 : diePa d (ctxDbase m c + r) - scratchBase = d.val * 0x10000000 + (ctxDbase m c + r) := by unfold diePa; omega
    have h2 : scratchBase ≤ diePa d (ctxDbase m c + r) := by unfold diePa; omega
    obtain ⟨hq, hm⟩ := div_mod_mul_add (q := d.val) (n := 0x10000000) (r := ctxDbase m c + r) (by omega)
    have hs : isScratch (diePa d (ctxDbase m c + r)) = true := by
      rw [isScratch_iff]; omega
    unfold Machine.grantKey
    simp only [hs, h1, hq, hm]
    rw [if_neg (by simp), if_pos (by omega), if_pos (by omega), Nat.add_sub_cancel_left]
  | cluster d j r hr =>
    have hd := d.isLt
    have hj := j.isLt
    have h1 : clusterPa d j.val (ctxCbase m c + r) - scratchBase =
        d.val * 0x10000000 + (0x8000000 + (j.val * 0x1000000 + (ctxCbase m c + r))) := by unfold clusterPa; omega
    have h2 : scratchBase ≤ clusterPa d j.val (ctxCbase m c + r) := by unfold clusterPa; omega
    obtain ⟨hq, hm⟩ := div_mod_mul_add (q := d.val) (n := 0x10000000)
      (r := 0x8000000 + (j.val * 0x1000000 + (ctxCbase m c + r))) (by omega)
    obtain ⟨hk, ho⟩ := div_mod_mul_add (q := j.val) (n := 0x1000000) (r := ctxCbase m c + r) (by omega)
    have hs : isScratch (clusterPa d j.val (ctxCbase m c + r)) = true := by
      rw [isScratch_iff]; omega
    unfold Machine.grantKey
    simp only [hs, h1, hq, hm, Nat.add_sub_cancel_left, hk, ho]
    rw [if_neg (by simp), if_neg (by omega), if_pos (by omega)]
    simp only [Nat.add_assoc]

theorem grantKey_of_keyAddr {m : Module} {c : Fin 64} {k a : Nat} (hi : GrantsInside m c) (h : keyAddr m c k = some a) :
    grantKey m c a = some k := (keyAddr_place h).grantKey hi

/-! ### The pieces of a save area (14 R331; log 18) -/

/-- The piece that a range of device addresses has on the page of `x`. -/
def pagePiece (a n x : Nat) : Nat × Nat :=
  (max a (x / 4096 * 4096), min (a + n) (x / 4096 * 4096 + 4096) - max a (x / 4096 * 4096))

theorem mem_pagePieces {a n : Nat} {e : Nat × Nat} : e ∈ pagePieces a n ↔ ∃ x, a ≤ x ∧ x < a + n ∧ e = pagePiece a n x := by
  unfold pagePieces pagePiece
  split
  · simp; omega
  · simp only [List.mem_map, List.mem_range]
    constructor
    · rintro ⟨k, hk, rfl⟩
      refine ⟨max a (a / 4096 * 4096 + 4096 * k), by omega, by omega, ?_⟩
      have : max a (a / 4096 * 4096 + 4096 * k) / 4096 * 4096 = a / 4096 * 4096 + 4096 * k := by omega
      rw [this, Nat.mul_add, Nat.mul_one, ← Nat.add_assoc]
    · rintro ⟨x, h1, h2, rfl⟩
      refine ⟨x / 4096 - a / 4096, by omega, ?_⟩
      have : a / 4096 * 4096 + 4096 * (x / 4096 - a / 4096) = x / 4096 * 4096 := by omega
      rw [Nat.mul_add, Nat.mul_one, ← Nat.add_assoc, this]

/-- An address in a piece is on the page of that piece. -/
theorem pagePiece_of_covers {a n x y : Nat} (h1 : (pagePiece a n x).1 ≤ y) (h2 : y < (pagePiece a n x).1 + (pagePiece a n x).2) :
    pagePiece a n x = pagePiece a n y := by
  have : x / 4096 = y / 4096 := by
    unfold pagePiece at h1 h2
    simp only at h1 h2
    omega
  unfold pagePiece
  rw [this]

section
variable {m : Module} {c : Fin 64} {k : AccKind} {area : Nat} {ps : List (Nat × Nat × Nat)}

/-- The pieces of a save area are those of its pages, each at the physical address of its first byte. -/
theorem saveArea_mem (h : saveArea m c k area = .ok ps) {p : Nat × Nat × Nat} (hp : p ∈ ps) :
    ∃ x r, area ≤ x ∧ x < area + 16 * grantDie m c ∧ area + p.1 = (pagePiece area (16 * grantDie m c) x).1 ∧
      p.2.2 = (pagePiece area (16 * grantDie m c) x).2 ∧
      translate m none c k ((area + p.1) % 2 ^ 57) = .ok r ∧ r.1 = p.2.1 := by
  obtain ⟨e, he, hf⟩ := (mapM_ok_mem h).2 p hp
  obtain ⟨x, h1, h2, rfl⟩ := mem_pagePieces.1 he
  have hlo : area ≤ (pagePiece area (16 * grantDie m c) x).1 := le_max_left ..
  cases ht : translate m none c k ((pagePiece area (16 * grantDie m c) x).1 % 2 ^ 57) with
  | error e => rw [ht] at hf; cases hf
  | ok r =>
    rw [ht] at hf
    cases hf
    have : area + ((pagePiece area (16 * grantDie m c) x).1 - area) = (pagePiece area (16 * grantDie m c) x).1 := by omega
    exact ⟨x, r, h1, h2, this, rfl, by rw [this, ht], rfl⟩

/-- Every place of a save area lies in a piece on its page. -/
theorem saveArea_covers (h : saveArea m c k area = .ok ps) {i : Nat} (hi : i < 16 * grantDie m c) :
    ∃ p ∈ ps, p.1 ≤ i ∧ i < p.1 + p.2.2 ∧ (area + p.1) / 4096 = (area + i) / 4096 := by
  obtain ⟨p, hp, hf⟩ := (mapM_ok_mem h).1 _ (mem_pagePieces.2 ⟨area + i, by omega, by omega, rfl⟩)
  cases ht : translate m none c k ((pagePiece area (16 * grantDie m c) (area + i)).1 % 2 ^ 57) with
  | error e => rw [ht] at hf; cases hf
  | ok r =>
    rw [ht] at hf
    cases hf
    refine ⟨_, hp, ?_⟩
    unfold pagePiece
    simp only
    omega

/-- A place lies in one piece only. -/
theorem saveArea_unique (h : saveArea m c k area = .ok ps) {p q : Nat × Nat × Nat} (hp : p ∈ ps) (hq : q ∈ ps) {i : Nat}
    (hpi : p.1 ≤ i ∧ i < p.1 + p.2.2) (hqi : q.1 ≤ i ∧ i < q.1 + q.2.2) : p = q := by
  obtain ⟨x, r, -, -, h1, h2, h3, h4⟩ := saveArea_mem h hp
  obtain ⟨y, t, -, -, g1, g2, g3, g4⟩ := saveArea_mem h hq
  have hx := pagePiece_of_covers (a := area) (n := 16 * grantDie m c) (x := x) (y := area + i) (by omega) (by omega)
  have hy := pagePiece_of_covers (a := area) (n := 16 * grantDie m c) (x := y) (y := area + i) (by omega) (by omega)
  have hxy := hx.trans hy.symm
  have e1 : p.1 = q.1 := by rw [hxy] at h1; omega
  have e2 : p.2.2 = q.2.2 := by rw [h2, g2, hxy]
  have e3 : p.2.1 = q.2.1 := by
    rw [e1, g3] at h3
    rw [← h4, ← g4, Except.ok.inj h3]
  exact Prod.ext e1 (Prod.ext e3 e2)

end

end Sys2Proof.Machine
end

section
/-! SUPPORT. What the parts of a load and of an unload change and keep. -/

namespace Sys2Proof.Machine

/-! ### Accesses by the module itself, without a place that holds translations -/

theorem translate_none_frame {m n : Module} {c : Fin 64} {k : AccKind} {a pa : Nat}
    (h : translate m none c k a = .ok (pa, n)) : n = m := by
  unfold translate at h
  simp only [Option.bind_none] at h
  split at h
  · cases h
  · split at h
    · cases h
    · cases h; rfl

theorem devLocs_none_frame {m n : Module} {c : Fin 64} {k : AccKind} {ps : List (Nat × Nat)} {ls : List (Loc × Nat)}
    (h : devLocs m none c k ps = .ok (ls, n)) : n = m ∧ ∀ l ∈ ls, ∃ pa, l.1 = .phys pa := by
  induction ps generalizing n ls with
  | nil => cases h; simp
  | cons p ps ih =>
    rw [devLocs] at h
    split at h
    · cases h
    · next pa m' ht =>
      obtain rfl := translate_none_frame ht
      split at h
      · cases h
      · next ls' n' hd =>
        cases h
        obtain ⟨hn, hl⟩ := ih hd
        exact ⟨hn, List.forall_mem_cons.2 ⟨⟨pa, rfl⟩, hl⟩⟩

/-- Writing physical locations changes bytes and poison alone. -/
theorem writeLocs_phys_frame {m : Module} {ls : List (Loc × Nat)} {bs : List Byte} (h : ∀ l ∈ ls, ∃ pa, l.1 = .phys pa) :
    writeLocs m ls bs = { m with phys := (writeLocs m ls bs).phys, poison := (writeLocs m ls bs).poison } := by
  induction ls generalizing m bs with
  | nil => rfl
  | cons l ls ih =>
    obtain ⟨⟨pa, hl⟩, hls⟩ := List.forall_mem_cons.1 h
    have hw : ∀ bs, writeLoc m l.1 bs = { m with phys := (writeLoc m l.1 bs).phys, poison := (writeLoc m l.1 bs).poison } := by
      intro bs
      rw [hl]
      unfold writeLoc
      dsimp only
      split <;> rfl
    rw [writeLocs, ih hls, hw]

theorem storeDev_none_frame {m w : Module} {c : Fin 64} {a : Nat} {bs : List Byte}
    (h : storeDev m none none c a bs = .ok w) : w = { m with phys := w.phys, poison := w.poison } := by
  unfold storeDev at h
  split at h
  · cases h
  · next ls n hd =>
    obtain ⟨rfl, hl⟩ := devLocs_none_frame hd
    obtain ⟨k, hk, rfl⟩ := storeLocs_eq h
    cases hk
    exact writeLocs_phys_frame hl

theorem stackBuild_frame (m : Module) (c : Fin 64) (p : ZPool) :
    stackBuild m c p = { m with phys := (stackBuild m c p).phys, poison := (stackBuild m c p).poison
                                fresh := (stackBuild m c p).fresh } := by
  unfold stackBuild
  generalize List.range p.frames = is
  induction is generalizing m with
  | nil => rfl
  | cons i is ih =>
    rw [List.foldl_cons, ih]
    simp only [Module.nextFresh]
    split
    · next w hw => rw [storeDev_none_frame hw]
    · rfl

/-! ### What the parts of a load keep -/

/-- The control blocks, the tags and the synchronisation objects are the same in two modules. -/
structure KeepsObjects (m w : Module) : Prop where
  ccbs : w.ccbs = m.ccbs
  tags : ∀ d, (w.die d).tags = (m.die d).tags
  slots : ∀ d, (w.die d).slots = (m.die d).slots
  groups : ∀ d, (w.die d).groups = (m.die d).groups
  bufs : ∀ d, (w.die d).bufs = (m.die d).bufs

theorem KeepsObjects.trans {m n w : Module} (h : KeepsObjects m n) (k : KeepsObjects n w) : KeepsObjects m w where
  ccbs := k.ccbs.trans h.ccbs
  tags d := (k.tags d).trans (h.tags d)
  slots d := (k.slots d).trans (h.slots d)
  groups d := (k.groups d).trans (h.groups d)
  bufs d := (k.bufs d).trans (h.bufs d)

theorem KeepsObjects.of_eq {m w : Module} (hc : w.ccbs = m.ccbs) (hd : w.dies = m.dies) : KeepsObjects m w := by
  have h : ∀ d, w.die d = m.die d := fun d => by unfold Module.die; rw [hd]
  exact ⟨hc, fun d => by rw [h], fun d => by rw [h], fun d => by rw [h], fun d => by rw [h]⟩

theorem KeepsObjects.barrier {m w : Module} (h : KeepsObjects m w) (d : Fin 16) (k : Fin 256) :
    w.barrier d k = m.barrier d k := by unfold Module.barrier; rw [h.slots]
theorem KeepsObjects.group {m w : Module} (h : KeepsObjects m w) (d : Fin 16) (g : Nat) :
    w.group d g = m.group d g := by unfold Module.group; rw [h.groups]
theorem KeepsObjects.buf {m w : Module} (h : KeepsObjects m w) (d : Fin 16) (o : Nat) :
    w.buf d o = m.buf d o := by unfold Module.buf; rw [h.bufs]

/-- An update of one die that leaves its tags and objects. -/
theorem KeepsObjects.modDie {m : Module} {d : Fin 16} {f : Die → Die} (ht : (f (m.die d)).tags = (m.die d).tags)
    (hs : (f (m.die d)).slots = (m.die d).slots) (hg : (f (m.die d)).groups = (m.die d).groups)
    (hb : (f (m.die d)).bufs = (m.die d).bufs) : KeepsObjects m (m.modDie d f) := by
  have key : ∀ {α : Type} (g : Die → α) e, g (f (m.die d)) = g (m.die d) → g ((m.modDie d f).die e) = g (m.die e) := by
    intro α g e h
    rw [Module.die_modDie]
    split
    · next he => rw [h, he]
    · rfl
  exact ⟨rfl, fun e => key Die.tags e ht, fun e => key Die.slots e hs, fun e => key Die.groups e hg,
    fun e => key Die.bufs e hb⟩

theorem buildPool_keeps (m : Module) (c : Fin 64) (z : Fin 8) : KeepsObjects m (buildPool m c z) := by
  unfold buildPool
  split
  · exact .of_eq rfl rfl
  · dsimp only
    rw [stackBuild_frame]
    exact .of_eq rfl rfl

theorem buildPools_keep (c : Fin 64) (zs : List (Fin 8)) (m : Module) :
    KeepsObjects m (zs.foldl (fun m z => buildPool m c z) m) := by
  induction zs generalizing m with
  | nil => exact .of_eq rfl rfl
  | cons z zs ih => exact (buildPool_keeps m c z).trans (ih _)

/-- A pool table entry without frames has no stack area to fill. -/
theorem buildPool_phys_of_empty {m : Module} {c : Fin 64} {z : Fin 8}
    (h : ∀ p, zpoolOf m c z = .ok p → p.hcount = 0 ∧ p.bcount = 0) : (buildPool m c z).phys = m.phys := by
  unfold buildPool
  split
  · rfl
  · next p hp =>
    obtain ⟨hh, hb⟩ := h p hp
    simp [stackBuild, ZPool.frames, hh, hb, Module.setZither]

theorem removeTuple_keeps (m : Module) (d : Fin 16) (t : Tuple) :
    KeepsObjects m (removeTuple m d t) ∧ (removeTuple m d t).phys = m.phys := by
  have key : ∀ x, KeepsObjects m (m.setSlice d (homeSlice (tupTag t.image)) x) := fun x => .modDie rfl rfl rfl rfl
  unfold removeTuple
  dsimp only
  split
  · split
    · exact ⟨(key _).trans (.of_eq rfl rfl), rfl⟩
    · exact ⟨key _, rfl⟩
  · exact ⟨key _, rfl⟩

theorem takeLaunches_keeps (c : Fin 64) (n : Nat) (m : Module) :
    KeepsObjects m (takeLaunches m c n) ∧ (takeLaunches m c n).phys = m.phys := by
  induction n generalizing m with
  | zero => exact ⟨.of_eq rfl rfl, rfl⟩
  | succ n ih =>
    unfold takeLaunches
    dsimp only
    split
    · exact ⟨.of_eq rfl rfl, rfl⟩
    · next t ht =>
      obtain ⟨hk, hp⟩ := removeTuple_keeps m (ctxHome m c) t
      obtain ⟨ik, ip⟩ := ih ((removeTuple m (ctxHome m c) t).modDie (ctxHome m c) fun x => { x with
        launches := x.launches ++ [{ ctx := c, image := t.image, clk := t.clk, reads := 0, nextAt := x.cyc }] })
      exact ⟨hk.trans ((KeepsObjects.modDie rfl rfl rfl rfl).trans ik), ip.trans hp⟩

/-! ### What is read of a module through its control blocks alone -/

/-- A function of the control blocks answers the same for modules that have the same ones. -/
theorem ofCcbs {α : Type} (f : Module → α) (hf : ∀ m : Module, f m = f { ccbs := m.ccbs }) {m w : Module}
    (h : w.ccbs = m.ccbs) : f w = f m := by
  rw [hf w, h, ← hf m]

theorem ctxValid_congr {m w : Module} (h : w.ccbs = m.ccbs) (c : Fin 64) : ctxValid w c = ctxValid m c :=
  ofCcbs (ctxValid · c) (fun _ => rfl) h
theorem ccb_congr {m w : Module} (h : w.ccbs = m.ccbs) (c : Fin 64) (k : Nat) : ccb w c k = ccb m c k :=
  ofCcbs (ccb · c k) (fun _ => rfl) h
theorem grantKey_congr {m w : Module} (h : w.ccbs = m.ccbs) (c : Fin 64) (a : Nat) : grantKey w c a = grantKey m c a :=
  ofCcbs (grantKey · c a) (fun _ => rfl) h
theorem grantSlot_congr {m w : Module} (h : w.ccbs = m.ccbs) (c : Fin 64) (k : Nat) : grantSlot w c k = grantSlot m c k :=
  ofCcbs (grantSlot · c k) (fun _ => rfl) h
theorem grantGroup_congr {m w : Module} (h : w.ccbs = m.ccbs) (c : Fin 64) (k : Nat) : grantGroup w c k = grantGroup m c k :=
  ofCcbs (grantGroup · c k) (fun _ => rfl) h
theorem grantBuf_congr {m w : Module} (h : w.ccbs = m.ccbs) (c : Fin 64) (k : Nat) : grantBuf w c k = grantBuf m c k :=
  ofCcbs (grantBuf · c k) (fun _ => rfl) h

/-! ### Updates of every die -/

/-- An update of every die, of which each depends on the control blocks and its own die. -/
theorem foldl_modDie (f : Module → Die → Die) (hf : ∀ m w : Module, w.ccbs = m.ccbs → f w = f m) (m : Module) :
    let w := (List.finRange 16).foldl (fun m d => m.modDie d (f m)) m
    w = { m with dies := w.dies } ∧ ∀ d, w.die d = f m (m.die d) := by
  have key : ∀ (ds : List (Fin 16)) (m : Module), ds.Nodup →
      ds.foldl (fun m d => m.modDie d (f m)) m = { m with dies := (ds.foldl (fun m d => m.modDie d (f m)) m).dies } ∧
      ∀ d, (ds.foldl (fun m d => m.modDie d (f m)) m).die d = if d ∈ ds then f m (m.die d) else m.die d := by
    intro ds
    induction ds with
    | nil => exact fun m _ => ⟨rfl, fun d => by simp⟩
    | cons e ds ih =>
      intro m hn
      obtain ⟨he, hn⟩ := List.nodup_cons.1 hn
      obtain ⟨h1, h2⟩ := ih (m.modDie e (f m)) hn
      rw [List.foldl_cons]
      refine ⟨by rw [h1]; rfl, fun d => ?_⟩
      rw [h2, hf m (m.modDie e (f m)) rfl, Module.die_modDie]
      by_cases hd : d = e
      · subst hd; simp [he]
      · simp [hd]
  obtain ⟨h1, h2⟩ := key _ m (List.nodup_finRange 16)
  exact ⟨h1, fun d => by rw [h2, if_pos (List.mem_finRange d)]⟩

/-! ### The bytes of a context's grants, emptied, restored and saved -/

section
variable {m : Module} {c : Fin 64}

theorem clearGrant_spec (m : Module) (c : Fin 64) :
    clearGrant m c = { m with dies := (clearGrant m c).dies, poison := (clearGrant m c).poison
                              phys := m.phys.filter fun e => !(grantKey m c e.1).isSome } ∧
    ∀ d, (clearGrant m c).die d = { m.die d with
      tags := (m.die d).tags.filter fun e => !(grantKey m c (64 * e.1)).isSome } := by
  obtain ⟨h1, h2⟩ := foldl_modDie (fun _ x => { x with tags := x.tags.filter fun e => !(grantKey m c (64 * e.1)).isSome })
    (fun _ _ _ => rfl) { m with phys := m.phys.filter fun e => !(grantKey m c e.1).isSome
                                poison := m.poison.filter fun l => !(grantKey m c (64 * l)).isSome }
  exact ⟨h1, h2⟩

theorem resetObjects_spec (m : Module) (c : Fin 64) :
    resetObjects m c = { m with dies := (resetObjects m c).dies } ∧
    ∀ d, (resetObjects m c).die d = { m.die d with
      groups := (m.die d).groups.filter fun e => !grantGroup m c e.1
      slots := Tbl.mapV {} id ((m.die d).slots.map fun e => (e.1, if grantSlot m c e.1 then { e.2 with valid := false } else e.2))
      bufs := (m.die d).bufs.filter fun e => !grantBuf m c e.1 } := by
  refine foldl_modDie (fun m x => { x with
    groups := x.groups.filter fun e => !grantGroup m c e.1
    slots := Tbl.mapV {} id (x.slots.map fun e => (e.1, if grantSlot m c e.1 then { e.2 with valid := false } else e.2))
    bufs := x.bufs.filter fun e => !grantBuf m c e.1 }) (fun m w h => ?_) m
  simp only [grantGroup_congr h, grantSlot_congr h, grantBuf_congr h]

theorem resetObjects_ccbs (m : Module) (c : Fin 64) : (resetObjects m c).ccbs = m.ccbs := by
  rw [(resetObjects_spec m c).1]
theorem resetObjects_phys (m : Module) (c : Fin 64) : (resetObjects m c).phys = m.phys := by
  rw [(resetObjects_spec m c).1]
theorem clearGrant_ccbs (m : Module) (c : Fin 64) : (clearGrant m c).ccbs = m.ccbs := by
  rw [(clearGrant_spec m c).1]
theorem clearGrant_phys (m : Module) (c : Fin 64) :
    (clearGrant m c).phys = m.phys.filter fun e => !(grantKey m c e.1).isSome := by
  rw [(clearGrant_spec m c).1]

theorem byte_clearGrant (m : Module) (c : Fin 64) (a : Nat) :
    Memory.byte (clearGrant m c).phys a = if grantKey m c a = none then Memory.byte m.phys a else 0 := by
  rw [clearGrant_phys, Memory.byte_filter m.phys fun a => !(grantKey m c a).isSome]
  cases grantKey m c a <;> rfl

/-- The cells that a save area gives back to a context's grants. -/
def restoredCells (m : Module) (c : Fin 64) (ps : List (Nat × Nat × Nat)) : List (Nat × Byte) :=
  ps.flatMap fun p => m.phys.filterMap fun e =>
    if p.2.1 ≤ e.1 ∧ e.1 < p.2.1 + p.2.2 then (keyAddr m c (p.1 + (e.1 - p.2.1))).map fun a => (a, e.2) else none

theorem mem_restoredCells {ps : List (Nat × Nat × Nat)} {a : Nat} {v : Byte} :
    (a, v) ∈ restoredCells m c ps ↔ ∃ p ∈ ps, ∃ b, (b, v) ∈ m.phys ∧ p.2.1 ≤ b ∧ b < p.2.1 + p.2.2 ∧
      keyAddr m c (p.1 + (b - p.2.1)) = some a := by
  simp only [restoredCells, List.mem_flatMap, List.mem_filterMap, Prod.exists]
  constructor
  · rintro ⟨p1, p2, p3, hp, b, w, hb, h⟩
    split at h
    · next hc =>
      obtain ⟨a', ha, he⟩ := Option.map_eq_some_iff.1 h
      cases he
      exact ⟨p1, p2, p3, hp, b, hb, hc.1, hc.2, ha⟩
    · cases h
  · rintro ⟨p1, p2, p3, hp, b, hb, h1, h2, ha⟩
    exact ⟨p1, p2, p3, hp, b, v, hb, by rw [if_pos ⟨h1, h2⟩, ha]; rfl⟩

theorem restoreGrant_phys (m : Module) (c : Fin 64) (ps : List (Nat × Nat × Nat)) :
    (restoreGrant m c ps).phys = (restoredCells m c ps).foldl (fun t e => Memory.put t e.1 e.2) (clearGrant m c).phys := rfl

theorem restoreGrant_frame (m : Module) (c : Fin 64) (ps : List (Nat × Nat × Nat)) :
    (restoreGrant m c ps).ccbs = m.ccbs ∧ (restoreGrant m c ps).dies = (clearGrant m c).dies := by
  simp only [restoreGrant, clearGrant_ccbs, and_self]

/-- A byte that is not granted stays. -/
theorem byte_restoreGrant_out (hi : GrantsInside m c) (ps : List (Nat × Nat × Nat)) {a : Nat} (ha : grantKey m c a = none) :
    Memory.byte (restoreGrant m c ps).phys a = Memory.byte m.phys a := by
  rw [restoreGrant_phys, Memory.byte_foldl_put_out, byte_clearGrant, if_pos ha]
  rintro ⟨b, v⟩ he rfl
  obtain ⟨p, -, x, -, -, -, hk⟩ := mem_restoredCells.1 he
  rw [grantKey_of_keyAddr hi hk] at ha
  cases ha

/-- Without a save area the granted bytes are zero. -/
theorem byte_restoreGrant_nil {a : Nat} (ha : grantKey m c a ≠ none) : Memory.byte (restoreGrant m c []).phys a = 0 := by
  rw [restoreGrant_phys]
  exact (byte_clearGrant m c a).trans (if_neg ha)

/-- A granted byte is the byte at its place in the save area. -/
theorem byte_restoreGrant {ps : List (Nat × Nat × Nat)} (hi : GrantsInside m c) (hm : Memory.wf m.phys = true)
    (one : ∀ p ∈ ps, ∀ q ∈ ps, ∀ i, (p.1 ≤ i ∧ i < p.1 + p.2.2) → (q.1 ≤ i ∧ i < q.1 + q.2.2) → p = q)
    {a k : Nat} {p : Nat × Nat × Nat} (ha : grantKey m c a = some k) (hp : p ∈ ps) (h1 : p.1 ≤ k) (h2 : k < p.1 + p.2.2) :
    Memory.byte (restoreGrant m c ps).phys a = Memory.byte m.phys (p.2.1 + (k - p.1)) := by
  rw [restoreGrant_phys]
  apply Memory.byte_foldl_put
  · rintro ⟨b, v⟩ he rfl
    obtain ⟨q, hq, x, hx, g1, g2, hk⟩ := mem_restoredCells.1 he
    have hkey : q.1 + (x - q.2.1) = k := Option.some.inj ((grantKey_of_keyAddr hi hk).symm.trans ha)
    obtain rfl := one q hq p hp k (by omega) ⟨h1, h2⟩
    rw [← Memory.byte_of_mem hm hx]
    congr 1
    simp only
    omega
  · by_cases hz : Memory.byte m.phys (p.2.1 + (k - p.1)) = 0
    · left
      rw [byte_clearGrant, hz, if_neg (by simp [ha])]
    · right
      refine mem_restoredCells.2 ⟨p, hp, _, Memory.mem_of_byte hz, by omega, by omega, ?_⟩
      rw [Nat.add_sub_cancel_left, Nat.add_sub_cancel' h1, (grantKey_place ha).keyAddr]

/-- Where a place lies in the pieces of a save area. -/
def placeIn (ps : List (Nat × Nat × Nat)) (k : Nat) : Option Nat :=
  ps.findSome? fun p => if p.1 ≤ k ∧ k < p.1 + p.2.2 then some (p.2.1 + (k - p.1)) else none

theorem placeIn_some {ps : List (Nat × Nat × Nat)} {k t : Nat} (h : placeIn ps k = some t) :
    ∃ p ∈ ps, (p.1 ≤ k ∧ k < p.1 + p.2.2) ∧ t = p.2.1 + (k - p.1) := by
  obtain ⟨p, hp, hf⟩ := List.exists_of_findSome?_eq_some h
  split at hf
  · next hc => exact ⟨p, hp, hc, (Option.some.inj hf).symm⟩
  · cases hf

/-- The cells that saving a context's grants stores. -/
def savedCells (m : Module) (c : Fin 64) (ps : List (Nat × Nat × Nat)) : List (Nat × Byte) :=
  m.phys.filterMap fun e => ((grantKey m c e.1).bind (placeIn ps)).map fun a => (a, e.2)

theorem mem_savedCells {ps : List (Nat × Nat × Nat)} {t : Nat} {v : Byte} :
    (t, v) ∈ savedCells m c ps ↔ ∃ a k, (a, v) ∈ m.phys ∧ grantKey m c a = some k ∧ placeIn ps k = some t := by
  simp only [savedCells, List.mem_filterMap, Prod.exists, Option.map_eq_some_iff, Option.bind_eq_some_iff, Prod.mk.injEq]
  constructor
  · rintro ⟨a, v, ha, t', ⟨k, hk, ht⟩, rfl, rfl⟩; exact ⟨a, k, ha, hk, ht⟩
  · rintro ⟨a, k, ha, hk, ht⟩; exact ⟨a, v, ha, t, ⟨k, hk, ht⟩, rfl, rfl⟩

/-- Whether a piece of a save area holds an address. -/
def areaCovers (ps : List (Nat × Nat × Nat)) (a : Nat) : Bool :=
  ps.any fun p => decide (p.2.1 ≤ a) && decide (a < p.2.1 + p.2.2)

theorem areaCovers_iff {ps : List (Nat × Nat × Nat)} {a : Nat} :
    areaCovers ps a = true ↔ ∃ p ∈ ps, p.2.1 ≤ a ∧ a < p.2.1 + p.2.2 := by
  simp [areaCovers]

theorem saveGrant_phys (m : Module) (c : Fin 64) (ps : List (Nat × Nat × Nat)) : (saveGrant m c ps).phys =
    (savedCells m c ps).foldl (fun t e => Memory.put t e.1 e.2) (m.phys.filter fun e => !areaCovers ps e.1) := rfl

/-- A byte outside the save area stays. -/
theorem byte_saveGrant_out {ps : List (Nat × Nat × Nat)} {a : Nat} (ha : ∀ p ∈ ps, ¬(p.2.1 ≤ a ∧ a < p.2.1 + p.2.2)) :
    Memory.byte (saveGrant m c ps).phys a = Memory.byte m.phys a := by
  have hc : areaCovers ps a = false := by
    rw [← Bool.not_eq_true, areaCovers_iff]
    rintro ⟨p, hp, h⟩
    exact ha p hp h
  rw [saveGrant_phys, Memory.byte_foldl_put_out, Memory.byte_filter m.phys fun a => !areaCovers ps a, hc]
  · rfl
  · rintro ⟨t, v⟩ he rfl
    obtain ⟨x, k, -, -, ht⟩ := mem_savedCells.1 he
    obtain ⟨p, hp, hk, rfl⟩ := placeIn_some ht
    exact ha p hp ⟨by simp only; omega, by simp only; omega⟩

/-- The byte at a place of the save area is the granted byte of that place. -/
theorem byte_saveGrant {ps : List (Nat × Nat × Nat)} (hm : Memory.wf m.phys = true)
    (one : ∀ p ∈ ps, ∀ q ∈ ps, ∀ i, (p.1 ≤ i ∧ i < p.1 + p.2.2) → (q.1 ≤ i ∧ i < q.1 + q.2.2) → p = q)
    (apart : ∀ p ∈ ps, ∀ q ∈ ps, p = q ∨ p.2.1 + p.2.2 ≤ q.2.1 ∨ q.2.1 + q.2.2 ≤ p.2.1)
    {a k : Nat} {p : Nat × Nat × Nat} (ha : grantKey m c a = some k) (hp : p ∈ ps) (h1 : p.1 ≤ k) (h2 : k < p.1 + p.2.2) :
    Memory.byte (saveGrant m c ps).phys (p.2.1 + (k - p.1)) = Memory.byte m.phys a := by
  have hplace : placeIn ps k = some (p.2.1 + (k - p.1)) := by
    cases hk : placeIn ps k with
    | none =>
      have := List.findSome?_eq_none_iff.1 hk p hp
      rw [if_pos ⟨h1, h2⟩] at this
      cases this
    | some t =>
      obtain ⟨q, hq, hc, rfl⟩ := placeIn_some hk
      rw [one q hq p hp k hc ⟨h1, h2⟩]
  rw [saveGrant_phys]
  apply Memory.byte_foldl_put
  · rintro ⟨t, v⟩ he rfl
    obtain ⟨x, j, hx, hj, ht⟩ := mem_savedCells.1 he
    obtain ⟨q, hq, hc, he⟩ := placeIn_some ht
    obtain rfl : q = p := (apart q hq p hp).resolve_right (by omega)
    obtain rfl : j = k := by omega
    rw [← Memory.byte_of_mem hm hx, grantKey_inj hj ha]
  · by_cases hz : Memory.byte m.phys a = 0
    · left
      have : areaCovers ps (p.2.1 + (k - p.1)) = true := areaCovers_iff.2 ⟨p, hp, by omega, by omega⟩
      rw [Memory.byte_filter m.phys fun a => !areaCovers ps a, this, hz]
      rfl
    · exact .inr (mem_savedCells.2 ⟨a, k, Memory.mem_of_byte hz, ha, hplace⟩)

end

end Sys2Proof.Machine
end

section
/-! SUPPORT. CTXLOAD: the tests, the control block, the module after a load, what the command answers (14 R331). -/

namespace Sys2Proof.Machine

/-! ### The tests of a load (14 R331) -/

theorem not_both_of_overlap {a n b k r : Nat} (h : overlap a n b k = false) :
    ¬(a ≤ r ∧ r < a + n ∧ b ≤ r ∧ r < b + k) := by
  have := of_decide_eq_false h
  omega

section
variable {m : Module} {c : Fin 64}

theorem grantsFit_bounds (h : grantsFit m c = true) :
    ctxDbase m c + ctxDsize m c ≤ 0x8000000 ∧ ctxCbase m c + ctxCsize m c ≤ 0x1000000 ∧
      ctxGbase m c + ctxGcount m c ≤ 1024 ∧ ctxBbase m c + ctxBcount m c ≤ 256 := by
  simp only [grantsFit, Bool.and_eq_true, decide_eq_true_eq] at h
  obtain ⟨⟨⟨⟨hd, hc⟩, hg⟩, hb⟩, -⟩ := h
  exact ⟨hd, hc, hg, hb⟩

/-- Grants that do not meet have no byte, slot, group or buffer object in common. -/
theorem grants_apart {x : Fin 64} (h : grantsMeet m c x = false) :
    (∀ r, ¬(ctxDbase m c ≤ r ∧ r < ctxDbase m c + ctxDsize m c ∧ ctxDbase m x ≤ r ∧ r < ctxDbase m x + ctxDsize m x)) ∧
    (∀ r, ¬(ctxCbase m c ≤ r ∧ r < ctxCbase m c + ctxCsize m c ∧ ctxCbase m x ≤ r ∧ r < ctxCbase m x + ctxCsize m x)) ∧
    (∀ k, ¬(grantSlot m c k = true ∧ grantSlot m x k = true)) ∧
    (∀ k, ¬(grantGroup m c k = true ∧ grantGroup m x k = true)) ∧
    ∀ k, ¬(grantBuf m c k = true ∧ grantBuf m x k = true) := by
  simp only [grantsMeet, Bool.or_eq_false_iff] at h
  obtain ⟨⟨⟨⟨hd, hc⟩, hg⟩, hb⟩, ho⟩ := h
  refine ⟨fun r => not_both_of_overlap hd, fun r => not_both_of_overlap hc, fun k hk => ?_, fun k hk => ?_, fun k hk => ?_⟩
  · simp only [grantSlot, Bool.and_eq_true, decide_eq_true_eq] at hk
    exact not_both_of_overlap (r := k) hb (by omega)
  · simp only [grantGroup, Bool.and_eq_true, decide_eq_true_eq] at hk
    exact not_both_of_overlap (r := k) hg (by omega)
  · simp only [grantBuf, Bool.and_eq_true, decide_eq_true_eq] at hk
    exact not_both_of_overlap (r := k) ho (by omega)

theorem loadOk_tests (h : loadOk m c = true) :
    grantsFit m c = true ∧ (∀ x, x ≠ c → ctxValid m x = true → grantsMeet m c x = false) ∧
      (((List.finRange 64).filter fun x => ctxValid m x).map (ctxTshare m)).sum ≤ 256 ∧
      (((List.finRange 64).filter fun x => ctxValid m x).map (ctxPshare m)).sum ≤ 4096 ∧ inboundFit m c = true := by
  simp only [loadOk, Bool.and_eq_true, decide_eq_true_eq] at h
  obtain ⟨⟨⟨⟨⟨hfit, hothers⟩, -⟩, ht⟩, hp⟩, hin⟩ := h
  refine ⟨hfit, fun x hx hv => ?_, ht, hp, hin⟩
  have := List.all_eq_true.1 hothers x (by simp [hx, hv])
  simpa using this

theorem loadOk_grantsInside (h : loadOk m c = true) : GrantsInside m c := by
  obtain ⟨hd, hc, -, -⟩ := grantsFit_bounds (loadOk_tests h).1
  exact ⟨hd, hc⟩

theorem inboundFit_slot (h : inboundFit m c = true) {w : Nat} {e : WinEnt} (hw : w < 64) (he : readWin m c w = .ok e)
    (hv : e.valid = true) : grantSlot m c e.islot.val = true := by
  have := List.all_eq_true.1 h w (List.mem_range.2 hw)
  rw [he] at this
  simpa [hv] using this

end

/-! ### Words of a control block (14 R330) -/

theorem bitAt_eq_testBit (w i : Nat) : bitAt w i = w.testBit i := by
  rw [bitAt, Nat.testBit_eq_decide_div_mod_eq]
  rfl

theorem ccb_setCcb (m : Module) (c x : Fin 64) (k j : Nat) (v : W64) :
    ccb (setCcb m c k v) x j = if x = c ∧ j = k then (v &&& ccbBits k).toNat else ccb m x j := by
  unfold ccb setCcb
  dsimp only
  rw [Tbl.get_set]
  by_cases hx : x = c
  · subst hx
    rw [if_pos rfl, Tbl.get_set]
    by_cases hj : j = k <;> simp [hj]
  · rw [if_neg (fun h => hx (Fin.ext h)), if_neg (fun h => hx h.1)]

/-- Bit 63 of word 1 taken away. -/
theorem bitAt_63_cleared {v : Nat} (hv : v < 2 ^ 64) (b : W64) :
    bitAt (BitVec.ofNat 64 (v - 2 ^ 63) &&& b).toNat 63 = false := by
  have hlt : v - 2 ^ 63 < 2 ^ 63 := by omega
  rw [bitAt_eq_testBit, BitVec.toNat_and, Nat.testBit_and, BitVec.toNat_ofNat, Nat.mod_eq_of_lt (by omega),
    Nat.testBit_lt_two_pow hlt, Bool.false_and]

theorem bitAt_63_set (v : W64) : bitAt (v ||| 2 ^ 63).toNat 63 = true := by
  have top : (2 ^ 63 : W64).getLsbD 63 = true := by decide +kernel
  rw [bitAt_eq_testBit, BitVec.testBit_toNat, BitVec.getLsbD_or, top, Bool.or_true]

theorem ccb_lt (m : Module) (c : Fin 64) (k : Nat) : ccb m c k < 2 ^ 64 := BitVec.isLt _

/-! ### CTXLOAD (14 R331) -/

section
variable (s : State)

/-- Word `k` of the block that CTXLOAD reads, without its reserved bits. -/
def loadWord (k : Nat) : W64 := BitVec.ofNat 64 (Memory.read s.m.host (mailW s 1 + 8 * k) 8) &&& ccbBits k

/-- The context that the block names. -/
def loadCtx : Fin 64 := Fin.ofNat 64 (loadWord s 1).toNat

/-- The block as it stands after the load, with valid set. -/
def loadBlock : Tbl W64 := ((List.range 32).zip (((List.range 32).map (loadWord s)).set 1 (loadWord s 1 ||| 2 ^ 63))).foldl
  (fun t e => Tbl.set 0 t e.1 e.2) []

/-- The module with the newcomer's block and tables, as the tests and the save area's translations see it. -/
def loadNew : Module :=
  { s.m with ccbs := Tbl.set ccbReset s.m.ccbs (loadCtx s).val (loadBlock s) }.modCtx (loadCtx s) fun x =>
    { x with tables := s.m.phys }

/-- The pieces of the save area, none without one. -/
def loadReads : Except AccStop (List (Nat × Nat × Nat)) :=
  if mailW s 2 = 0 then .ok [] else saveArea (loadNew s) (loadCtx s) .read (mailW s 2)

/-- A newcomer's translations and race records start anew: the tables in force are those of memory as it stands. -/
def startTables (m : Module) (c : Fin 64) : Module :=
  let m := { m with held := m.held.filter fun h => !decide (h.ctx = c) }
  m.modCtx c fun x => { x with race := 0, tables := m.phys }

/-- The module with the granted bytes and objects as the load leaves them, before the Zithers build their free lists. -/
def loadFilled (ps : List (Nat × Nat × Nat)) : Module :=
  startTables (resetObjects (restoreGrant (loadNew s) (loadCtx s) ps) (loadCtx s)) (loadCtx s)

/-- The module after the Zithers have built their free lists. -/
def loadPooled (ps : List (Nat × Nat × Nat)) : Module :=
  (List.finRange 8).foldl (fun m z => buildPool m (loadCtx s) z) (loadFilled s ps)

/-- The tuples that stand at the newcomer's home, of which the dispatcher takes those that launch. -/
def loadTuples (ps : List (Nat × Nat × Nat)) : Nat :=
  let m := loadPooled s ps
  ((m.die (ctxHome m (loadCtx s))).slices.map fun e => e.2.stored.length + e.2.overflow.length).sum

theorem execCtxload_eq : execCtxload s =
    if ctxValid s.m (loadCtx s) || !loadOk (loadNew s) (loadCtx s) then answer s 3 s.m
    else match loadReads s with
      | .error .busy => .next s
      | .error _ => answer s 3 s.m
      | .ok ps => answer s 0 (takeLaunches (loadPooled s ps) (loadCtx s) (loadTuples s ps)) := by
  unfold execCtxload loadTuples loadPooled loadFilled startTables
  rfl


/-! ### The control block of a newcomer -/

theorem ccb_loadNew (k : Nat) (hk : k < 32) :
    ccb (loadNew s) (loadCtx s) k = (if k = 1 then loadWord s 1 ||| 2 ^ 63 else loadWord s k).toNat := by
  have hzip : (List.range 32).zip (((List.range 32).map (loadWord s)).set 1 (loadWord s 1 ||| 2 ^ 63)) =
      (List.range 32).map fun k => (k, if k = 1 then loadWord s 1 ||| 2 ^ 63 else loadWord s k) := rfl
  have hblock : Tbl.get 0 (loadBlock s) k = if k = 1 then loadWord s 1 ||| 2 ^ 63 else loadWord s k := by
    unfold loadBlock
    rw [hzip]
    apply Tbl.get_foldl_set
    · intro e he hek
      obtain ⟨j, -, rfl⟩ := List.mem_map.1 he
      obtain rfl : j = k := hek
      rfl
    · exact .inr (List.mem_map.2 ⟨k, List.mem_range.2 hk, rfl⟩)
  have hset : Tbl.get ccbReset (loadNew s).ccbs (loadCtx s).val = loadBlock s := Tbl.get_set_same ..
  rw [ccb, hset, hblock]

theorem ccb_loadNew_other (x : Fin 64) (k : Nat) (hx : x ≠ loadCtx s) : ccb (loadNew s) x k = ccb s.m x k := by
  have hset : Tbl.get ccbReset (loadNew s).ccbs x.val = Tbl.get ccbReset s.m.ccbs x.val :=
    Tbl.get_set_ne _ _ _ fun h => hx (Fin.ext h)
  rw [ccb, hset, ccb]

theorem ctxValid_loadNew : ctxValid (loadNew s) (loadCtx s) = true := by
  rw [ctxValid, ccb_loadNew s 1 (by omega), if_pos rfl, bitAt_63_set]

/-! ### The state after a load -/

variable (ps : List (Nat × Nat × Nat))

theorem startTables_frame (m : Module) (c : Fin 64) : (startTables m c).ccbs = m.ccbs ∧
    (startTables m c).phys = m.phys ∧ ∀ d, (startTables m c).die d = m.die d := ⟨rfl, rfl, fun _ => rfl⟩

theorem loadFilled_ccbs : (loadFilled s ps).ccbs = (loadNew s).ccbs := by
  unfold loadFilled
  rw [(startTables_frame _ _).1, resetObjects_ccbs, (restoreGrant_frame _ _ _).1]

theorem loadFilled_phys : (loadFilled s ps).phys = (restoreGrant (loadNew s) (loadCtx s) ps).phys := by
  unfold loadFilled
  rw [(startTables_frame _ _).2.1, resetObjects_phys]

/-- Tags of granted lines are gone, granted slots invalid, granted groups and buffer objects gone. -/
theorem loadFilled_die (d : Fin 16) :
    let x := s.m.die d
    let c := loadCtx s
    let g := loadNew s
    (loadFilled s ps).die d = { x with
      tags := x.tags.filter fun e => !(grantKey g c (64 * e.1)).isSome
      groups := x.groups.filter fun e => !grantGroup g c e.1
      slots := Tbl.mapV {} id (x.slots.map fun e => (e.1, if grantSlot g c e.1 then { e.2 with valid := false } else e.2))
      bufs := x.bufs.filter fun e => !grantBuf g c e.1 } := by
  obtain ⟨hccbs, hdies⟩ := restoreGrant_frame (loadNew s) (loadCtx s) ps
  have hclear : (restoreGrant (loadNew s) (loadCtx s) ps).die d = (clearGrant (loadNew s) (loadCtx s)).die d := by
    unfold Module.die; rw [hdies]
  unfold loadFilled
  rw [(startTables_frame _ _).2.2, (resetObjects_spec _ _).2, hclear, (clearGrant_spec _ _).2]
  simp only [grantGroup_congr hccbs, grantSlot_congr hccbs, grantBuf_congr hccbs]
  rfl

theorem loadFilled_tags (d : Fin 16) {line : Nat} (h : grantKey (loadNew s) (loadCtx s) (64 * line) ≠ none) :
    Tbl.get {} ((loadFilled s ps).die d).tags line = {} := by
  rw [loadFilled_die]
  dsimp only
  rw [Tbl.get_filter_key ({} : LineTag) _ fun line => !(grantKey (loadNew s) (loadCtx s) (64 * line)).isSome, if_neg]
  simpa [Option.isSome_iff_ne_none] using h

theorem loadFilled_barrier (d : Fin 16) (k : Fin 256) (h : grantSlot (loadNew s) (loadCtx s) k.val = true) :
    ((loadFilled s ps).barrier d k).valid = false := by
  unfold Module.barrier
  rw [loadFilled_die]
  dsimp only
  rcases Tbl.get_eq_or_mem ({} : Barrier) (Tbl.mapV {} id ((s.m.die d).slots.map fun e =>
    (e.1, if grantSlot (loadNew s) (loadCtx s) e.1 then { e.2 with valid := false } else e.2))) k.val with hd | hm
  · rw [hd]
  · simp only [Tbl.mapV, List.mem_filter, List.mem_map] at hm
    obtain ⟨⟨_, ⟨e, -, rfl⟩, he⟩, -⟩ := hm
    obtain ⟨hk, hv⟩ := Prod.mk.inj he
    simp only [id_eq] at hk hv
    rw [hk, if_pos h] at hv
    exact hv ▸ rfl

theorem loadFilled_group (d : Fin 16) {g : Nat} (h : grantGroup (loadNew s) (loadCtx s) g = true) :
    (loadFilled s ps).group d g = {} := by
  unfold Module.group
  rw [loadFilled_die]
  dsimp only
  rw [Tbl.get_filter_key ({} : Group) _ fun g => !grantGroup (loadNew s) (loadCtx s) g, if_neg (by simp [h])]

theorem loadFilled_buf (d : Fin 16) {o : Nat} (h : grantBuf (loadNew s) (loadCtx s) o = true) :
    (loadFilled s ps).buf d o = {} := by
  unfold Module.buf
  rw [loadFilled_die]
  dsimp only
  rw [Tbl.get_filter_key ({} : BufObj) _ fun o => !grantBuf (loadNew s) (loadCtx s) o, if_neg (by simp [h])]

/-- The module after a load. -/
def loadDone : Module := result 0 (takeLaunches (loadPooled s ps) (loadCtx s) (loadTuples s ps))

theorem loadDone_keeps : KeepsObjects (loadFilled s ps) (loadDone s ps) :=
  (buildPools_keep _ _ _).trans ((takeLaunches_keeps _ _ _).1.trans (.of_eq rfl rfl))

theorem loadDone_ccbs : (loadDone s ps).ccbs = (loadNew s).ccbs := (loadDone_keeps s ps).ccbs.trans (loadFilled_ccbs s ps)

theorem loadDone_phys : (loadDone s ps).phys = (loadPooled s ps).phys := (takeLaunches_keeps _ _ _).2

theorem loadDone_objects (d : Fin 16) :
    (∀ line, grantKey (loadDone s ps) (loadCtx s) (64 * line) ≠ none → Tbl.get {} ((loadDone s ps).die d).tags line = {}) ∧
    (∀ k : Fin 256, grantSlot (loadDone s ps) (loadCtx s) k.val = true → ((loadDone s ps).barrier d k).valid = false) ∧
    (∀ g, grantGroup (loadDone s ps) (loadCtx s) g = true → (loadDone s ps).group d g = {}) ∧
    ∀ o, grantBuf (loadDone s ps) (loadCtx s) o = true → (loadDone s ps).buf d o = {} := by
  have hk := loadDone_keeps s ps
  have hc := loadDone_ccbs s ps
  refine ⟨fun line h => ?_, fun k h => ?_, fun g h => ?_, fun o h => ?_⟩
  · rw [hk.tags, loadFilled_tags s ps d (by rwa [grantKey_congr hc] at h)]
  · rw [hk.barrier]
    exact loadFilled_barrier s ps d k (by rwa [grantSlot_congr hc] at h)
  · rw [hk.group]
    exact loadFilled_group s ps d (by rwa [grantGroup_congr hc] at h)
  · rw [hk.buf]
    exact loadFilled_buf s ps d (by rwa [grantBuf_congr hc] at h)

/-! ### What CTXLOAD answers -/

variable {s ps}

theorem ctxload_refused (h : ctxValid s.m (loadCtx s) = true ∨ loadOk (loadNew s) (loadCtx s) = false) :
    execCtxload s = answer s 3 s.m := by
  rw [execCtxload_eq, if_pos (by simpa using h)]

theorem execCtxload_of_tests (hv : ctxValid s.m (loadCtx s) = false) (hl : loadOk (loadNew s) (loadCtx s) = true) :
    execCtxload s = match loadReads s with
      | .error .busy => .next s
      | .error _ => answer s 3 s.m
      | .ok ps => answer s 0 (takeLaunches (loadPooled s ps) (loadCtx s) (loadTuples s ps)) := by
  rw [execCtxload_eq, if_neg (by simp [hv, hl])]

theorem ctxload_waits (hv : ctxValid s.m (loadCtx s) = false) (hl : loadOk (loadNew s) (loadCtx s) = true)
    (hr : loadReads s = .error .busy) : execCtxload s = .next s := by
  rw [execCtxload_of_tests hv hl, hr]

theorem ctxload_unreadable (hv : ctxValid s.m (loadCtx s) = false) (hl : loadOk (loadNew s) (loadCtx s) = true) {e : AccStop}
    (hr : loadReads s = .error e) (he : e ≠ .busy) : execCtxload s = answer s 3 s.m := by
  rw [execCtxload_of_tests hv hl, hr]
  cases e with
  | busy => exact absurd rfl he
  | _ => rfl

theorem ctxload_done (hv : ctxValid s.m (loadCtx s) = false) (hl : loadOk (loadNew s) (loadCtx s) = true)
    (hr : loadReads s = .ok ps) : execCtxload s = .next { s with m := loadDone s ps } := by
  rw [execCtxload_of_tests hv hl, hr]
  rfl

/-- The granted bytes after a load, before the Zithers build their free lists. -/
theorem loadFilled_bytes (hl : loadOk (loadNew s) (loadCtx s) = true) (hr : loadReads s = .ok ps) :
    let g := grantKey (loadDone s ps) (loadCtx s)
    let v := (loadFilled s ps).phys
    (∀ a, g a = none → Memory.byte v a = Memory.byte s.m.phys a) ∧
    (mailW s 2 = 0 → ∀ a, g a ≠ none → Memory.byte v a = 0) ∧
    ∀ a k p, mailW s 2 ≠ 0 → Memory.wf s.m.phys = true → g a = some k → p ∈ ps → p.1 ≤ k → k < p.1 + p.2.2 →
      Memory.byte v a = Memory.byte s.m.phys (p.2.1 + (k - p.1)) := by
  have hi := loadOk_grantsInside hl
  have hg : grantKey (loadDone s ps) (loadCtx s) = grantKey (loadNew s) (loadCtx s) :=
    funext fun a => grantKey_congr (loadDone_ccbs s ps) _ a
  dsimp only
  rw [hg, loadFilled_phys]
  refine ⟨fun a ha => byte_restoreGrant_out hi ps ha, fun h0 a ha => ?_, fun a k p h0 hm ha hp h1 h2 => ?_⟩
  · rw [loadReads, if_pos h0] at hr
    cases hr
    exact byte_restoreGrant_nil ha
  · rw [loadReads, if_neg h0] at hr
    exact byte_restoreGrant hi hm (fun p hp q hq _ => saveArea_unique hr hp hq) ha hp h1 h2
end

end Sys2Proof.Machine
end

section
/-! SUPPORT. CTXUNLOAD, CCBSET, WINSET, REMAP, MIGRATE, and the obligation about the commands on contexts and memory. -/

namespace Sys2Proof.Machine

/-! ### CTXUNLOAD, CCBSET and WINSET (14 R331, 15 R357) -/

theorem ctxBusy_iff (m : Module) (c : Fin 64) : ctxBusy m c = true ↔
    (∃ e ∈ m.cores, ∃ j, e.2.job = some j ∧ j.ctx = c) ∨
      ∃ e ∈ m.chains, e.2.ctx = c ∧ (e.2.state = 1 ∨ e.2.state = 2) := by
  have job : ∀ e : Nat × Core, (e.2.job.any fun j => decide (j.ctx = c)) = true ↔ ∃ j, e.2.job = some j ∧ j.ctx = c := by
    intro e
    cases e.2.job <;> simp
  simp only [ctxBusy, Bool.or_eq_true, List.any_eq_true, job, Bool.and_eq_true, decide_eq_true_eq, beq_iff_eq]

section
variable {s : State}

/-- The commands on a resident context answer 1 without one (log 34). -/
theorem absent_context_answers (hv : ctxValid s.m (mailCtx s) = false) :
    execCtxunload s = answer s 1 s.m ∧ execCcbset s = answer s 1 s.m ∧ execWinset s = answer s 1 s.m := by
  simp [execCtxunload, execCcbset, execWinset, hv]

theorem ctxunload_busy (hv : ctxValid s.m (mailCtx s) = true) (hb : ctxBusy s.m (mailCtx s) = true) :
    execCtxunload s = answer s 3 s.m := by
  simp [execCtxunload, hv, hb]

/-- The module after an unload into the pieces of a save area. -/
def unloaded (m : Module) (c : Fin 64) (ps : List (Nat × Nat × Nat)) : Module :=
  setCcb (saveGrant m c ps) c 1 (BitVec.ofNat 64 (ccb m c 1 - 2 ^ 63))

theorem execCtxunload_idle (hv : ctxValid s.m (mailCtx s) = true) (hb : ctxBusy s.m (mailCtx s) = false) :
    execCtxunload s = match saveArea s.m (mailCtx s) .write (mailW s 2) with
      | .error .busy => .next s
      | .error _ => answer s 3 s.m
      | .ok ps => answer s 0 (unloaded s.m (mailCtx s) ps) := by
  unfold execCtxunload
  dsimp only
  rw [if_neg (by simp [hv]), if_neg (by simp [hb])]
  cases saveArea s.m (mailCtx s) .write (mailW s 2) with
  | ok ps => rfl
  | error e => cases e <;> rfl

theorem unloaded_frame (m : Module) (c : Fin 64) (ps : List (Nat × Nat × Nat)) :
    unloaded m c ps = { m with phys := (saveGrant m c ps).phys, poison := (saveGrant m c ps).poison
                               ccbs := (unloaded m c ps).ccbs } := by
  unfold unloaded setCcb saveGrant
  rfl

theorem ccb_unloaded (m : Module) (c x : Fin 64) (ps : List (Nat × Nat × Nat)) (k : Nat) :
    ccb (unloaded m c ps) x k =
      if x = c ∧ k = 1 then (BitVec.ofNat 64 (ccb m c 1 - 2 ^ 63) &&& ccbBits 1).toNat else ccb m x k := by
  rw [unloaded, ccb_setCcb, ccb_congr (m := m) (w := saveGrant m c ps) rfl]

theorem ctxValid_unloaded (m : Module) (c : Fin 64) (ps : List (Nat × Nat × Nat)) : ctxValid (unloaded m c ps) c = false := by
  rw [ctxValid, ccb_unloaded, if_pos ⟨rfl, rfl⟩, bitAt_63_cleared (ccb_lt m c 1)]

theorem idle_of_not_busy {m : Module} {c : Fin 64} (h : ¬((∃ e ∈ m.cores, ∃ j, e.2.job = some j ∧ j.ctx = c) ∨
    ∃ e ∈ m.chains, e.2.ctx = c ∧ (e.2.state = 1 ∨ e.2.state = 2))) : ctxBusy m c = false :=
  Bool.eq_false_iff.2 fun hb => h ((ctxBusy_iff m c).1 hb)

section
variable (hv : ctxValid s.m (mailCtx s) = true) (hb : ctxBusy s.m (mailCtx s) = false)
include hv hb

theorem ctxunload_waits (hr : saveArea s.m (mailCtx s) .write (mailW s 2) = .error .busy) : execCtxunload s = .next s := by
  rw [execCtxunload_idle hv hb, hr]

theorem ctxunload_unwritable {e : AccStop} (hr : saveArea s.m (mailCtx s) .write (mailW s 2) = .error e) (he : e ≠ .busy) :
    execCtxunload s = answer s 3 s.m := by
  rw [execCtxunload_idle hv hb, hr]
  cases e with
  | busy => exact absurd rfl he
  | _ => rfl

theorem ctxunload_done {ps : List (Nat × Nat × Nat)} (hr : saveArea s.m (mailCtx s) .write (mailW s 2) = .ok ps) :
    execCtxunload s = answer s 0 (unloaded s.m (mailCtx s) ps) := by
  rw [execCtxunload_idle hv hb, hr]

end

/-- Whether CCBSET may write a word (15 R357): words 2 and 3, and word 1 where it differs in the ceiling alone. -/
def ccbsetAllows (s : State) : Prop :=
  let k := fld (mailW s 1) 8 5
  k = 2 ∨ k = 3 ∨
    (k = 1 ∧ putFld (s.m.mail.w2 &&& ccbBits k).toNat 8 3 0 = putFld (ccb s.m (mailCtx s) 1) 8 3 0)

theorem mailW_2 (s : State) : BitVec.ofNat 64 (mailW s 2) = s.m.mail.w2 := by simp [mailW]

theorem ccbset_refused (hv : ctxValid s.m (mailCtx s) = true) (h : ¬ccbsetAllows s) : execCcbset s = answer s 3 s.m := by
  unfold execCcbset
  dsimp only
  rw [mailW_2, if_neg (by simp [hv])]
  exact if_neg h

theorem ccbset_writes (hv : ctxValid s.m (mailCtx s) = true) (h : ccbsetAllows s) :
    execCcbset s = answer s 0 (setCcb s.m (mailCtx s) (fld (mailW s 1) 8 5)
      (s.m.mail.w2 &&& ccbBits (fld (mailW s 1) 8 5))) := by
  unfold execCcbset
  dsimp only
  rw [mailW_2, if_neg (by simp [hv]), BitVec.ofNat_toNat, BitVec.setWidth_eq]
  exact if_pos h

theorem ccb_setCcb_defined (m : Module) (c x : Fin 64) (k j : Nat) (v : W64) :
    ccb (setCcb m c k (v &&& ccbBits k)) x j = if x = c ∧ j = k then (v &&& ccbBits k).toNat else ccb m x j := by
  rw [ccb_setCcb, BitVec.and_assoc, BitVec.and_self]

theorem execWinset_resident (hv : ctxValid s.m (mailCtx s) = true) :
    execWinset s = match storeDev s.m none none (mailCtx s) (winAddr s.m (mailCtx s) (fld (mailW s 1) 8 6))
        (Memory.bytes s.m.host (mailW s 2) 32) with
      | .ok m => answer s 0 m
      | .error .busy => .next s
      | .error _ => answer s 3 s.m := by
  unfold execWinset
  dsimp only
  rw [if_neg (by simp [hv])]
  rfl

section
variable (hv : ctxValid s.m (mailCtx s) = true)
include hv

theorem winset_stores {w : Module} (hw : storeDev s.m none none (mailCtx s) (winAddr s.m (mailCtx s) (fld (mailW s 1) 8 6))
    (Memory.bytes s.m.host (mailW s 2) 32) = .ok w) : execWinset s = answer s 0 w := by
  rw [execWinset_resident hv, hw]

theorem winset_waits (hw : storeDev s.m none none (mailCtx s) (winAddr s.m (mailCtx s) (fld (mailW s 1) 8 6))
    (Memory.bytes s.m.host (mailW s 2) 32) = .error .busy) : execWinset s = .next s := by
  rw [execWinset_resident hv, hw]

theorem winset_unwritable {e : AccStop} (hw : storeDev s.m none none (mailCtx s)
    (winAddr s.m (mailCtx s) (fld (mailW s 1) 8 6)) (Memory.bytes s.m.host (mailW s 2) 32) = .error e) (he : e ≠ .busy) :
    execWinset s = answer s 3 s.m := by
  rw [execWinset_resident hv, hw]
  cases e with
  | busy => exact absurd rfl he
  | _ => rfl

end

end

/-! ### REMAP (14 R345, 15 R368) -/

/-- A die whose lost banks have all left their interleaves. -/
def remappedDie (x : Die) : Die :=
  { x with retired := x.retired.map (fun r => { r with remapped := true }), gen := x.gen + 1 }

/-- Whether a physical address lies beyond the capacity that a die's layer has after a remap. -/
def beyondCapacity (d : Fin 16) (x : Die) (pa : Nat) : Bool :=
  match stackedAt pa with
  | some (e, k, l, o) => decide (e = d.val) && (bankAt x k l o).isNone
  | none => false

theorem bankAt_eq_none_iff {x : Die} {k l o : Nat} : bankAt x k l o = none ↔ (layerBanks x k l).length * 32768 ≤ o / 4096 := by
  unfold bankAt
  dsimp only
  split <;> simp [*]

theorem beyondCapacity_iff {d : Fin 16} {x : Die} {pa : Nat} : beyondCapacity d x pa = true ↔
    ∃ k l o, stackedAt pa = some (d.val, k, l, o) ∧ (layerBanks x k l).length * 32768 ≤ o / 4096 := by
  unfold beyondCapacity
  cases h : stackedAt pa with
  | none => simp
  | some v =>
    obtain ⟨e, k, l, o⟩ := v
    simp only [Bool.and_eq_true, decide_eq_true_eq, Option.isNone_iff_eq_none, bankAt_eq_none_iff, Option.some.injEq,
      Prod.mk.injEq]
    constructor
    · rintro ⟨rfl, hb⟩; exact ⟨k, l, o, ⟨rfl, rfl, rfl, rfl⟩, hb⟩
    · rintro ⟨k', l', o', ⟨rfl, rfl, rfl, rfl⟩, hb⟩; exact ⟨rfl, hb⟩

/-- The lines that a remap poisons: those of the units that stay but have lost their bank with its bus. -/
def busLost (d : Fin 16) (x : Die) : List Nat :=
  ((List.range 2).flatMap fun k => (List.range 16).map fun l => (k, l)).flatMap fun p =>
    lostLines x d.val p.1 p.2 (layerBanks x p.1 p.2) ((layerBanks (remappedDie x) p.1 p.2).length * 32768)

/-- The module after a remap of a die. -/
def remapped (m : Module) (d : Fin 16) : Module :=
  let x := remappedDie (m.die d)
  { m with
    phys := m.phys.filter fun e => !beyondCapacity d x e.1
    poison := busLost d (m.die d) ++ m.poison.filter fun l =>
      !beyondCapacity d x (64 * l) && !(busLost d (m.die d)).contains l }.setDie d x

theorem execRemap_eq (s : State) : execRemap s = answer s 0 (remapped s.m (Fin.ofNat 16 (mailW s 1))) := by
  unfold execRemap remapped
  rfl

theorem remapped_die (m : Module) (d : Fin 16) : (remapped m d).die d = remappedDie (m.die d) := Module.die_setDie_same ..

theorem remapped_die_other (m : Module) {d e : Fin 16} (h : e ≠ d) : (remapped m d).die e = m.die e :=
  (Module.die_setDie _ d e _).trans (if_neg h)

theorem byte_remapped (m : Module) (d : Fin 16) (a : Nat) : Memory.byte (remapped m d).phys a =
    if beyondCapacity d (remappedDie (m.die d)) a then 0 else Memory.byte m.phys a := by
  refine (Memory.byte_filter m.phys (fun a => !beyondCapacity d (remappedDie (m.die d)) a) a).trans ?_
  cases beyondCapacity d (remappedDie (m.die d)) a <;> rfl

/-- A bank that its bus has taken with it, before a remap. -/
def LostWithBus (x : Die) (k l b : Nat) : Prop :=
  ∃ r ∈ x.retired, r.remapped = false ∧ r.cause = .bus ∧ r.stack.val = k ∧ r.layer.val = l ∧ r.bank.val = b

theorem mem_lostLines {x : Die} {d k l units u j : Nat} {old : List Nat} (hu : u < units) (hold : old ≠ [])
    (hb : LostWithBus x k l (old.getD (u % old.length) 0)) (hj : j < 64) :
    (d * 0x2000000000 + k * 0x1000000000 + l * 0x100000000 + 4096 * u) / 64 + j ∈ lostLines x d k l old units := by
  obtain ⟨r, hr, h1, h2, h3, h4, h5⟩ := hb
  have hlen : u % old.length < old.length := Nat.mod_lt _ (List.length_pos_iff.2 hold)
  have hmem : old.getD (u % old.length) 0 ∈ old := by
    rw [List.getD_eq_getElem _ _ hlen]
    exact List.getElem_mem hlen
  have hlost : (x.retired.any fun r => !r.remapped && decide (r.cause = .bus) && r.stack.val == k && r.layer.val == l &&
      r.bank.val == old.getD (u % old.length) 0) = true :=
    List.any_eq_true.2 ⟨r, hr, by simp only [h1, h2, h3, h4, h5, beq_self_eq_true]; rfl⟩
  unfold lostLines
  dsimp only
  rw [if_neg (by rw [List.any_eq_true.2 ⟨_, hmem, hlost⟩]; simp)]
  simp only [List.mem_flatMap, List.mem_filter, List.mem_range, List.mem_map]
  exact ⟨u, ⟨hu, hlost⟩, j, hj, rfl⟩

/-- The units that stay but lay in a bank lost with its bus are poisoned. -/
theorem remapped_poisoned {m : Module} {d : Fin 16} {k l u b o j : Nat} (hk : k < 2) (hl : l < 16)
    (hu : u < (layerBanks (remappedDie (m.die d)) k l).length * 32768)
    (hb : bankAt (m.die d) k l (4096 * u) = some (b, o)) (lost : LostWithBus (m.die d) k l b) (hj : j < 64) :
    poisoned (remapped m d)
      (d.val * 0x2000000000 + k * 0x1000000000 + l * 0x100000000 + 4096 * u + 64 * j) = true := by
  have hline : (d.val * 0x2000000000 + k * 0x1000000000 + l * 0x100000000 + 4096 * u + 64 * j) / 64 =
      (d.val * 0x2000000000 + k * 0x1000000000 + l * 0x100000000 + 4096 * u) / 64 + j := by omega
  unfold bankAt at hb
  dsimp only at hb
  rw [Nat.mul_div_cancel_left u (by omega)] at hb
  split at hb
  · cases hb
  · next hcap =>
    obtain ⟨rfl, -⟩ := Prod.mk.inj (Option.some.inj hb)
    have hold : layerBanks (m.die d) k l ≠ [] := by rintro he; rw [he] at hcap; simp at hcap
    have hmem : _ ∈ busLost d (m.die d) := List.mem_flatMap.2 ⟨(k, l),
      List.mem_flatMap.2 ⟨k, List.mem_range.2 hk, List.mem_map.2 ⟨l, List.mem_range.2 hl, rfl⟩⟩,
      mem_lostLines (d := d.val) hu hold lost hj⟩
    rw [poisoned, hline]
    exact List.contains_iff_mem.2 (List.mem_append_left _ hmem)

/-! ### MIGRATE (11 R325; log 103) -/

/-- The nodes that a migration takes: those with a core in the cluster against which no KILL is decided. -/
def Migrates (d : Fin 16) (k : Fin 8) (n : NodeRun) : Prop :=
  n.die = d ∧ (∃ c ∈ n.cores, clusterOf c = k) ∧ n.decision ≠ .kill

theorem coresIn_isEmpty_iff (n : NodeRun) (k : Fin 8) : (coresIn n k).isEmpty = true ↔ ¬∃ c ∈ n.cores, clusterOf c = k := by
  simp [coresIn]

theorem migrateNode_skips {m : Module} {d : Fin 16} {k : Fin 8} {i : Instance} {n : NodeRun} (h : ¬Migrates d k n) :
    migrateNode m d k i n = m := by
  unfold migrateNode
  rw [if_pos]
  by_contra hc
  obtain ⟨hd, hc⟩ := not_or.1 hc
  obtain ⟨hcores, hkill⟩ := not_or.1 hc
  exact h ⟨not_not.1 hd, by simpa only [coresIn_isEmpty_iff, not_not] using hcores, hkill⟩

theorem migrateNode_takes {m : Module} {d : Fin 16} {k : Fin 8} {i : Instance} {n : NodeRun} (h : Migrates d k n)
    (hr : ∀ c ∈ n.cores, (m.core d c).region = none) :
    migrateNode m d k i n = decideNode m i.ctx i.graph n (.checkpoint (some k)) := by
  obtain ⟨hd, hc, hk⟩ := h
  have hfind : n.cores.find? (fun c => (m.core d c).region.isSome) = none :=
    List.find?_eq_none.2 fun c hc => by simp [hr c hc]
  unfold migrateNode
  rw [if_neg, hfind]
  rintro (h | h | h)
  · exact h hd
  · exact (coresIn_isEmpty_iff n k).1 h hc
  · exact hk h

theorem foldl_migrateNode_skips {d : Fin 16} {k : Fin 8} {l : List (Instance × NodeRun)} (m : Module)
    (h : ∀ v ∈ l, ¬Migrates d k v.2) : l.foldl (fun m v => migrateNode m d k v.1 v.2) m = m := by
  induction l generalizing m with
  | nil => rfl
  | cons v l ih =>
    obtain ⟨hv, hl⟩ := List.forall_mem_cons.1 h
    rw [List.foldl_cons, migrateNode_skips hv, ih m hl]

/-- A node met on the way through all live graphs belongs to the graph it is met with. -/
theorem mem_graphNodes {is : List Instance} {v : Instance × NodeRun}
    (h : v ∈ is.flatMap fun i => i.nodes.map fun n => (i, n)) : v.1 ∈ is ∧ v.2 ∈ v.1.nodes := by
  simp only [List.mem_flatMap, List.mem_map] at h
  obtain ⟨i, hi, n, hn, rfl⟩ := h
  exact ⟨hi, hn⟩

theorem migrateCluster_of_none {m : Module} {d : Fin 16} {k : Fin 8} (h : ∀ i ∈ m.graphs, ∀ n ∈ i.nodes, ¬Migrates d k n) :
    migrateCluster m d k = m :=
  foldl_migrateNode_skips m fun v hv => h v.1 (mem_graphNodes hv).1 v.2 (mem_graphNodes hv).2

/-- One node alone to be taken: the fold over all nodes passes the others by. -/
theorem migrateCluster_of_one {m : Module} {d : Fin 16} {k : Fin 8} {i : Instance} {n : NodeRun} {l r : List Instance}
    {p q : List NodeRun} (hg : m.graphs = l ++ i :: r) (hi : i.nodes = p ++ n :: q) (hn : Migrates d k n)
    (hothers : ∀ j ∈ l ++ r, ∀ v ∈ j.nodes, ¬Migrates d k v) (hnodes : ∀ v ∈ p ++ q, ¬Migrates d k v)
    (hr : ∀ c ∈ n.cores, (m.core d c).region = none) :
    migrateCluster m d k = decideNode m i.ctx i.graph n (.checkpoint (some k)) := by
  have graphs : ∀ is : List Instance, (∀ j ∈ is, j ∈ l ++ r) → ∀ m : Module,
      (is.flatMap fun i => i.nodes.map fun n => (i, n)).foldl (fun m v => migrateNode m d k v.1 v.2) m = m :=
    fun is his m => foldl_migrateNode_skips m fun v hv =>
      hothers v.1 (his _ (mem_graphNodes hv).1) v.2 (mem_graphNodes hv).2
  have nodes : ∀ ns : List NodeRun, (∀ v ∈ ns, v ∈ p ++ q) → ∀ m : Module,
      (ns.map fun n => (i, n)).foldl (fun m v => migrateNode m d k v.1 v.2) m = m := by
    refine fun ns hns m => foldl_migrateNode_skips m fun v hv => ?_
    obtain ⟨n, hn, rfl⟩ := List.mem_map.1 hv
    exact hnodes n (hns n hn)
  unfold migrateCluster
  rw [hg, List.flatMap_append, List.flatMap_cons, hi, List.map_append, List.map_cons, List.foldl_append, List.foldl_append,
    List.foldl_append, List.foldl_cons, graphs l (fun j hj => List.mem_append_left _ hj),
    nodes p (fun v hv => List.mem_append_left _ hv), nodes q (fun v hv => List.mem_append_right _ hv),
    graphs r (fun j hj => List.mem_append_right _ hj), migrateNode_takes hn hr]

/-! ### The obligation -/

/-- Settles O52: the tests of a load, the bits of the block's words, the pieces of a save area and the empty pools by their
own lemmas; then each command by what it answers. The order of a save area and an area out of reach (log 18), the answer
without a context (log 34), the stack areas (log 70) and a migration that passes a decided KILL by (log 103) are the
model's choices. -/
theorem contextsLoadAndMemoryRemaps : Obligations.ContextsLoadAndMemoryRemaps := by
  unfold Obligations.ContextsLoadAndMemoryRemaps
  refine ⟨fun m c h => ?_, fun k hk => ?_, fun m c k area ps h i hi => ?_, fun m c z => buildPool_phys_of_empty, fun s => ?_,
    fun s => ?_, fun s => ?_, fun s => ?_⟩
  -- the tests of a load (14 R331)
  · obtain ⟨hfit, hmeet, ht, hp, hin⟩ := loadOk_tests h
    exact ⟨grantsFit_bounds hfit, fun x hx hv => grants_apart (hmeet x hx hv), ht, hp,
      fun w e hw he hv => inboundFit_slot hin hw he hv⟩
  -- the defined bits of the block's words (14 R330)
  · interval_cases k <;> rfl
  -- the pieces of a save area (log 18)
  · obtain ⟨p, hp, h1, h2, h3⟩ := saveArea_covers h hi
    obtain ⟨-, r, -, -, -, -, ht, hr⟩ := saveArea_mem h hp
    exact ⟨p, hp, h1, h2, h3, r, ht, hr⟩
  -- CTXLOAD
  · refine ⟨fun h => ctxload_refused h, fun hv hl hr => ctxload_waits hv hl hr, fun hv hl e hr he => ctxload_unreadable hv hl hr he,
      fun hv hl ps hr => ⟨loadFilled s ps, loadDone s ps, ctxload_done hv hl hr, loadDone_phys s ps, rfl, rfl, ?_, ?_, ?_, ?_⟩⟩
    · exact (ctxValid_congr (loadDone_ccbs s ps) _).trans (ctxValid_loadNew s)
    · exact fun k hk => (ccb_congr (loadDone_ccbs s ps) _ k).trans (ccb_loadNew s k hk)
    · exact fun x k hx => (ccb_congr (loadDone_ccbs s ps) x k).trans (ccb_loadNew_other s x k hx)
    · obtain ⟨h1, h2, h3⟩ := loadFilled_bytes hl hr
      exact ⟨h1, h2, h3, loadDone_objects s ps⟩
  -- CTXUNLOAD, CCBSET and WINSET
  · refine ⟨absent_context_answers, fun hv hb => ctxunload_busy hv ((ctxBusy_iff _ _).2 hb), fun hv hb hr => ?_,
      fun hv hb e hr he => ?_, fun hv hb ps hr => ?_, fun hv => ⟨fun h => ccbset_refused hv h, fun h => ?_, fun w hw => ?_,
        fun hw => ?_, fun e hw he => ?_⟩⟩
    · exact ctxunload_waits hv (idle_of_not_busy hb) hr
    · exact ctxunload_unwritable hv (idle_of_not_busy hb) hr he
    · refine ⟨result 0 (unloaded s.m (mailCtx s) ps), ctxunload_done hv (idle_of_not_busy hb) hr, ?_, ctxValid_unloaded _ _ _,
        fun x k => ccb_unloaded _ _ x ps k, fun hm => ⟨fun a => byte_saveGrant_out, fun apart a k p ha hp h1 h2 => ?_⟩⟩
      · rw [unloaded_frame]; rfl
      · exact byte_saveGrant hm (fun p hp q hq _ => saveArea_unique hr hp hq) apart ha hp h1 h2
    · exact ⟨_, ccbset_writes hv h, rfl, fun x j => ccb_setCcb_defined _ _ x _ j _⟩
    · exact winset_stores hv hw
    · exact winset_waits hv hw
    · exact winset_unwritable hv hw he
  -- REMAP
  · let d : Fin 16 := Fin.ofNat 16 (mailW s 1)
    have hdie : (result 0 (remapped s.m d)).die d = remappedDie (s.m.die d) := remapped_die s.m d
    refine ⟨result 0 (remapped s.m d), execRemap_eq s, rfl, fun e he => remapped_die_other s.m he, hdie, fun a => ?_,
      fun k l u b o j hk hl hu hb lost hj => ?_⟩
    · rw [hdie]
      exact ⟨fun h => (byte_remapped s.m d a).trans (if_pos (beyondCapacity_iff.2 h)),
        fun h => (byte_remapped s.m d a).trans (if_neg fun hb => h (beyondCapacity_iff.1 hb))⟩
    · rw [hdie] at hu
      exact remapped_poisoned hk hl hu hb lost hj
  -- MIGRATE
  · refine ⟨_, rfl, migrateCluster_of_none, fun i n l r p q hg hi hn hothers hnodes hr => ?_⟩
    exact migrateCluster_of_one hg hi hn hothers hnodes hr

end Sys2Proof.Machine
end

section
/-! SUPPORT. The canonical form of the memories of a module, carried by states and by the answers of operations. -/

namespace Sys2Proof.Machine

def Core.Canon (c : Core) : Prop := Memory.wf c.unitMem = true

def NodeRun.Canon (n : NodeRun) : Prop := ∀ c ∈ n.saved, c.Canon

def Instance.Canon (i : Instance) : Prop := ∀ n ∈ i.nodes, n.Canon

/-- Every memory of a module, those of its checkpointed jobs included, is in canonical form. -/
def Module.Canon (m : Module) : Prop :=
  Memory.wf m.phys = true ∧ Memory.wf m.host = true ∧ (∀ d c, (m.core d c).Canon) ∧ ∀ i ∈ m.graphs, i.Canon

/-- The module of a state, and the one that its bundle in progress reads. -/
def State.Canon (s : State) : Prop := s.m.Canon ∧ ∀ m, s.pre = some m → m.Canon

/-- What an operation answers when it succeeds, and when it stops. -/
def Gives {ε α : Type} (E : ε → Prop) (P : α → Prop) : Except ε α → Prop
  | .ok a => P a
  | .error e => E e

def Finds {α : Type} (P : α → Prop) : Option α → Prop
  | some a => P a
  | none => True

def Stop.Canon : Stop → Prop
  | .wait m => m.Canon
  | _ => True

def ChStop.Canon : ChStop → Prop
  | .after m _ e => m.Canon ∧ e.Canon
  | _ => True

def OutCanon : Out → Prop
  | .next s => s.Canon
  | _ => True

/-- A step that keeps the memories canonical. -/
def KeepsCanon (f : State → Out) : Prop := ∀ s, s.Canon → OutCanon (f s)

theorem Gives.ok {ε α : Type} {E : ε → Prop} {P : α → Prop} {r : Except ε α} {a : α} (h : Gives E P r) (e : r = .ok a) : P a := by
  subst e; exact h

theorem Gives.error {ε α : Type} {E : ε → Prop} {P : α → Prop} {r : Except ε α} {x : ε} (h : Gives E P r) (e : r = .error x) :
    E x := by
  subst e; exact h

/-- `Gives.ok` and `Gives.error` where the equation says which answer is meant. -/
theorem Gives.at_ok {ε α : Type} {E : ε → Prop} {P : α → Prop} {r : Except ε α} {a : α} (e : r = .ok a) (h : Gives E P r) :
    P a := h.ok e

theorem Gives.at_error {ε α : Type} {E : ε → Prop} {P : α → Prop} {r : Except ε α} {x : ε} (e : r = .error x)
    (h : Gives E P r) : E x := h.error e

theorem Finds.at_some {α : Type} {P : α → Prop} {r : Option α} {a : α} (e : r = Option.some a) (h : Finds P r) : P a := by
  subst e; exact h

theorem Finds.some {α : Type} {P : α → Prop} {r : Option α} {a : α} (h : Finds P r) (e : r = Option.some a) : P a := by
  subst e; exact h

theorem Gives.bind {ε α β : Type} {E : ε → Prop} {P : α → Prop} {Q : β → Prop} {r : Except ε α} {f : α → Except ε β}
    (h : Gives E P r) (hf : ∀ a, P a → Gives E Q (f a)) : Gives E Q (r >>= f) := by
  cases r with
  | error e => exact h
  | ok a => exact hf a h

theorem Gives.map {ε α β : Type} {E : ε → Prop} {P : α → Prop} {Q : β → Prop} {r : Except ε α} {f : α → β}
    (h : Gives E P r) (hf : ∀ a, P a → Q (f a)) : Gives E Q (r.map f) := by
  cases r with
  | error e => exact h
  | ok a => exact hf a h

theorem Finds.map {α β : Type} {P : α → Prop} {Q : β → Prop} {r : Option α} {f : α → β}
    (h : Finds P r) (hf : ∀ a, P a → Q (f a)) : Finds Q (r.map f) := by
  cases r with
  | none => trivial
  | some a => exact hf a h

theorem Finds.bind {α β : Type} {P : α → Prop} {Q : β → Prop} {r : Option α} {f : α → Option β}
    (h : Finds P r) (hf : ∀ a, P a → Finds Q (f a)) : Finds Q (r.bind f) := by
  cases r with
  | none => trivial
  | some a => exact hf a h

/-- Where neither an answer nor a stop holds a module there is nothing to show. -/
theorem gives_true {ε α : Type} {r : Except ε α} : Gives (fun _ => True) (fun _ => True) r := by
  cases r <;> trivial

theorem finds_true {α : Type} {r : Option α} : Finds (fun _ => True) r := by
  cases r <;> trivial

theorem Canon.snd {α β : Type} {P : β → Prop} {r : α × β} {a : α} {b : β} (h : P r.2) (e : r = (a, b)) : P b := by
  subst e; exact h

theorem Canon.fst {α β : Type} {P : α → Prop} {r : α × β} {a : α} {b : β} (h : P r.1) (e : r = (a, b)) : P a := by
  subst e; exact h

/-- A property that every step of a list keeps is kept by the whole list. -/
theorem foldl_keeps {α β : Type} {P : β → Prop} {f : β → α → β} {l : List α} {b : β} (hf : ∀ b, P b → ∀ x, P (f b x))
    (h : P b) : P (l.foldl f b) := by
  induction l generalizing b with
  | nil => exact h
  | cons x l ih => exact ih (hf b h x)

/-- The same of a list of steps each of which may stop. -/
theorem foldlM_keeps {ε α β : Type} {E : ε → Prop} {P : β → Prop} {f : β → α → Except ε β} {l : List α} {b : β}
    (hf : ∀ b, P b → ∀ x, Gives E P (f b x)) (h : P b) : Gives E P (l.foldlM f b) := by
  induction l generalizing b with
  | nil => exact h
  | cons x l ih => exact (hf b h x).bind fun _ h => ih h

theorem forM_keeps {ε α : Type} {E : ε → Prop} {f : α → Except ε PUnit} {l : List α}
    (hf : ∀ x, Gives E (fun _ => True) (f x)) : Gives E (fun _ => True) (l.forM f) := by
  induction l with
  | nil => trivial
  | cons x l ih => exact (hf x).bind fun _ _ => ih

theorem mapM_keeps {ε α β : Type} {E : ε → Prop} {f : α → Except ε β} {l : List α}
    (hf : ∀ x, Gives E (fun _ => True) (f x)) : Gives E (fun _ => True) (l.mapM f) := by
  induction l with
  | nil => trivial
  | cons x l ih =>
    rw [List.mapM_cons]
    exact (hf x).bind fun _ _ => ih.bind fun _ _ => trivial

theorem if_keeps {α : Type} {P : α → Prop} {c : Prop} [Decidable c] {a b : α} (ha : P a) (hb : P b) : P (if c then a else b) :=
  iteInduction (fun _ => ha) fun _ => hb

/-- The branches of which one builds on the other. -/
theorem then_keeps {α : Type} {P : α → Prop} {c : Prop} [Decidable c] {a b : α} (hb : P b) (ha : P b → P a) :
    P (if c then a else b) := if_keeps (ha hb) hb

theorem else_keeps {α : Type} {P : α → Prop} {c : Prop} [Decidable c] {a b : α} (ha : P a) (hb : P a → P b) :
    P (if c then a else b) := if_keeps ha (hb ha)

theorem getD_keeps {α : Type} {P : α → Prop} {o : Option α} {a : α} (ho : Finds P o) (ha : P a) : P (o.getD a) := by
  cases o with
  | none => exact ha
  | some b => exact ho

theorem findSome_keeps {α β : Type} {P : β → Prop} {f : α → Option β} {l : List α} (hf : ∀ x, Finds P (f x)) :
    Finds P (l.findSome? f) := by
  cases e : l.findSome? f with
  | none => trivial
  | some b =>
    obtain ⟨x, -, hx⟩ := List.exists_of_findSome?_eq_some e
    exact (hf x).some hx

/-! ### The parts of a module -/

variable {m : Module}

theorem Core.canon_default : Core.Canon {} := rfl

theorem core_canon {d : Fin 16} {c : Fin 128} (h : m.Canon) : (m.core d c).Canon := h.2.2.1 d c

theorem Module.Canon.withGraphs {g : List Instance} (h : m.Canon) (hg : ∀ i ∈ g, i.Canon) : { m with graphs := g }.Canon :=
  ⟨h.1, h.2.1, h.2.2.1, hg⟩

theorem Module.Canon.withPhys {p : Memory} (h : m.Canon) (hp : Memory.wf p = true) : { m with phys := p }.Canon :=
  ⟨hp, h.2⟩

theorem Module.Canon.withHost {p : Memory} (h : m.Canon) (hp : Memory.wf p = true) : { m with host := p }.Canon :=
  ⟨h.1, hp, h.2.2⟩

theorem setCore_canon {d : Fin 16} {c : Fin 128} {x : Core} (h : m.Canon) (hx : x.Canon) : (m.setCore d c x).Canon := by
  refine ⟨h.1, h.2.1, fun e k => ?_, h.2.2.2⟩
  rw [Module.core_setCore]
  split
  · exact hx
  · exact core_canon h

theorem modCore_canon {d : Fin 16} {c : Fin 128} {f : Core → Core} (h : m.Canon) (hf : ∀ x, x.Canon → (f x).Canon) :
    (m.modCore d c f).Canon := setCore_canon h (hf _ (core_canon h))

theorem setStream_canon {c : Core} {n : StreamName} {x : Stream} (h : c.Canon) : (c.setStream n x).Canon := by
  unfold Core.Canon
  rw [Core.setStream_unitMem]
  exact h

theorem setStrm_canon {w : Who} {x : Stream} (h : m.Canon) : (m.setStrm w x).Canon :=
  modCore_canon h fun _ => setStream_canon

theorem modStrm_canon {w : Who} {f : Stream → Stream} (h : m.Canon) : (m.modStrm w f).Canon := setStrm_canon h

theorem modInst_canon {c : Fin 64} {g : DevAddr} {f : Instance → Instance} (h : m.Canon)
    (hf : ∀ i, i.Canon → (f i).Canon) : (modInst m c g f).Canon := by
  refine h.withGraphs fun i hi => ?_
  obtain ⟨j, hj, rfl⟩ := List.mem_map.1 hi
  split
  · exact hf j (h.2.2.2 j hj)
  · exact h.2.2.2 j hj

theorem modNode_canon {c : Fin 64} {g : DevAddr} {n : BitVec 16} {f : NodeRun → NodeRun} (h : m.Canon)
    (hf : ∀ n, n.Canon → (f n).Canon) : (modNode m c g n f).Canon := by
  refine modInst_canon h fun i hi x hx => ?_
  obtain ⟨y, hy, rfl⟩ := List.mem_map.1 hx
  split
  · exact hf y (hi y hy)
  · exact hi y hy

theorem Instance.Canon.filter {i : Instance} {p : NodeRun → Bool} (h : i.Canon) : { i with nodes := i.nodes.filter p }.Canon :=
  fun n hn => h n (List.mem_filter.1 hn).1

theorem Instance.canon_of_nil {i : Instance} (e : i.nodes = []) : i.Canon := fun _ hn => nomatch e ▸ hn

theorem NodeRun.canon_of_nil {n : NodeRun} (e : n.saved = []) : n.Canon := fun _ hc => nomatch e ▸ hc

theorem Instance.Canon.snoc {i : Instance} {n : NodeRun} (h : i.Canon) (hn : n.Canon) :
    { i with nodes := i.nodes ++ [n] }.Canon := by
  intro x hx
  rcases List.mem_append.1 hx with hx | hx
  · exact h x hx
  · exact List.mem_singleton.1 hx ▸ hn

theorem Module.Canon.filterGraphs {p : Instance → Bool} (h : m.Canon) : { m with graphs := m.graphs.filter p }.Canon :=
  h.withGraphs fun i hi => h.2.2.2 i (List.mem_filter.1 hi).1

theorem Module.Canon.addGraph {i : Instance} (h : m.Canon) (hi : i.Canon) : { m with graphs := m.graphs ++ [i] }.Canon := by
  refine h.withGraphs fun x hx => ?_
  rcases List.mem_append.1 hx with hx | hx
  · exact h.2.2.2 x hx
  · exact List.mem_singleton.1 hx ▸ hi

/-- An update of all nodes of all live graphs. -/
theorem mapNodes_canon {f : NodeRun → NodeRun} (h : m.Canon) (hf : ∀ n, n.Canon → (f n).Canon) :
    ({ m with graphs := m.graphs.map fun i => { i with nodes := i.nodes.map f } } : Module).Canon := by
  refine h.withGraphs fun i hi n hn => ?_
  obtain ⟨j, hj, rfl⟩ := List.mem_map.1 hi
  obtain ⟨x, hx, rfl⟩ := List.mem_map.1 hn
  exact hf x (h.2.2.2 j hj x hx)

/-- An update of the cores that a node has saved. -/
theorem mapSaved_canon {n : NodeRun} {f : Core → Core} (h : n.Canon) (hf : ∀ c, c.Canon → (f c).Canon) :
    { n with saved := n.saved.map f }.Canon := by
  intro c hc
  obtain ⟨k, hk, rfl⟩ := List.mem_map.1 hc
  exact hf k (h k hk)

theorem findInst_canon {c : Fin 64} {g : DevAddr} (h : m.Canon) : Finds Instance.Canon (findInst m c g) := by
  cases e : findInst m c g with
  | none => trivial
  | some i => exact h.2.2.2 i (List.mem_of_find?_eq_some e)

theorem findNode_canon {c : Fin 64} {g : DevAddr} {n : BitVec 16} (h : m.Canon) : Finds NodeRun.Canon (findNode m c g n) := by
  refine (findInst_canon h).bind fun i hi => ?_
  cases e : i.nodes.find? fun x => decide (x.node = n) with
  | none => trivial
  | some x => exact hi x (List.mem_of_find?_eq_some e)

theorem src_canon {s : State} (h : s.Canon) : s.src.Canon := by
  unfold State.src
  cases e : s.pre with
  | none => exact h.1
  | some m => exact h.2 m e

theorem State.Canon.withM {s : State} (h : s.Canon) (hm : m.Canon) : { s with m := m }.Canon := ⟨hm, h.2⟩

theorem State.canon_some {s : State} {m : Module} (h : s.m.Canon) (hm : m.Canon) (e : s.pre = some m) : s.Canon :=
  ⟨h, fun _ h => Option.some.inj (e ▸ h) ▸ hm⟩

theorem writeLoc_canon {l : Loc} {bs : List Byte} (h : m.Canon) : (writeLoc m l bs).Canon := by
  obtain ⟨hp, hh, hu⟩ := writeLoc_memWf (m := m) l bs ⟨h.1, h.2.1, h.2.2.1⟩
  refine ⟨hp, hh, hu, ?_⟩
  unfold writeLoc
  split <;> dsimp only <;> split <;> exact h.2.2.2

end Sys2Proof.Machine
end

section
/-! SUPPORT. Every function of the model keeps the memories canonical, in the order of the model's files; what a function
answers when it stops is canonical too. -/

namespace Sys2Proof.Machine

variable {m : Module} {s : State} {α : Type} {P : α → Prop}

/-! ### The parts of a module -/

theorem setDie_canon {d x} (h : m.Canon) : (Module.setDie m d x).Canon := h

theorem modDie_canon {d f} (h : m.Canon) : (Module.modDie m d f).Canon := setDie_canon h

theorem setCluster_canon {d k x} (h : m.Canon) : (Module.setCluster m d k x).Canon := h

theorem modCluster_canon {d k f} (h : m.Canon) : (Module.modCluster m d k f).Canon := setCluster_canon h

theorem setRouter_canon {r x} (h : m.Canon) : (Module.setRouter m r x).Canon := by
  unfold Module.setRouter
  split
  · exact modCluster_canon h
  · exact modDie_canon h

theorem modRouter_canon {r f} (h : m.Canon) : (Module.modRouter m r f).Canon := setRouter_canon h

theorem setZither_canon {z x} (h : m.Canon) : (Module.setZither m z x).Canon := h

theorem setPort_canon {p x} (h : m.Canon) : (Module.setPort m p x).Canon := h

theorem setCtx_canon {c x} (h : m.Canon) : (Module.setCtx m c x).Canon := h

theorem modCtx_canon {c f} (h : m.Canon) : (Module.modCtx m c f).Canon := setCtx_canon h

theorem setChain_canon {i x} (h : m.Canon) : (Module.setChain m i x).Canon := h

theorem modChain_canon {i f} (h : m.Canon) : (Module.modChain m i f).Canon := setChain_canon h

theorem setBarrier_canon {d s b} (h : m.Canon) : (Module.setBarrier m d s b).Canon := modDie_canon h

theorem setGroup_canon {d g x} (h : m.Canon) : (Module.setGroup m d g x).Canon := modDie_canon h

theorem setBuf_canon {d o x} (h : m.Canon) : (Module.setBuf m d o x).Canon := modDie_canon h

theorem setSlice_canon {d k x} (h : m.Canon) : (Module.setSlice m d k x).Canon := modDie_canon h

theorem stateSrcCore_canon (h : s.Canon) : (State.srcCore s).Canon := core_canon (src_canon h)

theorem stateCore_canon (h : s.Canon) : (State.core s).Canon := core_canon h.1

theorem stateModCore_canon {f : Core → Core} (h : s.Canon) (hf : ∀ x, x.Canon → (f x).Canon) :
    (State.modCore s f).Canon := ⟨modCore_canon h.1 fun _ h => hf _ h, h.2⟩

theorem stateModStrm_canon {f} (h : s.Canon) : (State.modStrm s f).Canon := ⟨modStrm_canon h.1, h.2⟩

theorem stateModM_canon {f : Module → Module} (h : s.Canon) (hf : ∀ m, m.Canon → (f m).Canon) :
    (State.modM s f).Canon := ⟨hf _ h.1, h.2⟩

theorem setCcb_canon {c k v} (h : m.Canon) : (setCcb m c k v).Canon := h

theorem nextFresh_canon (h : m.Canon) : (Module.nextFresh m).2.Canon := h

theorem nextTicket_canon (h : m.Canon) : (Module.nextTicket m).2.Canon := h

/-! ### Clocks and the race tracker -/

theorem afterRelease_canon {d c} (h : m.Canon) : (afterRelease m d c).Canon := modCore_canon h fun _ h => h

theorem acquire_canon {d c k} (h : m.Canon) : (acquire m d c k).Canon := modCore_canon h fun _ h => h

theorem setView_canon {d c s u} (h : m.Canon) : (setView m d c s u).Canon := modCore_canon h fun _ h => h

theorem trackedAccess_canon {p line write} (h : m.Canon) :
    Gives (fun _ => True) Module.Canon (trackedAccess m p line write) := by
  unfold trackedAccess
  dsimp only
  split
  · trivial
  · exact if_keeps trivial (if_keeps (modCtx_canon (modDie_canon h)) (modDie_canon h))

theorem trackedAll_canon {p write} {ls : List Nat} (h : m.Canon) :
    Gives (fun _ => True) Module.Canon (trackedAll m p write ls) := by
  induction ls generalizing m with
  | nil => exact h
  | cons l ls ih =>
    unfold trackedAll
    split
    · trivial
    · next e => exact ih ((trackedAccess_canon h).ok e)

/-! ### Translation -/

theorem hold_canon {u} (h : m.Canon) : (hold m u).Canon := h

theorem translate_canon {p : Option XPlace} {c k addr} (h : m.Canon) :
    Gives (fun _ => True) (fun r => r.2.Canon) (translate m p c k addr) := by
  unfold translate
  split
  · split
    · trivial
    · exact h
  · split
    · trivial
    · split
      · trivial
      · dsimp only [Gives]
        split
        · exact hold_canon h
        · exact h

theorem dropHeld_canon {c lo hi} (h : m.Canon) : (dropHeld m c lo hi).Canon := h

theorem underTables_canon {ε α : Type} {E : ε → Prop} {c} {old : Option Memory}
    {f : Module → Except ε (α × Module)} (h : m.Canon)
    (hf : ∀ m, m.Canon → Gives E (fun r => r.2.Canon) (f m)) :
    Gives E (fun r => r.2.Canon) (underTables m c old f) := by
  unfold underTables
  split
  · exact hf m h
  · next t =>
    have hf := hf { m.modCtx c fun x => { x with tables := t } with held := [] } h
    dsimp only
    split
    · next e => exact hf.error e
    · next e =>
      have hw := hf.ok e
      exact hw

theorem retireLine_canon {d f line t} (h : m.Canon) : (retireLine m d f line t).Canon := by
  unfold retireLine
  refine if_keeps h ?_
  dsimp only
  split
  · exact modCtx_canon (modDie_canon h)
  · exact modDie_canon h

theorem retireTags_canon {d f} (h : m.Canon) : (retireTags m d f).Canon :=
  foldl_keeps (fun _ h _ => retireLine_canon h) h

/-! ### Accesses of locations -/

theorem trackLocs_canon {p : Option Actor} {write addr ls} (h : m.Canon) :
    Gives (fun _ => True) Module.Canon (trackLocs m p write addr ls) := by
  unfold trackLocs
  split
  · exact h
  · split
    · next e => exact (trackedAll_canon h).ok e
    · trivial
    · trivial

theorem writeLocs_canon {ls : List (Loc × Nat)} {bs} (h : m.Canon) : (writeLocs m ls bs).Canon := by
  induction ls generalizing m bs with
  | nil => exact h
  | cons l ls ih => exact ih (writeLoc_canon h)

theorem loadLocs_canon {p : Option Actor} {addr ls} (h : m.Canon) :
    Gives (fun _ => True) (fun r => r.2.Canon) (loadLocs m p addr ls) := by
  unfold loadLocs
  refine if_keeps trivial ?_
  split
  · trivial
  · split
    · trivial
    · next e1 =>
        have h2 := (trackLocs_canon h).ok e1
        exact h2

theorem storeLocs_canon {p : Option Actor} {addr ls bs} (h : m.Canon) :
    Gives (fun _ => True) Module.Canon (storeLocs m p addr ls bs) := by
  unfold storeLocs
  refine if_keeps trivial ?_
  split
  · trivial
  · next e => exact writeLocs_canon ((trackLocs_canon h).ok e)

theorem trackEach_canon {p addr} {ls : List (Loc × Nat)} {n} (h : m.Canon) :
    Gives (fun r => r.2.1.Canon) Module.Canon (trackEach p addr ls n m) := by
  induction ls generalizing m n with
  | nil => exact h
  | cons l ls ih =>
    unfold trackEach
    split
    · exact h
    · next e => exact ih ((trackLocs_canon h).ok e)

theorem loadEach_canon {p addr ls} (h : m.Canon) :
    Gives (fun r => r.2.1.Canon) (fun r => r.2.Canon) (loadEach m p addr ls) := by
  unfold loadEach
  refine if_keeps h ?_
  split
  · exact h
  · split
    · next e => exact (trackEach_canon h).error e
    · next e3 =>
        have h4 := (trackEach_canon h).ok e3
        exact h4

theorem storeEach_canon {p addr} {ls : List (Loc × Nat)} {bs n} (h : m.Canon) :
    Gives (fun r => r.2.1.Canon) Module.Canon (storeEach p addr ls bs n m) := by
  induction ls generalizing m bs n with
  | nil => exact h
  | cons l ls ih =>
    unfold storeEach
    refine if_keeps h ?_
    split
    · exact h
    · next e => exact ih (writeLoc_canon ((trackLocs_canon h).ok e))

theorem loadLocal_canon {p : Option Actor} {ctx d} {core : Option (Fin 128)} {a n} (h : m.Canon) :
    Gives (fun _ => True) (fun r => r.2.Canon) (loadLocal m p ctx d core a n) := by
  unfold loadLocal
  split
  · trivial
  · exact loadLocs_canon h

theorem storeLocal_canon {p : Option Actor} {ctx d} {core : Option (Fin 128)} {a bs} (h : m.Canon) :
    Gives (fun _ => True) Module.Canon (storeLocal m p ctx d core a bs) := by
  unfold storeLocal
  split
  · trivial
  · exact storeLocs_canon h

theorem devLocs_canon {pl ctx k} {ps : List (Nat × Nat)} (h : m.Canon) :
    Gives (fun _ => True) (fun r => r.2.Canon) (devLocs m pl ctx k ps) := by
  induction ps generalizing m with
  | nil => exact h
  | cons p ps ih =>
    unfold devLocs
    split
    · trivial
    · next e1 =>
        have h2 := (translate_canon h).ok e1
        split
        · trivial
        · next e3 =>
            have h4 := (ih h2).ok e3
            exact h4

theorem loadDev_canon {p : Option Actor} {pl : Option XPlace} {ctx k a n} (h : m.Canon) :
    Gives (fun _ => True) (fun r => r.2.Canon) (loadDev m p pl ctx k a n) := by
  unfold loadDev
  split
  · trivial
  · next e => exact loadLocs_canon ((devLocs_canon h).ok e)

theorem storeDev_canon {p : Option Actor} {pl : Option XPlace} {ctx a bs} (h : m.Canon) :
    Gives (fun _ => True) Module.Canon (storeDev m p pl ctx a bs) := by
  unfold storeDev
  split
  · trivial
  · next e => exact storeLocs_canon ((devLocs_canon h).ok e)

/-! ### Operations that many share -/

theorem mapStreams_canon {f} (h : m.Canon) : (Module.mapStreams m f).Canon :=
  foldl_keeps (fun _ h2 _ => modCore_canon h2 fun _ h => h) h

theorem sendEvent_canon {die : Option (Fin 16)} {subject code d2 d3} (h : m.Canon) :
    (sendEvent m die subject code d2 d3).Canon := by
  unfold sendEvent
  dsimp only
  split
  · exact modDie_canon h
  · exact if_keeps (modDie_canon h) (h.withHost (Memory.wf_write _ _ _ h.2.1))

theorem countRetries_canon {d n} (h : m.Canon) : (countRetries m d n).Canon := modDie_canon h

theorem pushAlog_canon {kind pa sym} (h : m.Canon) : (pushAlog m kind pa sym).Canon := modDie_canon h

theorem deposit_canon {d img clk} (h : m.Canon) : Finds Module.Canon (deposit m d img clk) := by
  unfold deposit
  dsimp only
  split
  · exact modDie_canon h
  · refine if_keeps (foldl_keeps (fun _ h _ => modStrm_canon h) (setSlice_canon h)) ?_
    refine if_keeps (foldl_keeps (fun _ h _ => modStrm_canon h) (setSlice_canon (nextTicket_canon h))) ?_
    split
    · trivial
    · refine if_keeps trivial ?_
      exact foldl_keeps (fun _ h _ => modStrm_canon h) (modCtx_canon (setSlice_canon (nextTicket_canon h)))

theorem removeTuple_canon {d t} (h : m.Canon) : (removeTuple m d t).Canon := by
  unfold removeTuple
  refine if_keeps ?_ (setSlice_canon h)
  split
  · exact modCtx_canon (setSlice_canon h)
  · exact setSlice_canon h

theorem withdraw_canon {w} (h : m.Canon) : (withdraw m w).Canon := by
  unfold withdraw
  split
  · exact setSlice_canon h
  · exact h

theorem depositReport_canon {r} (h : m.Canon) : (depositReport m r).Canon := by
  unfold depositReport
  dsimp only
  split
  · next e => exact (deposit_canon h).some e
  · exact modDie_canon h

theorem reportTuple_canon {c launch node f5} (h : m.Canon) : (reportTuple m c launch node f5).Canon := by
  unfold reportTuple
  dsimp only
  split
  · exact depositReport_canon h
  · exact h

theorem purgePools_canon {c g} (h : m.Canon) : (purgePools m c g).Canon :=
  foldl_keeps (fun _ h _ => modCtx_canon (modDie_canon h)) h

theorem reportInst_canon {c g node f5} (h : m.Canon) : (reportInst m c g node f5).Canon :=
  modInst_canon (purgePools_canon (reportTuple_canon h)) fun _ h => h.filter

theorem settleSlot_canon {d s b} (h : m.Canon) : (settleSlot m d s b).Canon :=
  mapStreams_canon (setBarrier_canon h)

theorem deliverTo_canon {src d s u n drop} (h : m.Canon) : (deliverTo m src d s u n drop).Canon :=
  if_keeps (settleSlot_canon h) (modDie_canon h)

theorem settleGroup_canon {d g x} (h : m.Canon) : (settleGroup m d g x).Canon := by
  unfold settleGroup
  refine if_keeps (setGroup_canon h)
      (mapNodes_canon (mapStreams_canon (setGroup_canon h)) fun n hn => if_keeps ?_ hn)
  exact mapSaved_canon hn fun _ h => h

theorem holdBits_canon {d c} (h : m.Canon) : (holdBits m d c).Canon := by
  unfold holdBits
  split
  · exact h
  · exact foldl_keeps (fun _ h _ => setGroup_canon h) h

theorem takeBits_canon {d c} (h : m.Canon) : (takeBits m d c).Canon := by
  unfold takeBits
  split
  · exact h
  · refine foldl_keeps ?_ h
    intro _ h2 _
    dsimp only
    split
    · exact h2
    · exact setGroup_canon h2

theorem dropBits_canon {d c g n} (h : m.Canon) : (dropBits m d c g n).Canon :=
  foldl_keeps (fun _ h _ => if_keeps (settleGroup_canon h) h) h

theorem leaveAll_canon {d c} (h : m.Canon) : (leaveAll m d c).Canon :=
  afterRelease_canon (foldl_keeps (fun _ h _ => settleGroup_canon h) h)

theorem wakeSignal_canon {home pa} (h : m.Canon) : (wakeSignal m home pa).Canon := mapStreams_canon h

theorem changeSignal_canon {pa new k} (h : m.Canon) : (changeSignal m pa new k).Canon := by
  unfold changeSignal
  refine if_keeps (wakeSignal_canon ((modDie_canon h).withPhys (Memory.wf_write _ _ _ ((modDie_canon h).1)))) ?_
  exact (modDie_canon h).withPhys (Memory.wf_write _ _ _ ((modDie_canon h).1))

theorem decSignal_canon {ctx dev v k} (h : m.Canon) :
    Gives (fun _ => True) Module.Canon (decSignal m ctx dev v k) := by
  unfold decSignal
  refine if_keeps trivial ?_
  split
  · trivial
  · next e => exact if_keeps trivial (changeSignal_canon ((translate_canon h).ok e))

theorem releaseHold_canon {i} (h : m.Canon) : (releaseHold m i).Canon :=
  if_keeps (deliverTo_canon (setChain_canon h)) h

theorem dropSpent_canon {k} (h : m.Canon) : (dropSpent m k).Canon := by
  unfold dropSpent
  split
  · exact modCluster_canon h
  · exact h

theorem endChain_canon {i st} (h : m.Canon) : (endChain m i st).Canon :=
  modChain_canon (releaseHold_canon (if_keeps (dropSpent_canon h) h))

theorem setEngQueue_canon {e q} (h : m.Canon) : (setEngQueue m e q).Canon := by
  unfold setEngQueue
  split
  · exact modDie_canon h
  · exact modCluster_canon h
  · exact setZither_canon h
  · exact modCluster_canon h

theorem cancelChain_canon {i kill} (h : m.Canon) : (cancelChain m i kill).Canon := by
  unfold cancelChain
  refine if_keeps (endChain_canon (setEngQueue_canon h)) ?_
  exact if_keeps (if_keeps (endChain_canon h) (setChain_canon h)) h

theorem reportChain_canon {i cause code} (h : m.Canon) : (reportChain m i cause code).Canon := by
  unfold reportChain
  dsimp only
  split
  · exact if_keeps (reportTuple_canon h) (reportInst_canon h)
  · split
    · exact reportTuple_canon h
    · exact h

theorem endStopped_canon {i code} (h : m.Canon) : (endStopped m i code).Canon :=
  reportChain_canon (endChain_canon h)

theorem stopChain_canon {i code sub addr status} (h : m.Canon) : (stopChain m i code sub addr status).Canon :=
  if_keeps (reportChain_canon (setChain_canon h)) (endStopped_canon (setChain_canon h))

theorem endLease_canon {d c} (h : m.Canon) : (endLease m d c).Canon := modCluster_canon h

theorem killJob_canon {d c} (h : m.Canon) : (killJob m d c).Canon := by
  unfold killJob
  exact if_keeps (foldl_keeps (fun _ h _ => withdraw_canon h)
      (endLease_canon (foldl_keeps (fun _ h _ => cancelChain_canon h) h)))
      (leaveAll_canon (retireTags_canon
      (foldl_keeps (fun _ h _ => withdraw_canon h)
      (endLease_canon (foldl_keeps (fun _ h _ => cancelChain_canon h) h)))))

theorem failStreams_canon {d c} (h : m.Canon) : (failStreams m d c).Canon := modCore_canon h fun _ h => h

theorem failJob_canon {w code} (h : m.Canon) : (failJob m w code).Canon := by
  unfold failJob
  dsimp only
  split
  · exact reportInst_canon (failStreams_canon (killJob_canon h))
  · exact failStreams_canon (killJob_canon h)

theorem writeRecord_canon {w pc t} (h : m.Canon) : (writeRecord m w pc t).Canon := modStrm_canon h

theorem untakeTok_canon {st left} {c : Core} (h : c.Canon) : (untakeTok st left c).Canon := by
  unfold untakeTok
  split <;> exact h

theorem unissue_canon {w} (h : m.Canon) : (unissue m w).Canon := by
  unfold unissue
  split
  · exact h
  · refine modStrm_canon ?_
    refine modCore_canon h fun _ h => ?_
    exact if_keeps (untakeTok_canon (if_keeps (untakeTok_canon h) h)) (if_keeps (untakeTok_canon h) h)

theorem enterTrap_canon {w t} (h : m.Canon) : (enterTrap m w t).Canon := by
  unfold enterTrap
  extract_lets m1 m2 pc m3 m4 m5 m6 m7
  have h1 : m1.Canon := by
    unfold m1
    split
    · exact pushAlog_canon h
    · exact h
  have h2 : m2.Canon := if_keeps (modCtx_canon h1) h1
  have h3 : m3.Canon := unissue_canon (withdraw_canon h2)
  have h4 : m4.Canon := by
    unfold m4
    split
    · exact endLease_canon h3
    · exact endLease_canon h3
    · exact h3
  have h6 : m6.Canon := writeRecord_canon (modStrm_canon h4)
  split
  · exact modStrm_canon h6
  · exact failJob_canon (modStrm_canon h6)
  · split
    · exact reportTuple_canon (modStrm_canon h6)
    · exact modStrm_canon h6

theorem takeTrap_canon {w t} (h : m.Canon) : (takeTrap m w t).Canon := by
  unfold takeTrap
  refine if_keeps ?_ (enterTrap_canon h)
  refine enterTrap_canon (writeRecord_canon ?_)
  split
  · exact pushAlog_canon h
  · exact h

theorem raise_canon {t} (h : s.Canon) : (raise t s).Canon := ⟨takeTrap_canon (src_canon h), h.2⟩

theorem pagerCall_canon {d x} (h : m.Canon) : Finds Module.Canon (pagerCall m d x) :=
  Finds.map finds_true fun _ _ => modDie_canon h

theorem pageBundle_canon {t} (h : s.Canon) : Finds Module.Canon (pageBundle s t) :=
  Finds.map (pagerCall_canon (src_canon h)) fun _ h => modStrm_canon h

theorem finish_canon {r : Res} (h : s.Canon) (hr : Gives Stop.Canon State.Canon r) :
    OutCanon (finish s r) := by
  unfold finish
  split
  · exact hr
  · exact ⟨hr, h.2⟩
  · exact ⟨src_canon h, h.2⟩
  · dsimp only [OutCanon]
    split
    · next e => exact ⟨(pageBundle_canon h).some e, h.2⟩
    · exact ⟨src_canon h, h.2⟩
  · exact raise_canon h

theorem trapAt_canon {place code} : Gives Stop.Canon P (trapAt place code) := by
  unfold trapAt
  trivial

/-! ### Nodes and pools -/

theorem jobNode_canon {d c} (h : m.Canon) : Finds (fun r => r.1.Canon) (jobNode m d c) := by
  unfold jobNode
  split
  · trivial
  · split
    · trivial
    · next e => exact Finds.map finds_true fun _ _ => (findInst_canon h).some e

theorem enterPool_canon {d} (h : m.Canon) : Finds Module.Canon (enterPool m d) :=
  Finds.map finds_true fun _ _ => modCtx_canon (modDie_canon h)

theorem enterAll_canon {d k} (h : m.Canon) : (enterAll d k m).Canon := by
  induction k generalizing m with
  | zero => exact h
  | succ k ih =>
    unfold enterAll
    split
    · next e => exact ih ((enterPool_canon h).some e)
    · exact h

theorem poolAdd_canon {d e} (h : m.Canon) : Finds Module.Canon (poolAdd m d e) := by
  unfold poolAdd
  refine if_keeps (modDie_canon (enterAll_canon h)) ?_
  exact if_keeps trivial (modCtx_canon (modDie_canon (enterAll_canon h)))

theorem dropNode_canon {c g n} (h : m.Canon) : (dropNode m c g n).Canon := by
  unfold dropNode
  refine modInst_canon ?_ (fun _ h => h.filter)
  split
  · exact dropBits_canon h
  · exact h

theorem backToPool_canon {c g} {n : NodeRun} {prio} (h : m.Canon) : (backToPool m c g n prio).Canon := by
  unfold backToPool
  refine if_keeps (dropNode_canon h) ?_
  split
  · next e => exact (poolAdd_canon h).some e
  · exact reportInst_canon h

theorem dropLease_canon {d c} (h : m.Canon) : (dropLease m d c).Canon := modCluster_canon h

theorem chooseCheckpoint_canon {n : NodeRun} (h : m.Canon) : (chooseCheckpoint m n).Canon :=
  foldl_keeps (fun _ h _ => modCluster_canon (dropLease_canon h)) h

theorem stopStreams_canon {d c} (h : m.Canon) : (stopStreams m d c).Canon := modCore_canon h fun _ h => h

theorem killNode_canon {c g} {n : NodeRun} (h : m.Canon) : (killNode m c g n).Canon := by
  unfold killNode
  split
  · refine backToPool_canon ?_
    refine modNode_canon (foldl_keeps (fun _ h _ => stopStreams_canon (killJob_canon h)) h) fun _ _ _ hc => ?_
    exact nomatch hc
  · exact h

theorem releaseAction_canon {i : Instance} {n : NodeRun} (h : m.Canon) : (releaseAction m i n).Canon := by
  unfold releaseAction
  refine if_keeps ?_ h
  split
  · exact killNode_canon h
  · exact modNode_canon (chooseCheckpoint_canon h) fun _ h => h

theorem closeRegion_canon {d c} (h : m.Canon) : (closeRegion m d c).Canon := by
  unfold closeRegion
  dsimp only
  split
  · exact releaseAction_canon (modCore_canon h fun _ h => h)
  · exact modCore_canon h fun _ h => h

theorem decideNode_canon {c g} {n : NodeRun} {x} (h : m.Canon) : (decideNode m c g n x).Canon := by
  unfold decideNode
  refine if_keeps (modNode_canon h (fun _ h => h)) ?_
  split
  · exact killNode_canon h
  · exact modNode_canon (chooseCheckpoint_canon h) fun _ h => h

/-! ### Stops of an op -/

theorem waiting_canon : Gives Stop.Canon P (waiting s) := by
  unfold waiting
  trivial

theorem parked_canon (h : s.Canon) : Gives Stop.Canon P (parked s) := src_canon h

theorem accStop_canon {place u} : Gives Stop.Canon P (accStop s place u) := by
  unfold accStop
  split <;> trivial

theorem orStop_canon {place} {r : Except AccStop α} (hr : Gives (fun _ => True) P r) :
    Gives Stop.Canon P (orStop s place r) := by
  unfold orStop
  split
  · exact hr
  · exact accStop_canon

theorem stateStand_canon {f : Module → Module} (h : s.Canon) (hf : ∀ m, m.Canon → (f m).Canon) :
    (State.stand f s).Canon := by
  refine ⟨hf _ h.1, fun m hm => ?_⟩
  obtain ⟨n, hn, rfl⟩ := Option.map_eq_some_iff.1 hm
  exact hf n (h.2 n hn)

theorem parkWith_canon {f : Module → Module} (h : s.Canon) (hf : ∀ m, m.Canon → (f m).Canon) :
    Gives Stop.Canon P (parkWith s f) := hf _ (src_canon h)

theorem slotGrant_canon {place slot} : Gives Stop.Canon (fun _ => True) (slotGrant s place slot) :=
  if_keeps trivial (if_keeps trapAt_canon trivial)

theorem releaseTest_canon {wide} : Gives Stop.Canon (fun _ => True) (releaseTest s wide) :=
  if_keeps trivial trivial

theorem jobReleased_canon (h : s.Canon) : (jobReleased s).Canon :=
  stateModM_canon h fun _ h => afterRelease_canon h

theorem jobAcquire_canon {k} (h : s.Canon) : (jobAcquire k s).Canon :=
  stateModM_canon h fun _ h => acquire_canon h

/-! ### Operands and results -/

theorem setQueue_canon {c : Core} {q x} (h : c.Canon) : (Core.setQueue c q x).Canon := by
  unfold Core.setQueue
  split <;> exact h

theorem failAtomic_canon {w t} (h : m.Canon) : (failAtomic m w t).Canon := if_keeps (takeTrap_canon h) h

theorem withSrcs_canon {i} {r : Res} (hr : Gives Stop.Canon State.Canon r) :
    Gives Stop.Canon State.Canon (withSrcs i s r) := by
  unfold withSrcs
  split
  · trivial
  · trivial
  · exact hr

theorem popHead_canon {place q} : Gives Stop.Canon (fun _ => True) (popHead s place q) := by
  unfold popHead
  dsimp only
  split
  · exact if_keeps trapAt_canon trivial
  · split
    · refine if_keeps (if_keeps trapAt_canon waiting_canon) ?_
      split
      · exact accStop_canon
      · exact waiting_canon
    · exact if_keeps trapAt_canon waiting_canon

theorem notePop_canon {q} (h : s.Canon) : (notePop q s).Canon := by
  unfold notePop
  split <;> exact h

theorem fetch_canon {place t x} (h : s.Canon) :
    Gives Stop.Canon (fun r => r.2.Canon) (fetch s place t x) := by
  unfold fetch
  split
  · exact h
  · exact Gives.map popHead_canon fun _ _ => notePop_canon h
  · exact Gives.map popHead_canon fun _ _ => notePop_canon h
  · exact h
  · exact h
  · exact h
  · exact h
  · exact if_keeps waiting_canon h
  · exact h

theorem fetch64_canon {place x} (h : s.Canon) : Gives Stop.Canon (fun _ => True) (fetch64 s place x) :=
  Gives.map (fetch_canon h) fun _ _ => trivial

theorem fetch32_canon {place x} (h : s.Canon) : Gives Stop.Canon (fun _ => True) (fetch32 s place x) :=
  Gives.map (fetch_canon h) fun _ _ => trivial

theorem noteWrite_canon {r v els} (h : s.Canon) : (noteWrite r v els s).Canon := h

theorem setV_canon {n v els} (h : s.Canon) : (setV n v els s).Canon :=
  noteWrite_canon (stateModCore_canon h fun _ h => h)

theorem setP_canon {n v els} (h : s.Canon) : (setP n v els s).Canon :=
  noteWrite_canon (stateModCore_canon h fun _ h => h)

theorem setS_canon {n v} (h : s.Canon) : (setS n v s).Canon := by
  unfold setS
  refine if_keeps (noteWrite_canon (stateModStrm_canon h)) ?_
  exact if_keeps h (noteWrite_canon (stateModStrm_canon h))

theorem setA_canon {n v} (h : s.Canon) : (setA n v s).Canon := noteWrite_canon (stateModStrm_canon h)

theorem setM_canon {n v} (h : s.Canon) : (setM n v s).Canon := noteWrite_canon (stateModStrm_canon h)

theorem setScal_canon {d v} (h : s.Canon) : (setScal d v s).Canon := by
  unfold setScal
  split
  · exact setS_canon h
  · exact setA_canon h
  · exact setM_canon h
  · exact h

theorem pushQueue_canon {place q e} (h : s.Canon) : Gives Stop.Canon State.Canon (pushQueue place q e s) := by
  unfold pushQueue
  refine if_keeps (stateModCore_canon h (fun _ h => setQueue_canon h)) ?_
  dsimp only
  split
  · exact if_keeps trapAt_canon waiting_canon
  · refine if_keeps (if_keeps trapAt_canon waiting_canon) ?_
    split
    · exact accStop_canon
    · next e =>
        refine if_keeps trapAt_canon ?_
        exact stateModCore_canon ⟨modCtx_canon ((storeDev_canon h.1).ok e), h.2⟩ fun _ h => setQueue_canon h

theorem firstCause_canon {r push : Res} (h : Gives Stop.Canon State.Canon r)
    (hpush : Gives Stop.Canon State.Canon push) :
    Gives Stop.Canon State.Canon (firstCause r push) := by
  unfold firstCause
  split
  · split
    · exact if_keeps (P := Gives Stop.Canon State.Canon) hpush h
    · exact h
  · exact h

theorem slot_canon {i} {r : Res} (h : s.Canon) (hr : Gives Stop.Canon State.Canon r) :
    OutCanon (slot i s r) := by
  unfold slot
  refine finish_canon h (withSrcs_canon ?_)
  split
  · exact firstCause_canon hr (pushQueue_canon h)
  · exact hr

theorem writeTile_canon {place t d pred es} (h : s.Canon) :
    Gives Stop.Canon State.Canon (writeTile place t d pred es s) := by
  unfold writeTile
  dsimp only
  split
  · exact setV_canon h
  · exact pushQueue_canon h
  · exact pushQueue_canon h
  · exact h

theorem writeMask_canon {d pred bs} (h : s.Canon) : (writeMask d pred bs s).Canon := by
  unfold writeMask
  split
  · exact setP_canon h
  · exact h

/-! ### Flags -/

theorem addFlags_canon {f} (h : s.Canon) : (addFlags f s).Canon := stateModStrm_canon h

theorem addJetFlags_canon {j f} (h : s.Canon) : (addJetFlags j f s).Canon :=
  addFlags_canon (stateModStrm_canon h)

theorem scalarElem_canon {place o ta tb tc td f} (h : s.Canon) :
    Gives Stop.Canon State.Canon (scalarElem place o ta tb tc td f s) := by
  unfold scalarElem
  refine Gives.bind (fetch_canon h) fun _ h2 => ?_
  refine Gives.bind (fetch_canon h2) fun _ h4 => ?_
  exact Gives.bind (fetch_canon h4) fun _ h => addFlags_canon (setScal_canon h)

theorem tileElem_canon {place o ta tb tc td f} (h : s.Canon) :
    Gives Stop.Canon State.Canon (tileElem place o ta tb tc td f s) := by
  unfold tileElem
  refine if_keeps trapAt_canon ?_
  refine Gives.bind (fetch_canon h) fun _ h2 => ?_
  refine Gives.bind (fetch_canon h2) fun _ h4 => ?_
  exact Gives.bind (fetch_canon h4) fun _ h6 => Gives.bind (writeTile_canon h6) fun _ h => addFlags_canon h

theorem elemOp_canon {i o ta tb tc td f} (h : s.Canon) : OutCanon (elemOp i o ta tb tc td f s) :=
  slot_canon h (if_keeps (scalarElem_canon h) (tileElem_canon h))

/-! ### Address ops -/

theorem postInc_canon {a m f} (h : s.Canon) : OutCanon (postInc a m f s) := by
  unfold postInc
  refine finish_canon h ?_
  split
  · exact trapAt_canon
  · exact setA_canon h

theorem execAinc_canon {a imm} (h : s.Canon) : OutCanon (execAinc a imm s) := finish_canon h (setA_canon h)

theorem execAmod_canon {a m} (h : s.Canon) : OutCanon (execAmod a m s) := postInc_canon h

theorem execAbrv_canon {a m} (h : s.Canon) : OutCanon (execAbrv a m s) := postInc_canon h

theorem execAcir_canon {a m} (h : s.Canon) : OutCanon (execAcir a m s) := postInc_canon h

theorem execAset_canon {a hi lo} (h : s.Canon) : OutCanon (execAset a hi lo s) :=
  finish_canon h (setA_canon h)

theorem execMset_canon {part m v} (h : s.Canon) : OutCanon (execMset part m v s) := by
  unfold execMset
  exact finish_canon h (setM_canon h)

/-! ### Float ops -/

theorem jetSrc_canon {place t k x} (h : s.Canon) :
    Gives Stop.Canon (fun r => r.2.Canon) (jetSrc s place t k x) := by
  unfold jetSrc
  split
  · exact if_keeps trapAt_canon h
  · exact trapAt_canon
  · exact Gives.map (fetch_canon h) fun _ h => h

theorem writeJet_canon {place t d pred rs k j} (h : s.Canon) :
    Gives Stop.Canon State.Canon (writeJet place t d pred rs s k j) := by
  induction k generalizing s j with
  | zero => exact h
  | succ k ih =>
    unfold writeJet
    dsimp only
    split
    · next e => exact ih (addJetFlags_canon ((writeTile_canon h).ok e))
    · next e => exact (writeTile_canon h).error e

theorem jetOp_canon {place o ta tb tc td k f} (h : s.Canon) :
    Gives Stop.Canon State.Canon (jetOp place o ta tb tc td k f s) := by
  unfold jetOp
  refine if_keeps trapAt_canon ?_
  refine Gives.bind (jetSrc_canon h) fun _ h2 => ?_
  exact Gives.bind (jetSrc_canon h2) fun _ h4 => Gives.bind (jetSrc_canon h4) fun _ h => writeJet_canon h

theorem floatOp_canon {i o t f g} (h : s.Canon) : OutCanon (floatOp i o t f g s) :=
  if_keeps (elemOp_canon h) (slot_canon h (jetOp_canon h))

theorem execFaddF32_canon {o} (h : s.Canon) : OutCanon (execFaddF32 o s) := floatOp_canon h

theorem execFsubF32_canon {o} (h : s.Canon) : OutCanon (execFsubF32 o s) := floatOp_canon h

theorem execFmulF32_canon {o} (h : s.Canon) : OutCanon (execFmulF32 o s) := floatOp_canon h

theorem execFmaF32_canon {o} (h : s.Canon) : OutCanon (execFmaF32 o s) := floatOp_canon h

theorem execFdivF32_canon {o} (h : s.Canon) : OutCanon (execFdivF32 o s) := floatOp_canon h

theorem execFminF32_canon {o} (h : s.Canon) : OutCanon (execFminF32 o s) := floatOp_canon h

theorem execFmaxF32_canon {o} (h : s.Canon) : OutCanon (execFmaxF32 o s) := floatOp_canon h

theorem execFaddBf16_canon {o} (h : s.Canon) : OutCanon (execFaddBf16 o s) := floatOp_canon h

theorem execFsubBf16_canon {o} (h : s.Canon) : OutCanon (execFsubBf16 o s) := floatOp_canon h

theorem execFmulBf16_canon {o} (h : s.Canon) : OutCanon (execFmulBf16 o s) := floatOp_canon h

theorem execFmaBf16_canon {o} (h : s.Canon) : OutCanon (execFmaBf16 o s) := floatOp_canon h

theorem execFdivBf16_canon {o} (h : s.Canon) : OutCanon (execFdivBf16 o s) := floatOp_canon h

theorem execFminBf16_canon {o} (h : s.Canon) : OutCanon (execFminBf16 o s) := floatOp_canon h

theorem execFmaxBf16_canon {o} (h : s.Canon) : OutCanon (execFmaxBf16 o s) := floatOp_canon h

theorem execFaddF16_canon {o} (h : s.Canon) : OutCanon (execFaddF16 o s) := floatOp_canon h

theorem execFsubF16_canon {o} (h : s.Canon) : OutCanon (execFsubF16 o s) := floatOp_canon h

theorem execFmulF16_canon {o} (h : s.Canon) : OutCanon (execFmulF16 o s) := floatOp_canon h

theorem execFmaF16_canon {o} (h : s.Canon) : OutCanon (execFmaF16 o s) := floatOp_canon h

theorem execFdivF16_canon {o} (h : s.Canon) : OutCanon (execFdivF16 o s) := floatOp_canon h

theorem execFminF16_canon {o} (h : s.Canon) : OutCanon (execFminF16 o s) := floatOp_canon h

theorem execFmaxF16_canon {o} (h : s.Canon) : OutCanon (execFmaxF16 o s) := floatOp_canon h

theorem execFabs_canon {o} (h : s.Canon) : OutCanon (execFabs o s) := floatOp_canon h

theorem execFneg_canon {o} (h : s.Canon) : OutCanon (execFneg o s) := floatOp_canon h

theorem execFmov_canon {o} (h : s.Canon) : OutCanon (execFmov o s) := floatOp_canon h

theorem execFscl_canon {o} (h : s.Canon) : OutCanon (execFscl o s) := by
  unfold execFscl
  split
  · next e => exact slot_canon h ((fetch32_canon h).error e)
  · exact floatOp_canon h

theorem execFclp_canon {o} (h : s.Canon) : OutCanon (execFclp o s) := floatOp_canon h

theorem execFlrp_canon {o} (h : s.Canon) : OutCanon (execFlrp o s) := floatOp_canon h

/-! ### Integer ops -/

theorem intOp_canon {i o f} (h : s.Canon) : OutCanon (intOp i o f s) := elemOp_canon h

theorem bitOp_canon {i o f} (h : s.Canon) : OutCanon (bitOp i o f s) := elemOp_canon h

theorem execIadd_canon {o} (h : s.Canon) : OutCanon (execIadd o s) := intOp_canon h

theorem execIsub_canon {o} (h : s.Canon) : OutCanon (execIsub o s) := intOp_canon h

theorem execIadds_canon {o} (h : s.Canon) : OutCanon (execIadds o s) := intOp_canon h

theorem execIsubs_canon {o} (h : s.Canon) : OutCanon (execIsubs o s) := intOp_canon h

theorem execImul_canon {o} (h : s.Canon) : OutCanon (execImul o s) := intOp_canon h

theorem execImulh_canon {o} (h : s.Canon) : OutCanon (execImulh o s) := intOp_canon h

theorem execImad_canon {o} (h : s.Canon) : OutCanon (execImad o s) := intOp_canon h

theorem execIshl_canon {o} (h : s.Canon) : OutCanon (execIshl o s) := bitOp_canon h

theorem execIshr_canon {o} (h : s.Canon) : OutCanon (execIshr o s) := bitOp_canon h

theorem execIsra_canon {o} (h : s.Canon) : OutCanon (execIsra o s) := elemOp_canon h

theorem execIand_canon {o} (h : s.Canon) : OutCanon (execIand o s) := bitOp_canon h

theorem execIor_canon {o} (h : s.Canon) : OutCanon (execIor o s) := bitOp_canon h

theorem execIxor_canon {o} (h : s.Canon) : OutCanon (execIxor o s) := bitOp_canon h

theorem execImin_canon {o} (h : s.Canon) : OutCanon (execImin o s) := intOp_canon h

theorem execImax_canon {o} (h : s.Canon) : OutCanon (execImax o s) := intOp_canon h

theorem execIabs_canon {o} (h : s.Canon) : OutCanon (execIabs o s) := intOp_canon h

theorem execIclz_canon {o} (h : s.Canon) : OutCanon (execIclz o s) := bitOp_canon h

theorem execIpop_canon {o} (h : s.Canon) : OutCanon (execIpop o s) := bitOp_canon h

theorem execImov_canon {o} (h : s.Canon) : OutCanon (execImov o s) := bitOp_canon h

theorem execIbfe_canon {o} (h : s.Canon) : OutCanon (execIbfe o s) := elemOp_canon h

theorem execIbfi_canon {o} (h : s.Canon) : OutCanon (execIbfi o s) := elemOp_canon h

/-! ### Conversions -/

theorem writeBytes_canon {o bs} (h : s.Canon) : Gives Stop.Canon State.Canon (writeBytes o bs s) :=
  writeTile_canon h

theorem execCvt_canon {o} (h : s.Canon) : OutCanon (execCvt o s) :=
  if_keeps (elemOp_canon h) (slot_canon h (jetOp_canon h))

theorem execCvfi_canon {o} (h : s.Canon) : OutCanon (execCvfi o s) := elemOp_canon h

theorem execCvif_canon {o} (h : s.Canon) : OutCanon (execCvif o s) := elemOp_canon h

theorem execQblk_canon {o} (h : s.Canon) : OutCanon (execQblk o s) := by
  unfold execQblk
  refine slot_canon h (if_keeps trapAt_canon ?_)
  split
  · exact trapAt_canon
  · refine if_keeps trapAt_canon ?_
    exact Gives.bind (fetch_canon h) fun _ h2 => Gives.bind (writeBytes_canon h2) fun _ h => addFlags_canon h

theorem execDqbk_canon {o} (h : s.Canon) : OutCanon (execDqbk o s) := by
  unfold execDqbk
  refine slot_canon h ?_
  refine if_keeps trapAt_canon ?_
  exact Gives.bind (fetch_canon h) fun _ h2 => Gives.bind (writeTile_canon h2) fun _ h => addFlags_canon h

theorem execDcf4_canon {o} (h : s.Canon) : OutCanon (execDcf4 o s) := by
  unfold execDcf4
  refine slot_canon h ?_
  refine if_keeps trapAt_canon ?_
  refine Gives.bind (fetch_canon h) fun _ h2 => ?_
  exact Gives.bind (fetch32_canon h2) fun _ _ => Gives.bind (writeTile_canon h2) fun _ h => addFlags_canon h

theorem execNwsl_canon {o} (h : s.Canon) : OutCanon (execNwsl o s) := by
  unfold execNwsl
  refine slot_canon h ?_
  refine if_keeps trapAt_canon ?_
  exact Gives.bind (fetch_canon h) fun _ h2 => Gives.bind (writeBytes_canon h2) fun _ h => addFlags_canon h

theorem execNwpk_canon {o} (h : s.Canon) : OutCanon (execNwpk o s) :=
  slot_canon h (if_keeps trapAt_canon (Gives.bind (fetch_canon h) fun _ h => writeBytes_canon h))

theorem execRand_canon {o} (h : s.Canon) : OutCanon (execRand o s) := by
  unfold execRand
  refine slot_canon h ?_
  refine if_keeps trapAt_canon ?_
  exact Gives.bind (fetch64_canon h) fun _ _ => Gives.bind (fetch64_canon h) fun _ _ => writeTile_canon h

theorem execJsed_canon {o} (h : s.Canon) : OutCanon (execJsed o s) := by
  unfold execJsed
  refine slot_canon h (if_keeps trapAt_canon ?_)
  refine Gives.bind (jetSrc_canon h) fun _ h2 => ?_
  dsimp only
  split <;> exact writeJet_canon h2

theorem execJext_canon {o} (h : s.Canon) : OutCanon (execJext o s) := by
  unfold execJext
  refine slot_canon h ?_
  refine if_keeps trapAt_canon ?_
  exact if_keeps (Gives.bind (P := fun r => r.2.Canon) (Gives.map (fetch_canon h) fun _ h => h) fun _ h4 =>
      Gives.bind (writeTile_canon h4) fun _ h => addFlags_canon h)
      (Gives.bind (jetSrc_canon h) fun _ h8 => Gives.bind (writeTile_canon h8) fun _ h => addFlags_canon h)

/-! ### The Etesian fabric -/

/-- A line that lands leaves the memories canonical. -/
def Landing.Canon : Landing → Prop
  | .landed m => m.Canon
  | _ => True

theorem Landing.Canon.landed {r : Landing} {m : Module} (h : r.Canon) (e : r = .landed m) : m.Canon := by
  subst e; exact h

theorem landLine_canon {c d slot φ addr data mask} (h : m.Canon) :
    (landLine m c d slot φ addr data mask).Canon := by
  unfold landLine
  split <;> try trivial
  next e =>
    have hm := (translate_canon h).ok e
    refine if_keeps trivial ?_
    dsimp only
    split <;> try trivial
    next n e =>
      have hn : n.Canon := by
        split at e
        · exact (trackedAccess_canon hm).ok e
        · cases e
          exact hm
      exact if_keeps (writeLoc_canon hn)
        (foldl_keeps (fun _ h _ => if_keeps (h.withPhys (Memory.wf_put _ _ h.1)) h) hn)

theorem modPort_canon {p f} (h : m.Canon) : (Module.modPort m p f).Canon := setPort_canon h

theorem modPeer_canon {p d f} (h : m.Canon) : (Module.modPeer m p d f).Canon := modPort_canon h

theorem sendLoslight_canon {q lm mask first count} (h : m.Canon) :
    (sendLoslight m q lm mask first count).Canon := sendEvent_canon h

theorem finishLosses_canon {pair dst f} (h : m.Canon) : (finishLosses m pair dst f).Canon := by
  unfold finishLosses
  refine foldl_keeps ?_ h
  intro _ h2 _
  refine foldl_keeps ?_ h2
  intro _ h5 _
  split
  · exact sendLoslight_canon (modPort_canon h5)
  · exact h5

theorem depart_canon {q hop f} (h : m.Canon) : (depart m q hop f).Canon :=
  if_keeps (finishLosses_canon (modPeer_canon (modPort_canon h))) (modPort_canon h)

theorem pumpList_canon {q r} (h : m.Canon) : (pumpList q r m).1.Canon := by
  induction r generalizing m with
  | nil => exact h
  | cons f r ih =>
    unfold pumpList
    exact if_keeps (P := fun r : Module × List (BitVec 10 × Flit) => r.1.Canon) (ih (depart_canon h)) (ih h)

theorem pump_canon {q} (h : m.Canon) : (pump m q).Canon := modPort_canon (pumpList_canon h)

theorem enqueue_canon {path f} (h : m.Canon) : (enqueue m path f).Canon := pump_canon (modPort_canon h)

theorem sendFlit_canon {path dst body} (h : m.Canon) : (sendFlit m path dst body).Canon :=
  enqueue_canon (if_keeps (modPeer_canon h) h)

theorem sendTo_canon {dst body} (h : m.Canon) : (sendTo m dst body).Canon := sendFlit_canon h

theorem repick_canon (h : m.Canon) : (repick m).Canon := by
  unfold repick
  refine foldl_keeps ?_ h
  intro _ h2 _
  refine foldl_keeps ?_ h2
  intro _ h5 _
  split
  · exact h5
  · exact enqueue_canon (modPort_canon h5)

theorem winFor_canon {place w addr} : Gives Stop.Canon (fun _ => True) (winFor s place w addr) := by
  unfold winFor
  dsimp only
  split
  · exact accStop_canon
  · exact if_keeps trivial trivial

theorem winStore_canon {place w addr ps} (h : s.Canon) :
    Gives Stop.Canon State.Canon (winStore s place w addr ps) := by
  unfold winStore
  refine Gives.bind winFor_canon fun _ _ => ?_
  refine if_keeps ?_ (parked_canon h)
  exact stateModCore_canon ⟨modCtx_canon (foldl_keeps (fun _ h _ => sendFlit_canon h) h.1), h.2⟩ fun _ h => h

theorem ackWrite_canon {dev ctx win n refused} (h : m.Canon) : (ackWrite m dev ctx win n refused).Canon :=
  sendTo_canon h

theorem setOvr_canon {d s} {raced : Option (W64 × W64 × W64)} (h : m.Canon) : (setOvr m d s raced).Canon :=
  settleSlot_canon h

theorem callPager_canon {d c} {page : Option ℕ} (h : m.Canon) : (callPager m d c page).Canon := by
  unfold callPager
  split
  · exact if_keeps h (getD_keeps (pagerCall_canon h) h)
  · exact h

theorem landOne_canon {e pctx φ} {x : Module × Bool} {p} (h : x.1.Canon) :
    (landOne e pctx φ x p).1.Canon := by
  have hl : (landLine x.1 pctx e.idie e.islot φ p.1 p.2.1 p.2.2).Canon := landLine_canon h
  unfold landOne
  dsimp only
  split
  · next e => exact settleSlot_canon (hl.landed e)
  · exact setOvr_canon h
  · exact settleSlot_canon h

theorem landAt_canon {e pctx u addr data mask} (h : m.Canon) :
    Gives (fun _ => True) (fun r => r.1.Canon) (landAt m e pctx u addr data mask) := by
  unfold landAt
  dsimp only
  split
  · trivial
  · exact foldl_keeps (P := fun r : Module × Bool => r.1.Canon) (fun _ h _ => landOne_canon h) h

theorem tryWrite_canon {w} (h : m.Canon) : Gives (fun _ => True) Module.Canon (tryWrite m w) := by
  unfold tryWrite
  dsimp only
  split
  · exact ackWrite_canon h
  · trivial
  · refine if_keeps (ackWrite_canon h) (if_keeps (ackWrite_canon (setOvr_canon h)) ?_)
    refine if_keeps trivial ?_
    split
    · next e => exact ackWrite_canon ((landAt_canon h).ok e)
    · trivial

theorem askPage_canon {c} {page : Option (Fin 16 × ℕ)} (h : m.Canon) : (askPage m c page).Canon := by
  unfold askPage
  split
  · exact callPager_canon h
  · exact h

theorem landWrite_canon {w} (h : m.Canon) : (landWrite m w).Canon := by
  unfold landWrite
  refine if_keeps h ?_
  split
  · next e => exact (tryWrite_canon h).ok e
  · exact askPage_canon h

theorem landHeld_canon {w} (h : m.Canon) : (landHeld m w).Canon := by
  unfold landHeld
  refine if_keeps h ?_
  split
  · next e => exact (tryWrite_canon (by exact h)).ok e
  · exact askPage_canon h

theorem tryMarker_canon {k} (h : m.Canon) : Gives (fun _ => True) Module.Canon (tryMarker m k) := by
  unfold tryMarker
  split
  · exact ackWrite_canon h
  · trivial
  · exact if_keeps (setOvr_canon h) (if_keeps trivial (if_keeps (setBarrier_canon h) (settleSlot_canon h)))

theorem landMarker_canon {k} (h : m.Canon) : (landMarker m k).Canon := by
  unfold landMarker
  split
  · next e => exact (tryMarker_canon h).ok e
  · exact askPage_canon h

theorem markerHeld_canon {k} (h : m.Canon) : (markerHeld m k).Canon := by
  unfold markerHeld
  split
  · next e => exact (tryMarker_canon (by exact h)).ok e
  · exact askPage_canon h

theorem landCopyLine_canon {l} (h : m.Canon) : (landCopyLine m l).1.Canon := by
  unfold landCopyLine
  split
  · exact h
  · exact callPager_canon h
  · exact h
  · split
    · next e1 =>
        have h2 := (landAt_canon h).ok e1
        exact h2
    · exact callPager_canon h

theorem landCopyWith_canon {skip x} (h : m.Canon) : (landCopyWith skip m x).Canon := by
  unfold landCopyWith
  dsimp only
  split
  · split
    · exact callPager_canon h
    · exact h
  · exact if_keeps (sendTo_canon (foldl_keeps (P := fun r : Module × List RemoteWrite => r.1.Canon)
        (fun _ h _ => landCopyLine_canon h) h))
        (foldl_keeps (P := fun r : Module × List RemoteWrite => r.1.Canon) (fun _ h _ => landCopyLine_canon h)
        h)

theorem landCopy_canon {x} (h : m.Canon) : (landCopy m x).Canon := landCopyWith_canon h

theorem copyHeld_canon {n} (h : m.Canon) : (copyHeld m n).Canon := by
  unfold copyHeld
  split
  · exact landCopy_canon h
  · exact h

theorem unqueue_canon {pair dst f} (h : m.Canon) : (unqueue m pair dst f).Canon :=
  foldl_keeps (fun _ h _ => modPort_canon h) h

theorem resend_canon {pair dst first} (h : m.Canon) : (resend m pair dst first).Canon :=
  pump_canon (modPort_canon (unqueue_canon h))

theorem noteLosses_canon {pair dst again} (h : m.Canon) : (noteLosses m pair dst again).Canon := by
  unfold noteLosses
  split
  · exact foldl_keeps (fun _ h _ => modPort_canon h) h
  · exact h

theorem replayPair_canon {pair dst first} (h : m.Canon) : (replayPair m pair dst first).Canon :=
  if_keeps h (resend_canon (noteLosses_canon h))

theorem countFailure_canon {pair dst first} (h : m.Canon) : (countFailure m pair dst first).Canon := by
  unfold countFailure
  split
  · exact h
  · exact if_keeps h (if_keeps (modPeer_canon h) (modDie_canon (modPeer_canon (modPeer_canon h))))

theorem replayFrom_canon {pair dst first} (h : m.Canon) : (replayFrom m pair dst first).Canon :=
  replayPair_canon (countFailure_canon h)

theorem rollKeys_canon {q} (h : m.Canon) : (rollKeys m q).Canon :=
  foldl_keeps (fun _ h _ => if_keeps h (sendEvent_canon (modPort_canon h))) h

theorem clearLosses_canon (h : m.Canon) : (clearLosses m).Canon :=
  foldl_keeps (fun _ h2 _ => foldl_keeps (fun _ h _ => sendLoslight_canon (modPort_canon h)) h2) h

theorem ackFlits_canon {pair dst upto} (h : m.Canon) : (ackFlits m pair dst upto).Canon := by
  unfold ackFlits
  refine rollKeys_canon ?_
  refine clearLosses_canon ?_
  exact finishLosses_canon (foldl_keeps (fun _ h _ => pump_canon h) (modPeer_canon (unqueue_canon h)))

/-! ### Loads and stores -/

theorem alignTest_canon {place n addr} : Gives Stop.Canon (fun _ => True) (alignTest place n addr) :=
  if_keeps trivial trivial

theorem memLoad_canon {place addr n} (h : s.Canon) :
    Gives Stop.Canon (fun r => r.2.Canon) (memLoad place addr n s) :=
  Gives.bind (orStop_canon (loadLocal_canon h.1)) fun _ h2 => ⟨h2, h.2⟩

theorem memStore_canon {place addr bs} (h : s.Canon) :
    Gives Stop.Canon State.Canon (memStore place addr bs s) :=
  Gives.bind (orStop_canon (storeLocal_canon h.1)) fun _ h2 => ⟨h2, h.2⟩

theorem classTest_canon {place rs} : Gives Stop.Canon (fun _ => True) (classTest place s rs) := by
  unfold classTest
  split
  · exact accStop_canon
  · trivial

theorem storeTest_canon {place ps} : Gives Stop.Canon (fun _ => True) (storeTest place ps s) :=
  Gives.bind classTest_canon fun _ _ => forM_keeps fun _ => Gives.map winFor_canon fun _ _ => trivial

theorem testFirst_canon {t : Except Stop Unit} {r : Except Stop α} (h : Gives Stop.Canon (fun _ => True) t)
    (hr : Gives Stop.Canon P r) :
    Gives Stop.Canon P (testFirst t r) := by
  unfold testFirst
  split
  · exact hr
  · trivial
  · exact if_keeps trivial h
  · exact h

theorem memStores_canon {place ps} (h : s.Canon) : Gives Stop.Canon State.Canon (memStores place ps s) := by
  unfold memStores
  refine Gives.bind storeTest_canon fun _ _ => ?_
  refine Gives.bind (P := fun r => r.Canon) (foldlM_keeps (fun _ h _ => winStore_canon h) h) fun _ h7 => ?_
  exact foldlM_keeps (fun _ h _ => memStore_canon h) h7

theorem pushBytes_canon {place d bs} (h : s.Canon) :
    Gives Stop.Canon State.Canon (pushBytes place d bs s) := by
  unfold pushBytes
  split
  · exact pushQueue_canon h
  · exact h

theorem execLdt_canon {o} (h : s.Canon) : OutCanon (execLdt o s) := by
  unfold execLdt
  refine slot_canon h ?_
  split
  · exact trapAt_canon
  · exact Gives.bind alignTest_canon fun _ _ => Gives.bind (memLoad_canon h) fun _ h => pushBytes_canon h

theorem storeBytes_canon {t c n} (h : s.Canon) :
    Gives Stop.Canon (fun r => r.2.Canon) (storeBytes s t c n) := by
  unfold storeBytes
  split
  · exact Gives.bind popHead_canon fun _ _ => notePop_canon h
  · exact if_keeps trapAt_canon (Gives.bind (fetch_canon h) fun _ h => h)

theorem execStt_canon {o} (h : s.Canon) : OutCanon (execStt o s) := by
  unfold execStt
  refine slot_canon h ?_
  split
  · exact trapAt_canon
  · refine Gives.bind ?_ fun _ h => memStores_canon h
    exact testFirst_canon (Gives.bind alignTest_canon fun _ _ => storeTest_canon) (storeBytes_canon h)

theorem execLds_canon {o} (h : s.Canon) : OutCanon (execLds o s) := by
  unfold execLds
  refine slot_canon h (Gives.bind alignTest_canon fun _ _ => ?_)
  split
  · exact setScal_canon h
  · exact Gives.bind (memLoad_canon h) fun _ h => setScal_canon h

theorem execSts_canon {o} (h : s.Canon) : OutCanon (execSts o s) := by
  unfold execSts
  refine slot_canon h ?_
  exact Gives.bind (fetch_canon h) fun _ h => Gives.bind alignTest_canon fun _ _ => memStores_canon h

theorem execLdb_canon {o} (h : s.Canon) : OutCanon (execLdb o s) := by
  unfold execLdb
  refine slot_canon h ?_
  split
  · exact trapAt_canon
  · refine Gives.bind classTest_canon fun _ _ => ?_
    exact Gives.bind (memLoad_canon h) fun _ h4 => Gives.bind (memLoad_canon h4) fun _ h => pushBytes_canon h

theorem pieceAddrs_canon {o} (h : s.Canon) : Gives Stop.Canon (fun r => r.2.2.Canon) (pieceAddrs o s) := by
  unfold pieceAddrs
  refine if_keeps trapAt_canon (Gives.bind alignTest_canon fun _ _ => ?_)
  refine Gives.bind (memLoad_canon h) fun _ h4 => ?_
  dsimp only
  split
  · trivial
  · exact h4

theorem loadPieces_canon {size as} (h : s.Canon) :
    Gives Stop.Canon (fun r => r.2.Canon) (loadPieces size as s) := by
  induction as generalizing s with
  | nil => exact h
  | cons a as ih =>
    unfold loadPieces
    exact Gives.bind (memLoad_canon h) fun _ h2 => Gives.bind (ih h2) fun _ h => h

theorem execGath_canon {o} (h : s.Canon) : OutCanon (execGath o s) := by
  unfold execGath
  refine slot_canon h ?_
  refine Gives.bind (pieceAddrs_canon h) fun _ h2 => ?_
  exact Gives.bind classTest_canon fun _ _ => Gives.bind (loadPieces_canon h2) fun _ h => pushBytes_canon h

theorem execScat_canon {o} (h : s.Canon) : OutCanon (execScat o s) := by
  unfold execScat
  refine slot_canon h ?_
  refine Gives.bind (pieceAddrs_canon h) fun _ h2 => ?_
  exact Gives.bind (testFirst_canon storeTest_canon (storeBytes_canon h2)) fun _ h => memStores_canon h

theorem execTmov_canon {o} (h : s.Canon) : OutCanon (execTmov o s) := by
  unfold execTmov
  refine slot_canon h ?_
  refine Gives.bind (fetch32_canon h) fun _ _ => ?_
  refine if_keeps trapAt_canon ?_
  refine Gives.bind alignTest_canon fun _ _ => ?_
  refine Gives.bind alignTest_canon fun _ _ => ?_
  refine Gives.bind classTest_canon fun _ _ => ?_
  exact Gives.bind storeTest_canon fun _ _ => Gives.bind (memLoad_canon h) fun _ h => memStores_canon h

theorem execWfen_canon {o} (h : s.Canon) : OutCanon (execWfen o s) := by
  unfold execWfen
  refine slot_canon h (Gives.bind (fetch64_canon h) fun _ _ => ?_)
  split
  · refine Gives.bind winFor_canon fun _ _ => ?_
    exact stateModCore_canon ⟨foldl_keeps (fun _ h _ => sendFlit_canon h) h.1, h.2⟩ fun _ h => h
  · exact trapAt_canon

theorem execFenc_canon {o} (h : s.Canon) : OutCanon (execFenc o s) := slot_canon h h

theorem loadPlanes_canon {n as} (h : s.Canon) :
    Gives Stop.Canon (fun r => r.2.Canon) (loadPlanes n as s) := by
  induction as generalizing s with
  | nil => exact h
  | cons a as ih =>
    unfold loadPlanes
    exact Gives.bind (memLoad_canon h) fun _ h2 => Gives.bind (ih h2) fun _ h => h

theorem execLdnw_canon {o} (h : s.Canon) : OutCanon (execLdnw o s) := by
  unfold execLdnw
  refine slot_canon h ?_
  refine Gives.bind (fetch32_canon h) fun _ _ => ?_
  refine if_keeps trapAt_canon ?_
  refine Gives.bind alignTest_canon fun _ _ => ?_
  refine Gives.bind classTest_canon fun _ _ => ?_
  refine Gives.bind (loadPlanes_canon h) fun _ h8 => ?_
  refine Gives.bind (memLoad_canon h8) fun _ h10 => ?_
  exact Gives.bind (pushBytes_canon h10) fun _ h => addFlags_canon h

/-! ### Circular buffers -/

theorem cbHandle_canon {o} (h : s.Canon) : Gives Stop.Canon (fun _ => True) (cbHandle s o) :=
  Gives.bind (fetch64_canon h) fun _ _ => if_keeps trapAt_canon (if_keeps trapAt_canon trivial)

theorem cbRole_canon {o consumer} (h : s.Canon) : Gives Stop.Canon (fun _ => True) (cbRole s o consumer) :=
  Gives.bind (cbHandle_canon h) fun _ _ => if_keeps trapAt_canon trivial

theorem cbCount_canon {o b} (h : s.Canon) : Gives Stop.Canon (fun _ => True) (cbCount s o b) :=
  Gives.bind (fetch64_canon h) fun _ _ => if_keeps trapAt_canon trivial

theorem setBufOf_canon {w b} (h : s.Canon) : (setBufOf w b s).Canon :=
  stateModM_canon h fun _ h => setBuf_canon h

theorem execCbpb_canon {o} (h : s.Canon) : OutCanon (execCbpb o s) := by
  unfold execCbpb
  refine slot_canon h ?_
  refine Gives.bind (cbRole_canon h) fun _ _ => ?_
  refine Gives.bind (cbCount_canon h) fun _ _ => ?_
  refine if_keeps trapAt_canon ?_
  exact if_keeps waiting_canon (Gives.bind releaseTest_canon fun _ _ => jobReleased_canon (setBufOf_canon h))

theorem execCbrl_canon {o} (h : s.Canon) : OutCanon (execCbrl o s) := by
  unfold execCbrl
  refine slot_canon h ?_
  refine Gives.bind (cbRole_canon h) fun _ _ => ?_
  refine Gives.bind (cbCount_canon h) fun _ _ => ?_
  exact if_keeps trapAt_canon (Gives.bind releaseTest_canon fun _ _ => jobReleased_canon (setBufOf_canon h))

theorem execCbwtConsumer_canon {o} (h : s.Canon) : OutCanon (execCbwtConsumer o s) := by
  unfold execCbwtConsumer
  refine slot_canon h ?_
  refine Gives.bind (cbRole_canon h) fun _ _ => ?_
  refine Gives.bind (cbCount_canon h) fun _ _ => ?_
  exact if_keeps (parked_canon h) (jobAcquire_canon (stateModCore_canon (setScal_canon h) fun _ h => h))

theorem execCbwtProducer_canon {o} (h : s.Canon) : OutCanon (execCbwtProducer o s) := by
  unfold execCbwtProducer
  refine slot_canon h ?_
  refine Gives.bind (cbRole_canon h) fun _ _ => ?_
  refine Gives.bind (cbCount_canon h) fun _ _ => ?_
  exact if_keeps (parked_canon h) (jobAcquire_canon (setScal_canon (setBufOf_canon h)))

theorem execCbstGet_canon {o} (h : s.Canon) : OutCanon (execCbstGet o s) :=
  slot_canon h (Gives.bind (cbHandle_canon h) fun _ _ => if_keeps trapAt_canon (setScal_canon h))

theorem execCbstInit_canon {o} (h : s.Canon) : OutCanon (execCbstInit o s) := by
  unfold execCbstInit
  refine slot_canon h ?_
  refine Gives.bind (cbHandle_canon h) fun _ _ => ?_
  refine if_keeps trapAt_canon ?_
  refine if_keeps trapAt_canon ?_
  exact Gives.bind (memLoad_canon h) fun _ h => if_keeps trapAt_canon (setBufOf_canon h)

/-! ### Chains -/

theorem chAcc_canon {ctx dev status u} : (chAcc m ctx dev status u).Canon := by
  unfold chAcc
  split <;> trivial

theorem chIllegal_canon : Gives ChStop.Canon P (chIllegal) := by
  unfold chIllegal
  trivial

theorem chTrap_canon {code addr} : Gives ChStop.Canon P (chTrap code addr) := by
  unfold chTrap
  trivial

theorem chStopped_canon {i} {e : ChStop} (h : m.Canon) (he : e.Canon) : (chStopped m i e).Canon := by
  induction e generalizing m with
  | stop code sub addr status line =>
    unfold chStopped
    refine stopChain_canon ?_
    split
    · exact pushAlog_canon h
    · exact h
  | tier addr status =>
    unfold chStopped
    dsimp only
    split
    · next e => exact modChain_canon ((pagerCall_canon h).some e)
    · exact h
  | wait =>
    unfold chStopped
    exact h
  | after n bytes e ih =>
    unfold chStopped
    exact ih he.1 he.2

theorem chainOut_canon {r : Except ChStop Module} (h : s.Canon) (hr : Gives ChStop.Canon Module.Canon r) :
    OutCanon (chainOut s r) := by
  unfold chainOut
  refine h.withM ?_
  split
  · exact hr
  · exact chStopped_canon h.1 hr

theorem chEach_canon {ctx dev} {r : Except (AccStop × Module × ℕ) α} (h : Gives (fun r => r.2.1.Canon) P r) :
    Gives ChStop.Canon P (chEach ctx dev r) := by
  unfold chEach
  split
  · exact h
  · exact ⟨h, chAcc_canon⟩

theorem chLoad_canon {i} {st : Option (ℕ × W32)} {addr n} (h : m.Canon) :
    Gives ChStop.Canon (fun r => r.2.Canon) (chLoad m i st addr n) := by
  unfold chLoad
  dsimp only
  split
  · exact chAcc_canon
  · exact chEach_canon (loadEach_canon h)

theorem chStore_canon {i} {st : Option (ℕ × W32)} {addr bs} (h : m.Canon) :
    Gives ChStop.Canon Module.Canon (chStore m i st addr bs) := by
  unfold chStore
  dsimp only
  split
  · exact chAcc_canon
  · exact chEach_canon (storeEach_canon h)

theorem chLoadDev_canon {i addr n} (h : m.Canon) :
    Gives ChStop.Canon (fun r => r.2.Canon) (chLoadDev m i addr n) := by
  unfold chLoadDev
  dsimp only
  split
  · exact chAcc_canon
  · next e => exact chEach_canon (loadEach_canon ((underTables_canon h fun _ h => devLocs_canon h).ok e))

theorem chStoreDev_canon {i addr bs} (h : m.Canon) :
    Gives ChStop.Canon Module.Canon (chStoreDev m i addr bs) := by
  unfold chStoreDev
  dsimp only
  split
  · exact chAcc_canon
  · next e => exact chEach_canon (storeEach_canon ((underTables_canon h fun _ h => devLocs_canon h).ok e))

theorem chHandle_canon {k u consumer} : Gives ChStop.Canon (fun _ => True) (chHandle m k u consumer) :=
  if_keeps chIllegal_canon (if_keeps chTrap_canon (if_keeps chIllegal_canon trivial))

theorem fireIn_canon {i u o cur} (h : m.Canon) : (fireIn m i u o cur).2.Canon := setChain_canon h

theorem fireOut_canon {i o} (h : m.Canon) : (fireOut m i o).2.Canon := setChain_canon (setBuf_canon h)

theorem fire_canon {i ins} {out : Option ℕ} (h : m.Canon) :
    Gives ChStop.Canon Module.Canon (fire m i ins out) := by
  unfold fire
  exact Gives.bind (P := fun _ => True) (mapM_keeps fun _ => Gives.map chHandle_canon fun _ _ => trivial) fun
      _ _ => Gives.bind (P := fun _ => True) (mapM_keeps fun _ => Gives.map chHandle_canon fun _ _ => trivial)
      fun _ _ => if_keeps trivial (modChain_canon
      (foldl_keeps (P := fun r : List (ℕ × W32) × Module => r.2.Canon) (fun _ h _ => fireOut_canon h)
      (foldl_keeps (P := fun r : List (ℕ × W32) × Module => r.2.Canon) (fun _ h _ => fireIn_canon h) h)))

theorem performed_canon {i p} (h : m.Canon) : (performed m i p).Canon := modChain_canon h

theorem captureSlot_canon {d n next} (h : m.Canon) : (captureSlot m d n next).2.Canon := setBarrier_canon h

theorem startChain_canon {i k next} (h : m.Canon) : (startChain m i k next).Canon :=
  setEngQueue_canon (setChain_canon (captureSlot_canon h))

theorem execEchn_canon {o} (h : s.Canon) : OutCanon (execEchn o s) := by
  unfold execEchn
  refine slot_canon h (Gives.bind (fetch64_canon h) fun _ _ => ?_)
  refine Gives.bind (fetch64_canon h) fun _ _ => if_keeps trapAt_canon (if_keeps trivial ?_)
  refine if_keeps trapAt_canon (Gives.bind alignTest_canon fun _ _ => ?_)
  split
  · exact accStop_canon
  · refine if_keeps waiting_canon ?_
    refine Gives.bind releaseTest_canon fun _ _ => ?_
    exact jobReleased_canon (stateModM_canon h fun _ h => startChain_canon h)

theorem chainSlot_canon {o} (h : s.Canon) : Gives Stop.Canon (fun _ => True) (chainSlot s o) :=
  Gives.bind (fetch64_canon h) fun _ _ => if_keeps trapAt_canon trivial

theorem execEcwt_canon {o} (h : s.Canon) : OutCanon (execEcwt o s) :=
  slot_canon h (Gives.bind (chainSlot_canon h) fun _ _ => if_keeps (setScal_canon h) (parked_canon h))

theorem execEcnc_canon {o} (h : s.Canon) : OutCanon (execEcnc o s) := by
  unfold execEcnc
  refine slot_canon h ?_
  refine Gives.bind (chainSlot_canon h) fun _ _ => ?_
  refine if_keeps (setScal_canon h) ?_
  refine if_keeps (parked_canon h) ?_
  refine if_keeps (setScal_canon (stateModM_canon h fun _ h => cancelChain_canon h)) ?_
  exact parkWith_canon h fun _ h => modStrm_canon (cancelChain_canon h)

theorem execChainStart_canon {e} (h : s.Canon) : OutCanon (execChainStart e s) := by
  unfold execChainStart
  dsimp only [OutCanon]
  split
  · exact h
  · exact ⟨modChain_canon (setEngQueue_canon h.1), h.2⟩

theorem gotoRec_canon {i n} (h : m.Canon) : (gotoRec m i n).Canon :=
  if_keeps (modChain_canon (modChain_canon h)) (stopChain_canon (modChain_canon h))

theorem sequencer_canon {ex : Instr → State → Out} {i} (hex : ∀ j, KeepsCanon (ex j)) (h : s.Canon) :
    OutCanon (sequencer ex i s) := by
  unfold sequencer
  refine if_keeps h ?_
  refine if_keeps ?_ ?_
  · split
    · exact hex _ _ h
    · exact h
  · refine if_keeps ⟨endChain_canon h.1, h.2⟩ ?_
    refine if_keeps ?_ ?_
    · split
      · exact hex _ _ h
      · exact h
    · split
      · next e => exact chainOut_canon h ((chLoad_canon h.1).error e)
      · next e3 =>
          have h4 := (chLoad_canon h.1).ok e3
          dsimp only
          split
          · exact chainOut_canon ⟨h4, h.2⟩ chIllegal_canon
          · exact if_keeps (chainOut_canon ⟨h4, h.2⟩ chIllegal_canon) (hex _ _ ⟨modChain_canon h4, h.2⟩)

theorem control_canon {f : Chain → Except ChStop (Module × Int)} (h : s.Canon)
    (hf : ∀ k, Gives ChStop.Canon (fun r => r.1.Canon) (f k)) :
    OutCanon (control s f) := chainOut_canon h ((hf _).bind fun _ hm => gotoRec_canon hm)

theorem ctlWord_canon {i r} (h : m.Canon) : Gives ChStop.Canon (fun r => r.2.Canon) (ctlWord m i r) :=
  Gives.bind (chLoad_canon h) fun _ h => h

theorem execJmp_canon {r} (h : s.Canon) : OutCanon (execJmp r s) := control_canon h fun _ => h.1

theorem execLpc_canon {r} (h : s.Canon) : OutCanon (execLpc r s) := by
  unfold execLpc
  refine control_canon h fun _ => ?_
  exact Gives.bind (ctlWord_canon h.1) fun _ h3 => if_keeps h3 (Gives.bind (chStore_canon h3) fun _ h => h)

theorem execIfz_canon {r} (h : s.Canon) : OutCanon (execIfz r s) :=
  control_canon h fun _ => Gives.bind (ctlWord_canon h.1) fun _ h => h

theorem execIfnz_canon {r} (h : s.Canon) : OutCanon (execIfnz r s) :=
  control_canon h fun _ => Gives.bind (ctlWord_canon h.1) fun _ h => h

theorem chSignal_canon {i r} (h : m.Canon) : Gives ChStop.Canon Module.Canon (chSignal m i r) := by
  unfold chSignal
  dsimp only
  split
  · next e => exact (underTables_canon h fun _ h4 => Gives.map (decSignal_canon h4) fun _ h => h).ok e
  · exact chAcc_canon

theorem chNotify_canon {i r} (h : m.Canon) : Gives ChStop.Canon Module.Canon (chNotify m i r) := by
  unfold chNotify
  dsimp only
  split
  · exact if_keeps (modStrm_canon h) (if_keeps h trivial)
  · exact h

theorem execSgd_canon {r} (h : s.Canon) : OutCanon (execSgd r s) :=
  control_canon h fun _ => Gives.bind (chSignal_canon h.1) fun _ h => h

theorem execNte_canon {r} (h : s.Canon) : OutCanon (execNte r s) :=
  control_canon h fun _ => Gives.bind (chNotify_canon h.1) fun _ h => h

theorem execEndRec_canon {u} (h : s.Canon) : OutCanon (execEndRec u s) :=
  chainOut_canon h (endChain_canon h.1)

theorem countLease_canon {k} (h : m.Canon) : (countLease m k).Canon := by
  unfold countLease
  split
  · exact modCluster_canon h
  · exact h

theorem finishBuffers_canon {i p} (h : m.Canon) : (finishBuffers m i p).Canon := by
  unfold finishBuffers
  refine modChain_canon (countLease_canon ?_)
  split
  · refine if_keeps ?_ ?_
    · refine if_keeps ?_ ?_
      · refine deliverTo_canon (foldl_keeps (fun _ h _ => setBuf_canon h) ?_)
        split
        · exact setBuf_canon h
        · exact h
      · refine foldl_keeps (fun _ h _ => setBuf_canon h) ?_
        split
        · exact setBuf_canon h
        · exact h
    · refine modStrm_canon ?_
      refine if_keeps ?_ ?_
      · refine deliverTo_canon (foldl_keeps (fun _ h _ => setBuf_canon h) ?_)
        split
        · exact setBuf_canon h
        · exact h
      · refine foldl_keeps (fun _ h _ => setBuf_canon h) ?_
        split
        · exact setBuf_canon h
        · exact h
  · refine if_keeps ?_ ?_
    · refine deliverTo_canon (foldl_keeps (fun _ h _ => setBuf_canon h) ?_)
      split
      · exact setBuf_canon h
      · exact h
    · refine foldl_keeps (fun _ h _ => setBuf_canon h) ?_
      split
      · exact setBuf_canon h
      · exact h

theorem moveOn_canon {i p} (h : m.Canon) : Gives ChStop.Canon Module.Canon (moveOn m i p) :=
  if_keeps (endChain_canon h) (if_keeps (endChain_canon h) (gotoRec_canon (setChain_canon h)))

theorem execCommandComplete_canon {c} (h : s.Canon) : OutCanon (execCommandComplete c s) := by
  unfold execCommandComplete
  dsimp only
  split
  · exact h
  · refine if_keeps h ?_
    split
    · next e =>
        refine chainOut_canon ⟨if_keeps (finishBuffers_canon h.1) h.1, h.2⟩ ?_
        refine Gives.at_error (E := ChStop.Canon) (P := Module.Canon) e ?_
        refine if_keeps (chSignal_canon (if_keeps (finishBuffers_canon h.1) h.1)) ?_
        exact if_keeps (finishBuffers_canon h.1) h.1
    · next e3 =>
        have h4 := Gives.at_ok (E := ChStop.Canon) (P := Module.Canon) e3
            (if_keeps (chSignal_canon (if_keeps (finishBuffers_canon h.1) h.1))
            (if_keeps (finishBuffers_canon h.1) h.1))
        split
        · next e =>
            refine chainOut_canon ⟨modChain_canon h4, h.2⟩ ?_
            refine Gives.at_error (E := ChStop.Canon) (P := Module.Canon) e ?_
            exact if_keeps (chNotify_canon (modChain_canon h4)) (modChain_canon h4)
        · next e7 =>
            have h8 := Gives.at_ok (E := ChStop.Canon) (P := Module.Canon) e7
                (if_keeps (chNotify_canon (modChain_canon h4)) (modChain_canon h4))
            exact chainOut_canon ⟨h8, h.2⟩ (moveOn_canon h8)

/-! ### Events of the fabric -/

theorem event_canon {f : Module → Module} (h : s.Canon) (hf : (f s.m).Canon) : OutCanon (event s f) :=
  ⟨hf, h.2⟩

theorem eventIf_canon {due} {f : Module → Module} (h : s.Canon) (hf : (f s.m).Canon) :
    OutCanon (eventIf s due f) := if_keeps ⟨hf, h.2⟩ h

theorem returnBytes_canon {c w n refused} (h : m.Canon) : (returnBytes m c w n refused).Canon :=
  modCtx_canon h

theorem execRemoteWriteLand_canon {w} (h : s.Canon) : OutCanon (execRemoteWriteLand w s) :=
  event_canon h (if_keeps (landHeld_canon h.1) (landWrite_canon h.1))

theorem execMarkerLand_canon {k} (h : s.Canon) : OutCanon (execMarkerLand k s) :=
  event_canon h (if_keeps (markerHeld_canon h.1) (landMarker_canon h.1))

theorem execAllowanceReturn_canon {ctx win bytes refused} (h : s.Canon) :
    OutCanon (execAllowanceReturn ctx win bytes refused s) := event_canon h (returnBytes_canon h.1)

theorem execSlotBoundary_canon {port} {sender : Option (BitVec 10)} {matching} (h : s.Canon) :
    OutCanon (execSlotBoundary port sender matching s) := by
  unfold execSlotBoundary
  refine event_canon h ?_
  dsimp only
  split
  · exact modPort_canon h.1
  · exact if_keeps (pump_canon (repick_canon (modPort_canon h.1))) (modDie_canon (modPort_canon h.1))

theorem execRelaySend_canon {port} (h : s.Canon) : OutCanon (execRelaySend port s) := by
  unfold execRelaySend
  refine event_canon h ?_
  dsimp only
  split
  · exact h.1
  · exact h.1

theorem replicate_canon {origin cmd group version ctx off data} (h : m.Canon) :
    (replicate m origin cmd group version ctx off data).Canon := by
  unfold replicate
  refine if_keeps (landCopy_canon (foldl_keeps (fun _ h _ => sendFlit_canon h) h)) ?_
  exact foldl_keeps (fun _ h _ => sendFlit_canon h) h

theorem receiveBody_canon {f} (h : m.Canon) : (receiveBody m f).Canon := by
  unfold receiveBody
  split
  · exact foldl_keeps (fun _ h _ => landWrite_canon h) h
  · exact landMarker_canon h
  · exact if_keeps (landCopy_canon h) (replicate_canon h)
  · exact ackFlits_canon h
  · exact replayFrom_canon h
  · exact returnBytes_canon h
  · exact h

theorem linkControl_canon {f body} (h : m.Canon) : (linkControl m f body).Canon := enqueue_canon h

theorem execFlitReceive_canon {port f good} (h : s.Canon) : OutCanon (execFlitReceive port f good s) := by
  unfold execFlitReceive
  refine event_canon h ?_
  refine if_keeps (linkControl_canon (countRetries_canon h.1)) ?_
  refine if_keeps (if_keeps (linkControl_canon h.1) h.1) ?_
  refine if_keeps (receiveBody_canon h.1) ?_
  refine if_keeps (linkControl_canon (receiveBody_canon (modPeer_canon h.1))) ?_
  exact if_keeps (linkControl_canon h.1) (linkControl_canon h.1)

theorem execFlitAck_canon {port peer upto} (h : s.Canon) : OutCanon (execFlitAck port peer upto s) :=
  event_canon h (ackFlits_canon h.1)

theorem execFlitNak_canon {port peer first} (h : s.Canon) : OutCanon (execFlitNak port peer first s) :=
  event_canon h (replayFrom_canon h.1)

theorem execFlitReplayTimeout_canon {port peer} (h : s.Canon) :
    OutCanon (execFlitReplayTimeout port peer s) := by
  unfold execFlitReplayTimeout
  refine event_canon h ?_
  split
  · exact replayFrom_canon h.1
  · exact h.1

theorem portDown_canon {q} (h : m.Canon) : (portDown m q).Canon := by
  unfold portDown
  refine repick_canon ?_
  refine foldl_keeps ?_ h
  intro _ h2 _
  split
  · exact replayPair_canon h2
  · exact h2

theorem execLossOfLight_canon {port lm} (h : s.Canon) : OutCanon (execLossOfLight port lm s) := by
  unfold execLossOfLight
  refine eventIf_canon h ?_
  refine if_keeps ?_ (if_keeps (sendLoslight_canon (setPort_canon h.1)) (clearLosses_canon (setPort_canon h.1)))
  refine portDown_canon ?_
  exact if_keeps (sendLoslight_canon (setPort_canon h.1)) (clearLosses_canon (setPort_canon h.1))

theorem execPortPark_canon {port} (h : s.Canon) : OutCanon (execPortPark port s) := by
  unfold execPortPark
  exact eventIf_canon h (setPort_canon h.1)

theorem execPortWake_canon {port} (h : s.Canon) : OutCanon (execPortWake port s) := by
  unfold execPortWake
  exact eventIf_canon h (setPort_canon h.1)

theorem execWavelengthJoin_canon {port wl} (h : s.Canon) : OutCanon (execWavelengthJoin port wl s) := by
  unfold execWavelengthJoin
  exact eventIf_canon h (setPort_canon h.1)

/-! ### Tuples -/

theorem tupStatus_canon {o n} (h : s.Canon) : (tupStatus o n s).Canon := setScal_canon (stateModStrm_canon h)

theorem loadImage_canon {addr} (h : s.Canon) : Gives Stop.Canon (fun r => r.2.Canon) (loadImage addr s) :=
  Gives.bind alignTest_canon fun _ _ => Gives.bind (memLoad_canon h) fun _ h => h

theorem resultTest_canon {addr} : Gives Stop.Canon (fun _ => True) (resultTest addr s) := by
  unfold resultTest
  refine Gives.bind alignTest_canon fun _ _ => ?_
  split
  · trivial
  · exact accStop_canon

theorem tupAnswer_canon {o img clk} (h : s.Canon) : Gives Stop.Canon State.Canon (tupAnswer o img clk s) :=
  Gives.bind (memStore_canon (jobAcquire_canon h)) fun _ h => tupStatus_canon h

theorem execTdep_canon {o} (h : s.Canon) : OutCanon (execTdep o s) := by
  unfold execTdep
  refine slot_canon h (Gives.bind (loadImage_canon h) fun _ h2 => ?_)
  refine if_keeps trapAt_canon (Gives.bind releaseTest_canon fun _ _ => ?_)
  split
  · trivial
  · next e => exact tupStatus_canon (jobReleased_canon ⟨(deposit_canon h2.1).some e, h2.2⟩)

theorem tupRequest_canon {i o take} (h : s.Canon) : OutCanon (tupRequest i o take s) := by
  unfold tupRequest
  refine slot_canon h ?_
  split
  · exact parked_canon h
  · exact tupAnswer_canon h
  · exact tupStatus_canon h
  · refine Gives.bind resultTest_canon fun _ _ => Gives.bind (loadImage_canon h) fun _ h4 => ?_
    refine if_keeps trapAt_canon ?_
    dsimp only
    split
    · exact tupAnswer_canon (if_keeps (stateModM_canon h4 fun _ h => removeTuple_canon h) h4)
    · refine if_keeps ?_ (tupStatus_canon h4)
      refine Gives.bind (loadImage_canon ⟨src_canon h4, h4.2⟩) fun _ h8 => ?_
      exact parkWith_canon (State.canon_some h4.1 h8.1 rfl) fun _ h => modStrm_canon (setSlice_canon h)

theorem execTcpy_canon {o} (h : s.Canon) : OutCanon (execTcpy o s) := tupRequest_canon h

theorem execTtak_canon {o} (h : s.Canon) : OutCanon (execTtak o s) := tupRequest_canon h

theorem execTprb_canon {o} (h : s.Canon) : OutCanon (execTprb o s) := by
  unfold execTprb
  refine slot_canon h (Gives.bind resultTest_canon fun _ _ => ?_)
  refine Gives.bind (loadImage_canon h) fun _ h4 => ?_
  dsimp only
  split
  · exact tupAnswer_canon h4
  · exact tupStatus_canon h4

theorem execTcan_canon {o} (h : s.Canon) : OutCanon (execTcan o s) := by
  unfold execTcan
  refine slot_canon h (Gives.bind (fetch64_canon h) fun _ _ => ?_)
  refine if_keeps trapAt_canon ?_
  dsimp only
  split
  · exact tupStatus_canon (stateModM_canon h fun _ h => modStrm_canon (withdraw_canon h))
  · exact tupStatus_canon h

theorem execTupleOverflowReturn_canon {die slice} (h : s.Canon) :
    OutCanon (execTupleOverflowReturn die slice s) := by
  unfold execTupleOverflowReturn
  dsimp only [OutCanon]
  split
  · refine if_keeps ?_ h
    refine ⟨?_, h.2⟩
    split
    · exact modCtx_canon (setSlice_canon h.1)
    · exact setSlice_canon h.1
  · exact h

/-! ### The host -/

theorem execHostDeposit_canon {ctx slot v} (h : s.Canon) : OutCanon (execHostDeposit ctx slot v s) := by
  unfold execHostDeposit
  refine ⟨?_, h.2⟩
  refine if_keeps (modCtx_canon (modCtx_canon h.1)) ?_
  split
  · exact modCtx_canon (modCtx_canon h.1)
  · next e => exact modCtx_canon ((deposit_canon (modCtx_canon h.1)).some e)

theorem execHostTake_canon {ctx v} (h : s.Canon) : OutCanon (execHostTake ctx v s) := by
  unfold execHostTake
  refine ⟨?_, h.2⟩
  split
  · exact modCtx_canon (removeTuple_canon (modCtx_canon h.1))
  · exact modCtx_canon (modCtx_canon h.1)

theorem execRegisterWriteOther_canon {_ctx _off _v} (h : s.Canon) :
    OutCanon (execRegisterWriteOther _ctx _off _v s) := h

theorem windowWrite_canon {ex : Instr → State → Out} {c off v} (hex : ∀ j, KeepsCanon (ex j)) (h : s.Canon) :
    OutCanon (windowWrite ex c off v s) := by
  unfold windowWrite
  refine if_keeps (if_keeps (hex _ _ h) ⟨modCtx_canon h.1, h.2⟩) ?_
  exact if_keeps (hex _ _ h) (if_keeps ⟨modCtx_canon h.1, h.2⟩ (hex _ _ h))

theorem execEventReadIndexWrite_canon {v} (h : s.Canon) : OutCanon (execEventReadIndexWrite v s) := by
  unfold execEventReadIndexWrite
  split <;> exact h

theorem execBoot_canon {images} (h : s.Canon) : OutCanon (execBoot images s) := ⟨h.1, h.2⟩

theorem result_canon {n} (h : m.Canon) : (result n m).Canon := h

theorem answer_canon {n} (h : s.Canon) (hm : m.Canon) : OutCanon (answer s n m) := ⟨result_canon hm, h.2⟩

theorem serveMail_canon {ex : Instr → State → Out} (hex : ∀ j, KeepsCanon (ex j)) (h : s.Canon) :
    OutCanon (serveMail ex s) := by
  unfold serveMail
  split
  · exact if_keeps (hex _ _ h) (answer_canon h h.1)
  · exact answer_canon h h.1
  · exact answer_canon h h.1

theorem hostWrite_canon {a bs} (h : m.Canon) : (hostWrite m a bs).Canon :=
  h.withHost (Memory.wf_puts _ _ h.2.1)

/-! ### Bundles -/

theorem popTok_canon {st left} {c : Core} (h : c.Canon) : (popTok st left c).Canon := by
  unfold popTok
  split <;> exact h

theorem pushTok_canon {st left} {c : Core} (h : c.Canon) : (pushTok st left c).Canon := by
  unfold pushTok
  split <;> exact h

theorem keepTags_canon {w} {now : Module} (hm : m.Canon) : (keepTags w now m).Canon :=
  modCtx_canon (modDie_canon hm)

theorem runOp_canon {ex : Instr → State → Out} {r : Run} {i} (hex : ∀ j, KeepsCanon (ex j)) (h : r.st.Canon) :
    Gives OutCanon (fun r => r.st.Canon) (runOp ex r i) := by
  have hi := hex i r.st h
  unfold runOp
  split
  · next s e =>
    have hs : s.Canon := by
      rw [e] at hi
      exact hi
    split
    · exact hs
    · exact h
    · refine if_keeps (if_keeps h ?_) ?_
      · exact State.canon_some (keepTags_canon hs.1) (keepTags_canon hs.1) rfl
      · exact State.canon_some hs.1 hs.1 rfl
    · exact h
  · exact hi

theorem runOps_canon {ex : Instr → State → Out} {r : Run} {is : List Instr} (hex : ∀ j, KeepsCanon (ex j))
    (h : r.st.Canon) :
    Gives OutCanon (fun r => r.st.Canon) (runOps ex r is) := by
  induction is generalizing r with
  | nil => exact h
  | cons i is ih =>
    unfold runOps
    split
    · next e => exact ih ((runOp_canon hex h).ok e)
    · next e => exact (runOp_canon hex h).error e

theorem settled_canon (h : s.Canon) : (settled s).Canon := ⟨h.1, fun _ h => nomatch h⟩

theorem shiftScales_canon {e : Option Scales} {c : Core} (h : c.Canon) : (shiftScales e c).Canon := h

theorem popQueue_canon {c : Core} {q} (h : c.Canon) : (popQueue c q).Canon := setQueue_canon h

theorem takeTokens_canon {st b} {c : Core} (h : c.Canon) : (takeTokens st b c).Canon :=
  then_keeps (if_keeps (popTok_canon h) h) fun h => popTok_canon h

theorem retire_canon {b} (h : s.Canon) : (retire b s).Canon := by
  unfold retire
  refine settled_canon ?_
  refine stateModStrm_canon ?_
  refine stateModCore_canon h fun _ h2 => ?_
  refine then_keeps ?_ fun h => shiftScales_canon h
  refine then_keeps ?_ fun h => pushTok_canon h
  refine then_keeps ?_ fun h => pushTok_canon h
  refine else_keeps (then_keeps (if_keeps (popQueue_canon h2) h2) fun h => popQueue_canon h) fun h => ?_
  exact takeTokens_canon h

theorem trapped_canon {t} (h : s.Canon) : (trapped t s).Canon := settled_canon (raise_canon h)

theorem keepIssued_canon {b bnd} (hm : m.Canon) : (keepIssued b s bnd m).Canon := by
  unfold keepIssued
  split
  · exact hm
  · exact modStrm_canon (modCore_canon hm fun _ h => takeTokens_canon h)

theorem asIssued_canon {i} {c : Core} (h : c.Canon) : (Core.asIssued i c).Canon := h

theorem startBundle_canon {w} (h : s.Canon) : (startBundle w s).Canon := by
  unfold startBundle
  refine State.canon_some h.1 ?_ rfl
  split
  · exact modCore_canon h.1 fun _ h => asIssued_canon h
  · exact h.1

theorem unread_canon {w} {now : Module} (hm : m.Canon) : (unread w now m).Canon :=
  modCore_canon hm fun _ h => h

theorem parityTest_canon {w b} {n : Module} (h : m.Canon) (e : parityTest s m w b = some (.ok n)) :
    n.Canon := by
  unfold parityTest at e
  dsimp only at e
  split at e
  · cases e
  · split at e
    · cases e
    · cases e
      exact modDie_canon (modStrm_canon (modStrm_canon h))

theorem closeBundle_canon {b} {r : Run} (h : s.Canon) (hr : r.st.Canon) : (closeBundle b s r).Canon := by
  have ht : ∀ t, (trapped t { s with pre := some s.m }).Canon := fun t => trapped_canon
      (State.canon_some h.1 h.1 rfl)
  unfold closeBundle
  extract_lets m0 sent held r early parity
  have hr : r.st.Canon := by
    unfold r
    split <;> exact hr
  split
  · exact ht _
  · refine if_keeps (settled_canon h) ?_
    rcases hp : parity with _ | (t | n)
    · dsimp only
      split
      · exact ht _
      · refine if_keeps (settled_canon (h.withM (keepIssued_canon (unread_canon (src_canon hr))))) ?_
        exact retire_canon hr
    · exact ht t
    · have hn : n.Canon := by
        unfold parity at hp
        split at hp
        · cases hp
        · exact parityTest_canon h.1 hp
      exact settled_canon (h.withM hn)

theorem runBundle_canon {ex : Instr → State → Out} {b} (hex : ∀ j, KeepsCanon (ex j)) (h : s.Canon) :
    Gives OutCanon (fun r => r.st.Canon) (runBundle ex b s) := by
  have hr : ∀ u, Gives OutCanon (fun r => r.st.Canon)
      (runOps ex { st := s, unissued := u } (b.ops.map (resolveOp s))) :=
    fun _ => runOps_canon hex h
  unfold runBundle
  dsimp only
  split
  · next e => exact (hr _).error e
  · next r e =>
    have hr : r.st.Canon := (hr _).ok e
    exact hr

theorem issueIllegal_canon {ex : Instr → State → Out} {p w} (hex : ∀ j, KeepsCanon (ex j)) (h : s.Canon) :
    OutCanon (issueIllegal ex p w s) := by
  unfold issueIllegal
  dsimp only
  split
  · next e => exact (runBundle_canon hex h).error e
  · exact trapped_canon (State.canon_some h.1 h.1 rfl)

theorem issueBundle_canon {ex : Instr → State → Out} {w line} (hex : ∀ j, KeepsCanon (ex j)) (h : s.Canon) :
    OutCanon (issueBundle ex w line s) := by
  have hs : (startBundle w s).Canon := startBundle_canon h
  unfold issueBundle
  generalize startBundle w s = s' at hs ⊢
  dsimp only
  split
  · exact issueIllegal_canon hex hs
  · split
    · exact trapped_canon (State.canon_some hs.1 hs.1 rfl)
    · split
      · next e => exact (runBundle_canon hex hs).error e
      · next e => exact closeBundle_canon hs ((runBundle_canon hex hs).ok e)

theorem streamTurn_canon {ex : Instr → State → Out} {w} (hex : ∀ j, KeepsCanon (ex j)) (h : s.Canon) :
    OutCanon (streamTurn ex w s) := by
  unfold streamTurn
  refine if_keeps ⟨modStrm_canon h.1, h.2⟩ (if_keeps h ?_)
  refine if_keeps (trapped_canon (State.canon_some h.1 h.1 rfl)) (if_keeps (hex _ _ h) ?_)
  split
  · exact hex _ _ h
  · exact issueBundle_canon hex h

/-! ### Pools of a Zither -/

theorem retierPool_canon {c lo hi code p} (h : m.Canon) : (retierPool m c lo hi code p).Canon := by
  unfold retierPool
  refine foldl_keeps ?_ h
  intro _ h2 _
  dsimp only
  split
  · exact h2
  · refine if_keeps ?_ h2
    split
    · next e => exact (storeDev_canon h2).ok e
    · exact h2

theorem retier_canon {c lo hi code} (h : m.Canon) : (retier m c lo hi code).Canon := by
  unfold retier
  refine foldl_keeps ?_ h
  intro _ h2 _
  split
  · exact retierPool_canon h2
  · exact h2

theorem stackTouch_canon {c p} (h : m.Canon) : (stackTouch m c p).Canon := by
  unfold stackTouch
  refine if_keeps h ?_
  dsimp only
  split
  · next e => exact (storeDev_canon (nextFresh_canon (nextFresh_canon h))).ok e
  · exact nextFresh_canon (nextFresh_canon h)

theorem stackBuild_canon {c p} (h : m.Canon) : (stackBuild m c p).Canon := by
  unfold stackBuild
  refine foldl_keeps ?_ h
  intro _ h2 _
  dsimp only
  split
  · next e => exact (storeDev_canon (nextFresh_canon h2)).ok e
  · exact nextFresh_canon h2

/-! ### Copies and the pager -/

theorem nextEntry_canon {k u consumer} : Gives ChStop.Canon (fun _ => True) (nextEntry m k u consumer) :=
  Gives.bind chHandle_canon fun _ _ => trivial

theorem sideTest_canon {i loc addr span len} :
    Gives ChStop.Canon (fun _ => True) (sideTest m i loc addr span len) := if_keeps trivial chTrap_canon

theorem readDesc_canon {i r} (h : m.Canon) : Gives ChStop.Canon (fun r => r.2.Canon) (readDesc m i r) :=
  Gives.bind (chLoad_canon h) fun _ h => h

theorem keepDesc_canon {i d idxs} (h : m.Canon) : (keepDesc m i d idxs).Canon := modChain_canon h

theorem copyStart_canon {cpg r i} (h : m.Canon) : Gives ChStop.Canon Module.Canon (copyStart cpg r m i) := by
  unfold copyStart
  refine Gives.bind (readDesc_canon h) fun _ h2 => ?_
  refine if_keeps chIllegal_canon ?_
  exact Gives.bind (P := fun r : List (BitVec 32) × Module => r.2.Canon)
      (if_keeps (Gives.map (chLoad_canon h2) fun _ h => h) h2) fun _ h6 => Gives.bind (P := fun _ => True)
      (if_keeps (Gives.map nextEntry_canon fun _ _ => trivial) trivial) fun _ _ => Gives.bind
      (P := fun _ => True) (if_keeps (Gives.map nextEntry_canon fun _ _ => trivial) trivial) fun _ _ =>
      Gives.bind sideTest_canon fun _ _ => Gives.bind sideTest_canon fun _ _ => Gives.bind (fire_canon h6) fun
      _ h => keepDesc_canon h

theorem withStatus_canon {n} {r : Except ChStop α} (h : Gives ChStop.Canon P r) :
    Gives ChStop.Canon P (withStatus n r) := by
  unfold withStatus
  split
  · trivial
  · trivial
  · exact ⟨h.1, trivial⟩
  · exact ⟨h.1, trivial⟩
  · exact h

theorem copyRun_canon {cpg r i} (h : m.Canon) : Gives ChStop.Canon Module.Canon (copyRun cpg r m i) := by
  unfold copyRun
  refine withStatus_canon ?_
  exact Gives.bind (P := fun r : List Byte × Module => r.2.Canon)
      (if_keeps (chLoad_canon h) (chLoadDev_canon h)) fun _ h2 => Gives.bind (P := fun r => r.Canon)
      (if_keeps (chStore_canon h2) (chStoreDev_canon h2)) fun _ h => if_keeps (modChain_canon h)
      (performed_canon (modChain_canon h))

theorem command_canon {start run : Module → ChainId → Except ChStop Module} (h : s.Canon)
    (hs : Gives ChStop.Canon Module.Canon (start s.m s.chain))
    (hr : Gives ChStop.Canon Module.Canon (run s.m s.chain)) :
    OutCanon (command s start run) := chainOut_canon h (if_keeps hs hr)

theorem execCpy_canon {r} (h : s.Canon) : OutCanon (execCpy r s) :=
  command_canon h (copyStart_canon h.1) (copyRun_canon h.1)

theorem execCpg_canon {r} (h : s.Canon) : OutCanon (execCpg r s) :=
  command_canon h (copyStart_canon h.1) (copyRun_canon h.1)

theorem cpmStart_canon {r i} (h : m.Canon) : Gives ChStop.Canon Module.Canon (cpmStart r m i) := by
  unfold cpmStart
  refine Gives.bind (readDesc_canon h) fun _ h2 => ?_
  refine if_keeps chIllegal_canon ?_
  exact Gives.bind (P := fun _ => True) (if_keeps (Gives.map nextEntry_canon fun _ _ => trivial) trivial) fun
      _ _ => Gives.bind sideTest_canon fun _ _ => Gives.bind (fire_canon h2) fun _ h => keepDesc_canon h

theorem pickRelay_canon (h : m.Canon) : (pickRelay m).2.Canon := by
  unfold pickRelay
  dsimp only
  split
  · exact h
  · exact nextFresh_canon h

theorem sendPacket_canon {i group version off bs} (h : m.Canon) :
    (sendPacket m i group version off bs).Canon := by
  unfold sendPacket
  dsimp only
  split
  · next e => exact sendTo_canon (Canon.snd (pickRelay_canon (modChain_canon h)) e)
  · next e => exact replicate_canon (Canon.snd (pickRelay_canon (modChain_canon h)) e)

theorem cpmRun_canon {r i} (h : m.Canon) : Gives ChStop.Canon Module.Canon (cpmRun r m i) := by
  unfold cpmRun
  refine withStatus_canon ?_
  exact Gives.bind (P := fun r : List Byte × Module => r.2.Canon)
      (if_keeps (chLoad_canon h) (chLoadDev_canon h)) fun _ h2 => if_keeps
      (modChain_canon (foldl_keeps (fun _ h _ => sendPacket_canon h) h2))
      (performed_canon (modChain_canon (foldl_keeps (fun _ h _ => sendPacket_canon h) h2)))

theorem execCpm_canon {r} (h : s.Canon) : OutCanon (execCpm r s) :=
  command_canon h (cpmStart_canon h.1) (cpmRun_canon h.1)

theorem placeMarkers_canon {c lo hi behind} (h : m.Canon) : (placeMarkers m c lo hi behind).2.Canon :=
  modCtx_canon (dropHeld_canon h)

theorem takeFrame_canon {c s tier} (h : m.Canon) : (takeFrame m c s tier).2.Canon := by
  unfold takeFrame
  split
  · next e1 =>
      have h2 := Canon.snd (nextFresh_canon h) e1
      refine if_keeps (P := fun r : Option ℕ × Module => r.2.Canon) h2 ?_
      exact if_keeps (P := fun r : Option ℕ × Module => r.2.Canon) h2 h2

theorem putEntry_canon {c} {addr} {s} {e} (h : m.Canon) :
    (putEntry m c addr s e).Canon :=
  h.withPhys (foldl_keeps (P := fun p => Memory.wf p = true) (fun _ h _ => Memory.wf_write _ _ _ h) h.1)

theorem beginMove_canon {c addr behind} (h : m.Canon) :
    Gives (fun _ => True) (fun r => r.2.Canon) (beginMove m c addr behind) := by
  unfold beginMove
  split
  · trivial
  · exact if_keeps trivial (placeMarkers_canon (putEntry_canon h))

theorem endMove_canon {c addr s e page} (h : m.Canon) : (endMove m c addr s e page).Canon :=
  modCtx_canon (dropHeld_canon (putEntry_canon h))

theorem readLines_canon {p dev ls} (h : m.Canon) : (readLines p dev ls m).1.Canon := by
  induction ls generalizing dev m with
  | nil => exact h
  | cons l ls ih =>
    unfold readLines
    refine if_keeps (P := fun r : Module × Option AccStop => r.1.Canon) h ?_
    split
    · exact h
    · exact h
    · next e => exact ih ((trackedAccess_canon h).ok e)

theorem readPage_canon {p dev old n tier} (h : m.Canon) : (readPage m p dev old n tier).1.Canon :=
  if_keeps (P := fun r : Module × Option AccStop => r.1.Canon) (readLines_canon h) h

theorem finishMove_canon {c addr tier p} (h : m.Canon) : (finishMove m c addr tier p).2.Canon := by
  unfold finishMove
  split
  · dsimp only
    split
    · next e => exact endMove_canon (Canon.fst (readPage_canon h) e)
    · next e3 =>
        have h4 := Canon.fst (readPage_canon h) e3
        split
        · next e => exact endMove_canon (Canon.snd (takeFrame_canon h4) e)
        · next e7 =>
            have h8 := Canon.snd (takeFrame_canon h4) e7
            exact retier_canon (endMove_canon (h8.withPhys (copyPhys_wf _ _ _ h8.1)))

theorem migStart_canon {r i} (h : m.Canon) : Gives ChStop.Canon Module.Canon (migStart r m i) := by
  unfold migStart
  refine Gives.bind (readDesc_canon h) fun _ h2 => ?_
  exact if_keeps chIllegal_canon (Gives.bind (fire_canon h2) fun _ h => keepDesc_canon h)

theorem migRun_canon {r i} (h : m.Canon) : Gives ChStop.Canon Module.Canon (migRun r m i) := by
  unfold migRun
  dsimp only
  split
  · split
    · exact chAcc_canon
    · next e => exact modChain_canon ((beginMove_canon h).ok e)
  · refine if_keeps trivial ?_
    split
    · next e3 =>
        have h4 := Canon.snd (finishMove_canon h) e3
        exact ⟨modChain_canon h4, chAcc_canon⟩
    · next e => exact performed_canon (modChain_canon (Canon.snd (finishMove_canon h) e))

theorem execMig_canon {r} (h : s.Canon) : OutCanon (execMig r s) :=
  command_canon h (migStart_canon h.1) (migRun_canon h.1)

theorem failWrite_canon {w} (h : m.Canon) : (failWrite m w).Canon := by
  unfold failWrite
  dsimp only
  split
  · exact ackWrite_canon (settleSlot_canon h)
  · exact ackWrite_canon h

theorem failCopyLine_canon {l} (h : m.Canon) : (failCopyLine m l).Canon := by
  unfold failCopyLine
  split
  · exact h
  · exact settleSlot_canon h

theorem failArrivals_canon {c page} (h : m.Canon) : (failArrivals m c page).Canon := by
  unfold failArrivals
  refine foldl_keeps ?_ (foldl_keeps (fun _ h _ => ackWrite_canon h)
      (foldl_keeps (fun _ h _ => failWrite_canon h) h))
  intro _ h2 _
  dsimp only
  split
  · split
    · exact if_keeps (landCopyWith_canon h2) h2
    · exact h2
  · exact if_keeps h2 (landCopy_canon (foldl_keeps (fun _ h _ => failCopyLine_canon h) h2))

theorem freeSlot_canon {d n} (h : m.Canon) : (freeSlot m d n).Canon := modDie_canon h

theorem releaseSlot_canon {x} (h : m.Canon) : (releaseSlot m x).Canon := by
  unfold releaseSlot
  dsimp only
  split
  · refine modChain_canon ?_
    split
    · exact modStrm_canon (unissue_canon h)
    · exact h
  · split
    · exact modStrm_canon (unissue_canon h)
    · exact h

theorem deliverTier_canon {d x c a} (h : m.Canon) : (deliverTier m d x c a).Canon := by
  unfold deliverTier
  refine if_keeps ?_ ?_
  · refine modDie_canon ?_
    split
    · refine if_keeps ?_ ?_
      · refine modChain_canon (stopChain_canon ?_)
        split
        · exact if_keeps (takeTrap_canon h) h
        · exact h
      · split
        · exact if_keeps (takeTrap_canon h) h
        · exact h
    · split
      · exact if_keeps (takeTrap_canon h) h
      · exact h
  · refine if_keeps ?_ ?_
    · refine failArrivals_canon ?_
      split
      · refine if_keeps ?_ ?_
        · refine modChain_canon (stopChain_canon ?_)
          split
          · exact if_keeps (takeTrap_canon h) h
          · exact h
        · split
          · exact if_keeps (takeTrap_canon h) h
          · exact h
      · split
        · exact if_keeps (takeTrap_canon h) h
        · exact h
    · split
      · refine if_keeps ?_ ?_
        · refine modChain_canon (stopChain_canon ?_)
          split
          · exact if_keeps (takeTrap_canon h) h
          · exact h
        · split
          · exact if_keeps (takeTrap_canon h) h
          · exact h
      · split
        · exact if_keeps (takeTrap_canon h) h
        · exact h

theorem serveSlot_canon {d n readFails} (h : m.Canon) : Finds Module.Canon (serveSlot m d n readFails) := by
  unfold serveSlot
  dsimp only
  split
  · trivial
  · split
    · split
      · trivial
      · exact freeSlot_canon (releaseSlot_canon h)
      · refine if_keeps (freeSlot_canon (releaseSlot_canon h)) ?_
        split
        · trivial
        · next e => exact modDie_canon ((beginMove_canon h).ok e)
    · refine if_keeps trivial (if_keeps (freeSlot_canon (deliverTier_canon (endMove_canon h))) ?_)
      split
      · next e => exact freeSlot_canon (releaseSlot_canon (Canon.snd (finishMove_canon h) e))
      · next e => exact freeSlot_canon (deliverTier_canon (Canon.snd (finishMove_canon h) e))

theorem demotePage_canon {d c a tier} (h : m.Canon) : (demotePage m d c a tier).Canon :=
  if_keeps h (getD_keeps (pagerCall_canon h) h)

theorem execTierFaultService_canon {die readFails} (h : s.Canon) :
    OutCanon (execTierFaultService die readFails s) := by
  unfold execTierFaultService
  dsimp only [OutCanon]
  split
  · exact h
  · next e => exact ⟨(findSome_keeps fun _ => serveSlot_canon h.1).some e, h.2⟩

theorem execInvm_canon {o} (h : s.Canon) : OutCanon (execInvm o s) := by
  unfold execInvm
  refine slot_canon h (Gives.bind (fetch64_canon h) fun _ _ => ?_)
  refine Gives.bind (fetch32_canon h) fun _ _ => if_keeps trapAt_canon (if_keeps trivial ?_)
  refine if_keeps trivial (if_keeps (if_keeps h (stateModM_canon h (fun _ h => placeMarkers_canon h))) ?_)
  refine modStrm_canon ?_
  split
  · exact src_canon h
  · exact placeMarkers_canon (src_canon h)

/-! ### The Kantele array -/

theorem execLeas_canon {o} (h : s.Canon) : OutCanon (execLeas o s) := by
  unfold execLeas
  refine slot_canon h ?_
  split
  · exact h
  · exact parked_canon h
  · refine Gives.bind (fetch32_canon h) fun _ _ => ?_
    refine if_keeps trapAt_canon ?_
    exact if_keeps trapAt_canon (parkWith_canon h fun _ h => modStrm_canon (modCluster_canon h))

theorem execLrel_canon {o} (h : s.Canon) : OutCanon (execLrel o s) :=
  slot_canon h (stateModM_canon h fun _ h => dropLease_canon h)

theorem execLeaseGrant_canon {die cluster} (h : s.Canon) : OutCanon (execLeaseGrant die cluster s) := by
  unfold execLeaseGrant
  dsimp only [OutCanon]
  split
  · exact h
  · exact ⟨foldl_keeps (fun _ h _ => modStrm_canon h) (modCluster_canon h.1), h.2⟩

theorem leaseTest_canon {k} : Gives ChStop.Canon (fun _ => True) (leaseTest m k) := by
  unfold leaseTest
  split
  · exact if_keeps trivial chTrap_canon
  · exact chTrap_canon

theorem entryTest_canon {k u n consumer} : Gives ChStop.Canon (fun _ => True) (entryTest m k u n consumer) :=
  Gives.bind chHandle_canon fun _ _ => if_keeps chIllegal_canon trivial

theorem mmpStart_canon {r i} (h : m.Canon) : Gives ChStop.Canon Module.Canon (mmpStart r m i) := by
  unfold mmpStart
  dsimp only
  split
  · exact chIllegal_canon
  · refine if_keeps chIllegal_canon ?_
    refine Gives.bind entryTest_canon fun _ _ => ?_
    refine Gives.bind entryTest_canon fun _ _ => ?_
    refine Gives.bind (fire_canon h) fun _ h6 => ?_
    exact Gives.bind leaseTest_canon fun _ _ => if_keeps chIllegal_canon (keepDesc_canon h6)

theorem loadImageOf_canon {i st base stride nb np} (h : m.Canon) :
    Gives ChStop.Canon (fun r => r.2.2.Canon) (loadImageOf m i st base stride nb np) := by
  unfold loadImageOf
  exact Gives.bind (P := fun r : List (List ℕ) × Module => r.2.Canon)
      (foldlM_keeps (fun _ h2 _ => Gives.bind (chLoad_canon h2) fun _ h => h) h) fun _ h7 => Gives.bind
      (chLoad_canon h7) fun _ h => h

theorem checksum_canon {i k} (h : m.Canon) : (checksum m i k).2.Canon := by
  unfold checksum
  refine if_keeps (P := fun r : Bool × Module => r.2.Canon) h ?_
  refine if_keeps (P := fun r : Bool × Module => r.2.Canon) (modDie_canon (modCluster_canon h)) ?_
  exact modDie_canon (modCluster_canon h)

theorem mmpRun_canon {r i} (h : m.Canon) : Gives ChStop.Canon Module.Canon (mmpRun r m i) := by
  unfold mmpRun
  refine Gives.bind (chLoad_canon h) fun _ h2 => ?_
  refine Gives.bind (loadImageOf_canon h2) fun _ h => ?_
  refine if_keeps (chStopped_canon (nextFresh_canon (checksum_canon h)) trivial) ?_
  exact performed_canon (modChain_canon (modCluster_canon (checksum_canon h)))

theorem execMmp_canon {r} (h : s.Canon) : OutCanon (execMmp r s) :=
  command_canon h (mmpStart_canon h.1) (mmpRun_canon h.1)

theorem mdrStart_canon {r i} (h : m.Canon) : Gives ChStop.Canon Module.Canon (mdrStart r m i) := by
  unfold mdrStart
  refine if_keeps chIllegal_canon ?_
  refine Gives.bind entryTest_canon fun _ _ => ?_
  exact Gives.bind (fire_canon h) fun _ h4 => Gives.bind leaseTest_canon fun _ _ => h4

theorem countRows_canon {r i} {x : Except ChStop Module} (h : Gives ChStop.Canon Module.Canon x) :
    Gives ChStop.Canon Module.Canon (countRows r i x) := by
  unfold countRows
  split
  · exact ⟨modChain_canon h.1, h.2⟩
  · exact h

theorem mdrRun_canon {r i} (h : m.Canon) : Gives ChStop.Canon Module.Canon (mdrRun r m i) := by
  unfold mdrRun
  refine Gives.bind (countRows_canon (chStore_canon h)) fun _ h => ?_
  exact performed_canon (modChain_canon (if_keeps (modCluster_canon h) h))

theorem execMdr_canon {r} (h : s.Canon) : OutCanon (execMdr r s) :=
  command_canon h (mdrStart_canon h.1) (mdrRun_canon h.1)

/-! ### Control ops -/

theorem goTo_canon {t} (h : s.Canon) : (goTo t s).Canon := stateModStrm_canon h

theorem branchTo_canon {t} (h : s.Canon) : (branchTo t s).Canon :=
  goTo_canon (if_keeps h (stateModStrm_canon h))

theorem branchIf_canon {c t} (h : s.Canon) : OutCanon (branchIf c t s) :=
  finish_canon h (if_keeps (branchTo_canon h) h)

theorem execBr_canon {off} (h : s.Canon) : OutCanon (execBr off s) := branchIf_canon h

theorem execBrz_canon {r off} (h : s.Canon) : OutCanon (execBrz r off s) := branchIf_canon h

theorem execBrnz_canon {r off} (h : s.Canon) : OutCanon (execBrnz r off s) := branchIf_canon h

theorem execBrp_canon {p t off} (h : s.Canon) : OutCanon (execBrp p t off s) := branchIf_canon h

theorem execBrqe_canon {q off} (h : s.Canon) : OutCanon (execBrqe q off s) := branchIf_canon h

theorem execLoop_canon {n last} (h : s.Canon) : OutCanon (execLoop n last s) :=
  finish_canon h (if_keeps (goTo_canon h) (if_keeps trapAt_canon (stateModStrm_canon h)))

theorem execCall_canon {off} (h : s.Canon) : OutCanon (execCall off s) :=
  finish_canon h (if_keeps trapAt_canon (goTo_canon (stateModStrm_canon h)))

theorem execRet_canon (h : s.Canon) : OutCanon (execRet s) := by
  unfold execRet
  refine finish_canon h ?_
  split
  · exact trapAt_canon
  · exact goTo_canon (stateModStrm_canon h)

theorem execJmpi_canon {r} (h : s.Canon) : OutCanon (execJmpi r s) :=
  finish_canon h (if_keeps trivial (branchTo_canon h))

theorem execRdv_canon (h : s.Canon) : OutCanon (execRdv s) := by
  unfold execRdv
  refine finish_canon h ?_
  refine if_keeps (stateStand_canon h fun _ h => modStrm_canon h) ?_
  exact if_keeps trapAt_canon (parkWith_canon h fun _ h => modStrm_canon h)

theorem execExit_canon (h : s.Canon) : OutCanon (execExit s) := finish_canon h (stateModStrm_canon h)

theorem execYield_canon (h : s.Canon) : OutCanon (execYield s) := by
  unfold execYield
  refine finish_canon h ?_
  dsimp only [Gives]
  split
  · split
    · exact if_keeps (stateModM_canon h fun _ h => decideNode_canon h) h
    · exact h
  · exact h

theorem groupGrant_canon {g} : Gives Stop.Canon (fun _ => True) (groupGrant s g) :=
  if_keeps trivial trapAt_canon

theorem execJoin_canon {g} (h : s.Canon) : OutCanon (execJoin g s) := by
  unfold execJoin
  refine finish_canon h ?_
  refine Gives.bind groupGrant_canon fun _ _ => ?_
  exact if_keeps waiting_canon (jobAcquire_canon (stateModM_canon h fun _ h => setGroup_canon h))

theorem execLeave_canon {g} (h : s.Canon) : OutCanon (execLeave g s) := by
  unfold execLeave
  refine finish_canon h ?_
  refine Gives.bind groupGrant_canon fun _ _ => ?_
  refine Gives.bind releaseTest_canon fun _ _ => ?_
  exact jobReleased_canon (stateModM_canon h fun _ h => settleGroup_canon h)

theorem execGbar_canon {g} (h : s.Canon) : OutCanon (execGbar g s) := by
  unfold execGbar
  refine finish_canon h (Gives.bind groupGrant_canon fun _ _ => ?_)
  split
  · exact jobAcquire_canon h
  · exact if_keeps (parked_canon h) (jobAcquire_canon h)
  · refine if_keeps (parked_canon h) ?_
    refine if_keeps trapAt_canon ?_
    refine if_keeps (parkWith_canon h fun _ h => modStrm_canon h) ?_
    refine if_keeps (parkWith_canon h fun _ h => modStrm_canon h) ?_
    refine if_keeps waiting_canon ?_
    refine if_keeps (parkWith_canon h fun _ h => modStrm_canon (afterRelease_canon (settleGroup_canon h))) ?_
    refine jobAcquire_canon ?_
    exact stateStand_canon h fun _ h => modStrm_canon (afterRelease_canon (settleGroup_canon h))
  · refine if_keeps trapAt_canon ?_
    refine if_keeps (parkWith_canon h fun _ h => modStrm_canon h) ?_
    refine if_keeps (parkWith_canon h fun _ h => modStrm_canon h) ?_
    refine if_keeps waiting_canon ?_
    refine if_keeps (parkWith_canon h fun _ h => modStrm_canon (afterRelease_canon (settleGroup_canon h))) ?_
    refine jobAcquire_canon ?_
    exact stateStand_canon h fun _ h => modStrm_canon (afterRelease_canon (settleGroup_canon h))

theorem execWaits_canon {r} (h : s.Canon) : OutCanon (execWaits r s) := by
  unfold execWaits
  refine finish_canon h ?_
  split
  · exact jobAcquire_canon h
  · exact parked_canon h
  · refine if_keeps trivial (Gives.bind (orStop_canon (translate_canon (src_canon h))) fun ⟨pa, n⟩ _ => ?_)
    refine if_keeps waiting_canon (if_keeps (orStop_canon trivial) ?_)
    generalize BitVec.toInt (BitVec.ofNat 64 (Memory.read s.src.phys pa 8)) = v
    refine if_keeps (jobAcquire_canon (stateStand_canon h fun _ h => modStrm_canon h)) ?_
    exact parkWith_canon h fun _ h => modStrm_canon h

theorem waitbReturn_canon {slot k u} (h : s.Canon) : (waitbReturn s slot k u).Canon :=
  stateModCore_canon (stateModM_canon (jobAcquire_canon h) fun _ h => setView_canon h) fun _ h => h

theorem execWaitb_canon {slot} (h : s.Canon) : OutCanon (execWaitb slot s) := by
  unfold execWaitb
  extract_lets b t fresh
  have hf : Gives Stop.Canon State.Canon fresh := by
    unfold fresh
    refine Gives.bind slotGrant_canon fun _ _ => ?_
    exact if_keeps trivial (if_keeps (waitbReturn_canon h) (parkWith_canon h fun _ h => modStrm_canon h))
  clear_value fresh
  refine finish_canon h ?_
  cases s.srcStrm.cwait with
  | waitb => exact parked_canon h
  | waitbDone => exact waitbReturn_canon h
  | waitbOvr => trivial
  | waitbReset => trivial
  | _ => exact hf

theorem execTrap_canon {n} (h : s.Canon) : OutCanon (execTrap n s) := finish_canon h trivial

theorem execEret_canon (h : s.Canon) : OutCanon (execEret s) :=
  finish_canon h (if_keeps trivial (stateModStrm_canon h))

theorem execNpre_canon {us} (h : s.Canon) : OutCanon (execNpre us s) :=
  finish_canon h (if_keeps trapAt_canon (if_keeps waiting_canon (stateModCore_canon h fun _ h => h)))

theorem execXpre_canon (h : s.Canon) : OutCanon (execXpre s) :=
  finish_canon h (stateModM_canon h fun _ h => closeRegion_canon h)

theorem execNop_canon (h : s.Canon) : OutCanon (execNop s) := finish_canon h h

/-! ### Streams -/

theorem execQspl_canon {o} (h : s.Canon) : OutCanon (execQspl o s) := by
  unfold execQspl
  refine slot_canon h (Gives.bind (fetch64_canon h) fun _ _ => ?_)
  refine Gives.bind (fetch32_canon h) fun _ _ => ?_
  dsimp only
  split
  · exact trapAt_canon
  · exact if_keeps trapAt_canon (if_keeps trivial (stateModCore_canon h fun _ h => setQueue_canon h))

theorem execEddyRefill_canon {die core q} (h : s.Canon) : OutCanon (execEddyRefill die core q s) := by
  unfold execEddyRefill
  dsimp only [OutCanon]
  split
  · exact h
  · split
    · exact h
    · refine if_keeps h ?_
      split
      · exact h
      · next e =>
          exact ⟨modCtx_canon (modCore_canon ((loadDev_canon h.1).ok e) fun _ h => setQueue_canon h), h.2⟩

theorem execUirq_canon {o} (h : s.Canon) : OutCanon (execUirq o s) := by
  unfold execUirq
  refine slot_canon h (Gives.bind (fetch64_canon h) fun _ _ => ?_)
  refine Gives.bind (fetch64_canon h) fun _ _ => ?_
  dsimp only
  split
  · exact trapAt_canon
  · exact if_keeps (parked_canon h) (stateModM_canon h fun _ h => modStrm_canon h)

theorem enterHandler_canon {w q} (h : m.Canon) : (enterHandler m w q).Canon := by
  unfold enterHandler
  refine modStrm_canon ?_
  split
  · exact modCluster_canon (unissue_canon (withdraw_canon h))
  · exact unissue_canon (withdraw_canon h)

theorem execInterruptTake_canon {w} (h : s.Canon) : OutCanon (execInterruptTake w s) := by
  unfold execInterruptTake
  dsimp only [OutCanon]
  split
  · exact if_keeps ⟨enterHandler_canon h.1, h.2⟩ h
  · exact h

theorem execBundleFetch_canon {w} (h : s.Canon) : OutCanon (execBundleFetch w s) := by
  unfold execBundleFetch
  refine if_keeps h ?_
  split
  · exact h
  · refine if_keeps h ?_
    split
    · next e => exact ⟨modStrm_canon ((loadDev_canon h.1).ok e), h.2⟩
    · refine if_keeps h ?_
      dsimp only
      split
      · exact settled_canon (raise_canon (State.canon_some h.1 h.1 rfl))
      · split
        · next e =>
            refine settled_canon ?_
            exact State.canon_some ((pageBundle_canon (by exact State.canon_some h.1 h.1 rfl)).some e) h.1 rfl
        · exact h
      · exact h

theorem execParityReissue_canon {w} (h : s.Canon) : OutCanon (execParityReissue w s) := by
  unfold execParityReissue
  dsimp only [OutCanon]
  split
  · exact if_keeps h ⟨modStrm_canon h.1, h.2⟩
  · exact h

/-! ### The graph dispatcher -/

theorem dispTier_canon {d c p} {r : ℕ → Module → Disp α} (h : m.Canon)
    (hr : ∀ e m, m.Canon → Gives (fun _ => True) P (r e m)) :
    Gives (fun _ => True) P (dispTier m d c p r) := if_keeps (hr _ _ (modDie_canon h)) trivial

theorem dispLine_canon {d c a n} (h : m.Canon) :
    Gives (fun _ => True) (fun r => r.2.Canon) (dispLine m d c a n) := by
  unfold dispLine
  split
  · next e1 =>
      have h2 := (loadDev_canon h).ok e1
      exact h2
  · trivial
  · exact dispTier_canon h fun _ _ h => h
  · dsimp only [Gives]
    split
    · exact pushAlog_canon h
    · exact h
  · exact h

theorem dispBytes_canon {d c a n} (h : m.Canon) :
    Gives (fun _ => True) (fun r => r.2.Canon) (dispBytes m d c a n) := by
  unfold dispBytes
  refine foldlM_keeps ?_ h
  intro _ h2 _
  split
  · exact h2
  · exact Gives.map (dispLine_canon h2) fun _ h => h

theorem dispRead_canon {d c a n} (h : m.Canon) :
    Gives (fun _ => True) (fun r => r.2.Canon) (dispRead m d c a n) :=
  Gives.map (dispBytes_canon h) fun _ h => h

theorem dispSignal_canon {d c dev v k} (h : m.Canon) :
    Gives (fun _ => True) (fun r => r.2.Canon) (dispSignal m d c dev v k) := by
  unfold dispSignal
  split
  · next e1 =>
      have h2 := (decSignal_canon h).ok e1
      exact h2
  · trivial
  · exact dispTier_canon h fun _ _ h => h
  · exact h
  · exact h

theorem readyRecord_canon {i : Instance} {n} (h : m.Canon) :
    Gives (fun _ => True) (fun r => r.2.Canon) (readyRecord m i n) := by
  unfold readyRecord
  refine Gives.bind (dispRead_canon h) fun _ h2 => ?_
  dsimp only
  split
  · exact h2
  · refine if_keeps h2 ?_
    refine if_keeps ?_ h2
    refine Gives.bind (dispRead_canon h2) fun _ h4 => ?_
    split <;> exact h4

theorem makeReady_canon {c g n} (h : m.Canon) : Gives (fun _ => True) Module.Canon (makeReady m c g n) := by
  unfold makeReady
  split
  · exact h
  · refine if_keeps h (Gives.bind (readyRecord_canon h) fun _ h4 => ?_)
    dsimp only
    split
    · exact reportInst_canon h4
    · split
      · next e =>
          refine Finds.at_some (P := Module.Canon) e ?_
          refine poolAdd_canon ?_
          exact modInst_canon (nextTicket_canon h4) fun _ h => h.snoc (NodeRun.canon_of_nil rfl)
      · refine reportInst_canon ?_
        exact modInst_canon (nextTicket_canon h4) fun _ h => h.snoc (NodeRun.canon_of_nil rfl)

theorem decPending_canon {c g n k} (h : m.Canon) :
    Gives (fun _ => True) Module.Canon (decPending m c g n k) := by
  unfold decPending
  split
  · exact h
  · extract_lets next
    have hn : ∀ r, r.2.Canon → Gives (fun _ => True) Module.Canon (next r) := by
      intro r hr
      unfold next
      dsimp only
      split
      · exact reportInst_canon hr
      · next p _ =>
        generalize (p + 65535) % 65536 = q
        refine if_keeps (modInst_canon hr fun _ h => h) ?_
        refine if_keeps (modNode_canon (modInst_canon hr fun _ h => h) fun _ h => h) ?_
        exact makeReady_canon (modInst_canon hr fun _ h => h)
    clear_value next
    split
    · exact hn _ h
    · exact (dispRead_canon h).bind hn

theorem checkEnd_canon {c g} (h : m.Canon) : Gives (fun _ => True) Module.Canon (checkEnd m c g) := by
  unfold checkEnd
  split
  · exact h
  · refine if_keeps h (if_keeps h.filterGraphs ?_)
    refine Gives.bind (dispSignal_canon h) fun _ h4 => Module.Canon.filterGraphs ?_
    split
    · exact reportTuple_canon h4
    · exact h4

theorem completeNode_canon {c g} {n : NodeRun} {taken k} (h : m.Canon) :
    Gives (fun _ => True) Module.Canon (completeNode m c g n taken k) := by
  unfold completeNode
  refine Gives.bind (P := fun r => r.Canon) ?_
      (fun _ h8 => Gives.bind (P := fun r => r.Canon)
      (foldlM_keeps (fun _ h _ => if_keeps h (decPending_canon h)) h8)
      (fun _ h13 => Gives.bind (P := fun r => r.Canon) (if_keeps (makeReady_canon h13) h13)
      (fun _ h => checkEnd_canon h)))
  refine if_keeps (modInst_canon (dropNode_canon h) (fun _ h => h)) ?_
  refine Gives.bind (dispSignal_canon (modInst_canon (dropNode_canon h) (fun _ h => h))) fun _ h6 => ?_
  dsimp only [Gives]
  split
  · exact reportInst_canon h6
  · exact h6

theorem setLaunch_canon {d l} {new : Option Launch} (h : m.Canon) : (setLaunch m d l new).Canon :=
  modDie_canon h

theorem tryLaunch_canon {d l} (h : m.Canon) : Gives (fun _ => True) Module.Canon (tryLaunch m d l) := by
  unfold tryLaunch
  refine if_keeps (setLaunch_canon (reportTuple_canon h)) (Gives.bind (dispRead_canon h) fun _ h2 => ?_)
  dsimp only
  split
  · exact setLaunch_canon (reportTuple_canon h2)
  · refine if_keeps (setLaunch_canon (reportTuple_canon h2)) (Gives.bind (dispRead_canon h2) fun _ h4 => ?_)
    split
    · exact setLaunch_canon (reportTuple_canon h4)
    · refine Gives.bind (dispRead_canon h4) fun _ h6 => ?_
      split
      · exact setLaunch_canon (reportTuple_canon h6)
      · exact if_keeps (Gives.bind (makeReady_canon
            (setLaunch_canon (h6.addGraph (Instance.canon_of_nil rfl)))) fun _ h => checkEnd_canon h)
            (if_keeps (setLaunch_canon h6) (setLaunch_canon (reportTuple_canon (sendEvent_canon h6))))

theorem endIdle_canon {d} (h : m.Canon) : Gives (fun _ => True) Module.Canon (endIdle m d) :=
  foldlM_keeps (fun _ h _ => checkEnd_canon h) h

theorem dispPager_canon {d c a} (h : m.Canon) : (dispPager m d c a).Canon :=
  if_keeps h (getD_keeps (pagerCall_canon h) h)

theorem dispOut_canon {d} {r : Disp Module} (h : s.Canon) (hr : Gives (fun _ => True) Module.Canon r) :
    OutCanon (dispOut s d r) := by
  unfold dispOut
  dsimp only [OutCanon]
  split
  · exact h.withM hr
  · exact h.withM (dispPager_canon h.1)
  · exact h

theorem execLaunch_canon {die} (h : s.Canon) : OutCanon (execLaunch die s) := by
  unfold execLaunch
  refine dispOut_canon h (Gives.bind (endIdle_canon h.1) fun _ h2 => ?_)
  split
  · exact tryLaunch_canon h2
  · exact h2

theorem execLaunchTagReread_canon {die} (h : s.Canon) : OutCanon (execLaunchTagReread die s) := by
  unfold execLaunchTagReread
  refine dispOut_canon h ?_
  split
  · exact tryLaunch_canon h.1
  · exact h.1

theorem newCore_canon {c : Core} {x} (h : c.Canon) : (newCore c x).Canon := by
  unfold newCore Core.Canon
  dsimp only
  split
  · rfl
  · exact h

theorem zeroUnit_canon {d c x} (h : m.Canon) : (zeroUnit m d c x).Canon := if_keeps h h

theorem setChains_canon {d c ks} (h : m.Canon) : (setChains m d c ks).Canon :=
  foldl_keeps (fun _ h _ => modChain_canon h) h

theorem startJob_canon {i : Instance} {n : NodeRun} {level img k c} (h : m.Canon) :
    (startJob m i n level img k c).Canon :=
  setChains_canon (modCore_canon (zeroUnit_canon h) fun _ h => newCore_canon h)

theorem resumeJob_canon {i : Instance} {n : NodeRun} {level k c} (h : m.Canon) (hn : n.Canon) :
    (resumeJob m i n level k c).Canon := by
  have ho : (n.saved.getD k {}).Canon := by
    rw [List.getD_eq_getElem?_getD]
    cases e : n.saved[k]? with
    | none => rfl
    | some x => exact hn x (List.mem_of_getElem? e)
  exact setChains_canon (modCore_canon (zeroUnit_canon h) fun x hx => overlay_wf _ ho (newCore_canon hx))

theorem failDisposed_canon {d c} (h : m.Canon) : (failDisposed m d c).Canon := by
  unfold failDisposed
  split
  · exact failJob_canon h
  · exact h

theorem unpool_canon {c g} {n : NodeRun} (h : m.Canon) : (unpool m c g n).Canon := modDie_canon h

theorem failNode_canon {i : Instance} {n : NodeRun} {cause} (h : m.Canon) :
    Gives (fun _ => True) Module.Canon (failNode m i n cause) :=
  checkEnd_canon (dropNode_canon (reportInst_canon h))

theorem placeNode_canon {i : Instance} {n : NodeRun} {level cs} (h : m.Canon) (hn : n.Canon) :
    Gives (fun _ => True) Module.Canon (placeNode m i n level cs) := by
  unfold placeNode
  refine if_keeps (foldl_keeps (fun _ h _ => failDisposed_canon h)
      (foldl_keeps (fun _ h _ => takeBits_canon h)
      (modNode_canon (unpool_canon (foldl_keeps (fun _ h _ => resumeJob_canon h hn) h))
      (fun _ _ => NodeRun.canon_of_nil rfl)))) ?_
  refine Gives.bind (dispRead_canon h) fun _ h13 => ?_
  dsimp only
  split
  · exact failNode_canon (unpool_canon h13)
  · refine if_keeps (failNode_canon (unpool_canon h13)) (Gives.bind (dispBytes_canon h13) fun _ h15 => ?_)
    split
    · exact failNode_canon (unpool_canon h15)
    · refine modNode_canon (unpool_canon (foldl_keeps (fun _ h _ => startJob_canon h) h15)) fun _ _ => ?_
      exact NodeRun.canon_of_nil rfl

theorem execConstantBankLoad_canon {die core} (h : s.Canon) : OutCanon (execConstantBankLoad die core s) := by
  unfold execConstantBankLoad
  refine if_keeps h (dispOut_canon h ?_)
  refine Gives.bind (dispLine_canon h.1) fun _ h2 => ?_
  dsimp only
  split
  · dsimp only [Gives]
    split
    · exact reportInst_canon (modCore_canon h2 fun _ h => h)
    · exact modCore_canon h2 fun _ h => h
  · exact modCore_canon h2 fun _ h => h

theorem killOrSave_canon {c g} {n : NodeRun} (h : m.Canon) : (killOrSave m c g n).Canon := decideNode_canon h

theorem decideVictim_canon {c g} {n : NodeRun} (h : m.Canon) : (decideVictim m c g n).Canon :=
  if_keeps h (if_keeps (modNode_canon h fun _ h => h) (killOrSave_canon h))

theorem preempt_canon {i : Instance} {n : NodeRun} {level use free need} (h : m.Canon) :
    (preempt m i n level use free need).Canon := by
  unfold preempt
  refine if_keeps h ?_
  refine foldl_keeps (fun _ h _ => decideVictim_canon h) ?_
  exact modNode_canon (modInst_canon h fun _ h => h) fun _ h => h

theorem performCoreless_canon {i : Instance} {n : NodeRun} (h : m.Canon) :
    Gives (fun _ => True) Module.Canon (performCoreless m i n) := by
  unfold performCoreless
  dsimp only
  split
  · refine Gives.bind (dispSignal_canon (unpool_canon h)) fun _ h2 => completeNode_canon ?_
    split
    · exact reportInst_canon h2
    · exact h2
  · exact completeNode_canon (unpool_canon h)
  · refine Gives.bind (dispRead_canon (unpool_canon h)) fun _ h4 => ?_
    split
    · exact failNode_canon h4
    · exact completeNode_canon (if_keeps (modInst_canon h4 fun _ h => h) h4)

theorem dispatchCopy_canon {i : Instance} {n : NodeRun} (h : m.Canon) : (dispatchCopy m i n).Canon := by
  unfold dispatchCopy
  refine if_keeps (stopChain_canon (setChain_canon (modNode_canon (unpool_canon h) (fun _ h => h)))) ?_
  refine if_keeps (stopChain_canon (setChain_canon (modNode_canon (unpool_canon h) (fun _ h => h)))) ?_
  refine if_keeps (stopChain_canon (setChain_canon (modNode_canon (unpool_canon h) (fun _ h => h)))) ?_
  split
  · exact stopChain_canon (setChain_canon (modNode_canon (unpool_canon h) fun _ h => h))
  · exact startChain_canon (modNode_canon (unpool_canon h) fun _ h => h)

theorem entryNode_canon {e} (h : m.Canon) : Finds (fun r => r.2.Canon) (entryNode m e) := by
  unfold entryNode
  split
  · next e => exact (findNode_canon h).some e
  · trivial

theorem scanPool_canon {d es} (h : m.Canon) : Gives (fun _ => True) Module.Canon (scanPool d es m) := by
  induction es generalizing m with
  | nil => exact h
  | cons e es ih =>
    unfold scanPool
    split
    · exact ih h
    · next i n e =>
      have hn : n.Canon := (entryNode_canon h).some e
      dsimp only
      split
      · refine if_keeps (failNode_canon (unpool_canon h)) ?_
        refine if_keeps (placeNode_canon h hn) ?_
        exact ih (then_keeps (if_keeps (modDie_canon h) h) fun h => preempt_canon h)
      · exact if_keeps (dispatchCopy_canon h) (ih h)
      · exact performCoreless_canon h

theorem dropHead_canon {d} (h : m.Canon) : (dropHead m d).Canon := by
  unfold dropHead
  split
  · exact modNode_canon (modDie_canon h) fun _ h => h
  · exact h

theorem execDispatchTick_canon {die} (h : s.Canon) : OutCanon (execDispatchTick die s) :=
  dispOut_canon h (scanPool_canon (dropHead_canon h.1))

theorem execPoolAgeing_canon {die} (h : s.Canon) : OutCanon (execPoolAgeing die s) := ⟨modDie_canon h.1, h.2⟩

theorem execPoolOverflowEnter_canon {die} (h : s.Canon) : OutCanon (execPoolOverflowEnter die s) := by
  unfold execPoolOverflowEnter
  dsimp only [OutCanon]
  split
  · exact h
  · next e => exact ⟨(enterPool_canon h.1).some e, h.2⟩

theorem idleCore_canon {c : Core} (h : c.Canon) : (idleCore c).Canon := h

theorem forgetPager_canon {d c} (h : m.Canon) : (forgetPager m d c).Canon := modDie_canon h

theorem freeCore_canon {d c} (h : m.Canon) : (freeCore m d c).Canon :=
  setCore_canon (forgetPager_canon (modCtx_canon h)) (idleCore_canon (core_canon h))

theorem execJobEnd_canon {die core} (h : s.Canon) : OutCanon (execJobEnd die core s) := by
  unfold execJobEnd
  refine if_keeps h ?_
  refine ⟨?_, h.2⟩
  refine freeCore_canon ?_
  split
  · exact modNode_canon (closeRegion_canon (if_keeps (endLease_canon (leaveAll_canon h.1)) h.1)) fun _ h => h
  · exact closeRegion_canon (if_keeps (endLease_canon (leaveAll_canon h.1)) h.1)

theorem execNodeComplete_canon {ctx graph node} (h : s.Canon) :
    OutCanon (execNodeComplete ctx graph node s) := by
  unfold execNodeComplete
  split
  · exact h
  · refine dispOut_canon h ?_
    split
    · exact h.1
    · exact if_keeps h.1 (if_keeps (checkEnd_canon (dropNode_canon h.1)) (completeNode_canon h.1))
    · exact if_keeps (completeNode_canon h.1) (if_keeps (checkEnd_canon (dropNode_canon h.1)) h.1)

/-! ### Pre-emption -/

theorem execDrainExpire_canon {ctx graph node} (h : s.Canon) :
    OutCanon (execDrainExpire ctx graph node s) := by
  unfold execDrainExpire
  dsimp only [OutCanon]
  split
  · split
    · exact if_keeps ⟨killOrSave_canon h.1, h.2⟩ h
    · exact h
  · exact h

theorem savedCore_canon {x : Core} (h : x.Canon) : (savedCore x).Canon := h

theorem saveJob_core_canon {d c} (h : m.Canon) : (saveJob m d c).1.Canon :=
  savedCore_canon (core_canon (foldl_keeps (fun _ h _ => unissue_canon (withdraw_canon h)) h))

theorem saveJob_canon {d c} (h : m.Canon) : (saveJob m d c).2.2.Canon := by
  unfold saveJob
  exact setCore_canon (holdBits_canon
      (forgetPager_canon (afterRelease_canon
      (foldl_keeps (fun _ h _ => unissue_canon (withdraw_canon h)) h))))
      (idleCore_canon (core_canon (holdBits_canon
      (forgetPager_canon (afterRelease_canon
      (foldl_keeps (fun _ h _ => unissue_canon (withdraw_canon h)) h))))))

/-- The cores that a checkpoint has saved so far, and the module. -/
def SavedCanon (r : List Core × List (List Chain) × Module) : Prop := (∀ c ∈ r.1, c.Canon) ∧ r.2.2.Canon

theorem SavedCanon.snoc {cs : List Core} {ks ks'} {x : Core} {n : Module} (h : SavedCanon (cs, ks, m))
    (hx : x.Canon) (hn : n.Canon) :
    SavedCanon (cs ++ [x], ks', n) := by
  refine ⟨fun c hc => ?_, hn⟩
  rcases List.mem_append.1 hc with hc | hc
  · exact h.1 c hc
  · exact List.mem_singleton.1 hc ▸ hx

theorem execCheckpointSave_canon {ctx graph node} (h : s.Canon) :
    OutCanon (execCheckpointSave ctx graph node s) := by
  unfold execCheckpointSave
  change State.Canon _
  split
  · split
    · refine if_keeps h ?_
      extract_lets r
      have hr : SavedCanon r := foldl_keeps
        (fun a ha c => ha.snoc (saveJob_core_canon (c := c) ha.2) (saveJob_canon (c := c) ha.2))
        ⟨fun _ hc => (nomatch hc), h.1⟩
      exact h.withM (backToPool_canon (modNode_canon hr.2 fun _ _ => hr.1))
    · exact h
  · exact h

theorem execNpreExpire_canon {die core} (h : s.Canon) : OutCanon (execNpreExpire die core s) := by
  unfold execNpreExpire
  dsimp only [OutCanon]
  split
  · exact if_keeps ⟨closeRegion_canon (sendEvent_canon h.1), h.2⟩ h
  · exact h

theorem execThermalStep_canon {die cluster hot} (h : s.Canon) :
    OutCanon (execThermalStep die cluster hot s) := ⟨modCluster_canon h.1, h.2⟩

theorem migrateNode_canon {d k} {i : Instance} {n : NodeRun} (h : m.Canon) :
    (migrateNode m d k i n).Canon := by
  unfold migrateNode
  refine if_keeps h (decideNode_canon ?_)
  split
  · exact sendEvent_canon h
  · exact h

theorem migrateCluster_canon {d k} (h : m.Canon) : (migrateCluster m d k).Canon :=
  foldl_keeps (fun _ h _ => migrateNode_canon h) h

/-! ### Recovery -/

theorem modSaved_canon {c g} {n : NodeRun} {k} {f : Core → Core} (h : m.Canon)
    (hf : ∀ x, x.Canon → (f x).Canon) :
    (modSaved m c g n k f).Canon := by
  refine modNode_canon h fun x hx y hy => ?_
  obtain ⟨j, hj⟩ := List.mem_iff_getElem?.1 hy
  rw [List.getElem?_modify] at hj
  obtain ⟨z, hz, rfl⟩ := Option.map_eq_some_iff.1 hj
  have hz := hx z (List.mem_of_getElem? hz)
  exact if_keeps (hf z hz) hz

theorem disposeStream_canon {here : Module → Who → Module} {out : Core → StreamName → Core} (h : s.Canon)
    (hh : ∀ w, (here s.m w).Canon) (ho : ∀ x q, x.Canon → (out x q).Canon) :
    OutCanon (disposeStream s here out) := by
  unfold disposeStream
  split
  · exact answer_canon h h.1
  · split
    · exact if_keeps (answer_canon h (hh _)) (answer_canon h h.1)
    · exact if_keeps (answer_canon h (modSaved_canon h.1 fun _ h => ho _ _ h)) (answer_canon h h.1)
    · exact answer_canon h h.1
    · exact answer_canon h h.1

theorem setStatus_canon {x : Core} {q t} (h : x.Canon) : (setStatus x q t).Canon := setStream_canon h

theorem skipBundle_canon {x : Core} {q} (h : x.Canon) : (skipBundle x q).Canon :=
  setStream_canon (if_keeps (shiftScales_canon h) h)

theorem execDisposeReplay_canon (h : s.Canon) : OutCanon (execDisposeReplay s) := by
  unfold execDisposeReplay
  refine disposeStream_canon h (fun _ => modCore_canon h.1 fun _ h => setStatus_canon h) fun _ _ h => ?_
  exact setStatus_canon h

theorem execDisposeNext_canon (h : s.Canon) : OutCanon (execDisposeNext s) := by
  unfold execDisposeNext
  refine disposeStream_canon h (fun _ => modCore_canon h.1 fun _ h => skipBundle_canon h) fun _ _ h => ?_
  exact skipBundle_canon h

theorem execDisposeFail_canon (h : s.Canon) : OutCanon (execDisposeFail s) :=
  disposeStream_canon h (fun _ => failJob_canon h.1) fun _ _ h => setStatus_canon h

theorem disposeChain_canon {f : Module → ChainId → Module} (h : s.Canon) (hf : ∀ i, (f s.m i).Canon) :
    OutCanon (disposeChain s f) := by
  unfold disposeChain
  split
  · exact answer_canon h h.1
  · exact answer_canon h h.1
  · exact if_keeps (answer_canon h (hf _)) (answer_canon h h.1)

theorem execDisposeChainReplay_canon (h : s.Canon) : OutCanon (execDisposeChainReplay s) :=
  disposeChain_canon h fun _ => modChain_canon h.1

theorem execDisposeChainStop_canon (h : s.Canon) : OutCanon (execDisposeChainStop s) :=
  disposeChain_canon h fun _ => endStopped_canon h.1

theorem execReadrec_canon (h : s.Canon) : OutCanon (execReadrec s) := by
  unfold execReadrec
  refine if_keeps ?_ ?_
  · split
    · exact answer_canon h (hostWrite_canon h.1)
    · split
      · exact answer_canon h (hostWrite_canon h.1)
      · exact answer_canon h h.1
  · split
    · exact answer_canon h (hostWrite_canon h.1)
    · exact answer_canon h (hostWrite_canon h.1)
    · exact answer_canon h h.1

theorem execEvring_canon (h : s.Canon) : OutCanon (execEvring s) :=
  if_keeps (answer_canon h h.1) (answer_canon h h.1)

theorem execResync_canon (h : s.Canon) : OutCanon (execResync s) := answer_canon h (hostWrite_canon h.1)

/-! ### Stacked lines and freezes -/

theorem setBus_canon {p b} (h : m.Canon) : (setBus m p b).Canon := modDie_canon h

theorem pushBlog_canon {p e} (h : m.Canon) : (pushBlog m p e).Canon := modDie_canon h

theorem pushArray_canon {p kind sym} (h : m.Canon) : (pushArray m p kind sym).Canon := modDie_canon h

theorem retireBank_canon {p c} (h : m.Canon) : (retireBank m p c).Canon :=
  if_keeps h (sendEvent_canon (pushArray_canon (modDie_canon h)))

theorem retireBus_canon {p} (h : m.Canon) : (retireBus m p).Canon :=
  foldl_keeps (fun _ h _ => retireBank_canon h) (sendEvent_canon (pushBlog_canon (setBus_canon h)))

theorem swapWires_canon {p ws} (h : m.Canon) : (swapWires m p ws).1.Canon := by
  induction ws generalizing m with
  | nil => exact h
  | cons w ws ih =>
    unfold swapWires
    exact ih (pushBlog_canon (setBus_canon h))

theorem repair_canon {p found} (h : m.Canon) : (repair m p found).1.Canon := by
  unfold repair
  generalize freeSpares (busOf m p) = free
  generalize failing found = ws
  dsimp only
  split
  · exact pushBlog_canon h
  · split
    · exact sendEvent_canon (swapWires_canon h)
    · split
      · exact retireBus_canon h
      · exact sendEvent_canon (pushBlog_canon (setBus_canon h))

theorem cross_canon {p reps cs ws} (h : m.Canon) : (cross p reps cs ws m).1.Canon := by
  delta cross Nat.brecOn Nat.brecOn.go cross._f
  induction reps generalizing cs ws m with
  | zero =>
    simp only [Nat.rec_zero]
    rcases transfers 3 cs with ⟨_ | _, n, cs'⟩
    · exact retireBus_canon (countRetries_canon h)
    · exact if_keeps h (pushBlog_canon (countRetries_canon h))
  | succ r ih =>
    dsimp only at ih ⊢
    rcases transfers 3 cs with ⟨_ | _, n, cs'⟩
    · have hr := repair_canon (p := p) (found := ws.headD []) (countRetries_canon (d := p.die) (n := n) h)
      dsimp only
      generalize repair (countRetries m p.die n) p (ws.headD []) = u at hr ⊢
      rcases u with ⟨m', _ | _⟩
      · exact hr
      · exact ih hr
    · exact if_keeps h (pushBlog_canon (countRetries_canon h))

theorem dropRequest_canon {w} (h : m.Canon) : (dropRequest m w).Canon :=
  foldl_keeps (fun _ h _ => modRouter_canon h) h

theorem failLine_canon {u code} (h : m.Canon) : (failLine m u code).Canon := by
  unfold failLine
  split
  · exact h
  · exact if_keeps (takeTrap_canon h) h
  · split
    · exact failAtomic_canon (dropRequest_canon h)
    · exact h
  · exact if_keeps (stopChain_canon h) h

theorem lastingError_canon {p} (h : m.Canon) : (lastingError m p).Canon :=
  then_keeps (modDie_canon h) fun h => retireBank_canon h

theorem execStackedLineRead_canon {addr f} (h : s.Canon) : OutCanon (execStackedLineRead addr f s) := by
  unfold execStackedLineRead
  dsimp only [OutCanon]
  split
  · exact h
  · refine h.withM ?_
    split
    · next e => exact failLine_canon (Canon.fst (cross_canon h.1) e)
    · next n e =>
      have hn : n.Canon := Canon.fst (cross_canon h.1) e
      refine if_keeps (failLine_canon (pushArray_canon hn)) ?_
      split
      · exact hn
      · exact pushArray_canon hn
      · exact lastingError_canon (pushArray_canon hn)
      · next p _ _ _ _ =>
        have hp : (pushArray n p 3 127).Canon := pushArray_canon hn
        exact failLine_canon hp

theorem execStackedLineWrite_canon {addr data f} (h : s.Canon) :
    OutCanon (execStackedLineWrite addr data f s) := by
  unfold execStackedLineWrite
  dsimp only [OutCanon]
  split
  · exact h
  · refine ⟨?_, h.2⟩
    split
    · next e => exact failLine_canon (Canon.fst (cross_canon h.1) e)
    · next e => exact writeLoc_canon (Canon.fst (cross_canon h.1) e)

theorem execBankRetiredByHeat_canon {die stack layer bank} (h : s.Canon) :
    OutCanon (execBankRetiredByHeat die stack layer bank s) := ⟨retireBank_canon h.1, h.2⟩

theorem execScratchpadFreeze_canon {e} (h : s.Canon) : OutCanon (execScratchpadFreeze e s) :=
  ⟨modDie_canon h.1, h.2⟩

theorem execFreezeExpire_canon {d} (h : s.Canon) : OutCanon (execFreezeExpire d s) := by
  unfold execFreezeExpire
  dsimp only [OutCanon]
  split
  · exact if_keeps ⟨modDie_canon h.1, h.2⟩ h
  · exact h

/-! ### Compares, predicates and tiles -/

theorem mTile_canon {i o t pred} {f : State → Except Stop (List Nat × Flags × State)} (h : s.Canon)
    (hf : Gives Stop.Canon (fun r => r.2.2.Canon) (f s)) :
    OutCanon (mTile i o t pred f s) := by
  unfold mTile
  refine slot_canon h ?_
  refine if_keeps trapAt_canon ?_
  exact Gives.bind hf fun _ h2 => Gives.bind (writeTile_canon h2) fun _ h => addFlags_canon h

theorem cmpOp_canon {i o f} (h : s.Canon) : OutCanon (cmpOp i o f s) := by
  unfold cmpOp
  refine slot_canon h ?_
  exact if_keeps (Gives.bind (fetch_canon h) fun _ h2 => Gives.bind (fetch_canon h2) fun _ h => addFlags_canon
      (setScal_canon h)) (if_keeps trapAt_canon
      (Gives.bind (fetch_canon h) fun _ h6 => Gives.bind (fetch_canon h6) fun _ h => addFlags_canon
      (writeMask_canon h)))

theorem maskOp_canon {i o f} (h : s.Canon) : OutCanon (maskOp i o f s) := by
  unfold maskOp
  refine slot_canon h ?_
  exact Gives.bind (fetch_canon h) fun _ h2 => Gives.bind (fetch_canon h2) fun _ h => writeMask_canon h

theorem redSource_canon {o} (h : s.Canon) : Gives Stop.Canon (fun r => r.2.Canon) (redSource o s) :=
  Gives.map (fetch_canon h) fun _ h => h

theorem redOp_canon {i o f ext} (h : s.Canon) : OutCanon (redOp i o f ext s) := by
  unfold redOp
  refine slot_canon h ?_
  refine if_keeps trapAt_canon ?_
  refine Gives.bind (redSource_canon h) fun _ h2 => ?_
  refine if_keeps (addFlags_canon (setScal_canon h2)) ?_
  exact Gives.bind (writeTile_canon h2) fun _ h => addFlags_canon h

theorem execIcmp_canon {o} (h : s.Canon) : OutCanon (execIcmp o s) := cmpOp_canon h

theorem execFcmp_canon {o} (h : s.Canon) : OutCanon (execFcmp o s) := cmpOp_canon h

theorem execSel_canon {o} (h : s.Canon) : OutCanon (execSel o s) := by
  unfold execSel
  refine mTile_canon h ?_
  refine Gives.bind (fetch_canon h) fun _ h2 => ?_
  exact Gives.bind (fetch_canon h2) fun _ h4 => Gives.bind (fetch_canon h4) fun _ h => h

theorem execPand_canon {o} (h : s.Canon) : OutCanon (execPand o s) := maskOp_canon h

theorem execPor_canon {o} (h : s.Canon) : OutCanon (execPor o s) := maskOp_canon h

theorem execPxor_canon {o} (h : s.Canon) : OutCanon (execPxor o s) := maskOp_canon h

theorem execPnot_canon {o} (h : s.Canon) : OutCanon (execPnot o s) := maskOp_canon h

theorem execPcnt_canon {o} (h : s.Canon) : OutCanon (execPcnt o s) :=
  slot_canon h (Gives.bind (fetch_canon h) fun _ h => setScal_canon h)

theorem execRsum_canon {o} (h : s.Canon) : OutCanon (execRsum o s) := redOp_canon h

theorem execRsqs_canon {o} (h : s.Canon) : OutCanon (execRsqs o s) := redOp_canon h

theorem execRmax_canon {o} (h : s.Canon) : OutCanon (execRmax o s) := redOp_canon h

theorem execRmin_canon {o} (h : s.Canon) : OutCanon (execRmin o s) := redOp_canon h

theorem execRmxa_canon {o} (h : s.Canon) : OutCanon (execRmxa o s) := redOp_canon h

theorem execRmxaBlk_canon {o} (h : s.Canon) : OutCanon (execRmxaBlk o s) :=
  slot_canon h (if_keeps trapAt_canon (Gives.bind (fetch_canon h) fun _ h => writeTile_canon h))

theorem execRscn_canon {o} (h : s.Canon) : OutCanon (execRscn o s) :=
  mTile_canon h (Gives.bind (redSource_canon h) fun _ h => h)

theorem execArgm_canon {o} (h : s.Canon) : OutCanon (execArgm o s) := redOp_canon h

theorem execTopk_canon {o} (h : s.Canon) : OutCanon (execTopk o s) := by
  unfold execTopk
  refine slot_canon h ?_
  refine if_keeps trapAt_canon ?_
  refine Gives.bind (redSource_canon h) fun _ h2 => ?_
  refine Gives.bind (fetch64_canon h2) fun _ _ => ?_
  refine Gives.bind (writeTile_canon h2) fun _ h6 => ?_
  exact Gives.bind (writeTile_canon h6) fun _ h => addFlags_canon h

theorem execTrns_canon {o} (h : s.Canon) : OutCanon (execTrns o s) :=
  mTile_canon h (Gives.bind (fetch_canon h) fun _ h => h)

theorem execBcst_canon {o} (h : s.Canon) : OutCanon (execBcst o s) :=
  mTile_canon h (Gives.bind (fetch_canon h) fun _ h => Gives.bind (fetch64_canon h) fun _ _ => h)

theorem execShuf_canon {o} (h : s.Canon) : OutCanon (execShuf o s) :=
  mTile_canon h (Gives.bind (fetch_canon h) fun _ h2 => Gives.bind (fetch_canon h2) fun _ h => h)

theorem execVext_canon {o} (h : s.Canon) : OutCanon (execVext o s) := by
  unfold execVext
  refine slot_canon h ?_
  refine if_keeps trapAt_canon ?_
  exact Gives.bind (fetch_canon h) fun _ h => Gives.bind (fetch64_canon h) fun _ _ => setScal_canon h

theorem execVins_canon {o} (h : s.Canon) : OutCanon (execVins o s) := by
  unfold execVins
  refine mTile_canon h ?_
  refine Gives.bind (fetch_canon h) fun _ h2 => ?_
  exact Gives.bind (fetch_canon h2) fun _ h => Gives.bind (fetch64_canon h) fun _ _ => h

theorem execIota_canon {o} (h : s.Canon) : OutCanon (execIota o s) := by
  unfold execIota
  refine slot_canon h ?_
  refine if_keeps trapAt_canon ?_
  refine Gives.bind (fetch_canon h) fun _ h2 => ?_
  exact Gives.bind (fetch_canon h2) fun _ h4 => Gives.bind (writeTile_canon h4) fun _ h => addFlags_canon h

/-! ### Special functions -/

theorem specOp_canon {i o fn} (h : s.Canon) : OutCanon (specOp i o fn s) :=
  if_keeps (elemOp_canon h) (slot_canon h (jetOp_canon h))

theorem execFsmx_canon {o} (h : s.Canon) : OutCanon (execFsmx o s) := by
  unfold execFsmx
  refine slot_canon h ?_
  refine if_keeps trapAt_canon ?_
  exact if_keeps (Gives.bind (P := fun r : List Val × State => r.2.Canon)
      (Gives.map (fetch_canon h) fun _ h => h) fun _ h4 => if_keeps
      (Gives.bind (writeTile_canon h4) fun _ h => addFlags_canon h) (writeJet_canon h4))
      (Gives.bind (jetSrc_canon h) fun _ h8 => if_keeps
      (Gives.bind (writeTile_canon h8) fun _ h => addFlags_canon h) (writeJet_canon h8))

theorem execFexp_canon {o} (h : s.Canon) : OutCanon (execFexp o s) := specOp_canon h

theorem execFexp2_canon {o} (h : s.Canon) : OutCanon (execFexp2 o s) := specOp_canon h

theorem execFlog_canon {o} (h : s.Canon) : OutCanon (execFlog o s) := specOp_canon h

theorem execFlog2_canon {o} (h : s.Canon) : OutCanon (execFlog2 o s) := specOp_canon h

theorem execFrcp_canon {o} (h : s.Canon) : OutCanon (execFrcp o s) := specOp_canon h

theorem execFsqt_canon {o} (h : s.Canon) : OutCanon (execFsqt o s) := specOp_canon h

theorem execFrsq_canon {o} (h : s.Canon) : OutCanon (execFrsq o s) := specOp_canon h

theorem execFtnh_canon {o} (h : s.Canon) : OutCanon (execFtnh o s) := specOp_canon h

theorem execFsig_canon {o} (h : s.Canon) : OutCanon (execFsig o s) := specOp_canon h

theorem execFglu_canon {o} (h : s.Canon) : OutCanon (execFglu o s) := specOp_canon h

theorem execFsin_canon {o} (h : s.Canon) : OutCanon (execFsin o s) := specOp_canon h

theorem execFcos_canon {o} (h : s.Canon) : OutCanon (execFcos o s) := specOp_canon h

/-! ### Passes -/

theorem passLoop_canon {p ctx die} {core : Option (Fin 128)} {d consts n i fl} (h : m.Canon) :
    (passLoop p ctx die core d consts n i fl m).1.Canon := by
  induction n generalizing i fl m with
  | zero => exact h
  | succ n ih =>
    unfold passLoop
    split
    · exact h
    · next e =>
      have hl := (loadLocal_canon h).ok e
      dsimp only
      split
      · exact hl
      · next e => exact ih ((storeLocal_canon hl).ok e)

theorem execChn_canon {o} (h : s.Canon) : OutCanon (execChn o s) := by
  unfold execChn
  refine slot_canon h (if_keeps trapAt_canon (if_keeps waiting_canon ?_))
  refine Gives.bind alignTest_canon fun _ _ => Gives.bind (memLoad_canon h) fun _ hm => ?_
  refine if_keeps trapAt_canon (Gives.bind slotGrant_canon fun _ _ => ?_)
  split
  · exact accStop_canon
  · refine if_keeps waiting_canon (Gives.bind releaseTest_canon fun _ _ => ?_)
    refine jobReleased_canon (stateModM_canon hm fun _ h => ?_)
    dsimp only
    exact modCluster_canon (captureSlot_canon h)

theorem execPassComplete_canon {die cluster} (h : s.Canon) : OutCanon (execPassComplete die cluster s) := by
  unfold execPassComplete
  change State.Canon _
  split
  · exact h
  · next p ps _ =>
    extract_lets d core drop
    have hd : ∀ m, m.Canon → (drop m).Canon := fun _ h => modCluster_canon h
    clear_value drop
    split
    next n fl _ o e =>
    have hn : n.Canon := Canon.fst (passLoop_canon h.1) e
    extract_lets r
    have hr : Gives (fun e => e.1.Canon) Module.Canon r := by
      unfold r
      split
      · exact hn
      · split
        · exact hn
        · next e => exact (storeLocal_canon hn).ok e
    clear_value r
    split
    · exact h.withM (deliverTo_canon (hd _ hr))
    · exact h
    · refine h.withM (deliverTo_canon (hd _ ?_))
      split
      · exact pushAlog_canon hr
      · exact hr

theorem pasStart_canon {r i} (h : m.Canon) : Gives ChStop.Canon Module.Canon (pasStart r m i) := by
  unfold pasStart
  refine Gives.bind (readDesc_canon h) fun _ h2 => if_keeps chIllegal_canon ?_
  split
  · exact chTrap_canon
  · split
    · exact chIllegal_canon
    · exact if_keeps trivial (Gives.bind (fire_canon h2) fun _ h => keepDesc_canon h)

theorem pasRun_canon {r i} (h : m.Canon) : Gives ChStop.Canon Module.Canon (pasRun r m i) := by
  unfold pasRun
  extract_lets k d i0 consts
  split
  next n fl t o e =>
  have hn : n.Canon := Canon.fst (passLoop_canon h) e
  extract_lets n'
  have hn' : n'.Canon := modChain_canon hn
  clear_value n'
  cases o with
  | some x => exact chStopped_canon hn' chAcc_canon
  | none =>
    have hw : Gives ChStop.Canon Module.Canon
        (withStatus t (chStore n' i none (recDesc r + 24) (passStatus fl))) := withStatus_canon (chStore_canon hn')
    generalize withStatus t _ = w at hw ⊢
    cases w with
    | error e => exact chStopped_canon hn' hw
    | ok m => exact performed_canon hw

theorem execPas_canon {r} (h : s.Canon) : OutCanon (execPas r s) :=
  command_canon h (pasStart_canon h.1) (pasRun_canon h.1)

/-! ### Lists of the Zither -/

theorem zStop_canon {code addr status} : Gives (fun _ => True) P (zStop code addr status : ZM α) := trivial

theorem zLoad_canon {q status a n} (h : m.Canon) :
    Gives (fun _ => True) (fun r => r.2.Canon) (zLoad q m status a n) := by
  unfold zLoad
  split
  · next e =>
      refine Gives.at_ok (E := fun x => True) (P := fun r => r.2.Canon) e ?_
      exact underTables_canon h fun _ h => loadDev_canon h
  · trivial

theorem zStore_canon {q status a bs} (h : m.Canon) :
    Gives (fun _ => True) Module.Canon (zStore q m status a bs) := by
  unfold zStore
  split
  · next e =>
      refine Gives.at_ok (E := fun x => True) (P := fun r => r.2.Canon) e ?_
      exact underTables_canon h fun _ h4 => Gives.map (storeDev_canon h4) fun _ h => h
  · trivial

theorem putHeader_canon {q a u} (h : m.Canon) : Gives (fun _ => True) Module.Canon (putHeader q m a u) :=
  zStore_canon h

theorem walkList_canon {q n a} (h : m.Canon) :
    Gives (fun _ => True) (fun r => r.2.Canon) (walkList q n m a) := by
  induction n generalizing m a with
  | zero => trivial
  | succ n ih =>
    unfold walkList
    refine if_keeps zStop_canon ?_
    refine Gives.bind (zLoad_canon h) fun _ h2 => ?_
    exact if_keeps zStop_canon (if_keeps h2 (Gives.bind (ih h2) fun _ h => h))

theorem listAt_canon {q head} (h : m.Canon) : Gives (fun _ => True) (fun r => r.2.Canon) (listAt q m head) :=
  walkList_canon h

theorem getCount_canon {q status block} (h : m.Canon) :
    Gives (fun _ => True) (fun r => r.2.Canon) (getCount q m status block) :=
  Gives.bind (zLoad_canon h) fun _ h => h

theorem setCount_canon {q status block v} (h : m.Canon) :
    Gives (fun _ => True) Module.Canon (setCount q m status block v) := zStore_canon h

theorem incCount_canon {q status block} (h : m.Canon) :
    Gives (fun _ => True) Module.Canon (incCount q m status block) := by
  unfold incCount
  refine Gives.bind (getCount_canon h) fun _ h => ?_
  exact if_keeps (setCount_canon (nextFresh_canon h)) (setCount_canon h)

theorem takeFree_canon {status free} (h : m.Canon) :
    Gives (fun _ => True) (fun r => r.2.2.Canon) (takeFree m status free) :=
  if_keeps trivial (nextFresh_canon h)

theorem takeHeader_canon {q status} (h : m.Canon) :
    Gives (fun _ => True) (fun r => r.2.Canon) (takeHeader q m status) :=
  Gives.bind (takeFree_canon h) fun _ h => stackTouch_canon (setZither_canon h)

theorem takeBlock_canon {q status} (h : m.Canon) :
    Gives (fun _ => True) (fun r => r.2.Canon) (takeBlock q m status) :=
  Gives.bind (takeFree_canon h) fun _ h => stackTouch_canon (setZither_canon h)

theorem giveHeader_canon {q a} (h : m.Canon) : (giveHeader q m a).Canon :=
  stackTouch_canon (setZither_canon h)

theorem giveBlock_canon {q a} (h : m.Canon) : (giveBlock q m a).Canon := stackTouch_canon (setZither_canon h)

theorem decCount_canon {q status block} (h : m.Canon) :
    Gives (fun _ => True) Module.Canon (decCount q m status block) := by
  unfold decCount
  refine Gives.bind (getCount_canon h) fun _ h2 => ?_
  exact if_keeps zStop_canon (Gives.bind (setCount_canon h2) fun _ h => if_keeps (giveBlock_canon h) h)

theorem buildPool_canon {c z} (h : m.Canon) : (buildPool m c z).Canon := by
  unfold buildPool
  split
  · exact h
  · exact stackBuild_canon (setZither_canon h)

theorem appendToken_canon {q head dh rec_} (h : m.Canon) :
    Gives (fun _ => True) Module.Canon (appendToken q m head dh rec_) := by
  unfold appendToken
  refine Gives.bind (listAt_canon h) fun _ h2 => ?_
  exact Gives.bind (P := fun r : ℕ × ℕ × Module => r.2.2.Canon)
      (if_keeps (Gives.bind (takeHeader_canon h2) fun _ h4 => Gives.bind (takeBlock_canon h4) fun _ h6 =>
      Gives.bind (setCount_canon h6) fun _ h8 => Gives.bind (putHeader_canon h8) fun _ h10 => Gives.bind
      (putHeader_canon h10) fun _ h => h) h2) fun _ h14 => Gives.bind (P := fun r : ℕ × Module => r.2.Canon)
      (if_keeps (Gives.bind (getCount_canon h14) fun _ h16 => Gives.bind
      (P := fun r : ℕ × Module => r.2.Canon)
      (if_keeps (Gives.bind (takeBlock_canon h16) fun _ h18 => Gives.bind (zLoad_canon h18) fun _ h20 =>
      Gives.bind (zStore_canon h20) fun _ h22 => Gives.bind (setCount_canon h22) fun _ h24 => Gives.bind
      (decCount_canon h24) fun _ h => h) h16) fun _ h28 => Gives.bind (putHeader_canon h28) fun _ h => h) h14)
      fun _ h32 => Gives.bind (zStore_canon h32) fun _ h => putHeader_canon h

theorem countsSuffice_canon {q status blocks} (h : m.Canon) :
    Gives (fun _ => True) Module.Canon (countsSuffice q m status blocks) :=
  foldlM_keeps (fun _ h2 _ => Gives.bind (getCount_canon h2) fun _ h => if_keeps zStop_canon h) h

theorem cutList_canon {q head n} (h : m.Canon) : Gives (fun _ => True) Module.Canon (cutList q m head n) := by
  unfold cutList
  refine Gives.bind (listAt_canon h) fun _ h2 => ?_
  refine if_keeps h2 ?_
  refine Gives.bind (countsSuffice_canon h2) fun _ h4 => ?_
  refine Gives.bind (putHeader_canon h4) fun _ h6 => ?_
  exact foldlM_keeps (fun _ h8 _ => Gives.bind (putHeader_canon h8) fun _ h => decCount_canon
      (giveHeader_canon h)) h6

theorem forkHeaders_canon {q n hs} (h : m.Canon) :
    Gives (fun _ => True) (fun r => r.2.Canon) (forkHeaders q n hs m) := by
  induction hs generalizing m with
  | nil => exact h
  | cons a hs ih =>
    unfold forkHeaders
    refine Gives.bind (ih h) ?_
    exact fun _ h2 => Gives.bind (takeHeader_canon h2) fun _ h4 => Gives.bind (incCount_canon h4) fun _ h6 =>
        Gives.bind (putHeader_canon h6) fun _ h => h

theorem forkList_canon {q head n} (h : m.Canon) :
    Gives (fun _ => True) (fun r => r.2.Canon) (forkList q m head n) :=
  Gives.bind (listAt_canon h) fun _ h => forkHeaders_canon h

theorem headerTokens_canon {q dh u} (h : m.Canon) :
    Gives (fun _ => True) (fun r => r.2.Canon) (headerTokens q dh m u) :=
  Gives.bind (zLoad_canon h) fun _ h => h

theorem zErr_canon {c} {r : ZM α} (hr : Gives (fun _ => True) P r) : Gives ChStop.Canon P (zErr m c r) := by
  unfold zErr
  split
  · exact hr
  · exact chAcc_canon

theorem zActorOf_canon {i} : Gives ChStop.Canon (fun _ => True) (zActorOf m i) := by
  unfold zActorOf
  dsimp only
  split
  · trivial
  · exact chAcc_canon

theorem zStart_canon {rows ok ins out r i} (h : m.Canon) :
    Gives ChStop.Canon Module.Canon (zStart rows ok ins out r m i) := by
  unfold zStart
  refine Gives.bind (readDesc_canon h) fun _ h2 => ?_
  exact if_keeps chIllegal_canon (Gives.bind (fire_canon h2) fun _ h => keepDesc_canon h)

theorem zChange_canon {start run : Module → ChainId → Except ChStop Module} (h : s.Canon)
    (hs : ∀ m i, m.Canon → Gives ChStop.Canon Module.Canon (start m i))
    (hr : ∀ m i, m.Canon → Gives ChStop.Canon Module.Canon (run m i)) :
    OutCanon (zChange s start run) := command_canon h ((hs _ _ h.1).bind fun _ h => hr _ _ h) (hr _ _ h.1)

theorem kapLoop_canon {q head dh ts k} (h : m.Canon) : (kapLoop q head dh ts k m).1.Canon := by
  induction ts generalizing k m with
  | nil => exact h
  | cons t ts ih =>
    unfold kapLoop
    split
    · next e => exact ih ((appendToken_canon h).ok e)
    · exact h

theorem kapRun_canon {r i} (h : m.Canon) : Gives ChStop.Canon Module.Canon (kapRun r m i) := by
  unfold kapRun
  refine Gives.bind (withStatus_canon zActorOf_canon) fun _ _ => ?_
  refine Gives.bind (withStatus_canon (chLoad_canon h)) fun _ h4 => ?_
  dsimp only
  split
  · exact chStopped_canon (modChain_canon (kapLoop_canon h4)) chAcc_canon
  · exact performed_canon (modChain_canon (kapLoop_canon h4))

theorem execKap_canon {r} (h : s.Canon) : OutCanon (execKap r s) :=
  zChange_canon h (fun _ _ h => zStart_canon h) fun _ _ h => kapRun_canon h

theorem ktrRun_canon {r i} (h : m.Canon) : Gives ChStop.Canon Module.Canon (ktrRun r m i) := by
  unfold ktrRun
  refine Gives.bind (withStatus_canon zActorOf_canon) fun _ _ => ?_
  exact Gives.bind (zErr_canon (cutList_canon h)) fun _ h => performed_canon (modChain_canon h)

theorem execKtr_canon {r} (h : s.Canon) : OutCanon (execKtr r s) :=
  zChange_canon h (fun _ _ h => zStart_canon h) fun _ _ h => ktrRun_canon h

theorem kfkRun_canon {r i} (h : m.Canon) : Gives ChStop.Canon Module.Canon (kfkRun r m i) := by
  unfold kfkRun
  refine Gives.bind (withStatus_canon zActorOf_canon) fun _ _ => ?_
  refine if_keeps (withStatus_canon chTrap_canon) ?_
  refine Gives.bind (zErr_canon (forkList_canon h)) fun _ h4 => ?_
  exact Gives.bind (withStatus_canon (chStore_canon h4)) fun _ h => performed_canon (modChain_canon h)

theorem execKfk_canon {r} (h : s.Canon) : OutCanon (execKfk r s) :=
  zChange_canon h (fun _ _ h => zStart_canon h) fun _ _ h => kfkRun_canon h

theorem atnRun_canon {r i} (h : m.Canon) : Gives ChStop.Canon Module.Canon (atnRun r m i) := by
  unfold atnRun
  refine Gives.bind (withStatus_canon zActorOf_canon) fun _ _ => ?_
  refine Gives.bind (withStatus_canon (chLoad_canon h)) fun _ h4 => ?_
  refine Gives.bind (withStatus_canon (chLoad_canon h4)) fun _ h6 => ?_
  refine Gives.bind (zErr_canon (listAt_canon h6)) fun _ h8 => ?_
  exact Gives.bind (zErr_canon (foldlM_keeps (fun _ h10 _ => Gives.bind (headerTokens_canon h10) fun _ h => h)
      h8)) fun _ h15 => Gives.bind (withStatus_canon (chStore_canon h15)) fun _ h => performed_canon
      (modChain_canon h)

theorem execAtn_canon {r} (h : s.Canon) : OutCanon (execAtn r s) :=
  command_canon h (zStart_canon h.1) (atnRun_canon h.1)

/-! ### Contexts -/

theorem saveGrant_canon {c ps} (h : m.Canon) : (saveGrant m c ps).Canon :=
  h.withPhys (Memory.wf_foldl _ _ _ (Memory.wf_filter _ h.1))

theorem clearGrant_canon {c} (h : m.Canon) : (clearGrant m c).Canon :=
  foldl_keeps (fun _ h _ => modDie_canon h) (h.withPhys (Memory.wf_filter _ h.1))

theorem restoreGrant_canon {c ps} (h : m.Canon) : (restoreGrant m c ps).Canon :=
  (clearGrant_canon h).withPhys (Memory.wf_foldl _ _ _ ((clearGrant_canon h).1))

theorem resetObjects_canon {c} (h : m.Canon) : (resetObjects m c).Canon :=
  foldl_keeps (fun _ h _ => modDie_canon h) h

theorem takeLaunches_canon {c n} (h : m.Canon) : (takeLaunches m c n).Canon := by
  induction n generalizing m with
  | zero => exact h
  | succ n ih =>
    unfold takeLaunches
    dsimp only
    split
    · exact h
    · exact ih (modDie_canon (removeTuple_canon h))

theorem Module.Canon.withCcbs {t} (h : m.Canon) : { m with ccbs := t }.Canon := h

theorem Module.Canon.withHeld {l} (h : m.Canon) : { m with held := l }.Canon := h

theorem execCtxload_canon (h : s.Canon) : OutCanon (execCtxload s) := by
  unfold execCtxload
  extract_lets words c area words block m0 m
  have hm : m.Canon := modCtx_canon (Module.Canon.withCcbs (m := m0) h.1)
  clear_value m
  refine if_keeps (answer_canon h h.1) ?_
  split
  · exact h
  · exact answer_canon h h.1
  · refine answer_canon h (takeLaunches_canon
      (foldl_keeps (fun _ h _ => buildPool_canon h) (modCtx_canon ?_)))
    exact (resetObjects_canon (restoreGrant_canon hm)).withHeld

theorem execCtxunload_canon (h : s.Canon) : OutCanon (execCtxunload s) := by
  unfold execCtxunload
  refine if_keeps (answer_canon h h.1) (if_keeps (answer_canon h h.1) ?_)
  split
  · exact h
  · exact answer_canon h h.1
  · exact answer_canon h (setCcb_canon (saveGrant_canon h.1))

theorem execCcbset_canon (h : s.Canon) : OutCanon (execCcbset s) :=
  if_keeps (answer_canon h h.1) (if_keeps (answer_canon h (setCcb_canon h.1)) (answer_canon h h.1))

theorem execWinset_canon (h : s.Canon) : OutCanon (execWinset s) := by
  unfold execWinset
  refine if_keeps (answer_canon h h.1) ?_
  split
  · next e => exact answer_canon h ((storeDev_canon h.1).ok e)
  · exact h
  · exact answer_canon h h.1

theorem execRemap_canon (h : s.Canon) : OutCanon (execRemap s) :=
  answer_canon h (setDie_canon (h.1.withPhys (Memory.wf_filter _ h.1.1)))

theorem execMigrate_canon (h : s.Canon) : OutCanon (execMigrate s) :=
  answer_canon h (migrateCluster_canon h.1)

theorem execMatchset_canon (h : s.Canon) : OutCanon (execMatchset s) := by
  unfold execMatchset
  dsimp only
  split
  · exact answer_canon h h.1
  · exact if_keeps (answer_canon h h.1) (answer_canon h (modPort_canon h.1))

theorem execParkset_canon (h : s.Canon) : OutCanon (execParkset s) := by
  unfold execParkset
  split
  · exact answer_canon h h.1
  · exact answer_canon h (modPort_canon h.1)

theorem execKeyset_canon (h : s.Canon) : OutCanon (execKeyset s) := by
  unfold execKeyset
  dsimp only
  split
  · exact answer_canon h h.1
  · exact if_keeps (answer_canon h h.1) (answer_canon h (rollKeys_canon (setPort_canon h.1)))

theorem execMcast_canon (h : s.Canon) : OutCanon (execMcast s) :=
  if_keeps (answer_canon h h.1) (if_keeps ⟨h.1, h.2⟩ (answer_canon h h.1))

theorem execAttest_canon (h : s.Canon) : OutCanon (execAttest s) :=
  if_keeps (answer_canon h h.1) (answer_canon h (hostWrite_canon (nextFresh_canon h.1)))

theorem execFusemin_canon (h : s.Canon) : OutCanon (execFusemin s) :=
  if_keeps (answer_canon h h.1) (answer_canon h h.1)

/-! ### The scrub -/

theorem raiseCore_canon {d} {x : Core} (hx : x.Canon) : (raiseCore m d x).Canon := by
  unfold raiseCore Core.Canon
  exact hx

theorem raiseNode_canon {d} {n : NodeRun} (hn : n.Canon) : (raiseNode m d n).Canon := by
  unfold raiseNode
  refine if_keeps (fun c hc => ?_) hn
  obtain ⟨x, hx, rfl⟩ := List.mem_map.1 hc
  exact raiseCore_canon (hn x hx)

theorem raiseInst_canon {d} {i : Instance} (hi : i.Canon) : (raiseInst m d i).Canon := by
  intro n hn
  obtain ⟨x, hx, rfl⟩ := List.mem_map.1 hn
  exact raiseNode_canon (hi x hx)

theorem raiseDie_canon {d} (h : m.Canon) : (raiseDie m d).Canon := by
  unfold raiseDie
  extract_lets f m1 m2 m3
  have h1 : m1.Canon := foldl_keeps (fun _ h _ => modCore_canon h fun _ h => raiseCore_canon h) h
  clear_value m1
  have h2 : m2.Canon := foldl_keeps (fun _ h _ => modCluster_canon h) h1
  clear_value m2
  have h3 : m3.Canon := by
    refine h2.withGraphs fun i hi => ?_
    obtain ⟨x, hx, rfl⟩ := List.mem_map.1 hi
    exact raiseInst_canon (h2.2.2.2 x hx)
  clear_value m3
  exact modDie_canon h3

theorem settleAll_canon {d} (h : m.Canon) : (settleAll m d).Canon :=
  foldl_keeps (fun _ h _ => settleSlot_canon h) h

theorem execScrubSweep_canon {die} (h : s.Canon) : OutCanon (execScrubSweep die s) :=
  ⟨settleAll_canon (raiseDie_canon (retireTags_canon h.1)), h.2⟩

theorem execDieReset_canon {die} (h : s.Canon) : OutCanon (execDieReset die s) := by
  unfold execDieReset
  exact ⟨modDie_canon (foldl_keeps (fun _ h2 _ => modCore_canon h2 fun _ h => h) (retireTags_canon h.1)), h.2⟩

/-! ### Sequence managers -/

theorem setReq_canon {d n} {r : Option SeqReq} (h : m.Canon) : (setReq m d n r).Canon := modDie_canon h

theorem openReq_canon {o} (h : s.Canon) : Gives Stop.Canon (fun _ => True) (openReq s o) := by
  unfold openReq
  refine Gives.bind (fetch64_canon h) fun _ _ => if_keeps trapAt_canon ?_
  split
  · exact trapAt_canon
  · exact if_keeps trivial trapAt_canon

theorem reqSync_canon {r} (h : s.Canon) : Gives Stop.Canon (fun r => r.2.Canon) (reqSync s r) :=
  Gives.bind releaseTest_canon fun _ _ => jobAcquire_canon (jobReleased_canon h)

theorem execSqtr_canon {o} (h : s.Canon) : OutCanon (execSqtr o s) := by
  unfold execSqtr
  refine slot_canon h (Gives.bind (openReq_canon h) fun _ _ => ?_)
  refine if_keeps trapAt_canon (Gives.bind alignTest_canon fun _ _ => ?_)
  refine Gives.bind (memLoad_canon h) fun _ h6 => if_keeps trapAt_canon ?_
  refine Gives.bind (memLoad_canon h6) fun _ h8 => ?_
  dsimp only
  split
  · exact trapAt_canon
  · refine Gives.bind (reqSync_canon h8) fun _ h10 => ?_
    exact setScal_canon (stateModM_canon h10 fun _ h => setReq_canon h)

theorem sampleRow_canon {key draws p full} (h : m.Canon) : (sampleRow m key draws p full).2.2.Canon := by
  unfold sampleRow
  extract_lets pick
  have hp : ∀ row, Finds (fun r : ℕ × ℕ × Module => r.2.2.Canon) (pick row) := by
    intro row
    exact if_keeps (nextFresh_canon h) (if_keeps trivial h)
  clear_value pick
  split
  · next e => exact (hp _).some e
  · split
    · next e => exact (hp _).some e
    · exact h

theorem correct_canon {r p full draws} (h : m.Canon) : (correct m r p full draws).2.2.Canon :=
  if_keeps (P := fun r : ℕ × ℕ × Module => r.2.2.Canon) (sampleRow_canon h) h

theorem judgeLoop_canon {r full draft fuel j} (h : m.Canon) :
    (judgeLoop r full draft m fuel j).2.2.Canon := by
  induction fuel generalizing j with
  | zero => exact h
  | succ fuel ih =>
    unfold judgeLoop
    extract_lets kids p
    split
    split
    · exact correct_canon h
    · extract_lets on j
      split
      · exact correct_canon h
      · exact ih

theorem readRows_canon {base stride vocab ks} (h : s.Canon) :
    Gives Stop.Canon (fun r => r.2.Canon) (readRows s base stride vocab ks) := by
  induction ks generalizing s with
  | nil => exact h
  | cons k ks ih =>
    unfold readRows
    refine Gives.bind alignTest_canon fun _ _ => ?_
    exact Gives.bind (memLoad_canon h) fun _ h4 => Gives.bind (ih h4) fun _ h => h

theorem cutChain_canon {r n} (h : s.Canon) : Gives Stop.Canon State.Canon (cutChain s r n) := by
  unfold cutChain
  dsimp only
  split
  · trivial
  · split
    · next e => exact ⟨(cutList_canon h.1).ok e, h.2⟩
    · exact accStop_canon

theorem execSqac_canon {o} (h : s.Canon) : OutCanon (execSqac o s) := by
  unfold execSqac
  refine slot_canon h (Gives.bind (openReq_canon h) fun _ _ => ?_)
  dsimp only
  split
  · exact trapAt_canon
  · refine Gives.bind alignTest_canon fun _ _ => ?_
    refine Gives.bind (memLoad_canon h) fun _ h6 => ?_
    refine if_keeps trapAt_canon ?_
    refine Gives.bind (readRows_canon h6) fun _ h8 => ?_
    exact Gives.bind (P := fun r : List (List ℕ) × State => r.2.Canon) (if_keeps (readRows_canon h8) h8) fun _
        h10 => Gives.bind (reqSync_canon ⟨judgeLoop_canon h10.1, h10.2⟩) fun _ h12 => Gives.bind
        (cutChain_canon h12) fun _ h14 => setScal_canon (stateModM_canon h14 fun _ h => setReq_canon h)

theorem execSqrb_canon {o} (h : s.Canon) : OutCanon (execSqrb o s) := by
  unfold execSqrb
  refine slot_canon h ?_
  refine Gives.bind (openReq_canon h) fun _ _ => ?_
  refine Gives.bind (fetch32_canon h) fun _ _ => ?_
  refine if_keeps trapAt_canon ?_
  exact Gives.bind (cutChain_canon h) fun _ h6 => stateModM_canon h6 fun _ h => setReq_canon h

theorem execSqpm_canon {o} (h : s.Canon) : OutCanon (execSqpm o s) := by
  unfold execSqpm
  refine slot_canon h ?_
  refine Gives.bind (openReq_canon h) fun _ _ => ?_
  refine Gives.bind alignTest_canon fun _ _ => ?_
  refine Gives.bind (memStore_canon h) fun _ h6 => ?_
  exact Gives.bind (reqSync_canon h6) fun _ h8 => setScal_canon (stateModM_canon h8 fun _ h => setReq_canon h)

theorem execSqrs_canon {o} (h : s.Canon) : OutCanon (execSqrs o s) := by
  unfold execSqrs
  refine slot_canon h (Gives.bind alignTest_canon fun _ _ => ?_)
  refine Gives.bind (memLoad_canon h) fun _ h4 => ?_
  dsimp only
  split
  · exact trapAt_canon
  · split
    · exact setScal_canon h4
    · refine Gives.bind (reqSync_canon h4) fun _ h6 => ?_
      exact setScal_canon (stateModM_canon h6 fun _ h => setReq_canon h)

theorem execSqst_canon {o} (h : s.Canon) : OutCanon (execSqst o s) := by
  unfold execSqst
  refine slot_canon h (Gives.bind (fetch64_canon h) fun _ _ => ?_)
  refine if_keeps trapAt_canon ?_
  split
  · exact setScal_canon h
  · exact if_keeps trapAt_canon (setScal_canon h)

/-! ### Special registers -/

theorem Core.Canon.withHandles {c : Core} {cb bufs} (h : c.Canon) : { c with cb := cb, bufs := bufs }.Canon := h

theorem execGetx_canon {o} (h : s.Canon) : OutCanon (execGetx o s) :=
  slot_canon h (if_keeps (setScal_canon h) trapAt_canon)

theorem writeHandle_canon {k v} (h : s.Canon) : Gives Stop.Canon State.Canon (writeHandle k v s) :=
  if_keeps trapAt_canon (stateModCore_canon h fun _ h => h.withHandles)

theorem writeUvec_canon {v} (h : s.Canon) : Gives Stop.Canon State.Canon (writeUvec v s) := by
  unfold writeUvec
  refine if_keeps trivial ?_
  exact Gives.bind (orStop_canon (translate_canon h.1)) fun _ h2 => stateModStrm_canon ⟨h2, h.2⟩

theorem specWrite_canon {n v} (h : s.Canon) : Gives Stop.Canon State.Canon (specWrite n v s) := by
  unfold specWrite
  refine if_keeps (if_keeps trapAt_canon (stateModStrm_canon h)) ?_
  refine if_keeps (stateModStrm_canon h) ?_
  refine if_keeps (stateModStrm_canon h) ?_
  refine if_keeps (stateModStrm_canon h) ?_
  refine if_keeps (stateModStrm_canon h) ?_
  refine if_keeps (writeUvec_canon h) ?_
  refine if_keeps (stateModStrm_canon h) ?_
  refine if_keeps (stateModCore_canon h fun _ h => h) ?_
  exact if_keeps (stateModCore_canon h fun _ h => h) (writeHandle_canon h)

theorem execSetx_canon {o} (h : s.Canon) : OutCanon (execSetx o s) :=
  slot_canon h (if_keeps trapAt_canon (Gives.bind (fetch64_canon h) fun _ _ => specWrite_canon h))

/-! ### Atomics and barriers -/

theorem performAtom_canon {r} (h : m.Canon) : (performAtom m r).2.Canon := by
  unfold performAtom
  refine if_keeps (P := fun r : ℕ × Module => r.2.Canon) (changeSignal_canon h) ?_
  refine if_keeps (P := fun r : ℕ × Module => r.2.Canon) (modDie_canon (h.withPhys (Memory.wf_write _ _ _ h.1))) ?_
  exact h.withPhys (Memory.wf_write _ _ _ h.1)

theorem replyTo_canon {w x} (h : m.Canon) : (replyTo m w x).Canon := if_keeps (modStrm_canon h) h

theorem atomicOp_canon {i o op t} {get : State → Except Stop (ℕ × ℕ)} (h : s.Canon)
    (hg : Gives Stop.Canon (fun _ => True) (get s)) :
    OutCanon (atomicOp i o op t get s) := by
  unfold atomicOp
  refine slot_canon h ?_
  cases s.srcStrm.wait with
  | replied r k => exact jobAcquire_canon (setScal_canon h)
  | lost old a => trivial
  | atomic => exact parked_canon h
  | _ =>
    refine Gives.bind (fetch64_canon h) fun v _ => Gives.bind hg fun ⟨b, c⟩ _ => ?_
    refine if_keeps trivial (if_keeps trivial ?_)
    refine Gives.bind (orStop_canon (translate_canon h.1)) fun ⟨pa, n⟩ hn => ?_
    refine if_keeps waiting_canon (if_keeps (orStop_canon trivial) (if_keeps waiting_canon ?_))
    extract_lets counted req k
    have hc : ∀ m, m.Canon → (counted m).Canon := fun _ h => if_keeps (afterRelease_canon h) h
    clear_value counted req
    refine if_keeps ?_ (parkWith_canon h fun _ h => modStrm_canon (hc _ (modRouter_canon h)))
    exact jobAcquire_canon (setScal_canon (h.withM (hc _ (performAtom_canon hn))))

theorem srcB_canon {o} (h : s.Canon) : Gives Stop.Canon (fun _ => True) (srcB o s) :=
  Gives.bind (fetch_canon h) fun _ _ => trivial

theorem srcBC_canon {o} (h : s.Canon) : Gives Stop.Canon (fun _ => True) (srcBC o s) :=
  Gives.bind (fetch_canon h) fun _ _ => Gives.bind (fetch_canon h) fun _ _ => trivial

theorem execAfad_canon {o} (h : s.Canon) : OutCanon (execAfad o s) := atomicOp_canon h (srcB_canon h)

theorem execAfab_canon {o} (h : s.Canon) : OutCanon (execAfab o s) := atomicOp_canon h (srcBC_canon h)

theorem execAinw_canon {o} (h : s.Canon) : OutCanon (execAinw o s) := atomicOp_canon h (srcB_canon h)

theorem execAdcw_canon {o} (h : s.Canon) : OutCanon (execAdcw o s) := atomicOp_canon h (srcB_canon h)

theorem execAcas_canon {o} (h : s.Canon) : OutCanon (execAcas o s) := atomicOp_canon h (srcBC_canon h)

theorem execAswp_canon {o} (h : s.Canon) : OutCanon (execAswp o s) := atomicOp_canon h (srcB_canon h)

theorem execAmin_canon {o} (h : s.Canon) : OutCanon (execAmin o s) := atomicOp_canon h (srcB_canon h)

theorem execAmax_canon {o} (h : s.Canon) : OutCanon (execAmax o s) := atomicOp_canon h (srcB_canon h)

theorem execAand_canon {o} (h : s.Canon) : OutCanon (execAand o s) := atomicOp_canon h (srcB_canon h)

theorem execAor_canon {o} (h : s.Canon) : OutCanon (execAor o s) := atomicOp_canon h (srcB_canon h)

theorem execAfaf_canon {o} (h : s.Canon) : OutCanon (execAfaf o s) := atomicOp_canon h (srcB_canon h)

theorem execAfmx_canon {o} (h : s.Canon) : OutCanon (execAfmx o s) := atomicOp_canon h (srcB_canon h)

theorem execRouterCombine_canon {die} {cluster : Option (Fin 8)} (h : s.Canon) :
    OutCanon (execRouterCombine die cluster s) := ⟨modRouter_canon h.1, h.2⟩

theorem answerPart_canon {r old k} (h : m.Canon) : (answerPart m r old k).Canon := by
  unfold answerPart
  split
  · exact replyTo_canon (modRouter_canon h)
  · exact modRouter_canon h

theorem failPart_canon {r} (h : m.Canon) : (failPart m r).Canon :=
  foldl_keeps (fun _ h _ => failAtomic_canon h) (modRouter_canon h)

theorem applyAt_canon {r ps} (h : m.Canon) : (applyAt m r ps).Canon := by
  unfold applyAt
  split
  · exact h
  · refine if_keeps (foldl_keeps (fun _ h _ => failPart_canon h) h) ?_
    dsimp only
    split
    · exact answerPart_canon (performAtom_canon h)
    · exact modRouter_canon (performAtom_canon h)

theorem execAtomicApply_canon {die} {cluster : Option (Fin 8)} (h : s.Canon) :
    OutCanon (execAtomicApply die cluster s) := by
  unfold execAtomicApply
  dsimp only [OutCanon]
  split
  · split
    · exact if_keeps (if_keeps h ⟨applyAt_canon (setRouter_canon h.1), h.2⟩)
          ⟨modRouter_canon (modRouter_canon (setRouter_canon h.1)), h.2⟩
    · exact if_keeps h ⟨applyAt_canon (setRouter_canon h.1), h.2⟩
  · exact h

theorem losePart_canon {r old} (h : m.Canon) : (losePart m r old).Canon :=
  foldl_keeps (fun _ h _ => replyTo_canon h) (modRouter_canon h)

theorem execDecombineReply_canon {die} {cluster : Option (Fin 8)} {lost} (h : s.Canon) :
    OutCanon (execDecombineReply die cluster lost s) := by
  unfold execDecombineReply
  dsimp only [OutCanon]
  split
  · exact h
  · exact ⟨foldl_keeps (fun _ h _ => if_keeps (losePart_canon h) (answerPart_canon h)) (setRouter_canon h.1),
        h.2⟩

theorem execSdec_canon {o} (h : s.Canon) : OutCanon (execSdec o s) :=
  atomicOp_canon h (Gives.map (fetch64_canon h) fun _ _ => trivial)

theorem execSadd_canon {o} (h : s.Canon) : OutCanon (execSadd o s) :=
  atomicOp_canon h (Gives.map (fetch64_canon h) fun _ _ => trivial)

theorem slotNumber_canon {o} (h : s.Canon) : Gives Stop.Canon (fun _ => True) (slotNumber s o) := by
  unfold slotNumber
  refine Gives.bind (fetch64_canon h) fun _ _ => ?_
  split
  · trivial
  · exact trapAt_canon

theorem execBinv_canon {o} (h : s.Canon) : OutCanon (execBinv o s) := by
  unfold execBinv
  refine slot_canon h ?_
  refine Gives.bind (slotNumber_canon h) fun _ _ => ?_
  refine Gives.bind (fetch64_canon h) fun _ _ => ?_
  refine if_keeps trapAt_canon ?_
  exact if_keeps trapAt_canon (if_keeps waiting_canon ⟨mapStreams_canon (setBarrier_canon h.1), h.2⟩)

theorem execBexp_canon {o} (h : s.Canon) : OutCanon (execBexp o s) := by
  unfold execBexp
  refine slot_canon h ?_
  refine Gives.bind (slotNumber_canon h) fun _ _ => ?_
  refine Gives.bind (fetch64_canon h) fun _ _ => ?_
  exact Gives.bind slotGrant_canon fun _ _ => stateModM_canon h fun _ h => settleSlot_canon h

theorem execBarv_canon {o} (h : s.Canon) : OutCanon (execBarv o s) := by
  unfold execBarv
  refine slot_canon h (Gives.bind (slotNumber_canon h) fun _ _ => ?_)
  refine Gives.bind slotGrant_canon fun _ _ => if_keeps trivial ?_
  split
  · trivial
  · refine Gives.bind releaseTest_canon fun _ _ => ?_
    refine setScal_canon ?_
    refine stateModCore_canon (jobReleased_canon (stateModM_canon h fun _ h => settleSlot_canon h)) fun _ h => ?_
    exact h

theorem execBarrierDelivery_canon {die} (h : s.Canon) : OutCanon (execBarrierDelivery die s) := by
  unfold execBarrierDelivery
  dsimp only [OutCanon]
  split
  · exact h
  · exact ⟨settleSlot_canon (modDie_canon h.1), h.2⟩

/-! ### Every instruction -/

theorem exec_canon {i} (h : s.Canon) : OutCanon (exec i s) := by
  unfold exec
  split
  · exact execBr_canon h
  · exact execBrz_canon h
  · exact execBrnz_canon h
  · exact execBrp_canon h
  · exact execBrqe_canon h
  · exact execLoop_canon h
  · exact execCall_canon h
  · exact execRet_canon h
  · exact execJmpi_canon h
  · exact execRdv_canon h
  · exact execExit_canon h
  · exact execYield_canon h
  · exact execJoin_canon h
  · exact execLeave_canon h
  · exact execGbar_canon h
  · exact execWaits_canon h
  · exact execWaitb_canon h
  · exact execTrap_canon h
  · exact execEret_canon h
  · exact execNpre_canon h
  · exact execXpre_canon h
  · exact execAinc_canon h
  · exact execAmod_canon h
  · exact execAbrv_canon h
  · exact execAcir_canon h
  · exact execAset_canon h
  · exact execMset_canon h
  · exact execNop_canon h
  · exact execIadd_canon h
  · exact execIsub_canon h
  · exact execIadds_canon h
  · exact execIsubs_canon h
  · exact execImul_canon h
  · exact execImulh_canon h
  · exact execImad_canon h
  · exact execIshl_canon h
  · exact execIshr_canon h
  · exact execIsra_canon h
  · exact execIand_canon h
  · exact execIor_canon h
  · exact execIxor_canon h
  · exact execImin_canon h
  · exact execImax_canon h
  · exact execIabs_canon h
  · exact execIclz_canon h
  · exact execIpop_canon h
  · exact execImov_canon h
  · exact execIbfe_canon h
  · exact execIbfi_canon h
  · exact execFaddF32_canon h
  · exact execFaddBf16_canon h
  · exact execFaddF16_canon h
  · exact execFsubF32_canon h
  · exact execFsubBf16_canon h
  · exact execFsubF16_canon h
  · exact execFmulF32_canon h
  · exact execFmulBf16_canon h
  · exact execFmulF16_canon h
  · exact execFmaF32_canon h
  · exact execFmaBf16_canon h
  · exact execFmaF16_canon h
  · exact execFdivF32_canon h
  · exact execFdivBf16_canon h
  · exact execFdivF16_canon h
  · exact execFminF32_canon h
  · exact execFminBf16_canon h
  · exact execFminF16_canon h
  · exact execFmaxF32_canon h
  · exact execFmaxBf16_canon h
  · exact execFmaxF16_canon h
  · exact execFabs_canon h
  · exact execFneg_canon h
  · exact execFmov_canon h
  · exact execFscl_canon h
  · exact execFclp_canon h
  · exact execFlrp_canon h
  · exact execIcmp_canon h
  · exact execFcmp_canon h
  · exact execSel_canon h
  · exact execPand_canon h
  · exact execPor_canon h
  · exact execPxor_canon h
  · exact execPnot_canon h
  · exact execPcnt_canon h
  · exact execRsum_canon h
  · exact execRsqs_canon h
  · exact execRmax_canon h
  · exact execRmin_canon h
  · exact execRmxa_canon h
  · exact execRmxaBlk_canon h
  · exact execRscn_canon h
  · exact execArgm_canon h
  · exact execTopk_canon h
  · exact execTrns_canon h
  · exact execBcst_canon h
  · exact execShuf_canon h
  · exact execVext_canon h
  · exact execVins_canon h
  · exact execIota_canon h
  · exact execCvt_canon h
  · exact execCvfi_canon h
  · exact execCvif_canon h
  · exact execQblk_canon h
  · exact execDqbk_canon h
  · exact execDcf4_canon h
  · exact execNwsl_canon h
  · exact execNwpk_canon h
  · exact execFexp_canon h
  · exact execFexp2_canon h
  · exact execFlog_canon h
  · exact execFlog2_canon h
  · exact execFrcp_canon h
  · exact execFsqt_canon h
  · exact execFrsq_canon h
  · exact execFtnh_canon h
  · exact execFsig_canon h
  · exact execFglu_canon h
  · exact execFsin_canon h
  · exact execFcos_canon h
  · exact execFsmx_canon h
  · exact execRand_canon h
  · exact execJsed_canon h
  · exact execJext_canon h
  · exact execLdt_canon h
  · exact execStt_canon h
  · exact execLds_canon h
  · exact execSts_canon h
  · exact execLdb_canon h
  · exact execLdnw_canon h
  · exact execGath_canon h
  · exact execScat_canon h
  · exact execTmov_canon h
  · exact execWfen_canon h
  · exact execCbpb_canon h
  · exact execCbrl_canon h
  · exact execCbwtConsumer_canon h
  · exact execCbwtProducer_canon h
  · exact execCbstGet_canon h
  · exact execCbstInit_canon h
  · exact execAfad_canon h
  · exact execAfab_canon h
  · exact execAinw_canon h
  · exact execAdcw_canon h
  · exact execAcas_canon h
  · exact execAswp_canon h
  · exact execAmin_canon h
  · exact execAmax_canon h
  · exact execAand_canon h
  · exact execAor_canon h
  · exact execAfaf_canon h
  · exact execAfmx_canon h
  · exact execAtomicApply_canon h
  · exact execRouterCombine_canon h
  · exact execDecombineReply_canon h
  · exact execSdec_canon h
  · exact execSadd_canon h
  · exact execBexp_canon h
  · exact execBarv_canon h
  · exact execBinv_canon h
  · exact execBarrierDelivery_canon h
  · exact execFenc_canon h
  · exact execTdep_canon h
  · exact execTcpy_canon h
  · exact execTtak_canon h
  · exact execTcan_canon h
  · exact execTprb_canon h
  · exact execTupleOverflowReturn_canon h
  · exact execEchn_canon h
  · exact execEcwt_canon h
  · exact execEcnc_canon h
  · exact execLeas_canon h
  · exact execLrel_canon h
  · exact execLeaseGrant_canon h
  · exact execChn_canon h
  · exact execPassComplete_canon h
  · exact execQspl_canon h
  · exact execEddyRefill_canon h
  · exact execUirq_canon h
  · exact execInterruptTake_canon h
  · exact execSqtr_canon h
  · exact execSqac_canon h
  · exact execSqrb_canon h
  · exact execSqpm_canon h
  · exact execSqrs_canon h
  · exact execSqst_canon h
  · exact execInvm_canon h
  · exact execGetx_canon h
  · exact execSetx_canon h
  · exact execBundleFetch_canon h
  · exact execParityReissue_canon h
  · exact execChainStart_canon h
  · exact execCommandComplete_canon h
  · exact execCpy_canon h
  · exact execCpg_canon h
  · exact execCpm_canon h
  · exact execMmp_canon h
  · exact execMdr_canon h
  · exact execAtn_canon h
  · exact execKap_canon h
  · exact execKtr_canon h
  · exact execKfk_canon h
  · exact execMig_canon h
  · exact execPas_canon h
  · exact execJmp_canon h
  · exact execLpc_canon h
  · exact execIfz_canon h
  · exact execIfnz_canon h
  · exact execSgd_canon h
  · exact execNte_canon h
  · exact execEndRec_canon h
  · exact execHostDeposit_canon h
  · exact execHostTake_canon h
  · exact execRegisterWriteOther_canon h
  · exact execLaunch_canon h
  · exact execLaunchTagReread_canon h
  · exact execConstantBankLoad_canon h
  · exact execDispatchTick_canon h
  · exact execJobEnd_canon h
  · exact execNodeComplete_canon h
  · exact execPoolAgeing_canon h
  · exact execPoolOverflowEnter_canon h
  · exact execDrainExpire_canon h
  · exact execCheckpointSave_canon h
  · exact execNpreExpire_canon h
  · exact execThermalStep_canon h
  · exact execScrubSweep_canon h
  · exact execTierFaultService_canon h
  · exact execRemoteWriteLand_canon h
  · exact execMarkerLand_canon h
  · exact execAllowanceReturn_canon h
  · exact execSlotBoundary_canon h
  · exact execRelaySend_canon h
  · exact execFlitReceive_canon h
  · exact execFlitAck_canon h
  · exact execFlitNak_canon h
  · exact execFlitReplayTimeout_canon h
  · exact execLossOfLight_canon h
  · exact execPortPark_canon h
  · exact execPortWake_canon h
  · exact execWavelengthJoin_canon h
  · exact execStackedLineRead_canon h
  · exact execScratchpadFreeze_canon h
  · exact execFreezeExpire_canon h
  · exact execDieReset_canon h
  · exact execBoot_canon h
  · exact execDisposeReplay_canon h
  · exact execDisposeNext_canon h
  · exact execDisposeFail_canon h
  · exact execDisposeChainReplay_canon h
  · exact execDisposeChainStop_canon h
  · exact execReadrec_canon h
  · exact execEvring_canon h
  · exact execEventReadIndexWrite_canon h
  · exact execResync_canon h
  · exact execCtxload_canon h
  · exact execCtxunload_canon h
  · exact execCcbset_canon h
  · exact execWinset_canon h
  · exact execRemap_canon h
  · exact execMigrate_canon h
  · exact execMatchset_canon h
  · exact execParkset_canon h
  · exact execKeyset_canon h
  · exact execMcast_canon h
  · exact execAttest_canon h
  · exact execFusemin_canon h
  · exact execStackedLineWrite_canon h
  · exact execBankRetiredByHeat_canon h

/-! ### Turns -/

theorem passTime_canon {n} (h : m.Canon) : (passTime m n).Canon := foldl_keeps (fun _ h _ => modDie_canon h) h

theorem strike_canon {u} (h : m.Canon) : (strike m u).Canon := by
  unfold strike
  split
  · exact modStrm_canon h
  · exact h
  · exact h
  · exact modCluster_canon h
  · exact modRouter_canon h
  · exact modStrm_canon h
  · exact if_keeps (stopChain_canon (nextFresh_canon h)) h
  · refine modCore_canon h fun _ h2 => ?_
    dsimp only
    split
    · exact setQueue_canon h2
    · exact h2
  · exact modPort_canon h
  · exact h
  · exact h
  · exact rollKeys_canon (modPort_canon h)

theorem writeRaceRecord_canon {c} (h : m.Canon) : (writeRaceRecord m c).Canon := by
  unfold writeRaceRecord
  refine if_keeps h ?_
  dsimp only
  split
  · next e => exact (storeDev_canon (modCtx_canon (nextFresh_canon (nextFresh_canon h)))).ok e
  · exact modCtx_canon (nextFresh_canon (nextFresh_canon h))

theorem cycleStream_canon {ex : Instr → State → Out} {w} (hex : ∀ j, KeepsCanon (ex j)) :
    KeepsCanon (cycleStream ex w) := by
  intro s h
  unfold cycleStream
  split
  · have ht := streamTurn_canon (w := w) hex
      (h.withM (modStrm_canon (w := w) (f := fun x => { x with doomed := false }) h.1))
    revert ht
    cases streamTurn ex w { s with m := s.m.modStrm w fun x => { x with doomed := false } } with
    | next t => exact fun ht => ht.withM (modStrm_canon ht.1)
    | _ => exact id
  · exact streamTurn_canon hex h

theorem beginCycle_canon (h : s.Canon) : OutCanon (beginCycle s) := ⟨h.1, h.2⟩

theorem depositReports_canon (h : s.Canon) : OutCanon (depositReports s) :=
  ⟨foldl_keeps (fun _ h _ => depositReport_canon h) h.1, h.2⟩

theorem doAll_canon {fs : List (State → Out)} (hf : ∀ f ∈ fs, KeepsCanon f) : KeepsCanon (doAll fs) := by
  induction fs with
  | nil => exact fun _ h => h
  | cons f fs ih =>
    intro s h
    have hs := hf f List.mem_cons_self s h
    unfold doAll
    split
    · next t e =>
      rw [e] at hs
      exact ih (fun g hg => hf g (List.mem_cons_of_mem _ hg)) t hs
    · exact hs

theorem cycleTurns_canon {ex : Instr → State → Out} {seq : Sequencer} {ws cs is}
    (hex : ∀ j, KeepsCanon (ex j)) (hseq : ∀ i, KeepsCanon (seq ex i)) :
    ∀ f ∈ cycleTurns ex seq ws cs is m, KeepsCanon f := by
  unfold cycleTurns
  extract_lets ev rank
  have hr : ∀ k, ∀ f ∈ rank k, KeepsCanon f := by
    intro k f hf
    rcases List.mem_append.1 hf with hf | hf
    · obtain ⟨c, -, rfl⟩ := List.mem_map.1 hf
      exact fun s h => hseq c _ h
    · obtain ⟨i, -, rfl⟩ := List.mem_map.1 hf
      exact hex i
  intro f hf
  rcases List.mem_append.1 hf with hf | hf
  · rcases List.mem_cons.1 hf with rfl | hf
    · exact fun _ h => beginCycle_canon h
    · rcases List.mem_append.1 hf with hf | hf
      · obtain ⟨w, -, rfl⟩ := List.mem_map.1 hf
        exact cycleStream_canon hex
      · obtain ⟨k, -, hf⟩ := List.mem_flatMap.1 hf
        exact hr k f hf
  · rcases List.mem_cons.1 hf with rfl | hf
    · exact fun _ h => depositReports_canon h
    · obtain ⟨k, -, hf⟩ := List.mem_flatMap.1 hf
      exact hr k f hf

theorem doTurn_canon {ex : Instr → State → Out} {seq : Sequencer} {mail : (Instr → State → Out) → State → Out}
    {t} (hex : ∀ j, KeepsCanon (ex j)) (hseq : ∀ i, KeepsCanon (seq ex i)) (hmail : KeepsCanon (mail ex)) :
    KeepsCanon (doTurn ex seq mail t) := by
  intro s h
  cases t with
  | stream w => exact streamTurn_canon hex h
  | chain c => exact hseq c _ h
  | step i => exact if_keeps (hex i s h) h
  | time n => exact h.withM (passTime_canon h.1)
  | mail w => exact if_keeps h (hmail _ h)
  | mailServe => exact if_keeps (hmail s h) h
  | hostMem a bs => exact h.withM (h.1.withHost (Memory.wf_puts _ _ h.1.2.1))
  | hostWindow c off v => exact windowWrite_canon hex h
  | hostRead c off => exact h
  | copyLand n => exact h.withM (copyHeld_canon h.1)
  | raceRecord c => exact h.withM (writeRaceRecord_canon h.1)
  | cycle ws cs is => exact doAll_canon (cycleTurns_canon hex hseq) s h
  | demote d c a tier => exact h.withM (demotePage_canon h.1)
  | upset u => exact h.withM (strike_canon h.1)

theorem runTurn_canon {ex : Instr → State → Out} {seq : Sequencer}
    {mail : (Instr → State → Out) → State → Out} (hex : ∀ j, KeepsCanon (ex j))
    (hseq : ∀ i, KeepsCanon (seq ex i)) (hmail : KeepsCanon (mail ex)) :
    KeepsCanon (runTurn ex seq mail) := by
  intro s h
  unfold runTurn
  split
  · exact doTurn_canon hex hseq hmail _ h
  · exact doTurn_canon hex hseq hmail _ (h.withM (nextFresh_canon h.1))

/-! ### A step -/

theorem step_canon : KeepsCanon step :=
  runTurn_canon (fun _ _ h => exec_canon h) (fun _ _ h => sequencer_canon (fun _ _ h => exec_canon h) h)
    fun _ h => serveMail_canon (fun _ _ h => exec_canon h) h

/-! ### The obligation -/

theorem State.memInv_iff (s : State) : s.memInv ↔ s.m.Canon :=
  ⟨fun ⟨⟨hp, hh, hu⟩, hg⟩ => ⟨hp, hh, hu, hg⟩, fun ⟨hp, hh, hu, hg⟩ => ⟨⟨hp, hh, hu⟩, hg⟩⟩

/-- Settles O59: a step keeps the memories of the state canonical together with those that the bundle in progress reads and that
a stop carries, because every function of the model does. -/
theorem stepKeepsMemoryCanonical : Obligations.StepKeepsMemoryCanonical := by
  intro s t hq hs e
  have hc : s.Canon := ⟨s.memInv_iff.1 hs, fun m hm => by rw [hq.1] at hm; cases hm⟩
  have ht := step_canon s hc
  rw [e] at ht
  exact t.memInv_iff.2 ht.1

end Sys2Proof.Machine
end

section
/-! SUPPORT. Bytes of the machine by location: the pieces of a range, reads and writes of a list of locations
(01 R22, 08 R218, 14 R332, R334). -/

namespace Sys2Proof.Machine

/-! ### The pieces of a range (08 R218) -/

/-- The pieces of a range are its bytes in order, when the fuel covers the lines that it touches. -/
theorem pieces_flatMap (f : Nat) {a n : Nat} (h : n = 0 ∨ a % 64 + n ≤ 64 * f) :
    ((pieces f a n).flatMap fun p => (List.range p.2).map (p.1 + ·)) = (List.range n).map (a + ·) := by
  induction f generalizing a n with
  | zero => obtain rfl : n = 0 := by omega
            rfl
  | succ f ih =>
    by_cases hn : n = 0
    · subst hn; rfl
    · obtain ⟨k, hk⟩ : ∃ k, k = min n (64 - a % 64) := ⟨_, rfl⟩
      have hkn : n = k + (n - k) := by omega
      rw [pieces, if_neg hn, ← hk, List.flatMap_cons, ih (by omega)]
      conv_rhs => rw [hkn, List.range_add, List.map_append, List.map_map]
      simp only [Function.comp_def, Nat.add_assoc]

theorem linePieces_flatMap (a n : Nat) :
    ((linePieces a n).flatMap fun p => (List.range p.2).map (p.1 + ·)) = (List.range n).map (a + ·) :=
  pieces_flatMap _ (by omega)

/-- The single bytes of the pieces of a range, by any way to name its places that adds offsets. -/
theorem locBytes_linePieces {at_ : Nat → Loc} (hat : ∀ x k, (at_ x).plus k = at_ (x + k)) (a n : Nat) :
    locBytes ((linePieces a n).map fun p => (at_ p.1, p.2)) = (List.range n).map fun k => at_ (a + k) := by
  have h := congrArg (List.map at_) (linePieces_flatMap a n)
  simpa [locBytes, List.flatMap_map, List.map_flatMap, List.map_map, Function.comp_def, hat] using h

/-! ### Reads and writes of locations -/

theorem Memory.bytes_eq_map (m : Memory) (a n : Nat) :
    Memory.bytes m a n = (List.range n).map fun k => Memory.byte m (a + k) := by
  induction n generalizing a with
  | zero => rfl
  | succ n ih =>
    rw [Memory.bytes, ih, List.range_succ_eq_map, List.map_cons, List.map_map]
    simp only [Function.comp_def, Nat.add_zero, Nat.succ_eq_add_one, Nat.add_assoc, Nat.add_comm 1]

theorem readLoc_eq (m : Module) (l : Loc) (n : Nat) : readLoc m (l, n) = (List.range n).map fun k => m.byteAt (l.plus k) := by
  cases l <;> exact Memory.bytes_eq_map _ _ _

/-- A read of locations gives their single bytes in order. -/
theorem readLocs_eq (m : Module) (ls : List (Loc × Nat)) : readLocs m ls = (locBytes ls).map m.byteAt := by
  induction ls with
  | nil => rfl
  | cons l ls ih =>
    rw [readLocs, ih, show l = (l.1, l.2) from rfl, readLoc_eq]
    simp only [locBytes, List.flatMap_cons, List.map_append, List.map_map, Function.comp_def]

theorem Loc.plus_inj (l : Loc) {j k : Nat} (h : l.plus j = l.plus k) : j = k := by
  cases l <;> simpa [Loc.plus] using h

/-- What a write of bytes at a location leaves at any place. -/
theorem byteAt_writeLoc_unit (m : Module) (c o : Nat) (bs : List Byte) (x : Loc) :
    (writeLoc m (.unit c o) bs).byteAt x = match x with
      | .unit c' b => if c' = c ∧ o ≤ b ∧ b < o + bs.length then bs.getD (b - o) 0 else m.byteAt x
      | .phys _ => m.byteAt x := by
  have hx : (writeLoc m (.unit c o) bs).byteAt x =
      ({ m with cores := Tbl.set {} m.cores c { Tbl.get {} m.cores c with
        unitMem := Memory.puts (Tbl.get {} m.cores c).unitMem o bs } } : Module).byteAt x := by
    rw [writeLoc]; split <;> rfl
  rw [hx]
  cases x with
  | phys pa => rfl
  | unit c' b =>
    by_cases hc : c' = c
    · subst hc; simp [Module.byteAt, Memory.byte_puts]
    · simp [Module.byteAt, Tbl.get_set_ne _ _ _ hc, hc]

theorem byteAt_writeLoc_phys (m : Module) (pa : Nat) (bs : List Byte) (x : Loc) :
    (writeLoc m (.phys pa) bs).byteAt x = match x with
      | .unit _ _ => m.byteAt x
      | .phys b => if pa ≤ b ∧ b < pa + bs.length then bs.getD (b - pa) 0 else m.byteAt x := by
  have hx : (writeLoc m (.phys pa) bs).byteAt x = ({ m with phys := Memory.puts m.phys pa bs } : Module).byteAt x := by
    rw [writeLoc]; split <;> rfl
  rw [hx]
  cases x with
  | unit c b => rfl
  | phys b => simp [Module.byteAt, Memory.byte_puts]

theorem byteAt_writeLoc_in (m : Module) (l : Loc) (bs : List Byte) {k : Nat} (hk : k < bs.length) :
    (writeLoc m l bs).byteAt (l.plus k) = bs.getD k 0 := by
  cases l with
  | unit c o => simp [byteAt_writeLoc_unit, Loc.plus, hk]
  | phys pa => simp [byteAt_writeLoc_phys, Loc.plus, hk]

theorem byteAt_writeLoc_out (m : Module) (l : Loc) (bs : List Byte) {x : Loc} (hx : ∀ k < bs.length, x ≠ l.plus k) :
    (writeLoc m l bs).byteAt x = m.byteAt x := by
  cases l with
  | unit c o =>
    rw [byteAt_writeLoc_unit]
    cases x with
    | phys b => rfl
    | unit c' b =>
      refine if_neg fun ⟨hc, ho, hb⟩ => hx (b - o) (by omega) ?_
      rw [Loc.plus, hc, Nat.add_sub_cancel' ho]
  | phys pa =>
    rw [byteAt_writeLoc_phys]
    cases x with
    | unit c b => rfl
    | phys b =>
      refine if_neg fun ⟨ho, hb⟩ => hx (b - pa) (by omega) ?_
      rw [Loc.plus, Nat.add_sub_cancel' ho]

theorem locBytes_cons (l : Loc × Nat) (ls : List (Loc × Nat)) :
    locBytes (l :: ls) = ((List.range l.2).map fun k => l.1.plus k) ++ locBytes ls := rfl

/-- A write of locations leaves every byte outside them. -/
theorem byteAt_writeLocs_out {ls : List (Loc × Nat)} {x : Loc} (hx : x ∉ locBytes ls) (m : Module) (bs : List Byte) :
    (writeLocs m ls bs).byteAt x = m.byteAt x := by
  induction ls generalizing m bs with
  | nil => rfl
  | cons l ls ih =>
    rw [locBytes_cons, List.mem_append, not_or] at hx
    rw [writeLocs, ih hx.2]
    refine byteAt_writeLoc_out _ _ _ fun k hk e => hx.1 (List.mem_map.2 ⟨k, List.mem_range.2 ?_, e.symm⟩)
    exact Nat.lt_of_lt_of_le hk (List.length_take_le _ _)

/-- Bytes written to locations that do not overlap read back there. -/
theorem byteAt_writeLocs {ls : List (Loc × Nat)} {bs : List Byte} (hd : (locBytes ls).Nodup)
    (hl : (locBytes ls).length = bs.length) (m : Module) : (locBytes ls).map (writeLocs m ls bs).byteAt = bs := by
  induction ls generalizing m bs with
  | nil => exact (List.length_eq_zero_iff.1 hl.symm).symm
  | cons l ls ih =>
    rw [locBytes_cons] at hd hl ⊢
    obtain ⟨-, hd2, hdis⟩ := List.nodup_append.1 hd
    rw [List.length_append, List.length_map, List.length_range] at hl
    have htake : (bs.take l.2).length = l.2 := by rw [List.length_take]; omega
    have hfirst : ((List.range l.2).map fun k => l.1.plus k).map (writeLocs m (l :: ls) bs).byteAt = bs.take l.2 := by
      refine List.ext_getElem (by simp [htake]) fun k h1 h2 => ?_
      have hk : k < l.2 := htake ▸ h2
      have hout : l.1.plus k ∉ locBytes ls := fun hm =>
        hdis _ (List.mem_map.2 ⟨k, List.mem_range.2 hk, rfl⟩) _ hm rfl
      rw [List.getElem_map, List.getElem_map, List.getElem_range, writeLocs, byteAt_writeLocs_out hout,
        byteAt_writeLoc_in _ _ _ h2, List.getD_eq_getElem _ _ h2]
    have hrest : (locBytes ls).map (writeLocs m (l :: ls) bs).byteAt = bs.drop l.2 :=
      ih hd2 (by rw [List.length_drop]; omega) _
    rw [List.map_append, hfirst, hrest, List.take_append_drop]

/-! ### Accesses that no actor makes and local ranges -/

theorem loadLocs_frozen {m : Module} {ls : List (Loc × Nat)} (h : ∃ l ∈ ls, l.1.frozen m = true) (p : Option Actor) (a : Nat) :
    loadLocs m p a ls = .error .busy :=
  if_pos (List.any_eq_true.2 h)

theorem storeLocs_frozen {m : Module} {ls : List (Loc × Nat)} (h : ∃ l ∈ ls, l.1.frozen m = true) (p : Option Actor) (a : Nat)
    (bs : List Byte) : storeLocs m p a ls bs = .error .busy :=
  if_pos (List.any_eq_true.2 h)

theorem not_any_frozen {m : Module} {ls : List (Loc × Nat)} (h : ∀ l ∈ ls, l.1.frozen m = false) :
    ¬ (ls.any fun l => l.1.frozen m) = true := by
  simpa using h

/-- A load without an actor from locations that are neither frozen nor poisoned reads them and changes nothing. -/
theorem loadLocs_none {m : Module} {ls : List (Loc × Nat)} (h : ∀ l ∈ ls, l.1.frozen m = false ∧ l.1.poisoned m = false)
    (a : Nat) : loadLocs m none a ls = .ok (readLocs m ls, m) := by
  have hp : ls.find? (fun l => l.1.poisoned m) = none := List.find?_eq_none.2 fun l hl => by simp [h l hl]
  rw [loadLocs, if_neg (not_any_frozen fun l hl => (h l hl).1), hp]
  rfl

/-- A store without an actor to locations that are not frozen writes them. -/
theorem storeLocs_none {m : Module} {ls : List (Loc × Nat)} (h : ∀ l ∈ ls, l.1.frozen m = false) (a : Nat) (bs : List Byte) :
    storeLocs m none a ls bs = .ok (writeLocs m ls bs) := by
  rw [storeLocs, if_neg (not_any_frozen h)]
  rfl

section
variable {m : Module} {ctx : Fin 64} {d : Fin 16} {c : Fin 128}

theorem loadLocal_some {a n : Nat} {ls : List (Loc × Nat)} (h : localLocs m ctx d (some c) a n = some ls) (p : Option Actor) :
    loadLocal m p ctx d (some c) a n = loadLocs m p a ls := by rw [loadLocal, h]

theorem storeLocal_some {a : Nat} {bs : List Byte} {ls : List (Loc × Nat)}
    (h : localLocs m ctx d (some c) a bs.length = some ls) (p : Option Actor) :
    storeLocal m p ctx d (some c) a bs = storeLocs m p a ls bs := by rw [storeLocal, h]

/-- The locations of a local range are the places `at_`, and accesses without an actor
read and write those. -/
def LocalRange (m : Module) (ctx : Fin 64) (d : Fin 16) (c : Fin 128) (bs : List Byte) (a : Nat) (at_ : Nat → Loc) : Prop :=
  ∃ ls, localLocs m ctx d (some c) a bs.length = some ls ∧ locBytes ls = (List.range bs.length).map at_ ∧
    ((∃ l ∈ ls, l.1.frozen m = true) → loadLocal m none ctx d (some c) a bs.length = .error .busy ∧
      storeLocal m none ctx d (some c) a bs = .error .busy) ∧
    ((∀ l ∈ ls, l.1.frozen m = false ∧ l.1.poisoned m = false) →
      loadLocal m none ctx d (some c) a bs.length = .ok ((List.range bs.length).map fun k => m.byteAt (at_ k), m)) ∧
    ((∀ l ∈ ls, l.1.frozen m = false) → ∃ t, storeLocal m none ctx d (some c) a bs = .ok t ∧
      (List.range bs.length).map (fun k => t.byteAt (at_ k)) = bs ∧
      (∀ l, (∀ k, k < bs.length → l ≠ at_ k) → t.byteAt l = m.byteAt l))

/-- A local range whose locations are the pieces of one range of places, no two places the same. -/
theorem localRange_of_pieces {a x : Nat} {bs : List Byte} {at_ : Nat → Loc} (hat : ∀ x k, (at_ x).plus k = at_ (x + k))
    (hinj : Function.Injective at_)
    (h : localLocs m ctx d (some c) a bs.length = some ((linePieces x bs.length).map fun p => (at_ p.1, p.2))) :
    LocalRange m ctx d c bs a fun k => at_ (x + k) := by
  have hb := locBytes_linePieces hat x bs.length
  have hd := (List.nodup_range (n := bs.length)).map (hinj.comp (add_right_injective x))
  refine ⟨_, h, hb, fun hf => ?_, fun hf => ?_, fun hf => ?_⟩
  · rw [loadLocal_some h, storeLocal_some h]
    exact ⟨loadLocs_frozen hf _ _, storeLocs_frozen hf _ _ _⟩
  · rw [loadLocal_some h, loadLocs_none hf, readLocs_eq, hb, List.map_map, Function.comp_def]
  · refine ⟨_, (storeLocal_some h _).trans (storeLocs_none hf _ _), ?_, fun l hl => byteAt_writeLocs_out ?_ _ _⟩
    · have hw := byteAt_writeLocs (hb ▸ hd) (by rw [hb, List.length_map, List.length_range]) m
      rw [hb, List.map_map] at hw
      exact hw
    · rw [hb, List.mem_map]
      rintro ⟨k, hk, rfl⟩
      exact hl k (List.mem_range.1 hk) rfl

/-! ### The regions of the local space (01 R22) -/

theorem regionOf_unit {o n : Nat} (h : o + n ≤ 0x100000) : regionOf o n = some (.unit, o) := by
  simp [regionOf, h]

theorem regionOf_cluster {o n : Nat} (h : o + n ≤ 0x1000000) : regionOf (0x100000000 + o) n = some (.cluster, o) := by
  have h1 : ¬ 0x100000000 + o + n ≤ 0x100000 := by omega
  have h2 : 0x100000000 + o + n ≤ 0x100000000 + 0x1000000 := by omega
  simp [regionOf, h1, h2]

theorem regionOf_die {o n : Nat} (h : o + n ≤ 0x8000000) : regionOf (0x200000000 + o) n = some (.die, o) := by
  have h1 : ¬ 0x200000000 + o + n ≤ 0x100000 := by omega
  have h2 : ¬ 0x200000000 + o + n ≤ 0x100000000 + 0x1000000 := by omega
  have h3 : 0x200000000 + o + n ≤ 0x200000000 + 0x8000000 := by omega
  simp [regionOf, h1, h2, h3]

/-- A range that begins below the cluster region and leaves the unit scratchpad lies in no region. -/
theorem regionOf_none {o n : Nat} (h : 0x100000 < o + n) (ho : o < 0x100000000) : regionOf o n = none := by
  have h0 : ¬ o + n ≤ 0x100000 := by omega
  have h1 : ¬ 0x100000000 ≤ o := by omega
  have h2 : ¬ 0x200000000 ≤ o := by omega
  have h3 : ¬ 0x300000000 ≤ o := by omega
  have h4 : ¬ 0x400000000 ≤ o := by omega
  have h5 : ¬ (0x1000000000 ≤ o ∧ o < 0x5000000000) := by omega
  simp [regionOf, h0, h1, h2, h3, h4, h5]

theorem localLocs_unit {o n : Nat} (h : o + n ≤ 0x100000) :
    localLocs m ctx d (some c) o n = some ((linePieces o n).map fun p => (.unit (coreKey d c) p.1, p.2)) := by
  rw [localLocs, regionOf_unit h]; rfl

theorem localLocs_cluster {o n : Nat} (h : o + n ≤ 0x1000000) (hg : o + n ≤ ctxCsize m ctx) :
    localLocs m ctx d (some c) (0x100000000 + o) n =
      some ((linePieces (0x080000000000 + d.val * 0x10000000 + 0x8000000 + c.val / 16 * 0x1000000 + ctxCbase m ctx + o)
        n).map fun p => (.phys p.1, p.2)) := by
  rw [Nat.add_assoc _ (ctxCbase m ctx), localLocs, regionOf_cluster h]; exact if_pos hg

theorem localLocs_cluster_none {o n : Nat} (h : o + n ≤ 0x1000000) (hg : ctxCsize m ctx < o + n) :
    localLocs m ctx d (some c) (0x100000000 + o) n = none := by
  rw [localLocs, regionOf_cluster h]; exact if_neg (by omega)

theorem localLocs_die {o n : Nat} (h : o + n ≤ 0x8000000) (hg : o + n ≤ ctxDsize m ctx) :
    localLocs m ctx d (some c) (0x200000000 + o) n =
      some ((linePieces (0x080000000000 + d.val * 0x10000000 + ctxDbase m ctx + o) n).map fun p => (.phys p.1, p.2)) := by
  rw [Nat.add_assoc _ (ctxDbase m ctx), localLocs, regionOf_die h]; exact if_pos hg

end

/-- Settles O21: every region's locations are the pieces of one range of places, and a read or a write of locations is
one of their single bytes. -/
theorem localAddressesFollowTheMap : Obligations.LocalAddressesFollowTheMap := by
  intro m ctx d c o bs
  have unit_inj : Function.Injective (Loc.unit (coreKey d c)) := fun _ _ h => (Loc.unit.inj h).2
  have phys_inj : Function.Injective Loc.phys := fun _ _ h => Loc.phys.inj h
  refine ⟨fun h => ?_, fun _ hg h => ?_, fun _ hg h => ?_, fun hg h => ?_, fun h ho _ => ?_⟩
  · exact localRange_of_pieces (fun _ _ => rfl) unit_inj (localLocs_unit h)
  · exact localRange_of_pieces (fun _ _ => rfl) phys_inj (localLocs_cluster h hg)
  · exact localRange_of_pieces (fun _ _ => rfl) phys_inj (localLocs_die h hg)
  · rw [loadLocal, localLocs_cluster_none h hg]; rfl
  · rw [storeLocal, localLocs, regionOf_none h ho]; rfl

end Sys2Proof.Machine
end

section
/-! SUPPORT. What the graph dispatcher's operations answer and leave: its reads, the instances and their nodes, the ready
pool and its overflow, readiness and completion, a launch's readings (01 R25, R26, 11 R294 to R303). -/

namespace Sys2Proof.Machine

/-! ### Reads of a dispatcher that are answered (R296) -/

@[simp] theorem dispOut_ok (s : State) (d : Fin 16) (m : Module) : dispOut s d (.ok m) = .next { s with m := m } := rfl

theorem loadDev_none_frame {m n : Module} {c : Fin 64} {k : AccKind} {a len : Nat} {bs : List Byte}
    (h : loadDev m none none c k a len = .ok (bs, n)) : n = m := by
  unfold loadDev at h
  split at h
  · cases h
  · next ls w hd =>
    obtain ⟨rfl, -⟩ := devLocs_none_frame hd
    unfold loadLocs at h
    split at h
    · cases h
    · split at h
      · cases h
      · cases h; rfl

theorem dispTier_ne_ok {m : Module} {d : Fin 16} {c : Fin 64} {p : Nat} {bs : List Byte} {w : Module} :
    (dispTier m d c p fun e m => .ok (.error e, m)) ≠ (.ok (.ok bs, w) : Disp (Except Nat (List Byte) × Module)) := by
  unfold dispTier
  dsimp only
  split <;> simp

/-- A line that a dispatcher reads changes nothing of the module. -/
theorem dispLine_frame {m w : Module} {d : Fin 16} {c : Fin 64} {a n : Nat} {bs : List Byte}
    (h : dispLine m d c a n = .ok (.ok bs, w)) : w = m := by
  unfold dispLine at h
  split at h
  · next hl => cases h; exact loadDev_none_frame hl
  · cases h
  · exact absurd h dispTier_ne_ok
  · cases h
  · cases h

/-- The next line of a dispatcher's read, behind those that it has read. -/
def dispNext (d : Fin 16) (c : Fin 64) (r : Except Nat (List Byte) × Module) (p : Nat × Nat) :
    Disp (Except Nat (List Byte) × Module) :=
  match r.1 with
  | .error e => .ok (.error e, r.2)
  | .ok bs => (dispLine r.2 d c (p.1 % 2 ^ 57) p.2).map fun q => (match q.1 with
    | .ok cs => .ok (bs ++ cs)
    | .error e => .error e, q.2)

theorem dispBytes_eq (m : Module) (d : Fin 16) (c : Fin 64) (a n : Nat) :
    dispBytes m d c a n = (linePieces a n).foldlM (dispNext d c) (.ok [], m) := rfl

theorem dispNext_frame {d : Fin 16} {c : Fin 64} {r : Except Nat (List Byte) × Module} {p : Nat × Nat} {bs : List Byte}
    {w : Module} (h : dispNext d c r p = .ok (.ok bs, w)) : w = r.2 ∧ ∃ cs, r.1 = .ok cs := by
  unfold dispNext at h
  split at h
  · cases h
  · next cs hr =>
    cases hd : dispLine r.2 d c (p.1 % 2 ^ 57) p.2 with
    | error e => rw [hd] at h; cases h
    | ok q =>
      obtain ⟨q1, q2⟩ := q
      rw [hd] at h
      cases q1 with
      | error e => cases h
      | ok b => cases h; exact ⟨dispLine_frame hd, cs, hr⟩

theorem dispFold_frame {d : Fin 16} {c : Fin 64} {ps : List (Nat × Nat)} {r : Except Nat (List Byte) × Module}
    {bs : List Byte} {w : Module} (h : ps.foldlM (dispNext d c) r = .ok (.ok bs, w)) : w = r.2 ∧ ∃ cs, r.1 = .ok cs := by
  induction ps generalizing r with
  | nil => cases h; exact ⟨rfl, bs, rfl⟩
  | cons p ps ih =>
    rw [List.foldlM_cons] at h
    cases hn : dispNext d c r p with
    | error e => rw [hn] at h; cases h
    | ok q =>
      rw [hn] at h
      obtain ⟨hw, cs, hq⟩ := ih h
      obtain ⟨q1, q2⟩ := q
      obtain rfl : q1 = .ok cs := hq
      obtain ⟨hq2, hr⟩ := dispNext_frame hn
      exact ⟨hw.trans hq2, hr⟩

theorem dispBytes_frame {m w : Module} {d : Fin 16} {c : Fin 64} {a n : Nat} {bs : List Byte}
    (h : dispBytes m d c a n = .ok (.ok bs, w)) : w = m := (dispFold_frame h).1

theorem dispRead_frame {m w : Module} {d : Fin 16} {c : Fin 64} {a n x : Nat}
    (h : dispRead m d c a n = .ok (.ok x, w)) : w = m := by
  unfold dispRead at h
  cases hb : dispBytes m d c a n with
  | error e => rw [hb] at h; cases h
  | ok q =>
    obtain ⟨q1, q2⟩ := q
    rw [hb] at h
    cases q1 with
    | error e => cases h
    | ok bs => cases h; exact dispBytes_frame hb

/-- A record that a node becomes ready with is read without a change to the module. -/
theorem readyRecord_frame {m w : Module} {i : Instance} {n : Nat} {l : Line}
    (h : readyRecord m i n = .ok (.ok l, w)) : w = m := by
  unfold readyRecord at h
  cases hr : dispRead m i.home i.ctx (nodeAt i.graph n) 64 with
  | error e => rw [hr] at h; cases h
  | ok q =>
    obtain ⟨q1, m1⟩ := q
    rw [hr] at h
    cases q1 with
    | error e => cases h
    | ok x =>
      obtain rfl := dispRead_frame hr
      simp only [bind, Except.bind] at h
      split at h
      · cases h
      · split at h
        · generalize hy : dispRead m1 i.home i.ctx (nodeOpa (BitVec.ofNat 512 x)) 64 = r at h
          rcases r with e | ⟨_ | y, m2⟩
          · cases h
          · cases h
          · obtain rfl := dispRead_frame hy
            simp only [Except.ok.injEq, Prod.mk.injEq] at h
            exact h.2.symm
        · cases h; rfl

/-! ### Instances -/

theorem findInst_spec {m : Module} {c : Fin 64} {g : DevAddr} {i : Instance} (h : findInst m c g = some i) :
    i.ctx = c ∧ i.graph = g := by
  simpa using List.find?_some h

theorem findInst_congr {m w : Module} (h : w.graphs = m.graphs) (c : Fin 64) (g : DevAddr) :
    findInst w c g = findInst m c g := by rw [findInst, h, findInst]

/-- A live graph is found changed as it was changed. -/
theorem findInst_modInst {m : Module} {c : Fin 64} {g : DevAddr} {f : Instance → Instance}
    (hf : ∀ i, (f i).ctx = i.ctx ∧ (f i).graph = i.graph) : findInst (modInst m c g f) c g = (findInst m c g).map f := by
  unfold findInst modInst
  dsimp only
  rw [List.find?_map]
  have hp : ((fun i : Instance => decide (i.ctx = c) && decide (i.graph = g)) ∘ fun i =>
      if i.ctx = c ∧ i.graph = g then f i else i) = fun i => decide (i.ctx = c) && decide (i.graph = g) := by
    funext i
    by_cases hi : i.ctx = c ∧ i.graph = g
    · simp [hi, hf i]
    · simp [hi]
  rw [hp]
  cases hx : m.graphs.find? fun i => decide (i.ctx = c) && decide (i.graph = g) with
  | none => rfl
  | some i => rw [Option.map_some, Option.map_some, if_pos (findInst_spec (m := m) hx)]

/-! ### The ready pool and its overflow (R303, 14 R348) -/

/-- Whether an entry of a context can enter the pool of a die. -/
def PoolHasRoom (m : Module) (d : Fin 16) (c : Fin 64) : Prop :=
  (m.die d).pool.length < 4096 ∧ ((m.die d).pool.filter fun p => decide (p.ctx = c)).length < ctxPshare m c

/-- Whether the spill quota of a context has room for one entry of an overflow. -/
def QuotaHasRoom (m : Module) (c : Fin 64) : Prop := (m.ctx c).spill + 64 ≤ ctxSquota m c

theorem quotaHasRoom_iff (m : Module) (c : Fin 64) : QuotaHasRoom m c ↔ ¬ctxSquota m c < (m.ctx c).spill + 64 :=
  Nat.not_lt.symm

theorem poolHasRoom_iff (m : Module) (d : Fin 16) (c : Fin 64) :
    PoolHasRoom m d c ↔ (m.die d).pool.length < 4096 ∧ poolShare m d c = true := by
  simp [PoolHasRoom, poolShare]

/-- The module with other instances and tickets. -/
def withGraphs (m : Module) (gs : List Instance) (t : Nat) : Module := { m with graphs := gs, ticket := t }

theorem poolHasRoom_withGraphs {m : Module} {d : Fin 16} {c : Fin 64} {gs : List Instance} {t : Nat} :
    PoolHasRoom (withGraphs m gs t) d c ↔ PoolHasRoom m d c := Iff.rfl

theorem quotaHasRoom_withGraphs {m : Module} {c : Fin 64} {gs : List Instance} {t : Nat} :
    QuotaHasRoom (withGraphs m gs t) c ↔ QuotaHasRoom m c := Iff.rfl

/-- The overflow enters a pool without regard to instances and tickets. -/
theorem enterPool_withGraphs (m : Module) (d : Fin 16) (gs : List Instance) (t : Nat) :
    enterPool (withGraphs m gs t) d = (enterPool m d).map fun w => withGraphs w gs t := by
  unfold enterPool
  rw [Option.map_map]
  rfl

theorem enterAll_withGraphs (k : Nat) (m : Module) (d : Fin 16) (gs : List Instance) (t : Nat) :
    enterAll d k (withGraphs m gs t) = withGraphs (enterAll d k m) gs t := by
  induction k generalizing m with
  | zero => rfl
  | succ k ih =>
    rw [enterAll, enterAll, enterPool_withGraphs]
    cases enterPool m d with
    | none => rfl
    | some w => exact ih w

theorem Module.die_modCtx (m : Module) (c : Fin 64) (f : CtxDyn → CtxDyn) (d : Fin 16) : (m.modCtx c f).die d = m.die d := rfl

/-- No entry of the overflow enters when none has room. -/
theorem enterPool_none {m : Module} {d : Fin 16} (h : enterPool m d = none) :
    ∀ f ∈ (m.die d).overflow, ¬PoolHasRoom m d f.ctx := by
  intro f hf hr
  rw [enterPool, Option.map_eq_none_iff, List.find?_eq_none] at h
  rw [poolHasRoom_iff] at hr
  exact h f hf (by simp [hr])

/-- An entry that enters leaves the overflow shorter. -/
theorem enterPool_overflow_length {m w : Module} {d : Fin 16} (h : enterPool m d = some w) :
    (w.die d).overflow.length < (m.die d).overflow.length := by
  rw [enterPool, Option.map_eq_some_iff] at h
  obtain ⟨e, he, rfl⟩ := h
  rw [Module.die_modCtx, Module.die_modDie_same]
  exact List.length_filter_lt_length_iff_exists.2 ⟨e, List.mem_of_find?_eq_some he, by simp⟩

/-- After as many entries as the overflow holds, none that is left has room. -/
theorem enterAll_left {k : Nat} {m : Module} {d : Fin 16} (hk : (m.die d).overflow.length ≤ k) :
    ∀ f ∈ ((enterAll d k m).die d).overflow, ¬PoolHasRoom (enterAll d k m) d f.ctx := by
  induction k generalizing m with
  | zero =>
    rw [enterAll, List.length_eq_zero_iff.1 (Nat.le_zero.1 hk)]
    simp
  | succ k ih =>
    rw [enterAll]
    cases h : enterPool m d with
    | none => exact enterPool_none h
    | some w => exact ih (by have := enterPool_overflow_length h; omega)

theorem poolAdd_room {m : Module} {d : Fin 16} {e : PoolEnt}
    (h : PoolHasRoom (enterAll d (m.die d).overflow.length m) d e.ctx) :
    poolAdd m d e = some ((enterAll d (m.die d).overflow.length m).modDie d fun y => { y with pool := y.pool ++ [e] }) :=
  if_pos ((poolHasRoom_iff ..).1 h)

theorem poolAdd_overflow {m : Module} {d : Fin 16} {e : PoolEnt} {w : Module}
    (hw : w = enterAll d (m.die d).overflow.length m) (h : ¬PoolHasRoom w d e.ctx)
    (hq : QuotaHasRoom w e.ctx) :
    poolAdd m d e = some ((w.modDie d fun y => { y with overflow := insertOlder e y.overflow }).modCtx e.ctx
      fun y => { y with spill := y.spill + 64 }) := by
  subst hw
  rw [poolHasRoom_iff] at h
  exact (if_neg h).trans (if_neg ((quotaHasRoom_iff ..).1 hq))

theorem poolAdd_none {m : Module} {d : Fin 16} {e : PoolEnt} {w : Module}
    (hw : w = enterAll d (m.die d).overflow.length m) (h : ¬PoolHasRoom w d e.ctx)
    (hq : ¬QuotaHasRoom w e.ctx) : poolAdd m d e = none := by
  subst hw
  rw [poolHasRoom_iff] at h
  exact (if_neg h).trans (if_pos (not_not.1 ((quotaHasRoom_iff ..).not.1 hq)))

theorem insertOlder_perm (e : PoolEnt) (es : List PoolEnt) : (insertOlder e es).Perm (e :: es) := by
  induction es with
  | nil => exact .refl _
  | cons f fs ih =>
    rw [insertOlder]
    split
    · exact .refl _
    · exact (ih.cons f).trans (.swap e f fs)

/-- An overflow that stands by readiness still does with one more entry. -/
theorem insertOlder_pairwise {e : PoolEnt} {es : List PoolEnt} (h : es.Pairwise fun e f => e.seq ≤ f.seq) :
    (insertOlder e es).Pairwise fun e f => e.seq ≤ f.seq := by
  induction es with
  | nil => exact List.pairwise_singleton _ _
  | cons f fs ih =>
    obtain ⟨hf, hfs⟩ := List.pairwise_cons.1 h
    rw [insertOlder]
    split
    · next hlt =>
      refine List.pairwise_cons.2 ⟨fun x hx => ?_, h⟩
      rcases List.mem_cons.1 hx with rfl | hx
      · omega
      · have := hf x hx; omega
    · next hlt =>
      refine List.pairwise_cons.2 ⟨fun x hx => ?_, ih hfs⟩
      rcases List.mem_cons.1 ((insertOlder_perm e fs).mem_iff.1 hx) with rfl | hx
      · omega
      · exact hf x hx

/-! ### Readiness and completion (R301) -/

/-- The die, the priority, the run and the pool entry of a node that becomes ready with a record. -/
def readyDie (i : Instance) (l : Line) : Fin 16 := if nodeDie l = 0xFF then i.home else Fin.ofNat 16 (nodeDie l)

def readyPrio (m : Module) (i : Instance) (n : Nat) (l : Line) : Nat :=
  min (if n = launchEntry i.image ∨ nodeInh l = true then i.prio else nodePrio l) (ctxCeiling m i.ctx)

def readyRun (m : Module) (i : Instance) (n : Nat) (l : Line) : NodeRun :=
  { node := BitVec.ofNat 16 n, die := readyDie i l, image := l, st := .waiting, readyAt := (m.die (readyDie i l)).cyc
    seq := m.ticket, prio := readyPrio m i n l, decision := .none, heldBack := false, again := false, jobsLeft := 0
    saved := [], savedOld := [], clk := Tbl.get [] i.clks n, avoid := none }

def readyEnt (m : Module) (i : Instance) (n : Nat) (l : Line) : PoolEnt :=
  { ctx := i.ctx, graph := i.graph, node := BitVec.ofNat 16 n, prio := readyPrio m i n l
    readyAt := (m.die (readyDie i l)).cyc, levelAt := (m.die (readyDie i l)).cyc, seq := m.ticket }

/-- A live graph with one more ready node: its pending count as its record has it. -/
def addReady (n : Nat) (l : Line) (r : NodeRun) (x : Instance) : Instance :=
  { x with pending := Tbl.set none x.pending n (some (nodeNpred l)), nodes := x.nodes ++ [r] }

/-- The module in which a node that becomes ready enters its pool. -/
def readyModule (m : Module) (i : Instance) (n : Nat) (l : Line) : Module :=
  modInst { m with ticket := m.ticket + 1 } i.ctx i.graph (addReady n l (readyRun m i n l))

section
variable {m m1 : Module} {c : Fin 64} {g : DevAddr} {n : Nat} {i : Instance} {l : Line}

theorem makeReady_eq (hf : findInst m c g = some i) (hr : i.reported = false) (hl : readyRecord m i n = .ok (.ok l, m1)) :
    makeReady m c g n = match poolAdd (readyModule m1 i n l) (readyDie i l) (readyEnt m1 i n l) with
      | some w => .ok w
      | none => .ok (reportInst (readyModule m1 i n l) c g n 4) := by
  obtain ⟨rfl, rfl⟩ := findInst_spec hf
  rw [makeReady, hf]
  simp only [hr, Bool.false_eq_true, if_false, hl, bind, Except.bind, readyDie, readyPrio, readyRun, readyEnt, readyModule,
    Bool.or_eq_true, decide_eq_true_eq, Module.nextTicket]
  rfl

theorem findInst_readyModule (h : findInst m i.ctx i.graph = some i) (n : Nat) (l : Line) :
    findInst (readyModule m i n l) i.ctx i.graph = some (addReady n l (readyRun m i n l) i) :=
  (findInst_modInst (f := addReady n l (readyRun m i n l)) fun _ => ⟨rfl, rfl⟩).trans (congrArg (Option.map _) h)

/-- The overflow enters the pool ahead of the node that becomes ready. -/
theorem enterAll_readyModule (d : Fin 16) (m : Module) (i : Instance) (n : Nat) (l : Line) :
    enterAll d ((readyModule m i n l).die d).overflow.length (readyModule m i n l) =
      withGraphs (enterAll d (m.die d).overflow.length m) (readyModule m i n l).graphs (m.ticket + 1) :=
  enterAll_withGraphs _ m d _ _

/-- A node that becomes ready when neither its pool nor the spill quota has room is reported. -/
theorem makeReady_refused (hf : findInst m c g = some i) (hr : i.reported = false)
    (hl : readyRecord m i n = .ok (.ok l, m1)) {m2 : Module}
    (h2 : m2 = enterAll (readyDie i l) (m1.die (readyDie i l)).overflow.length m1)
    (he : ¬PoolHasRoom m2 (readyDie i l) c) (hq : ¬QuotaHasRoom m2 c) :
    ∃ w, makeReady m c g n = .ok (reportInst w c g n 4) := by
  obtain ⟨rfl, rfl⟩ := findInst_spec hf
  have hw := enterAll_readyModule (readyDie i l) m1 i n l
  rw [← h2] at hw
  rw [makeReady_eq hf hr hl, poolAdd_none (e := readyEnt m1 i n l) hw.symm (poolHasRoom_withGraphs.not.2 he)
    (quotaHasRoom_withGraphs.not.2 hq)]
  exact ⟨_, rfl⟩

/-- A node that becomes ready enters its pool when there is room. -/
theorem makeReady_enters (hf : findInst m c g = some i) (hr : i.reported = false)
    (hl : readyRecord m i n = .ok (.ok l, m1)) {m2 : Module}
    (h2 : m2 = enterAll (readyDie i l) (m1.die (readyDie i l)).overflow.length m1) (he : PoolHasRoom m2 (readyDie i l) c) :
    ∃ w, makeReady m c g n = .ok w ∧ w.graphs = (readyModule m1 i n l).graphs ∧
      (w.die (readyDie i l)).pool = (m2.die (readyDie i l)).pool ++ [readyEnt m1 i n l] ∧
      (w.die (readyDie i l)).overflow = (m2.die (readyDie i l)).overflow := by
  obtain ⟨rfl, rfl⟩ := findInst_spec hf
  have hw := enterAll_readyModule (readyDie i l) m1 i n l
  rw [← h2] at hw
  rw [makeReady_eq hf hr hl, poolAdd_room (e := readyEnt m1 i n l) (hw ▸ poolHasRoom_withGraphs.2 he), hw]
  refine ⟨_, rfl, rfl, ?_⟩
  rw [Module.die_modDie_same]
  exact ⟨rfl, rfl⟩

/-- Without room in its pool it stands in the overflow when the spill quota has room. -/
theorem makeReady_overflows (hf : findInst m c g = some i) (hr : i.reported = false)
    (hl : readyRecord m i n = .ok (.ok l, m1)) {m2 : Module}
    (h2 : m2 = enterAll (readyDie i l) (m1.die (readyDie i l)).overflow.length m1)
    (he : ¬PoolHasRoom m2 (readyDie i l) c) (hq : QuotaHasRoom m2 c) :
    ∃ w, makeReady m c g n = .ok w ∧ w.graphs = (readyModule m1 i n l).graphs ∧
      (w.die (readyDie i l)).pool = (m2.die (readyDie i l)).pool ∧ (w.ctx c).spill = (m2.ctx c).spill + 64 ∧
      (w.die (readyDie i l)).overflow = insertOlder (readyEnt m1 i n l) (m2.die (readyDie i l)).overflow := by
  obtain ⟨rfl, rfl⟩ := findInst_spec hf
  have hw := enterAll_readyModule (readyDie i l) m1 i n l
  rw [← h2] at hw
  rw [makeReady_eq hf hr hl, poolAdd_overflow (e := readyEnt m1 i n l) hw.symm (poolHasRoom_withGraphs.not.2 he)
    (quotaHasRoom_withGraphs.2 hq)]
  refine ⟨_, rfl, rfl, ?_⟩
  rw [Module.die_modCtx, Module.die_modDie_same]
  exact ⟨rfl, congrArg CtxDyn.spill (Module.ctx_modCtx_same ..), rfl⟩

/-- A pending count in the module, with the clock of the completion that counts it down. -/
def countedDown (m : Module) (c : Fin 64) (g : DevAddr) (n : Nat) (k : Clock) (v : Nat) : Module :=
  modInst m c g fun x => { x with
    pending := Tbl.set none x.pending n (some v), clks := Tbl.set [] x.clks n (Clock.join (Tbl.get [] x.clks n) k) }

theorem decPending_eq {p : Nat} {k : Clock} (hf : findInst m c g = some i) (hp : Tbl.get none i.pending n = some p) :
    decPending m c g n k =
      if (p + 0xFFFF) % 0x10000 ≠ 0 then .ok (countedDown m c g n k ((p + 0xFFFF) % 0x10000))
      else if i.nodes.any fun x => decide (x.node.toNat = n) then
        .ok (modNode (countedDown m c g n k ((p + 0xFFFF) % 0x10000)) c g (BitVec.ofNat 16 n) fun x => { x with again := true })
      else makeReady (countedDown m c g n k ((p + 0xFFFF) % 0x10000)) c g n := by
  rw [decPending, hf]
  simp only [hp, bind, Except.bind, countedDown]

end

/-! ### Launches (R294, R295) -/

/-- A launch that is reported with a cause and dropped. -/
def launchFailed (m : Module) (d : Fin 16) (l : Launch) (cause : Nat) : Module :=
  setLaunch (reportTuple m l.ctx l.image (launchEntry l.image) cause) d l none

section
variable {s : State} {d : Fin 16} {l : Launch} {rest : List Launch}

/-- LAUNCH begins the first launch of a die whose graph is not live. -/
theorem exec_launch_first (hq : (s.m.die d).launches = l :: rest) (hv : ctxValid s.m l.ctx = true)
    (hf : findInst s.m l.ctx (BitVec.ofNat 57 (launchGraph l.image)) = none) (hr : l.reads = 0)
    (hi : ∀ i ∈ s.m.graphs, i.home = d → i.nodes ≠ []) : exec (.launch d) s = dispOut s d (tryLaunch s.m d l) := by
  have hidle : endIdle s.m d = .ok s.m := by
    have : (s.m.graphs.filter fun i => decide (i.home = d) && i.nodes.isEmpty) = [] :=
      List.filter_eq_nil_iff.2 fun i him => by simpa using hi i him
    rw [endIdle, this]; rfl
  show execLaunch d s = _
  rw [execLaunch, hidle]
  simp only [bind, Except.bind, hq, nextLaunch]
  rw [if_pos (by simp [hr, hv, hf])]

/-- LAUNCH_TAG_REREAD reads the first launch that waits for its tag again once its time has come. -/
theorem exec_reread_first (hq : (s.m.die d).launches = l :: rest) (hv : ctxValid s.m l.ctx = true) (hr : l.reads ≠ 0)
    (ht : ((s.m.die d).cyc - l.nextAt).toNat < 2 ^ 63) :
    exec (.launchTagReread d) s = dispOut s d (tryLaunch s.m d l) := by
  show execLaunchTagReread d s = _
  rw [execLaunchTagReread, hq, List.find?_cons_of_pos (by
    rw [reached, decide_eq_true ht, hv, decide_eq_true hr]; rfl)]

variable {m m1 m2 m3 : Module} {x y t : Nat}

theorem tryLaunch_tuple (h : launchOk l.image = false) : tryLaunch m d l = .ok (launchFailed m d l 2) := by
  simp [tryLaunch, h, launchFailed]

theorem tryLaunch_header_fault {e : Nat} (h : launchOk l.image = true)
    (hx : dispRead m d l.ctx (BitVec.ofNat 57 (launchGraph l.image)).toNat 64 = .ok (.error e, m1)) :
    tryLaunch m d l = .ok (launchFailed m1 d l e) := by
  simp only [tryLaunch, h, hx, launchFailed, bind, Except.bind, Bool.not_true, Bool.false_eq_true, if_false]

theorem tryLaunch_header (h : launchOk l.image = true)
    (hx : dispRead m d l.ctx (BitVec.ofNat 57 (launchGraph l.image)).toNat 64 = .ok (.ok x, m1))
    (hh : headerOk (BitVec.ofNat 57 (launchGraph l.image)).toNat (launchEntry l.image) x = false) :
    tryLaunch m d l = .ok (launchFailed m1 d l 2) := by
  simp only [tryLaunch, h, hx, hh, launchFailed, bind, Except.bind, Bool.not_true, Bool.not_false, Bool.false_eq_true,
    if_false, if_true]

/-- What a launch opens. -/
def launchInst (m : Module) (d : Fin 16) (l : Launch) (x : Nat) : Instance :=
  { ctx := l.ctx, graph := BitVec.ofNat 57 (launchGraph l.image), home := d, image := l.image
    prio := min (fld (tupField l.image 3) 0 3) (ctxCeiling m l.ctx), tokens := fld (tupField l.image 3) 8 8
    sig := BitVec.ofNat 57 (fld x 64 57), nnodes := fld x 0 16, pending := [], iter := [], nodes := []
    clks := Tbl.set [] [] (launchEntry l.image) l.clk, reported := false }

/-- The module in which the entry node of a launch becomes ready. -/
def launchModule (m : Module) (d : Fin 16) (l : Launch) (x : Nat) : Module :=
  setLaunch { m with graphs := m.graphs ++ [launchInst m d l x] } d l none

/-- A launch whose tuple, header, entry node's record and payload tail are all read: the tail decides. -/
theorem tryLaunch_tail (h : launchOk l.image = true)
    (hx : dispRead m d l.ctx (BitVec.ofNat 57 (launchGraph l.image)).toNat 64 = .ok (.ok x, m1))
    (hh : headerOk (BitVec.ofNat 57 (launchGraph l.image)).toNat (launchEntry l.image) x = true)
    (hy : dispRead m1 d l.ctx (nodeAt (BitVec.ofNat 57 (launchGraph l.image)) (launchEntry l.image)) 64 = .ok (.ok y, m2))
    (ht : dispRead m2 d l.ctx ((launchArg l.image + fld (tupField l.image 4) 32 32 - 4) % 2 ^ 57) 4 = .ok (.ok t, m3)) :
    tryLaunch m d l =
      if t = fld (tupField l.image 4) 0 32 then
        (makeReady (launchModule m3 d l x) l.ctx (BitVec.ofNat 57 (launchGraph l.image)) (launchEntry l.image)).bind
          fun w => checkEnd w l.ctx (BitVec.ofNat 57 (launchGraph l.image))
      else if l.reads + 1 < 16 then
        .ok (setLaunch m3 d l (some { l with reads := l.reads + 1, nextAt := (m3.die d).cyc + 500 }))
      else .ok (launchFailed (sendEvent m3 (some d) l.ctx.val 1 (BitVec.ofNat 57 (launchGraph l.image)).toNat
        (fld (tupField l.image 4) 0 32)) d l 1) := by
  simp only [tryLaunch, h, hx, hh, hy, ht, launchFailed, launchModule, launchInst, bind, Except.bind, Bool.not_true,
    Bool.false_eq_true, if_false]

end

/-- A live graph that has a node does not end. -/
theorem checkEnd_of_nodes {m : Module} {c : Fin 64} {g : DevAddr} {i : Instance} (hf : findInst m c g = some i)
    (hn : i.nodes ≠ []) : checkEnd m c g = .ok m := by
  rw [checkEnd, hf]
  simp [hn]

/-! ### The constant bank (01 R26) -/

/-- The words that a line of a constant image holds. -/
theorem get_kbank_fold (bs : List Byte) (base n : Nat) (t : Tbl W32) (k : Nat) :
    Tbl.get 0 ((List.range n).foldl (fun t k =>
      Tbl.set 0 t (base + k) (BitVec.ofNat 32 (ofBytes ((bs.drop (4 * k)).take 4)))) t) k =
      if base ≤ k ∧ k < base + n then BitVec.ofNat 32 (ofBytes ((bs.drop (4 * (k - base))).take 4)) else Tbl.get 0 t k := by
  induction n with
  | zero => rw [if_neg (by omega)]; rfl
  | succ n ih =>
    rw [List.range_succ, List.foldl_append, List.foldl_cons, List.foldl_nil, Tbl.get_set, ih]
    by_cases hk : k = base + n
    · subst hk
      rw [if_pos rfl, if_pos (by omega), Nat.add_sub_cancel_left]
    · rw [if_neg hk]
      exact if_congr (by omega) rfl rfl

/-- What one reading of a constant image's line does to a core. -/
def bankFilled (bs : List Byte) (n : Nat) (x : Core) : Core :=
  { x with
    kbank := (List.range n).foldl (fun t k =>
      Tbl.set 0 t (x.kloaded + k) (BitVec.ofNat 32 (ofBytes ((bs.drop (4 * k)).take 4)))) x.kbank
    kloaded := x.kloaded + n }

section
variable {s : State} {d : Fin 16} {co : Fin 128}

theorem constantBankLoad_idle
    (h : (s.m.core d co).job = none ∨ (s.m.core d co).nconst ≤ (s.m.core d co).kloaded ∨ (s.m.core d co).kfault = true) :
    exec (.constantBankLoad d co) s = .next s := by
  show execConstantBankLoad d co s = _
  rw [execConstantBankLoad]
  exact if_pos (h.imp_left fun h => by rw [h]; rfl)

theorem constantBankLoad_line (hj : (s.m.core d co).job ≠ none) (hk : (s.m.core d co).kloaded < (s.m.core d co).nconst)
    (hf : (s.m.core d co).kfault = false) {a n : Nat}
    (ha : a = ((s.m.core d co).kaddr.toNat + 4 * (s.m.core d co).kloaded) % 2 ^ 57)
    (hn : n = min ((64 - a % 64) / 4) ((s.m.core d co).nconst - (s.m.core d co).kloaded)) :
    exec (.constantBankLoad d co) s = dispOut s d ((dispLine s.m d (s.m.core d co).ctx a (4 * n)).bind fun r =>
      match r.1 with
      | .error e =>
        let m := r.2.modCore d co fun x => { x with kfault := true }
        .ok (match (s.m.core d co).job with
          | some j => reportInst m j.ctx j.graph j.node.toNat e
          | none => m)
      | .ok bs => .ok (r.2.modCore d co (bankFilled bs n))) := by
  subst hn ha
  show execConstantBankLoad d co s = _
  rw [execConstantBankLoad]
  refine (if_neg ?_).trans rfl
  rintro (h | h | h)
  · exact hj (Option.isNone_iff_eq_none.1 h)
  · omega
  · rw [hf] at h; cases h

end

/-- Settles O45: the outcomes of a launch's readings, of a readiness by the room in the pool and in the quota, of a
completion by the count that it leaves, and of a line of a constant image (logs 55, 75). -/
theorem graphsLaunchAndBecomeReady : Obligations.GraphsLaunchAndBecomeReady := by
  refine ⟨fun s d l rest j hq hv hf hj => ?launch, fun m m1 c g n i l hf hr hl => ?ready, fun s d k => ?overflow,
    fun m c g n p k i hf hp hlt => ?pending, fun s d co bs m => ?bank⟩
  case launch =>
    have hx : exec j s = dispOut s d (tryLaunch s.m d l) := by
      rcases hj with ⟨rfl, hr, hi⟩ | ⟨rfl, hr, ht⟩
      · exact exec_launch_first hq hv hf hr hi
      · exact exec_reread_first hq hv hr ht
    refine ⟨fun h => ?_, fun e m1 h hh => ?_, fun x m1 h hh => ⟨fun hx' => ?_, fun y m2 t m3 ho hy ht => ?_⟩⟩
    · rw [hx, tryLaunch_tuple h]; rfl
    · rw [hx, tryLaunch_header_fault h hh]; rfl
    · rw [hx, tryLaunch_header h hh hx']; rfl
    · have htail := tryLaunch_tail h hh ho hy ht
      refine ⟨fun hne hr => ?_, fun hne hr => ?_, fun heq w hw hk => ?_⟩
      · rw [hx, htail, if_neg hne, if_pos (by omega)]; rfl
      · rw [hx, htail, if_neg hne, if_neg (by omega)]; rfl
      · obtain ⟨k, hk, hkn⟩ := hk
        have hw' : makeReady (launchModule m3 d l x) l.ctx (BitVec.ofNat 57 (launchGraph l.image)) (launchEntry l.image) =
          .ok w := hw
        rw [hx, htail, if_pos heq, hw', Except.bind, checkEnd_of_nodes hk hkn, dispOut_ok]
  case ready =>
    obtain ⟨rfl, rfl⟩ := findInst_spec hf
    have hm1 : m1 = m := readyRecord_frame hl
    have hfind := findInst_readyModule (hm1 ▸ hf : findInst m1 i.ctx i.graph = some i) n l
    refine ⟨fun he hq => makeReady_refused hf hr hl rfl he (Nat.not_le.2 hq), fun h => ?_⟩
    by_cases he : PoolHasRoom (enterAll (readyDie i l) (m1.die (readyDie i l)).overflow.length m1) (readyDie i l) i.ctx
    · obtain ⟨w, hw, hg, hp, ho⟩ := makeReady_enters hf hr hl rfl he
      exact ⟨w, hw, fun _ => ⟨hp, ho⟩, fun hn => absurd he hn, (findInst_congr hg ..).trans hfind⟩
    · obtain ⟨w, hw, hg, hp, hs, ho⟩ := makeReady_overflows hf hr hl rfl he (h.resolve_left he)
      exact ⟨w, hw, fun hy => absurd hy he, fun _ => ⟨hp, hs, (List.Perm.of_eq ho).trans (insertOlder_perm ..),
        fun hsorted => ho ▸ insertOlder_pairwise hsorted⟩, (findInst_congr hg ..).trans hfind⟩
  case overflow =>
    refine ⟨?_, enterAll_left le_rfl⟩
    show ∃ t, execPoolOverflowEnter d s = _ ∧ _
    rw [execPoolOverflowEnter, enterAll]
    cases h : enterPool s.m d with
    | none =>
      refine ⟨s, rfl, ?_⟩
      cases k with
      | zero => rfl
      | succ k => rw [enterAll, h]
    | some w => exact ⟨_, rfl, rfl⟩
  case pending =>
    have hd := decPending_eq (k := k) hf hp
    refine ⟨fun h => ?_, fun h => ?_, fun h hx => ?_⟩
    · rw [hd, show (p + 0xFFFF) % 0x10000 = p - 1 by omega, if_pos (by omega)]; rfl
    · rw [hd, show (p + 0xFFFF) % 0x10000 = 65535 by omega, if_pos (by omega)]; rfl
    · have hany : ¬ (i.nodes.any fun x => decide (x.node.toNat = n)) = true := by simpa using hx
      rw [hd, show (p + 0xFFFF) % 0x10000 = 0 by omega, if_neg (by omega), if_neg hany]; rfl
  case bank =>
    refine ⟨constantBankLoad_idle, fun j e hj hk hf hl => ?_, fun hj hk hf hl => ?_⟩
    · rw [constantBankLoad_line (by rw [hj]; exact Option.some_ne_none _) hk hf rfl rfl, hl]
      simp only [Except.bind, hj]
      rfl
    · refine ⟨m.modCore d co (bankFilled bs _), (constantBankLoad_line hj hk hf rfl rfl).trans (by rw [hl]; rfl), ?_,
        fun q hq => ?_, fun q hq => ?_⟩
      all_goals rw [Module.core_modCore_same]
      · rfl
      · refine (get_kbank_fold ..).trans ?_
        rw [if_pos (by omega), Nat.add_sub_cancel_left]
      · exact (get_kbank_fold ..).trans (if_neg (by omega))

end Sys2Proof.Machine
end

section
/-! SUPPORT. The order of the pool, what a scan of it does with its first entry, how a node completes
(11 R301, R304). -/

namespace Sys2Proof.Machine

/-! ### The order in which the pool is taken (R303, R304) -/

/-- One entry is taken before another or beside it: by priority, then by age of readiness. -/
def takenBefore (e f : PoolEnt) : Prop := f.prio < e.prio ∨ (e.prio = f.prio ∧ e.seq ≤ f.seq)

theorem takenBefore_of_not {e f : PoolEnt} (h : ¬takenBefore e f) : takenBefore f e := by
  unfold takenBefore at *; omega

theorem takenBefore_trans {e f k : PoolEnt} (h : takenBefore e f) (hk : takenBefore f k) : takenBefore e k := by
  unfold takenBefore at *; omega

theorem insertEntry_perm (e : PoolEnt) (es : List PoolEnt) : (insertEntry e es).Perm (e :: es) := by
  induction es with
  | nil => exact .refl _
  | cons f fs ih =>
    rw [insertEntry]
    split
    · exact .refl _
    · exact (ih.cons f).trans (.swap e f fs)

theorem insertEntry_pairwise {e : PoolEnt} {es : List PoolEnt} (h : es.Pairwise takenBefore) :
    (insertEntry e es).Pairwise takenBefore := by
  induction es with
  | nil => exact List.pairwise_singleton _ _
  | cons f fs ih =>
    obtain ⟨hf, hfs⟩ := List.pairwise_cons.1 h
    rw [insertEntry]
    split
    · next he =>
      refine List.pairwise_cons.2 ⟨List.forall_mem_cons.2 ⟨he, fun x hx => takenBefore_trans he (hf x hx)⟩, h⟩
    · next he =>
      refine List.pairwise_cons.2 ⟨fun x hx => ?_, ih hfs⟩
      rcases List.mem_cons.1 ((insertEntry_perm e fs).mem_iff.1 hx) with rfl | hx
      · exact takenBefore_of_not he
      · exact hf x hx

theorem sortedPool_perm (pool : List PoolEnt) : (pool.foldr insertEntry []).Perm pool := by
  induction pool with
  | nil => exact .refl _
  | cons e es ih => exact (insertEntry_perm e _).trans (ih.cons e)

theorem sortedPool_pairwise (pool : List PoolEnt) : (pool.foldr insertEntry []).Pairwise takenBefore := by
  induction pool with
  | nil => exact .nil
  | cons e es ih => exact insertEntry_pairwise ih

/-! ### The scan of the pool (R304) -/

/-- The width of a KERN node: that of its record, or the jobs that a checkpoint has saved. -/
def NodeRun.need (n : NodeRun) : Nat := if n.saved.isEmpty then nodeWidth n.image else n.saved.length

/-- The cores that are held for the head against an entry. -/
def heldCores (m : Module) (d : Fin 16) (e : PoolEnt) : List (Fin 128) :=
  match headOf m d with
  | some (h, use) => if h = e then [] else use
  | none => []

/-- The free cores that the node of an entry can take, in its order. -/
def freeCores (m : Module) (d : Fin 16) (e : PoolEnt) (n : NodeRun) : List (Fin 128) :=
  n.uses.filter fun c => (m.core d c).job.isNone && !(heldCores m d e).contains c

theorem entryNode_eq {m : Module} {e : PoolEnt} {i : Instance} {n : NodeRun} (hf : findInst m e.ctx e.graph = some i)
    (hv : ctxValid m e.ctx = true) (hn : findNode m e.ctx e.graph e.node = some n) : entryNode m e = some (i, n) := by
  rw [entryNode, hf, hn, Option.filter, if_pos hv]

section
variable {m m1 : Module} {d : Fin 16} {e : PoolEnt} {es : List PoolEnt} {i : Instance} {n : NodeRun}

theorem scanPool_kern (he : entryNode m e = some (i, n)) (hk : nodeKind n.image = 0) :
    scanPool d (e :: es) m =
      if (classCores (nodeClass n.image) none).length < n.need then failNode (unpool m e.ctx e.graph n) i n 3
      else if n.need ≤ (freeCores m d e n).length then placeNode m i n e.prio ((freeCores m d e n).take n.need)
      else
        let m' := if (headOf m d).isNone then m.modDie d fun x => { x with head := some e.key } else m
        scanPool d es (if (m'.die d).head = some e.key then preempt m' i n e.prio n.uses (freeCores m d e n).length n.need
          else m') := by
  simp only [scanPool, he, hk]
  rfl

theorem scanPool_copy (he : entryNode m e = some (i, n)) (hk : nodeKind n.image = 1)
    (hq : (engQueue m (.copy d (Fin.ofNat 8 (nodeOpa n.image / 2 ^ 48)))).length < 32) :
    scanPool d (e :: es) m = .ok (dispatchCopy m i n) := by
  simp only [scanPool, he, hk]
  exact if_pos hq

theorem scanPool_coreless {k : Nat} (he : entryNode m e = some (i, n)) (hk : nodeKind n.image = k + 2) :
    scanPool d (e :: es) m = performCoreless m i n := by
  simp only [scanPool, he, hk]

theorem performCoreless_gate (hk : nodeKind n.image = 5) :
    performCoreless m i n = completeNode (unpool m i.ctx i.graph n) i.ctx i.graph n (allSucc n.image) n.clk := by
  simp only [performCoreless, hk]

theorem performCoreless_sign (hk : nodeKind n.image = 4)
    (hs : dispSignal (unpool m i.ctx i.graph n) n.die i.ctx (nodeOpa n.image) (nodeOpb n.image) n.clk = .ok (none, m1)) :
    performCoreless m i n = completeNode m1 i.ctx i.graph n (allSucc n.image) n.clk := by
  simp only [performCoreless, hk, hs, bind, Except.bind]

theorem performCoreless_cond {w : Nat} (hk : nodeKind n.image = 3)
    (hr : dispRead (unpool m i.ctx i.graph n) n.die i.ctx (nodeOpa n.image) 8 = .ok (.ok w, m1)) :
    performCoreless m i n = completeNode m1 i.ctx i.graph n [nodeSucc n.image (if w = 0 then 1 else 0)] n.clk := by
  by_cases hw : w = 0 <;> simp [performCoreless, hk, hr, bind, Except.bind, hw]

theorem performCoreless_loop {w : Nat} (hk : nodeKind n.image = 2)
    (hr : dispRead (unpool m i.ctx i.graph n) n.die i.ctx (nodeOpa n.image) 8 = .ok (.ok w, m1)) {goes : Prop}
    [Decidable goes] (hg : goes ↔ w ≠ 0 ∧ Tbl.get 0 i.iter n.node.toNat < nodeOpb n.image) :
    performCoreless m i n = completeNode (modInst m1 i.ctx i.graph fun x => { x with
      iter := Tbl.set 0 x.iter n.node.toNat (if goes then Tbl.get 0 i.iter n.node.toNat + 1 else 0) }) i.ctx i.graph n
      [nodeSucc n.image (if goes then 0 else 1)] n.clk := by
  have hd : (decide (w ≠ 0) && decide (Tbl.get 0 i.iter n.node.toNat < nodeOpb n.image)) = decide goes := by
    rw [← Bool.decide_and, decide_eq_decide]; exact hg.symm
  simp only [performCoreless, hk, hr, bind, Except.bind, if_true, hd, decide_eq_true_eq]

end

/-! ### The tick of a dispatcher (R304) -/

section
variable {s : State} {d : Fin 16}

theorem exec_dispatchTick_keep (h : (s.m.die d).head = none ∨ headOf s.m d ≠ none) :
    exec (.dispatchTick d) s = dispOut s d (scanPool d ((s.m.die d).pool.foldr insertEntry []) s.m) := by
  have hd : dropHead s.m d = s.m := by
    unfold dropHead
    split
    · next h1 h2 => rw [h1, h2] at h; simp at h
    · rfl
  show execDispatchTick d s = _
  rw [execDispatchTick, hd]

theorem headOf_of_empty {m : Module} (hp : (m.die d).pool = []) : headOf m d = none := by
  rw [headOf, hp]; rfl

theorem exec_dispatchTick_empty (hp : (s.m.die d).pool = []) {c : Fin 64} {g : DevAddr} {b : BitVec 16}
    (hh : (s.m.die d).head = some (c, g, b)) :
    exec (.dispatchTick d) s = .next { s with
      m := modNode (s.m.setDie d { s.m.die d with head := none }) c g b fun x => { x with chosen := false } } := by
  show execDispatchTick d s = _
  rw [execDispatchTick, hp, dropHead, hh, headOf_of_empty hp]
  rfl

end

/-! ### How a node completes (R301) -/

/-- No bit of a node is out: dropping its bits leaves the module. -/
theorem dropBits_none {m : Module} {d : Fin 16} {c : Fin 64} {g : DevAddr} {n : BitVec 16}
    (h : ∀ d k, ∀ h ∈ (m.group d k).out, ¬(h.ctx = c ∧ h.graph = g ∧ h.node = n)) : dropBits m d c g n = m := by
  unfold dropBits
  dsimp only
  induction Tbl.keys (m.die d).groups with
  | nil => rfl
  | cons k ks ih =>
    have hk : ¬ ((m.group d k).out.any fun h => decide (h.ctx = c) && decide (h.graph = g) && decide (h.node = n)) = true := by
      rw [List.any_eq_true]
      rintro ⟨x, hx, he⟩
      exact h d k x hx (by simpa [and_assoc] using he)
    rw [List.foldl_cons, if_neg hk, ih]

/-- What a completion without successors, signal or further readiness leaves of a graph's record. -/
def completedInst (n : NodeRun) (k : Clock) (x : Instance) : Instance :=
  { x with
    nodes := x.nodes.filter fun y => decide (y.node ≠ n.node)
    clks := Tbl.set [] x.clks doneKey (Clock.join (Tbl.get [] x.clks doneKey) k) }

theorem dropNode_none {m : Module} {c : Fin 64} {g : DevAddr} {n : BitVec 16}
    (h : ∀ d k, ∀ h ∈ (m.group d k).out, ¬(h.ctx = c ∧ h.graph = g ∧ h.node = n)) :
    dropNode m c g n = modInst m c g fun i => { i with nodes := i.nodes.filter fun x => !decide (x.node = n) } := by
  unfold dropNode
  cases findNode m c g n with
  | none => rfl
  | some x => dsimp only; rw [dropBits_none h]

/-- A completion of a node whose successors and signal are none, among other nodes, changes its record alone. -/
theorem completeNode_alone {m : Module} {c : Fin 64} {g : DevAddr} {n : NodeRun} {k : Clock} {i : Instance}
    (hf : findInst m c g = some i) (hs : nodeSig n.image = 0) (ha : n.again = false) (hx : ∃ x ∈ i.nodes, x.node ≠ n.node)
    (ho : ∀ d k, ∀ h ∈ (m.group d k).out, ¬(h.ctx = c ∧ h.graph = g ∧ h.node = n.node)) :
    ∃ w, completeNode m c g n [0xFFFF] k = .ok w ∧ w = { m with graphs := w.graphs } ∧
      findInst w c g = some (completedInst n k i) := by
  obtain ⟨w, hw⟩ : ∃ w, w = modInst (dropNode m c g n.node) c g fun i => { i with
    clks := Tbl.set [] i.clks doneKey (Clock.join (Tbl.get [] i.clks doneKey) k) } := ⟨_, rfl⟩
  have hfw : findInst w c g = some (completedInst n k i) := by
    rw [hw, findInst_modInst, dropNode_none ho, findInst_modInst, hf]
    · simp only [completedInst, Option.map_some, ne_eq, decide_not]
    all_goals exact fun _ => ⟨rfl, rfl⟩
  have hne : (completedInst n k i).nodes ≠ [] := by
    obtain ⟨x, hx, hxn⟩ := hx
    exact List.ne_nil_of_mem (List.mem_filter.2 ⟨hx, by simpa using hxn⟩)
  refine ⟨w, ?_, by rw [hw, dropNode_none ho]; rfl, hfw⟩
  rw [completeNode, ← hw, hs, ha]
  exact checkEnd_of_nodes hfw hne

end Sys2Proof.Machine
end

section
/-! SUPPORT. How the jobs of a node start on their cores, and what the end of a job leaves (01 R26, 11 R305, R307,
14 R332). -/

namespace Sys2Proof.Machine

/-! ### Nodes of live graphs -/

theorem findNode_congr {m w : Module} (h : w.graphs = m.graphs) (c : Fin 64) (g : DevAddr) (b : BitVec 16) :
    findNode w c g b = findNode m c g b := by rw [findNode, findInst_congr h, findNode]

/-- A node is found changed as it was changed. -/
theorem findNode_modNode {m : Module} {c : Fin 64} {g : DevAddr} {b : BitVec 16} {f : NodeRun → NodeRun}
    (hf : ∀ x, (f x).node = x.node) : findNode (modNode m c g b f) c g b = (findNode m c g b).map f := by
  rw [findNode, modNode, findInst_modInst, findNode]
  · cases findInst m c g with
    | none => rfl
    | some i =>
      rw [Option.map_some, Option.bind_some, Option.bind_some, List.find?_map]
      have hp : ((fun x : NodeRun => decide (x.node = b)) ∘ fun x => if x.node = b then f x else x) =
          fun x => decide (x.node = b) := by
        funext x
        by_cases hx : x.node = b <;> simp [hx, hf]
      rw [hp]
      cases hx : i.nodes.find? fun x => decide (x.node = b) with
      | none => rfl
      | some x => rw [Option.map_some, Option.map_some, if_pos (by simpa using List.find?_some hx)]
  · exact fun _ => ⟨rfl, rfl⟩

/-! ### The start of a job (01 R26, 14 R332) -/

/-- A core at the start of job `k` of a node, from what the core held and the die's moment. -/
def startedCore (i : Instance) (n : NodeRun) (level img : Nat) (now : W64) (k : Nat) (x : Core) : Core :=
  let arg := if fld (nodeOpb n.image) 0 57 = 0 then launchArg i.image else fld (nodeOpb n.image) 0 57
  let st := fun (q : StreamName) => startStream (imgEntry img q) arg k (nodeWidth n.image) (imgShape img)
  { newCore x i.ctx with
    clk := Clock.join x.clk (Clock.ofDie n.die n.clk)
    nconst := imgNconst img, kaddr := BitVec.ofNat 57 (imgConst img)
    est := BitVec.ofNat 32 (nodeEst n.image), estAt := now
    job := some { ctx := i.ctx, graph := i.graph, node := n.node.setWidth 32, index := BitVec.ofNat 16 k
                  width := nodeWidth n.image, prio := level, placedAt := now }
    l := st .l, x := st .x, st := st .s }

theorem setChains_frame (m : Module) (d : Fin 16) (c : Fin 128) (ks : List Chain) :
    setChains m d c ks = { m with chains := (setChains m d c ks).chains } := by
  unfold setChains
  generalize List.finRange 16 = ns
  induction ns generalizing m with
  | nil => rfl
  | cons k ns ih => rw [List.foldl_cons, ih]; rfl

theorem zeroUnit_frame (m : Module) (d : Fin 16) (c : Fin 128) (x : Fin 64) :
    zeroUnit m d c x = { m with unitPoison := (zeroUnit m d c x).unitPoison } := by
  unfold zeroUnit
  split <;> rfl

section
variable {i : Instance} {n : NodeRun} {level img : Nat}

theorem startJob_frame (m : Module) (k : Nat) (c : Fin 128) :
    (startJob m i n level img k c).graphs = m.graphs ∧ (startJob m i n level img k c).dies = m.dies := by
  rw [startJob, setChains_frame, zeroUnit_frame]
  exact ⟨rfl, rfl⟩

theorem startJob_core (m : Module) (k : Nat) (c c' : Fin 128) :
    (startJob m i n level img k c).core n.die c' =
      if c' = c then startedCore i n level img (m.die n.die).cyc k (m.core n.die c) else m.core n.die c' := by
  have h : (startJob m i n level img k c).cores =
      (m.modCore n.die c (startedCore i n level img (m.die n.die).cyc k)).cores := by
    rw [startJob, setChains_frame, zeroUnit_frame]; rfl
  rw [Module.core, h]
  exact (Module.core_modCore ..).trans (if_congr (by simp) rfl rfl)

/-- The jobs of a node start one after another. -/
def startJobs (m : Module) (i : Instance) (n : NodeRun) (level img : Nat) (js : List (Nat × Fin 128)) : Module :=
  js.foldl (fun m j => startJob m i n level img j.1 j.2) m

theorem startJobs_frame (m : Module) (js : List (Nat × Fin 128)) :
    (startJobs m i n level img js).graphs = m.graphs ∧ (startJobs m i n level img js).dies = m.dies := by
  induction js generalizing m with
  | nil => exact ⟨rfl, rfl⟩
  | cons j js ih =>
    obtain ⟨hg, hd⟩ := ih (startJob m i n level img j.1 j.2)
    obtain ⟨hg', hd'⟩ := startJob_frame (i := i) (n := n) (level := level) (img := img) m j.1 j.2
    exact ⟨hg.trans hg', hd.trans hd'⟩

/-- A core on which none of them starts keeps what it holds. -/
theorem startJobs_core_out (m : Module) {js : List (Nat × Fin 128)} {c : Fin 128} (h : c ∉ js.map Prod.snd) :
    (startJobs m i n level img js).core n.die c = m.core n.die c := by
  induction js generalizing m with
  | nil => rfl
  | cons j js ih =>
    rw [List.map_cons, List.mem_cons, not_or] at h
    exact (ih _ h.2).trans ((startJob_core ..).trans (if_neg h.1))

/-- Each of them starts on its own core. -/
theorem startJobs_core (m : Module) {js : List (Nat × Fin 128)} (hd : (js.map Prod.snd).Nodup) {k : Nat} {c : Fin 128}
    (h : (k, c) ∈ js) :
    (startJobs m i n level img js).core n.die c = startedCore i n level img (m.die n.die).cyc k (m.core n.die c) := by
  induction js generalizing m with
  | nil => cases h
  | cons j js ih =>
    obtain ⟨hj, hd⟩ := List.nodup_cons.1 hd
    rcases List.mem_cons.1 h with rfl | h
    · exact (startJobs_core_out _ hj).trans ((startJob_core ..).trans (if_pos rfl))
    · have hne : c ≠ j.2 := fun e => hj (e ▸ List.mem_map.2 ⟨_, h, rfl⟩)
      refine (ih _ hd h).trans ?_
      rw [startJob_core, if_neg hne, Module.die, (startJob_frame ..).2, Module.die]

theorem ascending_nodup (cs : List (Fin 128)) : (ascending cs).Nodup := (List.nodup_finRange 128).filter _

/-- The module when the jobs of a node have started on cores. -/
def placed (m : Module) (i : Instance) (n : NodeRun) (level img : Nat) (cs : List (Fin 128)) : Module :=
  startJobs m i n level img ((List.range (ascending cs).length).zip (ascending cs))

/-- A node that starts running on cores. -/
def startedRun (cs : List (Fin 128)) (now : W64) (level left : Nat) (x : NodeRun) : NodeRun :=
  { x with st := .running cs now level, decision := .none, heldBack := false, chosen := false, failed := false
           jobsLeft := left, saved := [], savedChains := [], savedOld := [], avoid := none }

theorem placed_frame (m : Module) (cs : List (Fin 128)) :
    (placed m i n level img cs).graphs = m.graphs ∧ (placed m i n level img cs).die n.die = m.die n.die := by
  obtain ⟨hg, hd⟩ := startJobs_frame (i := i) (n := n) (level := level) (img := img) m
    ((List.range (ascending cs).length).zip (ascending cs))
  exact ⟨hg, by rw [Module.die, placed, hd, Module.die]⟩

theorem placed_core (m : Module) {cs : List (Fin 128)} {k : Nat} {c : Fin 128} (h : (ascending cs)[k]? = some c) :
    (placed m i n level img cs).core n.die c = startedCore i n level img (m.die n.die).cyc k (m.core n.die c) := by
  refine startJobs_core m ?_ (List.mem_of_getElem? (i := k) (List.getElem?_zip_eq_some.2 ⟨?_, h⟩))
  · rw [List.map_snd_zip (by rw [List.length_range])]
    exact ascending_nodup cs
  · obtain ⟨hk, -⟩ := List.getElem?_eq_some_iff.1 h
    exact List.getElem?_range hk

/-- A node whose image and constants are read starts its jobs on the cores, in their order. -/
theorem placeNode_started {m m1 m2 : Module} {cs : List (Fin 128)} {bs : List Byte} (hs : n.saved = [])
    (hi : dispRead m n.die i.ctx (nodeOpa n.image) 64 = .ok (.ok img, m1)) (hok : imageOk img = true)
    (hb : dispBytes m1 n.die i.ctx (imgConst img) (4 * imgNconst img) = .ok (.ok bs, m2)) :
    placeNode m i n level cs = .ok (modNode (unpool (placed m2 i n level img cs) i.ctx i.graph n) i.ctx i.graph n.node
      (startedRun (ascending cs) ((placed m2 i n level img cs).die n.die).cyc level (ascending cs).length)) := by
  simp only [placeNode, hs, hi, hok, hb, bind, Except.bind, List.isEmpty_nil, Bool.not_true, Bool.false_eq_true, if_false]
  rfl

end

/-- The s registers at the start of a job (02 R50). -/
theorem startStream_sreg (entry arg index width shape r : Nat) :
    (startStream entry arg index width shape).sreg r =
      if r = 1 then arg % 2 ^ 64 else if r = 2 then index % 2 ^ 64 else if r = 3 then width % 2 ^ 64 else 0 := by
  have h : (startStream entry arg index width shape).sreg r = if r = 0 then 0 else
      (Tbl.get 0 (Tbl.set 0 (Tbl.set 0 (Tbl.set 0 [] 1 (BitVec.ofNat 64 arg)) 2 (BitVec.ofNat 64 index)) 3
        (BitVec.ofNat 64 width)) r).toNat := rfl
  rw [h, Tbl.get_set, Tbl.get_set, Tbl.get_set]
  by_cases h0 : r = 0
  · subst h0; rfl
  by_cases h1 : r = 1
  · subst h1; rw [if_neg h0, if_neg (by omega), if_neg (by omega), if_pos rfl, if_pos rfl, BitVec.toNat_ofNat]
  by_cases h2 : r = 2
  · subst h2; rw [if_neg h0, if_neg (by omega), if_pos rfl, if_neg h1, if_pos rfl, BitVec.toNat_ofNat]
  by_cases h3 : r = 3
  · subst h3; rw [if_neg h0, if_pos rfl, if_neg h1, if_neg h2, if_pos rfl, BitVec.toNat_ofNat]
  · rw [if_neg h0, if_neg h3, if_neg h2, if_neg h1, if_neg h1, if_neg h2, if_neg h3]; rfl

theorem startedCore_stream (i : Instance) (n : NodeRun) (level img : Nat) (now : W64) (k : Nat) (x : Core)
    (q : StreamName) :
    (startedCore i n level img now k x).stream q = startStream (imgEntry img q)
      (if fld (nodeOpb n.image) 0 57 = 0 then launchArg i.image else fld (nodeOpb n.image) 0 57) k (nodeWidth n.image)
      (imgShape img) := by
  cases q <;> rfl

/-- The shape that a sound image declares is that of two numbers of seven bits. -/
theorem imgShape_lt {x : Nat} (h : imageOk x = true) : imgShape x / 256 < 128 := by
  by_cases h0 : imgShape x = 0
  · omega
  · simp only [imageOk, Bool.and_eq_true, Bool.or_eq_true, beq_iff_eq, h0, false_or] at h
    obtain ⟨-, ⟨⟨⟨hs, -⟩, -⟩, -⟩, -⟩ := h
    have hr : fld (imgShape x) 0 7 < 128 := Nat.mod_lt _ (by decide)
    have hk : fld (imgShape x) 8 7 < 128 := Nat.mod_lt _ (by decide)
    omega

/-! ### The end of a job (R307) -/

/-- The module `w` has what `m` has of the job on a core, of its context and scratchpad, and of every node but the streams
of its saved cores. -/
structure JobKept (d : Fin 16) (c : Fin 128) (m w : Module) : Prop where
  job : (w.core d c).job = (m.core d c).job
  lastCtx : (w.core d c).lastCtx = (m.core d c).lastCtx
  unitMem : (w.core d c).unitMem = (m.core d c).unitMem
  nodes : ∃ h : NodeRun → NodeRun, (∀ n, ∃ x, h n = { n with saved := x }) ∧
    w.graphs = m.graphs.map fun i => { i with nodes := i.nodes.map h }

namespace JobKept
variable {d : Fin 16} {c : Fin 128} {m w u : Module}

theorem of_graphs (hg : w.graphs = m.graphs) (hj : (w.core d c).job = (m.core d c).job)
    (hl : (w.core d c).lastCtx = (m.core d c).lastCtx) (hu : (w.core d c).unitMem = (m.core d c).unitMem) :
    JobKept d c m w := ⟨hj, hl, hu, id, fun n => ⟨n.saved, rfl⟩, by simp [hg]⟩

theorem of_cores (hg : w.graphs = m.graphs) (hc : w.cores = m.cores) : JobKept d c m w := by
  have h : w.core d c = m.core d c := by rw [Module.core, hc, Module.core]
  exact of_graphs hg (by rw [h]) (by rw [h]) (by rw [h])

theorem refl (m : Module) : JobKept d c m m := of_cores rfl rfl

theorem trans (h : JobKept d c m w) (k : JobKept d c w u) : JobKept d c m u := by
  obtain ⟨f, hf, hw⟩ := h.nodes
  obtain ⟨g, hg, hu⟩ := k.nodes
  refine ⟨k.job.trans h.job, k.lastCtx.trans h.lastCtx, k.unitMem.trans h.unitMem, g ∘ f, fun n => ?_, ?_⟩
  · obtain ⟨x, hx⟩ := hf n
    obtain ⟨y, hy⟩ := hg { n with saved := x }
    exact ⟨y, by rw [Function.comp_apply, hx, hy]⟩
  · rw [hu, hw, List.map_map]
    simp only [Function.comp_def, List.map_map]

theorem foldl {α : Type} {f : Module → α → Module} (hf : ∀ m x, JobKept d c m (f m x)) (l : List α) (m : Module) :
    JobKept d c m (l.foldl f m) := by
  induction l generalizing m with
  | nil => exact .refl m
  | cons x l ih => exact (hf m x).trans (ih _)

theorem modCore {d' : Fin 16} {c' : Fin 128} {f : Core → Core}
    (hf : ∀ x, (f x).job = x.job ∧ (f x).lastCtx = x.lastCtx ∧ (f x).unitMem = x.unitMem) :
    JobKept d c m (m.modCore d' c' f) := by
  have h : (m.modCore d' c' f).core d c = f (m.core d c) ∨ (m.modCore d' c' f).core d c = m.core d c := by
    rw [Module.core_modCore]
    split
    · next h => obtain ⟨rfl, rfl⟩ := h; exact .inl rfl
    · exact .inr rfl
  obtain ⟨hj, hl, hu⟩ := hf (m.core d c)
  rcases h with h | h
  · exact of_graphs rfl (h ▸ hj) (h ▸ hl) (h ▸ hu)
  · exact of_graphs rfl (by rw [h]) (by rw [h]) (by rw [h])

theorem mapStreams {f : Who → Stream → Stream} : JobKept d c m (m.mapStreams f) := by
  refine foldl (fun _ _ => modCore ?_) _ _
  exact fun _ => ⟨rfl, rfl, rfl⟩

/-- A group that passes its phase wakes streams, those of saved cores among them, and changes nothing else of a job. -/
theorem settleGroup {d' : Fin 16} {g : Nat} {x : Group} : JobKept d c m (settleGroup m d' g x) := by
  rw [Machine.settleGroup]
  split
  · exact of_cores rfl rfl
  · refine JobKept.trans (w := m.setGroup d' g x) (of_cores rfl rfl) (JobKept.trans mapStreams ⟨rfl, rfl, rfl, ?_⟩)
    refine ⟨_, fun n => ?_, rfl⟩
    dsimp only
    split
    · exact ⟨_, rfl⟩
    · exact ⟨_, rfl⟩

theorem leaveAll {d' : Fin 16} {c' : Fin 128} : JobKept d c m (leaveAll m d' c') := by
  rw [Machine.leaveAll, afterRelease]
  refine JobKept.trans (foldl (fun _ _ => settleGroup) _ _) (modCore ?_)
  exact fun _ => ⟨rfl, rfl, rfl⟩

theorem endLease {d' : Fin 16} {c' : Fin 128} : JobKept d c m (endLease m d' c') := of_cores rfl rfl

/-- What is found of a live graph and of a node. -/
theorem found (k : JobKept d c m w) : ∃ h : NodeRun → NodeRun, (∀ n, ∃ x, h n = { n with saved := x }) ∧
    (∀ (e : Fin 64) (g : DevAddr), findInst w e g = (findInst m e g).map fun i => { i with nodes := i.nodes.map h }) ∧
    ∀ (e : Fin 64) (g : DevAddr) (b : BitVec 16), findNode w e g b = (findNode m e g b).map h := by
  obtain ⟨h, hh, hg⟩ := k.nodes
  have hi : ∀ (e : Fin 64) (g : DevAddr),
      findInst w e g = (findInst m e g).map fun i => { i with nodes := i.nodes.map h } := by
    intro e g
    rw [findInst, hg, List.find?_map, findInst]
    rfl
  refine ⟨h, hh, hi, fun e g b => ?_⟩
  rw [findNode, hi, findNode]
  cases findInst m e g with
  | none => rfl
  | some i =>
    have hp : ((fun x : NodeRun => decide (x.node = b)) ∘ h) = fun x => decide (x.node = b) := by
      funext x
      obtain ⟨y, hy⟩ := hh x
      rw [Function.comp_apply, hy]
    rw [Option.map_some, Option.bind_some, Option.bind_some, List.find?_map, hp]

/-- The node of the job on the core. -/
theorem jobNode (k : JobKept d c m w) : ∃ h : NodeRun → NodeRun, (∀ n, ∃ x, h n = { n with saved := x }) ∧
    (∀ (e : Fin 64) (g : DevAddr) (b : BitVec 16), findNode w e g b = (findNode m e g b).map h) ∧
    jobNode w d c = (jobNode m d c).map fun p => ({ p.1 with nodes := p.1.nodes.map h }, h p.2) := by
  obtain ⟨h, hh, hi, hn⟩ := k.found
  refine ⟨h, hh, hn, ?_⟩
  rw [Machine.jobNode, k.job, Machine.jobNode]
  cases (m.core d c).job with
  | none => rfl
  | some j =>
    dsimp only
    rw [hi]
    cases findInst m j.ctx j.graph with
    | none => rfl
    | some i =>
      have hp : ((fun n : NodeRun => decide (n.node.toNat = j.node.toNat) && decide (n.die = d) && n.cores.contains c) ∘ h) =
          fun n => decide (n.node.toNat = j.node.toNat) && decide (n.die = d) && n.cores.contains c := by
        funext n
        obtain ⟨y, hy⟩ := hh n
        rw [Function.comp_apply, hy]
        rfl
      rw [Option.map_some]
      dsimp only
      rw [List.find?_map, hp, Option.map_map, Option.map_map]
      rfl

end JobKept

section
variable {m : Module} {d : Fin 16} {c : Fin 128}

/-- A region that closes takes no action where none is held back. -/
theorem closeRegion_free (h : ∀ i n, jobNode m d c = some (i, n) → n.heldBack = false) :
    closeRegion m d c = m.modCore d c fun x => { x with region := none } := by
  unfold closeRegion
  dsimp only
  cases hj : jobNode m d c with
  | none => rfl
  | some p =>
    obtain ⟨i, n⟩ := p
    dsimp only
    rw [releaseAction, h i n hj, Bool.false_and]
    rfl

/-- A core that is freed keeps its clock, its views, its context and its scratchpad. -/
theorem freeCore_frame : (freeCore m d c).core d c = idleCore (m.core d c) ∧ (freeCore m d c).graphs = m.graphs :=
  ⟨Module.core_setCore_same .., rfl⟩

/-- A job's end at its node. -/
def endedRun (c : Fin 128) (failed : Bool) (clk : Option Clock) (x : NodeRun) : NodeRun :=
  { x with
    st := match x.st with
      | .running cs t p => .running (cs.filter fun k => !decide (k = c)) t p
      | t => t
    jobsLeft := x.jobsLeft - 1, failed := x.failed || failed
    clk := match clk with
      | some k => Clock.join x.clk k
      | none => x.clk }

theorem endedRun_cores (failed : Bool) (clk : Option Clock) (x : NodeRun) :
    (endedRun c failed clk x).cores = x.cores.filter fun k => decide (k ≠ c) := by
  have h : (endedRun c failed clk x).cores = x.cores.filter fun k => !decide (k = c) := by
    cases hx : x.st <;> simp only [endedRun, NodeRun.cores, hx, List.filter_nil]
  rw [h]
  simp only [decide_not]

/-- The module when the job of a core has ended. -/
def jobEnded (m : Module) (d : Fin 16) (c : Fin 128) (failed : Bool) (clk : Option Clock) : Module :=
  freeCore (match jobNode m d c with
    | some (i, n) => modNode m i.ctx i.graph n.node (endedRun c failed clk)
    | none => m) d c

theorem jobEnded_core (failed : Bool) (clk : Option Clock) :
    (jobEnded m d c failed clk).core d c = idleCore (m.core d c) := by
  rw [jobEnded, freeCore_frame.1]
  cases jobNode m d c <;> rfl

theorem jobEnded_node {i : Instance} {n x : NodeRun} (failed : Bool) (clk : Option Clock)
    (hj : jobNode m d c = some (i, n)) (hn : findNode m i.ctx i.graph n.node = some x) :
    findNode (jobEnded m d c failed clk) i.ctx i.graph n.node = some (endedRun c failed clk x) := by
  rw [jobEnded, findNode_congr freeCore_frame.2, hj]
  dsimp only
  rw [findNode_modNode, hn]
  · rfl
  · exact fun _ => rfl

end

section
variable {s : State} {d : Fin 16} {c : Fin 128}

theorem allStreams_iff {x : Core} {t : Status} : allStreams x t = true ↔ ∀ q, (x.stream q).status = t := by
  simp only [allStreams, StreamName.all, List.all_cons, List.all_nil, Bool.and_true, Bool.and_eq_true, decide_eq_true_eq]
  exact ⟨fun ⟨h1, h2, h3⟩ q => by cases q <;> assumption, fun h => ⟨h _, h _, h _⟩⟩

/-- Whether the streams of a core have all exited, all failed or all been stopped, and no chain of it goes on. -/
def jobOver (m : Module) (d : Fin 16) (c : Fin 128) : Prop :=
  ¬chainsLive m d c ∧ ((∀ q, ((m.core d c).stream q).status = .exited) ∨ (∀ q, ((m.core d c).stream q).status = .failed) ∨
    ∀ q, ((m.core d c).stream q).status = .idle)

theorem exec_jobEnd_keep (h : (s.m.core d c).job = none ∨ ¬jobOver s.m d c) : exec (.jobEnd d c) s = .next s := by
  show execJobEnd d c s = _
  unfold execJobEnd
  dsimp only
  rw [if_pos]
  rcases h with h | h
  · exact .inl (by rw [h]; rfl)
  · refine .inr ?_
    simp only [jobOver, ← allStreams_iff] at h
    by_cases hc : chainsLive s.m d c = true
    · exact .inl hc
    · refine .inr (.inl ?_)
      have := not_and.1 h hc
      simpa [not_or, and_assoc] using this

/-- A job that is over frees its core and counts down at its node. -/
theorem exec_jobEnd_over (hj : (s.m.core d c).job ≠ none) (ho : jobOver s.m d c)
    (hr : (∀ q, ((s.m.core d c).stream q).status = .exited) → releaseStalls s.m d c = false)
    (hh : ∀ i n, jobNode s.m d c = some (i, n) → n.heldBack = false) :
    ∃ m clk, JobKept d c s.m m ∧
      exec (.jobEnd d c) s = .next { s with m := jobEnded m d c (allStreams (s.m.core d c) .failed) clk } := by
  obtain ⟨m, hm⟩ : ∃ m, m = if allStreams (s.m.core d c) .exited then endLease (leaveAll s.m d c) d c else s.m := ⟨_, rfl⟩
  have km : JobKept d c s.m m := by
    rw [hm]
    split
    · exact JobKept.leaveAll.trans .endLease
    · exact .refl _
  have hfree : closeRegion m d c = m.modCore d c fun x => { x with region := none } := by
    obtain ⟨h, hs, -, hjob⟩ := km.jobNode
    refine closeRegion_free fun i n hin => ?_
    obtain ⟨p, hp, he⟩ := Option.map_eq_some_iff.1 (hjob ▸ hin)
    obtain ⟨x, hx⟩ := hs p.2
    obtain rfl : h p.2 = n := congrArg Prod.snd he
    rw [hx]
    exact hh p.1 p.2 hp
  have kc : JobKept d c m (closeRegion m d c) := by
    rw [hfree]
    refine .modCore ?_
    exact fun _ => ⟨rfl, rfl, rfl⟩
  have hcond : ¬((s.m.core d c).job.isNone = true ∨ chainsLive s.m d c = true ∨
      (!(allStreams (s.m.core d c) .exited || allStreams (s.m.core d c) .failed || allStreams (s.m.core d c) .idle)) = true ∨
      (allStreams (s.m.core d c) .exited = true ∧ releaseStalls s.m d c = true)) := by
    rintro (h | h | h | ⟨h1, h2⟩)
    · exact hj (Option.isNone_iff_eq_none.1 h)
    · exact ho.1 h
    · have := ho.2
      simp only [← allStreams_iff] at this
      simp only [Bool.not_eq_true', Bool.or_eq_false_iff] at h
      obtain ⟨⟨h1, h2⟩, h3⟩ := h
      simp [h1, h2, h3] at this
    · rw [hr (allStreams_iff.1 h1)] at h2; cases h2
  refine ⟨closeRegion m d c, if allStreams (s.m.core d c) .exited then some (releaseClock s.m d c) else none, km.trans kc, ?_⟩
  show execJobEnd d c s = _
  unfold execJobEnd
  dsimp only
  rw [if_neg hcond, ← hm]
  cases allStreams (s.m.core d c) .exited <;> rfl

end

end Sys2Proof.Machine
end

section
/-! SUPPORT. The statement about dispatch and completion, from the lemmas above it. -/

namespace Sys2Proof.Machine

section
variable {s : State} {c : Fin 64} {g : DevAddr} {b : BitVec 16} {n : NodeRun}

theorem exec_nodeComplete_none (h : findNode s.m c g b = none) : exec (.nodeComplete c g b) s = .next s := by
  show execNodeComplete c g b s = _
  rw [execNodeComplete, h]

theorem exec_nodeComplete_waiting (h : findNode s.m c g b = some n) (hs : n.st = .waiting) :
    exec (.nodeComplete c g b) s = .next s := by
  show execNodeComplete c g b s = _
  rw [execNodeComplete, h]
  simp only [hs]
  rfl

theorem exec_nodeComplete_running (h : findNode s.m c g b = some n) {cs : List (Fin 128)} {t : W64} {p : Nat}
    (hs : n.st = .running cs t p) :
    exec (.nodeComplete c g b) s = dispOut s n.die (if n.jobsLeft ≠ 0 then .ok s.m
      else if n.failed then checkEnd (dropNode s.m c g b) c g else completeNode s.m c g n (allSucc n.image) n.clk) := by
  show execNodeComplete c g b s = _
  rw [execNodeComplete, h]
  simp only [hs]

theorem exec_nodeComplete_chain (h : findNode s.m c g b = some n) (hs : n.st = .chain) {k : Chain}
    (hk : k = s.m.chain (.node n.die c g b)) :
    exec (.nodeComplete c g b) s = dispOut s n.die (if k.state = 3 then
        completeNode s.m c g n (allSucc n.image) (Clock.join n.clk k.views.clk)
      else if k.state = 4 ∨ k.state = 5 then checkEnd (dropNode s.m c g b) c g else .ok s.m) := by
  subst hk
  show execNodeComplete c g b s = _
  rw [execNodeComplete, h]
  simp only [hs]

end

/-- Settles O46: the pool's order as an insertion sort; the scan by the kind of its first entry; the start of each job on its
own core; the end of a job through what it keeps; completion by the state of the node (logs 55, 56, 76, 87). -/
theorem nodesDispatchAndComplete : Obligations.NodesDispatchAndComplete := by
  refine ⟨fun pool => ⟨sortedPool_perm pool, sortedPool_pairwise pool⟩, fun s d e es i n => ?dispatch,
    fun m m1 m2 i n level img cs bs hs hf hn hi hok hb => ?place, fun s d co => ?jobEnd, fun s c g b n => ?complete,
    fun m c g n k i hf hs ha hx ho => ?alone⟩
  case dispatch =>
    have hneed : n.need = if n.saved = [] then nodeWidth n.image else n.saved.length := by
      rw [NodeRun.need]; simp only [List.isEmpty_iff]
    refine ⟨fun c g b hh hp => exec_dispatchTick_empty hp hh, fun hh hp => ?_, fun hh hp hf hv hn => ?_⟩
    · rw [exec_dispatchTick_keep (.inl hh), hp]; rfl
    have he := entryNode_eq hf hv hn
    have hx := exec_dispatchTick_keep hh
    rw [hp] at hx
    refine ⟨fun hk hw => ?_, fun hk hw hl => ?_, fun hk hw hl hes hno => ?_, fun hk hq => ?_, fun hk => ?_,
      fun w m1 hk hr => ?_, fun w m1 hk hr => ?_, fun m1 hk hr => ?_⟩
    · rw [hx, scanPool_kern he hk, if_pos (hneed ▸ hw)]
    · have hl' : n.need ≤ (freeCores s.m d e n).length := hneed ▸ hl
      rw [hx, scanPool_kern he hk, if_neg (hneed ▸ Nat.not_lt.2 hw), if_pos hl', hneed]
      rfl
    · have hl' : (freeCores s.m d e n).length < n.need := hneed ▸ hl
      rw [hx, scanPool_kern he hk, if_neg (hneed ▸ Nat.not_lt.2 hw), if_neg (Nat.not_le.2 hl'), hes, ← hneed]
      dsimp only
      rw [if_pos (Option.isNone_iff_eq_none.2 hno), if_pos (by rw [Module.die_modDie_same])]
      rfl
    · rw [hx, scanPool_copy he hk hq]; rfl
    · rw [hx, scanPool_coreless he hk, performCoreless_gate hk]
    · rw [hx, scanPool_coreless he hk, performCoreless_cond hk hr]
    · rw [hx, scanPool_coreless he hk, performCoreless_loop hk hr Iff.rfl]
    · rw [hx, scanPool_coreless he hk, performCoreless_sign hk hr]
  case place =>
    obtain rfl := dispBytes_frame hb
    obtain rfl := dispRead_frame hi
    obtain ⟨hg, hdie⟩ := placed_frame (i := i) (n := n) (level := level) (img := img) m2 cs
    refine ⟨_, placeNode_started hs hi hok hb, ?_, fun k c hc => ?_⟩
    · rw [findNode_modNode, findNode_congr (w := unpool (placed m2 i n level img cs) i.ctx i.graph n) (m := m2) hg, hn, hdie]
      · rfl
      · exact fun _ => rfl
    · have hcore := placed_core (i := i) (n := n) (level := level) (img := img) m2 hc
      rw [show ∀ f, (modNode (unpool (placed m2 i n level img cs) i.ctx i.graph n) i.ctx i.graph n.node f).core n.die c =
        (placed m2 i n level img cs).core n.die c from fun _ => rfl, hcore]
      refine ⟨rfl, rfl, rfl, rfl, rfl, rfl, rfl, rfl, rfl, ?_, fun q => ?_⟩
      · simp only [startedCore, newCore, decide_not, ne_eq]
      · rw [startedCore_stream]
        have hw : nodeWidth n.image < 2 ^ 8 := Nat.mod_lt _ (by decide)
        refine ⟨rfl, rfl, ?_, ?_, ?_, fun r hr => ?_, rfl, rfl, rfl, rfl, rfl, rfl, rfl, rfl, rfl, rfl, fun h0 => ?_,
          fun h0 => ?_⟩
        · rw [startStream_sreg, if_pos rfl]
          simp only [fld, Nat.pow_zero, Nat.div_one]
        · rw [startStream_sreg, if_neg (by omega), if_pos rfl]
        · rw [startStream_sreg, if_neg (by omega), if_neg (by omega), if_pos rfl, Nat.mod_eq_of_lt (by omega)]
        · rw [startStream_sreg, if_neg (by omega), if_neg (by omega), if_neg (by omega)]
        · exact ⟨if_pos h0, if_pos h0⟩
        · have hlt := imgShape_lt hok
          refine ⟨(congrArg BitVec.toNat (if_neg h0)).trans (BitVec.toNat_ofNat ..),
            (congrArg BitVec.toNat (if_neg h0)).trans ((BitVec.toNat_ofNat ..).trans (Nat.mod_eq_of_lt hlt))⟩
  case jobEnd =>
    refine ⟨fun h => exec_jobEnd_keep h, fun hj ho hr hh => ?_⟩
    obtain ⟨m, clk, km, hx⟩ := exec_jobEnd_over hj ho hr hh
    refine ⟨_, hx, ?_⟩
    rw [jobEnded_core]
    refine ⟨rfl, rfl, rfl, rfl, rfl, km.lastCtx, km.unitMem, fun i n hi hn => ?_⟩
    obtain ⟨h, hs, hnode, hjob⟩ := km.jobNode
    obtain ⟨x, hx⟩ := hs n
    rw [hi, Option.map_some, hx] at hjob
    have hfound := hnode i.ctx i.graph n.node
    rw [hn, Option.map_some, hx] at hfound
    refine ⟨_, jobEnded_node (i := { i with nodes := i.nodes.map h }) (n := { n with saved := x }) _ clk hjob hfound, rfl,
      endedRun_cores .., fun hf => ?_⟩
    exact (congrArg (n.failed || ·) (allStreams_iff.2 hf)).trans (Bool.or_true _)
  case complete =>
    refine ⟨exec_nodeComplete_none, fun h => ⟨exec_nodeComplete_waiting h, fun cs t p hs => ?_, fun hs => ?_⟩⟩
    · have hx := exec_nodeComplete_running h hs
      refine ⟨fun hj => ?_, fun hj hf => ?_, fun hj hf => ?_⟩
      · rw [hx, if_pos hj]; rfl
      · rw [hx, if_neg (not_not.2 hj), hf, if_neg Bool.false_ne_true]
      · rw [hx, if_neg (not_not.2 hj), hf, if_pos rfl]
    · have hx := exec_nodeComplete_chain h hs rfl
      refine ⟨fun hk => ?_, fun hk => ?_, fun hk => ?_⟩
      · rw [hx, if_neg (by omega), if_neg (by omega)]; rfl
      · rw [hx, if_pos hk]
      · rw [hx, if_neg (by omega), if_pos hk]
  case alone => exact completeNode_alone (k := k) hf hs ha hx ho

end Sys2Proof.Machine
end

section
/-! SUPPORT. What the operations of the fabric leave: ports but for what moves with flits, memories, clocks
(09 R285, R286, 15 R374 to R377). -/

namespace Sys2Proof.Machine

theorem Module.port_modPort (m : Module) (q j : Fin 72) (f : Port → Port) :
    (m.modPort q f).port j = if j = q then f (m.port q) else m.port j := Module.port_setPort m q j _

theorem Module.port_modPort_same (m : Module) (q : Fin 72) (f : Port → Port) : (m.modPort q f).port q = f (m.port q) := by
  rw [Module.port_modPort, if_pos rfl]

theorem Module.port_modPort_ne (m : Module) {q j : Fin 72} (f : Port → Port) (h : j ≠ q) :
    (m.modPort q f).port j = m.port j := by
  rw [Module.port_modPort, if_neg h]

theorem Port.peer_setPeer (p : Port) (d e : BitVec 10) (x : Peer) :
    (p.setPeer d x).peer e = if e = d then x else p.peer e := by
  rw [Port.setPeer, Port.peer, Tbl.get_set]
  exact if_congr BitVec.toNat_inj rfl rfl

/-! ### Changes of ports, and of what events change -/

/-- The module `w` is `m` but for its ports, which a relation joins, and for what the host's events change. -/
structure PortsMove (R : Port → Port → Prop) (m w : Module) : Prop where
  module : w = { m with ports := w.ports, dies := w.dies, host := w.host, evseq := w.evseq, widx := w.widx, msix := w.msix }
  cyc : ∀ d, (w.die d).cyc = (m.die d).cyc
  port : ∀ j, R (m.port j) (w.port j)

/-- A relation of ports that an unchanged port keeps and that changes in order keep. -/
structure PortRel (R : Port → Port → Prop) : Prop where
  refl : ∀ p, R p p
  trans : ∀ p q r, R p q → R q r → R p r

namespace PortsMove
variable {R S : Port → Port → Prop} {m w u : Module}

theorem sameMemory (h : PortsMove R m w) : SameMemory m { w with host := m.host } := by
  rw [h.module]
  exact ⟨fun _ => rfl, fun _ => rfl, fun _ _ _ => rfl⟩

theorem refl (hR : PortRel R) (m : Module) : PortsMove R m m := ⟨rfl, fun _ => rfl, fun _ => hR.refl _⟩

theorem trans (hR : PortRel R) (h : PortsMove R m w) (k : PortsMove R w u) : PortsMove R m u := by
  refine ⟨?_, fun d => (k.cyc d).trans (h.cyc d), fun j => hR.trans _ _ _ (h.port j) (k.port j)⟩
  rw [k.module, h.module]

theorem mono (hRS : ∀ p q, R p q → S p q) (h : PortsMove R m w) : PortsMove S m w :=
  ⟨h.module, h.cyc, fun j => hRS _ _ (h.port j)⟩

theorem foldl {α : Type} (hR : PortRel R) {f : Module → α → Module} (hf : ∀ m x, PortsMove R m (f m x)) (l : List α)
    (m : Module) : PortsMove R m (l.foldl f m) := by
  induction l generalizing m with
  | nil => exact .refl hR m
  | cons x l ih => exact (hf m x).trans hR (ih _)

theorem modPort (hR : PortRel R) {q : Fin 72} {f : Port → Port} (hf : R (m.port q) (f (m.port q))) :
    PortsMove R m (m.modPort q f) := by
  refine ⟨rfl, fun _ => rfl, fun j => ?_⟩
  rw [Module.port_modPort]
  split
  · next h => exact h ▸ hf
  · exact hR.refl _

end PortsMove

theorem cyc_modDie {m : Module} {d : Fin 16} {f : Die → Die} (hf : ∀ x, (f x).cyc = x.cyc) (e : Fin 16) :
    ((m.modDie d f).die e).cyc = (m.die e).cyc := by
  rw [Module.die_modDie]
  split
  · next h => rw [hf, h]
  · rfl

theorem PortsMove.of_event {R : Port → Port → Prop} (hR : PortRel R) (m : Module) (h : Memory) (e : BitVec 16) (i : W64)
    (x : List W64) : PortsMove R m { m with host := h, evseq := e, widx := i, msix := x } :=
  ⟨rfl, fun _ => rfl, fun _ => hR.refl _⟩

theorem PortsMove.of_lost {R : Port → Port → Prop} (hR : PortRel R) (m : Module) (e : BitVec 16) (d : Fin 16) {f : Die → Die}
    (hf : ∀ x, (f x).cyc = x.cyc) : PortsMove R m ({ m with evseq := e }.modDie d f) :=
  ⟨rfl, cyc_modDie (m := { m with evseq := e }) hf, fun _ => hR.refl _⟩

theorem sendEvent_ports (m : Module) (die : Option (Fin 16)) (subject code d2 d3 : Nat) :
    (sendEvent m die subject code d2 d3).ports = m.ports := by
  unfold sendEvent
  dsimp only
  split
  · rfl
  · split <;> rfl

theorem sendEvent_evseq (m : Module) (die : Option (Fin 16)) (subject code d2 d3 : Nat) :
    (sendEvent m die subject code d2 d3).evseq = m.evseq + 1 := by
  unfold sendEvent
  dsimp only
  split
  · rfl
  · split <;> rfl

theorem sendEvent_frame {R : Port → Port → Prop} (hR : PortRel R) (m : Module) (die : Option (Fin 16))
    (subject code d2 d3 : Nat) : PortsMove R m (sendEvent m die subject code d2 d3) := by
  unfold sendEvent
  dsimp only
  split
  · refine .of_lost hR m _ _ ?_
    exact fun _ => rfl
  · split
    · refine .of_lost hR m _ _ ?_
      exact fun _ => rfl
    · exact .of_event hR m ..

/-! ### What a port keeps -/

/-- The losses of light may change. -/
def SameButLosses (p p' : Port) : Prop := p' = { p with losses := p'.losses }

/-- The send queue and the moment of idleness may change. -/
def SameButQueue (p p' : Port) : Prop := p' = { p with sendq := p'.sendq, idleSince := p'.idleSince }

/-- What moves with flits may change: the send queue, the replay buffers, the losses, the set-change beat. -/
def SameButFlits (p p' : Port) : Prop :=
  p' = { p with sendq := p'.sendq, idleSince := p'.idleSince, peers := p'.peers, losses := p'.losses, change := p'.change } ∧
    ∀ d, p'.peer d = { p.peer d with replay := (p'.peer d).replay }

/-- Of these, what changes when a flit leaves a port: not what waits. -/
def SameButReplay (p p' : Port) : Prop := SameButFlits p p' ∧ p'.sendq = p.sendq ∧ p'.idleSince = p.idleSince

theorem sameButLosses_rel : PortRel SameButLosses where
  refl _ := rfl
  trans p q r h k := by unfold SameButLosses at *; rw [k, h]

theorem sameButFlits_rel : PortRel SameButFlits where
  refl _ := ⟨rfl, fun _ => rfl⟩
  trans p q r h k := by
    obtain ⟨h1, h2⟩ := h
    obtain ⟨k1, k2⟩ := k
    refine ⟨by rw [k1, h1], fun d => ?_⟩
    rw [k2, h2]

theorem sameButReplay_rel : PortRel SameButReplay where
  refl p := ⟨sameButFlits_rel.refl p, rfl, rfl⟩
  trans p q r h k := ⟨sameButFlits_rel.trans p q r h.1 k.1, k.2.1.trans h.2.1, k.2.2.trans h.2.2⟩

theorem sameButFlits_of_losses (p p' : Port) (h : SameButLosses p p') : SameButFlits p p' := by
  unfold SameButLosses at h
  refine ⟨by rw [h], fun d => ?_⟩
  rw [h]; rfl

theorem sameButReplay_of_losses (p p' : Port) (h : SameButLosses p p') : SameButReplay p p' := by
  refine ⟨sameButFlits_of_losses p p' h, ?_⟩
  unfold SameButLosses at h
  rw [h]
  exact ⟨rfl, rfl⟩

theorem sameButFlits_of_queue (p p' : Port) (h : SameButQueue p p') : SameButFlits p p' := by
  unfold SameButQueue at h
  refine ⟨by rw [h], fun d => ?_⟩
  rw [h]; rfl

theorem Port.withQueue_same (p : Port) (now : W64) (l : List (BitVec 10 × Flit)) : SameButQueue p (p.withQueue now l) := rfl

/-- Reports of a port's losses of light change its losses and raise events. -/
theorem reportLosses_frame {m : Module} {q : Fin 72} (f : Module → Loss → Module)
    (hf : ∀ m l, f m l = m ∨ ∃ mask a b, f m l =
      sendLoslight (m.modPort q fun p => { p with losses := p.losses.erase l }) q l.lm mask a b) (ls : List Loss) :
    PortsMove SameButLosses m (ls.foldl f m) := by
  refine .foldl sameButLosses_rel (fun m l => ?_) ls m
  rcases hf m l with h | ⟨mask, a, b, h⟩
  · rw [h]; exact .refl sameButLosses_rel m
  · rw [h]
    refine PortsMove.trans sameButLosses_rel (.modPort sameButLosses_rel ?_) (sendEvent_frame sameButLosses_rel ..)
    exact rfl

theorem finishLosses_frame (m : Module) (pair : Fin 72) (dst : BitVec 10) (f : BitVec 24 → Bool) :
    PortsMove SameButLosses m (finishLosses m pair dst f) := by
  refine .foldl sameButLosses_rel (fun m q => reportLosses_frame (q := q) _ (fun m l => ?_) _) _ m
  cases l.replay with
  | none => exact .inl rfl
  | some r => exact .inr ⟨_, _, _, rfl⟩

theorem clearLosses_frame (m : Module) : PortsMove SameButLosses m (clearLosses m) :=
  .foldl sameButLosses_rel (fun _ q => reportLosses_frame (q := q) _ (fun _ _ => .inr ⟨_, _, _, rfl⟩) _) _ m

/-- Losses of light are reported where there are some. -/
theorem finishLosses_none {m : Module} (h : ∀ j, (m.port j).losses = []) (pair : Fin 72) (dst : BitVec 10)
    (f : BitVec 24 → Bool) : finishLosses m pair dst f = m := by
  unfold finishLosses
  induction allPorts with
  | nil => rfl
  | cons q qs ih => rw [List.foldl_cons, h q]; exact ih

theorem clearLosses_none {m : Module} (h : ∀ j, (m.port j).losses = []) : clearLosses m = m := by
  unfold clearLosses
  dsimp only
  generalize m.ports.flatMap (fun e => e.2.peers.flatMap fun x => x.2.replay) = out
  induction allPorts with
  | nil => rfl
  | cons q qs ih => rw [List.foldl_cons, h q]; exact ih

/-! ### Flits leaving a port -/

theorem sameButFlits_setPeer (p : Port) (d : BitVec 10) (r : List Sent) :
    SameButFlits p (p.setPeer d { p.peer d with replay := r }) := by
  refine ⟨rfl, fun e => ?_⟩
  rw [Port.peer_setPeer]
  split
  · next h => subst h; rfl
  · rfl

theorem modPeer_replay_frame (m : Module) (q : Fin 72) (d : BitVec 10) (g : Peer → List Sent) :
    PortsMove SameButReplay m (m.modPeer q d fun x => { x with replay := g x }) :=
  .modPort sameButReplay_rel ⟨sameButFlits_setPeer _ _ _, rfl, rfl⟩

theorem depart_frame (m : Module) (q : Fin 72) (hop : BitVec 10) (f : Flit) : PortsMove SameButReplay m (depart m q hop f) := by
  have hc : PortsMove SameButReplay m (m.modPort q fun p => { p with change := none }) :=
    .modPort sameButReplay_rel ⟨⟨rfl, fun _ => rfl⟩, rfl, rfl⟩
  unfold depart
  dsimp only
  split
  · exact hc.trans sameButReplay_rel ((modPeer_replay_frame ..).trans sameButReplay_rel
      ((finishLosses_frame ..).mono sameButReplay_of_losses))
  · exact hc

theorem pumpList_frame (q : Fin 72) (l : List (BitVec 10 × Flit)) (m : Module) :
    PortsMove SameButReplay m (pumpList q l m).1 := by
  induction l generalizing m with
  | nil => exact .refl sameButReplay_rel m
  | cons e l ih =>
    obtain ⟨hop, f⟩ := e
    rw [pumpList]
    split
    · exact (depart_frame ..).trans sameButReplay_rel (ih _)
    · exact ih m

theorem withQueue_frame (m : Module) (q : Fin 72) (g : Port → List (BitVec 10 × Flit)) (now : W64) :
    PortsMove SameButFlits m (m.modPort q fun p => p.withQueue now (g p)) :=
  .modPort sameButFlits_rel (sameButFlits_of_queue _ _ rfl)

theorem pump_eq (m : Module) (q : Fin 72) :
    pump m q = (pumpList q (m.port q).sendq m).1.modPort q fun p =>
      p.withQueue (portNow (pumpList q (m.port q).sendq m).1 q) (pumpList q (m.port q).sendq m).2 := rfl

theorem pump_frame (m : Module) (q : Fin 72) : PortsMove SameButFlits m (pump m q) := by
  rw [pump_eq]
  exact ((pumpList_frame ..).mono fun _ _ h => h.1).trans sameButFlits_rel (withQueue_frame _ _ (fun _ => _) _)

/-- A pump takes what leaves off the queue of its own port. -/
theorem pump_sendq (m : Module) (q j : Fin 72) : ((pump m q).port j).sendq =
    if j = q then (pumpList q (m.port q).sendq m).2 else (m.port j).sendq := by
  rw [pump_eq, Module.port_modPort]
  split
  · rfl
  · exact ((pumpList_frame ..).port j).2.1

/-- Flits put before and behind those that wait at a port. -/
theorem queued_frame (m : Module) (q : Fin 72) (g : Port → List (BitVec 10 × Flit)) :
    PortsMove SameButFlits m (pump (m.modPort q fun p => { p with sendq := g p }) q) := by
  refine PortsMove.trans sameButFlits_rel (.modPort sameButFlits_rel ?_) (pump_frame ..)
  exact ⟨rfl, fun _ => rfl⟩

theorem enqueue_frame (m : Module) (path : Fin 72 × BitVec 10) (f : Flit) : PortsMove SameButFlits m (enqueue m path f) :=
  queued_frame ..

theorem unqueue_frame (m : Module) (pair : Fin 72) (dst : BitVec 10) (f : BitVec 24 → Bool) :
    PortsMove SameButFlits m (unqueue m pair dst f) :=
  .foldl sameButFlits_rel (fun _ _ => withQueue_frame ..) _ m

theorem noteLosses_frame (m : Module) (pair : Fin 72) (dst : BitVec 10) (again : List Sent) :
    PortsMove SameButLosses m (noteLosses m pair dst again) := by
  unfold noteLosses
  split
  · refine .foldl sameButLosses_rel (fun _ _ => .modPort sameButLosses_rel ?_) _ m
    exact rfl
  · exact .refl sameButLosses_rel m

theorem resend_frame (m : Module) (pair : Fin 72) (dst : BitVec 10) (first : BitVec 24) :
    PortsMove SameButFlits m (resend m pair dst first) :=
  (unqueue_frame ..).trans sameButFlits_rel (queued_frame ..)

theorem replayPair_frame (m : Module) (pair : Fin 72) (dst : BitVec 10) (first : BitVec 24) :
    PortsMove SameButFlits m (replayPair m pair dst first) := by
  unfold replayPair
  dsimp only
  split
  · exact .refl sameButFlits_rel m
  · exact ((noteLosses_frame ..).mono sameButFlits_of_losses).trans sameButFlits_rel (resend_frame ..)

/-! ### Paths do not depend on the flits that wait -/

section
variable {m w : Module} (h : PortsMove SameButFlits m w)
include h

theorem PortsMove.sends (j : Fin 72) : (w.port j).sends = (m.port j).sends := by rw [(h.port j).1]; rfl
theorem PortsMove.met (j : Fin 72) : (w.port j).met = (m.port j).met := by rw [(h.port j).1]
theorem PortsMove.live (j : Fin 72) : (w.port j).live = (m.port j).live := by rw [(h.port j).1]
theorem PortsMove.full (j : Fin 72) : (w.port j).full = (m.port j).full := by rw [(h.port j).1]
theorem PortsMove.sendKey (j : Fin 72) : (w.port j).sendKey = (m.port j).sendKey := by rw [(h.port j).1]
theorem PortsMove.meets (j : Fin 72) (d : BitVec 10) : (w.port j).meets d = (m.port j).meets d := by
  rw [(h.port j).1]; rfl
theorem PortsMove.down (j : Fin 72) (d : BitVec 10) : ((w.port j).peer d).down = ((m.port j).peer d).down := by
  rw [(h.port j).2]

theorem pickPath_move (dst : BitVec 10) : pickPath w dst = pickPath m dst := by
  have hd : directNow w dst = directNow m dst := by simp only [directNow, h.sends, h.met, h.down, h.full]
  have hp : directPath w dst = directPath m dst := by simp only [directPath, hd, h.live, h.down, h.meets]
  have hrf : w.relayFull = m.relayFull := by rw [h.module]
  have hs : slotsUntil w = slotsUntil m := by
    funext d e
    rw [slotsUntil, h.module, slotsUntil]
  have hr : relaysNow w dst = relaysNow m dst := by simp only [relaysNow, h.met, h.sends, hrf]
  rw [pickPath, hd, hp, hr, hs, pickPath]

theorem stranded_move (j : Fin 72) (e : BitVec 10 × Flit) : stranded w j e = stranded m j e := by
  simp only [stranded, h.live, h.down, h.met, h.meets]

end

end Sys2Proof.Machine
end

section
/-! SUPPORT. Slots, relays, stranded flits, arrivals, failures and the light of ports (09 R285, R286, 15 R374 to
R377). -/

namespace Sys2Proof.Machine

/-! ### The beat of a slot (09 R285) -/

section
variable {s : State} {q : Fin 72} {k : Fin 32} {d : BitVec 10}

theorem portOnly_modPort (m : Module) (q : Fin 72) (f : Port → Port) : PortOnly m (m.modPort q f) q :=
  ⟨rfl, fun _ h => Module.port_modPort_ne m f h⟩

theorem exec_slotBoundary_none : exec (.slotBoundary q none k) s = .next { s with
    m := s.m.modPort q fun p => { p with met := none, disagree := false } } := rfl

theorem exec_slotBoundary_agrees (h : Tbl.get none (s.m.port q).table_ k.val = some d) :
    exec (.slotBoundary q (some d) k) s = .next { s with
      m := pump (repick (s.m.modPort q fun p => { p with met := some d, disagree := false })) q } := by
  show execSlotBoundary q (some d) k s = _
  rw [execSlotBoundary, event]
  dsimp only
  rw [if_pos h]

theorem exec_slotBoundary_disagrees (h : Tbl.get none (s.m.port q).table_ k.val ≠ some d) :
    exec (.slotBoundary q (some d) k) s = .next { s with
      m := (s.m.modPort q fun p => { p with met := none, disagree := true }).modDie (portDie q) fun d =>
        { d with counters := { d.counters with pathsDown := d.counters.pathsDown + 1 } } } := by
  show execSlotBoundary q (some d) k s = _
  rw [execSlotBoundary, event]
  dsimp only
  rw [if_neg h]

end

/-! ### The wavelengths of a flit (15 R376) -/

/-- A bit of a union is a bit of one of its parts. -/
theorem testBit_foldl_or {α : Type} (f : α → BitVec 16) (l : List α) (a : BitVec 16) (k : Nat) :
    (l.foldl (fun a b => a ||| f b) a).toNat.testBit k = (a.toNat.testBit k || l.any fun b => (f b).toNat.testBit k) := by
  induction l generalizing a with
  | nil => simp
  | cons b l ih => rw [List.foldl_cons, ih, List.any_cons, BitVec.toNat_or, Nat.testBit_or, Bool.or_assoc]

/-- The active wavelengths of a port, ascending. -/
def activeLanes (live : BitVec 16) : List Nat := (List.range 16).filter fun w => bitAt live.toNat w

theorem activeLanes_length (live : BitVec 16) : (activeLanes live).length ≤ 16 :=
  (List.length_filter_le ..).trans (by simp)

theorem mem_activeLanes {live : BitVec 16} {w : Nat} : w ∈ activeLanes live ↔ w < 16 ∧ bitAt live.toNat w = true := by
  simp [activeLanes]

/-- A beat goes out on one active wavelength. -/
theorem testBit_laneOf {live : BitVec 16} {b k : Nat} (hk : k < 16) : (laneOf live b).toNat.testBit k = true ↔
    activeLanes live ≠ [] ∧ (activeLanes live).getD (b % (activeLanes live).length) 0 = k := by
  have h : laneOf live b = if (activeLanes live).isEmpty then 0 else
    BitVec.ofNat 16 (2 ^ ((activeLanes live).getD (b % (activeLanes live).length) 0)) := rfl
  rw [h]
  by_cases he : activeLanes live = []
  · simp [he]
  · have he' : (activeLanes live).isEmpty = false := by simpa using he
    rw [he', if_neg Bool.false_ne_true, BitVec.toNat_ofNat, Nat.testBit_mod_two_pow, Nat.testBit_two_pow]
    simp [he, hk]

/-- The beats of a flit go out on the active wavelengths, each of them. -/
theorem bitAt_lanesOf (live : BitVec 16) {k : Nat} (hk : k < 16) : bitAt (lanesOf live).toNat k = bitAt live.toNat k := by
  have h0 : (0 : BitVec 16).toNat.testBit k = false := Nat.zero_testBit k
  rw [Bool.eq_iff_iff, bitAt_eq_testBit, lanesOf, testBit_foldl_or, h0, Bool.false_or, List.any_eq_true]
  constructor
  · rintro ⟨b, -, hb⟩
    obtain ⟨hne, hk'⟩ := (testBit_laneOf hk).1 hb
    have hlt := Nat.mod_lt b (List.length_pos_iff.2 hne)
    rw [List.getD_eq_getElem _ _ hlt] at hk'
    exact (mem_activeLanes.1 (hk' ▸ List.getElem_mem hlt)).2
  · intro hb
    obtain ⟨b, hlt, hbk⟩ := List.getElem_of_mem (mem_activeLanes.2 ⟨hk, hb⟩)
    have hlen := activeLanes_length live
    refine ⟨b, List.mem_range.2 (by omega), (testBit_laneOf hk).2 ⟨List.ne_nil_of_length_pos (by omega), ?_⟩⟩
    rw [Nat.mod_eq_of_lt hlt, List.getD_eq_getElem _ _ hlt, hbk]

/-! ### Stranded flits (15 R374, R377) -/

/-- A walk over the ports that changes something at one of them alone. -/
theorem foldl_ports_one {f : Module → Fin 72 → Module} {m : Module} (q : Fin 72) (hb : ∀ j, j ≠ q → f m j = m)
    (ha : ∀ j, j ≠ q → f (f m q) j = f m q) : allPorts.foldl f m = f m q := by
  obtain ⟨l, r, hl⟩ := List.append_of_mem (List.mem_finRange q)
  have hd : (l ++ q :: r).Nodup := hl ▸ List.nodup_finRange 72
  obtain ⟨-, hdr, hdl⟩ := List.nodup_append.1 hd
  have same : ∀ (l : List (Fin 72)) (k : Module), (∀ j ∈ l, f k j = k) → l.foldl f k = k := by
    intro l
    induction l with
    | nil => exact fun _ _ => rfl
    | cons j l ih =>
      intro k hk
      rw [List.foldl_cons, hk j (List.mem_cons_self ..)]
      exact ih k fun i hi => hk i (List.mem_cons_of_mem _ hi)
  rw [allPorts, hl, List.foldl_append, List.foldl_cons, same l m fun j hj => hb j (hdl j hj q (List.mem_cons_self ..))]
  exact same r _ fun j hj => ha j fun he => (List.nodup_cons.1 hdr).1 (he ▸ hj)

/-- One port's stranded flits choose their paths again. -/
def repickPort (m : Module) (q : Fin 72) : Module :=
  ((m.port q).sendq.filter (stranded m q)).foldl (fun m e =>
    match pickPath m e.2.dst with
    | none => m
    | some path => enqueue (m.modPort q fun p => p.withQueue (portNow m q) (p.sendq.erase e)) path e.2) m

theorem repick_eq (m : Module) : repick m = allPorts.foldl repickPort m := rfl

theorem repickPort_none {m : Module} {q : Fin 72} (h : ∀ y ∈ (m.port q).sendq, stranded m q y = false) :
    repickPort m q = m := by
  rw [repickPort, List.filter_eq_nil_iff.2 fun y hy => by rw [h y hy]; exact Bool.false_ne_true]
  rfl

theorem repickPorts_none {m : Module} {qs : List (Fin 72)} (h : ∀ q ∈ qs, ∀ y ∈ (m.port q).sendq, stranded m q y = false) :
    qs.foldl repickPort m = m := by
  induction qs with
  | nil => rfl
  | cons q qs ih =>
    rw [List.foldl_cons, repickPort_none (h q (List.mem_cons_self ..))]
    exact ih fun j hj => h j (List.mem_cons_of_mem _ hj)

section
variable {m : Module} {j : Fin 72} {f : Flit}

/-- A flit whose hop a live port meets now is not stranded there, unless its direct path is marked down. -/
theorem stranded_met {d : BitVec 10} (hl : (m.port j).live ≠ 0) (hm : (m.port j).met = some d)
    (hd : d = f.dst → ((m.port j).peer d).down = false) : stranded m j (d, f) = false := by
  by_cases h : d = f.dst
  · simpa [stranded, hm, hd h] using hl
  · simpa [stranded, hm, h] using hl

theorem stranded_directNow (h : directNow m f.dst = some j) : stranded m j (f.dst, f) = false := by
  have hp := List.find?_some h
  simp only [Port.sends, Bool.and_eq_true, Bool.not_eq_true', decide_eq_true_eq] at hp
  obtain ⟨⟨⟨⟨-, hl⟩, hm⟩, hd⟩, -⟩ := hp
  exact stranded_met hl hm fun _ => hd

theorem stranded_directPath (h : directPath m f.dst = some j) : stranded m j (f.dst, f) = false := by
  unfold directPath at h
  split at h
  · next i hi => cases h; exact stranded_directNow hi
  · have hp := List.find?_some h
    simp only [Bool.and_eq_true, Bool.not_eq_true', decide_eq_true_eq] at hp
    obtain ⟨⟨hl, hd⟩, hm⟩ := hp
    simpa [stranded, hd, hm] using hl

theorem stranded_relay {r : Fin 72 × BitVec 10} (h : r ∈ relaysNow m f.dst) : stranded m r.1 (r.2, f) = false := by
  obtain ⟨j, -, hj⟩ := List.mem_filterMap.1 h
  dsimp only at hj
  split at hj
  · next d hd =>
    split at hj
    · next hc =>
      simp only [Port.sends, Bool.and_eq_true, decide_eq_true_eq] at hc
      obtain ⟨⟨⟨-, hl⟩, hne⟩, -⟩ := hc
      obtain rfl := Option.some.inj hj
      exact stranded_met hl hd fun he => absurd he hne
    · cases hj
  · cases hj

/-- A choice among a list's elements, one against the next, is one of them. -/
theorem foldl_choice_mem {α : Type} {f : α → α → α} (hf : ∀ a b, f a b = a ∨ f a b = b) (a : α) (l : List α) :
    l.foldl f a ∈ a :: l := by
  induction l generalizing a with
  | nil => exact List.mem_cons_self ..
  | cons b l ih =>
    rw [List.foldl_cons]
    have h := ih (f a b)
    rcases hf a b with he | he <;> rw [he] at h ⊢
    · rcases List.mem_cons.1 h with h | h
      · rw [h]; exact List.mem_cons_self ..
      · exact List.mem_cons_of_mem _ (List.mem_cons_of_mem _ h)
    · exact List.mem_cons_of_mem _ h

/-- A path that is picked is no dead end for the flit. -/
theorem stranded_pickPath {path : Fin 72 × BitVec 10} (h : pickPath m f.dst = some path) :
    stranded m path.1 (path.2, f) = false := by
  unfold pickPath at h
  split at h
  · next j hj => cases h; exact stranded_directNow hj
  · split at h
    · next r rs hr =>
      cases h
      refine stranded_relay (hr ▸ foldl_choice_mem (fun a b => ?_) r rs)
      split
      · exact .inr rfl
      · exact .inl rfl
    · obtain ⟨j, hj, rfl⟩ := Option.map_eq_some_iff.1 h
      exact stranded_directPath hj

end

/-- What waits at a port after a pump, from what waited there. -/
theorem pumpList_subset (q : Fin 72) (l : List (BitVec 10 × Flit)) (m : Module) : ∀ e ∈ (pumpList q l m).2, e ∈ l := by
  induction l generalizing m with
  | nil => exact fun _ h => h
  | cons e l ih =>
    obtain ⟨hop, f⟩ := e
    rw [pumpList]
    split
    · exact fun x hx => List.mem_cons_of_mem _ (ih _ x hx)
    · intro x hx
      rcases List.mem_cons.1 hx with rfl | hx
      · exact List.mem_cons_self ..
      · exact List.mem_cons_of_mem _ (ih _ x hx)

/-- What waits at the ports after a flit is queued at one. -/
theorem enqueue_sendq (m : Module) (path : Fin 72 × BitVec 10) (f : Flit) (j : Fin 72) :
    ∀ e ∈ ((enqueue m path f).port j).sendq, e ∈ (m.port j).sendq ∨ j = path.1 ∧ e = (path.2, f) := by
  intro e he
  rw [enqueue, pump_sendq] at he
  split at he
  · next hj =>
    have h := pumpList_subset _ _ _ e he
    rw [Module.port_modPort_same, List.mem_append, List.mem_singleton] at h
    exact h.imp (fun h => hj ▸ h) fun h => ⟨hj, h⟩
  · next hj => rw [Module.port_modPort_ne _ _ hj] at he; exact .inl he

theorem repickPort_one {m : Module} {q : Fin 72} {e : BitVec 10 × Flit} (hq : (m.port q).sendq = [e])
    (hs : stranded m q e = true) :
    repickPort m q = match pickPath m e.2.dst with
    | none => m
    | some path => enqueue (m.setPort q { m.port q with sendq := [], idleSince := portNow m q }) path e.2 := by
  rw [repickPort, hq, List.filter_cons_of_pos hs, List.filter_nil, List.foldl_cons, List.foldl_nil]
  have hw : (m.modPort q fun p => p.withQueue (portNow m q) (p.sendq.erase e)) =
      m.setPort q { m.port q with sendq := [], idleSince := portNow m q } := by
    rw [Module.modPort, Port.withQueue, hq, List.erase_cons_head, if_pos ⟨List.cons_ne_nil _ _, rfl⟩]
  rw [hw]

section
variable {m : Module} {q : Fin 72} {e : BitVec 10 × Flit}

/-- Of one flit that waits and is stranded, the others passed over. -/
theorem repick_one (hn : ∀ j, j ≠ q → (m.port j).sendq = [])
    (hr : ∀ j, j ≠ q → ∀ y ∈ ((repickPort m q).port j).sendq, stranded (repickPort m q) j y = false) :
    repick m = repickPort m q :=
  foldl_ports_one q (fun j hj => repickPort_none fun y hy => by rw [hn j hj] at hy; cases hy)
    fun j hj => repickPort_none (hr j hj)

theorem repick_one_none (hq : (m.port q).sendq = [e]) (hn : ∀ j, j ≠ q → (m.port j).sendq = []) (hs : stranded m q e = true)
    (hp : pickPath m e.2.dst = none) : repick m = m := by
  have h := repickPort_one hq hs
  rw [hp] at h
  rw [repick_one hn, h]
  intro j hj y hy
  rw [h, hn j hj] at hy
  cases hy

theorem repick_one_some {path : Fin 72 × BitVec 10} (hq : (m.port q).sendq = [e]) (hn : ∀ j, j ≠ q → (m.port j).sendq = [])
    (hs : stranded m q e = true) (hp : pickPath m e.2.dst = some path) :
    repick m = enqueue (m.setPort q { m.port q with sendq := [], idleSince := portNow m q }) path e.2 := by
  have h := repickPort_one hq hs
  rw [hp] at h
  rw [repick_one hn, h]
  intro j hj y hy
  rw [h] at hy ⊢
  have hm : PortsMove SameButFlits m (m.setPort q { m.port q with sendq := [], idleSince := portNow m q }) :=
    .modPort (f := fun p => { p with sendq := [], idleSince := portNow m q }) sameButFlits_rel ⟨rfl, fun _ => rfl⟩
  rw [stranded_move (hm.trans sameButFlits_rel (enqueue_frame ..))]
  rcases enqueue_sendq _ _ _ _ _ hy with hy | ⟨rfl, rfl⟩
  · rw [Module.port_setPort, if_neg hj, hn j hj] at hy
    cases hy
  · exact stranded_pickPath hp

end

/-! ### Relays (09 R286) -/

section
variable {s : State} {q : Fin 72}

/-- Whether a port sends a held flit on. -/
def sendsOn (p : Port) (e : Fin 72 × Flit) : Prop := p.sends = true ∧ p.met = some e.2.dst

theorem exec_relaySend_oldest {l r : List (Fin 72 × Flit)} {e : Fin 72 × Flit} (hr : s.m.relay = l ++ e :: r)
    (hl : ∀ x ∈ l, ¬sendsOn (s.m.port q) x) (he : sendsOn (s.m.port q) e) :
    exec (.relaySend q) s = .next { s with m := { s.m with relay := l ++ r } } := by
  have hf : s.m.relay.find? (fun e => (s.m.port q).sends && decide ((s.m.port q).met = some e.2.dst)) = some e := by
    rw [hr, List.find?_eq_some_iff_append]
    refine ⟨by simpa [sendsOn] using he, l, r, rfl, fun x hx => ?_⟩
    rw [Bool.not_eq_true', Bool.eq_false_iff]
    exact fun h => hl x hx (by simpa [sendsOn] using h)
  have herase : s.m.relay.erase e = l ++ r := by
    rw [hr, List.erase_append_right (l₁ := l) _ (fun h => hl e h he), List.erase_cons_head]
  show execRelaySend q s = _
  rw [execRelaySend, event]
  dsimp only
  rw [hf]
  dsimp only
  rw [herase]

theorem exec_relaySend_none (h : ∀ x ∈ s.m.relay, ¬sendsOn (s.m.port q) x) : exec (.relaySend q) s = .next s := by
  have hf : s.m.relay.find? (fun e => (s.m.port q).sends && decide ((s.m.port q).met = some e.2.dst)) = none :=
    List.find?_eq_none.2 fun x hx => by simpa [sendsOn] using h x hx
  show execRelaySend q s = _
  rw [execRelaySend, event]
  dsimp only
  rw [hf]

end

/-! ### Arrivals (15 R374, R375) -/

section
variable {s : State} {q : Fin 72} {f : Flit} {good : Bool}

/-- Whether a flit's codewords, CRC and tag verify and its key is held. -/
def verified (m : Module) (q : Fin 72) (f : Flit) (good : Bool) : Prop :=
  good = true ∧ (Tbl.get none (m.port q).keys f.key.val).isSome = true

theorem exec_flitReceive_bad (h : ¬verified s.m q f good) :
    exec (.flitReceive q f good) s = .next { s with
      m := linkControl (countRetries s.m (portDie q) 1) f
        (.nak (if f.dst = s.m.device then ((s.m.port f.pair).peer f.src).expect else f.seq)) } := by
  have hb : (!good || (Tbl.get none (s.m.port q).keys f.key.val).isNone) = true := by
    rw [verified, not_and_or] at h
    rcases h with h | h
    · rw [Bool.not_eq_true] at h; rw [h]; rfl
    · rw [Bool.not_eq_true, Option.isSome_eq_false_iff] at h; rw [h, Bool.or_true]
  show execFlitReceive q f good s = _
  rw [execFlitReceive, event]
  dsimp only
  rw [if_pos hb]

theorem exec_flitReceive_good (h : verified s.m q f good) :
    exec (.flitReceive q f good) s = .next { s with
      m := if f.dst ≠ s.m.device then
          if relayCap ≤ s.m.relay.length then linkControl s.m f (.nak f.seq) else { s.m with relay := s.m.relay ++ [(q, f)] }
        else if !sequenced f.body then receiveBody s.m f
        else if f.seq = ((s.m.port f.pair).peer f.src).expect then
          linkControl (receiveBody (s.m.modPeer f.pair f.src fun x => { x with expect := x.expect + 1 }) f) f (.ack f.seq)
        else if (f.seq - ((s.m.port f.pair).peer f.src).expect).toNat < 2 ^ 23 then
          linkControl s.m f (.nak ((s.m.port f.pair).peer f.src).expect)
        else linkControl s.m f (.ack (((s.m.port f.pair).peer f.src).expect - 1)) } := by
  obtain ⟨hg, hk⟩ := h
  have hb : ¬(!good || (Tbl.get none (s.m.port q).keys f.key.val).isNone) = true := by
    rw [hg, Option.isNone_eq_false_iff.2 hk]; exact Bool.false_ne_true
  show execFlitReceive q f good s = _
  rw [execFlitReceive, event]
  dsimp only
  rw [if_neg hb]

variable (h : verified s.m q f good)
include h

theorem exec_flitReceive_relay (hd : f.dst ≠ s.m.device) :
    exec (.flitReceive q f good) s = .next { s with
      m := if 32768 ≤ s.m.relay.length then linkControl s.m f (.nak f.seq) else { s.m with relay := s.m.relay ++ [(q, f)] } } := by
  rw [exec_flitReceive_good h, if_pos hd]
  rfl

theorem exec_flitReceive_control (hd : f.dst = s.m.device) (hs : sequenced f.body = false) :
    exec (.flitReceive q f good) s = .next { s with m := receiveBody s.m f } := by
  rw [exec_flitReceive_good h, if_neg (not_not.2 hd), hs]
  rfl

theorem exec_flitReceive_out (hd : f.dst = s.m.device) (hs : sequenced f.body = true)
    (he : f.seq ≠ ((s.m.port f.pair).peer f.src).expect) :
    exec (.flitReceive q f good) s = .next { s with
      m := linkControl s.m f
        (if (f.seq - ((s.m.port f.pair).peer f.src).expect).toNat < 2 ^ 23 then .nak ((s.m.port f.pair).peer f.src).expect
          else .ack (((s.m.port f.pair).peer f.src).expect - 1)) } := by
  rw [exec_flitReceive_good h, if_neg (not_not.2 hd), hs, if_neg (by exact Bool.false_ne_true), if_neg he]
  split <;> rfl

theorem exec_flitReceive_in (hd : f.dst = s.m.device) (hs : sequenced f.body = true)
    (he : f.seq = ((s.m.port f.pair).peer f.src).expect) :
    exec (.flitReceive q f good) s = .next { s with
      m := linkControl
        (receiveBody (s.m.modPeer f.pair f.src fun x => { x with expect := x.expect + 1 }) f) f (.ack f.seq) } := by
  rw [exec_flitReceive_good h, if_neg (not_not.2 hd), hs, if_neg (by exact Bool.false_ne_true), if_pos he]

end

/-- An acknowledgement of a multicast packet is struck off the chain of its command (log 92). -/
theorem chain_multicastAck (m : Module) (n : Nat) (a : BitVec 10 × BitVec 8) (i : ChainId) :
    ({ m with chains := Tbl.upd {} m.chains n fun k => { k with acks := k.acks.erase a } } : Module).chain i =
      if chainKey i = n then { m.chain i with acks := (m.chain i).acks.erase a } else m.chain i := by
  rw [Module.chain, Tbl.get_upd]
  split
  · next h => rw [Module.chain, h]
  · rfl

/-! ### Failures of a flit (15 R374) -/

section
variable {m : Module} {q : Fin 72} {d : BitVec 10} {n : BitVec 24}

theorem Module.peer_modPeer (m : Module) (q j : Fin 72) (d e : BitVec 10) (f : Peer → Peer) :
    ((m.modPeer q d f).port j).peer e = if j = q ∧ e = d then f ((m.port q).peer d) else (m.port j).peer e := by
  rw [Module.modPeer, Module.port_modPort]
  by_cases hj : j = q
  · subst hj; rw [if_pos rfl, Port.peer_setPeer]; simp
  · rw [if_neg hj, if_neg fun h => hj h.1]

/-- One more failure of the flits of a sequence, over a port. -/
def failedOnce (n : BitVec 24) (p : Fin 72) (o : Sent) : Sent :=
  if o.flit.seq = n then { o with fails := Tbl.set 0 o.fails p.val (Tbl.get 0 o.fails p.val + 1) } else o

theorem countFailure_none (h : ∀ e ∈ ((m.port q).peer d).replay, e.flit.seq ≠ n) : countFailure m q d n = m := by
  unfold countFailure
  rw [List.find?_eq_none.2 fun e he => by simpa using h e he]

theorem countFailure_some {e : Sent} (h : ((m.port q).peer d).replay.find? (fun e => decide (e.flit.seq = n)) = some e) :
    countFailure m q d n = if e.direct = false then m else
      let m' := m.modPeer q d fun x => { x with replay := x.replay.map (failedOnce n e.port) }
      if Tbl.get 0 e.fails e.port.val + 1 < 16 ∨ ((m'.port e.port).peer d).down then m'
      else (m'.modPeer e.port d fun x => { x with down := true }).modDie (portDie e.port) fun d =>
        { d with counters := { d.counters with pathsDown := d.counters.pathsDown + 1 } } := by
  unfold countFailure
  rw [h]
  dsimp only
  cases e.direct <;> rfl

/-- The counts of a failure: of the flits of its sequence, and of a path that it marks down. -/
theorem countFailure_counts {e : Sent} (h : ((m.port q).peer d).replay.find? (fun e => decide (e.flit.seq = n)) = some e)
    (hd : e.direct = true) : ∃ w, countFailure m q d n = w ∧ w = { m with ports := w.ports, dies := w.dies } ∧
      ((w.port q).peer d).replay = ((m.port q).peer d).replay.map (failedOnce n e.port) ∧
      ((w.port e.port).peer d).down =
        (((m.port e.port).peer d).down || decide (16 ≤ Tbl.get 0 e.fails e.port.val + 1)) ∧
      (w.die (portDie e.port)).counters.pathsDown = (m.die (portDie e.port)).counters.pathsDown +
        (if ((m.port e.port).peer d).down = false ∧ 16 ≤ Tbl.get 0 e.fails e.port.val + 1 then 1 else 0) := by
  rw [countFailure_some h, hd, if_neg (by decide)]
  dsimp only
  obtain ⟨m', hm'⟩ : ∃ m', m' = m.modPeer q d fun x => { x with replay := x.replay.map (failedOnce n e.port) } := ⟨_, rfl⟩
  rw [← hm']
  have hrep : ((m'.port q).peer d).replay = ((m.port q).peer d).replay.map (failedOnce n e.port) := by
    rw [hm', Module.peer_modPeer, if_pos ⟨rfl, rfl⟩]
  have hdown : ((m'.port e.port).peer d).down = ((m.port e.port).peer d).down := by
    rw [hm', Module.peer_modPeer]
    split
    · next hx => rw [hx.1]
    · rfl
  have hmod : m' = { m with ports := m'.ports } := by rw [hm']; rfl
  have hdies : m'.dies = m.dies := by rw [hmod]
  by_cases hc : Tbl.get 0 e.fails e.port.val + 1 < 16 ∨ ((m'.port e.port).peer d).down = true
  · refine ⟨m', if_pos hc, ?_, hrep, ?_, ?_⟩
    · rw [hmod]
    · rw [hdown] at hc ⊢
      rcases hc with hc | hc
      · rw [decide_eq_false (by omega), Bool.or_false]
      · rw [hc, Bool.true_or]
    · rw [hdown] at hc
      rw [Module.die, hdies, if_neg, add_zero, Module.die]
      rintro ⟨h1, h2⟩
      rcases hc with hc | hc
      · omega
      · rw [h1] at hc; cases hc
  · refine ⟨_, if_neg hc, ?_, ?_, ?_, ?_⟩
    · rw [hmod]; rfl
    · refine Eq.trans ?_ hrep
      rw [show ∀ (k : Module) d f j, (k.modDie d f).port j = k.port j from fun _ _ _ _ => rfl, Module.peer_modPeer]
      split
      · next hx => rw [hx.1]
      · rfl
    · rw [show ∀ (k : Module) d f j, (k.modDie d f).port j = k.port j from fun _ _ _ _ => rfl, Module.peer_modPeer,
        if_pos ⟨rfl, rfl⟩, decide_eq_true (by omega), Bool.or_true]
    · rw [not_or, hdown] at hc
      obtain ⟨h1, h2⟩ := hc
      rw [Module.die_modDie_same, if_pos ⟨Bool.eq_false_iff.2 h2, by omega⟩]
      show (Tbl.get {} m'.dies _).counters.pathsDown + 1 = _
      rw [hdies]
      rfl

end

/-! ### Ports without light (15 R377) -/

theorem portDown_empty {m : Module} {q : Fin 72} (h : ∀ e ∈ (m.port q).peers, e.2.replay = []) : portDown m q = repick m := by
  have hf : ∀ (l : Tbl Peer) (k : Module), (∀ e ∈ l, e.2.replay = []) → (l.foldl (fun m e =>
      match e.2.replay with
      | f :: _ => replayPair m q (BitVec.ofNat 10 e.1) f.flit.seq
      | [] => m) k) = k := by
    intro l
    induction l with
    | nil => exact fun _ _ => rfl
    | cons e l ih =>
      intro k hl
      rw [List.foldl_cons, hl e (List.mem_cons_self ..)]
      exact ih k fun x hx => hl x (List.mem_cons_of_mem _ hx)
  rw [portDown]
  exact congrArg repick (hf _ m h)

theorem portDown_one {m : Module} {q : Fin 72} {d : BitVec 10} {x : Peer} {f : Sent} {r : List Sent}
    (h : (m.port q).peers = [(d.toNat, x)]) (hx : x.replay = f :: r) :
    portDown m q = repick (replayPair m q d f.flit.seq) := by
  rw [portDown, h, List.foldl_cons, List.foldl_nil]
  dsimp only
  rw [hx, BitVec.ofNat_toNat, BitVec.setWidth_eq]

/-- What an entry of a table becomes when another value is set. -/
theorem Tbl.mem_ins_of_mem {α : Type} {d : α} {t : Tbl α} {k : Nat} {v : α} {e : Nat × α} (h : e ∈ t) :
    e ∈ Tbl.ins t k v ∨ e = (k, Tbl.get d t k) ∧ (k, v) ∈ Tbl.ins t k v := by
  induction t with
  | nil => cases h
  | cons x t ih =>
    obtain ⟨j, w⟩ := x
    rw [Tbl.ins]
    by_cases hk : k = j
    · subst hk
      rw [if_pos rfl, Tbl.get, if_pos rfl]
      rcases List.mem_cons.1 h with rfl | h
      · exact .inr ⟨rfl, List.mem_cons_self ..⟩
      · exact .inl (List.mem_cons_of_mem _ h)
    · rw [if_neg hk]
      split
      · exact .inl (List.mem_cons_of_mem _ h)
      · rw [Tbl.get, if_neg hk]
        rcases List.mem_cons.1 h with rfl | h
        · exact .inl (List.mem_cons_self ..)
        · exact (ih h).imp (List.mem_cons_of_mem _) fun ⟨h1, h2⟩ => ⟨h1, List.mem_cons_of_mem _ h2⟩

/-- A property that the default lacks and that a value set has as the value before holds of the entries as before. -/
theorem Tbl.exists_set_iff {α : Type} [DecidableEq α] {d v : α} (t : Tbl α) (k : Nat) {P : α → Prop} (hd : ¬P d) (hv : v ≠ d)
    (hP : P v ↔ P (Tbl.get d t k)) : (∃ e ∈ Tbl.set d t k v, P e.2) ↔ ∃ e ∈ t, P e.2 := by
  rw [Tbl.set, if_neg hv]
  constructor
  · rintro ⟨e, he, hp⟩
    rcases Tbl.mem_ins he with rfl | he
    · rcases Tbl.get_eq_or_mem d t k with hg | hg
      · exact absurd (hg ▸ hP.1 hp) hd
      · exact ⟨_, hg, hP.1 hp⟩
    · exact ⟨e, he, hp⟩
  · rintro ⟨e, he, hp⟩
    rcases Tbl.mem_ins_of_mem (d := d) (k := k) (v := v) he with he | ⟨rfl, hv'⟩
    · exact ⟨e, he, hp⟩
    · exact ⟨(k, v), hv', hP.2 hp⟩

/-- Whether an unacknowledged flit of a pair is on wavelengths of a port. -/
def litBy (q : Fin 72) (mask : BitVec 16) (p : Port) : Prop :=
  ∃ y ∈ p.peers, ∃ e ∈ y.2.replay, e.port = q ∧ e.lanes &&& mask ≠ 0

/-- A port that loses the light of a module restripes. -/
def darkened (p : Port) (l : Fin 4) : Port :=
  let live := p.live &&& ~~~ moduleMask l
  let parked := p.parked &&& ~~~ moduleMask l
  let wake := if live = 0 then parked else 0
  { p with
    live := live, parked := parked &&& ~~~ wake, waking := (p.waking &&& ~~~ moduleMask l) ||| wake
    lost := p.lost ||| BitVec.ofNat 4 (2 ^ l.val)
    change := if p.live = live then p.change else some ((p.change.map Prod.fst).getD p.live, live)
    losses := if p.live &&& moduleMask l = 0 then p.losses else p.losses ++ [{ lm := l, mask := moduleMask l }] }

theorem setLive_eq (p : Port) (live : BitVec 16) : p.setLive live = { p with
    live := live, change := if p.live = live then p.change else some ((p.change.map Prod.fst).getD p.live, live) } := by
  rw [Port.setLive]
  split
  · next h => rw [← h]
  · rfl

section
variable {s : State} {q : Fin 72} {l : Fin 4}

/-- The report of a loss at once, or the loss that waits for its first replay. -/
def lossReported (m : Module) (q : Fin 72) (l : Fin 4) : Module :=
  if (m.port q).live &&& moduleMask l = 0 then sendLoslight (m.setPort q (darkened (m.port q) l)) q l (moduleMask l) 0 0
  else clearLosses (m.setPort q (darkened (m.port q) l))

theorem exec_lossOfLight_again (h : bitAt (s.m.port q).lost.toNat l.val = true) : exec (.lossOfLight q l) s = .next s := by
  show execLossOfLight q l s = _
  rw [execLossOfLight, eventIf, h]
  rfl

theorem lossReported_lost (m : Module) (q : Fin 72) (l : Fin 4) :
    ((lossReported m q l).port q).lost = (m.port q).lost ||| BitVec.ofNat 4 (2 ^ l.val) := by
  have h0 : ((m.setPort q (darkened (m.port q) l)).port q).lost = (m.port q).lost ||| BitVec.ofNat 4 (2 ^ l.val) := by
    rw [Module.port_setPort_same, darkened]
  rw [lossReported]
  split
  · rw [Module.port, sendLoslight, sendEvent_ports]; exact h0
  · have h := (clearLosses_frame (m.setPort q (darkened (m.port q) l))).port q
    rw [h]; exact h0

theorem exec_lossOfLight (h : bitAt (s.m.port q).lost.toNat l.val = false) :
    exec (.lossOfLight q l) s = .next { s with
      m := if (s.m.port q).lost ||| BitVec.ofNat 4 (2 ^ l.val) = 0xF then portDown (lossReported s.m q l) q
        else lossReported s.m q l } := by
  rw [← lossReported_lost]
  show execLossOfLight q l s = _
  rw [execLossOfLight, eventIf, h]
  have hm : ∀ p : Port, (darkened p l) = { p.setLive (p.live &&& ~~~ moduleMask l) with
      parked := (p.parked &&& ~~~ moduleMask l) &&& ~~~ (if p.live &&& ~~~ moduleMask l = 0 then p.parked &&& ~~~ moduleMask l else 0)
      waking := (p.waking &&& ~~~ moduleMask l) ||| (if p.live &&& ~~~ moduleMask l = 0 then p.parked &&& ~~~ moduleMask l else 0)
      lost := p.lost ||| BitVec.ofNat 4 (2 ^ l.val)
      losses := if p.live &&& moduleMask l = 0 then p.losses else p.losses ++ [{ lm := l, mask := moduleMask l }] } := by
    intro p; rw [setLive_eq]; rfl
  simp only [lossReported, hm, Bool.not_false, if_true, decide_eq_true_eq]

theorem darkened_ne_default {p : Port} (h : p.live &&& moduleMask l ≠ 0) : darkened p l ≠ {} := by
  intro he
  have hl := congrArg Port.losses he
  rw [darkened, if_neg h] at hl
  exact absurd hl (by simp)

/-- The flits that were on a module's light are those that were on it before the port restripes. -/
theorem litBy_darkened (m : Module) (mask : BitVec 16) (h : (m.port q).live &&& moduleMask l ≠ 0) :
    (∃ p ∈ (m.setPort q (darkened (m.port q) l)).ports, litBy q mask p.2) ↔ ∃ p ∈ m.ports, litBy q mask p.2 :=
  Tbl.exists_set_iff (d := ({} : Port)) m.ports q.val (P := litBy q mask) (by rintro ⟨y, hy, -⟩; cases hy)
    (darkened_ne_default h) Iff.rfl

/-- The losses of one port that no replay covers are reported unless an unacknowledged flit of `out` was on their light. -/
def clearPort (out : List Sent) (m : Module) (q : Fin 72) : Module :=
  ((m.port q).losses.filter fun l => l.replay.isNone &&
      !out.any fun e => decide (e.port = q) && decide (e.lanes &&& l.mask ≠ 0)).foldl (fun m l =>
    sendLoslight (m.modPort q fun p => { p with losses := p.losses.erase l }) q l.lm l.mask 0 0) m

theorem clearLosses_eq (m : Module) :
    clearLosses m = allPorts.foldl (clearPort (m.ports.flatMap fun e => e.2.peers.flatMap fun x => x.2.replay)) m := rfl

theorem clearPort_none {out : List Sent} {m : Module} {j : Fin 72} (h : (m.port j).losses = []) : clearPort out m j = m := by
  rw [clearPort, h]; rfl

theorem port_sendLoslight (m : Module) (q j : Fin 72) (l : Fin 4) (mask : BitVec 16) (a b : Nat) :
    (sendLoslight m q l mask a b).port j = m.port j := by
  rw [Module.port, sendLoslight, sendEvent_ports, Module.port]

theorem clearPort_port_ne {out : List Sent} {m : Module} {j : Fin 72} (hj : j ≠ q) :
    (clearPort out m q).port j = m.port j := by
  rw [clearPort]
  generalize (m.port q).losses.filter _ = ls
  induction ls generalizing m with
  | nil => rfl
  | cons x ls ih => rw [List.foldl_cons, ih, port_sendLoslight, Module.port_modPort_ne _ _ hj]

/-- Where one port has one loss that no replay covers yet, it is reported if no unacknowledged flit was on its light. -/
theorem clearLosses_one {m : Module} {x : Loss} (hq : (m.port q).losses = [x]) (hn : ∀ j, j ≠ q → (m.port j).losses = [])
    (hx : x.replay = none) :
    ((∃ p ∈ m.ports, litBy q x.mask p.2) → clearLosses m = m) ∧
    ((¬∃ p ∈ m.ports, litBy q x.mask p.2) → clearLosses m =
      sendLoslight (m.modPort q fun p => { p with losses := [] }) q x.lm x.mask 0 0) := by
  obtain ⟨out, hout⟩ : ∃ out, out = m.ports.flatMap fun e => e.2.peers.flatMap fun x => x.2.replay := ⟨_, rfl⟩
  have hany : (out.any fun e => decide (e.port = q) && decide (e.lanes &&& x.mask ≠ 0)) = true ↔
      ∃ p ∈ m.ports, litBy q x.mask p.2 := by
    simp only [hout, litBy, List.any_eq_true, List.mem_flatMap, Bool.and_eq_true, decide_eq_true_eq]
    constructor
    · rintro ⟨e, ⟨p, hp, y, hy, he⟩, h1, h2⟩
      exact ⟨p, hp, y, hy, e, he, h1, h2⟩
    · rintro ⟨p, hp, y, hy, e, he, h1, h2⟩
      exact ⟨e, ⟨p, hp, y, hy, he⟩, h1, h2⟩
  have hfold : clearLosses m = clearPort out m q := by
    rw [clearLosses_eq, ← hout]
    refine foldl_ports_one q (fun j hj => clearPort_none (hn j hj)) fun j hj => clearPort_none ?_
    rw [clearPort_port_ne hj, hn j hj]
  rw [hfold, clearPort, hq]
  refine ⟨fun h => ?_, fun h => ?_⟩
  · rw [List.filter_cons_of_neg (by rw [hx, hany.2 h]; decide), List.filter_nil, List.foldl_nil]
  · rw [List.filter_cons_of_pos (by rw [hx, Bool.eq_false_iff.2 (hany.not.2 h)]; rfl), List.filter_nil, List.foldl_cons,
      List.foldl_nil, Module.modPort, hq, List.erase_cons_head]
    rfl

/-- A loss of light at a port among ports that have none still to report. -/
theorem lossReported_once (m : Module) (hn : ∀ j, (m.port j).losses = []) :
    (∀ j, j ≠ q → (lossReported m q l).port j = m.port j) ∧
    ((m.port q).live &&& moduleMask l ≠ 0 ∧ (∃ p ∈ m.ports, litBy q (moduleMask l) p.2) →
      (lossReported m q l).port q = darkened (m.port q) l ∧ (lossReported m q l).evseq = m.evseq) ∧
    (¬((m.port q).live &&& moduleMask l ≠ 0 ∧ ∃ p ∈ m.ports, litBy q (moduleMask l) p.2) →
      (lossReported m q l).port q = { darkened (m.port q) l with losses := [] } ∧
        (lossReported m q l).evseq = m.evseq + 1) := by
  obtain ⟨k, hk⟩ : ∃ k, k = m.setPort q (darkened (m.port q) l) := ⟨_, rfl⟩
  have hkq : k.port q = darkened (m.port q) l := by rw [hk, Module.port_setPort_same]
  have hkj : ∀ j, j ≠ q → k.port j = m.port j := fun j hj => by rw [hk, Module.port_setPort, if_neg hj]
  have hke : k.evseq = m.evseq := by rw [hk]; rfl
  rw [lossReported, ← hk]
  by_cases hu : (m.port q).live &&& moduleMask l = 0
  · have hloss : (darkened (m.port q) l).losses = [] := by rw [darkened, if_pos hu, hn]
    rw [if_pos hu]
    refine ⟨fun j hj => by rw [port_sendLoslight, hkj j hj], fun h => absurd hu h.1, fun _ => ⟨?_, ?_⟩⟩
    · rw [port_sendLoslight, hkq, ← hloss]
    · rw [sendLoslight, sendEvent_evseq, hke]
  · have hloss : (k.port q).losses = [{ lm := l, mask := moduleMask l }] := by rw [hkq, darkened, if_neg hu, hn]; rfl
    obtain ⟨h1, h2⟩ := clearLosses_one hloss (fun j hj => by rw [hkj j hj, hn]) rfl
    have hlit := litBy_darkened (q := q) (l := l) m (moduleMask l) hu
    rw [← hk] at hlit
    rw [if_neg hu]
    refine ⟨fun j hj => ?_, fun h => ?_, fun h => ?_⟩
    · by_cases h : ∃ p ∈ k.ports, litBy q (moduleMask l) p.2
      · rw [h1 h, hkj j hj]
      · rw [h2 h, port_sendLoslight, Module.port_modPort_ne _ _ hj, hkj j hj]
    · rw [h1 (hlit.2 h.2)]
      exact ⟨hkq, hke⟩
    · rw [h2 fun hx => h ⟨hu, hlit.1 hx⟩, port_sendLoslight, Module.port_modPort_same, hkq, sendLoslight, sendEvent_evseq]
      exact ⟨rfl, congrArg (· + 1) hke⟩

end

/-! ### Parking and waking (15 R376) -/

/-- The light that parking takes from a port: that of every good module but the first. -/
def parkedLight (live : BitVec 16) : BitVec 16 :=
  (((List.finRange 4).filter fun l => decide (live &&& moduleMask l ≠ 0)).drop 1).foldl
    (fun a l => a ||| (live &&& moduleMask l)) 0

/-- A module whose light is gone adds nothing. -/
theorem foldl_light_filter (live : BitVec 16) (ls : List (Fin 4)) (a : BitVec 16) :
    (ls.filter fun l => decide (live &&& moduleMask l ≠ 0)).foldl (fun a l => a ||| (live &&& moduleMask l)) a =
      ls.foldl (fun a l => a ||| (live &&& moduleMask l)) a := by
  induction ls generalizing a with
  | nil => rfl
  | cons l ls ih =>
    by_cases h : live &&& moduleMask l = 0
    · have ha : a ||| (0 : BitVec 16) = a := BitVec.or_zero
      rw [List.filter_cons_of_neg (by simpa using h), ih, List.foldl_cons, h, ha]
    · rw [List.filter_cons_of_pos (by simpa using h), List.foldl_cons, List.foldl_cons, ih]

theorem foldl_light (live : BitVec 16) (ls : List (Fin 4)) (a : BitVec 16) :
    ls.foldl (fun a l => a ||| (live &&& moduleMask l)) (live &&& a) =
      live &&& ls.foldl (fun a l => a ||| moduleMask l) a := by
  induction ls generalizing a with
  | nil => rfl
  | cons l ls ih => rw [List.foldl_cons, List.foldl_cons, ← ih, BitVec.and_or_distrib_left]

/-- The wavelengths of some modules. -/
def masksOf (ls : List (Fin 4)) : BitVec 16 := ls.foldl (fun a l => a ||| moduleMask l) 0

theorem foldl_light_zero (live : BitVec 16) (ls : List (Fin 4)) :
    ls.foldl (fun a l => a ||| (live &&& moduleMask l)) 0 = live &&& masksOf ls := by
  rw [masksOf, ← foldl_light, show live &&& (0 : BitVec 16) = 0 from BitVec.and_zero]

/-- The modules before and behind one feed what it does not (01 R10). -/
theorem finRange_split_module (l : Fin 4) :
    List.finRange 4 = (List.finRange 4).take l ++ l :: (List.finRange 4).drop (l + 1) ∧
      (∀ j ∈ (List.finRange 4).take l, j < l) ∧
      ~~~moduleMask l = masksOf ((List.finRange 4).take l) ||| masksOf ((List.finRange 4).drop (l + 1)) := by
  revert l
  decide

theorem light_masksOf_zero {live : BitVec 16} {ls : List (Fin 4)} (h : ∀ j ∈ ls, live &&& moduleMask j = 0) :
    live &&& masksOf ls = 0 := by
  rw [← foldl_light_zero, ← foldl_light_filter, List.filter_eq_nil_iff.2 fun j hj => by simpa using h j hj]
  rfl

/-- Parking takes the light of every module but the first good one. -/
theorem parkedLight_first {live : BitVec 16} {l : Fin 4} (h : live &&& moduleMask l ≠ 0)
    (hf : ∀ j, j < l → live &&& moduleMask j = 0) : parkedLight live = live &&& ~~~moduleMask l := by
  obtain ⟨hs, hb, hm⟩ := finRange_split_module l
  have hbs : ∀ j ∈ (List.finRange 4).take l, live &&& moduleMask j = 0 := fun j hj => hf j (hb j hj)
  rw [parkedLight, hs, List.filter_append, List.filter_eq_nil_iff.2 fun j hj => by simpa using hbs j hj, List.nil_append,
    List.filter_cons_of_pos (by simpa using h), List.drop_one, List.tail_cons, foldl_light_filter, foldl_light_zero, hm,
    BitVec.and_or_distrib_left, light_masksOf_zero hbs]
  exact BitVec.zero_or.symm

theorem parkedLight_zero : parkedLight 0 = 0 := by decide

theorem and_not_and_not (a b : BitVec 16) : a &&& ~~~(a &&& ~~~b) = a &&& b := by
  ext i
  cases ha : a[i] <;> simp [ha]

section
variable {s : State} {q : Fin 72} {l : Fin 4} {k : Fin 16}

/-- A port that may park: nothing waits, and its idle time is over (15 R376). -/
def idles (m : Module) (q : Fin 72) : Prop :=
  (m.port q).sendq = [] ∧ (m.port q).idleNs.toNat * 2 ≤ ((m.die (portDie q)).cyc - (m.port q).idleSince).toNat

theorem exec_portPark_busy (h : ¬idles s.m q) : exec (.portPark q) s = .next s := by
  have hb : ((s.m.port q).sendq.isEmpty &&
      decide ((s.m.port q).idleNs.toNat * 2 ≤ (portNow s.m q - (s.m.port q).idleSince).toNat)) = false := by
    rw [Bool.eq_false_iff]
    intro hd
    rw [Bool.and_eq_true, List.isEmpty_iff, decide_eq_true_eq] at hd
    exact h hd
  show execPortPark _ s = _
  rw [execPortPark, eventIf, hb]
  rfl

theorem exec_portPark (h : idles s.m q) : exec (.portPark q) s = .next { s with
    m := s.m.setPort q { (s.m.port q).setLive ((s.m.port q).live &&& ~~~parkedLight (s.m.port q).live) with
      parked := (s.m.port q).parked ||| parkedLight (s.m.port q).live } } := by
  have hd : ((s.m.port q).sendq.isEmpty &&
      decide ((s.m.port q).idleNs.toNat * 2 ≤ (portNow s.m q - (s.m.port q).idleSince).toNat)) = true := by
    rw [Bool.and_eq_true, List.isEmpty_iff, decide_eq_true_eq]
    exact h
  show execPortPark _ s = _
  rw [execPortPark, eventIf, hd]
  rfl

theorem portOnly_setPort (m : Module) (q : Fin 72) (p : Port) : PortOnly m (m.setPort q p) q :=
  portOnly_modPort m q fun _ => p

theorem exec_portPark_first (hi : idles s.m q) (h : (s.m.port q).live &&& moduleMask l ≠ 0)
    (hf : ∀ j, j < l → (s.m.port q).live &&& moduleMask j = 0) :
    ∃ w, exec (.portPark q) s = .next { s with m := w } ∧ PortOnly s.m w q ∧
      w.port q = { (s.m.port q).setLive ((s.m.port q).live &&& moduleMask l) with
        parked := (s.m.port q).parked ||| ((s.m.port q).live &&& ~~~moduleMask l) } := by
  refine ⟨_, exec_portPark hi, portOnly_setPort .., ?_⟩
  rw [Module.port_setPort_same, parkedLight_first h hf, and_not_and_not]

theorem exec_portPark_dark (hi : idles s.m q) (h : (s.m.port q).live = 0) :
    ∃ w, exec (.portPark q) s = .next { s with m := w } ∧ PortOnly s.m w q ∧ w.port q = s.m.port q := by
  have hz : (0 : BitVec 16) &&& ~~~0 = 0 := by decide
  refine ⟨_, exec_portPark hi, portOnly_setPort .., ?_⟩
  rw [Module.port_setPort_same, h, parkedLight_zero, hz, Port.setLive, if_pos h,
    show (s.m.port q).parked ||| (0 : BitVec 16) = (s.m.port q).parked from BitVec.or_zero]

theorem exec_portWake_no (h : (s.m.port q).parked = 0 ∨ (s.m.port q).sendq.length ≤ (s.m.port q).threshold.toNat) :
    exec (.portWake q) s = .next s := by
  have hb : (decide ((s.m.port q).parked ≠ 0) &&
      decide ((s.m.port q).threshold.toNat < (s.m.port q).sendq.length)) = false := by
    rw [Bool.eq_false_iff]
    intro hd
    rw [Bool.and_eq_true, decide_eq_true_eq, decide_eq_true_eq] at hd
    exact h.elim hd.1 (Nat.not_le.2 hd.2)
  show execPortWake _ s = _
  rw [execPortWake, eventIf, hb]
  rfl

theorem exec_portWake (hp : (s.m.port q).parked ≠ 0) (ht : (s.m.port q).threshold.toNat < (s.m.port q).sendq.length) :
    ∃ w, exec (.portWake q) s = .next { s with m := w } ∧ PortOnly s.m w q ∧
      w.port q = { s.m.port q with waking := (s.m.port q).waking ||| (s.m.port q).parked, parked := 0 } := by
  have hd : (decide ((s.m.port q).parked ≠ 0) &&
      decide ((s.m.port q).threshold.toNat < (s.m.port q).sendq.length)) = true := by
    rw [Bool.and_eq_true, decide_eq_true_eq, decide_eq_true_eq]
    exact ⟨hp, ht⟩
  refine ⟨_, ?_, portOnly_setPort s.m q _, Module.port_setPort_same ..⟩
  show execPortWake _ s = _
  rw [execPortWake, eventIf, hd]
  rfl

theorem exec_wavelengthJoin_no (h : (s.m.port q).waking &&& BitVec.ofNat 16 (2 ^ k.val) = 0) :
    exec (.wavelengthJoin q k) s = .next s := by
  show execWavelengthJoin q k s = _
  rw [execWavelengthJoin, eventIf, decide_eq_false (not_not_intro h)]
  rfl

theorem exec_wavelengthJoin (h : (s.m.port q).waking &&& BitVec.ofNat 16 (2 ^ k.val) ≠ 0) :
    ∃ w, exec (.wavelengthJoin q k) s = .next { s with m := w } ∧ PortOnly s.m w q ∧
      w.port q = { (s.m.port q).setLive ((s.m.port q).live ||| BitVec.ofNat 16 (2 ^ k.val)) with
        waking := (s.m.port q).waking &&& ~~~BitVec.ofNat 16 (2 ^ k.val) } := by
  refine ⟨_, ?_, portOnly_setPort s.m q _, Module.port_setPort_same ..⟩
  show execWavelengthJoin q k s = _
  rw [execWavelengthJoin, eventIf, decide_eq_true h]
  rfl

end

end Sys2Proof.Machine
end

section
/-! SUPPORT. What a pump sends: the flits that leave a port and where replay buffers keep them
(09 R285, 15 R374 to R376). -/

namespace Sys2Proof.Machine

/-! ### A flit that leaves -/

theorem mem_insertSent {e y : Sent} {l : List Sent} : y ∈ insertSent e l ↔ y = e ∨ y ∈ l := by
  induction l with
  | nil => rw [insertSent, List.mem_singleton]; simp
  | cons o l ih =>
    rw [insertSent]
    split
    · rw [List.mem_cons, ih, List.mem_cons]; tauto
    · rw [List.mem_cons]

theorem length_insertSent (e : Sent) (l : List Sent) : (insertSent e l).length = l.length + 1 := by
  induction l with
  | nil => rfl
  | cons o l ih =>
    rw [insertSent]
    split
    · rw [List.length_cons, ih, List.length_cons]
    · rfl

/-- The replay buffer of a flit's pair for its target. -/
def replayOf (m : Module) (f : Flit) : List Sent := ((m.port f.pair).peer f.dst).replay

/-- What the replay buffer notes of a flit that leaves a port. -/
def sentBy (m : Module) (q : Fin 72) (hop : BitVec 10) (f : Flit) : Sent :=
  { flit := { f with key := (m.port f.pair).sendKey }, port := q, direct := decide (hop = f.dst)
    lanes := lanesOf (m.port q).live }

/-- The replay buffer of a flit's pair when it has left. -/
def replayAfter (m : Module) (q : Fin 72) (hop : BitVec 10) (f : Flit) : List Sent :=
  if inReplay m f then
    (replayOf m f).map fun o => if o.flit.seq = f.seq then { sentBy m q hop f with flit := o.flit, fails := o.fails } else o
  else insertSent (sentBy m q hop f) (replayOf m f)

theorem length_replayAfter (m : Module) (q : Fin 72) (hop : BitVec 10) (f : Flit) :
    (replayAfter m q hop f).length ≤ (replayOf m f).length + 1 := by
  rw [replayAfter]
  split
  · rw [List.length_map]; omega
  · rw [length_insertSent]

section
variable (m : Module) (q : Fin 72) (hop : BitVec 10) (f : Flit)

theorem Port.peer_congr {p p' : Port} (h : p'.peers = p.peers) (d : BitVec 10) : p'.peer d = p.peer d := by
  rw [Port.peer, h, Port.peer]

theorem finishLosses_peers (m : Module) (pair : Fin 72) (dst : BitVec 10) (g : BitVec 24 → Bool) (j : Fin 72) :
    ((finishLosses m pair dst g).port j).peers = (m.port j).peers := by rw [(finishLosses_frame m pair dst g).port j]

theorem depart_peers_link (h : sequenced f.body = false) (j : Fin 72) :
    ((depart m q hop f).port j).peers = (m.port j).peers := by
  rw [depart, h, if_neg Bool.false_ne_true, Module.port_modPort]
  split
  · next hj => rw [hj]
  · rfl

theorem depart_peers (h : sequenced f.body = true) (j : Fin 72) : ((depart m q hop f).port j).peers =
    if j = f.pair then ((m.port j).setPeer f.dst { (m.port j).peer f.dst with replay := replayAfter m q hop f }).peers
    else (m.port j).peers := by
  obtain ⟨k, hk⟩ : ∃ k, k = m.modPort q fun p => { p with change := none } := ⟨_, rfl⟩
  have hp : ∀ i, (k.port i).peers = (m.port i).peers := fun i => by
    rw [hk, Module.port_modPort]
    split
    · next hi => rw [hi]
    · rfl
  have hpe : (k.port f.pair).peer f.dst = (m.port f.pair).peer f.dst := Port.peer_congr (hp _) _
  have hi : inReplay k f = inReplay m f := by rw [inReplay, hpe, inReplay]
  rw [depart, if_pos h, finishLosses_peers, ← hk, Module.modPeer, Module.port_modPort]
  by_cases hj : j = f.pair
  · subst hj
    rw [if_pos rfl, if_pos rfl, Port.setPeer, Port.setPeer, hp, hi, hpe]
    rfl
  · rw [if_neg hj, if_neg hj, hp]

theorem depart_replay (p : Fin 72) (d : BitVec 10) : (((depart m q hop f).port p).peer d).replay =
    if sequenced f.body = true ∧ p = f.pair ∧ d = f.dst then replayAfter m q hop f else ((m.port p).peer d).replay := by
  cases h : sequenced f.body with
  | false =>
    rw [if_neg fun hx => Bool.false_ne_true hx.1, Port.peer, depart_peers_link m q hop f h]
    rfl
  | true =>
    have hs := depart_peers m q hop f h p
    by_cases hp : p = f.pair
    · rw [if_pos hp] at hs
      have : ((depart m q hop f).port p).peer d =
          ((m.port p).setPeer f.dst { (m.port p).peer f.dst with replay := replayAfter m q hop f }).peer d :=
        Port.peer_congr hs d
      rw [this, Port.peer_setPeer]
      by_cases hd : d = f.dst
      · rw [if_pos hd, if_pos ⟨rfl, hp, hd⟩]
      · rw [if_neg hd, if_neg fun hx => hd hx.2.2]
    · rw [if_neg hp] at hs
      rw [if_neg fun hx => hp hx.2.1, Port.peer, hs]
      rfl

theorem depart_change : ((depart m q hop f).port q).change = none := by
  have hc : ((m.modPort q fun p => { p with change := none }).port q).change = none := by
    rw [Module.port_modPort_same]
  cases h : sequenced f.body with
  | false => rw [depart, h]; exact hc
  | true =>
    rw [depart, if_pos h, (finishLosses_frame ..).port q, Module.modPeer, Module.port_modPort]
    split
    · next hq => rw [← hq]; exact hc
    · exact hc

theorem inReplay_iff : inReplay m f = true ↔ ∃ o ∈ replayOf m f, o.flit.seq = f.seq := by
  rw [inReplay, List.any_eq_true]
  exact exists_congr fun _ => and_congr_right fun _ => decide_eq_true_iff

/-- A flit that has left stands in the replay buffer, an old one as stored. -/
theorem depart_enters (h : sequenced f.body = true) : ∃ y ∈ replayOf (depart m q hop f) f,
    y.flit.seq = f.seq ∧ y.port = q ∧ y.direct = decide (hop = f.dst) ∧ y.lanes = lanesOf (m.port q).live ∧
      (inReplay m f = false → y.flit = { f with key := (m.port f.pair).sendKey }) ∧
      (inReplay m f = true → ∃ o ∈ replayOf m f, o.flit.seq = f.seq ∧ y.flit = o.flit) := by
  rw [replayOf, depart_replay, if_pos ⟨h, rfl, rfl⟩, replayAfter]
  cases hi : inReplay m f with
  | false => exact ⟨_, mem_insertSent.2 (.inl rfl), rfl, rfl, rfl, rfl, fun _ => rfl, fun hx => nomatch hx⟩
  | true =>
    obtain ⟨o, ho, hs⟩ := (inReplay_iff m f).1 hi
    refine ⟨{ sentBy m q hop f with flit := o.flit, fails := o.fails }, ?_, hs, rfl, rfl, rfl,
      fun hx => (nomatch hx), fun _ => ⟨o, ho, hs, rfl⟩⟩
    rw [if_pos rfl]
    refine List.mem_map.2 ⟨o, ho, ?_⟩
    rw [if_pos hs]

variable {m q hop f}

/-- A replay buffer keeps what it notes of other flits. -/
theorem depart_keeps {p : Fin 72} {d : BitVec 10} {y : Sent} (hy : y ∈ ((m.port p).peer d).replay)
    (hn : ¬(sequenced f.body = true ∧ f.pair = p ∧ f.dst = d ∧ f.seq = y.flit.seq)) :
    y ∈ (((depart m q hop f).port p).peer d).replay := by
  rw [depart_replay]
  split
  · next h =>
    obtain ⟨hs, rfl, rfl⟩ := h
    rw [replayAfter]
    split
    · refine List.mem_map.2 ⟨y, hy, if_neg fun hx => hn ⟨hs, rfl, rfl, hx.symm⟩⟩
    · exact mem_insertSent.2 (.inr hy)
  · exact hy

/-- Every flit of a replay buffer stays in it as it is. -/
theorem depart_keeps_flit {p : Fin 72} {d : BitVec 10} {o : Sent} (ho : o ∈ ((m.port p).peer d).replay) :
    ∃ y ∈ (((depart m q hop f).port p).peer d).replay, y.flit = o.flit := by
  rw [depart_replay]
  split
  · next h =>
    obtain ⟨-, rfl, rfl⟩ := h
    rw [replayAfter]
    split
    · refine ⟨_, List.mem_map.2 ⟨o, ho, rfl⟩, ?_⟩
      split <;> rfl
    · exact ⟨o, mem_insertSent.2 (.inr ho), rfl⟩
  · exact ⟨o, ho, rfl⟩

/-- A flit in a replay buffer stood there before, or is the one that has left. -/
theorem depart_flits {p : Fin 72} {d : BitVec 10} {y : Sent} (hy : y ∈ (((depart m q hop f).port p).peer d).replay) :
    (∃ o ∈ ((m.port p).peer d).replay, y.flit = o.flit) ∨ (sequenced f.body = true ∧ p = f.pair ∧ d = f.dst ∧
      inReplay m f = false ∧ y.flit = { f with key := (m.port f.pair).sendKey }) := by
  rw [depart_replay] at hy
  split at hy
  · next h =>
    obtain ⟨hs, rfl, rfl⟩ := h
    rw [replayAfter] at hy
    split at hy
    · obtain ⟨o, ho, rfl⟩ := List.mem_map.1 hy
      refine .inl ⟨o, ho, ?_⟩
      split <;> rfl
    · next hi =>
      rcases mem_insertSent.1 hy with rfl | ho
      · exact .inr ⟨hs, rfl, rfl, Bool.eq_false_iff.2 hi, rfl⟩
      · exact .inl ⟨y, ho, rfl⟩
  · exact .inl ⟨y, hy, rfl⟩

theorem depart_inReplay {g : Flit} (h : inReplay m g = true) : inReplay (depart m q hop f) g = true := by
  obtain ⟨o, ho, hs⟩ := (inReplay_iff m g).1 h
  obtain ⟨y, hy, he⟩ := depart_keeps_flit (q := q) (hop := hop) (f := f) ho
  exact (inReplay_iff _ g).2 ⟨y, hy, by rw [he, hs]⟩

end

/-! ### How full replay buffers get -/

theorem Tbl.get_above {α : Type} (d : α) {t : Tbl α} {k : Nat} (h : Tbl.above (k + 1) t) : Tbl.get d t k = d :=
  (Tbl.get_eq_or_mem d t k).resolve_right fun hm => Nat.not_succ_le_self k (h _ hm)

theorem Tbl.sum_del {α : Type} (d : α) (g : α → Nat) (hg : g d = 0) {t : Tbl α} (hs : Tbl.sorted t = true) (k : Nat) :
    ((Tbl.del t k).map fun e => g e.2).sum + g (Tbl.get d t k) = (t.map fun e => g e.2).sum := by
  induction t with
  | nil => simp [Tbl.del, hg]
  | cons x t ih =>
    obtain ⟨i, w⟩ := x
    obtain ⟨ha, ht⟩ := (Tbl.sorted_cons i w t).1 hs
    rw [Tbl.del, Tbl.get]
    by_cases h : k = i
    · have hk : Tbl.get d t k = d := Tbl.get_above d (h ▸ ha)
      have := ih ht
      rw [hk, hg] at this
      rw [if_pos h, if_pos h, List.map_cons, List.sum_cons, ← this]
      dsimp only
      omega
    · rw [if_neg h, if_neg h, List.map_cons, List.sum_cons, List.map_cons, List.sum_cons, ← ih ht]
      dsimp only
      omega

theorem Tbl.sum_ins {α : Type} (d : α) (g : α → Nat) (hg : g d = 0) {t : Tbl α} (hs : Tbl.sorted t = true) (k : Nat) (v : α) :
    ((Tbl.ins t k v).map fun e => g e.2).sum + g (Tbl.get d t k) = (t.map fun e => g e.2).sum + g v := by
  induction t with
  | nil => simp [Tbl.ins, hg]
  | cons x t ih =>
    obtain ⟨i, w⟩ := x
    obtain ⟨ha, ht⟩ := (Tbl.sorted_cons i w t).1 hs
    rw [Tbl.ins, Tbl.get]
    by_cases h : k = i
    · rw [if_pos h, if_pos h, List.map_cons, List.sum_cons, List.map_cons, List.sum_cons]
      dsimp only
      omega
    · rw [if_neg h, if_neg h]
      split
      · have hk : Tbl.get d t k = d := Tbl.get_above d fun e he => by have := ha e he; omega
        rw [hk, hg, List.map_cons, List.sum_cons]
        dsimp only
        omega
      · have := ih ht
        rw [List.map_cons, List.sum_cons, List.map_cons, List.sum_cons]
        dsimp only
        omega

theorem Tbl.sum_set {α : Type} [DecidableEq α] (d : α) (g : α → Nat) (hg : g d = 0) {t : Tbl α} (hs : Tbl.sorted t = true)
    (k : Nat) (v : α) :
    ((Tbl.set d t k v).map fun e => g e.2).sum + g (Tbl.get d t k) = (t.map fun e => g e.2).sum + g v := by
  rw [Tbl.set]
  split
  · next h => rw [Tbl.sum_del d g hg hs, h, hg, Nat.add_zero]
  · exact Tbl.sum_ins d g hg hs k v

theorem Tbl.sorted_set {α : Type} [DecidableEq α] (d : α) {t : Tbl α} (k : Nat) (v : α) (h : Tbl.sorted t = true) :
    Tbl.sorted (Tbl.set d t k v) = true := by
  rw [Tbl.set]
  split
  · exact Tbl.sorted_del k h
  · exact Tbl.sorted_ins k v h

theorem Port.unacked_setPeer {p : Port} (hs : Tbl.sorted p.peers = true) (d : BitVec 10) (x : Peer) :
    (p.setPeer d x).unacked + (p.peer d).replay.length = p.unacked + x.replay.length :=
  Tbl.sum_set ({} : Peer) (fun y : Peer => y.replay.length) rfl hs d.toNat x

/-! ### All flits of a queue leave -/

/-- Ports in canonical form with room for some flits more in their replay buffers. -/
def Room (m : Module) (n : Nat) : Prop := ∀ j, Tbl.sorted (m.port j).peers = true ∧ (m.port j).unacked + n ≤ 4096

theorem Port.unacked_congr {p p' : Port} (h : p'.peers = p.peers) : p'.unacked = p.unacked := by rw [Port.unacked, h, Port.unacked]

theorem depart_room {m : Module} {n : Nat} (h : Room m (n + 1)) (q : Fin 72) (hop : BitVec 10) (f : Flit) :
    Room (depart m q hop f) n := by
  intro j
  obtain ⟨hs, hr⟩ := h j
  by_cases hc : sequenced f.body = true ∧ j = f.pair
  · obtain ⟨hb, rfl⟩ := hc
    have he := depart_peers m q hop f hb f.pair
    rw [if_pos rfl] at he
    refine ⟨by rw [he]; exact Tbl.sorted_set _ _ _ hs, ?_⟩
    have hk := Port.unacked_congr he
    have hu := Port.unacked_setPeer hs f.dst { (m.port f.pair).peer f.dst with replay := replayAfter m q hop f }
    have hl := length_replayAfter m q hop f
    rw [replayOf] at hl
    dsimp only at hu hk
    omega
  · have he : ((depart m q hop f).port j).peers = (m.port j).peers := by
      cases hb : sequenced f.body with
      | false => exact depart_peers_link m q hop f hb j
      | true => rw [depart_peers m q hop f hb, if_neg fun hj => hc ⟨hb, hj⟩]
    exact ⟨by rw [he]; exact hs, by rw [Port.unacked_congr he]; omega⟩

/-- A port meets a device that it can send to. -/
def Meets (m : Module) (q : Fin 72) (d : BitVec 10) : Prop :=
  (m.port q).met = some d ∧ (m.port q).sends = true ∧ ((m.port q).peer d).down = false

theorem depart_flits_frame (m : Module) (q : Fin 72) (hop : BitVec 10) (f : Flit) :
    PortsMove SameButFlits m (depart m q hop f) := (depart_frame ..).mono fun _ _ h => h.1

theorem Meets.depart {m : Module} {q : Fin 72} {d : BitVec 10} (h : Meets m q d) (hop : BitVec 10) (f : Flit) :
    Meets (depart m q hop f) q d := by
  have hf := depart_flits_frame m q hop f
  exact ⟨(hf.met q).trans h.1, (hf.sends q).trans h.2.1, (hf.down q d).trans h.2.2⟩

theorem leaves_of_meets {m : Module} {q : Fin 72} {d : BitVec 10} {n : Nat} (h : Meets m q d) (hr : Room m (n + 1)) (f : Flit) :
    leaves m q d f = true := by
  obtain ⟨hm, hs, hd⟩ := h
  have hu := (hr f.pair).2
  rw [leaves]
  rw [hs, hm, hd, decide_eq_true rfl, Bool.and_false, Bool.not_false, decide_eq_true (by omega), Bool.or_true]
  rfl

/-- Flits that leave a port in order. -/
def departs (q : Fin 72) (m : Module) (l : List (BitVec 10 × Flit)) : Module := l.foldl (fun m e => depart m q e.1 e.2) m

theorem pumpList_all {q : Fin 72} {d : BitVec 10} {l : List (BitVec 10 × Flit)} {m : Module} (h : Meets m q d)
    (hr : Room m l.length) (hl : ∀ e ∈ l, e.1 = d) : pumpList q l m = (departs q m l, []) := by
  induction l generalizing m with
  | nil => rfl
  | cons e l ih =>
    obtain ⟨hop, f⟩ := e
    obtain rfl : hop = d := hl _ (List.mem_cons_self ..)
    rw [pumpList, if_pos (leaves_of_meets h hr f), ih (h.depart hop f) (depart_room hr q hop f) fun e he =>
      hl e (List.mem_cons_of_mem _ he)]
    rfl

theorem pumpList_none {q : Fin 72} {l : List (BitVec 10 × Flit)} {m : Module} (h : ∀ e ∈ l, leaves m q e.1 e.2 = false) :
    pumpList q l m = (m, l) := by
  induction l with
  | nil => rfl
  | cons e l ih =>
    obtain ⟨hop, f⟩ := e
    rw [pumpList, if_neg (Bool.eq_false_iff.1 (h (hop, f) (List.mem_cons_self ..))),
      ih fun e he => h e (List.mem_cons_of_mem _ he)]

theorem Port.withQueue_self (p : Port) (now : W64) : p.withQueue now p.sendq = p := by
  rw [Port.withQueue, if_neg fun h => h.1 h.2]

/-- Where nothing leaves, a pump changes no port. -/
theorem pump_none {m : Module} {q : Fin 72} (h : ∀ e ∈ (m.port q).sendq, leaves m q e.1 e.2 = false) (j : Fin 72) :
    (pump m q).port j = m.port j := by
  rw [pump_eq, pumpList_none h, Module.port_modPort]
  split
  · next hj => rw [Port.withQueue_self, hj]
  · rfl

theorem departs_frame (q : Fin 72) (m : Module) (l : List (BitVec 10 × Flit)) : PortsMove SameButReplay m (departs q m l) :=
  .foldl sameButReplay_rel (fun _ _ => depart_frame ..) l m

theorem departs_change {q : Fin 72} {m : Module} {l : List (BitVec 10 × Flit)} (h : l ≠ []) :
    ((departs q m l).port q).change = none := by
  obtain ⟨l', e, rfl⟩ := List.eq_nil_or_concat l |>.resolve_left h
  rw [departs, List.concat_eq_append, List.foldl_append]
  exact depart_change ..

theorem departs_keeps {q p : Fin 72} {d : BitVec 10} {y : Sent} {l : List (BitVec 10 × Flit)} {m : Module}
    (hy : y ∈ ((m.port p).peer d).replay)
    (hn : ∀ e ∈ l, ¬(sequenced e.2.body = true ∧ e.2.pair = p ∧ e.2.dst = d ∧ e.2.seq = y.flit.seq)) :
    y ∈ (((departs q m l).port p).peer d).replay := by
  induction l generalizing m with
  | nil => exact hy
  | cons e l ih =>
    exact ih (depart_keeps hy (hn e (List.mem_cons_self ..))) fun e' he => hn e' (List.mem_cons_of_mem _ he)

/-- What the replay buffers hold of a flit that a port has sent to its next hop, seen from before it left. -/
def HeldAs (m : Module) (q : Fin 72) (d : BitVec 10) (f : Flit) (y : Sent) : Prop :=
  y.flit.seq = f.seq ∧ y.port = q ∧ y.direct = decide (d = f.dst) ∧ y.lanes = lanesOf (m.port q).live ∧
    (inReplay m f = false → y.flit = { f with key := (m.port f.pair).sendKey }) ∧
    (inReplay m f = true → ∃ o ∈ replayOf m f, o.flit.seq = f.seq ∧ y.flit = o.flit)

/-- What stands of a flit after another, or itself, has left before it. -/
theorem HeldAs.before {m : Module} {q : Fin 72} {d hop : BitVec 10} {f g : Flit} {y : Sent}
    (h : HeldAs (depart m q hop g) q d f y) (hsame : g.pair = f.pair → g.dst = f.dst → g.seq = f.seq → g = f) :
    HeldAs m q d f y := by
  have hf := depart_flits_frame m q hop g
  obtain ⟨hseq, hport, hdir, hlane, hnew, hold⟩ := h
  refine ⟨hseq, hport, hdir, by rw [hlane, hf.live], fun hi => ?_, fun hi => ?_⟩
  · cases hi' : inReplay (Machine.depart m q hop g) f with
    | false => rw [hnew hi', hf.sendKey]
    | true =>
      obtain ⟨o, ho, hos, hoy⟩ := hold hi'
      rcases depart_flits ho with ⟨o', ho', he⟩ | ⟨-, hp, hd, -, he⟩
      · have : inReplay m f = true := (inReplay_iff m f).2 ⟨o', ho', by rw [← he, hos]⟩
        exact absurd (hi.symm.trans this) Bool.false_ne_true
      · have hgf : g = f := hsame hp.symm hd.symm (by rw [he] at hos; exact hos)
        rw [hoy, he, hgf]
  · obtain ⟨o, ho, hos, hoy⟩ := hold (depart_inReplay hi)
    rcases depart_flits ho with ⟨o', ho', he⟩ | ⟨-, hp, hd, hg, he⟩
    · exact ⟨o', ho', by rw [← he, hos], by rw [hoy, he]⟩
    · have hgf : g = f := hsame hp.symm hd.symm (by rw [he] at hos; exact hos)
      exact absurd (hg.symm.trans (hgf ▸ hi)) Bool.false_ne_true

/-- Every flit that has left stands in its replay buffer. -/
theorem departs_held {q : Fin 72} {d : BitVec 10} {l : List (BitVec 10 × Flit)} {m : Module} (hl : ∀ e ∈ l, e.1 = d)
    (hsame : ∀ e ∈ l, ∀ e' ∈ l, e.2.pair = e'.2.pair → e.2.dst = e'.2.dst → e.2.seq = e'.2.seq → e.2 = e'.2) :
    ∀ e ∈ l, sequenced e.2.body = true → ∃ y ∈ replayOf (departs q m l) e.2, HeldAs m q d e.2 y := by
  induction l generalizing m with
  | nil => exact fun e he => absurd he List.not_mem_nil
  | cons x l ih =>
    have hlater : ∀ e ∈ l, sequenced e.2.body = true → ∃ y ∈ replayOf (departs q m (x :: l)) e.2, HeldAs m q d e.2 y := by
      intro e he hb
      obtain ⟨y, hy, hh⟩ := ih (m := depart m q x.1 x.2) (fun e he => hl e (List.mem_cons_of_mem _ he))
        (fun e he e' he' => hsame e (List.mem_cons_of_mem _ he) e' (List.mem_cons_of_mem _ he')) e he hb
      exact ⟨y, hy, hh.before (hsame x (List.mem_cons_self ..) e (List.mem_cons_of_mem _ he))⟩
    intro e he hb
    rcases List.mem_cons.1 he with rfl | he
    · by_cases hr : ∃ e' ∈ l, sequenced e'.2.body = true ∧ e'.2.pair = e.2.pair ∧ e'.2.dst = e.2.dst ∧ e'.2.seq = e.2.seq
      · obtain ⟨e', he', hb', hp, hd, hs⟩ := hr
        have := hlater e' he' hb'
        rwa [hsame e' (List.mem_cons_of_mem _ he') e (List.mem_cons_self ..) hp hd hs] at this
      · obtain ⟨y, hy, hh⟩ := depart_enters m q e.1 e.2 hb
        rw [hl e (List.mem_cons_self ..)] at hh
        refine ⟨y, ?_, hh⟩
        refine departs_keeps (l := l) hy fun e' he' hx => hr ⟨e', he', ?_⟩
        rw [hh.1] at hx
        exact hx
    · exact hlater e he hb

section
variable {m : Module} {q : Fin 72} {d : BitVec 10} (h : Meets m q d) (hr : Room m (m.port q).sendq.length)
  (hl : ∀ e ∈ (m.port q).sendq, e.1 = d)
include h hr hl

theorem pump_all : pump m q = (departs q m (m.port q).sendq).modPort q fun p => p.withQueue (portNow m q) [] := by
  rw [pump_eq, pumpList_all h hr hl]
  dsimp only
  rw [show portNow (departs q m (m.port q).sendq) q = portNow m q from (departs_frame ..).cyc _]

theorem pump_all_port : (pump m q).port q =
    ((departs q m (m.port q).sendq).port q).withQueue (portNow m q) [] := by
  rw [pump_all h hr hl, Module.port_modPort_same]

theorem pump_all_sendq : ((pump m q).port q).sendq = [] := by rw [pump_all_port h hr hl]; rfl

theorem pump_all_idleSince : ((pump m q).port q).idleSince =
    if (m.port q).sendq = [] then (m.port q).idleSince else portNow m q := by
  obtain ⟨-, hq, hi⟩ := (departs_frame q m (m.port q).sendq).port q
  rw [pump_all_port h hr hl, Port.withQueue, hq, hi]
  by_cases hn : (m.port q).sendq = []
  · rw [if_pos hn, if_neg fun hx => hx.1 hn]
  · rw [if_neg hn, if_pos ⟨hn, rfl⟩]

theorem pump_all_change (hn : (m.port q).sendq ≠ []) : ((pump m q).port q).change = none := by
  rw [pump_all_port h hr hl]
  exact departs_change hn

theorem pump_all_replay (f : Flit) : replayOf (pump m q) f = replayOf (departs q m (m.port q).sendq) f := by
  rw [pump_all h hr hl, replayOf, Module.port_modPort]
  split
  · next hq => rw [replayOf, hq]; rfl
  · rfl

end

end Sys2Proof.Machine
end

section
/-! SUPPORT. Acknowledgements: the flits that they free and the old keys that go with them (15 R374, R375). -/

namespace Sys2Proof.Machine

/-! ### Queues that hold nothing -/

/-- Only the table of ports may differ, and every port reads as before. -/
structure SamePorts (m w : Module) : Prop where
  module : w = { m with ports := w.ports }
  port : ∀ j, w.port j = m.port j

/-- No flit waits at any port. -/
def QueuesEmpty (m : Module) : Prop := ∀ j, (m.port j).sendq = []

namespace SamePorts
variable {m w u : Module}

theorem refl (m : Module) : SamePorts m m := ⟨rfl, fun _ => rfl⟩

theorem trans (h : SamePorts m w) (k : SamePorts w u) : SamePorts m u :=
  ⟨by rw [k.module, h.module], fun j => (k.port j).trans (h.port j)⟩

theorem modPort (q : Fin 72) (f : Port → Port) (hf : f (m.port q) = m.port q) : SamePorts m (m.modPort q f) := by
  refine ⟨rfl, fun j => ?_⟩
  rw [Module.port_modPort]
  split
  · next h => rw [hf, h]
  · rfl

theorem queuesEmpty (h : SamePorts m w) (hq : QueuesEmpty m) : QueuesEmpty w := fun j => by rw [h.port, hq]

/-- Steps that change nothing while every queue is empty. -/
theorem foldl {α : Type} {f : Module → α → Module} (hf : ∀ m x, QueuesEmpty m → SamePorts m (f m x)) (l : List α)
    (hq : QueuesEmpty m) : SamePorts m (l.foldl f m) := by
  induction l generalizing m with
  | nil => exact .refl m
  | cons x l ih => exact (hf m x hq).trans (ih ((hf m x hq).queuesEmpty hq))

end SamePorts

theorem onlyPorts_trans {m w u : Module} (h : w = { m with ports := w.ports }) (k : u = { w with ports := u.ports }) :
    u = { m with ports := u.ports } := by rw [k, h]

theorem onlyPorts_modPort (m : Module) (q : Fin 72) (f : Port → Port) :
    m.modPort q f = { m with ports := (m.modPort q f).ports } := rfl

theorem Port.withQueue_nil {p : Port} (h : p.sendq = []) (now : W64) : p.withQueue now [] = p := by
  have := p.withQueue_self now
  rwa [h] at this

theorem unqueue_idle {m : Module} (hq : QueuesEmpty m) (pair : Fin 72) (dst : BitVec 10) (f : BitVec 24 → Bool) :
    SamePorts m (unqueue m pair dst f) := by
  refine .foldl (fun m q hq => .modPort q _ ?_) _ hq
  rw [hq q]
  exact Port.withQueue_nil (hq q) _

theorem pump_idle {m : Module} (hq : QueuesEmpty m) (q : Fin 72) : SamePorts m (pump m q) := by
  rw [pump_eq, hq q]
  exact .modPort q _ (Port.withQueue_nil (hq q) _)

theorem pumps_idle {m : Module} (hq : QueuesEmpty m) (l : List (Fin 72)) : SamePorts m (l.foldl pump m) :=
  .foldl (fun _ q hq => pump_idle hq q) l hq

theorem modPeer_empty {m : Module} (hq : QueuesEmpty m) (q : Fin 72) (d : BitVec 10) (f : Peer → Peer) :
    QueuesEmpty (m.modPeer q d f) := by
  intro j
  rw [Module.modPeer, Module.port_modPort]
  split
  · exact hq q
  · exact hq j

/-! ### Keys that a port has left -/

/-- The keys of a port may change. -/
def SameButKeys (p p' : Port) : Prop := p' = { p with keys := p'.keys, oldKeys := p'.oldKeys }

theorem sameButKeys_rel : PortRel SameButKeys where
  refl _ := rfl
  trans p q r h k := by unfold SameButKeys at *; rw [k, h]

theorem rollKeys_frame (m : Module) (q : Fin 72) : PortsMove SameButKeys m (rollKeys m q) := by
  refine .foldl sameButKeys_rel (fun m k => ?_) _ m
  split
  · exact .refl sameButKeys_rel m
  · refine PortsMove.trans sameButKeys_rel (.modPort sameButKeys_rel ?_) (sendEvent_frame sameButKeys_rel ..)
    exact rfl

theorem rollKeys_nil {m : Module} {q : Fin 72} (h : (m.port q).oldKeys = []) : rollKeys m q = m := by
  rw [rollKeys, h]
  rfl

/-- An old key that another end still has stays. -/
theorem rollKeys_kept {m : Module} {q : Fin 72} {k : Fin 4} (h : (m.port q).oldKeys = [(k, false)]) : rollKeys m q = m := by
  rw [rollKeys, h]
  rfl

theorem port_sendEvent (m : Module) (die : Option (Fin 16)) (subject code d2 d3 : Nat) (j : Fin 72) :
    (sendEvent m die subject code d2 d3).port j = m.port j := by
  rw [Module.port, sendEvent_ports, Module.port]

/-- An old key that the other ends have dropped goes with the last flit under it. -/
theorem rollKeys_dropped {m : Module} {q : Fin 72} {k : Fin 4} (h : (m.port q).oldKeys = [(k, true)])
    (hu : keyUsed m q k = false) : ((rollKeys m q).port q).oldKeys = [] ∧
      ((rollKeys m q).port q).keys = Tbl.set none (m.port q).keys k.val none := by
  rw [rollKeys, h, List.foldl_cons, List.foldl_nil, hu, if_neg (by simp), port_sendEvent, Module.port_modPort_same]
  refine ⟨?_, rfl⟩
  dsimp only
  rw [h, List.erase_cons_head]

theorem keyUsed_false {m : Module} {q : Fin 72} {k : Fin 4} (hs : Tbl.sorted (m.port q).peers = true)
    (hb : ∀ e ∈ (m.port q).peers, e.1 < 1024) (h : ∀ d, ∀ f ∈ ((m.port q).peer d).replay, f.flit.key ≠ k) :
    keyUsed m q k = false := by
  rw [keyUsed, List.any_eq_false]
  intro e he
  rw [Bool.not_eq_true, List.any_eq_false]
  intro f hf
  rw [decide_eq_true_eq]
  refine h (BitVec.ofNat 10 e.1) f ?_
  rwa [Port.peer, BitVec.toNat_ofNat, Nat.mod_eq_of_lt (hb e he), Tbl.get_of_mem _ hs he]

theorem Tbl.mem_set {α : Type} [DecidableEq α] {d : α} {t : Tbl α} {k : Nat} {v : α} {e : Nat × α} (h : e ∈ Tbl.set d t k v) :
    e = (k, v) ∨ e ∈ t := by
  rw [Tbl.set] at h
  split at h
  · exact .inr (Tbl.mem_del h)
  · exact Tbl.mem_ins h

/-! ### An acknowledgement -/

section
variable (m : Module) (q : Fin 72) (d : BitVec 10) (n : BitVec 24)

/-- The replay buffer of a pair without the flits up to one. -/
def unfreed (m : Module) (q : Fin 72) (d : BitVec 10) (n : BitVec 24) : List Sent :=
  ((m.port q).peer d).replay.filter fun e => !fromSeq e.flit.seq n

/-- A module whose pair has been acknowledged up to a sequence, before what waited for it goes on. -/
def freed (m : Module) (q : Fin 72) (d : BitVec 10) (n : BitVec 24) : Module :=
  allPorts.foldl pump ((unqueue m q d fun seq => fromSeq seq n).modPeer q d fun x => { x with
    replay := x.replay.filter fun e => !fromSeq e.flit.seq n })

/-- That module with the losses of light reported. -/
def freedLit (m : Module) (q : Fin 72) (d : BitVec 10) (n : BitVec 24) : Module :=
  clearLosses (finishLosses (freed m q d n) q d fun seq => fromSeq seq n)

theorem ackFlits_eq : ackFlits m q d n = rollKeys (freedLit m q d n) q := rfl

theorem freed_frame : PortsMove SameButFlits m (freed m q d n) :=
  (unqueue_frame ..).trans sameButFlits_rel (((modPeer_replay_frame ..).mono fun _ _ h => h.1).trans sameButFlits_rel
    (.foldl sameButFlits_rel (fun m q => pump_frame m q) _ _))

theorem freedLit_frame : PortsMove SameButLosses (freed m q d n) (freedLit m q d n) :=
  (finishLosses_frame ..).trans sameButLosses_rel (clearLosses_frame _)

/-- Any change of ports. -/
def anyPort (_ _ : Port) : Prop := True

theorem anyPort_rel : PortRel anyPort := ⟨fun _ => trivial, fun _ _ _ _ _ => trivial⟩

theorem ackFlits_sameMemory : SameMemory m { ackFlits m q d n with host := m.host } := by
  have h1 := (freed_frame m q d n).mono (S := anyPort) fun _ _ _ => trivial
  have h2 := (freedLit_frame m q d n).mono (S := anyPort) fun _ _ _ => trivial
  have h3 := (rollKeys_frame (freedLit m q d n) q).mono (S := anyPort) fun _ _ _ => trivial
  exact ((h1.trans anyPort_rel h2).trans anyPort_rel h3).sameMemory

variable {m q d n}
variable (hq : QueuesEmpty m)
include hq

/-- While no flit waits, an acknowledgement changes its own replay buffer alone. -/
theorem freed_port (j : Fin 72) : (freed m q d n).port j =
    if j = q then (m.port q).setPeer d { (m.port q).peer d with replay := unfreed m q d n } else m.port j := by
  obtain ⟨k, hk⟩ : ∃ k, k = unqueue m q d fun seq => fromSeq seq n := ⟨_, rfl⟩
  have hu : SamePorts m k := hk ▸ unqueue_idle hq q d _
  have hp := modPeer_empty (hu.queuesEmpty hq) q d fun x => { x with replay := x.replay.filter fun e => !fromSeq e.flit.seq n }
  rw [freed, ← hk, (pumps_idle hp _).port, Module.modPeer, Module.port_modPort, hu.port, hu.port]
  rfl

theorem freed_module : freed m q d n = { m with ports := (freed m q d n).ports } := by
  obtain ⟨k, hk⟩ : ∃ k, k = unqueue m q d fun seq => fromSeq seq n := ⟨_, rfl⟩
  have hu : SamePorts m k := hk ▸ unqueue_idle hq q d _
  have hp := modPeer_empty (hu.queuesEmpty hq) q d fun x => { x with replay := x.replay.filter fun e => !fromSeq e.flit.seq n }
  rw [freed, ← hk]
  exact onlyPorts_trans (onlyPorts_trans hu.module (onlyPorts_modPort k q _)) (pumps_idle hp _).module

theorem freedLit_port : (freedLit m q d n).port q = { (m.port q).setPeer d { (m.port q).peer d with replay := unfreed m q d n } with
    losses := ((freedLit m q d n).port q).losses } := by
  have h := (freedLit_frame m q d n).port q
  rw [freed_port hq, if_pos rfl] at h
  exact h

theorem ackFlits_replay : (((ackFlits m q d n).port q).peer d).replay = unfreed m q d n := by
  have h1 : ((ackFlits m q d n).port q).peers = ((freedLit m q d n).port q).peers := by
    rw [ackFlits_eq, (rollKeys_frame (freedLit m q d n) q).port q]
  have h2 : ((freedLit m q d n).port q).peers =
      ((m.port q).setPeer d { (m.port q).peer d with replay := unfreed m q d n }).peers := by rw [freedLit_port hq]
  rw [Port.peer_congr (h1.trans h2), Port.peer_setPeer, if_pos rfl]

theorem ackFlits_quiet (ho : (m.port q).oldKeys = []) (hl : ∀ j, (m.port j).losses = []) :
    PortOnly m (ackFlits m q d n) q ∧
      (ackFlits m q d n).port q = { m.port q with peers := ((ackFlits m q d n).port q).peers } := by
  have hlf : ∀ j, ((freed m q d n).port j).losses = [] := fun j => by
    rw [freed_port hq]
    split
    · exact hl q
    · exact hl j
  have hlit : freedLit m q d n = freed m q d n := by rw [freedLit, finishLosses_none hlf, clearLosses_none hlf]
  have hack : ackFlits m q d n = freed m q d n := by
    rw [ackFlits_eq, hlit, rollKeys_nil]
    rw [freed_port hq, if_pos rfl]
    exact ho
  rw [hack]
  refine ⟨⟨freed_module hq, fun j hj => by rw [freed_port hq, if_neg hj]⟩, ?_⟩
  rw [freed_port hq, if_pos rfl]
  rfl

theorem freedLit_keys : ((freedLit m q d n).port q).oldKeys = (m.port q).oldKeys ∧
    ((freedLit m q d n).port q).keys = (m.port q).keys := by
  rw [freedLit_port hq]
  exact ⟨rfl, rfl⟩

theorem ackFlits_key_kept {k : Fin 4} (ho : (m.port q).oldKeys = [(k, false)]) :
    ((ackFlits m q d n).port q).oldKeys = [(k, false)] ∧ ((ackFlits m q d n).port q).keys = (m.port q).keys := by
  obtain ⟨h1, h2⟩ := freedLit_keys (q := q) (d := d) (n := n) hq
  rw [ackFlits_eq, rollKeys_kept (h1.trans ho)]
  exact ⟨h1.trans ho, h2⟩

theorem ackFlits_key_dropped {k : Fin 4} (ho : (m.port q).oldKeys = [(k, true)]) (hleft : unfreed m q d n = [])
    (hs : Tbl.sorted (m.port q).peers = true) (hother : ∀ e, e ≠ d → ∀ f ∈ ((m.port q).peer e).replay, f.flit.key ≠ k)
    (hb : ∀ e ∈ Tbl.keys (m.port q).peers, e < 1024) :
    Tbl.get none ((ackFlits m q d n).port q).keys k.val = none ∧ ((ackFlits m q d n).port q).oldKeys = [] := by
  obtain ⟨h1, -⟩ := freedLit_keys (q := q) (d := d) (n := n) hq
  have hp : ((freedLit m q d n).port q).peers =
      ((m.port q).setPeer d { (m.port q).peer d with replay := unfreed m q d n }).peers := by rw [freedLit_port hq]
  have hu : keyUsed (freedLit m q d n) q k = false := by
    refine keyUsed_false ?_ ?_ ?_
    · rw [hp]; exact Tbl.sorted_set _ _ _ hs
    · intro e he
      rw [hp] at he
      rcases Tbl.mem_set he with rfl | he
      · exact d.isLt
      · exact hb e.1 (List.mem_map_of_mem he)
    · intro e f hf
      rw [Port.peer_congr hp, Port.peer_setPeer] at hf
      split at hf
      · rw [hleft] at hf
        cases hf
      · next he => exact hother e he f hf
  obtain ⟨k1, k2⟩ := rollKeys_dropped (h1.trans ho) hu
  rw [ackFlits_eq]
  exact ⟨by rw [k2, Tbl.get_set_same], k1⟩

end

end Sys2Proof.Machine
end

section
/-! SUPPORT. Replays: the flits that a NAK sends again, as stored and in order (15 R374, R375, R377). -/

namespace Sys2Proof.Machine

/-! ### What a failure leaves -/

/-- An unacknowledged flit without its failures. -/
def unfailed (e : Sent) : Sent := { e with fails := [] }

/-- What counts failures may change: marks, and the failures of the flits in the replay buffers. -/
def SameButFailures (p p' : Port) : Prop :=
  p' = { p with peers := p'.peers } ∧ ∀ d, (p'.peer d).replay.map unfailed = (p.peer d).replay.map unfailed

theorem sameButFailures_rel : PortRel SameButFailures where
  refl _ := ⟨rfl, fun _ => rfl⟩
  trans p q r h k := by
    obtain ⟨h1, h2⟩ := h
    obtain ⟨k1, k2⟩ := k
    exact ⟨by rw [k1, h1], fun d => (k2 d).trans (h2 d)⟩

theorem modPeer_failures_frame (m : Module) (q : Fin 72) (d : BitVec 10) (f : Peer → Peer)
    (hf : ∀ x, (f x).replay.map unfailed = x.replay.map unfailed) : PortsMove SameButFailures m (m.modPeer q d f) := by
  refine .modPort sameButFailures_rel ⟨rfl, fun e => ?_⟩
  rw [Port.peer_setPeer]
  split
  · next he => rw [hf, he]
  · rfl

theorem unfailed_failedOnce (n : BitVec 24) (p : Fin 72) (o : Sent) : unfailed (failedOnce n p o) = unfailed o := by
  rw [failedOnce]
  split <;> rfl

theorem modDie_frame {R : Port → Port → Prop} (hR : PortRel R) (m : Module) (d : Fin 16) {f : Die → Die}
    (hf : ∀ x, (f x).cyc = x.cyc) : PortsMove R m (m.modDie d f) :=
  ⟨rfl, cyc_modDie hf, fun _ => hR.refl _⟩

theorem countFailure_frame (m : Module) (q : Fin 72) (d : BitVec 10) (n : BitVec 24) :
    PortsMove SameButFailures m (countFailure m q d n) := by
  cases h : ((m.port q).peer d).replay.find? (fun e => decide (e.flit.seq = n)) with
  | none =>
    rw [countFailure_none fun e he => by simpa using List.find?_eq_none.1 h e he]
    exact .refl sameButFailures_rel m
  | some e =>
    rw [countFailure_some h]
    have hrep := modPeer_failures_frame m q d (fun x => { x with replay := x.replay.map (failedOnce n e.port) }) fun x => by
      rw [List.map_map]
      exact List.map_congr_left fun o _ => unfailed_failedOnce n e.port o
    dsimp only
    split
    · exact .refl sameButFailures_rel m
    · split
      · exact hrep
      · refine hrep.trans sameButFailures_rel ((modPeer_failures_frame _ e.port d _ ?_).trans sameButFailures_rel
          (modDie_frame sameButFailures_rel _ _ ?_))
        · exact fun _ => rfl
        · exact fun _ => rfl

/-! ### Flits that leave again -/

/-- The flits of a replay buffer. -/
def flitsOf (m : Module) (q : Fin 72) (d : BitVec 10) : List Flit := ((m.port q).peer d).replay.map Sent.flit

/-- A flit of a pair that its replay buffer holds leaves that buffer's flits as they are. -/
theorem depart_flitsOf {m : Module} {p : Fin 72} {d : BitVec 10} {f : Flit}
    (hf : f.pair = p → f.dst = d → f.seq ∈ (flitsOf m p d).map Flit.seq) (q : Fin 72) (hop : BitVec 10) :
    flitsOf (depart m q hop f) p d = flitsOf m p d := by
  rw [flitsOf, depart_replay]
  split
  · next h =>
    obtain ⟨-, rfl, rfl⟩ := h
    have hi : inReplay m f = true := by
      obtain ⟨g, hg, hs⟩ := List.mem_map.1 (hf rfl rfl)
      obtain ⟨o, ho, rfl⟩ := List.mem_map.1 hg
      exact (inReplay_iff m f).2 ⟨o, ho, hs⟩
    rw [replayAfter, if_pos hi, List.map_map]
    refine List.map_congr_left fun o _ => ?_
    rw [Function.comp_apply]
    split <;> rfl
  · rfl

theorem pumpList_flitsOf {p : Fin 72} {d : BitVec 10} (q : Fin 72) {l : List (BitVec 10 × Flit)} {m : Module}
    (hl : ∀ e ∈ l, e.2.pair = p → e.2.dst = d → e.2.seq ∈ (flitsOf m p d).map Flit.seq) :
    flitsOf (pumpList q l m).1 p d = flitsOf m p d := by
  induction l generalizing m with
  | nil => rfl
  | cons e l ih =>
    obtain ⟨hop, f⟩ := e
    have hrest := fun e he => hl e (List.mem_cons_of_mem _ he)
    rw [pumpList]
    split
    · have hd := depart_flitsOf (hl (hop, f) (List.mem_cons_self ..)) q hop
      rw [ih (by rw [hd]; exact hrest), hd]
    · exact ih hrest

theorem flitsOf_congr {m w : Module} {p : Fin 72} (h : (w.port p).peers = (m.port p).peers) (d : BitVec 10) :
    flitsOf w p d = flitsOf m p d := by rw [flitsOf, Port.peer_congr h, flitsOf]

theorem modPort_peers {m : Module} {q : Fin 72} {f : Port → Port} (hf : (f (m.port q)).peers = (m.port q).peers) (j : Fin 72) :
    ((m.modPort q f).port j).peers = (m.port j).peers := by
  rw [Module.port_modPort]
  split
  · next hj => rw [hf, hj]
  · rfl

theorem pump_flitsOf {p : Fin 72} {d : BitVec 10} {q : Fin 72} {m : Module}
    (hl : ∀ e ∈ (m.port q).sendq, e.2.pair = p → e.2.dst = d → e.2.seq ∈ (flitsOf m p d).map Flit.seq) :
    flitsOf (pump m q) p d = flitsOf m p d := by
  rw [pump_eq, flitsOf_congr (modPort_peers rfl p), pumpList_flitsOf q hl]

/-- Where no port meets anyone, nothing leaves. -/
theorem leaves_unmet {m : Module} {q : Fin 72} (h : (m.port q).met = none) (hop : BitVec 10) (f : Flit) :
    leaves m q hop f = false := by
  rw [leaves, h, decide_eq_false (fun hx => nomatch hx), Bool.and_false, Bool.false_and, Bool.false_and]

/-! ### A replay while no flit waits -/

/-- The unacknowledged flits of a pair from a sequence onward. -/
def againFrom (m : Module) (q : Fin 72) (d : BitVec 10) (n : BitVec 24) : List Sent :=
  ((m.port q).peer d).replay.filter fun e => fromSeq n e.flit.seq

/-- The path that flits to a device are sent again over. -/
def pathOf (m : Module) (q : Fin 72) (d : BitVec 10) : Fin 72 × BitVec 10 := (pickPath m d).getD (q, d)

section
variable {m : Module} {q : Fin 72} {d : BitVec 10} {n : BitVec 24} (hq : QueuesEmpty m)

/-- The module in which the flits of a pair wait again, at the port of their path. -/
def requeued (m : Module) (q : Fin 72) (d : BitVec 10) (n : BitVec 24) : Module :=
  (unqueue m q d (fromSeq n)).modPort (pathOf m q d).1 fun p => { p with
    sendq := ((againFrom m q d n).map fun e => ((pathOf m q d).2, e.flit)) ++ p.sendq }

theorem resend_eq : resend m q d n = pump (requeued m q d n) (pathOf m q d).1 := by
  unfold resend requeued
  dsimp only
  rw [List.map_map]
  rfl

include hq

theorem requeued_port (j : Fin 72) : (requeued m q d n).port j = if j = (pathOf m q d).1 then
    { m.port j with sendq := (againFrom m q d n).map fun e => ((pathOf m q d).2, e.flit) } else m.port j := by
  have hu := (unqueue_idle hq q d (fromSeq n)).port
  rw [requeued, Module.port_modPort, hu, hu]
  split
  · next hj => rw [hj, hq, List.append_nil]
  · rfl

theorem resend_flitsOf : flitsOf (resend m q d n) q d = flitsOf m q d := by
  have hp : ∀ j, ((requeued m q d n).port j).peers = (m.port j).peers := fun j => by
    rw [requeued_port hq]
    split <;> rfl
  rw [resend_eq, pump_flitsOf, flitsOf_congr (hp q)]
  intro e he _ _
  rw [requeued_port hq, if_pos rfl] at he
  obtain ⟨o, ho, rfl⟩ := List.mem_map.1 he
  rw [flitsOf_congr (hp q)]
  exact List.mem_map_of_mem (List.mem_map_of_mem (List.mem_filter.1 ho).1)

/-- Where no port meets anyone, the flits wait again in order. -/
theorem resend_unmet (hm : ∀ j, (m.port j).met = none) (j : Fin 72) :
    (resend m q d n).port j = (requeued m q d n).port j := by
  rw [resend_eq]
  refine pump_none (fun e _ => leaves_unmet ?_ e.1 e.2) j
  rw [requeued_port hq, if_pos rfl]
  exact hm _

end

/-! ### Losses of light and their first replay -/

theorem port_foldl_modPort {f : Fin 72 → Port → Port} {l : List (Fin 72)} (hl : l.Nodup) (m : Module) (j : Fin 72) :
    (l.foldl (fun m q => m.modPort q (f q)) m).port j = if j ∈ l then f j (m.port j) else m.port j := by
  induction l generalizing m with
  | nil => rfl
  | cons q l ih =>
    obtain ⟨hn, hl⟩ := List.nodup_cons.1 hl
    rw [List.foldl_cons, ih hl, Module.port_modPort]
    by_cases hj : j = q
    · subst hj
      rw [if_neg hn, if_pos rfl, if_pos (List.mem_cons_self ..)]
    · rw [if_neg hj]
      exact if_congr (by rw [List.mem_cons, or_iff_right hj]) rfl rfl

/-- The replay of a pair that some flits make. -/
def replayNote (q : Fin 72) (d : BitVec 10) (again : List Sent) : LossReplay := {
  pair := q, dst := d, first := (again.head?.map fun e => e.flit.seq).getD 0
  last := (again.getLast?.map fun e => e.flit.seq).getD 0, count := again.length }

/-- A port whose losses note the replay that some flits make. -/
def noteIn (q : Fin 72) (d : BitVec 10) (again : List Sent) (j : Fin 72) (p : Port) : Port := { p with
  losses := p.losses.map fun l =>
    if l.replay.isNone && again.any fun e => decide (e.port = j) && decide (e.lanes &&& l.mask ≠ 0) then
      { l with replay := some (replayNote q d again) } else l }

theorem noteLosses_losses (m : Module) (q : Fin 72) (d : BitVec 10) {again : List Sent} (h : again ≠ []) (j : Fin 72) :
    ((noteLosses m q d again).port j).losses = (m.port j).losses.map fun l =>
      if l.replay = none ∧ ∃ e ∈ again, e.port = j ∧ e.lanes &&& l.mask ≠ 0 then
        { l with replay := some (replayNote q d again) } else l := by
  obtain ⟨a, ha⟩ : ∃ a, again.head? = some a := ⟨_, List.head?_eq_some_head h⟩
  obtain ⟨z, hz⟩ : ∃ z, again.getLast? = some z := ⟨_, List.getLast?_eq_some_getLast h⟩
  have hn : noteLosses m q d again = allPorts.foldl (fun m j => m.modPort j (noteIn q d again j)) m := by
    have hr : replayNote q d again =
        { pair := q, dst := d, first := a.flit.seq, last := z.flit.seq, count := again.length } := by
      rw [replayNote, ha, hz]; rfl
    unfold noteIn
    simp only [hr, noteLosses, ha, hz]
  rw [hn, allPorts, port_foldl_modPort (List.nodup_finRange 72), if_pos (List.mem_finRange j)]
  refine List.map_congr_left fun l _ => if_congr ?_ rfl rfl
  rw [Bool.and_eq_true, Option.isNone_iff_eq_none, List.any_eq_true]
  simp only [Bool.and_eq_true, decide_eq_true_eq]

theorem noteLosses_any_frame (m : Module) (q : Fin 72) (d : BitVec 10) (again : List Sent) :
    PortsMove SameButFlits m (noteLosses m q d again) := (noteLosses_frame m q d again).mono sameButFlits_of_losses

/-! ### A NAK -/

theorem map_unfailed_filter (l : List Sent) (n : BitVec 24) :
    (l.filter fun e => fromSeq n e.flit.seq).map unfailed = (l.map unfailed).filter fun e => fromSeq n e.flit.seq := by
  rw [List.filter_map]
  rfl

section
variable (m : Module) (q : Fin 72) (d : BitVec 10) (n : BitVec 24)

theorem againFrom_countFailure :
    (againFrom (countFailure m q d n) q d n).map unfailed = (againFrom m q d n).map unfailed := by
  rw [againFrom, map_unfailed_filter, ((countFailure_frame m q d n).port q).2 d, ← map_unfailed_filter, againFrom]

theorem map_flit_of_unfailed {l l' : List Sent} (h : l'.map unfailed = l.map unfailed) : l'.map Sent.flit = l.map Sent.flit := by
  have := congrArg (List.map Sent.flit) h
  rwa [List.map_map, List.map_map] at this

theorem replayPair_again (h : againFrom m q d n ≠ []) :
    replayPair m q d n = resend (noteLosses m q d (againFrom m q d n)) q d n := by
  rw [replayPair, ← againFrom]
  exact if_neg fun hx => h (List.isEmpty_iff.1 hx)

theorem replayFrom_nothing (h : againFrom m q d n = []) : replayFrom m q d n = m := by
  have hn : ∀ e ∈ ((m.port q).peer d).replay, e.flit.seq ≠ n := by
    intro e he hs
    refine absurd (List.filter_eq_nil_iff.1 h e he) (not_not_intro ?_)
    rw [fromSeq, hs, BitVec.sub_self]
    rfl
  rw [replayFrom, countFailure_none hn, replayPair, ← againFrom, h]
  rfl

theorem replayFrom_sameMemory : SameMemory m { replayFrom m q d n with host := m.host } := by
  have h1 := (countFailure_frame m q d n).mono (S := anyPort) fun _ _ _ => trivial
  have h2 := (replayPair_frame (countFailure m q d n) q d n).mono (S := anyPort) fun _ _ _ => trivial
  exact (h1.trans anyPort_rel h2).sameMemory

variable {m q d n}

/-- Lists of flits that differ in their failures alone are noted alike. -/
theorem replayNote_unfailed {l l' : List Sent} (h : l'.map unfailed = l.map unfailed) : replayNote q d l' = replayNote q d l := by
  have hf := map_flit_of_unfailed h
  have hlen : l'.length = l.length := by simpa using congrArg List.length hf
  have hhead : (l'.head?.map fun e => e.flit.seq) = l.head?.map fun e => e.flit.seq := by
    have := congrArg (fun x : List Flit => x.head?.map Flit.seq) hf
    simpa only [List.head?_map, Option.map_map, Function.comp_def] using this
  have hlast : (l'.getLast?.map fun e => e.flit.seq) = l.getLast?.map fun e => e.flit.seq := by
    have := congrArg (fun x : List Flit => x.getLast?.map Flit.seq) hf
    simpa only [List.getLast?_map, Option.map_map, Function.comp_def] using this
  rw [replayNote, hhead, hlast, hlen, replayNote]

theorem exists_lit_unfailed {l l' : List Sent} (h : l'.map unfailed = l.map unfailed) (j : Fin 72) (mask : BitVec 16) :
    (∃ e ∈ l', e.port = j ∧ e.lanes &&& mask ≠ 0) ↔ ∃ e ∈ l, e.port = j ∧ e.lanes &&& mask ≠ 0 := by
  have hx : ∀ l : List Sent, (∃ e ∈ l, e.port = j ∧ e.lanes &&& mask ≠ 0) ↔
      ∃ e ∈ l.map unfailed, e.port = j ∧ e.lanes &&& mask ≠ 0 := fun l =>
    ⟨fun ⟨e, he, hl⟩ => ⟨unfailed e, List.mem_map_of_mem he, hl⟩, by
      rintro ⟨_, he, hl⟩
      obtain ⟨o, ho, rfl⟩ := List.mem_map.1 he
      exact ⟨o, ho, hl⟩⟩
  rw [hx l', h, ← hx l]

section
variable (hq : QueuesEmpty m) (ha : againFrom m q d n ≠ [])

/-- The module of a NAK whose failure is counted and whose losses of light note their replay. -/
def nakNoted (m : Module) (q : Fin 72) (d : BitVec 10) (n : BitVec 24) : Module :=
  noteLosses (countFailure m q d n) q d (againFrom (countFailure m q d n) q d n)

theorem nakNoted_port (j : Fin 72) : (nakNoted m q d n).port j =
    { m.port j with peers := ((countFailure m q d n).port j).peers, losses := ((nakNoted m q d n).port j).losses } := by
  have h1 := (noteLosses_frame (countFailure m q d n) q d (againFrom (countFailure m q d n) q d n)).port j
  rw [nakNoted, h1, ((countFailure_frame m q d n).port j).1]

theorem nakNoted_flits : ((((nakNoted m q d n).port q).peer d).replay).map unfailed =
    ((m.port q).peer d).replay.map unfailed := by
  have h : ((nakNoted m q d n).port q).peers = ((countFailure m q d n).port q).peers := by rw [nakNoted_port]
  rw [Port.peer_congr h, ((countFailure_frame m q d n).port q).2 d]

theorem nakNoted_again : (againFrom (nakNoted m q d n) q d n).map unfailed = (againFrom m q d n).map unfailed := by
  rw [againFrom, map_unfailed_filter, nakNoted_flits, ← map_unfailed_filter, againFrom]

theorem nakNoted_path : pathOf (nakNoted m q d n) q d = pathOf (countFailure m q d n) q d := by
  rw [pathOf, nakNoted, pickPath_move (noteLosses_any_frame ..), pathOf]

include hq in
theorem nakNoted_empty : QueuesEmpty (nakNoted m q d n) := fun j => by
  rw [nakNoted_port]
  exact hq j

include ha

theorem replayFrom_again : replayFrom m q d n = resend (nakNoted m q d n) q d n := by
  refine replayPair_again _ q d n fun h => ha ?_
  have := againFrom_countFailure m q d n
  rw [h, List.map_nil] at this
  exact List.map_eq_nil_iff.1 this.symm

theorem nakNoted_losses (j : Fin 72) : ((nakNoted m q d n).port j).losses = (m.port j).losses.map fun l =>
    if l.replay = none ∧ ∃ e ∈ againFrom m q d n, e.port = j ∧ e.lanes &&& l.mask ≠ 0 then
      { l with replay := some (replayNote q d (againFrom m q d n)) } else l := by
  have hc := againFrom_countFailure m q d n
  have hne : againFrom (countFailure m q d n) q d n ≠ [] := fun h => ha (by
    rw [h, List.map_nil] at hc
    exact List.map_eq_nil_iff.1 hc.symm)
  rw [nakNoted, noteLosses_losses _ _ _ hne, ((countFailure_frame m q d n).port j).1]
  simp only [exists_lit_unfailed hc, replayNote_unfailed hc]

include hq

theorem replayFrom_flits : ((((replayFrom m q d n).port q).peer d).replay).map Sent.flit =
    ((m.port q).peer d).replay.map Sent.flit := by
  rw [replayFrom_again ha]
  have h := resend_flitsOf (q := q) (d := d) (n := n) (nakNoted_empty (q := q) (d := d) (n := n) hq)
  rw [flitsOf, flitsOf] at h
  rw [h, map_flit_of_unfailed nakNoted_flits]

section
variable (hm : ∀ j, (m.port j).met = none)
include hm

theorem replayFrom_unmet (j : Fin 72) :
    (replayFrom m q d n).port j = (requeued (nakNoted m q d n) q d n).port j := by
  rw [replayFrom_again ha]
  refine resend_unmet (nakNoted_empty hq) (fun i => ?_) j
  rw [nakNoted_port]
  exact hm i

theorem replayFrom_sendq : ((replayFrom m q d n).port (pathOf (countFailure m q d n) q d).1).sendq =
    (againFrom m q d n).map fun e => ((pathOf (countFailure m q d n) q d).2, e.flit) := by
  rw [replayFrom_unmet hq ha hm, requeued_port (nakNoted_empty hq), nakNoted_path, if_pos rfl]
  have h := congrArg (List.map fun f : Flit => ((pathOf (countFailure m q d n) q d).2, f))
    (map_flit_of_unfailed (nakNoted_again (m := m) (q := q) (d := d) (n := n)))
  rwa [List.map_map, List.map_map] at h

theorem replayFrom_losses (j : Fin 72) : ((replayFrom m q d n).port j).losses = (m.port j).losses.map fun l =>
    if l.replay = none ∧ ∃ e ∈ againFrom m q d n, e.port = j ∧ e.lanes &&& l.mask ≠ 0 then
      { l with replay := some (replayNote q d (againFrom m q d n)) } else l := by
  rw [replayFrom_unmet hq ha hm, requeued_port (nakNoted_empty hq), ← nakNoted_losses ha]
  split <;> rfl

end
end
end

end Sys2Proof.Machine
end

section
/-! SUPPORT. The statement about ports (01 R10, 09 R285, R286, 15 R374 to R377). -/

namespace Sys2Proof.Machine

/-- The module of a slot whose first beat the table of a port disagrees with. -/
def slotMissed (m : Module) (q : Fin 72) : Module :=
  (m.modPort q fun p => { p with met := none, disagree := true }).modDie (portDie q) fun d =>
    { d with counters := { d.counters with pathsDown := d.counters.pathsDown + 1 } }

theorem slotMissed_spec (m : Module) (q : Fin 72) :
    slotMissed m q = { m with ports := (slotMissed m q).ports, dies := (slotMissed m q).dies } ∧
      (slotMissed m q).port q = { m.port q with met := none, disagree := true } ∧
      (∀ j, j ≠ q → (slotMissed m q).port j = m.port j) ∧
      ((slotMissed m q).die (portDie q)).counters.pathsDown = (m.die (portDie q)).counters.pathsDown + 1 := by
  obtain ⟨k, hk⟩ : ∃ k, k = m.modPort q fun p => { p with met := none, disagree := true } := ⟨_, rfl⟩
  have hp : ∀ j, (slotMissed m q).port j = k.port j := fun j => by rw [hk]; rfl
  refine ⟨rfl, ?_, fun j hj => ?_, ?_⟩
  · rw [hp, hk, Module.port_modPort_same]
  · rw [hp, hk, Module.port_modPort_ne _ _ hj]
  · rw [slotMissed, Module.die_modDie_same]
    rfl

theorem exec_flitNak (s : State) (q : Fin 72) (d : BitVec 10) (n : BitVec 24) :
    exec (.flitNak q d n) s = .next { s with m := replayFrom s.m q d n } := rfl

theorem exec_flitAck (s : State) (q : Fin 72) (d : BitVec 10) (n : BitVec 24) :
    exec (.flitAck q d n) s = .next { s with m := ackFlits s.m q d n } := rfl

theorem exec_flitReplayTimeout_empty {s : State} {q : Fin 72} {d : BitVec 10} (h : ((s.m.port q).peer d).replay = []) :
    exec (.flitReplayTimeout q d) s = .next s := by
  show execFlitReplayTimeout q d s = _
  rw [execFlitReplayTimeout, event, h]

theorem exec_flitReplayTimeout_oldest {s : State} {q : Fin 72} {d : BitVec 10} {e : Sent} {r : List Sent}
    (h : ((s.m.port q).peer d).replay = e :: r) :
    exec (.flitReplayTimeout q d) s = exec (.flitNak q d e.flit.seq) s := by
  show execFlitReplayTimeout q d s = _
  rw [execFlitReplayTimeout, event, h]
  rfl

/-- The first flit of a sequence in a replay buffer. -/
theorem find_seq {l r t : List Sent} {e : Sent} {n : BitVec 24} (h : t = l ++ e :: r) (hl : ∀ y ∈ l, y.flit.seq ≠ n)
    (he : e.flit.seq = n) : t.find? (fun e => decide (e.flit.seq = n)) = some e := by
  rw [h, List.find?_eq_some_iff_append]
  exact ⟨decide_eq_true he, l, r, rfl, fun y hy => by simpa using hl y hy⟩

/-- Settles O50: what ports send, check, acknowledge and send again, and their light, in the model's choices (logs 13, 47,
60, 92, 105, 106). -/
theorem portsKeepSequenceAndLight : Obligations.PortsKeepSequenceAndLight := by
  unfold Obligations.PortsKeepSequenceAndLight
  refine ⟨fun s q d k => ⟨?slotNone, ?slotAgrees, ?slotDisagrees⟩,
    fun m q => ⟨(pump_frame m q).sameMemory, pump_none, ?pumpAll⟩,
    fun live k hk => bitAt_lanesOf live hk,
    fun m q e path => ⟨?repickNone, fun hq hn hs => ⟨?repickStays, ?repickGoes⟩⟩,
    fun s q l r e => ⟨exec_relaySend_oldest, exec_relaySend_none⟩,
    fun s q f good => ⟨?bad, ?relay, fun hv hd => ⟨?seq, ?ack, ?nak, ?landing, ?mcAck⟩⟩,
    fun s q d n => ⟨_, exec_flitAck s q d n, ackFlits_sameMemory .., fun hq =>
      ⟨ackFlits_replay hq, ackFlits_quiet hq, ?kept, ?dropped⟩⟩,
    fun m q d n => ⟨countFailure_none, ?counts⟩,
    fun s q d n => ⟨?nothing, ?again, exec_flitReplayTimeout_empty, fun _ _ => exec_flitReplayTimeout_oldest⟩,
    fun s q l => ⟨exec_lossOfLight_again, ?loss, ?lossLast⟩,
    fun m q => portDown_empty,
    fun m q d x f r => portDown_one,
    fun s q => ⟨exec_portPark_busy, ?parks, ?dark, exec_portWake_no, exec_portWake, fun k => ⟨exec_wavelengthJoin_no, ?joins⟩⟩⟩
  case slotNone => exact ⟨_, exec_slotBoundary_none, portOnly_modPort .., Module.port_modPort_same ..⟩
  case slotAgrees => exact exec_slotBoundary_agrees
  case slotDisagrees =>
    intro h
    obtain ⟨hm, hp, hj, hc⟩ := slotMissed_spec s.m q
    exact ⟨_, exec_slotBoundary_disagrees h, hm, hp, hj, hc⟩
  case pumpAll =>
    intro d hm hs hd hl hr hsame
    have h : Meets m q d := ⟨hm, hs, hd⟩
    refine ⟨pump_all_sendq h hr hl, pump_all_idleSince h hr hl, pump_all_change h hr hl, fun e he hb => ?_⟩
    rw [← replayOf, pump_all_replay h hr hl]
    exact departs_held hl hsame e he hb
  case repickNone => exact fun h => repickPorts_none fun j _ => h j
  case repickStays => exact repick_one_none hq hn hs
  case repickGoes => exact fun hp _ => repick_one_some hq hn hs hp
  case bad => exact exec_flitReceive_bad
  case relay =>
    intro hv hd
    have h := exec_flitReceive_relay hv hd
    refine ⟨fun hl => ?_, fun hl => ?_⟩
    · rwa [if_neg (Nat.not_le.2 hl)] at h
    · rwa [if_pos hl] at h
  case seq =>
    refine fun hs => ⟨exec_flitReceive_out hv hd hs, fun he => ?_⟩
    have h := exec_flitReceive_in hv hd hs he
    refine ⟨fun c w e pc pw b hb => ?_, fun k hb => ?_, fun o n g v c off data hb => ?_, fun o n g v c off data hb => ?_⟩
    all_goals
      refine h.trans ?_
      rw [receiveBody, hb]
      rfl
  case ack =>
    intro upto hb
    rw [exec_flitReceive_control hv hd (by rw [hb]; rfl), receiveBody, hb]
    rfl
  case nak =>
    intro first hb
    rw [exec_flitReceive_control hv hd (by rw [hb]; rfl), receiveBody, hb]
    rfl
  case landing =>
    intro c w n r hb
    rw [exec_flitReceive_control hv hd (by rw [hb]; rfl), receiveBody, hb]
    rfl
  case mcAck =>
    intro n g hb _
    refine ⟨_, ?_, rfl, chain_multicastAck s.m n (f.src, g)⟩
    rw [exec_flitReceive_control hv hd (by rw [hb]; rfl), receiveBody, hb]
  case kept => exact fun k ho => ackFlits_key_kept hq ho
  case dropped => exact fun k ho hleft hs hother hb => ackFlits_key_dropped hq ho hleft hs hother hb
  case counts =>
    intro l e r hx hl he
    have hfind := find_seq hx hl he
    refine ⟨fun hd => by rw [countFailure_some hfind, if_pos hd], fun hd => ?_⟩
    obtain ⟨w, hw, h⟩ := countFailure_counts hfind hd
    rw [hw]
    exact h
  case nothing =>
    intro h
    rw [exec_flitNak, replayFrom_nothing s.m q d n h]
  case again =>
    exact fun ha _ => ⟨_, exec_flitNak s q d n, replayFrom_sameMemory .., fun hq => replayFrom_flits hq ha, fun hm hq =>
      ⟨replayFrom_sendq hq ha hm, replayFrom_losses hq ha hm⟩⟩
  case loss =>
    intro hl hx hn
    have h := exec_lossOfLight hl
    rw [if_neg hx] at h
    exact ⟨_, h, lossReported_once s.m hn⟩
  case lossLast =>
    intro hl hx
    have h := exec_lossOfLight hl
    rw [if_pos hx] at h
    exact h
  case parks =>
    intro l hi h hf
    obtain ⟨w, hw, ho, hp⟩ := exec_portPark_first hi h hf
    rw [setLive_eq] at hp
    exact ⟨w, hw, ho, hp⟩
  case dark => exact exec_portPark_dark
  case joins =>
    intro h
    obtain ⟨w, hw, ho, hp⟩ := exec_wavelengthJoin h
    rw [setLive_eq] at hp
    exact ⟨w, hw, ho, hp⟩

end Sys2Proof.Machine
end

section
/-! SUPPORT. Words as lists of fields; the codes of operands, slot ops and chain records, decoded and encoded. -/

namespace Sys2Proof

/-! ### Words as lists of fields -/

/-- The fields of a word from the lowest bit upward, one for each width. -/
def wordFields : List Nat → Nat → List Nat
  | [], _ => []
  | n :: ns, w => w % 2 ^ n :: wordFields ns (w / 2 ^ n)

/-- The word that holds the given fields (width and value), the first one lowest. -/
def packFields : List (Nat × Nat) → Nat
  | [] => 0
  | (n, v) :: fs => v + 2 ^ n * packFields fs

/-- Every value fits the width of its field. -/
def FieldsFit (fs : List (Nat × Nat)) : Prop := ∀ f ∈ fs, f.2 < 2 ^ f.1

theorem fieldsFit_cons {f : Nat × Nat} {fs : List (Nat × Nat)} : FieldsFit (f :: fs) ↔ f.2 < 2 ^ f.1 ∧ FieldsFit fs :=
  List.forall_mem_cons

theorem fieldsFit_nil : FieldsFit [] := by simp [FieldsFit]

theorem packFields_lt {fs : List (Nat × Nat)} (h : FieldsFit fs) : packFields fs < 2 ^ (fs.map Prod.fst).sum := by
  induction fs with
  | nil => simp [packFields]
  | cons f fs ih =>
    obtain ⟨n, v⟩ := f
    obtain ⟨hv, hfs⟩ := fieldsFit_cons.1 h
    have hlt : packFields fs + 1 ≤ 2 ^ (fs.map Prod.fst).sum := ih hfs
    calc packFields ((n, v) :: fs) < 2 ^ n * (packFields fs + 1) := by simp only [packFields] at *; linarith
      _ ≤ 2 ^ n * 2 ^ (fs.map Prod.fst).sum := Nat.mul_le_mul_left _ hlt
      _ = 2 ^ (((n, v) :: fs).map Prod.fst).sum := by simp [pow_add]

/-- The fields of a packed word are those that it was packed of. -/
theorem wordFields_packFields {fs : List (Nat × Nat)} (h : FieldsFit fs) :
    wordFields (fs.map Prod.fst) (packFields fs) = fs.map Prod.snd := by
  induction fs with
  | nil => rfl
  | cons f fs ih =>
    obtain ⟨n, v⟩ := f
    obtain ⟨hv, hfs⟩ := fieldsFit_cons.1 h
    have hdiv : packFields ((n, v) :: fs) / 2 ^ n = packFields fs := by
      simp [packFields, Nat.add_mul_div_left, Nat.div_eq_of_lt hv]
    have hmod : packFields ((n, v) :: fs) % 2 ^ n = v := by simp [packFields, Nat.mod_eq_of_lt hv]
    simp only [List.map_cons, wordFields, hdiv, hmod, ih hfs]

/-- A word is packed of its fields. -/
theorem packFields_wordFields (ns : List Nat) (w : Nat) : packFields (ns.zip (wordFields ns w)) = w % 2 ^ ns.sum := by
  induction ns generalizing w with
  | nil => simp [packFields, wordFields, Nat.mod_one]
  | cons n ns ih => simp [packFields, wordFields, ih, pow_add, Nat.mod_mul]

theorem fld_lt (w lo n : Nat) : fld w lo n < 2 ^ n := Nat.mod_lt _ (by positivity)

theorem bitAt_eq_fld (w i : Nat) : bitAt w i = (fld w i 1 == 1) := rfl

/-! ### Operand codes (02 R42, R44, R45) -/

@[simp] theorem fin?_val {n : Nat} (x : Fin n) : fin? n x.val = some x := by simp [fin?]

theorem fin?_eq_some {n x : Nat} {y : Fin n} : fin? n x = some y ↔ y.val = x := by
  unfold fin?
  split
  · simp [Fin.ext_iff, eq_comm]
  · have := y.isLt; simp; omega

theorem encodeSrc_lt (s : Src) : (encodeSrc s).1 < 4 ∧ (encodeSrc s).2 < 2 ^ 32 := by
  cases s <;> simp only [encodeSrc] <;> omega

@[simp] theorem decodeSrc_encodeSrc (s : Src) : decodeSrc (encodeSrc s).1 (encodeSrc s).2 = some s := by
  cases s with
  | tile n => simp [encodeSrc, decodeSrc]
  | qlx => rfl
  | qxs => rfl
  | mask n =>
    have h1 : ¬40 + n.val < 32 := by omega
    have h2 : 40 + n.val ≠ 32 ∧ 40 + n.val ≠ 33 := by omega
    simp [encodeSrc, decodeSrc, fin?_val, h1, h2]
  | s n => simp [encodeSrc, decodeSrc]
  | a n => simp [encodeSrc, decodeSrc, fin?]; omega
  | m n => simp [encodeSrc, decodeSrc, fin?]; omega
  | k n => simp [encodeSrc, decodeSrc, fin?]
  | lit w => simp [encodeSrc, decodeSrc]

theorem encodeSrc_of_decodeSrc {k w : Nat} {s : Src} (hk : k < 4) (hw : w < 2 ^ 32) (h : decodeSrc k w = some s) :
    encodeSrc s = (k, w) := by
  unfold decodeSrc at h
  split at h
  case h_1 =>
    split_ifs at h with h1 h2 h3 h4
    · cases h; rfl
    · cases h; rw [h2]; rfl
    · cases h; rw [h3]; rfl
    · obtain ⟨n, hn, rfl⟩ := Option.map_eq_some_iff.1 h
      rw [fin?_eq_some] at hn
      simp [encodeSrc]; omega
  case h_2 =>
    split_ifs at h with h1 h2
    · cases h; rfl
    · obtain ⟨n, hn, rfl⟩ := Option.map_eq_some_iff.1 h
      rw [fin?_eq_some] at hn
      simp [encodeSrc]; omega
    · obtain ⟨n, hn, rfl⟩ := Option.map_eq_some_iff.1 h
      rw [fin?_eq_some] at hn
      simp [encodeSrc]; omega
  case h_3 =>
    obtain ⟨n, hn, rfl⟩ := Option.map_eq_some_iff.1 h
    rw [fin?_eq_some] at hn
    simp [encodeSrc]; omega
  case h_4 h0 h1 h2 =>
    cases h
    have h012 : k ≠ 0 ∧ k ≠ 1 ∧ k ≠ 2 := ⟨h0, h1, h2⟩
    have hk : 3 = k := by omega
    simpa [encodeSrc, hk] using Nat.mod_eq_of_lt hw

theorem encodeDst_lt (d : Dst) : encodeDst d < 2 ^ 8 := by
  cases d <;> simp only [encodeDst] <;> omega

@[simp] theorem decodeDst_encodeDst (d : Dst) : decodeDst (encodeDst d) = some d := by
  cases d with
  | v n => simp [encodeDst, decodeDst]
  | p n =>
    have h1 : ¬40 + n.val < 32 ∧ 40 + n.val ≠ 32 ∧ 40 + n.val ≠ 33 ∧ ¬40 + n.val < 40 ∧ 40 + n.val < 48 := by omega
    simp only [encodeDst, decodeDst, h1, dite_false, if_false, if_true, Nat.add_sub_cancel_left, fin?_val, Option.map_some]
  | s n =>
    have h1 : ¬64 + n.val < 32 ∧ 64 + n.val ≠ 32 ∧ 64 + n.val ≠ 33 ∧ ¬64 + n.val < 40 ∧ ¬64 + n.val < 48 ∧
      ¬64 + n.val < 64 ∧ 64 + n.val < 128 := by omega
    simp only [encodeDst, decodeDst, h1, dite_false, if_false, if_true, Nat.add_sub_cancel_left, fin?_val, Option.map_some]
  | a n =>
    have h1 : ¬128 + n.val < 32 ∧ 128 + n.val ≠ 32 ∧ 128 + n.val ≠ 33 ∧ ¬128 + n.val < 40 ∧ ¬128 + n.val < 48 ∧
      ¬128 + n.val < 64 ∧ ¬128 + n.val < 128 ∧ 128 + n.val < 144 := by omega
    simp only [encodeDst, decodeDst, h1, dite_false, if_false, if_true, Nat.add_sub_cancel_left, fin?_val, Option.map_some]
  | m n =>
    have h1 : ¬144 + n.val < 32 ∧ 144 + n.val ≠ 32 ∧ 144 + n.val ≠ 33 ∧ ¬144 + n.val < 40 ∧ ¬144 + n.val < 48 ∧
      ¬144 + n.val < 64 ∧ ¬144 + n.val < 128 ∧ ¬144 + n.val < 144 ∧ 144 + n.val < 160 := by omega
    simp only [encodeDst, decodeDst, h1, dite_false, if_false, if_true, Nat.add_sub_cancel_left, fin?_val, Option.map_some]
  | _ => rfl

/-- A register number within its block of codes is the code less the block's start. -/
theorem fin?_sub_eq_some {n c k : Nat} {β : Type} {f : Fin n → β} {b : β} (h : (fin? n (c - k)).map f = some b)
    (hk : k ≤ c) : ∃ x : Fin n, k + x.val = c ∧ f x = b := by
  obtain ⟨x, hx, hb⟩ := Option.map_eq_some_iff.1 h
  rw [fin?_eq_some] at hx
  exact ⟨x, by omega, hb⟩

theorem encodeDst_of_decodeDst {c : Nat} {d : Dst} (h : decodeDst c = some d) : encodeDst d = c := by
  unfold decodeDst at h
  split_ifs at h with hv hqlx hqxs _ hp _ hs ha hm hnone
  · cases h; rfl
  · cases h; exact hqlx.symm
  · cases h; exact hqxs.symm
  · obtain ⟨n, hn, rfl⟩ := fin?_sub_eq_some h (by omega); exact hn
  · obtain ⟨n, hn, rfl⟩ := fin?_sub_eq_some h (by omega); exact hn
  · obtain ⟨n, hn, rfl⟩ := fin?_sub_eq_some h (by omega); exact hn
  · obtain ⟨n, hn, rfl⟩ := fin?_sub_eq_some h (by omega); exact hn
  · cases h; exact hnone.symm

theorem encodeTy_lt (t : Ty) : encodeTy t < 2 ^ 4 := by cases t <;> decide

@[simp] theorem decodeTy_encodeTy (t : Ty) : decodeTy (encodeTy t) = some t := by cases t <;> rfl

theorem encodeTy_of_decodeTy {c : Nat} {t : Ty} (h : decodeTy c = some t) : encodeTy t = c := by
  unfold decodeTy at h
  split at h <;> cases h <;> rfl

/-! ### The record of a slot op (02 R35, R64 to R69) -/

/-- An opcode that names an op is that op's. -/
theorem slotCode_of_slotOf {c : Nat} {o : SlotOp} {i : Instr} (h : slotOf c o = some i) : slotCode i = some (c, o) := by
  unfold slotOf at h
  split at h
  case h_61 | h_108 => cases h; split <;> rfl
  all_goals cases h
  all_goals rfl

/-- The opcode of a well-formed op names it, CBWT's producer form excepted, whose opcode names the consumer form. -/
theorem slotOf_slotCode {i : Instr} {c : Nat} {o : SlotOp} (h : slotCode i = some (c, o)) (hw : i.wf = true)
    (hp : ∀ o, i ≠ .cbwtProducer o) : slotOf c o = some i := by
  cases i
  case cbwtProducer o => exact absurd rfl (hp o)
  case rmxa o | rmxaBlk o | cbstGet o | cbstInit o =>
    have hx := Laws.Encoding.opx_of_wf (o := o) rfl hw
    cases h
    simp only [shapeM, shapeMem, List.contains_cons, List.contains_nil, Bool.or_eq_true, beq_iff_eq] at hx
    simp only [slotOf]
    split <;> simp_all
  all_goals cases h
  all_goals rfl

theorem slotCode_range {i : Instr} {c : Nat} {o : SlotOp} (h : slotCode i = some (c, o)) : 0 < c ∧ c < 2 ^ 8 := by
  unfold slotCode at h
  split at h <;> cases h <;> decide

/-- The fields of a slot op, lowest first (02 R35). -/
def slotFields (c : Nat) (o : SlotOp) : List (Nat × Nat) :=
  [(8, c), (2, (encodeSrc o.a).1), (2, (encodeSrc o.b).1), (2, (encodeSrc o.c).1), (4, encodeTy o.ty), (3, o.pred.val),
    (3, o.opx.val), (8, encodeDst o.dst), (32, (encodeSrc o.a).2), (32, (encodeSrc o.b).2), (32, (encodeSrc o.c).2)]

theorem slotFields_fit {c : Nat} (o : SlotOp) (hc : c < 2 ^ 8) : FieldsFit (slotFields c o) := by
  obtain ⟨ha, ha'⟩ := encodeSrc_lt o.a
  obtain ⟨hb, hb'⟩ := encodeSrc_lt o.b
  obtain ⟨hx, hx'⟩ := encodeSrc_lt o.c
  simp only [slotFields, fieldsFit_cons]
  exact ⟨hc, ha, hb, hx, encodeTy_lt _, o.pred.isLt, o.opx.isLt, encodeDst_lt _, ha', hb', hx', fieldsFit_nil⟩

theorem encodeSlot_eq {i : Instr} {c : Nat} {o : SlotOp} (h : slotCode i = some (c, o)) :
    encodeSlot i = packFields (slotFields c o) := by
  simp only [encodeSlot, h, slotFields, packFields]
  ring

/-- The fields of a slot as the decoder reads them. -/
theorem wordFields_slot (w : Nat) : wordFields [8, 2, 2, 2, 4, 3, 3, 8, 32, 32, 32] w =
    [fld w 0 8, fld w 8 2, fld w 10 2, fld w 12 2, fld w 14 4, fld w 18 3, fld w 21 3, fld w 24 8, fld w 32 32,
      fld w 64 32, fld w 96 32] := by
  simp only [wordFields, fld, Nat.div_div_eq_div_mul, ← pow_add, pow_zero, Nat.div_one, Nat.reduceAdd]

theorem encodeSlot_lt (i : Instr) : encodeSlot i < 2 ^ 128 := by
  cases h : slotCode i with
  | none => simp [encodeSlot, h]
  | some e =>
    rw [encodeSlot_eq h]
    exact packFields_lt (slotFields_fit _ (slotCode_range h).2)

theorem decodeSlot_encodeSlot {i : Instr} {c : Nat} {o : SlotOp} (h : slotCode i = some (c, o)) (hw : i.wf = true)
    (hp : ∀ o, i ≠ .cbwtProducer o) : decodeSlot (encodeSlot i) = some i := by
  obtain ⟨h0, hc⟩ := slotCode_range h
  have hf := (wordFields_slot _).symm.trans (wordFields_packFields (slotFields_fit o hc))
  simp only [slotFields, List.map_cons, List.map_nil, List.cons.injEq, and_true] at hf
  obtain ⟨hcode, hka, hkb, hkc, hty, hpred, hopx, hdst, ha, hb, hcc⟩ := hf
  rw [encodeSlot_eq h, decodeSlot]
  simp only [slotFields, hcode, hka, hkb, hkc, hty, hpred, hopx, hdst, ha, hb, hcc, h0.ne', if_false, decodeSrc_encodeSrc,
    decodeTy_encodeTy, decodeDst_encodeDst, fin?_val]
  exact slotOf_slotCode h hw hp

theorem encodeSlot_of_decodeSlot {w : Nat} {i : Instr} (hw : w < 2 ^ 128) (h : decodeSlot w = some i) :
    encodeSlot i = w := by
  unfold decodeSlot at h
  split_ifs at h with h0 h1
  · cases h
    have : fld w 0 128 = w := by rw [fld, pow_zero, Nat.div_one, Nat.mod_eq_of_lt hw]
    rw [← this, h1]; rfl
  · split at h
    case h_1 a b c t d p x ha hb hc ht hd hp hx =>
      have hcode := slotCode_of_slotOf h
      have hA := encodeSrc_of_decodeSrc (fld_lt w 8 2) (fld_lt w 32 32) ha
      have hB := encodeSrc_of_decodeSrc (fld_lt w 10 2) (fld_lt w 64 32) hb
      have hC := encodeSrc_of_decodeSrc (fld_lt w 12 2) (fld_lt w 96 32) hc
      have hpack := packFields_wordFields [8, 2, 2, 2, 4, 3, 3, 8, 32, 32, 32] w
      rw [wordFields_slot] at hpack
      rw [encodeSlot_eq hcode, slotFields]
      simp only [hA, hB, hC, encodeTy_of_decodeTy ht, encodeDst_of_decodeDst hd, fin?_eq_some.1 hp, fin?_eq_some.1 hx]
      exact hpack.trans (Nat.mod_eq_of_lt hw)
    case h_2 => cases h

/-! ### Chain records (09 R253) -/

theorem recCode_of_recOf {c : Nat} {r : Rec} {i : Instr} (h : recOf c r = some i) : recCode i = some (c, r) := by
  unfold recOf at h
  split at h <;> cases h <;> rfl

theorem recOf_recCode {i : Instr} {c : Nat} {r : Rec} (h : recCode i = some (c, r)) : c < 2 ^ 8 ∧ recOf c r = some i := by
  unfold recCode at h
  split at h <;> cases h <;> exact ⟨by decide, rfl⟩

theorem encodeCls_lt (c : EngClass) : encodeCls c < 2 ^ 4 := by cases c <;> decide
@[simp] theorem decodeCls_encodeCls (c : EngClass) : decodeCls (encodeCls c) = some c := by cases c <;> rfl
theorem encodeCls_of_decodeCls {k : Nat} {c : EngClass} (h : decodeCls k = some c) : encodeCls c = k := by
  unfold decodeCls at h
  split at h <;> cases h <;> rfl

/-- A flag as a bit. -/
def bitNat (b : Bool) : Nat := if b then 1 else 0

theorem bitNat_lt (b : Bool) : bitNat b < 2 ^ 1 := by cases b <;> decide
@[simp] theorem bitNat_bitAt (w i : Nat) : bitNat (bitAt w i) = fld w i 1 := by
  have := fld_lt w i 1
  rw [bitAt_eq_fld, bitNat]
  interval_cases fld w i 1 <;> rfl
theorem bitAt_of_fld {w i : Nat} {b : Bool} (h : fld w i 1 = bitNat b) : bitAt w i = b := by
  rw [bitAt_eq_fld, h]; cases b <;> rfl

/-- The fields of a record, lowest first (09 R253). -/
def recFields (c : Nat) (r : Rec) : List (Nat × Nat) :=
  [(8, c), (4, encodeCls r.cls), (1, bitNat r.byt), (1, bitNat r.sig), (1, bitNat r.ntf), (1, bitNat r.last),
    (16, r.bufs.toNat), (32, r.w1.toNat), (32, r.w2.toNat), (32, r.w3.toNat), (32, r.w4.toNat), (32, r.w5.toNat),
    (32, r.w6.toNat), (32, r.w7.toNat)]

theorem recFields_fit {c : Nat} (r : Rec) (hc : c < 2 ^ 8) : FieldsFit (recFields c r) := by
  simp only [recFields, fieldsFit_cons]
  exact ⟨hc, encodeCls_lt _, bitNat_lt _, bitNat_lt _, bitNat_lt _, bitNat_lt _, r.bufs.isLt, r.w1.isLt, r.w2.isLt,
    r.w3.isLt, r.w4.isLt, r.w5.isLt, r.w6.isLt, r.w7.isLt, fieldsFit_nil⟩

theorem encodeRec_eq {i : Instr} {c : Nat} {r : Rec} (h : recCode i = some (c, r)) :
    encodeRec i = packFields (recFields c r) := by
  simp only [encodeRec, h, recFields, packFields, bitNat]
  ring

/-- The fields of a record as the decoder reads them. -/
theorem wordFields_rec (w : Nat) : wordFields [8, 4, 1, 1, 1, 1, 16, 32, 32, 32, 32, 32, 32, 32] w =
    [fld w 0 8, fld w 8 4, fld w 12 1, fld w 13 1, fld w 14 1, fld w 15 1, fld w 16 16, fld w 32 32, fld w 64 32,
      fld w 96 32, fld w 128 32, fld w 160 32, fld w 192 32, fld w 224 32] := by
  simp only [wordFields, fld, Nat.div_div_eq_div_mul, ← pow_add, pow_zero, Nat.div_one, Nat.reduceAdd]

theorem encodeRec_lt {i : Instr} {c : Nat} {r : Rec} (h : recCode i = some (c, r)) : encodeRec i < 2 ^ 256 := by
  have hsum : ((recFields c r).map Prod.fst).sum = 256 := by simp [recFields]
  have hlt := packFields_lt (recFields_fit r (recOf_recCode h).1)
  rwa [hsum, ← encodeRec_eq h] at hlt

theorem decodeRec_encodeRec {i : Instr} {c : Nat} {r : Rec} (h : recCode i = some (c, r)) :
    decodeRec (encodeRec i) = some i := by
  obtain ⟨hc, hi⟩ := recOf_recCode h
  have hf := (wordFields_rec _).symm.trans (wordFields_packFields (recFields_fit r hc))
  simp only [recFields, List.map_cons, List.map_nil, List.cons.injEq, and_true] at hf
  obtain ⟨hcode, hcls, hbyt, hsig, hntf, hlast, hbufs, h1, h2, h3, h4, h5, h6, h7⟩ := hf
  rw [encodeRec_eq h, decodeRec]
  simp only [recFields, hcode, hcls, decodeCls_encodeCls, bitAt_of_fld hbyt, bitAt_of_fld hsig, bitAt_of_fld hntf,
    bitAt_of_fld hlast, hbufs, h1, h2, h3, h4, h5, h6, h7, BitVec.ofNat_toNat, BitVec.setWidth_eq]
  exact hi

theorem encodeRec_of_decodeRec {w : Nat} {i : Instr} (hw : w < 2 ^ 256) (h : decodeRec w = some i) :
    encodeRec i = w := by
  unfold decodeRec at h
  split at h
  · cases h
  · next cls hcls =>
    have hpack := packFields_wordFields [8, 4, 1, 1, 1, 1, 16, 32, 32, 32, 32, 32, 32, 32] w
    rw [wordFields_rec] at hpack
    rw [encodeRec_eq (recCode_of_recOf h), recFields]
    simp only [encodeCls_of_decodeCls hcls, bitNat_bitAt, BitVec.toNat_ofNat, Nat.mod_eq_of_lt (fld_lt _ _ _)]
    exact hpack.trans (Nat.mod_eq_of_lt hw)

end Sys2Proof
end

section
/-! SUPPORT. Control ops, address ops and bundles, decoded and encoded. -/

namespace Sys2Proof

/-! ### Control ops (02 R40) -/

/-- The ops of the control field, one by one (02 R40). -/
theorem controlCases {motive : Instr → Prop}
    (br : ∀ off, motive (.br off)) (brz : ∀ r off, motive (.brz r off)) (brnz : ∀ r off, motive (.brnz r off))
    (brp : ∀ p t off, motive (.brp p t off)) (brqe : ∀ q off, motive (.brqe q off))
    (loop : ∀ n last, motive (.loop n last)) (call : ∀ off, motive (.call off)) (ret : motive .ret)
    (jmpi : ∀ r, motive (.jmpi r)) (rdv : motive .rdv) (exit : motive .exit) (yield : motive .yield)
    (join : ∀ g, motive (.join g)) (leave : ∀ g, motive (.leave g)) (gbar : ∀ g, motive (.gbar g))
    (waits : ∀ r, motive (.waits r)) (waitb : ∀ s, motive (.waitb s)) (trap : ∀ n, motive (.trap n))
    (eret : motive .eret) (npre : ∀ us, motive (.npre us)) (xpre : motive .xpre)
    {i : Instr} (hp : i.place = .control) : motive i := by
  cases i
  case br => exact br _
  case brz => exact brz _ _
  case brnz => exact brnz _ _
  case brp => exact brp _ _ _
  case brqe => exact brqe _ _
  case loop => exact loop _ _
  case call => exact call _
  case ret => exact ret
  case jmpi => exact jmpi _
  case rdv => exact rdv
  case exit => exact exit
  case yield => exact yield
  case join => exact join _
  case leave => exact leave _
  case gbar => exact gbar _
  case waits => exact waits _
  case waitb => exact waitb _
  case trap => exact trap _
  case eret => exact eret
  case npre => exact npre _
  case xpre => exact xpre
  all_goals contradiction

/-- The ops of the address field, one by one (02 R41). -/
theorem addressCases {motive : Instr → Prop}
    (ainc : ∀ a v, motive (.ainc a v)) (amod : ∀ a m, motive (.amod a m)) (abrv : ∀ a m, motive (.abrv a m))
    (acir : ∀ a m, motive (.acir a m)) (aset : ∀ a hi lo, motive (.aset a hi lo))
    (mset : ∀ p m v, motive (.mset p m v)) {i : Instr} (hp : i.place = .address) : motive i := by
  cases i
  case ainc => exact ainc _ _
  case amod => exact amod _ _
  case abrv => exact abrv _ _
  case acir => exact acir _ _
  case aset => exact aset _ _ _
  case mset => exact mset _ _ _
  all_goals contradiction

/-- Code, operand and second operand fit their fields and decode to `i`. -/
def CtlCode (code c c2 : Nat) (i : Instr) : Prop :=
  code < 2 ^ 6 ∧ c < 2 ^ 32 ∧ c2 < 2 ^ 16 ∧ decodeCtl code c c2 = some (some i)

/-- A 24-bit offset above eight bits of operand. -/
theorem offset_fields {x : Nat} (hx : x < 256) (off : BitVec 24) :
    BitVec.ofNat 24 (fld (x + off.toNat * 256) 8 24) = off ∧ x + off.toNat * 256 < 2 ^ 32 ∧
      ∀ lo n, lo + n ≤ 8 → fld (x + off.toNat * 256) lo n = fld x lo n := by
  have ho := off.isLt
  have hd : (x + off.toNat * 256) / 2 ^ 8 % 2 ^ 24 = off.toNat := by omega
  refine ⟨by rw [fld, hd, BitVec.ofNat_toNat, BitVec.setWidth_eq], by omega, fun lo n h => ?_⟩
  have : x + off.toNat * 256 = x + 2 ^ lo * (2 ^ n * (2 ^ (8 - lo - n) * off.toNat)) := by
    have h8 : 2 ^ lo * (2 ^ n * 2 ^ (8 - lo - n)) = 256 := by
      rw [← pow_add, ← pow_add, show lo + (n + (8 - lo - n)) = 8 by omega]; rfl
    calc x + off.toNat * 256 = x + (2 ^ lo * (2 ^ n * 2 ^ (8 - lo - n))) * off.toNat := by rw [h8, Nat.mul_comm]
      _ = _ := by ring
  rw [fld, this, Nat.add_mul_div_left _ _ (by positivity), Nat.add_mul_mod_self_left, fld]

theorem fld_low {x n : Nat} (h : x < 2 ^ n) : fld x 0 n = x := by
  rw [fld, pow_zero, Nat.div_one, Nat.mod_eq_of_lt h]

theorem fld_high {x lo n : Nat} (h : x < 2 ^ lo) : fld x lo n = 0 := by
  rw [fld, Nat.div_eq_of_lt h, Nat.zero_mod]

/-- A control op of a 64-register operand and an offset. -/
theorem ctlCode_reg_off {code : Nat} {f : Fin 64 → BitVec 24 → Instr} (hc : code < 2 ^ 6)
    (hd : ∀ c, decodeCtl code c 0 = (fin? 64 (fld c 0 6)).bind fun r =>
      if (fld c 6 2 == 0) && (0 == 0) then some (some (f r (BitVec.ofNat 24 (fld c 8 24)))) else none)
    (r : Fin 64) (off : BitVec 24) : CtlCode code (r.val + off.toNat * 256) 0 (f r off) := by
  obtain ⟨ho, hb, hf⟩ := offset_fields (x := r.val) (by omega) off
  have hr : r.val < 2 ^ 6 := r.isLt
  exact ⟨hc, hb, by decide, by simp [hd, ho, hf, fld_low hr, fld_high hr, fin?_val]⟩

/-- A control op of one number below `n`. -/
theorem ctlCode_fin {code n : Nat} {f : Fin n → Instr} (hc : code < 2 ^ 6) (hn : n ≤ 2 ^ 32)
    (hd : ∀ c, decodeCtl code c 0 = (fin? n c).bind fun r => if true && (0 == 0) then some (some (f r)) else none)
    (r : Fin n) : CtlCode code r.val 0 (f r) :=
  ⟨hc, r.isLt.trans_le hn, by decide, by simp [hd, fin?_val]⟩

/-- BRP with test code `k`. -/
theorem ctlCode_brp {k : Nat} {t : MaskTest} (p : Fin 8) (off : BitVec 24) (hk : k < 3)
    (hd : ∀ c, fld c 3 2 = k → decodeCtl 0x04 c 0 = (fin? 8 (fld c 0 3)).bind fun p =>
      if (fld c 5 3 == 0) && (0 == 0) then some (some (.brp p t (BitVec.ofNat 24 (fld c 8 24)))) else none) :
    CtlCode 0x04 (p.val + 8 * k + off.toNat * 256) 0 (.brp p t off) := by
  obtain ⟨ho, hb, hf⟩ := offset_fields (x := p.val + 8 * k) (by omega) off
  have hx : fld (p.val + 8 * k) 0 3 = p.val ∧ fld (p.val + 8 * k) 3 2 = k ∧ fld (p.val + 8 * k) 5 3 = 0 := by
    simp only [fld]; omega
  obtain ⟨h0, h3, h5⟩ := hx
  refine ⟨by decide, hb, by decide, ?_⟩
  rw [hd _ ((hf 3 2 (by decide)).trans h3)]
  simp [ho, hf, h0, h5, fin?_val]

theorem decodeCtl_encodeCtl {i : Instr} (hp : i.place = .control) (hw : i.wf = true) :
    CtlCode (encodeCtl i).1 (encodeCtl i).2.1 (encodeCtl i).2.2 i := by
  revert hw
  refine controlCases (motive := fun i => i.wf = true → CtlCode (encodeCtl i).1 (encodeCtl i).2.1 (encodeCtl i).2.2 i)
    ?br ?brz ?brnz ?brp ?brqe ?loop ?call ?ret ?jmpi ?rdv ?exit ?yield ?join ?leave ?gbar ?waits ?waitb ?trap ?eret ?npre
    ?xpre hp
  case ret | rdv | exit | yield | eret | xpre => exact fun _ => ⟨by decide, by decide, by decide, rfl⟩
  case br =>
    intro off _
    change CtlCode 0x01 off.toNat 0 _
    exact ⟨by decide, off.isLt, by decide, by simp [decodeCtl]⟩
  case call =>
    intro off _
    change CtlCode 0x06 off.toNat 0 _
    exact ⟨by decide, off.isLt, by decide, by simp [decodeCtl]⟩
  case brz => exact fun r off _ => ctlCode_reg_off (code := 0x02) (by decide) (fun _ => rfl) r off
  case brnz => exact fun r off _ => ctlCode_reg_off (code := 0x03) (by decide) (fun _ => rfl) r off
  case brp =>
    intro p t off _
    cases t
    case any => exact ctlCode_brp (k := 0) (t := .any) p off (by decide) fun c hk => by simp [decodeCtl, hk]
    case all => exact ctlCode_brp (k := 1) (t := .all) p off (by decide) fun c hk => by simp [decodeCtl, hk]
    case none => exact ctlCode_brp (k := 2) (t := .none) p off (by decide) fun c hk => by simp [decodeCtl, hk]
  case brqe =>
    intro q off _
    cases q
    case qlx =>
      change CtlCode 0x15 (0 + off.toNat * 256) 0 _
      obtain ⟨ho, hb, hf⟩ := offset_fields (x := 0) (by decide) off
      have h0 : fld (0 + off.toNat * 256) 0 1 = 0 := hf 0 1 (by decide)
      have h1 : fld (0 + off.toNat * 256) 1 7 = 0 := hf 1 7 (by decide)
      exact ⟨by decide, hb, by decide, by simp only [decodeCtl, ho, h0, h1]; rfl⟩
    case qxs =>
      change CtlCode 0x15 (1 + off.toNat * 256) 0 _
      obtain ⟨ho, hb, hf⟩ := offset_fields (x := 1) (by decide) off
      have h0 : fld (1 + off.toNat * 256) 0 1 = 1 := hf 0 1 (by decide)
      have h1 : fld (1 + off.toNat * 256) 1 7 = 0 := hf 1 7 (by decide)
      exact ⟨by decide, hb, by decide, by simp only [decodeCtl, ho, h0, h1]; rfl⟩
  case loop =>
    intro n last hw
    have h0 : last ≠ 0 := by
      rintro rfl
      cases n <;> cases hw
    have h0' : last.toNat ≠ 0 := fun h => h0 (BitVec.eq_of_toNat_eq h)
    cases n with
    | imm n =>
      change CtlCode 0x05 (n.toNat * 256) last.toNat _
      obtain ⟨hn, hb, hf⟩ := offset_fields (x := 0) (by decide) n
      rw [Nat.zero_add] at hn hb hf
      have h7 : bitAt (n.toNat * 256) 7 = false := by rw [bitAt_eq_fld, hf 7 1 (by decide)]; rfl
      have h6 : bitAt (n.toNat * 256) 6 = false := by rw [bitAt_eq_fld, hf 6 1 (by decide)]; rfl
      have hl : fld (n.toNat * 256) 0 6 = 0 := hf 0 6 (by decide)
      exact ⟨by decide, hb, last.isLt, by simp [decodeCtl, h0', h7, h6, hl, hn]⟩
    | reg r =>
      change CtlCode 0x05 (r.val + 64) last.toNat _
      have hr := r.isLt
      have hf : fld (r.val + 64) 0 6 = r.val ∧ fld (r.val + 64) 6 1 = 1 ∧ fld (r.val + 64) 7 1 = 0 ∧
          fld (r.val + 64) 8 24 = 0 := by simp only [fld]; omega
      obtain ⟨hl, h6, h7, hh⟩ := hf
      exact ⟨by decide, by omega, last.isLt, by simp [decodeCtl, h0', bitAt_eq_fld, h7, h6, hl, hh, fin?_val]⟩
  case jmpi =>
    intro r _
    cases r with
    | s r =>
      change CtlCode 0x08 r.val 0 _
      have hr : r.val < 2 ^ 7 := by omega
      exact ⟨by decide, by omega, by decide, by simp [decodeCtl, fld_low hr, fld_high hr]⟩
    | a r =>
      change CtlCode 0x08 (64 + r.val) 0 _
      have hr : 64 + r.val < 2 ^ 7 := by omega
      exact ⟨by decide, by omega, by decide, by simp [decodeCtl, fld_low hr, fld_high hr, fin?_val]⟩
  case join => exact fun g _ => ctlCode_fin (code := 0x0C) (by decide) (by decide) (fun _ => rfl) g
  case leave => exact fun g _ => ctlCode_fin (code := 0x0D) (by decide) (by decide) (fun _ => rfl) g
  case gbar => exact fun g _ => ctlCode_fin (code := 0x0E) (by decide) (by decide) (fun _ => rfl) g
  case waits => exact fun g _ => ctlCode_fin (code := 0x0F) (by decide) (by decide) (fun _ => rfl) g
  case waitb => exact fun g _ => ctlCode_fin (code := 0x10) (by decide) (by decide) (fun _ => rfl) g
  case trap =>
    intro n _
    change CtlCode 0x11 n.toNat 0 _
    exact ⟨by decide, by omega, by decide, by simp [decodeCtl, fld_high n.isLt]⟩
  case npre =>
    intro n _
    change CtlCode 0x13 n.toNat 0 _
    exact ⟨by decide, by omega, by decide, by simp [decodeCtl, fld_high n.isLt]⟩

/-- The parts of the control op of a bundle. -/
def ctlParts : Option Instr → Nat × Nat × Nat
  | none => (0, 0, 0)
  | some i => encodeCtl i

/-- A subfield that must be zero, and a second operand that is zero. -/
theorem guarded_eq_some {b : Bool} {c2 : Nat} {i : Instr} {o : Option Instr} :
    (if (b && c2 == 0) = true then some (some i) else none) = some o ↔ b = true ∧ c2 = 0 ∧ o = some i := by
  rw [Option.ite_none_right_eq_some, Bool.and_eq_true, beq_iff_eq, Option.some.injEq, and_assoc, eq_comm (b := o)]

/-- An operand is its low byte with its offset above. -/
theorem offset_split {c : Nat} (hc : c < 2 ^ 32) : c % 256 + (BitVec.ofNat 24 (fld c 8 24)).toNat * 256 = c := by
  rw [BitVec.toNat_ofNat, Nat.mod_eq_of_lt (fld_lt c 8 24), fld]
  omega

theorem encodeCtl_of_decodeCtl {code c c2 : Nat} {o : Option Instr} (hc : c < 2 ^ 32) (hc2 : c2 < 2 ^ 16)
    (h : decodeCtl code c c2 = some o) : ctlParts o = (code, c, c2) := by
  have hoff := offset_split hc
  unfold decodeCtl at h
  dsimp only at h
  split at h
  all_goals try simp only [guarded_eq_some, Option.bind_eq_some_iff, fin?_eq_some, beq_iff_eq] at h
  case h_1 =>
    obtain ⟨⟨rfl, rfl⟩, h⟩ := Option.ite_none_right_eq_some.1 h
    cases h; rfl
  case h_2 =>
    obtain ⟨-, rfl, rfl⟩ := h
    change (0x01, (BitVec.ofNat 32 c).toNat, 0) = _
    rw [BitVec.toNat_ofNat, Nat.mod_eq_of_lt hc]
  case h_7 =>
    obtain ⟨-, rfl, rfl⟩ := h
    change (0x06, (BitVec.ofNat 32 c).toNat, 0) = _
    rw [BitVec.toNat_ofNat, Nat.mod_eq_of_lt hc]
  case h_3 =>
    obtain ⟨r, hr, hz, rfl, rfl⟩ := h
    change (0x02, r.val + (BitVec.ofNat 24 (fld c 8 24)).toNat * 256, 0) = _
    rw [show r.val = c % 256 by simp only [fld] at hr hz; omega, hoff]
  case h_4 =>
    obtain ⟨r, hr, hz, rfl, rfl⟩ := h
    change (0x03, r.val + (BitVec.ofNat 24 (fld c 8 24)).toNat * 256, 0) = _
    rw [show r.val = c % 256 by simp only [fld] at hr hz; omega, hoff]
  case h_5 =>
    obtain ⟨p, hp, h⟩ := h
    split at h
    all_goals try rw [guarded_eq_some, beq_iff_eq] at h
    case h_1 hk =>
      obtain ⟨hz, rfl, rfl⟩ := h
      change (0x04, p.val + 0 + (BitVec.ofNat 24 (fld c 8 24)).toNat * 256, 0) = _
      rw [show p.val + 0 = c % 256 by simp only [fld] at hp hz hk; omega, hoff]
    case h_2 hk =>
      obtain ⟨hz, rfl, rfl⟩ := h
      change (0x04, p.val + 8 + (BitVec.ofNat 24 (fld c 8 24)).toNat * 256, 0) = _
      rw [show p.val + 8 = c % 256 by simp only [fld] at hp hz hk; omega, hoff]
    case h_3 hk =>
      obtain ⟨hz, rfl, rfl⟩ := h
      change (0x04, p.val + 16 + (BitVec.ofNat 24 (fld c 8 24)).toNat * 256, 0) = _
      rw [show p.val + 16 = c % 256 by simp only [fld] at hp hz hk; omega, hoff]
    case h_4 => cases h
  case h_6 =>
    have hlast : (BitVec.ofNat 16 c2).toNat = c2 := by rw [BitVec.toNat_ofNat, Nat.mod_eq_of_lt hc2]
    obtain ⟨-, h⟩ := Option.ite_none_left_eq_some.1 h
    obtain ⟨h7, h⟩ := Option.ite_none_left_eq_some.1 h
    split at h
    case isTrue h6 =>
      obtain ⟨r, hr, h⟩ := Option.bind_eq_some_iff.1 h
      obtain ⟨hz, h⟩ := Option.ite_none_right_eq_some.1 h
      cases h
      change (0x05, r.val + 64, (BitVec.ofNat 16 c2).toNat) = _
      rw [hlast, show r.val + 64 = c by
        rw [fin?_eq_some] at hr
        simp only [bitAt_eq_fld, fld, beq_iff_eq] at hr h7 h6 hz
        omega]
    case isFalse h6 =>
      obtain ⟨hl, h⟩ := Option.ite_none_right_eq_some.1 h
      cases h
      change (0x05, (BitVec.ofNat 24 (fld c 8 24)).toNat * 256, (BitVec.ofNat 16 c2).toNat) = _
      rw [hlast, show (BitVec.ofNat 24 (fld c 8 24)).toNat * 256 = c by
        simp only [bitAt_eq_fld, fld, beq_iff_eq] at h7 h6 hl
        omega]
  case h_8 | h_10 | h_11 | h_12 | h_19 | h_21 =>
    obtain ⟨rfl, rfl, rfl⟩ := h
    rfl
  case h_9 =>
    split at h
    case isTrue hr =>
      rw [guarded_eq_some, beq_iff_eq] at h
      obtain ⟨hz, rfl, rfl⟩ := h
      change (0x08, fld c 0 7, 0) = _
      rw [show fld c 0 7 = c by simp only [fld] at hz ⊢; omega]
    case isFalse hr =>
      obtain ⟨a, ha, h⟩ := Option.bind_eq_some_iff.1 h
      rw [guarded_eq_some, beq_iff_eq] at h
      obtain ⟨hz, rfl, rfl⟩ := h
      change (0x08, 64 + a.val, 0) = _
      rw [show 64 + a.val = c by
        rw [fin?_eq_some] at ha
        simp only [fld] at ha hr hz
        omega]
  case h_13 | h_14 | h_15 | h_16 | h_17 =>
    obtain ⟨r, rfl, -, rfl, rfl⟩ := h
    rfl
  case h_18 =>
    obtain ⟨hz, rfl, rfl⟩ := h
    change (0x11, (BitVec.ofNat 16 c).toNat, 0) = _
    rw [BitVec.toNat_ofNat, Nat.mod_eq_of_lt (by simp only [fld] at hz; omega)]
  case h_20 =>
    obtain ⟨hz, rfl, rfl⟩ := h
    change (0x13, (BitVec.ofNat 8 c).toNat, 0) = _
    rw [BitVec.toNat_ofNat, Nat.mod_eq_of_lt (by simp only [fld] at hz; omega)]
  case h_22 =>
    obtain ⟨hz, rfl, rfl⟩ := h
    by_cases hq : fld c 0 1 = 0
    · rw [if_pos hq]
      change (0x15, 0 + (BitVec.ofNat 24 (fld c 8 24)).toNat * 256, 0) = _
      rw [show 0 = c % 256 by simp only [fld] at hq hz; omega, hoff]
    · rw [if_neg hq]
      change (0x15, 1 + (BitVec.ofNat 24 (fld c 8 24)).toNat * 256, 0) = _
      rw [show 1 = c % 256 by simp only [fld] at hq hz; omega, hoff]
  case h_23 => cases h

/-! ### Address ops (02 R41) -/

/-- Code, register fields and operand fit their fields and decode to `i`. -/
def AdrCode (code ra rm v : Nat) (i : Instr) : Prop :=
  code < 2 ^ 4 ∧ ra < 2 ^ 4 ∧ rm < 2 ^ 4 ∧ v < 2 ^ 32 ∧ decodeAdr code ra rm v = some (some i)

theorem decodeAdr_encodeAdr {i : Instr} (hp : i.place = .address) :
    AdrCode (encodeAdr i).1 (encodeAdr i).2.1 (encodeAdr i).2.2.1 (encodeAdr i).2.2.2 i := by
  refine addressCases (motive := fun i => AdrCode (encodeAdr i).1 (encodeAdr i).2.1 (encodeAdr i).2.2.1
    (encodeAdr i).2.2.2 i) ?ainc ?amod ?abrv ?acir ?aset ?mset hp
  case ainc =>
    intro a v
    change AdrCode 1 a.val 0 v.toNat _
    exact ⟨by decide, a.isLt, by decide, v.isLt, by simp [decodeAdr, fin?]⟩
  case amod =>
    intro a m
    change AdrCode 2 a.val m.val 0 _
    exact ⟨by decide, a.isLt, m.isLt, by decide, by simp [decodeAdr, fin?_val]⟩
  case abrv =>
    intro a m
    change AdrCode 3 a.val m.val 0 _
    exact ⟨by decide, a.isLt, m.isLt, by decide, by simp [decodeAdr, fin?_val]⟩
  case acir =>
    intro a m
    change AdrCode 4 a.val m.val 0 _
    exact ⟨by decide, a.isLt, m.isLt, by decide, by simp [decodeAdr, fin?_val]⟩
  case aset =>
    intro a hi lo
    change AdrCode 5 a.val hi.toNat lo.toNat _
    exact ⟨by decide, a.isLt, hi.isLt, lo.isLt, by simp [decodeAdr, fin?, hi.isLt]⟩
  case mset =>
    intro p m v
    change AdrCode 6 p.val m.val v.toNat _
    have hp : p.val < 16 := by omega
    exact ⟨by decide, hp, m.isLt, v.isLt, by simp [decodeAdr, fin?, hp]⟩

/-- The parts of the address op of a bundle. -/
def adrParts : Option Instr → Nat × Nat × Nat × Nat
  | none => (0, 0, 0, 0)
  | some i => encodeAdr i

theorem encodeAdr_of_decodeAdr {code ra rm v : Nat} {o : Option Instr} (hv : v < 2 ^ 32)
    (h : decodeAdr code ra rm v = some o) : adrParts o = (code, ra, rm, v) := by
  unfold decodeAdr at h
  split at h
  case h_2 => cases h
  case h_1 a m ha hm =>
    rw [fin?_eq_some] at ha hm
    have hlo : (BitVec.ofNat 32 v).toNat = v := by rw [BitVec.toNat_ofNat, Nat.mod_eq_of_lt hv]
    split at h
    case h_1 =>
      obtain ⟨⟨rfl, rfl, rfl⟩, h⟩ := Option.ite_none_right_eq_some.1 h
      cases h; rfl
    case h_2 =>
      obtain ⟨rfl, h⟩ := Option.ite_none_right_eq_some.1 h
      cases h
      change (1, a.val, 0, (BitVec.ofNat 32 v).toNat) = _
      rw [ha, hlo]
    case h_3 | h_4 | h_5 =>
      obtain ⟨rfl, h⟩ := Option.ite_none_right_eq_some.1 h
      cases h
      rw [← ha, ← hm]; rfl
    case h_6 =>
      cases h
      change (5, a.val, (BitVec.ofNat 4 rm).toNat, (BitVec.ofNat 32 v).toNat) = _
      rw [ha, hlo, BitVec.toNat_ofNat, Nat.mod_eq_of_lt (by omega)]
    case h_7 =>
      obtain ⟨p, hp, h⟩ := Option.map_eq_some_iff.1 h
      cases h
      change (6, p.val, m.val, (BitVec.ofNat 32 v).toNat) = _
      rw [fin?_eq_some.1 hp, hm, hlo]
    case h_8 => cases h

/-! ### Bundles (02 R33) -/

/-- A control field that is empty or holds a well-formed control op fits and decodes to it. -/
theorem decodeCtl_ctlParts {o : Option Instr} (h : ∀ i ∈ o, i.place = .control ∧ i.wf = true) :
    (ctlParts o).1 < 2 ^ 6 ∧ (ctlParts o).2.1 < 2 ^ 32 ∧ (ctlParts o).2.2 < 2 ^ 16 ∧
      decodeCtl (ctlParts o).1 (ctlParts o).2.1 (ctlParts o).2.2 = some o := by
  cases o with
  | none => exact ⟨by decide, by decide, by decide, rfl⟩
  | some i => exact decodeCtl_encodeCtl (h i rfl).1 (h i rfl).2

theorem decodeAdr_adrParts {o : Option Instr} (h : ∀ i ∈ o, i.place = .address ∧ i.wf = true) :
    (adrParts o).1 < 2 ^ 4 ∧ (adrParts o).2.1 < 2 ^ 4 ∧ (adrParts o).2.2.1 < 2 ^ 4 ∧ (adrParts o).2.2.2 < 2 ^ 32 ∧
      decodeAdr (adrParts o).1 (adrParts o).2.1 (adrParts o).2.2.1 (adrParts o).2.2.2 = some o := by
  cases o with
  | none => exact ⟨by decide, by decide, by decide, by decide, rfl⟩
  | some i => exact decodeAdr_encodeAdr (h i rfl).1

/-- What a slot may hold: nothing, or a well-formed slot op that is no producer form of CBWT. -/
def SlotHolds (i : Instr) : Prop :=
  i = .nop ∨ (i.wf = true ∧ (slotCode i).isSome = true ∧ ∀ o, i ≠ .cbwtProducer o)

theorem SlotHolds.decode {i : Instr} (h : SlotHolds i) : decodeSlot (encodeSlot i) = some i := by
  rcases h with rfl | ⟨hw, hs, hp⟩
  · rfl
  · obtain ⟨⟨c, o⟩, hs⟩ := Option.isSome_iff_exists.1 hs
    exact decodeSlot_encodeSlot hs hw hp

/-- The fields of a bundle, lowest first; reserved fields hold 0 (02 R33 to R35). -/
def bundleParts (b : Bundle) : List (Nat × Nat) :=
  [(1, bitNat b.popL), (1, bitNat b.popR), (1, bitNat b.pushL), (1, bitNat b.pushR), (4, 0),
    (6, (ctlParts b.ctl).1), (2, 0), (32, (ctlParts b.ctl).2.1),
    (4, (adrParts b.adr).1), (4, (adrParts b.adr).2.1), (4, (adrParts b.adr).2.2.1), (4, 0), (32, (adrParts b.adr).2.2.2),
    (16, (ctlParts b.ctl).2.2), (16, 0), (128, encodeSlot b.s1), (128, encodeSlot b.s2), (128, encodeSlot b.s3)]

theorem encodeBundle_eq (b : Bundle) : encodeBundle b = packFields (bundleParts b) := by
  have hb : encodeBundle b = bitNat b.popL + bitNat b.popR * 2 + bitNat b.pushL * 4 + bitNat b.pushR * 8
      + (ctlParts b.ctl).1 * 2 ^ 8 + (ctlParts b.ctl).2.1 * 2 ^ 16
      + (adrParts b.adr).1 * 2 ^ 48 + (adrParts b.adr).2.1 * 2 ^ 52 + (adrParts b.adr).2.2.1 * 2 ^ 56
      + (adrParts b.adr).2.2.2 * 2 ^ 64 + (ctlParts b.ctl).2.2 * 2 ^ 96
      + encodeSlot b.s1 * 2 ^ 128 + encodeSlot b.s2 * 2 ^ 256 + encodeSlot b.s3 * 2 ^ 384 := by
    obtain ⟨pl, pr, ul, ur, ctl, adr, s1, s2, s3⟩ := b
    cases ctl <;> cases adr <;> rfl
  have h384 : (2 : Nat) ^ 384 = 2 ^ 256 * 2 ^ 128 := by rw [← pow_add]
  rw [hb, h384]
  simp only [bundleParts, packFields]
  ring

theorem bundleParts_fit {b : Bundle} (hc : ∀ i ∈ b.ctl, i.place = .control ∧ i.wf = true)
    (ha : ∀ i ∈ b.adr, i.place = .address ∧ i.wf = true) : FieldsFit (bundleParts b) := by
  obtain ⟨c0, c1, c2, -⟩ := decodeCtl_ctlParts hc
  obtain ⟨a0, a1, a2, a3, -⟩ := decodeAdr_adrParts ha
  simp only [bundleParts, fieldsFit_cons]
  exact ⟨bitNat_lt _, bitNat_lt _, bitNat_lt _, bitNat_lt _, by decide, c0, by decide, c1, a0, a1, a2, by decide, a3, c2,
    by decide, encodeSlot_lt _, encodeSlot_lt _, encodeSlot_lt _, fieldsFit_nil⟩

/-- The widths of a bundle's fields. -/
def bundleWidths : List Nat := [1, 1, 1, 1, 4, 6, 2, 32, 4, 4, 4, 4, 32, 16, 16, 128, 128, 128]

theorem bundleWidths_sum : bundleWidths.sum = 512 := by simp [bundleWidths]

/-- The fields of a bundle as the decoder reads them. -/
theorem wordFields_bundle (w : Nat) : wordFields bundleWidths w =
    [fld w 0 1, fld w 1 1, fld w 2 1, fld w 3 1, fld w 4 4, fld w 8 6, fld w 14 2, fld w 16 32, fld w 48 4, fld w 52 4,
      fld w 56 4, fld w 60 4, fld w 64 32, fld w 96 16, fld w 112 16, fld w 128 128, fld w 256 128, fld w 384 128] := by
  simp only [bundleWidths, wordFields, fld, Nat.div_div_eq_div_mul, ← pow_add, pow_zero, Nat.div_one, Nat.reduceAdd]

theorem encodeBundle_lt {b : Bundle} (hc : ∀ i ∈ b.ctl, i.place = .control ∧ i.wf = true)
    (ha : ∀ i ∈ b.adr, i.place = .address ∧ i.wf = true) : encodeBundle b < 2 ^ 512 := by
  have hsum : ((bundleParts b).map Prod.fst).sum = 512 := by simp [bundleParts]
  have hlt := packFields_lt (bundleParts_fit hc ha)
  rwa [hsum, ← encodeBundle_eq] at hlt

/-- A word decodes to a bundle when each of its fields decodes to the bundle's. -/
theorem decodeBundle_eq_ok_iff {w : Nat} {b : Bundle} : decodeBundle w = .ok b ↔
    fld w 4 4 = 0 ∧ controlField w = some b.ctl ∧ addressField w = some b.adr ∧ slotField w 1 = some b.s1 ∧
      slotField w 2 = some b.s2 ∧ slotField w 3 = some b.s3 ∧ bitAt w 0 = b.popL ∧ bitAt w 1 = b.popR ∧
      bitAt w 2 = b.pushL ∧ bitAt w 3 = b.pushR := by
  constructor
  · intro h
    unfold decodeBundle at h
    split at h
    · cases h
    next htok =>
    split at h
    · cases h
    next hc =>
    split at h
    · cases h
    next ha =>
    split at h
    · cases h
    next h1 =>
    split at h
    · cases h
    next h2 =>
    split at h
    · cases h
    next h3 =>
    cases h
    exact ⟨not_not.1 htok, hc, ha, h1, h2, h3, rfl, rfl, rfl, rfl⟩
  · rintro ⟨htok, hc, ha, h1, h2, h3, hpl, hpr, hul, hur⟩
    simp only [decodeBundle, htok, hc, ha, h1, h2, h3, hpl, hpr, hul, hur, ne_eq, not_true_eq_false, if_false]

theorem decodeBundle_encodeBundle {b : Bundle} (hc : ∀ i ∈ b.ctl, i.place = .control ∧ i.wf = true)
    (ha : ∀ i ∈ b.adr, i.place = .address ∧ i.wf = true) (hs : ∀ i ∈ [b.s1, b.s2, b.s3], SlotHolds i) :
    decodeBundle (encodeBundle b) = .ok b := by
  have hwd : (bundleParts b).map Prod.fst = bundleWidths := by simp [bundleParts, bundleWidths]
  have hf := wordFields_packFields (bundleParts_fit hc ha)
  rw [← encodeBundle_eq, hwd, wordFields_bundle] at hf
  simp only [bundleParts, List.map_cons, List.map_nil, List.cons.injEq, and_true] at hf
  obtain ⟨hpl, hpr, hul, hur, htok, hcc, hz1, hc1, hac, har, ham, hz2, hav, hc2, hz3, h1, h2, h3⟩ := hf
  obtain ⟨-, -, -, hctl⟩ := decodeCtl_ctlParts hc
  obtain ⟨-, -, -, -, hadr⟩ := decodeAdr_adrParts ha
  have hS : ∀ i ∈ [b.s1, b.s2, b.s3], decodeSlot (encodeSlot i) = some i := fun i hi => (hs i hi).decode
  have hcf : controlField (encodeBundle b) = some b.ctl := by simp [controlField, hz1, hz3, hcc, hc1, hc2, hctl]
  have haf : addressField (encodeBundle b) = some b.adr := by simp [addressField, hz2, hac, har, ham, hav, hadr]
  have hs1 : slotField (encodeBundle b) 1 = some b.s1 := by simp [slotField, h1, hS]
  have hs2 : slotField (encodeBundle b) 2 = some b.s2 := by simp [slotField, h2, hS]
  have hs3 : slotField (encodeBundle b) 3 = some b.s3 := by simp [slotField, h3, hS]
  exact decodeBundle_eq_ok_iff.2 ⟨htok, hcf, haf, hs1, hs2, hs3, bitAt_of_fld hpl, bitAt_of_fld hpr, bitAt_of_fld hul,
    bitAt_of_fld hur⟩

theorem encodeBundle_of_decodeBundle {w : Nat} {b : Bundle} (hw : w < 2 ^ 512) (h : decodeBundle w = .ok b) :
    encodeBundle b = w := by
  obtain ⟨htok, hc, ha, h1, h2, h3, hpl, hpr, hul, hur⟩ := decodeBundle_eq_ok_iff.1 h
  unfold controlField at hc
  obtain ⟨hcz, hc⟩ := Option.ite_none_left_eq_some.1 hc
  obtain ⟨hz1, hz3⟩ := not_or.1 hcz
  unfold addressField at ha
  obtain ⟨hz2, ha⟩ := Option.ite_none_left_eq_some.1 ha
  have hpack := packFields_wordFields bundleWidths w
  rw [wordFields_bundle, bundleWidths_sum, Nat.mod_eq_of_lt hw] at hpack
  rw [encodeBundle_eq, bundleParts, encodeCtl_of_decodeCtl (fld_lt w 16 32) (fld_lt w 96 16) hc,
    encodeAdr_of_decodeAdr (fld_lt w 64 32) ha, encodeSlot_of_decodeSlot (fld_lt w _ 128) h1,
    encodeSlot_of_decodeSlot (fld_lt w _ 128) h2, encodeSlot_of_decodeSlot (fld_lt w _ 128) h3,
    ← hpl, ← hpr, ← hul, ← hur]
  simp only [bitNat_bitAt]
  rw [not_not.1 hz1, not_not.1 hz2, not_not.1 hz3, htok] at hpack
  exact hpack

/-- Settles O57: a word is packed of its fields, and each field's code is inverted by its decoder, case by case of the tables.
-/
theorem decodeInvertsEncode : Obligations.DecodeInvertsEncode := by
  refine ⟨fun b hc ha hs => ⟨encodeBundle_lt hc ha, decodeBundle_encodeBundle hc ha hs⟩,
    fun w b => encodeBundle_of_decodeBundle, fun i hi => ?_, fun w i => encodeRec_of_decodeRec⟩
  obtain ⟨⟨c, r⟩, h⟩ := Option.isSome_iff_exists.1 hi
  exact ⟨encodeRec_lt h, decodeRec_encodeRec h⟩

end Sys2Proof
end

section
/-! SUPPORT. NOP, EXIT, YIELD and the non-preemptible regions (11 R306 to R308, R324). -/

namespace Sys2Proof.Machine

/-! ### What each op makes of the state -/

theorem exec_nop (s : State) : exec .nop s = .next s := rfl
theorem exec_exit (s : State) : exec .exit s = .next (s.modStrm fun x => { x with status := .exited }) := rfl

/-- YIELD of a job whose node runs decides CHECKPOINT when a higher KERN node waits and no region is open, and otherwise
changes nothing; without such a node it changes nothing (R308). -/
theorem exec_yield (s : State) : exec .yield s = .next (match jobNode s.src s.cur.die s.cur.core with
    | some (i, n) =>
      match n.st with
      | .running _ _ pr =>
        if higherWaits s.src s.cur.die s.cur.core pr && !regionOpen s.src n then
          s.modM fun m => decideNode m i.ctx i.graph n (.checkpoint none)
        else s
      | _ => s
    | none => s) := rfl

theorem exec_yield_decides {s : State} {i : Instance} {n : NodeRun} {cs c pr}
    (hj : jobNode s.src s.cur.die s.cur.core = some (i, n)) (hn : n.st = .running cs c pr)
    (hw : higherWaits s.src s.cur.die s.cur.core pr = true) (hr : regionOpen s.src n = false) :
    exec .yield s = .next { s with m := decideNode s.m i.ctx i.graph n (.checkpoint none) } := by
  simp only [exec_yield, hj, hn, hw, hr]
  rfl

theorem exec_yield_nothing {s : State}
    (h : ∀ i n cs c pr, jobNode s.src s.cur.die s.cur.core = some (i, n) → n.st = .running cs c pr →
      higherWaits s.src s.cur.die s.cur.core pr = false ∨ regionOpen s.src n = true) : exec .yield s = .next s := by
  rw [exec_yield]
  cases hj : jobNode s.src s.cur.die s.cur.core with
  | none => rfl
  | some e =>
    obtain ⟨i, n⟩ := e
    dsimp only
    split
    case h_1 cs c pr hn => rcases h i n cs c pr hj hn with h | h <;> simp [h]
    case h_2 => rfl

/-- NPRE with no region open and no action held opens one for 2,000 cycles a microsecond (R324). -/
theorem exec_npre_opens {s : State} {us : BitVec 8} (hr : s.srcCore.region = none)
    (ha : actionHeld s.src s.cur.die s.cur.core = false) : exec (.npre us) s = .next (s.modCore fun c =>
      { c with region := some ((s.src.die s.cur.die).cyc + BitVec.ofNat 64 (2000 * us.toNat)) }) := by
  show execNpre us s = _
  simp only [execNpre, hr, ha, Option.isSome_none]
  rfl

/-- NPRE within a region is ILLEGAL (R324). -/
theorem exec_npre_again {s : State} {us : BitVec 8} (hr : s.srcCore.region ≠ none) :
    Raises (.npre us) s { code := 1, place := 1 } := by
  show execNpre us s = _
  rw [execNpre, if_pos (Option.isSome_iff_ne_none.2 hr)]
  rfl

/-- XPRE closes the region and takes an action that has waited for it (R324). -/
theorem exec_xpre {s : State} {m : Module} (h : closeRegion s.m s.cur.die s.cur.core = m) :
    exec .xpre s = .next { s with m := m } := by
  rw [← h]; rfl

/-! ### Closing a region (R324) -/

theorem regionOpen_iff {m : Module} {n : NodeRun} :
    regionOpen m n = true ↔ ∃ c ∈ n.cores, (m.core n.die c).region ≠ none := by
  simp only [regionOpen, List.any_eq_true, Option.isSome_iff_ne_none]

theorem closeRegion_none {m : Module} {d : Fin 16} {c : Fin 128} (h : jobNode m d c = none) :
    closeRegion m d c = m.modCore d c fun x => { x with region := none } := by
  rw [closeRegion, h]

theorem closeRegion_some {m : Module} {d : Fin 16} {c : Fin 128} {i : Instance} {n : NodeRun}
    (h : jobNode m d c = some (i, n)) :
    closeRegion m d c = releaseAction (m.modCore d c fun x => { x with region := none }) i n := by
  rw [closeRegion, h]

/-- An action that is not held back, or that a region still holds back, is left. -/
theorem releaseAction_held {m : Module} {i : Instance} {n : NodeRun} (h : n.heldBack = false ∨ regionOpen m n = true) :
    releaseAction m i n = m := by
  rcases h with h | h <;> simp [releaseAction, h]

theorem releaseAction_kill {m : Module} {i : Instance} {n : NodeRun} (hb : n.heldBack = true) (ho : regionOpen m n = false)
    (hd : n.decision = .kill) : releaseAction m i n = killNode m i.ctx i.graph n := by
  simp [releaseAction, hb, ho, hd]

theorem releaseAction_checkpoint {m : Module} {i : Instance} {n : NodeRun} (hb : n.heldBack = true)
    (ho : regionOpen m n = false) (hd : n.decision ≠ .kill) :
    releaseAction m i n = modNode (chooseCheckpoint m n) i.ctx i.graph n.node fun x => { x with heldBack := false } := by
  rw [releaseAction, hb, ho, if_pos (by rfl)]
  split
  case h_1 h => exact absurd h hd
  case h_2 => rfl

/-- Settles O4: NOP, EXIT and NPRE by their equations, YIELD by the state of the job's node, XPRE by what closing the region
releases. -/
theorem jobControlTakesEffect : Obligations.JobControlTakesEffect := by
  refine ⟨fun s hv => ⟨⟨exec_nop s, hv⟩, ⟨_, ⟨exec_exit s, hv⟩, OnlyStream.modStrm s _, rfl, State.strm_modStrm s _⟩,
    fun h => ⟨exec_yield_nothing h, hv⟩, fun i n cs c pr hj hn hw hr => ⟨exec_yield_decides hj hn hw hr, hv⟩⟩,
    fun s us hv => ⟨fun hr ha => ⟨_, ⟨exec_npre_opens hr ha, hv⟩, OnlyCore.modCore s _, State.core_modCore s _⟩,
      exec_npre_again, fun hj => ⟨exec_xpre (closeRegion_none hj), hv⟩, fun i n hj => ⟨fun h => ?held, ?kill, ?checkpoint⟩⟩⟩
  case held => exact ⟨exec_xpre ((closeRegion_some hj).trans (releaseAction_held (h.imp_right regionOpen_iff.2))), hv⟩
  case kill =>
    intro hb ho hd
    have hc := Bool.eq_false_iff.2 fun h => ho (regionOpen_iff.1 h)
    exact ⟨exec_xpre ((closeRegion_some hj).trans (releaseAction_kill hb hc hd)), hv⟩
  case checkpoint =>
    intro hb ho hd
    have hc := Bool.eq_false_iff.2 fun h => ho (regionOpen_iff.1 h)
    exact ⟨exec_xpre ((closeRegion_some hj).trans (releaseAction_checkpoint hb hc hd)), hv⟩

end Sys2Proof.Machine
end

section
/-! SUPPORT. A SETX whose destination is a full queue: the push at its end stands ahead of its own trap (15 R352). -/

namespace Sys2Proof.Machine

/-- A core whose qxs is full and has no ring, while its consumer has exited. -/
def fullQueueCore : Core :=
  { qxs := { entries := List.replicate 8 { size := 0, data := 0 } }, st := { status := .exited } }

/-- The machine with that core, whose X stream is at a bundle. -/
def fullQueueState : State := { m := { cores := [(0, fullQueueCore)] } }

/-- A SETX of uvec to the misaligned address 1 that names qxs as its destination, which no SETX may. -/
def setxToQueue : SlotOp :=
  { dst := .qxs, a := .lit 9, b := .lit 1, c := .tile 0, ty := .i8, pred := 0, opx := 0 }

theorem setxToQueue_not_wf : (Instr.setx setxToQueue).wf = false := by decide

/-- The push raises ILLEGAL, which R352 ranks before the ALIGN of the address. -/
theorem exec_setxToQueue : ∃ y, exec (.setx setxToQueue) fullQueueState = .next (raise y fullQueueState) ∧ y.code = 1 :=
  ⟨_, rfl, rfl⟩

/-- Refutes O44: the statement admits a SETX that is not well formed. One whose destination is the full qxs of an exited
consumer meets ILLEGAL at the push, which comes before the ALIGN that the statement claims for a misaligned uvec. -/
theorem not_specialRegistersReadAndWrite : ¬ Obligations.SpecialRegistersReadAndWrite := by
  intro h
  obtain ⟨-, -, hset⟩ := h
  obtain ⟨-, -, -, -, -, -, halign, -⟩ := hset fullQueueState setxToQueue 9 1 rfl rfl rfl rfl rfl
  obtain ⟨t, y, ht, hy, hcode⟩ := halign rfl (by decide)
  obtain ⟨z, hz, hz1⟩ := exec_setxToQueue
  rw [hz] at ht
  cases ht
  rw [raise_verdict] at hy
  cases hy
  omega

end Sys2Proof.Machine
end

section
/-! SUPPORT. Float patterns and the numbers that they hold; the last place in which an exact quotient is rounded (03 R78 to
R81). -/

namespace Sys2Proof.Machine

/-! ### Bit patterns (03 R78) -/

/-- A number with a sign. -/
def signedQ (neg : Bool) (x : ℚ) : ℚ := if neg then -x else x

theorem signedQ_mul (neg : Bool) (x y : ℚ) : signedQ neg x * y = signedQ neg (x * y) := by
  cases neg <;> simp [signedQ]

theorem abs_signedQ (neg : Bool) (x : ℚ) : |signedQ neg x| = |x| := by
  cases neg <;> simp [signedQ]

theorem abs_signedQ_sub (neg : Bool) (x y : ℚ) : |signedQ neg x - y| = |x - signedQ neg y| := by
  cases neg
  · rfl
  · simp only [signedQ, if_true]
    rw [← abs_neg]; congr 1; ring

/-- The pattern of a sign, an exponent field and a fraction field. -/
def bitsOf (f : FFmt) (neg : Bool) (be fr : Nat) : Nat :=
  packFields [(f.fbits, fr), (f.ebits, be), (1, bitNat neg)]

theorem bitsOf_eq (f : FFmt) (neg : Bool) (be fr : Nat) :
    f.signBit neg + be * 2 ^ f.fbits + fr = bitsOf f neg be fr := by
  cases neg <;> simp only [bitsOf, packFields, bitNat, FFmt.signBit, pow_add] <;> simp <;> ring

section
variable {f : FFmt} {neg : Bool} {be fr : Nat}

theorem bitsOf_fit (hb : be < 2 ^ f.ebits) (hr : fr < 2 ^ f.fbits) :
    FieldsFit [(f.fbits, fr), (f.ebits, be), (1, bitNat neg)] := by
  simp only [fieldsFit_cons]
  exact ⟨hr, hb, bitNat_lt _, fieldsFit_nil⟩

theorem bitsOf_lt (hb : be < 2 ^ f.ebits) (hr : fr < 2 ^ f.fbits) : bitsOf f neg be fr < 2 ^ f.width := by
  have h := packFields_lt (bitsOf_fit (neg := neg) hb hr)
  rwa [show ([(f.fbits, fr), (f.ebits, be), (1, bitNat neg)].map Prod.fst).sum = f.width by
    simp [FFmt.width]; omega] at h

/-- The three fields of a pattern. -/
theorem fields_bitsOf (hb : be < 2 ^ f.ebits) (hr : fr < 2 ^ f.fbits) :
    fld (bitsOf f neg be fr) 0 f.fbits = fr ∧ fld (bitsOf f neg be fr) f.fbits f.ebits = be ∧
      bitAt (bitsOf f neg be fr) (f.ebits + f.fbits) = neg := by
  have h : wordFields [f.fbits, f.ebits, 1] (bitsOf f neg be fr) = [fr, be, bitNat neg] :=
    wordFields_packFields (bitsOf_fit hb hr)
  simp only [wordFields, Nat.div_div_eq_div_mul, ← pow_add, List.cons.injEq, and_true] at h
  obtain ⟨h0, h1, h2⟩ := h
  refine ⟨by rw [fld, pow_zero, Nat.div_one]; exact h0, h1, bitAt_of_fld ?_⟩
  rw [Nat.add_comm f.ebits]; exact h2

theorem bitsOf_parity (hf : 1 ≤ f.fbits) : bitsOf f neg be fr % 2 = fr % 2 := by
  obtain ⟨k, hk⟩ := Nat.exists_eq_add_of_le' hf
  rw [bitsOf, packFields, hk, pow_succ, Nat.mul_comm _ 2, Nat.mul_assoc, Nat.add_mul_mod_self_left]

/-- A subnormal number or zero. -/
theorem unpack_low (he : 1 ≤ f.ebits) (hr : fr < 2 ^ f.fbits) :
    (unpack f (bitsOf f neg 0 fr)).isNan = false ∧ (unpack f (bitsOf f neg 0 fr)).isInf = false ∧
      dyQ (unpack f (bitsOf f neg 0 fr)).dy = signedQ neg (fr * 2 ^ (f.emin - f.fbits)) := by
  obtain ⟨h0, h1, h2⟩ := fields_bitsOf (f := f) (neg := neg) (be := 0) (by positivity) hr
  have h2e : 0 ≠ 2 ^ f.ebits - 1 := by
    have : 2 ^ 1 ≤ 2 ^ f.ebits := Nat.pow_le_pow_right (by omega) he
    omega
  simp only [unpack, h0, h1, h2, if_neg h2e, if_true]
  split
  · next h => subst h; cases neg <;> simp [FVal.isNan, FVal.isInf, FVal.dy, dyQ, Dy.zero, signedQ]
  · cases neg <;> simp [FVal.isNan, FVal.isInf, FVal.dy, dyQ, signedQ]

/-- A normal number. -/
theorem unpack_normal (hb : 1 ≤ be) (hb' : be < 2 ^ f.ebits - 1) (hr : fr < 2 ^ f.fbits) :
    (unpack f (bitsOf f neg be fr)).isNan = false ∧ (unpack f (bitsOf f neg be fr)).isInf = false ∧
      dyQ (unpack f (bitsOf f neg be fr)).dy =
        signedQ neg (((2 ^ f.fbits + fr : Nat) : ℚ) * 2 ^ ((be : Int) - f.bias - f.fbits)) := by
  obtain ⟨h0, h1, h2⟩ := fields_bitsOf (f := f) (neg := neg) (be := be) (by omega) hr
  simp only [unpack, h0, h1, h2, if_neg hb'.ne, if_neg (show be ≠ 0 by omega)]
  refine ⟨rfl, rfl, ?_⟩
  cases neg
  · simp [FVal.dy, dyQ, signedQ]
  · simp only [FVal.dy, dyQ, signedQ, if_true]
    push_cast
    ring
end

/-- A number of a format is a signed multiple, below 2^(fbits + 1), of a power of two no smaller than the least. -/
theorem unpack_number {f : FFmt} {x : Nat} (hn : (unpack f x).isNan = false) (hi : (unpack f x).isInf = false) :
    ∃ (neg : Bool) (a : Nat) (b : Int), a < 2 ^ (f.fbits + 1) ∧ f.emin - f.fbits ≤ b ∧
      dyQ (unpack f x).dy = signedQ neg (a * 2 ^ b) := by
  have hfr := fld_lt x 0 f.fbits
  unfold unpack at hn hi ⊢
  dsimp only at hn hi ⊢
  split at hn
  case isTrue h =>
    split at hn
    · next h0 => simp [h, h0, FVal.isInf] at hi
    · simp [FVal.isNan] at hn
  case isFalse h =>
    rw [if_neg h]
    refine ⟨bitAt x (f.ebits + f.fbits), ?_⟩
    by_cases he : fld x f.fbits f.ebits = 0
    · rw [if_pos he]
      refine ⟨fld x 0 f.fbits, _, by rw [pow_succ]; omega, le_refl _, ?_⟩
      by_cases h0 : fld x 0 f.fbits = 0
      · rw [if_pos h0, h0]
        cases bitAt x (f.ebits + f.fbits) <;> simp [FVal.dy, dyQ, Dy.zero, signedQ]
      · rw [if_neg h0]
        cases bitAt x (f.ebits + f.fbits) <;> simp [FVal.dy, dyQ, signedQ]
    · rw [if_neg he]
      refine ⟨2 ^ f.fbits + fld x 0 f.fbits, (fld x f.fbits f.ebits : Int) - f.bias - f.fbits, by rw [pow_succ]; omega,
        by rw [FFmt.emin]; omega, ?_⟩
      cases bitAt x (f.ebits + f.fbits)
      · simp [FVal.dy, dyQ, signedQ]
      · simp only [FVal.dy, dyQ, signedQ, if_true]
        push_cast
        ring

/-! ### The exponent of the last place (03 R79) -/

/-- The exponent of the leading bit of `num / den`. -/
def leadExp (num den : Nat) : Int :=
  let l : Int := (Nat.log2 num : Int) - Nat.log2 den
  let ge := if 0 ≤ l then decide (den * 2 ^ l.toNat ≤ num) else decide (den ≤ num * 2 ^ (-l).toNat)
  if ge then l else l - 1

/-- The exponent of the last place in which `num / den × 2^e` is rounded. -/
def lastExp (f : FFmt) (num den : Nat) (e : Int) : Int :=
  (if leadExp num den + e < f.emin then f.emin else leadExp num den + e) - f.fbits

/-- `num / den` in units of a last place `k` below its exponent. -/
def scaledNum (num : Nat) (k : Int) : Nat := if 0 ≤ k then num * 2 ^ k.toNat else num
def scaledDen (den : Nat) (k : Int) : Nat := if 0 ≤ k then den else den * 2 ^ (-k).toNat

theorem zpow_toNat {k : Int} (h : 0 ≤ k) : ((2 ^ k.toNat : Nat) : ℚ) = 2 ^ k := by
  rw [Nat.cast_pow, Nat.cast_ofNat, ← zpow_natCast, Int.toNat_of_nonneg h]

theorem scaled_value {num den : Nat} {k : Int} :
    (scaledNum num k : ℚ) / scaledDen den k = num / den * 2 ^ k := by
  unfold scaledNum scaledDen
  split
  · next h => rw [Nat.cast_mul, zpow_toNat h]; ring
  · next h =>
    rw [Nat.cast_mul, zpow_toNat (by omega), zpow_neg]
    field_simp

theorem scaledDen_pos {den : Nat} {k : Int} (h : 0 < den) : 0 < scaledDen den k := by
  unfold scaledDen
  split <;> positivity

/-- The model's comparison of a quotient with a power of two. -/
theorem pow_le_quot_iff {num den : Nat} {l : Int} (hd : 0 < den) :
    (if 0 ≤ l then decide (den * 2 ^ l.toNat ≤ num) else decide (den ≤ num * 2 ^ (-l).toNat)) = true ↔
      (2 : ℚ) ^ l ≤ num / den := by
  have hd' : (0 : ℚ) < den := by exact_mod_cast hd
  rw [le_div_iff₀ hd']
  split
  · next h =>
    rw [decide_eq_true_eq, ← zpow_toNat h, mul_comm]
    exact_mod_cast Iff.rfl
  · next h =>
    have hl : (2 : ℚ) ^ l * 2 ^ (-l) = 1 := by rw [← zpow_add₀ two_ne_zero]; simp
    have hp : (0 : ℚ) < 2 ^ (-l) := by positivity
    rw [decide_eq_true_eq, ← mul_le_mul_iff_left₀ hp, mul_right_comm, hl, one_mul, ← zpow_toNat (by omega)]
    exact_mod_cast Iff.rfl

/-- The leading bit of a positive quotient. -/
theorem leadExp_spec {num den : Nat} (hn : 0 < num) (hd : 0 < den) :
    (2 : ℚ) ^ leadExp num den ≤ num / den ∧ (num : ℚ) / den < 2 ^ (leadExp num den + 1) := by
  have hd' : (0 : ℚ) < den := by exact_mod_cast hd
  have hn1 : (2 : ℚ) ^ (Nat.log2 num : Int) ≤ num := by
    rw [zpow_natCast]; exact_mod_cast Nat.log2_self_le hn.ne'
  have hn2 : (num : ℚ) < 2 ^ ((Nat.log2 num : Int) + 1) := by
    rw [← Nat.cast_succ, zpow_natCast]; exact_mod_cast Nat.lt_log2_self
  have hd1 : (2 : ℚ) ^ (Nat.log2 den : Int) ≤ den := by
    rw [zpow_natCast]; exact_mod_cast Nat.log2_self_le hd.ne'
  have hd2 : (den : ℚ) < 2 ^ ((Nat.log2 den : Int) + 1) := by
    rw [← Nat.cast_succ, zpow_natCast]; exact_mod_cast Nat.lt_log2_self
  have hge := pow_le_quot_iff (num := num) (l := (Nat.log2 num : Int) - Nat.log2 den) hd
  rw [leadExp]
  by_cases h : (2 : ℚ) ^ ((Nat.log2 num : Int) - Nat.log2 den) ≤ num / den
  · rw [if_pos (hge.2 h)]
    refine ⟨h, ?_⟩
    have hsplit : (2 : ℚ) ^ ((Nat.log2 num : Int) + 1) =
        2 ^ ((Nat.log2 num : Int) - Nat.log2 den + 1) * 2 ^ (Nat.log2 den : Int) := by
      rw [← zpow_add₀ two_ne_zero]; congr 1; ring
    rw [div_lt_iff₀ hd']
    calc (num : ℚ) < _ := hn2
      _ = _ := hsplit
      _ ≤ _ := mul_le_mul_of_nonneg_left hd1 (by positivity)
  · rw [if_neg (mt hge.1 h)]
    refine ⟨?_, by rw [sub_add_cancel]; exact not_le.1 h⟩
    have hsplit : (2 : ℚ) ^ (Nat.log2 num : Int) =
        2 ^ ((Nat.log2 num : Int) - Nat.log2 den - 1) * 2 ^ ((Nat.log2 den : Int) + 1) := by
      rw [← zpow_add₀ two_ne_zero]; congr 1; ring
    rw [le_div_iff₀ hd']
    calc _ ≤ (2 : ℚ) ^ ((Nat.log2 num : Int) - Nat.log2 den - 1) * 2 ^ ((Nat.log2 den : Int) + 1) :=
          mul_le_mul_of_nonneg_left hd2.le (by positivity)
      _ = _ := hsplit.symm
      _ ≤ num := hn1

/-- The last place lies no lower than that of the subnormals; the quotient has at most `fbits + 1` bits above it, and as
many unless the last place is that of the subnormals. -/
theorem lastExp_spec {f : FFmt} {num den : Nat} {e : Int} (hn : 0 < num) (hd : 0 < den) :
    let k := e - lastExp f num den e
    f.emin - f.fbits ≤ lastExp f num den e ∧ scaledNum num k < 2 ^ (f.fbits + 1) * scaledDen den k ∧
      (lastExp f num den e = f.emin - f.fbits ∨ 2 ^ f.fbits * scaledDen den k ≤ scaledNum num k) := by
  intro k
  obtain ⟨h1, h2⟩ := leadExp_spec hn hd
  have hv := scaled_value (num := num) (den := den) (k := k)
  have hdp : (0 : ℚ) < scaledDen den k := by exact_mod_cast scaledDen_pos hd
  have hk : (0 : ℚ) < 2 ^ k := by positivity
  have hlast : leadExp num den + e - f.fbits ≤ lastExp f num den e := by rw [lastExp]; split <;> omega
  refine ⟨by rw [lastExp]; split <;> omega, ?_, ?_⟩
  · have : (scaledNum num k : ℚ) / scaledDen den k < 2 ^ ((f.fbits : Int) + 1) := by
      rw [hv]
      calc _ < (2 : ℚ) ^ (leadExp num den + 1) * 2 ^ k := mul_lt_mul_of_pos_right h2 hk
        _ = 2 ^ (leadExp num den + 1 + k) := (zpow_add₀ two_ne_zero _ _).symm
        _ ≤ _ := zpow_le_zpow_right₀ (by norm_num) (by omega)
    rw [div_lt_iff₀ hdp, ← Nat.cast_succ, zpow_natCast] at this
    exact_mod_cast this
  · by_cases he : leadExp num den + e < f.emin
    · left; rw [lastExp, if_pos he]
    · right
      have hk' : k = f.fbits - leadExp num den := by
        show e - lastExp f num den e = _
        rw [lastExp, if_neg he]; omega
      have : (2 : ℚ) ^ (f.fbits : Int) ≤ (scaledNum num k : ℚ) / scaledDen den k := by
        rw [hv]
        calc (2 : ℚ) ^ (f.fbits : Int) = 2 ^ leadExp num den * 2 ^ k := by
              rw [← zpow_add₀ two_ne_zero, hk']; congr 1; ring
          _ ≤ _ := mul_le_mul_of_nonneg_right h1 hk.le
      rw [le_div_iff₀ hdp, zpow_natCast] at this
      exact_mod_cast this

/-! ### Rounding in the last place -/

/-- A quotient `n / d` rounded to an integer in a mode (02 R57). -/
def roundedUnits (mode : Nat) (neg : Bool) (n d : Nat) : Nat :=
  if roundsUp mode neg (n / d) (n % d) d then n / d + 1 else n / d

/-- Bits and flags of `n / d` in units of the last place `2^q` (03 R79, R81). -/
def packUnits (f : FFmt) (mode : Nat) (neg : Bool) (q : Int) (n d : Nat) : Nat × Flags :=
  let r1 := roundedUnits mode neg n d
  let carry := decide (2 ^ (f.fbits + 1) ≤ r1)
  let r := if carry then r1 / 2 else r1
  let q := if carry then q + 1 else q
  if r < 2 ^ f.fbits then (f.signBit neg + r, if n % d = 0 then 0 else fUF ||| fNX)
  else
    let be := q + f.fbits + f.bias
    if 2 ^ f.ebits - 1 ≤ be.toNat then
      let toInf := match mode with
        | 0 => true
        | 1 => false
        | 2 => !neg
        | _ => neg
      (if toInf then f.inf neg else f.maxFin neg, fOF ||| fNX)
    else (f.signBit neg + be.toNat * 2 ^ f.fbits + (r - 2 ^ f.fbits), if n % d = 0 then (0 : Flags) else fNX)

theorem rndMag_eq (f : FFmt) (mode : Nat) (neg : Bool) (num den : Nat) (e : Int) :
    rndMag f mode neg num den e = packUnits f mode neg (lastExp f num den e)
      (scaledNum num (e - lastExp f num den e)) (scaledDen den (e - lastExp f num den e)) := rfl

/-- A pattern that holds the number ±`r × 2^q`, odd when `r` is. -/
def Holds (f : FFmt) (neg : Bool) (r : Nat) (q : Int) (w : Nat) : Prop :=
  w < 2 ^ f.width ∧ (unpack f w).isNan = false ∧ (unpack f w).isInf = false ∧
    dyQ (unpack f w).dy = signedQ neg (r * 2 ^ q) ∧ w % 2 = r % 2

theorem holds_low {f : FFmt} {neg : Bool} {r : Nat} (hf : 1 ≤ f.fbits) (he : 1 ≤ f.ebits) (hr : r < 2 ^ f.fbits) :
    Holds f neg r (f.emin - f.fbits) (f.signBit neg + r) := by
  have hw : f.signBit neg + r = bitsOf f neg 0 r := by rw [← bitsOf_eq]; ring
  obtain ⟨hn, hi, hv⟩ := unpack_low (neg := neg) he hr
  rw [hw]
  exact ⟨bitsOf_lt (by positivity) hr, hn, hi, hv, bitsOf_parity hf⟩

theorem holds_normal {f : FFmt} {neg : Bool} {r : Nat} {q : Int} (hf : 1 ≤ f.fbits) (hq : f.emin - f.fbits ≤ q)
    (hr : 2 ^ f.fbits ≤ r) (hr' : r < 2 ^ (f.fbits + 1)) (hbe : ¬2 ^ f.ebits - 1 ≤ (q + f.fbits + f.bias).toNat) :
    Holds f neg r q (f.signBit neg + (q + f.fbits + f.bias).toNat * 2 ^ f.fbits + (r - 2 ^ f.fbits)) := by
  have hfr : r - 2 ^ f.fbits < 2 ^ f.fbits := by rw [pow_succ] at hr'; omega
  have hpos : 1 ≤ q + f.fbits + f.bias := by rw [FFmt.emin] at hq; omega
  obtain ⟨hn, hi, hv⟩ := unpack_normal (neg := neg) (be := (q + f.fbits + f.bias).toNat) (by omega) (not_le.1 hbe) hfr
  rw [bitsOf_eq]
  refine ⟨bitsOf_lt (by omega) hfr, hn, hi, ?_, ?_⟩
  · rw [hv, Nat.add_sub_cancel' hr, show ((q + f.fbits + f.bias).toNat : Int) - f.bias - f.fbits = q by omega]
  · obtain ⟨k, hk⟩ := Nat.exists_eq_add_of_le' hf
    rw [bitsOf_parity hf]
    rw [hk, pow_succ] at hr ⊢
    omega

theorem roundedUnits_bounds (mode : Nat) (neg : Bool) (n d : Nat) :
    n / d ≤ roundedUnits mode neg n d ∧ roundedUnits mode neg n d ≤ n / d + 1 := by
  unfold roundedUnits
  split <;> omega

/-- Unless it overflows, the packed pattern holds the rounded units, and NX says whether rounding changed the value. -/
theorem packUnits_spec {f : FFmt} {mode : Nat} {neg : Bool} {q : Int} {n d : Nat} (hf : 1 ≤ f.fbits) (he : 1 ≤ f.ebits)
    (hd : 0 < d) (hq : f.emin - f.fbits ≤ q) (hn : n < 2 ^ (f.fbits + 1) * d)
    (hlow : q = f.emin - f.fbits ∨ 2 ^ f.fbits * d ≤ n) (hov : (packUnits f mode neg q n d).2 &&& fOF = 0) :
    Holds f neg (roundedUnits mode neg n d) q (packUnits f mode neg q n d).1 ∧
      ((packUnits f mode neg q n d).2 &&& fNX = 0 ↔ n % d = 0) := by
  have hr0 : n / d < 2 ^ (f.fbits + 1) := (Nat.div_lt_iff_lt_mul hd).2 hn
  obtain ⟨hlo, hhi⟩ := roundedUnits_bounds mode neg n d
  have hnx : ((if n % d = 0 then (0 : Flags) else fNX) &&& fNX = 0) ↔ n % d = 0 := by
    split <;> simp_all [fNX]
  have hux : ((if n % d = 0 then (0 : Flags) else fUF ||| fNX) &&& fNX = 0) ↔ n % d = 0 := by
    split <;> simp_all [fNX, fUF]
  have hof : (fOF ||| fNX) &&& fOF ≠ 0 := by decide
  unfold packUnits at hov ⊢
  dsimp only at hov ⊢
  by_cases hc : 2 ^ (f.fbits + 1) ≤ roundedUnits mode neg n d
  · have hr1 : roundedUnits mode neg n d = 2 ^ f.fbits * 2 := by rw [← pow_succ]; omega
    have hhalf : roundedUnits mode neg n d / 2 = 2 ^ f.fbits := by omega
    simp only [hc, decide_true, if_true, hhalf, lt_irrefl, if_false] at hov ⊢
    split at hov
    · exact absurd hov hof
    · next hbe =>
      rw [if_neg hbe]
      obtain ⟨h1, h2, h3, h4, h5⟩ := holds_normal (neg := neg) hf (by omega) le_rfl (Nat.pow_lt_pow_right (by omega) (by omega)) hbe
      refine ⟨⟨h1, h2, h3, ?_, ?_⟩, hnx⟩
      · rw [h4, hr1, zpow_add_one₀ two_ne_zero]
        push_cast
        congr 1; ring
      · obtain ⟨k, hk⟩ := Nat.exists_eq_add_of_le' hf
        rw [h5, hr1, hk, pow_succ]; omega
  · simp only [hc, decide_false, Bool.false_eq_true, if_false] at hov ⊢
    by_cases hr : roundedUnits mode neg n d < 2 ^ f.fbits
    · have hqe : q = f.emin - f.fbits :=
        hlow.resolve_right fun h => by have := (Nat.le_div_iff_mul_le hd).2 h; omega
      rw [if_pos hr, hqe]
      exact ⟨holds_low hf he hr, hux⟩
    · rw [if_neg hr] at hov ⊢
      split at hov
      · exact absurd hov hof
      · next hbe =>
        rw [if_neg hbe]
        exact ⟨holds_normal hf hq (not_lt.1 hr) (not_le.1 hc) hbe, hnx⟩

/-! ### Neighbours -/

theorem signedQ_signedQ (s t : Bool) (x : ℚ) : signedQ s (signedQ t x) = x ∨ signedQ s (signedQ t x) = -x := by
  cases s <;> cases t <;> simp [signedQ]

/-- No number of the format lies strictly between the two multiples of the last place that enclose a quotient. -/
theorem number_outside {f : FFmt} {q : Int} {n d x : Nat} (hd : 0 < d)
    (hlow : q = f.emin - f.fbits ∨ 2 ^ f.fbits * d ≤ n) (hn : (unpack f x).isNan = false)
    (hi : (unpack f x).isInf = false) (neg : Bool) :
    signedQ neg (dyQ (unpack f x).dy) ≤ (n / d : Nat) * 2 ^ q ∨
      ((n / d : Nat) + 1) * 2 ^ q ≤ signedQ neg (dyQ (unpack f x).dy) := by
  obtain ⟨sg, a, b, ha, hb, hv⟩ := unpack_number hn hi
  have hq : (0 : ℚ) < 2 ^ q := by positivity
  rw [hv]
  rcases signedQ_signedQ neg sg ((a : ℚ) * 2 ^ b) with h | h <;> rw [h]
  · by_cases hbq : q ≤ b
    · have hN : (a : ℚ) * 2 ^ b = (a * 2 ^ (b - q).toNat : Nat) * 2 ^ q := by
        rw [Nat.cast_mul, zpow_toNat (by omega), mul_assoc, ← zpow_add₀ two_ne_zero, sub_add_cancel]
      rw [hN]
      rcases Nat.lt_or_ge (n / d) (a * 2 ^ (b - q).toNat) with hlt | hle
      · right; exact mul_le_mul_of_nonneg_right (by exact_mod_cast hlt) hq.le
      · left; exact mul_le_mul_of_nonneg_right (by exact_mod_cast hle) hq.le
    · left
      have hr0 : 2 ^ f.fbits ≤ n / d := (Nat.le_div_iff_mul_le hd).2 (hlow.resolve_left (by omega))
      calc (a : ℚ) * 2 ^ b ≤ (2 ^ (f.fbits + 1) : Nat) * 2 ^ (q - 1) :=
            mul_le_mul (by exact_mod_cast ha.le) (zpow_le_zpow_right₀ (by norm_num) (by omega)) (by positivity) (by positivity)
        _ = (2 ^ f.fbits : Nat) * 2 ^ q := by
            rw [pow_succ, Nat.cast_mul, mul_assoc, Nat.cast_ofNat, ← zpow_one_add₀ two_ne_zero]; congr 2; ring
        _ ≤ _ := mul_le_mul_of_nonneg_right (by exact_mod_cast hr0) hq.le
  · left
    have : (0 : ℚ) ≤ (a : ℚ) * 2 ^ b := by positivity
    have : (0 : ℚ) ≤ (n / d : Nat) * 2 ^ q := by positivity
    linarith

end Sys2Proof.Machine
end

section
/-! SUPPORT. The two multiples of the last place beside a quotient, and which of them each rounding mode takes (02 R57). -/

namespace Sys2Proof.Machine

/-! ### A quotient between two multiples of the last place -/

section
variable {n d : Nat} {q : Int} (hd : 0 < d)
include hd

/-- A quotient is its whole units and the remainder's part of a unit. -/
theorem quot_eq_units : (n : ℚ) / d * 2 ^ q = ((n / d : Nat) + (n % d : Nat) / d) * 2 ^ q := by
  have hd' : (d : ℚ) ≠ 0 := by exact_mod_cast hd.ne'
  have hn : (n : ℚ) = d * (n / d : Nat) + (n % d : Nat) := by exact_mod_cast (Nat.div_add_mod n d).symm
  congr 1
  rw [div_eq_iff hd', add_mul, div_mul_cancel₀ _ hd']
  linarith

theorem part_lt_one : ((n % d : Nat) : ℚ) / d < 1 := by
  rw [div_lt_one (by exact_mod_cast hd)]
  exact_mod_cast Nat.mod_lt n hd

theorem units_le_quot : ((n / d : Nat) : ℚ) * 2 ^ q ≤ n / d * 2 ^ q := by
  rw [quot_eq_units hd]
  exact mul_le_mul_of_nonneg_right (le_add_of_nonneg_right (by positivity)) (by positivity)

theorem quot_lt_units : (n : ℚ) / d * 2 ^ q < ((n / d : Nat) + 1) * 2 ^ q := by
  rw [quot_eq_units hd]
  exact mul_lt_mul_of_pos_right (add_lt_add_right (part_lt_one hd) _) (by positivity)

theorem quot_eq_units_iff : (n : ℚ) / d * 2 ^ q = (n / d : Nat) * 2 ^ q ↔ n % d = 0 := by
  have hd' : (d : ℚ) ≠ 0 := by exact_mod_cast hd.ne'
  have hq : (2 : ℚ) ^ q ≠ 0 := by positivity
  rw [quot_eq_units hd, mul_left_inj' hq, add_eq_left, div_eq_zero_iff, or_iff_left hd', Nat.cast_eq_zero]

/-- Rounding changes a quotient unless it is whole. -/
theorem rounded_eq_quot_iff (mode : Nat) (neg : Bool) :
    (roundedUnits mode neg n d : ℚ) * 2 ^ q = n / d * 2 ^ q ↔ n % d = 0 := by
  unfold roundedUnits
  have hlt := quot_lt_units (n := n) (q := q) hd
  split
  · next h =>
    have h0 : n % d ≠ 0 := by
      intro h0
      rw [h0] at h
      unfold roundsUp at h
      split at h <;> simp_all
    push_cast
    exact iff_of_false hlt.ne' h0
  · rw [eq_comm]; exact quot_eq_units_iff hd

/-- A number outside the unit around a quotient and not above it is not above the unit's lower end. -/
theorem le_units {x : ℚ} (hx : x ≤ (n / d : Nat) * 2 ^ q ∨ ((n / d : Nat) + 1) * 2 ^ q ≤ x)
    (h : x ≤ n / d * 2 ^ q) : x ≤ (n / d : Nat) * 2 ^ q :=
  hx.resolve_right fun k => absurd (k.trans h) (quot_lt_units hd).not_ge

/-- One that is not below it is not below the quotient rounded up. -/
theorem units_up_le {x : ℚ} (hx : x ≤ (n / d : Nat) * 2 ^ q ∨ ((n / d : Nat) + 1) * 2 ^ q ≤ x)
    (h : (n : ℚ) / d * 2 ^ q ≤ x) : ((if n % d = 0 then n / d else n / d + 1 : Nat) : ℚ) * 2 ^ q ≤ x := by
  split
  · next h0 => rw [← (quot_eq_units_iff hd).2 h0]; exact h
  · next h0 =>
    push_cast
    refine hx.resolve_left fun k => h0 ((quot_eq_units_iff (q := q) hd).1 ?_)
    exact le_antisymm (h.trans k) (units_le_quot hd)

theorem quot_le_units_up : (n : ℚ) / d * 2 ^ q ≤ ((if n % d = 0 then n / d else n / d + 1 : Nat) : ℚ) * 2 ^ q := by
  split
  · next h0 => exact ((quot_eq_units_iff hd).2 h0).le
  · push_cast; exact (quot_lt_units hd).le

/-- Which end of its unit a quotient is nearer to. -/
theorem unit_ends : (n : ℚ) / d * 2 ^ q - (n / d : Nat) * 2 ^ q - (((n / d : Nat) + 1) * 2 ^ q - n / d * 2 ^ q) =
    (2 * (n % d : Nat) - d) * (2 ^ q / d) := by
  have hd' : (d : ℚ) ≠ 0 := by exact_mod_cast hd.ne'
  rw [quot_eq_units hd]
  field_simp
  ring

/-- Rounding to nearest even leaves a nearest of the numbers outside the unit, an even one of two (02 R57). -/
theorem nearest_units (neg : Bool) {x : ℚ} (hx : x ≤ (n / d : Nat) * 2 ^ q ∨ ((n / d : Nat) + 1) * 2 ^ q ≤ x) :
    |(roundedUnits 0 neg n d : ℚ) * 2 ^ q - n / d * 2 ^ q| ≤ |x - n / d * 2 ^ q| ∧
      (|(roundedUnits 0 neg n d : ℚ) * 2 ^ q - n / d * 2 ^ q| = |x - n / d * 2 ^ q| →
        x ≠ roundedUnits 0 neg n d * 2 ^ q → roundedUnits 0 neg n d % 2 = 0) := by
  have hlo := units_le_quot (n := n) (q := q) hd
  have hhi := quot_lt_units (n := n) (q := q) hd
  have hends := unit_ends (n := n) (q := q) hd
  have hu : (0 : ℚ) < 2 ^ q / d := by positivity
  have hround : roundedUnits 0 neg n d =
      if d < 2 * (n % d) ∨ (2 * (n % d) = d ∧ n / d % 2 = 1) then n / d + 1 else n / d := by
    simp [roundedUnits, roundsUp]
  rw [hround]
  generalize hV : (n : ℚ) / d * 2 ^ q = V at *
  by_cases hup : d < 2 * (n % d) ∨ (2 * (n % d) = d ∧ n / d % 2 = 1)
  · rw [if_pos hup]
    push_cast
    have hnear : (0 : ℚ) ≤ 2 * (n % d : Nat) - d := by
      have : d ≤ 2 * (n % d) := by omega
      rw [sub_nonneg]; exact_mod_cast this
    have h0 := mul_nonneg hnear hu.le
    rw [abs_of_pos (by linarith)]
    rcases hx with hx | hx
    · rw [abs_of_nonpos (by linarith)]
      refine ⟨by linarith, fun he _ => ?_⟩
      have hz : (2 * (n % d : Nat) - d : ℚ) * (2 ^ q / d) = 0 := by linarith
      have htie : (2 * (n % d : Nat) : ℚ) = d := by
        rcases mul_eq_zero.1 hz with h | h
        · linarith
        · exact absurd h hu.ne'
      have htie : 2 * (n % d) = d := by exact_mod_cast htie
      omega
    · rw [abs_of_nonneg (by linarith)]
      exact ⟨by linarith, fun he hne => absurd (by linarith) hne⟩
  · rw [if_neg hup]
    have hnear : (2 * (n % d : Nat) - d : ℚ) ≤ 0 := by
      have : 2 * (n % d) ≤ d := by omega
      rw [sub_nonpos]; exact_mod_cast this
    have h0 := mul_nonpos_of_nonpos_of_nonneg hnear hu.le
    rw [abs_of_nonpos (by linarith)]
    rcases hx with hx | hx
    · rw [abs_of_nonpos (by linarith)]
      exact ⟨by linarith, fun he hne => absurd (by linarith) hne⟩
    · rw [abs_of_pos (by linarith)]
      refine ⟨by linarith, fun he _ => ?_⟩
      have hz : (2 * (n % d : Nat) - d : ℚ) * (2 ^ q / d) = 0 := by linarith
      have htie : (2 * (n % d : Nat) : ℚ) = d := by
        rcases mul_eq_zero.1 hz with h | h
        · linarith
        · exact absurd h hu.ne'
      have htie : 2 * (n % d) = d := by exact_mod_cast htie
      omega

end

theorem roundedUnits_towardZero (neg : Bool) (n d : Nat) : roundedUnits 1 neg n d = n / d := rfl

/-- Rounding up and down, by the sign of the value (02 R57). -/
theorem roundedUnits_directed (n d : Nat) :
    roundedUnits 2 true n d = n / d ∧ roundedUnits 3 false n d = n / d ∧
      roundedUnits 2 false n d = (if n % d = 0 then n / d else n / d + 1) ∧
      roundedUnits 3 true n d = if n % d = 0 then n / d else n / d + 1 := by
  refine ⟨rfl, rfl, ?_, ?_⟩ <;> simp only [roundedUnits, roundsUp] <;> split <;> simp_all

/-! ### Rounding an exact dyadic value -/

theorem signedQ_involutive (s : Bool) (x : ℚ) : signedQ s (signedQ s x) = x := by cases s <;> simp [signedQ]

theorem signedQ_sub (s : Bool) (x y : ℚ) : signedQ s x - signedQ s y = signedQ s (x - y) := by
  cases s <;> simp [signedQ]; ring

theorem dyQ_eq_signedQ (v : Dy) : dyQ v = signedQ (decide (v.m < 0)) (v.m.natAbs * 2 ^ v.e) := by
  rw [dyQ, Nat.cast_natAbs]
  by_cases h : v.m < 0
  · simp [signedQ, h, abs_of_neg h]
  · simp [signedQ, h, abs_of_nonneg (not_lt.1 h)]

/-- Between ±`r × 2^q` and ±`(r + 1) × 2^q` a format has no number. -/
def NoNumberWithin (f : FFmt) (r : Nat) (q : Int) : Prop :=
  ∀ x, (unpack f x).isNan = false → (unpack f x).isInf = false → ∀ s,
    signedQ s (dyQ (unpack f x).dy) ≤ r * 2 ^ q ∨ ((r : ℚ) + 1) * 2 ^ q ≤ signedQ s (dyQ (unpack f x).dy)

/-- An exact value that does not overflow is a signed quotient in units of a last place, rounded to units; the format's numbers
lie outside the unit around it. -/
theorem rndDy_units {f : FFmt} {mode : Nat} {v : Dy} (hf : 1 ≤ f.fbits) (he : 1 ≤ f.ebits) (hm : v.m ≠ 0)
    (hov : (rndDy f mode v).2 &&& fOF = 0) : ∃ (neg : Bool) (n d : Nat) (q : Int), 0 < d ∧
      dyQ v = signedQ neg (n / d * 2 ^ q) ∧ NoNumberWithin f (n / d) q ∧
      Holds f neg (roundedUnits mode neg n d) q (rndDy f mode v).1 ∧ ((rndDy f mode v).2 &&& fNX = 0 ↔ n % d = 0) := by
  have hr : rndDy f mode v = rndMag f mode (decide (v.m < 0)) v.m.natAbs 1 v.e := by rw [rndDy, rndDyZ, if_neg hm]
  have hpos : 0 < v.m.natAbs := Int.natAbs_pos.2 hm
  obtain ⟨hq, hn, hlow⟩ := lastExp_spec (f := f) (e := v.e) hpos Nat.one_pos
  have hd := scaledDen_pos (k := v.e - lastExp f v.m.natAbs 1 v.e) Nat.one_pos
  rw [hr, rndMag_eq] at hov ⊢
  refine ⟨_, _, _, _, hd, ?_, fun x hx hi s => number_outside hd hlow hx hi s, packUnits_spec hf he hd hq hn hlow hov⟩
  rw [dyQ_eq_signedQ, scaled_value, mul_assoc, ← zpow_add₀ two_ne_zero, sub_add_cancel, Nat.cast_one, div_one]

theorem rndDy_zero (f : FFmt) (mode : Nat) {v : Dy} (hm : v.m = 0) : rndDy f mode v = (f.zero (mode == 3), 0) := by
  rw [rndDy, rndDyZ, if_pos hm]

theorem holds_zero (f : FFmt) (neg : Bool) (hf : 1 ≤ f.fbits) (he : 1 ≤ f.ebits) :
    Holds f neg 0 (f.emin - f.fbits) (f.zero neg) := holds_low hf he (by positivity)

/-- Settles O13: the value is a quotient in units of the last place, which the mode rounds to one of the two multiples beside
it, and no number of the format lies between these. -/
theorem roundingChoosesTheRightNeighbour : Obligations.RoundingChoosesTheRightNeighbour := by
  intro f v mode hfmt _ w fl fin q hov
  have hfe : 1 ≤ f.fbits ∧ 1 ≤ f.ebits := by rcases hfmt with rfl | rfl | rfl <;> decide
  obtain ⟨hf, he⟩ := hfe
  by_cases hm : v.m = 0
  · have hr := rndDy_zero f mode hm
    obtain ⟨h1, h2, h3, hw, hpar⟩ := holds_zero f (mode == 3) hf he
    have hv : dyQ v = 0 := by simp [dyQ, hm]
    have hw1 : w = f.zero (mode == 3) := congrArg Prod.fst hr
    have hfl : fl = 0 := congrArg Prod.snd hr
    have hq : q w = 0 := by
      show dyQ (unpack f w).dy = 0
      rw [hw1, hw]; cases mode == 3 <;> simp [signedQ]
    rw [hq, hv, hfl, sub_self, abs_zero]
    refine ⟨by rw [hw1]; exact ⟨h1, h2, h3⟩, by simp, fun _ x _ => ⟨abs_nonneg _, fun _ _ => by rw [hw1]; exact hpar⟩,
      fun _ => ⟨le_rfl, fun x _ h => h⟩, fun _ => ⟨le_rfl, fun x _ h => h⟩, fun _ => ⟨le_rfl, fun x _ h => h⟩⟩
  · obtain ⟨neg, n, d, e, hd, hv, hno, ⟨h1, h2, h3, hw, hpar⟩, hnx⟩ := rndDy_units hf he hm hov
    have hq : q w = signedQ neg (roundedUnits mode neg n d * 2 ^ e) := hw
    have hx : ∀ x, q x = signedQ neg (signedQ neg (q x)) := fun x => (signedQ_involutive neg _).symm
    have hV : (0 : ℚ) ≤ n / d * 2 ^ e := by positivity
    refine ⟨⟨h1, h2, h3⟩, ?exact, ?nearest, ?towardZero, ?upward, ?downward⟩
    case exact =>
      refine Iff.trans ?_ hnx.symm
      rw [hq, hv, ← rounded_eq_quot_iff (q := e) hd mode neg]
      exact (Function.LeftInverse.injective (signedQ_involutive neg)).eq_iff
    case nearest =>
      rintro hmode x ⟨-, hn, hi⟩
      subst hmode
      have hnear := nearest_units hd neg (hno x hn hi neg)
      rw [hq, hv, hx x, signedQ_sub, signedQ_sub, abs_signedQ, abs_signedQ]
      exact ⟨hnear.1, fun heq hne => hpar.trans (hnear.2 heq fun h => hne (congrArg (signedQ neg) h))⟩
    case towardZero =>
      intro hmode
      subst hmode
      rw [hq, hv, abs_signedQ, abs_signedQ, abs_of_nonneg hV, abs_of_nonneg (by positivity), roundedUnits_towardZero]
      refine ⟨units_le_quot hd, fun x ⟨_, hn, hi⟩ hle => ?_⟩
      obtain ⟨s, hs⟩ : ∃ s, |q x| = signedQ s (q x) := by
        rcases abs_choice (q x) with h | h
        · exact ⟨false, h⟩
        · exact ⟨true, h⟩
      rw [hs] at hle ⊢
      exact le_units hd (hno x hn hi s) hle
    case upward =>
      intro hmode
      subst hmode
      obtain ⟨hdown, -, hup, -⟩ := roundedUnits_directed n d
      rw [hq, hv]
      cases neg
      · rw [hup]
        exact ⟨quot_le_units_up hd, fun x ⟨_, hn, hi⟩ hle => units_up_le hd (hno x hn hi false) hle⟩
      · rw [hdown]
        exact ⟨neg_le_neg (units_le_quot hd), fun x ⟨_, hn, hi⟩ hle =>
          neg_le.1 (le_units hd (hno x hn hi true) (neg_le.1 hle))⟩
    case downward =>
      intro hmode
      subst hmode
      obtain ⟨-, hdown, -, hup⟩ := roundedUnits_directed n d
      rw [hq, hv]
      cases neg
      · rw [hdown]
        exact ⟨units_le_quot hd, fun x ⟨_, hn, hi⟩ hle => le_units hd (hno x hn hi false) hle⟩
      · rw [hup]
        exact ⟨neg_le_neg (quot_le_units_up hd), fun x ⟨_, hn, hi⟩ hle =>
          le_neg.1 (units_up_le hd (hno x hn hi true) (le_neg.1 hle))⟩

end Sys2Proof.Machine
end

section
/-! SUPPORT. The reset state read field by field (02 R50 to R53). -/

namespace Sys2Proof.Machine

/-- The core record of every core after reset, its streams idle (02 R50 to R53). -/
theorem reset_core (d : Fin 16) (c : Fin 128) : State.reset.m.core d c = {} := rfl
theorem reset_die (d : Fin 16) : State.reset.m.die d = {} := rfl
theorem reset_barrier (d : Fin 16) (k : Fin 256) : State.reset.m.barrier d k = {} := rfl
theorem reset_ccb (c : Fin 64) (k : Nat) : ccb State.reset.m c k = (Tbl.get 0 ccbReset k).toNat := rfl

theorem reset_stream (q : StreamName) : ({} : Core).stream q = {} := by cases q <;> rfl

/-- p0 is all true (02 R50). -/
theorem Core.preg_zero (c : Core) : c.preg 0 = 2 ^ 4096 - 1 := by rw [Core.preg, if_pos rfl]

theorem Core.vreg_reset (n : Nat) : ({} : Core).vreg n = 0 := BitVec.toNat_zero

theorem Core.preg_reset {n : Nat} (hn : n ≠ 0) : ({} : Core).preg n = 0 := by
  rw [Core.preg, if_neg hn]; exact BitVec.toNat_zero

/-- A control block after reset lists words 1 and 2 alone (14 R330). -/
theorem ccbReset_other {k : Nat} (h1 : k ≠ 1) (h2 : k ≠ 2) : Tbl.get 0 ccbReset k = 0 := by
  simp [ccbReset, Tbl.get, h1, h2]

/-- Settles O54: part by part, each field of the reset state read from its default. -/
theorem resetLeavesTheModule : Obligations.ResetLeavesTheModule := by
  refine ⟨⟨rfl, rfl, rfl⟩, ⟨memWf_reset, fun i hi => absurd hi List.not_mem_nil⟩, rfl, fun _ => rfl, fun _ => rfl, rfl, rfl,
    rfl, rfl, rfl, rfl, rfl, rfl, fun d c => ?core, fun d => ?die, fun c => ?ctx, fun q => ⟨rfl, rfl, rfl, fun _ => rfl⟩,
    fun _ => rfl⟩
  case core =>
    rw [reset_core]
    refine ⟨rfl, fun _ => rfl, fun _ => rfl, Core.vreg_reset, Core.preg_zero _, fun _ hn => Core.preg_reset hn, rfl, rfl, rfl,
      rfl, rfl, rfl, fun _ => rfl, fun q => ?_⟩
    rw [reset_stream]
    exact ⟨rfl, fun n => by simp [Stream.sreg, Tbl.get], fun _ => rfl, fun _ => rfl, rfl, rfl, rfl, rfl, rfl, rfl, rfl, rfl,
      rfl, rfl, rfl, rfl, rfl, rfl, rfl, rfl⟩
  case die =>
    refine ⟨rfl, fun k _ => ⟨?_, ?_, ?_⟩, rfl, rfl, fun _ => rfl, fun k => by simp [reset_barrier, Barrier.bits, wrapN],
      fun _ => rfl, fun _ => rfl, fun _ => ⟨rfl, rfl, rfl⟩⟩
    all_goals simp [reset_die]
  case ctx =>
    refine ⟨by rw [ctxValid, reset_ccb]; decide, by rw [ctxCeiling, reset_ccb]; decide, by rw [ctxDrain, reset_ccb]; decide,
      fun k h1 h2 => ?_⟩
    rw [reset_ccb, ccbReset_other h1 h2]; rfl

end Sys2Proof.Machine
end

section
/-! SUPPORT. The words that the spec writes out. -/

namespace Sys2Proof.Machine

/-- Settles O56: a closed statement about finitely many words, each decoded by the kernel. -/
theorem writtenWordsDecode : Obligations.WrittenWordsDecode := by
  unfold Obligations.WrittenWordsDecode
  decide +kernel

end Sys2Proof.Machine
end

section
/-! SUPPORT. Every instruction answers a next state (15 R352, R353). -/

namespace Sys2Proof.Machine

/-- The outcome is a next state. -/
def Answers (o : Out) : Prop := ∃ t, o = .next t

theorem Answers.next (t : State) : Answers (.next t) := ⟨t, rfl⟩

theorem Answers.answer (s : State) (n : Nat) (m : Module) : Answers (Machine.answer s n m) := ⟨_, rfl⟩

theorem Answers.ite {p : Prop} [Decidable p] {a b : Out} (ha : Answers a) (hb : Answers b) :
    Answers (if p then a else b) := by
  split
  · exact ha
  · exact hb

theorem Answers.floatOp (i : Instr) (o : SlotOp) (t : Ty) (f : Nat → Nat → Nat → Nat × Flags)
    (g : Nat → List Nat → List Nat → List Nat → List (Nat × Flags)) (s : State) : Answers (floatOp i o t f g s) :=
  .ite ⟨_, rfl⟩ ⟨_, rfl⟩

theorem Answers.specOp (i : Instr) (o : SlotOp) (fn : SpecFn) (s : State) : Answers (specOp i o fn s) :=
  .ite ⟨_, rfl⟩ ⟨_, rfl⟩

theorem Answers.fscl (o : SlotOp) (s : State) : Answers (execFscl o s) := by
  unfold execFscl
  split
  · exact ⟨_, rfl⟩
  · exact .floatOp ..

theorem Answers.disposeStream (s : State) (here : Module → Who → Module) (out : Core → StreamName → Core) :
    Answers (disposeStream s here out) := by
  unfold Machine.disposeStream
  split
  · exact .answer ..
  · split
    · exact .ite (.answer ..) (.answer ..)
    · exact .ite (.answer ..) (.answer ..)
    · exact .answer ..
    · exact .answer ..

theorem Answers.disposeChain (s : State) (f : Module → ChainId → Module) : Answers (disposeChain s f) := by
  unfold Machine.disposeChain
  split
  · exact .answer ..
  · exact .answer ..
  · exact .ite (.answer ..) (.answer ..)

theorem Answers.commandComplete (c : ChainId) (s : State) : Answers (execCommandComplete c s) := by
  unfold execCommandComplete
  dsimp only
  split
  · exact .next _
  · refine .ite (.next _) ?_
    split
    · exact ⟨_, rfl⟩
    · split <;> exact ⟨_, rfl⟩

theorem Answers.nodeComplete (c : Fin 64) (g : DevAddr) (n : BitVec 16) (s : State) :
    Answers (execNodeComplete c g n s) := by
  unfold execNodeComplete
  split <;> exact ⟨_, rfl⟩

theorem Answers.readrec (s : State) : Answers (execReadrec s) := by
  unfold execReadrec
  refine .ite ?_ ?_
  · split
    · exact .answer ..
    · split <;> exact .answer ..
  · split <;> exact .answer ..

theorem Answers.ctxload (s : State) : Answers (execCtxload s) := by
  unfold execCtxload
  refine .ite (.answer ..) ?_
  split
  · exact .next _
  · exact .answer ..
  · exact .answer ..

theorem Answers.ctxunload (s : State) : Answers (execCtxunload s) := by
  unfold execCtxunload
  refine .ite (.answer ..) (.ite (.answer ..) ?_)
  split
  · exact .next _
  · exact .answer ..
  · exact .answer ..

theorem Answers.winset (s : State) : Answers (execWinset s) := by
  unfold execWinset
  refine .ite (.answer ..) ?_
  split
  · exact .answer ..
  · exact .next _
  · exact .answer ..

theorem Answers.matchset (s : State) : Answers (execMatchset s) := by
  unfold execMatchset
  dsimp only
  split
  · exact .answer ..
  · exact .ite (.answer ..) (.answer ..)

theorem Answers.parkset (s : State) : Answers (execParkset s) := by
  unfold execParkset
  split <;> exact .answer ..

theorem Answers.keyset (s : State) : Answers (execKeyset s) := by
  unfold execKeyset
  dsimp only
  split
  · exact .answer ..
  · exact .ite (.answer ..) (.answer ..)

/-- Every instruction answers a next state: every trap is taken, and every stop is a state of a stream or a chain
(15 R352, R353). -/
theorem exec_answers (i : Instr) (s : State) : Answers (exec i s) := by
  cases i
  case faddF32 | faddBf16 | faddF16 | fsubF32 | fsubBf16 | fsubF16 | fmulF32 | fmulBf16 | fmulF16 | fmaF32 | fmaBf16 | fmaF16 |
      fdivF32 | fdivBf16 | fdivF16 | fminF32 | fminBf16 | fminF16 | fmaxF32 | fmaxBf16 | fmaxF16 | fabs | fneg | fmov | fclp |
      flrp => unfold exec; exact Answers.floatOp ..
  case fexp | fexp2 | flog | flog2 | frcp | fsqt | frsq | ftnh | fsig | fglu | fsin | fcos =>
    unfold exec; exact Answers.specOp ..
  case fscl => exact Answers.fscl ..
  case cvt => exact Answers.ite ⟨_, rfl⟩ ⟨_, rfl⟩
  case disposeReplay | disposeNext | disposeFail => unfold exec; exact Answers.disposeStream ..
  case disposeChainReplay | disposeChainStop => unfold exec; exact Answers.disposeChain ..
  case commandComplete => exact Answers.commandComplete ..
  case constantBankLoad => exact Answers.ite (.next _) ⟨_, rfl⟩
  case nodeComplete => exact Answers.nodeComplete ..
  case readrec => exact Answers.readrec s
  case ctxload => exact Answers.ctxload s
  case ctxunload => exact Answers.ctxunload s
  case winset => exact Answers.winset s
  case matchset => exact Answers.matchset s
  case parkset => exact Answers.parkset s
  case keyset => exact Answers.keyset s
  case evring | attest | fusemin => exact Answers.ite (.answer ..) (.answer ..)
  case ccbset => exact Answers.ite (.answer ..) (.ite (.answer ..) (.answer ..))
  case mcast => exact Answers.ite (.answer ..) (.ite (.next _) (.answer ..))
  all_goals exact ⟨_, rfl⟩

end Sys2Proof.Machine
end

section
/-! SUPPORT. The ops of a bundle run one after the other: what they come to, and what a bundle that waits leaves (02 R36 to R39,
15 R352). -/

namespace Sys2Proof.Machine

/-! ### What the ops of a bundle have come to -/

/-- The parity step finds nothing: the bundle has issued, or none of its registers is bad. -/
def ParityClear (s : State) (b : Bundle) : Prop :=
  (s.m.strm s.cur).issued = none → parityTest s s.m s.cur b = none

theorem ParityClear.step {s : State} {b : Bundle} (h : ParityClear s b) :
    (if (s.m.strm s.cur).issued.isSome then none else parityTest s s.m s.cur b) = none := by
  split
  · rfl
  next hi => exact h (by simpa using hi)

theorem closeBundle_retire {s t : State} {b : Bundle} (hp : ParityClear s b) :
    closeBundle b s { st := t } = retire b t := by
  simp [closeBundle, hp.step]

theorem closeBundle_blocked {s t : State} {b : Bundle} (hp : ParityClear s b) :
    closeBundle b s { st := t, blocked := true } =
      settled { s with m := keepIssued b s t.bnd (unread s.cur s.m t.src) } := by
  simp [closeBundle, hp.step]

theorem closeBundle_unissued {s t : State} {b : Bundle} :
    closeBundle b s { st := t, unissued := true } = settled s := by
  simp [closeBundle]

theorem closeBundle_trapped {s t : State} {b : Bundle} {y : Trap} (hp : ParityClear s b)
    (hy : (s.m.strm s.cur).wait.inFlight = false ∨ y.code = 0x0B) :
    closeBundle b s { st := t, best := some y } = trapped y { s with pre := some s.m } := by
  have held : ¬((s.m.strm s.cur).wait.inFlight = true ∧ ¬y.code = 0x0B) := by
    rintro ⟨h, hc⟩
    exact hy.elim (fun hf => by simp [hf] at h) hc
  by_cases hr : trapRank y < 3
  · simp [closeBundle, held, hr, Option.filter]
  · simp [closeBundle, held, hr, hp.step, Option.filter]

/-- The ops of a bundle go through one after the other. -/
def goThrough (ex : Instr → State → Out) (is : List Instr) (s : State) : Option State :=
  is.foldlM (fun u i => match ex i u with
    | .next v => if v.verdict = .go then some v else none
    | _ => none) s

theorem runOps_of_goThrough {ex : Instr → State → Out} {is : List Instr} {r : Run} {t : State}
    (h : goThrough ex is r.st = some t) : runOps ex r is = .ok { r with st := t } := by
  induction is generalizing r with
  | nil =>
    obtain rfl : r.st = t := Option.some.inj h
    rfl
  | cons i is ih =>
    simp only [goThrough, List.foldlM_cons] at h
    cases he : ex i r.st with
    | next v =>
      rw [he] at h
      by_cases hv : v.verdict = .go
      · simp only [hv, if_true, Option.bind_eq_bind, Option.bind_some] at h
        simp only [runOps, runOp, he, hv]
        exact ih (r := { r with st := v }) h
      · simp [hv] at h
    | fault _ => simp [he] at h
    | refused _ => simp [he] at h

/-- Every op of a list is run. -/
theorem runOps_ok {ex : Instr → State → Out} (hex : ∀ i s, Answers (ex i s)) (is : List Instr) (r : Run) :
    ∃ q, runOps ex r is = .ok q := by
  induction is generalizing r with
  | nil => exact ⟨r, rfl⟩
  | cons i is ih =>
    have hop : ∃ q, runOp ex r i = .ok q := by
      obtain ⟨t, ht⟩ := hex i r.st
      unfold runOp
      rw [ht]
      dsimp only
      split
      · exact ⟨_, rfl⟩
      · exact ⟨_, rfl⟩
      · split
        · split <;> exact ⟨_, rfl⟩
        · exact ⟨_, rfl⟩
      · exact ⟨_, rfl⟩
    obtain ⟨q, hq⟩ := hop
    rw [runOps, hq]
    exact ih q

theorem runBundle_ok {ex : Instr → State → Out} (hex : ∀ i s, Answers (ex i s)) (b : Bundle) (s : State) :
    ∃ r, runBundle ex b s = .ok r := by
  obtain ⟨q, hq⟩ := runOps_ok hex (b.ops.map (resolveOp s))
    { st := s
      unissued := decide ((if s.srcStrm.issued.isSome then Verdict.go else tokenTest s.srcCore s.cur.stream b) = .unissued) }
  exact ⟨_, by unfold runBundle; dsimp only; rw [hq]⟩

/-- The token bits do not hold the bundle: it has issued, or its FIFOs are ready. -/
def TokensClear (s : State) (b : Bundle) : Prop :=
  s.srcStrm.issued = none → tokenTest s.srcCore s.cur.stream b = .go

theorem runBundle_eq {ex : Instr → State → Out} {b : Bundle} {s : State} {r : Run} (ht : TokensClear s b)
    (h : runOps ex { st := s } (b.ops.map (resolveOp s)) = .ok r) : runBundle ex b s = .ok r := by
  have tok : (if s.srcStrm.issued.isSome then Verdict.go else tokenTest s.srcCore s.cur.stream b) = .go := by
    split
    · rfl
    next hi => exact ht (by simpa using hi)
  unfold runBundle
  rw [tok]
  simp only [reduceCtorEq, decide_false, h]

/-! ### A bundle of one op -/

theorem runOps_singleton {ex : Instr → State → Out} {r : Run} {i : Instr} : runOps ex r [i] = runOp ex r i := by
  cases h : runOp ex r i <;> simp [runOps, h]

theorem runOp_trapped {ex : Instr → State → Out} {s t : State} {i : Instr} {y : Trap} (he : ex i s = .next t)
    (hv : t.verdict = .trapped y) : runOp ex { st := s } i = .ok { st := s, best := some y } := by
  simp [runOp, he, hv]

theorem runOp_unissued {ex : Instr → State → Out} {s t : State} {i : Instr} (he : ex i s = .next t)
    (hv : t.verdict = .unissued) : runOp ex { st := s } i = .ok { st := s, unissued := true } := by
  simp [runOp, he, hv]

/-- An op that waits leaves its module, but for the tags when it waits for an atomic that it has sent. -/
theorem runOp_blocked {ex : Instr → State → Out} {s t : State} {i : Instr} (he : ex i s = .next t)
    (hv : t.verdict = .blocked) : ∃ m, (m = t.m ∨ m = keepTags t.cur s.m t.m) ∧
      runOp ex { st := s } i = .ok { st := { s with m := m, pre := some m }, blocked := true } := by
  by_cases h : ((t.m.strm t.cur).wait == .atomic && decide (s.srcStrm.wait ≠ .atomic)) = true
  · exact ⟨_, .inr rfl, by simp only [runOp, he, hv]; rw [if_pos (by simpa using h)]; rfl⟩
  · exact ⟨_, .inl rfl, by simp only [runOp, he, hv]; rw [if_neg (by simpa using h)]⟩

/-! ### Tokens and streams of a core -/

@[simp] theorem tokIn_setStream (c : Core) (n : StreamName) (x : Stream) (q : StreamName) (left : Bool) :
    tokIn (c.setStream n x) q left = tokIn c q left := by
  cases q <;> cases left <;> simp [tokIn]

@[simp] theorem stream_popTok (q : StreamName) (left : Bool) (c : Core) (n : StreamName) :
    (popTok q left c).stream n = c.stream n := by
  cases q <;> cases left <;> cases n <;> rfl

@[simp] theorem stream_pushTok (q : StreamName) (left : Bool) (c : Core) (n : StreamName) :
    (pushTok q left c).stream n = c.stream n := by
  cases q <;> cases left <;> cases n <;> rfl

@[simp] theorem stream_takeTokens (q : StreamName) (b : Bundle) (c : Core) (n : StreamName) :
    (takeTokens q b c).stream n = c.stream n := by
  cases hl : b.popL <;> cases hr : b.popR <;> simp [takeTokens, hl, hr]

theorem popTok_shared (q : StreamName) (left : Bool) (c : Core) :
    (popTok q left c).v = c.v ∧ (popTok q left c).p = c.p ∧ (popTok q left c).kbank = c.kbank := by
  cases q <;> cases left <;> exact ⟨rfl, rfl, rfl⟩

/-- The tokens that a bundle takes leave the registers of the core. -/
theorem takeTokens_shared (q : StreamName) (b : Bundle) (c : Core) :
    (takeTokens q b c).v = c.v ∧ (takeTokens q b c).p = c.p ∧ (takeTokens q b c).kbank = c.kbank := by
  cases hl : b.popL <;> cases hr : b.popR <;> simp [takeTokens, hl, hr, popTok_shared]

/-- A pop takes a token of its side alone, where the stream has a FIFO. -/
theorem tokIn_popTok (q : StreamName) (left side : Bool) (c : Core) :
    tokIn (popTok q left c) q side = tokIn c q side - if side = left then 1 else 0 := by
  cases q <;> cases left <;> cases side <;> rfl

theorem tokIn_takeTokens (q : StreamName) (b : Bundle) (c : Core) :
    tokIn (takeTokens q b c) q true = tokIn c q true - (if b.popL then 1 else 0) ∧
      tokIn (takeTokens q b c) q false = tokIn c q false - (if b.popR then 1 else 0) := by
  cases hl : b.popL <;> cases hr : b.popR <;> simp [takeTokens, hl, hr, tokIn_popTok]

/-! ### What a bundle that waits leaves -/

/-- A core with the registers of another that its streams share. -/
def Core.withRegs (c r : Core) : Core := { c with v := r.v, p := r.p, kbank := r.kbank }

@[simp] theorem stream_withRegs (c r : Core) (n : StreamName) : (c.withRegs r).stream n = c.stream n := by
  cases n <;> rfl

@[simp] theorem tokIn_withRegs (c r : Core) (q : StreamName) (side : Bool) : tokIn (c.withRegs r) q side = tokIn c q side := by
  cases q <;> cases side <;> rfl

theorem core_unread (w : Who) (n m : Module) :
    (unread w n m).core w.die w.core = (m.core w.die w.core).withRegs (n.core w.die w.core) := Module.core_modCore_same ..

theorem strm_modCore_of_stream {m : Module} {w : Who} {f : Core → Core} (hf : ∀ c, (f c).stream w.stream = c.stream w.stream) :
    (m.modCore w.die w.core f).strm w = m.strm w := by
  rw [Module.strm, Module.core_modCore_same, hf]; rfl

theorem strm_unread (w : Who) (n m : Module) : (unread w n m).strm w = m.strm w :=
  strm_modCore_of_stream fun c => stream_withRegs c (n.core w.die w.core) w.stream

/-- The core of a stream after an update of the stream. -/
theorem core_modStrm_same (m : Module) (w : Who) (f : Stream → Stream) :
    (m.modStrm w f).core w.die w.core = (m.core w.die w.core).setStream w.stream (f (m.strm w)) := by
  rw [Module.core_modStrm, if_pos ⟨rfl, rfl⟩]

theorem keepIssued_some {b : Bundle} {s : State} {g : Progress} {m : Module} (h : s.srcStrm.issued ≠ none) :
    keepIssued b s g m = m := by
  unfold keepIssued
  split
  · rfl
  next hn => exact absurd hn h

theorem keepIssued_none {b : Bundle} {s : State} {g : Progress} {m : Module} (h : s.srcStrm.issued = none) :
    keepIssued b s g m = (m.modCore s.cur.die s.cur.core (takeTokens s.cur.stream b)).modStrm s.cur fun x => { x with
      issued := some (issueNow b s g) } := by
  unfold keepIssued
  rw [h]

theorem strm_keepIssued_none {b : Bundle} {s : State} {g : Progress} {m : Module} (h : s.srcStrm.issued = none) :
    (keepIssued b s g m).strm s.cur = { m.strm s.cur with issued := some (issueNow b s g) } := by
  rw [keepIssued_none h, Module.strm_modStrm_same, strm_modCore_of_stream fun c => stream_takeTokens ..]

/-- A bundle that waits takes its tokens when it issues, and leaves the registers. -/
theorem core_keepIssued_none {b : Bundle} {s : State} {g : Progress} {m : Module} (h : s.srcStrm.issued = none) :
    ∃ x, (keepIssued b s g m).core s.cur.die s.cur.core =
      (takeTokens s.cur.stream b (m.core s.cur.die s.cur.core)).setStream s.cur.stream x := by
  rw [keepIssued_none h, core_modStrm_same, Module.core_modCore_same]
  exact ⟨_, rfl⟩

theorem keepIssued_shared (b : Bundle) (s : State) (g : Progress) (m : Module) :
    let c := (keepIssued b s g m).core s.cur.die s.cur.core
    c.v = (m.core s.cur.die s.cur.core).v ∧ c.p = (m.core s.cur.die s.cur.core).p ∧
      c.kbank = (m.core s.cur.die s.cur.core).kbank := by
  by_cases h : s.srcStrm.issued = none
  · obtain ⟨x, hx⟩ := core_keepIssued_none (b := b) (g := g) (m := m) h
    obtain ⟨hv, hp, hk⟩ := takeTokens_shared s.cur.stream b (m.core s.cur.die s.cur.core)
    simp only [hx, Core.setStream_v, Core.setStream_p, Core.setStream_kbank]
    exact ⟨hv, hp, hk⟩
  · rw [keepIssued_some h]
    exact ⟨rfl, rfl, rfl⟩

/-! ### The state in which the ops of a bundle run -/

@[simp] theorem startBundle_cur (w : Who) (s : State) : (startBundle w s).cur = w := rfl

/-- The bundle reads its stream as it stands. -/
theorem startBundle_srcStrm (w : Who) (s : State) : (startBundle w s).srcStrm = s.m.strm w := by
  cases h : (s.m.strm w).issued with
  | none => simp [startBundle, State.srcStrm, State.src, h]
  | some i =>
    simp only [startBundle, State.srcStrm, State.src, h, Option.getD_some]
    refine strm_modCore_of_stream fun c => ?_
    cases w.stream <;> rfl

theorem startBundle_srcCore {w : Who} {s : State} (h : (s.m.strm w).issued = none) :
    (startBundle w s).srcCore = s.m.core w.die w.core := by
  simp [startBundle, State.srcCore, State.src, h]

/-! ### What a bundle that waits leaves, from its issue -/

/-- A bundle of stream `w` that waits when its op has left the module `m`. -/
def waitsIn (b : Bundle) (w : Who) (s : State) (m : Module) : Module :=
  keepIssued b (startBundle w s) {} (unread w s.m m)

section Waits
variable (b : Bundle) (w : Who) (s : State) (m : Module)

/-- The registers that the streams share stay as they were. -/
theorem waitsIn_shared : let c := (waitsIn b w s m).core w.die w.core
    c.v = (s.m.core w.die w.core).v ∧ c.p = (s.m.core w.die w.core).p ∧ c.kbank = (s.m.core w.die w.core).kbank := by
  have h := keepIssued_shared b (startBundle w s) {} (unread w s.m m)
  rw [startBundle_cur, core_unread] at h
  exact h

variable {b w s m}

/-- At its issue the bundle notes what it read. -/
theorem waitsIn_strm_of_issues (hi : (s.m.strm w).issued = none) : ∃ k,
    (waitsIn b w s m).strm w = { m.strm w with issued := some k } ∧
    k.v = (s.m.core w.die w.core).v ∧ k.p = (s.m.core w.die w.core).p ∧ k.kbank = (s.m.core w.die w.core).kbank := by
  have h := strm_keepIssued_none (b := b) (s := startBundle w s) (g := {}) (m := unread w s.m m)
    (by rw [startBundle_srcStrm]; exact hi)
  rw [startBundle_cur, strm_unread] at h
  refine ⟨_, h, ?_⟩
  simp only [issueNow, startBundle_srcCore hi]
  exact ⟨trivial, trivial, trivial⟩

/-- At its issue the bundle takes its tokens. -/
theorem waitsIn_tokens (hi : (s.m.strm w).issued = none) :
    tokIn ((waitsIn b w s m).core w.die w.core) w.stream true =
        tokIn (m.core w.die w.core) w.stream true - (if b.popL then 1 else 0) ∧
      tokIn ((waitsIn b w s m).core w.die w.core) w.stream false =
        tokIn (m.core w.die w.core) w.stream false - (if b.popR then 1 else 0) := by
  obtain ⟨x, hx⟩ := core_keepIssued_none (b := b) (s := startBundle w s) (g := {}) (m := unread w s.m m)
    (by rw [startBundle_srcStrm]; exact hi)
  rw [startBundle_cur, core_unread] at hx
  have h := tokIn_takeTokens w.stream b ((m.core w.die w.core).withRegs (s.m.core w.die w.core))
  rw [tokIn_withRegs, tokIn_withRegs] at h
  rw [waitsIn, hx, tokIn_setStream, tokIn_setStream]
  exact h

/-- A bundle that has issued keeps what its op has left of the stream. -/
theorem waitsIn_strm_of_issued (hi : (s.m.strm w).issued ≠ none) : (waitsIn b w s m).strm w = m.strm w := by
  rw [waitsIn, keepIssued_some (by rw [startBundle_srcStrm]; exact hi), strm_unread]

end Waits

end Sys2Proof.Machine
end

section
/-! SUPPORT. The turns of the agenda: a bundle that issues, one with a field at fault, one that retires; a chain's record;
time (log 3). -/

namespace Sys2Proof.Machine

/-! ### The turns of the agenda -/

theorem step_of_agenda {s : State} {t : Turn} {rest : List Turn} (h : s.agenda = t :: rest) :
    step s = doTurn exec sequencer serveMail t { s with agenda := rest } := by
  unfold step runTurn
  rw [h]

/-! ### Fields at fault -/

/-- The fields of a bundle stand in the order of their places. -/
theorem bundleFields_places (w : Nat) : (bundleFields w).map Prod.fst = [1, 2, 3, 4, 5] := rfl

theorem bundleFields_sorted (w : Nat) : (bundleFields w).Pairwise fun f g => f.1 < g.1 := by
  have h : ((bundleFields w).map Prod.fst).Pairwise (· < ·) := by rw [bundleFields_places]; decide
  exact List.pairwise_map.1 h

/-- Whether the field `f` of a bundle is at fault (02 R39, R46 to R48, 09 R273). -/
def fieldFault (st : StreamName) (handler : Option Nat) (jord w : Nat) (f : Nat × Option Instr) : Bool :=
  match f.2 with
  | none => true
  | some i => badOp st handler.isSome f.1 i ||
      ((bundleFields w).any fun q => decide (q.1 ≠ f.1) && q.2.any (sameDest jord i)) ||
      (decide (f.1 = 1) && handler.any fun n => decide (64 ≤ n))

theorem illegalField_eq (st : StreamName) (handler : Option Nat) (jord w : Nat) : illegalField st handler jord w =
    if badTokens st handler.isSome w then some 0
    else ((bundleFields w).find? (fieldFault st handler jord w)).map Prod.fst := by
  rfl

theorem fieldFault_eq_false_iff {st : StreamName} {handler : Option Nat} {jord w : Nat} {f : Nat × Option Instr}
    (h : fieldFault st handler jord w f = false) : ∃ i, f.2 = some i ∧ badOp st handler.isSome f.1 i = false ∧
      ∀ e ∈ bundleFields w, ∀ k, e.1 ≠ f.1 → e.2 = some k → sameDest jord i k = false := by
  obtain ⟨p, _ | i⟩ := f
  · cases h
  · simp only [fieldFault, Bool.or_eq_false_iff] at h
    obtain ⟨⟨hbad, hclash⟩, -⟩ := h
    refine ⟨i, rfl, hbad, fun e he k hne hk => ?_⟩
    have := List.any_eq_false.1 hclash e he
    simpa [hne, hk] using this

/-- Fields before the first at fault are none at fault. -/
theorem fieldFault_of_lt {st : StreamName} {handler : Option Nat} {jord w : Nat} {p : Nat} {f : Nat × Option Instr}
    (h : ((bundleFields w).find? (fieldFault st handler jord w)).map Prod.fst = some p) (hf : f ∈ bundleFields w)
    (hlt : f.1 < p) : fieldFault st handler jord w f = false := by
  obtain ⟨g, hg, rfl⟩ := Option.map_eq_some_iff.1 h
  obtain ⟨-, as, bs, hl, has⟩ := List.find?_eq_some_iff_append.1 hg
  have hs := bundleFields_sorted w
  rw [hl] at hs hf
  rcases List.mem_append.1 hf with hf | hf
  · simpa using has f hf
  · rcases List.mem_cons.1 hf with rfl | hf
    · exact absurd hlt (lt_irrefl _)
    · have := List.rel_of_pairwise_cons (List.pairwise_append.1 hs).2.1 hf
      omega

/-- The lowest field at fault is 0 for the token bits alone, and the fields before it are without fault (02 R39, R48). -/
theorem illegalField_least (q : StreamName) (h : Option Nat) (j w p : Nat) (hp : illegalField q h j w = some p) :
    (p = 0 ↔ badTokens q h.isSome w = true) ∧
      ∀ f, f ∈ bundleFields w → p ≠ 0 → f.1 < p → ∃ i, f.2 = some i ∧ badOp q h.isSome f.1 i = false ∧
        ∀ e ∈ bundleFields w, ∀ k, e.1 ≠ f.1 → e.2 = some k → sameDest j i k = false := by
  rw [illegalField_eq] at hp
  split at hp
  next ht =>
    obtain rfl := Option.some.inj hp
    exact ⟨⟨fun _ => ht, fun _ => rfl⟩, fun _ _ h0 => absurd rfl h0⟩
  next ht =>
    have hpos : p ≠ 0 := by
      obtain ⟨g, hg, rfl⟩ := Option.map_eq_some_iff.1 hp
      have : g.1 ∈ (bundleFields w).map Prod.fst := List.mem_map_of_mem (List.mem_of_find?_eq_some hg)
      rintro h0
      rw [bundleFields_places, h0] at this
      exact absurd this (by decide)
    exact ⟨⟨fun h0 => absurd h0 hpos, fun h => absurd h ht⟩,
      fun f hf _ hlt => fieldFault_eq_false_iff (fieldFault_of_lt hp hf hlt)⟩

/-- A bundle that does not decode has a field at fault. -/
theorem illegalField_isSome_of_error {q : StreamName} {h : Option Nat} {j w : Nat} {e : Bad} (he : decodeBundle w = .error e) :
    (illegalField q h j w).isSome = true := by
  by_contra hn
  rw [Bool.not_eq_true, Option.isSome_eq_false_iff, Option.isNone_iff_eq_none, illegalField_eq] at hn
  split at hn
  · cases hn
  next ht =>
  rw [Option.map_eq_none_iff, List.find?_eq_none] at hn
  have hfield : ∀ f ∈ bundleFields w, ∃ i, f.2 = some i := fun f hf => by
    obtain ⟨i, hi, -⟩ := fieldFault_eq_false_iff (by simpa using hn f hf)
    exact ⟨i, hi⟩
  simp only [bundleFields, List.forall_mem_cons, List.not_mem_nil, false_imp_iff, implies_true, and_true] at hfield
  obtain ⟨⟨c, hc⟩, ⟨a, ha⟩, ⟨s1, h1⟩, ⟨s2, h2⟩, ⟨s3, h3⟩⟩ := hfield
  obtain ⟨c, hc, -⟩ := Option.map_eq_some_iff.1 hc
  obtain ⟨a, ha, -⟩ := Option.map_eq_some_iff.1 ha
  have htok : fld w 4 4 = 0 := by
    by_contra h4
    exact ht (by simp [badTokens, h4])
  have hok : decodeBundle w = .ok {
      popL := bitAt w 0, popR := bitAt w 1, pushL := bitAt w 2, pushR := bitAt w 3, ctl := c, adr := a, s1 := s1, s2 := s2
      s3 := s3 } :=
    decodeBundle_eq_ok_iff.2 ⟨htok, hc, ha, h1, h2, h3, rfl, rfl, rfl, rfl⟩
  rw [hok] at he
  cases he

/-! ### A stream's turn -/

/-- The turn of a stream that runs, that nothing holds and whose buffer holds the bundle at its program counter issues it. -/
theorem step_issue {s : State} {w : Who} {rest : List Turn} {line : Line} (ha : s.agenda = .stream w :: rest)
    (hrun : (s.m.strm w).status = .running) (hpaged : (s.m.strm w).paged = false) (hpar : (s.m.strm w).parityAt = none)
    (hsoft : (s.m.strm w).soft = false) (hdoom : (s.m.strm w).doomed = false) (hirq : takesInterrupt s.m w = false)
    (hfr : coreFrozen s.m w.die w.core = false) (hst : stopping s.m w.die w.core = false)
    (hf : (s.m.strm w).fetch.find? (fun e => decide (e.1 = (s.m.strm w).pc.toNat)) = some ((s.m.strm w).pc.toNat, line)) :
    step s = issueBundle exec w line { s with agenda := rest } := by
  rw [step_of_agenda ha]
  simp only [doTurn, streamTurn]
  simp only [hrun, hpaged, hpar, hsoft, hdoom, hirq, hfr, hst, hf]
  simp

/-- The turn of a stream that is to take an interrupt takes it. -/
theorem step_interrupt {s : State} {w : Who} {rest : List Turn} (ha : s.agenda = .stream w :: rest)
    (hsoft : (s.m.strm w).soft = false) (hirq : takesInterrupt s.m w = true) :
    step s = exec (.interruptTake w) { s with agenda := rest } := by
  have h := hirq
  simp only [takesInterrupt, Bool.and_eq_true, Bool.not_eq_true', decide_eq_true_eq, Option.isNone_iff_eq_none] at h
  obtain ⟨⟨⟨⟨⟨⟨⟨⟨⟨⟨hrun, -⟩, -⟩, -⟩, -⟩, -⟩, hpaged⟩, hpar⟩, hdoom⟩, hst⟩, hfr⟩ := h
  rw [step_of_agenda ha]
  simp only [doTurn, streamTurn]
  simp only [hrun, hpaged, hpar, hsoft, hdoom, hirq, hfr, hst]
  simp

theorem issueBundle_illegal {w : Who} {line : Line} {s : State} {p : Nat}
    (h : illegalField w.stream (s.m.strm w).handler (s.m.strm w).jord.toNat line.toNat = some p) :
    issueBundle exec w line s = issueIllegal exec p line.toNat (startBundle w s) := by
  simp only [issueBundle, h]

theorem issueBundle_legal {w : Who} {line : Line} {s : State} {b : Bundle} {r : Run}
    (h : illegalField w.stream (s.m.strm w).handler (s.m.strm w).jord.toNat line.toNat = none)
    (hb : decodeBundle line.toNat = .ok b) (hr : runBundle exec b (startBundle w s) = .ok r) :
    issueBundle exec w line s = .next (closeBundle b (startBundle w s) r) := by
  simp only [issueBundle, h, hb, hr]

/-- A bundle with a field at fault raises ILLEGAL: that of an op before the field, or its own (02 R48). -/
theorem issueIllegal_raises (p w : Nat) (s : State) : ∃ r t, runBundle exec (bundleBefore p w) s = .ok r ∧ t.code = 1 ∧
    issueIllegal exec p w s = .next (trapped t { s with pre := some s.m }) ∧
    (r.best = some t ∨ (t.place = p ∧ ∀ u, r.best = some u → u.code ≠ 1)) := by
  obtain ⟨r, hr⟩ := runBundle_ok exec_answers (bundleBefore p w) s
  simp only [issueIllegal, hr]
  cases hb : r.best with
  | none => exact ⟨r, _, rfl, rfl, rfl, .inr ⟨rfl, fun u hu => by cases hb ▸ hu⟩⟩
  | some u =>
    by_cases hu : u.code = 1
    · exact ⟨r, u, rfl, hu, by simp [Option.filter, hu], .inl hb⟩
    · exact ⟨r, _, rfl, rfl, by simp [Option.filter, hu]; rfl, .inr ⟨rfl, fun v hv => Option.some.inj (hb ▸ hv) ▸ hu⟩⟩

/-! ### A bundle that is legal and whose tokens and registers are ready -/

section Legal
variable {s : State} {b : Bundle} (ht : TokensClear s b) (hp : ParityClear s b)
include ht hp

/-- All ops go through and the bundle retires. -/
theorem runBundle_retires {t : State} (h : goThrough exec (b.ops.map (resolveOp s)) s = some t) :
    ∃ r, runBundle exec b s = .ok r ∧ closeBundle b s r = retire b t :=
  ⟨_, runBundle_eq ht (runOps_of_goThrough (r := { st := s }) h), closeBundle_retire hp⟩

variable {i : Instr} {t : State} (hi : b.ops.map (resolveOp s) = [i]) (he : exec i s = .next t)
include hi he

theorem runBundle_traps {y : Trap} (hv : t.verdict = .trapped y)
    (hy : (s.m.strm s.cur).wait.inFlight = false ∨ y.code = 0x0B) :
    ∃ r, runBundle exec b s = .ok r ∧ closeBundle b s r = trapped y { s with pre := some s.m } :=
  ⟨_, runBundle_eq ht (by rw [hi, runOps_singleton, runOp_trapped he hv]), closeBundle_trapped hp hy⟩

omit hp in
theorem runBundle_unissued (hv : t.verdict = .unissued) :
    ∃ r, runBundle exec b s = .ok r ∧ closeBundle b s r = settled s :=
  ⟨_, runBundle_eq ht (by rw [hi, runOps_singleton, runOp_unissued he hv]), closeBundle_unissued⟩

theorem runBundle_waits (hv : t.verdict = .blocked) :
    ∃ r m, (m = t.m ∨ m = keepTags t.cur s.m t.m) ∧ runBundle exec b s = .ok r ∧
      closeBundle b s r = settled { s with m := keepIssued b s s.bnd (unread s.cur s.m m) } := by
  obtain ⟨m, hm, hr⟩ := runOp_blocked he hv
  exact ⟨_, m, hm, runBundle_eq ht (by rw [hi, runOps_singleton, hr]), closeBundle_blocked hp⟩

end Legal

/-! ### Retirement -/

theorem stream_popQueue (c : Core) (q : QName) (n : StreamName) : (popQueue c q).stream n = c.stream n := by
  cases q <;> cases n <;> rfl

theorem stream_shiftScales (e : Option Scales) (c : Core) (n : StreamName) : (shiftScales e c).stream n = c.stream n := by
  cases n <;> rfl

theorem renew_renew (els l : List (RegName × Nat)) : renew els (renew els l) = renew els l := by
  simp [renew]

theorem advance_straight {x : Stream} (h : x.loops = []) : advance x = { x with pc := x.pc + 64 } := by
  unfold advance
  split
  · rfl
  · rw [h]
    simp only [loopEnd]

/-- The parity of the elements of X's registers that the bundle has written is good again (15 R363). -/
def renewX (els : List (RegName × Nat)) (c : Core) : Core := { c with x := { c.x with badRegs := renew els c.x.badRegs } }

/-- What retirement makes of the core: queues, tokens, parity, the scale bypass (02 R36, 05 R148). -/
def retireCore (b : Bundle) (s : State) (c : Core) : Core :=
  let q := s.cur.stream
  let c := if s.bnd.popQlx then popQueue c .qlx else c
  let c := if s.bnd.popQxs then popQueue c .qxs else c
  let c := if s.srcStrm.issued.isSome then c else takeTokens q b c
  let c := renewX s.bnd.renewed c
  let c := if b.pushL then pushTok q true c else c
  let c := if b.pushR then pushTok q false c else c
  if q = .x ∧ !s.srcStrm.handler.isSome then shiftScales s.bnd.scales c else c

/-- What retirement makes of the stream before it moves on. -/
def retireStrm (s : State) (x : Stream) : Stream :=
  { x with
    wait := if x.handler.isNone && s.srcStrm.handler.isSome then x.wait else .none
    cwait := if x.handler.isNone && s.srcStrm.handler.isSome then x.cwait else .none
    issued := none, badRegs := renew s.bnd.renewed x.badRegs
    restored := [], oplog := (s.bnd.writes :: x.oplog).take 64
    handler := x.handler.map (· + 1) }

theorem retire_of_seq {b : Bundle} {s : State} (hseq : s.bnd.flow = .seq) :
    retire b s = settled ((s.modCore (retireCore b s)).modStrm fun x => advance (retireStrm s x)) := by
  have h : retire b s = settled ((s.modCore (retireCore b s)).modStrm fun x => match s.bnd.flow with
      | .jump => if x.fetch.any (fun e => decide (e.1 = x.pc.toNat)) then retireStrm s x else { retireStrm s x with fetch := [] }
      | .loop => { retireStrm s x with pc := x.pc + 64 }
      | .seq => advance (retireStrm s x)) := rfl
  rw [h, hseq]

/-- Of the streams, retirement's change of the core touches the parity of X alone. -/
theorem stream_retireCore (b : Bundle) (s : State) (c : Core) (n : StreamName) :
    (retireCore b s c).stream n =
      if n = .x then { c.stream .x with badRegs := renew s.bnd.renewed (c.stream .x).badRegs } else c.stream n := by
  have ite_stream : ∀ (p : Prop) [Decidable p] (a d : Core) (k : StreamName),
      (if p then a else d).stream k = if p then a.stream k else d.stream k := fun p _ a d k => apply_ite (Core.stream · k) p a d
  have renewX_stream : ∀ (l : List (RegName × Nat)) (c : Core) (k : StreamName), (renewX l c).stream k =
      if k = .x then { c.stream .x with badRegs := renew l (c.stream .x).badRegs } else c.stream k := by
    intro l c k
    cases k <;> rfl
  simp only [retireCore, ite_stream, stream_shiftScales, stream_pushTok, renewX_stream, stream_takeTokens, stream_popQueue,
    ite_self]

theorem strm_retire (b : Bundle) (s : State) (hseq : s.bnd.flow = .seq) (hl : s.strm.loops = []) :
     (retire b s).m.strm s.cur = { s.strm with
       pc := s.strm.pc + 64, restored := [], oplog := (s.bnd.writes :: s.strm.oplog).take 64, issued := none
       badRegs := s.strm.badRegs.filter fun e => !s.bnd.renewed.any fun r => decide (r.1 = e.1) && bitAt r.2 e.2
       handler := s.strm.handler.map (· + 1)
       wait := if s.strm.handler = none ∧ s.srcStrm.handler.isSome = true then s.strm.wait else .none
       cwait := if s.strm.handler = none ∧ s.srcStrm.handler.isSome = true then s.strm.cwait else .none } := by
  have hx : (s.modCore (retireCore b s)).m.strm s.cur =
      if s.cur.stream = .x then { s.strm with badRegs := renew s.bnd.renewed s.strm.badRegs } else s.strm := by
    rw [State.modCore, Module.strm, Module.core_modCore_same, stream_retireCore]
    split
    next h => rw [State.strm, Module.strm, h]
    · rfl
  have hr : retireStrm s ((s.modCore (retireCore b s)).m.strm s.cur) = retireStrm s s.strm := by
    rw [hx]
    split
    · simp only [retireStrm, renew_renew]
    · rfl
  calc (retire b s).m.strm s.cur
      = advance (retireStrm s ((s.modCore (retireCore b s)).m.strm s.cur)) := by
        rw [retire_of_seq hseq]
        exact Module.strm_modStrm_same ..
    _ = { retireStrm s s.strm with pc := s.strm.pc + 64 } := by
        rw [hr]
        exact advance_straight hl
    _ = _ := by
        simp only [retireStrm, renew, Bool.and_eq_true, Option.isNone_iff_eq_none]

/-! ### A chain's turn -/

theorem trackEach_frame {m n : Module} {p : Actor} {a k : Nat} {ls : List (Loc × Nat)}
    (h : trackEach p a ls k m = .ok n) : n = { m with dies := n.dies, ctxs := n.ctxs } := by
  induction ls generalizing m k with
  | nil => cases h; rfl
  | cons l ls ih =>
    simp only [trackEach] at h
    split at h
    · cases h
    next m' hm => rw [ih h, trackLocs_frame hm]

/-- An engine's load changes tags and race records alone. -/
theorem loadEach_frame {m n : Module} {p : Actor} {a : Nat} {ls : List (Loc × Nat)} {bs : List Byte}
    (h : loadEach m p a ls = .ok (bs, n)) : n = { m with dies := n.dies, ctxs := n.ctxs } := by
  unfold loadEach at h
  split at h
  · cases h
  split at h
  · cases h
  split at h
  · cases h
  next hm => cases h; exact trackEach_frame hm

theorem chLoad_frame {m n : Module} {i : ChainId} {st : Option (Nat × W32)} {a len : Nat} {bs : List Byte}
    (h : chLoad m i st a len = .ok (bs, n)) : n = { m with dies := n.dies, ctxs := n.ctxs } := by
  unfold chLoad at h
  dsimp only at h
  split at h
  · cases h
  next ls _ =>
    cases hl : loadEach m (chainActor (m.chain i) st) a ls with
    | error e => rw [hl] at h; cases h
    | ok r => rw [hl] at h; cases h; exact loadEach_frame hl

/-- The records of chains stand after a load. -/
theorem chLoad_chain {m n : Module} {i : ChainId} {st : Option (Nat × W32)} {a len : Nat} {bs : List Byte}
    (h : chLoad m i st a len = .ok (bs, n)) (j : ChainId) : n.chain j = m.chain j := by
  rw [chLoad_frame h]; rfl

theorem chainKey_inj {i j : ChainId} : chainKey i = chainKey j ↔ i = j := by
  refine ⟨fun h => ?_, fun h => h ▸ rfl⟩
  cases i with
  | job d c n =>
    cases j with
    | job d' c' n' =>
      simp only [chainKey] at h
      obtain ⟨rfl, rfl, rfl⟩ : d = d' ∧ c = c' ∧ n = n' :=
        ⟨Fin.ext (by omega), Fin.ext (by omega), Fin.ext (by omega)⟩
      rfl
    | node => simp only [chainKey] at h; omega
  | node d x g n =>
    cases j with
    | job => simp only [chainKey] at h; omega
    | node d' x' g' n' =>
      simp only [chainKey] at h
      have hn := n.isLt
      have hn' := n'.isLt
      obtain ⟨rfl, rfl, rfl, rfl⟩ : d = d' ∧ x = x' ∧ n = n' ∧ g = g' :=
        ⟨Fin.ext (by omega), Fin.ext (by omega), BitVec.eq_of_toNat_eq (by omega), BitVec.eq_of_toNat_eq (by omega)⟩
      rfl

theorem chainOnly_modChain (m : Module) (i : ChainId) (f : Chain → Chain) : ChainOnly m (m.modChain i f) i := by
  refine ⟨rfl, fun j hj => ?_⟩
  rw [Module.modChain, Module.chain, Module.setChain, Tbl.get_set, if_neg (chainKey_inj.not.2 hj)]
  rfl

/-- The chain holds the record that it has read at its position; a command's units count from 0 (09 R257, R261). -/
def Chain.withRecord (code : Nat) (bs : List Byte) (k : Chain) : Chain :=
  { k with
    index := k.pos, raw := BitVec.ofNat 256 (ofBytes bs), reached := true
    units := if (cmdClass code).isSome then 0 else k.units }

section Chain
variable {s : State} {c : ChainId} {rest : List Turn} {r : Instr} (ha : s.agenda = .chain c :: rest)
  (hrun : (s.m.chain c).state = 2) (hheld : (s.m.chain c).held = false) (htier : (s.m.chain c).tier = false)
  (hdone : (s.m.chain c).done = none) (hfr : chainFrozen s.m (s.m.chain c) = false)
include ha hrun hheld htier hdone hfr

/-- A chain whose command is in progress, or whose record waits to fire, goes on with the record that it has read. -/
theorem step_chain_goesOn (h : (s.m.chain c).fired ≠ none ∨ ((s.m.chain c).cancel = false ∧ (s.m.chain c).reached = true))
    (hr : decodeRec (s.m.chain c).raw.toNat = some r) : step s = exec r { s with agenda := rest, chain := c } := by
  rw [step_of_agenda ha]
  simp only [doTurn, sequencer]
  cases hf : (s.m.chain c).fired with
  | some _ => simp [hrun, hheld, htier, hdone, hfr, hr]
  | none =>
    obtain ⟨hc, hre⟩ := h.resolve_left fun hn => hn hf
    simp [hrun, hheld, htier, hdone, hfr, hc, hre, hr]

/-- A chain between records reads its next one. -/
theorem step_chain_reads {bs : List Byte} {m : Module} {code : Nat} {f : Rec} (hf : (s.m.chain c).fired = none)
    (hc : (s.m.chain c).cancel = false) (hre : (s.m.chain c).reached = false)
    (hl : chLoad s.m c none ((s.m.chain c).head.toNat + 32 * (s.m.chain c).pos) 32 = .ok (bs, m))
    (hr : decodeRec (ofBytes bs) = some r) (hcode : recCode r = some (code, f)) :
    step s = if recBad (s.m.chain c).cls (s.m.chain c).who.isSome code f then
        .next { s with agenda := rest, chain := c, m := stopChain m c 1 0 0 0 }
      else exec r { s with agenda := rest, chain := c, m := m.modChain c (Chain.withRecord code bs) } := by
  rw [step_of_agenda ha]
  simp only [doTurn, sequencer]
  simp [hrun, hheld, htier, hdone, hfr, hf, hc, hre, hl, hr, hcode]
  rfl
end Chain

/-! ### Time -/

theorem dies_foldl_modDie (f : Die → Die) (ds : List (Fin 16)) (m : Module) :
    ds.foldl (fun m d => m.modDie d f) m = { m with dies := (ds.foldl (fun m d => m.modDie d f) m).dies } := by
  induction ds generalizing m with
  | nil => rfl
  | cons d ds ih => rw [List.foldl_cons, ih]; rfl

theorem die_foldl_modDie (f : Die → Die) {ds : List (Fin 16)} (hd : ds.Nodup) (m : Module) (d : Fin 16) :
    (ds.foldl (fun m d => m.modDie d f) m).die d = if d ∈ ds then f (m.die d) else m.die d := by
  induction ds generalizing m with
  | nil => simp
  | cons e ds ih =>
    obtain ⟨he, hd⟩ := List.nodup_cons.1 hd
    rw [List.foldl_cons, ih hd, Module.die_modDie]
    by_cases h : d = e
    · subst h; simp [he]
    · simp [h]

/-- A turn of time adds to the clock of every die, and to nothing else. -/
theorem passTime_spec (m : Module) (n : Nat) : passTime m n = { m with dies := (passTime m n).dies } ∧
    ∀ d, (passTime m n).die d = { m.die d with cyc := (m.die d).cyc + BitVec.ofNat 64 n } := by
  refine ⟨dies_foldl_modDie _ _ m, fun d => ?_⟩
  rw [passTime, die_foldl_modDie _ (List.nodup_finRange 16), if_pos (List.mem_finRange d)]

/-! ### The obligation -/

/-- Settles O55: part by part, from what a turn does with a bundle whose ops have come to one of four ends, with a record of a
chain, with an event, with time and with a mailbox write. -/
theorem stepRunsTheDecodedInstruction : Obligations.StepRunsTheDecodedInstruction := by
  refine ⟨?bundle, fun s w rest ha hsoft hirq => step_interrupt ha hsoft hirq, illegalField_least, strm_retire, ?chain, ?event⟩
  case bundle =>
    intro s w rest line x core s1 s0 least ha hrun hpaged hpar hsoft hdoom hirq hfr hst hf
    have hstep := step_issue ha hrun hpaged hpar hsoft hdoom hirq hfr hst hf
    let s' : State := { s with agenda := rest }
    refine ⟨fun e he => illegalField_isSome_of_error he, fun p hp => ?_, fun b hb hnone htok => ⟨?_, ?_⟩⟩
    · obtain ⟨r, t, hr, ht, hi, hbest⟩ := issueIllegal_raises p line.toNat s0
      exact ⟨r, t, hr, ht, hstep.trans ((issueBundle_illegal (s := s') hp).trans hi), hbest⟩
    all_goals
      have hissued : s0.srcStrm.issued = x.issued := congrArg Stream.issued (startBundle_srcStrm w s')
      have htc : TokensClear s0 b := fun hi => by
        rw [hissued] at hi
        have hcore : s0.srcCore = core s.m := startBundle_srcCore (s := s') hi
        rw [hcore]
        exact (htok hi).2
      have hpc : ParityClear s0 b := fun hi => (htok hi).1
      have hclose : ∀ r, runBundle exec b s0 = .ok r → step s = .next (closeBundle b s0 r) := fun r hr =>
        hstep.trans (issueBundle_legal (s := s') hnone hb hr)
    · intro t ht
      obtain ⟨r, hr, hc⟩ := runBundle_retires htc hpc ht
      rw [hclose r hr, hc]
    · intro i t hi he
      refine ⟨fun hv => ?_, fun hv => ?_, fun y hv hy => ?_⟩
      · obtain ⟨r, m, hm, hr, hc⟩ := runBundle_waits htc hpc hi he hv
        have hcore : core m = core t.m := by rcases hm with rfl | rfl <;> rfl
        have hstrm : m.strm w = t.m.strm w := by rcases hm with rfl | rfl <;> rfl
        obtain ⟨hv, hp, hk⟩ := waitsIn_shared b w s' m
        refine ⟨waitsIn b w s' m, by rw [hclose r hr, hc]; rfl, hv, hp, hk, fun hi => ⟨?_, ?_⟩, fun hi => ?_⟩
        · rw [← hstrm]
          exact waitsIn_strm_of_issues hi
        · rw [← hcore]
          exact waitsIn_tokens hi
        · rw [← hstrm]
          exact waitsIn_strm_of_issued hi
      · obtain ⟨r, hr, hc⟩ := runBundle_unissued htc hi he hv
        rw [hclose r hr, hc]
      · obtain ⟨r, hr, hc⟩ := runBundle_traps htc hpc hi he hv hy
        rw [hclose r hr, hc]
        rfl
  case chain =>
    intro s c rest r k s0 ha hrun hheld htier hdone hfr
    refine ⟨step_chain_goesOn ha hrun hheld htier hdone hfr, fun bs m code f hf hc hre hl hr hcode => ?_⟩
    have hstep := step_chain_reads ha hrun hheld htier hdone hfr hf hc hre hl hr hcode
    refine ⟨fun hbad => ?_, fun hbad => ⟨m.modChain c (Chain.withRecord code bs), chainOnly_modChain m c _, ?_, ?_⟩⟩
    · rw [hstep, if_pos hbad]
    · rw [hstep, if_neg (by rw [hbad]; decide)]
    · rw [Module.chain_modChain_same, Chain.withRecord, chLoad_chain hl]
  case event =>
    intro s rest
    refine ⟨fun i ha hi => ?_, fun n ha => ?_, fun r ha => ?_⟩
    · rw [step_of_agenda ha, doTurn, if_pos hi]
    · exact ⟨passTime s.m n, step_of_agenda ha, passTime_spec s.m n⟩
    · refine ⟨fun hb => ?_, fun hb => ⟨fun hd => ?_, fun hd => ?_, fun i hd => ⟨fun hok => ?_, fun hboot hrec => ?_⟩⟩⟩
      · rw [step_of_agenda ha, doTurn, if_pos hb]
      all_goals
        rw [step_of_agenda ha, doTurn, if_neg (by rw [hb]; decide)]
        simp only [serveMail, hd]
      · rfl
      · rfl
      · rw [if_pos (by simpa using hok)]
      · rw [if_neg (by simp [hboot, hrec])]
        rfl

end Sys2Proof.Machine
end

section
/-! SUPPORT. Elements packed into a tile and merged under a predicate; what an op of X leaves that writes elements to its
destination, or a value to a scalar one, and adds its flags (02 R44, R56, 04 R103 to R106). -/

namespace Sys2Proof.Machine

/-! ### Packed elements -/

theorem packBits_lt (w : Nat) (xs : List Nat) : packBits w xs < 2 ^ (w * xs.length) := by
  induction xs with
  | nil => simp [packBits]
  | cons x xs ih =>
    have hx : x % 2 ^ w < 2 ^ w := Nat.mod_lt _ (by positivity)
    rw [packBits, List.length_cons, Nat.mul_succ, Nat.add_comm (w * _), pow_add]
    calc _ < 2 ^ w + 2 ^ w * packBits w xs := by omega
      _ = 2 ^ w * (packBits w xs + 1) := by ring
      _ ≤ _ := Nat.mul_le_mul_left _ ih

theorem fld_packBits (w : Nat) (xs : List Nat) (hi : Nat) {e : Nat} (he : e < xs.length) :
    fld (packBits w xs + hi * 2 ^ (w * xs.length)) (w * e) w = xs.getD e 0 % 2 ^ w := by
  induction xs generalizing e with
  | nil => simp at he
  | cons x xs ih =>
    have hsplit : packBits w (x :: xs) + hi * 2 ^ (w * (x :: xs).length) =
        x % 2 ^ w + 2 ^ w * (packBits w xs + hi * 2 ^ (w * xs.length)) := by
      rw [packBits, List.length_cons, Nat.mul_succ, pow_add]; ring
    rw [hsplit]
    cases e with
    | zero => simp [fld]
    | succ e =>
      have := ih (e := e) (by simpa using he)
      rw [List.getD_cons_succ, ← this, fld, fld, Nat.mul_succ, Nat.add_comm (w * e), pow_add, ← Nat.div_div_eq_div_mul,
        Nat.add_mul_div_left _ _ (by positivity), Nat.div_eq_of_lt (Nat.mod_lt _ (by positivity)), Nat.zero_add]

theorem fld_fld_mod (old lo w : Nat) : fld old lo w % 2 ^ w = fld old lo w := Nat.mod_eq_of_lt (fld_lt ..)

/-- The elements that `mergeTile` packs: new ones under the predicate, old ones elsewhere. -/
def mergedElems (w old pred : Nat) (es : List Nat) : List Nat :=
  (List.range es.length).map fun e => if bitAt pred e then es.getD e 0 else fld old (w * e) w

theorem mergeTile_eq (w old pred : Nat) (es : List Nat) : mergeTile w es.length old pred es =
    packBits w (mergedElems w old pred es) + old / 2 ^ (w * es.length) * 2 ^ (w * es.length) := by
  have h : ((List.range es.length).zip es).map (fun e => if bitAt pred e.1 then e.2 else fld old (w * e.1) w) =
      mergedElems w old pred es := by
    refine List.ext_getElem (by simp [mergedElems]) fun i h1 h2 => ?_
    have hi : i < es.length := by simpa [mergedElems] using h2
    simp [mergedElems, hi]
  rw [mergeTile, h]

theorem mergeTile_holds (w old pred : Nat) (es : List Nat) :
    TileHolds w es.length (bitAt pred) (fun e => es.getD e 0) old (mergeTile w es.length old pred es) := by
  have hlen : (mergedElems w old pred es).length = es.length := by simp [mergedElems]
  rw [mergeTile_eq, ← hlen]
  constructor
  · intro e he
    rw [fld_packBits w _ _ he]
    rw [hlen] at he
    rw [mergedElems, List.getD_eq_getElem _ _ (by simpa using he), List.getElem_map, List.getElem_range, apply_ite (· % 2 ^ w),
      fld_fld_mod]
  · rw [Nat.add_mul_div_right _ _ (by positivity), Nat.div_eq_of_lt (packBits_lt ..), Nat.zero_add]

theorem mergeTile_lt {w old pred N : Nat} {es : List Nat} (ho : old < 2 ^ N) (hw : w * es.length ≤ N) :
    mergeTile w es.length old pred es < 2 ^ N := by
  have hlen : (mergedElems w old pred es).length = es.length := by simp [mergedElems]
  have hp := packBits_lt w (mergedElems w old pred es)
  have hd : old / 2 ^ (w * es.length) < 2 ^ (N - w * es.length) := by
    rw [Nat.div_lt_iff_lt_mul (by positivity), ← pow_add, Nat.sub_add_cancel hw]; exact ho
  have hN : 2 ^ N = 2 ^ (N - w * es.length) * 2 ^ (w * es.length) := by rw [← pow_add, Nat.sub_add_cancel hw]
  rw [hlen] at hp
  rw [mergeTile_eq, hN]
  calc _ < 2 ^ (w * es.length) + old / 2 ^ (w * es.length) * 2 ^ (w * es.length) := by omega
    _ = (old / 2 ^ (w * es.length) + 1) * 2 ^ (w * es.length) := by ring
    _ ≤ _ := Nat.mul_le_mul_right _ hd

/-- A tile holds what its predicate and its new elements say, element by element. -/
theorem TileHolds.congr {w n old new : Nat} {p q : Nat → Bool} {f g : Nat → Nat} (h : TileHolds w n p f old new)
    (hp : ∀ e < n, p e = q e) (hf : ∀ e < n, f e = g e) : TileHolds w n q g old new :=
  ⟨fun e he => by rw [h.1 e he, hp e he, hf e he], h.2⟩

theorem bitAt_allTrue {e : Nat} (he : e < 4096) : bitAt allTrue e = true := by
  rw [bitAt_eq_testBit, allTrue, Nat.testBit_two_pow_sub_one]; simpa using he

/-! ### What the writes of an op leave of its core -/

section
variable {s : State}

theorem onlyStream_addFlags (f : Flags) (s : State) : OnlyStream s (addFlags f s) := (OnlyStream.modStrm s _).note _

theorem strm_addFlags (f : Flags) (s : State) : (addFlags f s).strm = { s.strm with fflg := s.strm.fflg ||| f } :=
  State.strm_modStrm s _

/-- What may follow the write of an op: flags join fflg, and nothing else changes. -/
structure AddsFlags (fl : Flags) (g : State → State) : Prop where
  only : ∀ s, OnlyStream s (g s)
  strm : ∀ s, (g s).strm = { s.strm with fflg := s.strm.fflg ||| fl }

theorem addsFlags_addFlags (fl : Flags) : AddsFlags fl (addFlags fl) := ⟨onlyStream_addFlags fl, fun _ => strm_addFlags fl _⟩

theorem addsFlags_id : AddsFlags 0 id := ⟨OnlyStream.refl, fun s => by simp⟩

/-- The core after flags are added by a bundle of X. -/
theorem AddsFlags.core {fl : Flags} {g : State → State} (hg : AddsFlags fl g) (hx : s.cur.stream = .x) :
    (g s).core = { s.core with x := { s.strm with fflg := s.strm.fflg ||| fl } } := by
  rw [(hg.only s).core, hg.strm, hx]; rfl

theorem onlyCore_setV (n : Fin 32) (v els : Nat) (s : State) : OnlyCore s (setV n v els s) := (OnlyCore.modCore s _).note _

theorem core_setV (n : Fin 32) (v els : Nat) (s : State) :
    (setV n v els s).core = { s.core with v := Tbl.set 0 s.core.v n.val (BitVec.ofNat 32768 v) } :=
  State.core_modCore s _

theorem Core.vreg_lt (c : Core) (n : Nat) : c.vreg n < 2 ^ 32768 := (Tbl.get 0 c.v n).isLt

theorem strm_of_stream (hx : s.cur.stream = .x) : s.strm = s.core.x := by
  show s.core.stream s.cur.stream = _
  rw [hx]; rfl

end

/-! ### Elements written to a destination -/

/-- An op of X that writes elements to its destination and adds flags. -/
theorem writesElems_via {s u : State} {i : Instr} {d : Dst} {ty : Ty} {place mask : Nat} {es : List Nat} {fl : Flags} {g : State → State}
    (hg : AddsFlags fl g)
    (hgo : s.verdict = .go) (hx : s.cur.stream = .x) (hu : u = { s with bnd := u.bnd })
    (hfit : es.length * tyBytes ty ≤ 4096)
    (he : exec i s = slot i s ((writeTile place ty d mask es u).map g)) :
    WritesElems s i d ty es.length (bitAt mask) (fun e => es.getD e 0) fl := by
  have hbits : tyBits ty * es.length ≤ 32768 := by rw [tyBits, Nat.mul_assoc, Nat.mul_comm (tyBytes ty)]; omega
  have hm : u.m = s.m := by rw [hu]
  have hcur : u.cur = s.cur := by rw [hu]
  have hcore : u.core = s.core := by rw [State.core, State.core, hm, hcur]
  have hstrm : u.strm = s.strm := by rw [State.strm, State.strm, hm, hcur]
  have hxu : u.cur.stream = .x := by rw [hcur, hx]
  have hsu : OnlyStream s u := by rw [hu]; exact (OnlyStream.refl s).note _
  refine ⟨fun r hr => ?_, fun hq hlen hring => ?_, fun hn => ?_⟩
  · subst hr
    generalize hnew : mergeTile (tyBits ty) es.length (s.core.vreg r.val) mask es = new
    have hlt : new < 2 ^ 32768 := hnew ▸ mergeTile_lt (s.core.vreg_lt _) hbits
    have hw : writeTile place ty (.v r) mask es u = .ok (setV r new (elsOf (tyBits ty) es.length mask) u) := by
      rw [writeTile, hcore, hnew]
    have hc := core_setV r new (elsOf (tyBits ty) es.length mask) u
    have hvc : ∀ k, (g (setV r new (elsOf (tyBits ty) es.length mask) u)).core.vreg k =
        (Tbl.get 0 (Tbl.set 0 s.core.v r.val (BitVec.ofNat 32768 new)) k).toNat := fun k => by
      rw [hg.core (by exact hxu), hc, hcore]; rfl
    refine ⟨g (setV r new (elsOf (tyBits ty) es.length mask) u), ⟨?_, ?_⟩, ?_, ?_, fun k hk => ?_, ?_⟩
    · rw [he, hw]; exact slot_ok ..
    · rw [(hg.only _).verdict, (onlyCore_setV r _ _ u).verdict, hu]; exact hgo
    · exact hsu.toOnlyCore.trans ((onlyCore_setV r _ _ u).trans (hg.only _).toOnlyCore)
    · rw [hvc, Tbl.get_set_same, BitVec.toNat_ofNat, Nat.mod_eq_of_lt hlt, ← hnew]
      exact mergeTile_holds ..
    · rw [hvc, Tbl.get_set_ne _ _ _ hk]; rfl
    · have hs : (setV r new (elsOf (tyBits ty) es.length mask) u).strm = s.strm := by
        rw [strm_of_stream (by exact hxu), hc, hcore, strm_of_stream hx]
      rw [hg.core (by exact hxu), hc, hs, hcore]
  · subst hq
    generalize hnew : mergeTile (tyBits ty) es.length 0 mask es = new
    have hlt : new < 2 ^ 32768 := hnew ▸ mergeTile_lt (by positivity) hbits
    generalize hent : ({ size := es.length * tyBytes ty, data := BitVec.ofNat 32768 new } : QEntry) = ent
    generalize hq : ({ s.core.qxs with entries := s.core.qxs.entries ++ [ent] } : Queue) = q
    have hw : writeTile place ty .qxs mask es u = .ok (u.modCore fun c => c.setQueue .qxs q) := by
      rw [writeTile, hnew, hent, pushQueue, hcore, ← hq]
      simp only [Core.queue, hring, hlen, Bool.not_false, and_self, if_true]
    have hc : (u.modCore fun c => c.setQueue .qxs q).core = { s.core with qxs := q } := by
      rw [State.core_modCore, hcore]; rfl
    refine ⟨g (u.modCore fun c => c.setQueue .qxs q), ent, ⟨?_, ?_⟩, ?_, ?_, ?_, ?_⟩
    · rw [he, hw]; exact slot_ok ..
    · rw [(hg.only _).verdict, (OnlyCore.modCore u _).verdict, hu]; exact hgo
    · exact hsu.toOnlyCore.trans ((OnlyCore.modCore u _).trans (hg.only _).toOnlyCore)
    · rw [← hent]
    · rw [← hent, BitVec.toNat_ofNat, Nat.mod_eq_of_lt hlt, ← hnew]
      exact mergeTile_holds ..
    · have hs : (u.modCore fun c => c.setQueue .qxs q).strm = s.strm := by
        rw [strm_of_stream (by exact hxu), hc, strm_of_stream hx]
      rw [hg.core (by exact hxu), hc, hs, ← hq]
  · subst hn
    refine ⟨g u, ⟨?_, ?_⟩, hsu.trans (hg.only u), by rw [hg.strm, hstrm]⟩
    · rw [he]; exact slot_ok ..
    · rw [(hg.only u).verdict, hu]; exact hgo

theorem writesElems_of {s u : State} {i : Instr} {d : Dst} {ty : Ty} {place mask : Nat} {es : List Nat} {fl : Flags}
    (hgo : s.verdict = .go) (hx : s.cur.stream = .x) (hu : u = { s with bnd := u.bnd })
    (hfit : es.length * tyBytes ty ≤ 4096)
    (he : exec i s = slot i s ((writeTile place ty d mask es u).map (addFlags fl))) :
    WritesElems s i d ty es.length (bitAt mask) (fun e => es.getD e 0) fl :=
  writesElems_via (addsFlags_addFlags fl) hgo hx hu hfit he

/-- An op of X that writes elements to its destination and raises no flag. -/
theorem writesElems_plain {s u : State} {i : Instr} {d : Dst} {ty : Ty} {place mask : Nat} {es : List Nat}
    (hgo : s.verdict = .go) (hx : s.cur.stream = .x) (hu : u = { s with bnd := u.bnd })
    (hfit : es.length * tyBytes ty ≤ 4096) (he : exec i s = slot i s (writeTile place ty d mask es u)) :
    WritesElems s i d ty es.length (bitAt mask) (fun e => es.getD e 0) 0 := by
  refine writesElems_via (place := place) addsFlags_id hgo hx hu hfit (he.trans (congrArg (slot i s) ?_))
  cases writeTile place ty d mask es u <;> rfl

/-- The elements and the predicate of a write count only below the number of elements. -/
theorem WritesElems.congr {s : State} {i : Instr} {d : Dst} {ty : Ty} {n : Nat} {p q : Nat → Bool} {f g : Nat → Nat}
    {fl : Flags} (h : WritesElems s i d ty n p f fl) (hp : ∀ e < n, p e = q e) (hf : ∀ e < n, f e = g e) :
    WritesElems s i d ty n q g fl := by
  obtain ⟨hv, hq, hn⟩ := h
  refine ⟨fun r hr => ?_, fun hd hl hr => ?_, hn⟩
  · obtain ⟨t, hgo, hcore, ht, hrest⟩ := hv r hr
    exact ⟨t, hgo, hcore, ht.congr hp hf, hrest⟩
  · obtain ⟨t, e, hgo, hcore, hs, ht, hrest⟩ := hq hd hl hr
    exact ⟨t, e, hgo, hcore, hs, ht.congr hp hf, hrest⟩

/-- An op of X that writes one element for each place of the shape. -/
theorem writesTile_of {s u : State} {i : Instr} {d : Dst} {ty : Ty} {place mask : Nat} {f : Nat → Nat} {fl : Flags}
    (hgo : s.verdict = .go) (hx : s.cur.stream = .x) (hu : u = { s with bnd := u.bnd }) (hfit : tooBig s ty = false)
    (he : exec i s = slot i s ((writeTile place ty d mask ((indices s).map f) u).map (addFlags fl))) :
    WritesTile s i d ty (bitAt mask) f fl := by
  have hlen : ((indices s).map f).length = elemsOf s := by simp [indices]
  have hfit' : ((indices s).map f).length * tyBytes ty ≤ 4096 := by
    rw [hlen]; simpa [tooBig] using hfit
  have h := writesElems_of hgo hx hu hfit' he
  rw [hlen] at h
  refine h.congr (fun _ _ => rfl) fun e hlt => ?_
  rw [List.getD_eq_getElem _ _ (by rw [hlen]; exact hlt)]
  simp [indices]

/-- A whole tile is written under a mask of ones. -/
theorem WritesElems.all {s : State} {i : Instr} {d : Dst} {ty : Ty} {n : Nat} {f : Nat → Nat} {fl : Flags}
    (h : WritesElems s i d ty n (bitAt allTrue) f fl) (hn : n ≤ 4096) : WritesElems s i d ty n (fun _ => true) f fl :=
  h.congr (fun _ he => bitAt_allTrue (lt_of_lt_of_le he hn)) fun _ _ => rfl

end Sys2Proof.Machine
end

section
/-! SUPPORT. What an op leaves that writes a value to a scalar destination and adds its flags (02 R44, R51, 04 R106, R131). -/

namespace Sys2Proof.Machine

/-! ### A scalar destination -/

/-- The stream after a write of a 64-bit value to a scalar destination. -/
def scalWritten (x : Stream) (d : Dst) (v : Nat) : Stream :=
  match d with
  | .s n =>
    if x.handler.isSome && decide (56 ≤ n.val) then { x with hs := Tbl.set 0 x.hs (n.val - 56) (BitVec.ofNat 64 v) }
    else if n.val = 0 then x
    else { x with s := Tbl.set 0 x.s n.val (BitVec.ofNat 64 v) }
  | .a n => { x with a := Tbl.set 0 x.a n.val (BitVec.ofNat 48 v) }
  | .m n => { x with m := Tbl.set {} x.m n.val
                          { x.mreg n.val with inc := BitVec.ofNat 32 v, len := BitVec.ofNat 32 (v / 2 ^ 32) } }
  | _ => x

theorem setScal_onlyStream (d : Dst) (v : Nat) (s : State) : OnlyStream s (setScal d v s) := by
  cases d <;> simp only [setScal, setS, setA, setM, noteWrite]
  case s n => split_ifs <;> first | exact .refl s | exact (OnlyStream.modStrm s _).note _
  case a => exact (OnlyStream.modStrm s _).note _
  case m => exact (OnlyStream.modStrm s _).note _
  all_goals exact .refl s

theorem strm_setScal {s : State} (hs : s.strm = s.srcStrm) (d : Dst) (v : Nat) :
    (setScal d v s).strm = scalWritten s.strm d v := by
  cases d <;> simp only [setScal, setS, setA, setM, scalWritten, ← hs]
  case s n =>
    split_ifs
    · exact State.strm_modStrm s _
    · rfl
    · exact State.strm_modStrm s _
  case a => exact State.strm_modStrm s _
  case m => exact State.strm_modStrm s _

/-- What the written destination reads. -/
theorem scalWritten_reads (x : Stream) (d : Dst) (v : Nat) (hd : d.scal = true) (t : State)
    (ht : t.strm = scalWritten x d v) : dstReads t d = dstKeeps d v := by
  cases d <;> try cases hd
  case s n =>
    rw [dstReads, ht, dstKeeps, scalWritten, Stream.sreg]
    by_cases h0 : n.val = 0
    · have h56 : ¬56 ≤ n.val := by omega
      simp [h0]
    · by_cases hh : x.handler.isSome && decide (56 ≤ n.val)
      · simp only [hh, if_true]
        rw [if_neg h0, Tbl.get_set_same, BitVec.toNat_ofNat]
      · simp only [if_neg hh, if_neg h0]
        rw [Tbl.get_set_same, BitVec.toNat_ofNat]
  case a n =>
    rw [dstReads, ht, dstKeeps, scalWritten, Stream.areg, Tbl.get_set_same, BitVec.toNat_ofNat]
  case m n =>
    rw [dstReads, ht, dstKeeps, scalWritten, Stream.mreg, Tbl.get_set_same, MReg.view, BitVec.toNat_ofNat, BitVec.toNat_ofNat]
    omega

/-- Beside the destination every scalar register reads as before. -/
theorem scalWritten_others (x : Stream) (d : Dst) (v : Nat) :
    (∀ n : Fin 64, d ≠ .s n → (scalWritten x d v).sreg n.val = x.sreg n.val) ∧
    (∀ n : Fin 16, d ≠ .a n → (scalWritten x d v).areg n.val = x.areg n.val) ∧
    (∀ n : Fin 16, d ≠ .m n → (scalWritten x d v).mreg n.val = x.mreg n.val) ∧
    scalWritten x d v = { x with s := (scalWritten x d v).s, a := (scalWritten x d v).a, m := (scalWritten x d v).m
                                 hs := (scalWritten x d v).hs } := by
  cases d with
  | s n =>
    rw [scalWritten]
    by_cases hh : x.handler.isSome && decide (56 ≤ n.val)
    · rw [if_pos hh]
      refine ⟨fun k hk => ?_, fun _ _ => rfl, fun _ _ => rfl, rfl⟩
      have hk' : k.val ≠ n.val := fun h => hk (congrArg Dst.s (Fin.ext h.symm))
      simp only [Stream.sreg, Bool.and_eq_true, decide_eq_true_eq] at hh ⊢
      split
      · next h => rw [Tbl.get_set_ne _ _ _ (by omega)]
      · rfl
    · rw [if_neg hh]
      split
      · exact ⟨fun _ _ => rfl, fun _ _ => rfl, fun _ _ => rfl, rfl⟩
      · refine ⟨fun k hk => ?_, fun _ _ => rfl, fun _ _ => rfl, rfl⟩
        have hk' : k.val ≠ n.val := fun h => hk (congrArg Dst.s (Fin.ext h.symm))
        simp only [Stream.sreg, Tbl.get_set_ne _ _ _ hk']
  | a n =>
    refine ⟨fun _ _ => rfl, fun k hk => ?_, fun _ _ => rfl, rfl⟩
    have hk' : k.val ≠ n.val := fun h => hk (congrArg Dst.a (Fin.ext h.symm))
    simp only [scalWritten, Stream.areg, Tbl.get_set_ne _ _ _ hk']
  | m n =>
    refine ⟨fun _ _ => rfl, fun _ _ => rfl, fun k hk => ?_, rfl⟩
    have hk' : k.val ≠ n.val := fun h => hk (congrArg Dst.m (Fin.ext h.symm))
    simp only [scalWritten, Stream.mreg, Tbl.get_set_ne _ _ _ hk']
  | v _ | p _ | qlx | qxs | none => exact ⟨fun _ _ => rfl, fun _ _ => rfl, fun _ _ => rfl, rfl⟩

/-- The flags of a scalar destination's stream do not move with the write. -/
theorem scalWritten_flags (x : Stream) (d : Dst) (v : Nat) :
    (scalWritten x d v).fflg = x.fflg ∧ (scalWritten x d v).jflg = x.jflg := by
  rw [(scalWritten_others x d v).2.2.2]; exact ⟨rfl, rfl⟩

/-- An op that writes a value to a scalar destination and adds flags. -/
theorem writesScalar_of {s u : State} {i : Instr} {d : Dst} {v : Nat} {fl : Flags} (hgo : s.verdict = .go)
    (hsrc : s.strm = s.srcStrm) (hu : u = { s with bnd := u.bnd }) (hd : d.scal = true)
    (he : exec i s = slot i s (.ok (addFlags fl (setScal d v u)))) : WritesScalar s i d v fl := by
  have hsu : OnlyStream s u := by rw [hu]; exact (OnlyStream.refl s).note _
  have hstrm : u.strm = s.strm := by rw [hu]; rfl
  have hsrcu : u.strm = u.srcStrm := by rw [hstrm, hsrc, hu]; rfl
  have hset := strm_setScal hsrcu d v
  have ht : (addFlags fl (setScal d v u)).strm =
      { scalWritten s.strm d v with fflg := s.strm.fflg ||| fl } := by
    rw [strm_addFlags, hset, hstrm, (scalWritten_flags _ _ _).1]
  have hreads : dstReads (addFlags fl (setScal d v u)) d = dstReads (setScal d v u) d := by
    cases d <;> simp only [dstReads, strm_addFlags] <;> rfl
  obtain ⟨h1, h2, h3, h4⟩ := scalWritten_others s.strm d v
  refine ⟨addFlags fl (setScal d v u), ⟨by rw [he]; exact slot_ok .., ?_⟩, ?_, ⟨?_, ?_, ?_, ?_⟩, ?_, by rw [ht], ?_⟩
  · rw [(onlyStream_addFlags fl _).verdict, (setScal_onlyStream d v u).verdict, hu]; exact hgo
  · exact hsu.trans ((setScal_onlyStream d v u).trans (onlyStream_addFlags fl _))
  · intro n hn; rw [ht]; exact h1 n hn
  · intro n hn; rw [ht]; exact h2 n hn
  · intro n hn; rw [ht]; exact h3 n hn
  · rw [ht, h4]
  · rw [hreads]
    exact scalWritten_reads s.strm d v hd _ (by rw [hset, hstrm])
  · rw [ht]; exact (scalWritten_flags _ _ _).2

end Sys2Proof.Machine
end

section
/-! SUPPORT. The sequences of a tile, and what a reduction or a scan of them leaves (03 R98 to R101, 04 R116 to R118, R120). -/

namespace Sys2Proof.Machine

/-! ### Sequences (03 R98, 04 R116) -/

theorem sequences_eq (rows cols dir : Nat) :
    sequences rows cols dir = (List.range (seqCount rows cols dir)).map (seqMembers rows cols dir) := by
  match dir with
  | 0 => rfl
  | 1 => rfl
  | _ + 2 => rfl

theorem seqOf_eq (cols dir e : Nat) : seqOf cols dir e = (seqNumber cols dir e, seqPlace cols dir e) := by
  match dir with
  | 0 => rfl
  | 1 => rfl
  | _ + 2 => rfl

theorem seqNumber_lt {rows cols dir e : Nat} (he : e < rows * cols) : seqNumber cols dir e < seqCount rows cols dir := by
  have hc : 0 < cols := Nat.pos_of_mul_pos_left (by omega : 0 < rows * cols)
  match dir with
  | 0 => exact (Nat.div_lt_iff_lt_mul hc).2 he
  | 1 => exact Nat.mod_lt _ hc
  | _ + 2 => exact Nat.one_pos

theorem seqMembers_lt {rows cols dir q e : Nat} (hq : q < seqCount rows cols dir) (he : e ∈ seqMembers rows cols dir q) :
    e < rows * cols := by
  match dir with
  | 0 =>
    obtain ⟨j, hj, rfl⟩ := List.mem_map.1 he
    have hj := List.mem_range.1 hj
    have hq : q < rows := hq
    nlinarith
  | 1 =>
    obtain ⟨j, hj, rfl⟩ := List.mem_map.1 he
    have hj := List.mem_range.1 hj
    have hq : q < cols := hq
    nlinarith
  | _ + 2 => exact List.mem_range.1 he

theorem getD_map_range {α : Type} (f : Nat → α) (d : α) {n k : Nat} (h : k < n) : ((List.range n).map f).getD k d = f k := by
  rw [List.getD_eq_getElem _ _ (by simpa using h), List.getElem_map, List.getElem_range]

/-! ### Reading the source of a reduction -/

/-- A step that writes elements and adds flags, as one. -/
theorem writeTile_bind_addFlags {place mask : Nat} {t : Ty} {d : Dst} {es : List Nat} {fl : Flags} {u : State} :
    (do let s ← writeTile place t d mask es u; Except.ok (addFlags fl s) : Res) =
      (writeTile place t d mask es u).map (addFlags fl) := by
  cases writeTile place t d mask es u <;> rfl

section
variable {s u : State} {o : SlotOp} {a : Val}

/-- What a reduction reads: for each place of the shape whether it takes part and its element. -/
def redItems (s : State) (o : SlotOp) (a : Val) (e : Nat) : Bool × Nat := (bitAt (predOf s o) e, a.elem o.ty e)

theorem redSource_of_fetch (hf : fetch s 4 o.ty o.a = .ok (a, u)) :
    redSource o s = .ok ((indices s).map (redItems s o a), u) := by
  rw [redSource, hf]; rfl

theorem getD_items {e : Nat} (he : e < elemsOf s) : ((indices s).map (redItems s o a)).getD e (false, 0) = redItems s o a e :=
  getD_map_range _ _ he

theorem seq_items {dir q : Nat} (hq : q < seqCount (rowsOf s) (colsOf s) dir) :
    (seqMembers (rowsOf s) (colsOf s) dir q).map (fun e => ((indices s).map (redItems s o a)).getD e (false, 0)) =
      (seqMembers (rowsOf s) (colsOf s) dir q).map (redItems s o a) :=
  List.map_congr_left fun _ he => getD_items (seqMembers_lt hq he)

theorem shape_of_noted (hu : u = { s with bnd := u.bnd }) : rowsOf u = rowsOf s ∧ colsOf u = colsOf s ∧ indices u = indices s := by
  rw [hu]; exact ⟨rfl, rfl, rfl⟩

/-- The results of all sequences, in order. -/
def seqResults (s : State) (o : SlotOp) (a : Val) (f : List (Bool × Nat) → Nat × Flags) : List (Nat × Flags) :=
  (List.range (seqCount (rowsOf s) (colsOf s) o.opx.val)).map fun q =>
    f ((seqMembers (rowsOf s) (colsOf s) o.opx.val q).map (redItems s o a))

theorem redOp_eq {i : Instr} {f : Nat → List (Bool × Nat) → Nat × Flags} {ext : Nat → Nat} (hb : tooBig s o.ty = false)
    (hf : fetch s 4 o.ty o.a = .ok (a, u)) :
    redOp i o f ext s = slot i s (
      let rs := seqResults s o a (f (if o.dst.scal then 64 else tyBits o.ty))
      if o.dst.scal then .ok (addFlags (orFlags (rs.map Prod.snd)) (setScal o.dst (ext (rs.getD 0 (0, 0)).1) u))
      else (writeTile 4 o.ty o.dst allTrue
        ((indices s).map fun e => (rs.getD (seqNumber (colsOf s) o.opx.val e) (0, 0)).1) u).map
          (addFlags (orFlags (rs.map Prod.snd)))) := by
  obtain ⟨hr, hc, hi⟩ := shape_of_noted (fetch_frame hf)
  have hrs : ∀ w, ((sequences (rowsOf u) (colsOf u) o.opx.val).map fun q =>
      f w (q.map fun e => ((indices s).map (redItems s o a)).getD e (false, 0))) = seqResults s o a (f w) := fun w => by
    rw [hr, hc, sequences_eq, List.map_map, seqResults]
    exact List.map_congr_left fun q hq => congrArg (f w) (seq_items (List.mem_range.1 hq))
  rw [redOp, if_neg (by simp [hb]), redSource_of_fetch hf]
  simp only [bind, Except.bind, hrs]
  split
  · rfl
  · simp only [hi, hc, seqOf_eq]
    rw [← writeTile_bind_addFlags]
    rfl

end

/-- A reduction of X leaves the result of its sequence at every element, or the result of the whole tile in a scalar. -/
theorem redOp_writes {s u : State} {i : Instr} {o : SlotOp} {a : Val} {f : Nat → List (Bool × Nat) → Nat × Flags}
    {ext : Nat → Nat} (hgo : s.verdict = .go) (hx : s.cur.stream = .x) (hs : s.strm = s.srcStrm)
    (he : exec i s = redOp i o f ext s) (hb : tooBig s o.ty = false) (hty : 1 ≤ tyBytes o.ty)
    (hall : o.dst.scal = true → 2 ≤ o.opx.val) (hf : fetch s 4 o.ty o.a = .ok (a, u)) :
    let xs := fun q => (seqMembers (rowsOf s) (colsOf s) o.opx.val q).map (redItems s o a)
    (o.dst.scal = false → WritesTile s i o.dst o.ty (fun _ => true)
      (fun e => (f (tyBits o.ty) (xs (seqNumber (colsOf s) o.opx.val e))).1)
      (orFlags ((List.range (seqCount (rowsOf s) (colsOf s) o.opx.val)).map fun q => (f (tyBits o.ty) (xs q)).2))) ∧
    (o.dst.scal = true → WritesScalar s i o.dst (ext (f 64 (xs 0)).1) (f 64 (xs 0)).2) := by
  intro xs
  have hfl : ∀ w, (seqResults s o a (f w)).map Prod.snd =
      (List.range (seqCount (rowsOf s) (colsOf s) o.opx.val)).map fun q => (f w (xs q)).2 := fun w => by
    rw [seqResults, List.map_map]; rfl
  rw [redOp_eq hb hf] at he
  refine ⟨fun hd => ?_, fun hd => ?_⟩
  · rw [hd] at he
    simp only [Bool.false_eq_true, if_false] at he
    rw [hfl] at he
    have h := writesTile_of hgo hx (fetch_frame hf) hb he
    have hn : elemsOf s ≤ 4096 := by
      have : elemsOf s * tyBytes o.ty ≤ 4096 := by simpa [tooBig] using hb
      exact (Nat.le_mul_of_pos_right _ hty).trans this
    refine (WritesElems.all h hn).congr (fun _ _ => rfl) fun e hlt => ?_
    rw [seqResults, getD_map_range _ _ (seqNumber_lt hlt)]
  · rw [hd] at he
    simp only [if_true] at he
    rw [hfl] at he
    have hone : seqCount (rowsOf s) (colsOf s) o.opx.val = 1 := by
      have := hall hd
      generalize o.opx.val = dir at this
      match dir with
      | 0 | 1 => omega
      | _ + 2 => rfl
    rw [hone, seqResults, hone] at he
    exact writesScalar_of hgo hs (fetch_frame hf) hd (by simpa [orFlags] using he)

/-- The types that an op of the slots accepts. -/
theorem okIn_types {i : Instr} {o : SlotOp} {sh : OpShape} {q : StreamName} (hok : i.okIn q = true)
    (hs : i.shape = some (o, sh)) : o.ty ∈ sh.tys := by
  rw [Instr.okIn, hs] at hok
  simp only [slotOk, Bool.and_eq_true] at hok
  simpa using hok.2.1.1.1.1.1.1.1.1.1.1.1.1

theorem okIn_extra {i : Instr} {q : StreamName} (hok : i.okIn q = true) : extraOk i = true := by
  rw [Instr.okIn, Bool.and_eq_true, Bool.and_eq_true] at hok
  exact hok.1.2

theorem tyBytes_pos_of_mem {t : Ty} (h : t ∈ tysInt ++ tysF) : 1 ≤ tyBytes t := by
  revert h; cases t <;> decide

end Sys2Proof.Machine
end

section
/-! SUPPORT. Exact dyadic values as rationals, float values read from patterns, and their order (03 R78 to R81, 04 R111,
R118). -/

namespace Sys2Proof.Machine

/-! ### Exact dyadic values -/

theorem dyQ_eq_zero {v : Dy} : dyQ v = 0 ↔ v.m = 0 := by
  have h : (2 : ℚ) ^ v.e ≠ 0 := by positivity
  rw [dyQ, mul_eq_zero, or_iff_left h, Int.cast_eq_zero]

@[simp] theorem dyQ_zero : dyQ Dy.zero = 0 := dyQ_eq_zero.2 rfl

theorem dyQ_lt_zero {v : Dy} : dyQ v < 0 ↔ v.m < 0 := by
  have h : (0 : ℚ) < 2 ^ v.e := by positivity
  rw [dyQ, mul_neg_iff, or_iff_right (fun k => absurd k.2 h.le.not_gt), and_iff_left h, Int.cast_lt_zero]

@[simp] theorem dyQ_neg (v : Dy) : dyQ (Dy.neg v) = -dyQ v := by
  simp [dyQ, Dy.neg]

@[simp] theorem dyQ_mul (x y : Dy) : dyQ (Dy.mul x y) = dyQ x * dyQ y := by
  simp only [dyQ, Dy.mul, Int.cast_mul, zpow_add₀ (two_ne_zero (α := ℚ))]; ring

theorem dyQ_shift (m e n : Int) : dyQ ⟨m, e + n⟩ = dyQ ⟨m, e⟩ * 2 ^ n := by
  simp only [dyQ, zpow_add₀ (two_ne_zero (α := ℚ))]; ring

@[simp] theorem dyQ_ofInt (n : Int) : dyQ (Dy.ofInt n) = n := by simp [dyQ, Dy.ofInt]

theorem dyQ_abs (v : Dy) : dyQ ⟨(v.m.natAbs : Int), v.e⟩ = |dyQ v| := by
  have h : |(2 : ℚ) ^ v.e| = 2 ^ v.e := abs_of_pos (by positivity)
  rw [dyQ, dyQ, abs_mul, h, Int.cast_natCast, Nat.cast_natAbs, Int.cast_abs]

/-- Two values brought to one exponent keep what they are. -/
theorem align_spec (x y : Dy) : ((Dy.align x y).1 : ℚ) * 2 ^ (Dy.align x y).2.2 = dyQ x ∧
    ((Dy.align x y).2.1 : ℚ) * 2 ^ (Dy.align x y).2.2 = dyQ y := by
  have key : ∀ m a b : Int, a ≤ b → ((m * (2 ^ (b - a).toNat : Nat) : Int) : ℚ) * 2 ^ a = m * 2 ^ b := fun m a b h => by
    rw [Int.cast_mul, Int.cast_natCast, zpow_toNat (by omega), mul_assoc, ← zpow_add₀ two_ne_zero, sub_add_cancel]
  unfold Dy.align
  split
  · next h => exact ⟨rfl, key _ _ _ h⟩
  · next h => exact ⟨key _ _ _ (by omega), rfl⟩

@[simp] theorem dyQ_add (x y : Dy) : dyQ (Dy.add x y) = dyQ x + dyQ y := by
  obtain ⟨h1, h2⟩ := align_spec x y
  rw [← h1, ← h2, ← add_mul, ← Int.cast_add]; rfl

@[simp] theorem dyQ_sub (x y : Dy) : dyQ (Dy.sub x y) = dyQ x - dyQ y := by
  rw [Dy.sub, dyQ_add, dyQ_neg, sub_eq_add_neg]

theorem Dy.lt_iff {x y : Dy} : Dy.lt x y = true ↔ dyQ x < dyQ y := by
  obtain ⟨h1, h2⟩ := align_spec x y
  have hp : (0 : ℚ) < 2 ^ (Dy.align x y).2.2 := by positivity
  rw [← h1, ← h2, mul_lt_mul_iff_left₀ hp, Int.cast_lt]
  exact decide_eq_true_iff

theorem Dy.le_iff {x y : Dy} : Dy.le x y = true ↔ dyQ x ≤ dyQ y := by
  rw [Dy.le, Bool.not_eq_true', Bool.eq_false_iff, Ne, Dy.lt_iff, not_lt]

theorem Dy.eq_iff {x y : Dy} : Dy.eq x y = true ↔ dyQ x = dyQ y := by
  obtain ⟨h1, h2⟩ := align_spec x y
  have hp : (2 : ℚ) ^ (Dy.align x y).2.2 ≠ 0 := by positivity
  rw [← h1, ← h2, mul_left_inj' hp, Int.cast_inj]
  exact decide_eq_true_iff

/-! ### Values read from patterns (03 R78) -/

/-- A finite value other than zero is written with a digit other than zero, as `unpack` reads it. -/
def FVal.proper : FVal → Prop
  | .fin v => v.m ≠ 0
  | _ => True

theorem unpack_proper (f : FFmt) (w : Nat) : (unpack f w).proper := by
  unfold unpack
  dsimp only
  split
  · split <;> trivial
  · split
    · split
      · trivial
      · next h => simp only [FVal.proper]; split <;> omega
    · have : 0 < 2 ^ f.fbits := by positivity
      simp only [FVal.proper]
      split <;> omega

theorem FVal.num_cases {v : FVal} (h : v.num) (hp : v.proper) :
    (∃ n, v = .zero n) ∨ ∃ d, v = .fin d ∧ d.m ≠ 0 := by
  obtain ⟨hn, hi⟩ := h
  cases v with
  | nan => cases hn
  | inf => cases hi
  | zero n => exact .inl ⟨n, rfl⟩
  | fin d => exact .inr ⟨d, rfl, hp⟩

@[simp] theorem FVal.q_zero (n : Bool) : (FVal.zero n).q = 0 := dyQ_zero
@[simp] theorem FVal.q_fin (d : Dy) : (FVal.fin d).q = dyQ d := rfl
@[simp] theorem FVal.num_zero (n : Bool) : (FVal.zero n).num := ⟨rfl, rfl⟩
@[simp] theorem FVal.num_fin (d : Dy) : (FVal.fin d).num := ⟨rfl, rfl⟩
theorem FVal.not_num_inf (n : Bool) : ¬(FVal.inf n).num := fun h => Bool.noConfusion h.2
theorem FVal.not_num_nan (s : Bool) : ¬(FVal.nan s).num := fun h => Bool.noConfusion h.1

/-! ### The order of values (04 R111) -/

/-- The place of a value in the order of FMIN and FMAX: −∞, the numbers with −0 below +0, +∞. -/
def FVal.rank : FVal → ℤ ×ₗ ℚ ×ₗ ℤ
  | .inf n => toLex (if n then -1 else 1, toLex (0, 0))
  | .zero n => toLex (0, toLex (0, if n then 0 else 1))
  | .fin d => toLex (0, toLex (dyQ d, 0))
  | .nan _ => toLex (0, toLex (0, 0))

theorem less_iff_rank {a b : FVal} (ha : a.isNan = false) (hb : b.isNan = false) (pa : a.proper) (pb : b.proper) :
    a.less True b ↔ a.rank < b.rank := by
  cases a with
  | nan => cases ha
  | inf m =>
    cases b with
    | nan => cases hb
    | inf n => cases m <;> cases n <;> simp [FVal.less, FVal.rank, Prod.Lex.toLex_lt_toLex]
    | zero n => cases m <;> simp [FVal.less, FVal.rank, Prod.Lex.toLex_lt_toLex]
    | fin d => cases m <;> simp [FVal.less, FVal.rank, Prod.Lex.toLex_lt_toLex]
  | zero m =>
    cases b with
    | nan => cases hb
    | inf n => cases n <;> simp [FVal.less, FVal.rank, Prod.Lex.toLex_lt_toLex]
    | zero n => cases m <;> cases n <;> simp [FVal.less, FVal.rank, Prod.Lex.toLex_lt_toLex]
    | fin d =>
      have hd : dyQ d ≠ 0 := fun h => pb (dyQ_eq_zero.1 h)
      simp [FVal.less, FVal.rank, Prod.Lex.toLex_lt_toLex, hd.symm]
  | fin c =>
    have hc : dyQ c ≠ 0 := fun h => pa (dyQ_eq_zero.1 h)
    cases b with
    | nan => cases hb
    | inf n => cases n <;> simp [FVal.less, FVal.rank, Prod.Lex.toLex_lt_toLex]
    | zero n => simp [FVal.less, FVal.rank, Prod.Lex.toLex_lt_toLex, hc]
    | fin d => simp [FVal.less, FVal.rank, Prod.Lex.toLex_lt_toLex]

/-- The model's comparison is that order. -/
theorem ltV_iff_less {a b : FVal} (ha : a.isNan = false) (hb : b.isNan = false) (pa : a.proper) (pb : b.proper) :
    ltV true a b = true ↔ a.less True b := by
  cases a with
  | nan => cases ha
  | inf m =>
    cases b with
    | nan => cases hb
    | inf n => cases m <;> cases n <;> simp [FVal.less, ltV]
    | zero n => cases m <;> simp [FVal.less, ltV]
    | fin d => cases m <;> simp [FVal.less, ltV]
  | zero m =>
    cases b with
    | nan => cases hb
    | inf n => cases n <;> simp [FVal.less, ltV]
    | zero n => cases m <;> cases n <;> simp [FVal.less, ltV]
    | fin d => simp [FVal.less, ltV, Dy.lt_iff, FVal.dy]
  | fin c =>
    cases b with
    | nan => cases hb
    | inf n => cases n <;> simp [FVal.less, ltV]
    | zero n => simp [FVal.less, ltV, Dy.lt_iff, FVal.dy]
    | fin d => simp [FVal.less, ltV, Dy.lt_iff, FVal.dy]

theorem ltV_iff_rank {a b : FVal} (ha : a.isNan = false) (hb : b.isNan = false) (pa : a.proper) (pb : b.proper) :
    ltV true a b = true ↔ a.rank < b.rank := (ltV_iff_less ha hb pa pb).trans (less_iff_rank ha hb pa pb)

theorem not_less_iff_rank {f : FFmt} {x y : Nat} (hx : (unpack f x).isNan = false) (hy : (unpack f y).isNan = false) :
    ¬(unpack f x).less True (unpack f y) ↔ (unpack f y).rank ≤ (unpack f x).rank := by
  rw [less_iff_rank hx hy (unpack_proper ..) (unpack_proper ..), not_lt]

end Sys2Proof.Machine
end

section
/-! SUPPORT. What the reductions make of a sequence: exact integer sums, pairwise float sums, the extremes and the place of
the largest (03 R98 to R100, 04 R117, R118, R120). -/

namespace Sys2Proof.Machine

/-! ### Folds that keep the greatest -/

/-- A fold that takes a later element only when it stands above the one held ends with the first of the greatest. -/
theorem foldl_greatest {α ρ : Type} [LinearOrder ρ] (lt : α → α → Bool) (r : α → ρ) (v : α) (l : List α)
    (h : ∀ a ∈ v :: l, ∀ b ∈ v :: l, lt a b = true ↔ r a < r b) :
    ∃ l1 l2, v :: l = l1 ++ l.foldl (fun b x => if lt b x then x else b) v :: l2 ∧
      (∀ y ∈ l1, r y < r (l.foldl (fun b x => if lt b x then x else b) v)) ∧
      ∀ y ∈ l2, r y ≤ r (l.foldl (fun b x => if lt b x then x else b) v) := by
  induction l generalizing v with
  | nil => exact ⟨[], [], rfl, by simp, by simp⟩
  | cons x l ih =>
    have hx : lt v x = true ↔ r v < r x := h v (List.mem_cons_self ..) x (by simp)
    rw [List.foldl_cons]
    by_cases hlt : r v < r x
    · rw [if_pos (hx.2 hlt)]
      obtain ⟨l1, l2, hl, h1, h2⟩ := ih x fun a ha b hb => h a (List.mem_cons_of_mem _ ha) b (List.mem_cons_of_mem _ hb)
      refine ⟨v :: l1, l2, by rw [hl]; rfl, List.forall_mem_cons.2 ⟨?_, h1⟩, h2⟩
      have hle : r x ≤ r (l.foldl (fun b x => if lt b x then x else b) x) := by
        rcases List.mem_append.1 (hl ▸ List.mem_cons_self .. : x ∈ l1 ++ _) with k | k
        · exact (h1 x k).le
        · rcases List.mem_cons.1 k with k | k
          · exact (congrArg r k).le
          · exact h2 x k
      exact hlt.trans_le hle
    · rw [if_neg (fun k => hlt (hx.1 k))]
      obtain ⟨l1, l2, hl, h1, h2⟩ := ih v fun a ha b hb => h a (by simp only [List.mem_cons] at ha ⊢; tauto) b
        (by simp only [List.mem_cons] at hb ⊢; tauto)
      cases l1 with
      | nil =>
        obtain ⟨hv, hl⟩ := List.cons.inj hl
        refine ⟨[], x :: l2, by rw [List.nil_append, ← hv, hl], by simp, List.forall_mem_cons.2 ⟨?_, h2⟩⟩
        rw [← hv]
        exact not_lt.1 hlt
      | cons w l1 =>
        obtain ⟨hw, hrest⟩ := List.cons.inj hl
        have hv := h1 v (hw ▸ List.mem_cons_self ..)
        refine ⟨v :: x :: l1, l2, congrArg (fun l => v :: x :: l) hrest, ?_, h2⟩
        refine List.forall_mem_cons.2 ⟨hv, List.forall_mem_cons.2 ⟨(not_lt.1 hlt).trans_lt hv, ?_⟩⟩
        exact fun y hy => h1 y (List.mem_cons_of_mem _ hy)

/-- It ends with an element of the list that no other stands above. -/
theorem foldl_greatest_mem {α ρ : Type} [LinearOrder ρ] (lt : α → α → Bool) (r : α → ρ) (v : α) (l : List α)
    (h : ∀ a ∈ v :: l, ∀ b ∈ v :: l, lt a b = true ↔ r a < r b) :
    l.foldl (fun b x => if lt b x then x else b) v ∈ v :: l ∧
      ∀ y ∈ v :: l, r y ≤ r (l.foldl (fun b x => if lt b x then x else b) v) := by
  obtain ⟨l1, l2, hl, h1, h2⟩ := foldl_greatest lt r v l h
  refine ⟨?_, fun y hy => ?_⟩
  · rw [hl]; simp
  · rw [hl, List.mem_append, List.mem_cons] at hy
    rcases hy with k | k | k
    · exact (h1 y k).le
    · exact (congrArg r k).le
    · exact h2 y k

/-! ### Elements that take part -/

/-- The patterns that take part in a reduction, and those of them that are no NaN (04 R118). -/
def partOf (xs : List (Bool × Nat)) : List Nat := (xs.filter Prod.fst).map Prod.snd
def numsOf (t : Ty) (xs : List (Bool × Nat)) : List Nat := (partOf xs).filter fun x => !isNanT t x

theorem mem_partOf {xs : List (Bool × Nat)} {x : Nat} : x ∈ partOf xs ↔ (true, x) ∈ xs := by
  simp [partOf]

theorem mem_numsOf {t : Ty} {xs : List (Bool × Nat)} {x : Nat} : x ∈ numsOf t xs ↔ (true, x) ∈ xs ∧ isNanT t x = false := by
  simp [numsOf, mem_partOf]

/-- The magnitudes that RMXA compares, the patterns themselves otherwise. -/
def reducedBits (t : Ty) (kind x : Nat) : Nat := if kind = 2 then fld x 0 ((fmtOf t).ebits + (fmtOf t).fbits) else x

theorem extreme_eq (t : Ty) (kind : Nat) (xs : List (Bool × Nat)) : extreme t kind xs =
    match (numsOf t xs).map (reducedBits t kind) with
    | [] =>
      if partOf xs = [] then
        (match kind with
         | 0 => if tyFloat t then (fmtOf t).inf true else toW t (loI t)
         | 1 => if tyFloat t then (fmtOf t).inf false else toW t (hiI t)
         | _ => 0, snanFlags t xs)
      else ((fmtOf t).qnan, snanFlags t xs)
    | v :: vs => (vs.foldl (fun b x => if (if kind = 1 then below t x b else below t b x) then x else b) v, snanFlags t xs) := by
  have hvs : ((xs.filter Prod.fst).filter fun e => !isNanT t e.2).map (fun e => reducedBits t kind e.2) =
      (numsOf t xs).map (reducedBits t kind) := by
    rw [numsOf, partOf, List.filter_map, List.map_map]; rfl
  rw [← hvs]
  unfold extreme
  dsimp only
  simp only [partOf, List.map_eq_nil_iff, List.isEmpty_iff]
  rfl

theorem extreme_flags (t : Ty) (kind : Nat) (xs : List (Bool × Nat)) : (extreme t kind xs).2 = snanFlags t xs := by
  rw [extreme_eq]
  split
  · split <;> rfl
  · rfl

/-- RMAX, RMIN and RMXA end with an element that none exceeds in the order of their kind. -/
theorem extreme_spec {t : Ty} {kind : Nat} {xs : List (Bool × Nat)} {ρ : Type} [LinearOrder ρ] (r : Nat → ρ)
    (h : ∀ a ∈ (numsOf t xs).map (reducedBits t kind), ∀ b ∈ (numsOf t xs).map (reducedBits t kind),
      below t a b = true ↔ r a < r b) (hne : numsOf t xs ≠ []) :
    (extreme t kind xs).1 ∈ (numsOf t xs).map (reducedBits t kind) ∧
      ∀ y ∈ (numsOf t xs).map (reducedBits t kind),
        if kind = 1 then r (extreme t kind xs).1 ≤ r y else r y ≤ r (extreme t kind xs).1 := by
  rw [extreme_eq]
  cases hl : (numsOf t xs).map (reducedBits t kind) with
  | nil => exact absurd (List.map_eq_nil_iff.1 hl) hne
  | cons v vs =>
    rw [hl] at h
    by_cases hk : kind = 1
    · simp only [if_pos hk]
      exact foldl_greatest_mem (fun b x => below t x b) (fun x => OrderDual.toDual (r x)) v vs
        fun a ha b hb => (h b hb a ha).trans OrderDual.toDual_lt_toDual.symm
    · simp only [if_neg hk]
      exact foldl_greatest_mem (fun b x => below t b x) r v vs h

/-- ARGM answers the first place that holds a greatest element, −1 when none takes part that is no NaN. -/
theorem argMax_spec {t : Ty} {xs : List (Bool × Nat)} {ρ : Type} [LinearOrder ρ] (r : Nat → ρ)
    (h : ∀ a ∈ numsOf t xs, ∀ b ∈ numsOf t xs, below t a b = true ↔ r a < r b) :
    (argMax t xs).2 = snanFlags t xs ∧ (numsOf t xs = [] → (argMax t xs).1 = -1) ∧
    (numsOf t xs ≠ [] → ∃ k, (argMax t xs).1 = (k : Nat) ∧ ∃ x, xs[k]? = some (true, x) ∧ isNanT t x = false ∧
      (∀ y ∈ numsOf t xs, r y ≤ r x) ∧ ∀ j y, j < k → xs[j]? = some (true, y) → isNanT t y = false → r y < r x) := by
  refine ⟨rfl, ?_⟩
  generalize hc : ((List.range xs.length).zip xs).filter (fun e => e.2.1 && !isNanT t e.2.2) = cand
  have hmem : ∀ j y, (j, (true, y)) ∈ cand ↔ xs[j]? = some (true, y) ∧ isNanT t y = false := fun j y => by
    rw [← hc, List.mem_filter, List.mem_iff_getElem]
    constructor
    · rintro ⟨⟨k, hk, he⟩, hp⟩
      have hk' : k < xs.length := by simpa using hk
      simp only [List.getElem_zip, List.getElem_range, Prod.mk.injEq] at he
      obtain ⟨rfl, he⟩ := he
      exact ⟨by rw [List.getElem?_eq_getElem hk', he], by simpa using hp⟩
    · rintro ⟨he, hp⟩
      obtain ⟨hj, he⟩ := List.getElem?_eq_some_iff.1 he
      exact ⟨⟨j, by simpa using hj, by simp [he]⟩, by simpa using hp⟩
  have htrue : ∀ e ∈ cand, e.2.1 = true := fun e he => by
    rw [← hc] at he
    simpa using (Bool.and_eq_true_iff.1 (List.mem_filter.1 he).2).1
  have hnums : ∀ e ∈ cand, e.2.2 ∈ numsOf t xs := fun e he => by
    obtain ⟨j, b, y⟩ := e
    have hb : b = true := htrue _ he
    subst hb
    obtain ⟨h1, h2⟩ := (hmem j y).1 he
    exact mem_numsOf.2 ⟨List.mem_of_getElem? h1, h2⟩
  have hcand : ∀ y ∈ numsOf t xs, ∃ j, (j, (true, y)) ∈ cand := fun y hy => by
    obtain ⟨hy, hn⟩ := mem_numsOf.1 hy
    obtain ⟨j, hj⟩ := List.getElem?_of_mem hy
    exact ⟨j, (hmem j y).2 ⟨hj, hn⟩⟩
  have hsorted : cand.Pairwise fun a b => a.1 < b.1 := by
    rw [← hc]
    refine List.Pairwise.filter _ ?_
    have : (((List.range xs.length).zip xs).map Prod.fst).Pairwise (· < ·) := by
      rw [List.map_fst_zip (by simp)]; exact List.pairwise_lt_range
    exact List.pairwise_map.1 this
  have hval : (argMax t xs).1 = match cand with
      | [] => -1
      | c :: cs => ((cs.foldl (fun b x => if below t b.2.2 x.2.2 then x else b) c).1 : Int) := by
    rw [argMax, hc] <;> rfl
  cases cand with
  | nil =>
    have hnil : numsOf t xs = [] := List.eq_nil_iff_forall_not_mem.2 fun y hy => by
      obtain ⟨j, hj⟩ := hcand y hy
      cases hj
    exact ⟨fun _ => hval, fun hne => absurd hnil hne⟩
  | cons c cs =>
    refine ⟨fun hnil => ?_, fun _ => ?_⟩
    · have := hnums c (List.mem_cons_self ..)
      rw [hnil] at this; cases this
    obtain ⟨l1, l2, hl, h1, h2⟩ := foldl_greatest (fun b x : Nat × Bool × Nat => below t b.2.2 x.2.2) (fun e => r e.2.2) c cs
      fun a ha b hb => h _ (hnums a ha) _ (hnums b hb)
    dsimp only at hval
    generalize hres : cs.foldl (fun b x => if below t b.2.2 x.2.2 then x else b) c = res at hl h1 h2 hval
    obtain ⟨k, b, x⟩ := res
    have hin : (k, b, x) ∈ c :: cs := by rw [hl]; simp
    have hb : b = true := htrue _ hin
    subst hb
    obtain ⟨hk, hn⟩ := (hmem k x).1 hin
    refine ⟨k, hval, x, hk, hn, fun y hy => ?_, fun j y hj he hny => ?_⟩
    · obtain ⟨j, hj⟩ := hcand y hy
      rw [hl, List.mem_append, List.mem_cons] at hj
      rcases hj with m | m | m
      · exact (h1 _ m).le
      · rw [Prod.mk.injEq, Prod.mk.injEq] at m; rw [m.2.2]
      · exact h2 _ m
    · have hj' := (hmem j y).2 ⟨he, hny⟩
      rw [hl] at hsorted hj'
      obtain ⟨-, hs, -⟩ := List.pairwise_append.1 hsorted
      rw [List.mem_append, List.mem_cons] at hj'
      rcases hj' with m | m | m
      · exact h1 _ m
      · rw [Prod.mk.injEq] at m; omega
      · have := List.rel_of_pairwise_cons hs m
        exact absurd this (by simp only; omega)

end Sys2Proof.Machine
end

section
/-! SUPPORT. Sums of a sequence, exact on integers and pairwise on floats; the extremes of a sequence by type (03 R98 to R100,
04 R117, R118, R120). -/

namespace Sys2Proof.Machine

/-! ### Integers -/

theorem signed_eq_toInt (n w : Nat) : signed n w = (BitVec.ofNat n w).toInt := by
  rw [signed, BitVec.toInt_eq_toNat_cond, BitVec.toNat_ofNat]
  split_ifs with h1 h2 h2
  · omega
  · rfl
  · rfl
  · omega

theorem wrapN_eq_ofInt (n : Nat) (x : Int) : wrapN n x = (BitVec.ofInt n x).toNat := by
  rw [wrapN, BitVec.toNat_ofInt]

/-- An element widened for a scalar destination (04 R106). -/
theorem ext64_eq_extended (t : Ty) (x : Nat) : ext64 t x = extended t x := by
  unfold ext64 extended
  split
  · rw [sext64, signed_eq_toInt, wrapN_eq_ofInt]; rfl
  · rfl

theorem tyFloat_of_int {t : Ty} (h : t ∈ tysInt) : tyFloat t = false := by revert h; cases t <;> decide
theorem tyFloat_of_float {t : Ty} (h : t ∈ tysF) : tyFloat t = true := by revert h; cases t <;> decide

theorem isNanT_of_int {t : Ty} (h : t ∈ tysInt) (x : Nat) : isNanT t x = false := by rw [isNanT, tyFloat_of_int h]; rfl

theorem below_of_int {t : Ty} (h : t ∈ tysInt) (x y : Nat) : below t x y = true ↔ valI t x < valI t y := by
  rw [below, tyFloat_of_int h]; exact decide_eq_true_iff

/-- The lowest and the highest value of an integer type as patterns. -/
theorem valI_ends {t : Ty} (h : t ∈ tysInt) : valI t (toW t (loI t)) = loI t ∧ valI t (toW t (hiI t)) = hiI t := by
  revert h; cases t <;> decide

theorem numsOf_of_int {t : Ty} (h : t ∈ tysInt) (xs : List (Bool × Nat)) : numsOf t xs = partOf xs :=
  List.filter_eq_self.2 fun x _ => by rw [isNanT_of_int h]; rfl

theorem reducedBits_self {kind : Nat} (hk : kind ≠ 2) (t : Ty) (l : List Nat) : l.map (reducedBits t kind) = l := by
  rw [show reducedBits t kind = id from funext fun x => if_neg hk, List.map_id]

/-- An integer reduction is the exact sum of what takes part (03 R100). -/
theorem intSum_eq (t : Ty) (sq : Bool) (xs : List (Bool × Nat)) :
    intSum t sq xs = ((xs.filter Prod.fst).map fun e => if sq then valI t e.2 * valI t e.2 else valI t e.2).sum := by
  have key : ∀ acc : Int, xs.foldl (fun acc e => if e.1 then acc + (if sq then valI t e.2 * valI t e.2 else valI t e.2) else acc) acc
      = acc + ((xs.filter Prod.fst).map fun e => if sq then valI t e.2 * valI t e.2 else valI t e.2).sum := by
    induction xs with
    | nil => simp
    | cons e xs ih =>
      intro acc
      rw [List.foldl_cons, ih]
      cases he : e.1
      · rw [List.filter_cons_of_neg (by simp [he])]; rfl
      · rw [List.filter_cons_of_pos he, List.map_cons, List.sum_cons, if_pos rfl, add_assoc]
  exact (key 0).trans (zero_add _)

/-! ### Pairwise sums (03 R99) -/

theorem halfPow_spec {n : Nat} (h : 2 ≤ n) : halfPow n < n ∧ n ≤ 2 * halfPow n ∧ 1 ≤ halfPow n := by
  have h1 := Nat.log2_self_le (n := n - 1) (by omega)
  have h2 := Nat.lt_log2_self (n := n - 1)
  rw [pow_succ] at h2
  refine ⟨?_, ?_, Nat.one_le_two_pow⟩ <;> rw [halfPow] <;> omega

/-- Fuel for every element is enough. -/
theorem sumParts_fuel (mode : Nat) {fuel fuel' : Nat} {xs : List (Option Nat)} (h : xs.length ≤ fuel) (h' : xs.length ≤ fuel') :
    sumParts mode fuel xs = sumParts mode fuel' xs := by
  induction fuel generalizing fuel' xs with
  | zero =>
    cases fuel' with
    | zero => rfl
    | succ n => rw [sumParts, sumParts, if_pos (by omega)]
  | succ k ih =>
    cases fuel' with
    | zero => rw [sumParts, sumParts, if_pos (by omega)]
    | succ n =>
      rw [sumParts, sumParts]
      by_cases hl : xs.length ≤ 1
      · rw [if_pos hl, if_pos hl]
      · obtain ⟨hh, -, hp⟩ := halfPow_spec (n := xs.length) (by omega)
        have htake : (xs.take (halfPow xs.length)).length ≤ k ∧ (xs.take (halfPow xs.length)).length ≤ n := by
          rw [List.length_take]; omega
        have hdrop : (xs.drop (halfPow xs.length)).length ≤ k ∧ (xs.drop (halfPow xs.length)).length ≤ n := by
          rw [List.length_drop]; omega
        rw [if_neg hl, if_neg hl]
        dsimp only
        rw [ih htake.1 htake.2, ih hdrop.1 hdrop.2]

/-- A tree of two elements or more adds its halves. -/
theorem sumParts_split (mode : Nat) {fuel : Nat} {xs : List (Option Nat)} (h : xs.length ≤ fuel) (h2 : 2 ≤ xs.length) :
    sumParts mode fuel xs =
      let a := sumParts mode fuel (xs.take (halfPow xs.length))
      let b := sumParts mode fuel (xs.drop (halfPow xs.length))
      ((addPart mode a.1 b.1).1, a.2 ||| b.2 ||| (addPart mode a.1 b.1).2) := by
  obtain ⟨hh, -, hp⟩ := halfPow_spec h2
  cases fuel with
  | zero => omega
  | succ k =>
    rw [sumParts, if_neg (by omega)]
    have htake : (xs.take (halfPow xs.length)).length ≤ k := by rw [List.length_take]; omega
    have hdrop : (xs.drop (halfPow xs.length)).length ≤ k := by rw [List.length_drop]; omega
    dsimp only
    rw [sumParts_fuel mode (htake.trans (Nat.le_succ k)) htake, sumParts_fuel mode (hdrop.trans (Nat.le_succ k)) hdrop]

theorem sumParts_singleton (mode fuel : Nat) (x : Option Nat) : sumParts mode fuel [x] = (x, 0) := by
  cases fuel <;> rfl

/-- The flags of the elements that take part. -/
theorem orFlags_filter {α : Type} (p : α → Bool) (g : α → Flags) (xs : List α) :
    orFlags (xs.map fun e => if p e then g e else 0) = orFlags ((xs.filter p).map g) := by
  have key : ∀ acc : Flags, (xs.map fun e => if p e then g e else 0).foldl (· ||| ·) acc =
      ((xs.filter p).map g).foldl (· ||| ·) acc := by
    induction xs with
    | nil => simp
    | cons e xs ih =>
      intro acc
      rw [List.map_cons, List.foldl_cons, ih]
      cases he : p e
      · rw [List.filter_cons_of_neg (by simp [he]), if_neg Bool.false_ne_true]
        exact congrArg (fun a => ((xs.filter p).map g).foldl (· ||| ·) a) BitVec.or_zero
      · rw [List.filter_cons_of_pos he, List.map_cons, List.foldl_cons, if_pos rfl]
  exact key 0

/-! ### Floats by type -/

theorem isNanT_of_float {t : Ty} (h : t ∈ tysF) (x : Nat) : isNanT t x = (unpack (fmtOf t) x).isNan := by
  rw [isNanT, tyFloat_of_float h]; rfl

theorem below_of_float {t : Ty} (h : t ∈ tysF) {x y : Nat} (hx : (unpack (fmtOf t) x).isNan = false)
    (hy : (unpack (fmtOf t) y).isNan = false) :
    below t x y = true ↔ (unpack (fmtOf t) x).rank < (unpack (fmtOf t) y).rank := by
  rw [below, tyFloat_of_float h]
  exact ltV_iff_rank hx hy (unpack_proper ..) (unpack_proper ..)

/-- A pattern without its sign is a NaN when the pattern is. -/
theorem unpack_magnitude_isNan (f : FFmt) (x : Nat) :
    (unpack f (fld x 0 (f.ebits + f.fbits))).isNan = (unpack f x).isNan := by
  have he : fld (fld x 0 (f.ebits + f.fbits)) f.fbits f.ebits = fld x f.fbits f.ebits := by
    simp only [fld, pow_zero, Nat.div_one, Nat.add_comm f.ebits]
    rw [pow_add, Nat.mod_mul_right_div_self, Nat.mod_mod]
  have hr : fld (fld x 0 (f.ebits + f.fbits)) 0 f.fbits = fld x 0 f.fbits := by
    simp only [fld, pow_zero, Nat.div_one]
    exact Nat.mod_mod_of_dvd _ (pow_dvd_pow _ (by omega))
  unfold unpack
  rw [he, hr]
  dsimp only
  split_ifs <;> rfl

theorem tyBits_of_float {t : Ty} (h : t ∈ tysF) : tyBits t - 1 = (fmtOf t).ebits + (fmtOf t).fbits := by
  revert h; cases t <;> decide

theorem reducedBits_magnitude {t : Ty} (h : t ∈ tysF) (x : Nat) : reducedBits t 2 x = x % 2 ^ (tyBits t - 1) := by
  rw [reducedBits, if_pos rfl, fld, pow_zero, Nat.div_one, tyBits_of_float h]

theorem snanFlags_of_float {t : Ty} (h : t ∈ tysF) (xs : List (Bool × Nat)) :
    snanFlags t xs = if ∃ x ∈ partOf xs, (unpack (fmtOf t) x).isSnan = true then fNV else 0 := by
  rw [snanFlags]
  congr 1
  rw [List.any_eq_true, eq_iff_iff]
  constructor
  · rintro ⟨⟨b, x⟩, hm, hp⟩
    obtain ⟨rfl, hp⟩ := Bool.and_eq_true_iff.1 hp
    rw [isSnanT, tyFloat_of_float h] at hp
    exact ⟨x, mem_partOf.2 hm, hp⟩
  · rintro ⟨x, hm, hp⟩
    exact ⟨(true, x), mem_partOf.1 hm, by rw [isSnanT, tyFloat_of_float h]; exact hp⟩

theorem numsOf_not_nan {t : Ty} (h : t ∈ tysF) {xs : List (Bool × Nat)} {x : Nat} (hx : x ∈ numsOf t xs) :
    (unpack (fmtOf t) x).isNan = false := by rw [← isNanT_of_float h]; exact (mem_numsOf.1 hx).2

/-- The compared patterns of a float reduction are no NaNs. -/
theorem reducedBits_not_nan {t : Ty} (h : t ∈ tysF) {kind : Nat} {xs : List (Bool × Nat)} {x : Nat}
    (hx : x ∈ (numsOf t xs).map (reducedBits t kind)) : (unpack (fmtOf t) x).isNan = false := by
  obtain ⟨y, hy, rfl⟩ := List.mem_map.1 hx
  have hn := numsOf_not_nan h hy
  unfold reducedBits
  split
  · rw [unpack_magnitude_isNan]; exact hn
  · exact hn

/-- A float extreme is one of the compared patterns, and no other is beyond it in the order of its kind (04 R118). -/
theorem float_extreme_spec {t : Ty} (h : t ∈ tysF) (kind : Nat) {xs : List (Bool × Nat)} (hne : numsOf t xs ≠ []) :
    (extreme t kind xs).1 ∈ (numsOf t xs).map (reducedBits t kind) ∧
      ∀ y ∈ (numsOf t xs).map (reducedBits t kind),
        if kind = 1 then ¬(unpack (fmtOf t) y).less True (unpack (fmtOf t) (extreme t kind xs).1)
        else ¬(unpack (fmtOf t) (extreme t kind xs).1).less True (unpack (fmtOf t) y) := by
  obtain ⟨hm, hall⟩ := extreme_spec (t := t) (kind := kind) (xs := xs) (fun x => (unpack (fmtOf t) x).rank)
    (fun a ha b hb => below_of_float h (reducedBits_not_nan h ha) (reducedBits_not_nan h hb)) hne
  refine ⟨hm, fun y hy => ?_⟩
  have := hall y hy
  split
  · next hk => rw [if_pos hk] at this; exact (not_less_iff_rank (reducedBits_not_nan h hy) (reducedBits_not_nan h hm)).2 this
  · next hk => rw [if_neg hk] at this; exact (not_less_iff_rank (reducedBits_not_nan h hm) (reducedBits_not_nan h hy)).2 this

end Sys2Proof.Machine
end

section
/-! SUPPORT. The reductions and the scan settled: each instruction by its rule, integers and floats by their own (03 R98 to
R101, 04 R116 to R118, R120). -/

namespace Sys2Proof.Machine

/-! ### The instructions -/

/-- A reduction runs its rule over the sequences; an extreme is extended from its type for a scalar. -/
theorem redRule_exec {s : State} {i : Instr} {o : SlotOp} {f : Nat → List (Bool × Nat) → Nat × Flags}
    (hf : ∀ w, redRule (rmodeOf s) w i = some (o, f w)) (hok : i.okIn .x = true) :
    ∃ ext : Nat → Nat, exec i s = redOp i o f ext s ∧
      (∀ v, ext v = if i = .rmax o ∨ i = .rmin o ∨ i = .rmxa o then extended o.ty v else v) ∧
      o.ty ∈ tysInt ++ tysF ∧ (o.dst.scal = true → 2 ≤ o.opx.val) := by
  have hext := okIn_extra hok
  have hopx : ∀ {k : Fin 8}, (!o.dst.scal || k.val == 2) = true → o.dst.scal = true → 2 ≤ k.val := fun {k} h hd => by
    rw [hd] at h
    exact (show k.val = 2 by simpa using h).ge
  have h0 := hf 0
  unfold redRule at h0
  split at h0
  case h_7 => cases h0
  all_goals
    obtain ⟨rfl, -⟩ := Prod.mk.inj (Option.some.inj h0)
  case h_1 o =>
    have hfw : f = fun w => sumOf o.ty (rmodeOf s) w false := funext fun w => (Prod.mk.inj (Option.some.inj (hf w))).2.symm
    exact ⟨id, by rw [hfw]; rfl, fun v => by simp, okIn_types hok rfl, hopx hext⟩
  case h_2 o =>
    have hfw : f = fun w => sumOf o.ty (rmodeOf s) w true := funext fun w => (Prod.mk.inj (Option.some.inj (hf w))).2.symm
    exact ⟨id, by rw [hfw]; rfl, fun v => by simp, okIn_types hok rfl, hopx hext⟩
  case h_3 o =>
    have hfw : f = fun _ => extreme o.ty 0 := funext fun w => (Prod.mk.inj (Option.some.inj (hf w))).2.symm
    exact ⟨ext64 o.ty, by rw [hfw]; rfl, fun v => by simp [ext64_eq_extended], okIn_types hok rfl, hopx hext⟩
  case h_4 o =>
    have hfw : f = fun _ => extreme o.ty 1 := funext fun w => (Prod.mk.inj (Option.some.inj (hf w))).2.symm
    exact ⟨ext64 o.ty, by rw [hfw]; rfl, fun v => by simp [ext64_eq_extended], okIn_types hok rfl, hopx hext⟩
  case h_5 o =>
    have hfw : f = fun _ => extreme o.ty 2 := funext fun w => (Prod.mk.inj (Option.some.inj (hf w))).2.symm
    exact ⟨ext64 o.ty, by rw [hfw]; rfl, fun v => by simp [ext64_eq_extended],
      List.mem_append_right _ (okIn_types hok rfl), hopx hext⟩
  case h_6 o =>
    have hfw : f = fun w xs => (wrapN w (argMax o.ty xs).1, (argMax o.ty xs).2) :=
      funext fun w => (Prod.mk.inj (Option.some.inj (hf w))).2.symm
    exact ⟨id, by rw [hfw]; rfl, fun v => by simp, okIn_types hok rfl, hopx (Bool.and_eq_true_iff.1 hext).1⟩

/-- A sequence up to an element, reduced (03 R101). -/
def scanAt (s : State) (o : SlotOp) (a : Val) (e : Nat) : Nat × Flags :=
  sumOf o.ty (rmodeOf s) (tyBits o.ty) false
    (((seqMembers (rowsOf s) (colsOf s) o.opx.val (seqNumber (colsOf s) o.opx.val e)).take
      (seqPlace (colsOf s) o.opx.val e + 1)).map (redItems s o a))

theorem execRscn_eq {s u : State} {o : SlotOp} {a : Val} (hb : tooBig s o.ty = false) (hf : fetch s 4 o.ty o.a = .ok (a, u)) :
    execRscn o s = slot (.rscn o) s ((writeTile 4 o.ty o.dst allTrue ((indices s).map fun e => (scanAt s o a e).1) u).map
      (addFlags (orFlags ((indices s).map fun e => (scanAt s o a e).2)))) := by
  obtain ⟨hr, hc, hi⟩ := shape_of_noted (fetch_frame hf)
  have hm : rmodeOf u = rmodeOf s := by rw [fetch_frame hf]; rfl
  have hscan : ∀ e ∈ indices s, sumOf o.ty (rmodeOf u) (tyBits o.ty) false
      ((((sequences (rowsOf u) (colsOf u) o.opx.val).getD (seqOf (colsOf u) o.opx.val e).1 []).take
        ((seqOf (colsOf u) o.opx.val e).2 + 1)).map fun k => ((indices s).map (redItems s o a)).getD k (false, 0)) =
      scanAt s o a e := fun e he => by
    have hq := seqNumber_lt (dir := o.opx.val) (List.mem_range.1 he)
    rw [hr, hc, hm, seqOf_eq, sequences_eq, getD_map_range _ _ hq, scanAt]
    refine congrArg _ (List.map_congr_left fun k hk => getD_items ?_)
    exact seqMembers_lt hq (List.mem_of_mem_take hk)
  rw [execRscn, mTile, if_neg (by simp [hb])]
  simp only [bind, Except.bind, redSource_of_fetch hf, hi, List.map_congr_left hscan, List.map_map]
  rw [← writeTile_bind_addFlags]
  rfl

/-! ### Integers and floats -/

theorem int_reductions {t : Ty} (ht : t ∈ tysInt) (mode w : Nat) (xs : List (Bool × Nat)) :
    let vals := (xs.filter Prod.fst).map fun e => valI t e.2
    sumOf t mode w false xs = (wrapN w vals.sum, 0) ∧
    sumOf t mode w true xs = (wrapN w (vals.map fun v => v * v).sum, 0) ∧
    (vals ≠ [] → valI t (extreme t 0 xs).1 ∈ vals ∧ (∀ v ∈ vals, v ≤ valI t (extreme t 0 xs).1) ∧
      valI t (extreme t 1 xs).1 ∈ vals ∧ (∀ v ∈ vals, valI t (extreme t 1 xs).1 ≤ v)) ∧
    (vals = [] → valI t (extreme t 0 xs).1 = loI t ∧ valI t (extreme t 1 xs).1 = hiI t ∧ (argMax t xs).1 = -1) ∧
    (vals ≠ [] → ∃ k, (argMax t xs).1 = (k : Nat) ∧ ∃ x, xs[k]? = some (true, x) ∧ (∀ v ∈ vals, v ≤ valI t x) ∧
      ∀ j y, j < k → xs[j]? = some (true, y) → valI t y < valI t x) := by
  intro vals
  have hvals : vals = (partOf xs).map (valI t) := by rw [partOf, List.map_map]; rfl
  have hnums := numsOf_of_int ht xs
  have hnil : vals = [] ↔ partOf xs = [] := by rw [hvals, List.map_eq_nil_iff]
  have hext : ∀ kind, kind ≠ 2 → vals ≠ [] → (extreme t kind xs).1 ∈ partOf xs ∧ ∀ y ∈ partOf xs,
      if kind = 1 then valI t (extreme t kind xs).1 ≤ valI t y else valI t y ≤ valI t (extreme t kind xs).1 := by
    intro kind hk hne
    have h := extreme_spec (t := t) (kind := kind) (xs := xs) (valI t) (fun a _ b _ => below_of_int ht a b)
      (by rw [hnums]; exact mt hnil.2 hne)
    rwa [reducedBits_self hk, hnums] at h
  obtain ⟨-, hnone, hsome⟩ := argMax_spec (t := t) (xs := xs) (valI t) fun a _ b _ => below_of_int ht a b
  rw [hnums] at hnone hsome
  have hsum : ∀ sq, sumOf t mode w sq xs =
      (wrapN w ((xs.filter Prod.fst).map fun e => if sq then valI t e.2 * valI t e.2 else valI t e.2).sum, 0) := fun sq => by
    rw [sumOf, tyFloat_of_int ht, intSum_eq]; rfl
  refine ⟨hsum false, ?_, fun hne => ?_, fun he => ⟨?_, ?_, hnone (hnil.1 he)⟩, fun hne => ?_⟩
  · rw [hsum true, List.map_map]; rfl
  · obtain ⟨h0, h0'⟩ := hext 0 (by decide) hne
    obtain ⟨h1, h1'⟩ := hext 1 (by decide) hne
    rw [hvals]
    exact ⟨List.mem_map_of_mem h0, List.forall_mem_map.2 h0', List.mem_map_of_mem h1, List.forall_mem_map.2 h1'⟩
  · rw [extreme_eq, hnums, hnil.1 he, tyFloat_of_int ht]
    exact (valI_ends ht).1
  · rw [extreme_eq, hnums, hnil.1 he, tyFloat_of_int ht]
    exact (valI_ends ht).2
  · obtain ⟨k, hk, x, hx, -, hall, hfirst⟩ := hsome (mt hnil.2 hne)
    exact ⟨k, hk, x, hx, by rw [hvals]; exact List.forall_mem_map.2 hall,
      fun j y hj hy => hfirst j y hj hy (isNanT_of_int ht y)⟩

theorem float_sum {t : Ty} (ht : t ∈ tysF) (mode w : Nat) (sq : Bool) (xs : List (Bool × Nat)) :
    let wide := fun (x : Nat) => cvtB (fmtOf t) .f32 0 x
    let square := fun (x : Nat) => if sq then fmulB .f32 mode (wide x).1 (wide x).1 else ((wide x).1, (0 : Flags))
    let tree := sumParts mode xs.length (xs.map fun e => if e.1 then some (square e.2).1 else none)
    let sum := tree.1.getD 0x80000000
    let fl := orFlags ((xs.filter Prod.fst).map fun e => (wide e.2).2 ||| (square e.2).2) ||| tree.2
    sumOf t mode w sq xs = if t = .f32 then (sum, fl)
      else ((cvtB .f32 (fmtOf t) mode sum).1, fl ||| (cvtB .f32 (fmtOf t) mode sum).2) := by
  intro wide square tree sum fl
  have hleaf : (xs.map fun e : Bool × Nat =>
      if !e.1 then ((none : Option Nat), (0 : Flags))
      else if sq then (some (fmulB .f32 mode (wide e.2).1 (wide e.2).1).1, (wide e.2).2 ||| (fmulB .f32 mode (wide e.2).1 (wide e.2).1).2)
      else (some (wide e.2).1, (wide e.2).2)) =
      xs.map fun e => (if e.1 then some (square e.2).1 else none, if e.1 then (wide e.2).2 ||| (square e.2).2 else 0) := by
    refine List.map_congr_left fun e _ => ?_
    simp only [square]
    cases e.1 <;> cases sq <;> simp
  have hflags := orFlags_filter Prod.fst (fun e : Bool × Nat => (wide e.2).2 ||| (square e.2).2) xs
  rw [sumOf, tyFloat_of_float ht, if_pos rfl]
  unfold floatSum
  dsimp only [widen32]
  rw [hleaf]
  simp only [List.map_map, List.length_map, Function.comp_def]
  rw [hflags]
  rfl

theorem float_reductions {t : Ty} (ht : t ∈ tysF) (xs : List (Bool × Nat)) :
    let f := fmtOf t
    let v := unpack f
    let part := (xs.filter Prod.fst).map Prod.snd
    let nums := part.filter fun x => !(v x).isNan
    let mags := nums.map fun x => x % 2 ^ (tyBits t - 1)
    let nv : Flags := if ∃ x ∈ part, (v x).isSnan = true then fNV else 0
    let lost := fun (kind : Nat) => (extreme t kind xs).1 = if part = [] then
      (if kind = 0 then f.inf true else if kind = 1 then f.inf false else 0) else f.qnan
    (∀ kind, (extreme t kind xs).2 = nv) ∧ (argMax t xs).2 = nv ∧
    (nums = [] → lost 0 ∧ lost 1 ∧ lost 2 ∧ (argMax t xs).1 = -1) ∧
    (nums ≠ [] → (extreme t 0 xs).1 ∈ nums ∧ (∀ x ∈ nums, ¬(v (extreme t 0 xs).1).less True (v x)) ∧
      (extreme t 1 xs).1 ∈ nums ∧ (∀ x ∈ nums, ¬(v x).less True (v (extreme t 1 xs).1)) ∧
      (extreme t 2 xs).1 ∈ mags ∧ (∀ x ∈ mags, ¬(v (extreme t 2 xs).1).less True (v x)) ∧
      ∃ k, (argMax t xs).1 = (k : Nat) ∧ ∃ x, xs[k]? = some (true, x) ∧ (v x).isNan = false ∧
        (∀ y ∈ nums, ¬(v x).less True (v y)) ∧
        ∀ j y, j < k → xs[j]? = some (true, y) → (v y).isNan = false → (v y).less True (v x)) := by
  intro f v part nums mags nv lost
  have hnums : numsOf t xs = nums := by simp only [numsOf, isNanT_of_float ht]; rfl
  have hmags : (numsOf t xs).map (reducedBits t 2) = mags := by
    rw [hnums]; exact List.map_congr_left fun x _ => reducedBits_magnitude ht x
  have hnv : snanFlags t xs = nv := snanFlags_of_float ht xs
  obtain ⟨harg, hnone, hsome⟩ := argMax_spec (t := t) (xs := xs) (fun x => (v x).rank)
    fun a ha b hb => below_of_float ht (numsOf_not_nan ht ha) (numsOf_not_nan ht hb)
  refine ⟨fun kind => (extreme_flags t kind xs).trans hnv, harg.trans hnv, fun he => ?_, fun hne => ?_⟩
  · have hlost : ∀ kind, (extreme t kind xs).1 = if partOf xs = [] then
        (match kind with
         | 0 => if tyFloat t then (fmtOf t).inf true else toW t (loI t)
         | 1 => if tyFloat t then (fmtOf t).inf false else toW t (hiI t)
         | _ => 0) else (fmtOf t).qnan := fun kind => by
      rw [extreme_eq, hnums, he, List.map_nil]
      dsimp only
      split <;> rfl
    have htf := tyFloat_of_float ht
    refine ⟨(hlost 0).trans ?_, (hlost 1).trans ?_, hlost 2, hnone (hnums.trans he)⟩ <;> simp only [htf, if_true] <;> rfl
  · have hne' : numsOf t xs ≠ [] := by rw [hnums]; exact hne
    have h0 := float_extreme_spec ht 0 hne'
    have h1 := float_extreme_spec ht 1 hne'
    have h2 := float_extreme_spec ht 2 hne'
    rw [reducedBits_self (by decide), hnums] at h0 h1
    rw [hmags] at h2
    obtain ⟨k, hk, x, hx, hxn, hall, hfirst⟩ := hsome hne'
    rw [isNanT_of_float ht] at hxn
    refine ⟨h0.1, h0.2, h1.1, h1.2, h2.1, h2.2, k, hk, x, hx, hxn, fun y hy => ?_, fun j y hj hy hyn => ?_⟩
    · rw [← hnums] at hy
      exact (not_less_iff_rank hxn (numsOf_not_nan ht hy)).2 (hall y hy)
    · exact (less_iff_rank hyn hxn (unpack_proper ..) (unpack_proper ..)).2
        (hfirst j y hj hy (by rw [isNanT_of_float ht]; exact hyn))

/-- Settles O15: each instruction by its rule over the sequences of the tile; integer sums and extremes by a fold that keeps the
first of the greatest, float ones by the rank of their values, and the pairwise tree by its halves. -/
theorem reductionsAndScansFillTheirSequences : Obligations.ReductionsAndScansFillTheirSequences := by
  refine ⟨⟨?reduce, ?scan⟩, ?ints, ?tree, ?sums, ?floats⟩
  case reduce =>
    intro s u i o a f hgo hx hs hok hrule hb hf
    obtain ⟨ext, he, hext, hty, hall⟩ := redRule_exec hrule hok
    have h := redOp_writes hgo hx hs he hb (tyBytes_pos_of_mem hty) hall hf
    refine ⟨h.1, fun hd => ?_⟩
    have hw := h.2 hd
    rw [hext] at hw
    exact hw
  case scan =>
    intro s u o a hgo hx hok hb hf
    have hpos := tyBytes_pos_of_mem (okIn_types hok rfl)
    have hn : elemsOf s ≤ 4096 := by
      have : elemsOf s * tyBytes o.ty ≤ 4096 := by simpa [tooBig] using hb
      exact (Nat.le_mul_of_pos_right _ hpos).trans this
    exact WritesElems.all (writesTile_of hgo hx (fetch_frame hf) hb (execRscn_eq hb hf)) hn
  case ints => exact fun t mode w xs ht _ => int_reductions ht mode w xs
  case tree =>
    intro mode fuel xs hlen
    refine ⟨fun x hx => by rw [hx]; exact sumParts_singleton mode fuel x, fun h2 => ?_⟩
    obtain ⟨hlt, hle, -⟩ := halfPow_spec h2
    refine ⟨Nat.log2 (xs.length - 1), hlt, hle, ?_⟩
    have hsplit := sumParts_split mode hlen h2
    dsimp only at hsplit ⊢
    rw [halfPow] at hsplit
    generalize sumParts mode fuel (xs.take _) = a at hsplit ⊢
    generalize sumParts mode fuel (xs.drop _) = b at hsplit ⊢
    rw [hsplit]
    obtain ⟨a, fa⟩ := a
    obtain ⟨b, fb⟩ := b
    refine ⟨?_, ?_, ?_⟩
    · rintro x y rfl rfl; rfl
    · rintro rfl; exact ⟨rfl, BitVec.or_zero⟩
    · rintro rfl; cases a <;> exact ⟨rfl, BitVec.or_zero⟩
  case sums => exact fun t mode w sq xs ht _ => float_sum ht mode w sq xs
  case floats => exact fun t xs ht _ => float_reductions ht xs

end Sys2Proof.Machine
end

section
/-! SUPPORT. A value rounded to an integer in a mode (02 R57, 05 R145). -/

namespace Sys2Proof.Machine

section
variable {n d : Nat} (hd : 0 < d)
include hd

theorem quot_eq_parts : (n : ℚ) / d = (n / d : Nat) + (n % d : Nat) / d := by
  simpa using quot_eq_units (n := n) (q := 0) hd

theorem floor_quot : ⌊(n : ℚ) / d⌋ = (n / d : Nat) := by
  rw [Int.floor_eq_iff, quot_eq_parts hd]
  exact ⟨le_add_of_nonneg_right (by positivity), add_lt_add_right (part_lt_one hd) _⟩

theorem ceil_quot : ⌈(n : ℚ) / d⌉ = ((if n % d = 0 then n / d else n / d + 1 : Nat) : Int) := by
  have hlt := part_lt_one (n := n) hd
  rw [Int.ceil_eq_iff, quot_eq_parts hd]
  split
  · next h => simp only [h, Int.cast_natCast, Nat.cast_zero, zero_div, add_zero]; exact ⟨by linarith, le_rfl⟩
  · next h =>
    have hpos : (0 : ℚ) < (n % d : Nat) / d := by have := Nat.pos_of_ne_zero h; positivity
    rw [Int.cast_natCast, Nat.cast_succ]
    exact ⟨by linarith, by linarith⟩

/-- The part of a quotient beyond its whole part against one half. -/
theorem part_half : (((n % d : Nat) : ℚ) / d < 1 / 2 ↔ 2 * (n % d) < d) ∧ (((n % d : Nat) : ℚ) / d = 1 / 2 ↔ 2 * (n % d) = d) := by
  have hd' : (0 : ℚ) < d := by exact_mod_cast hd
  constructor
  · rw [div_lt_iff₀ hd', ← Nat.cast_lt (α := ℚ)]; push_cast; constructor <;> intro h <;> linarith
  · rw [div_eq_iff hd'.ne', ← Nat.cast_inj (R := ℚ)]; push_cast; constructor <;> intro h <;> linarith

theorem roundInt_pos {mode : Nat} (hm : mode < 4) : roundInt mode ((n : ℚ) / d) = (roundedUnits mode false n d : Nat) := by
  have hx : (0 : ℚ) ≤ n / d := by positivity
  obtain ⟨hlt, heq⟩ := part_half (n := n) hd
  have hfr : (n : ℚ) / d - (n / d : Nat) = (n % d : Nat) / d := by rw [quot_eq_parts hd]; ring
  obtain ⟨-, r3, r2, -⟩ := roundedUnits_directed n d
  interval_cases mode
  · simp only [roundInt, floor_quot hd, Int.cast_natCast, hfr, hlt, heq, roundedUnits, roundsUp]
    have := Nat.mod_lt n hd
    simp only [Bool.or_eq_true, Bool.and_eq_true, decide_eq_true_eq, beq_iff_eq]
    split <;> split <;> omega
  · rw [roundedUnits_towardZero, roundInt, if_pos hx, floor_quot hd]
  · rw [r2, roundInt, ceil_quot hd]
  · rw [r3, roundInt, floor_quot hd]
    all_goals decide

theorem roundInt_neg {mode : Nat} (hm : mode < 4) : roundInt mode (-((n : ℚ) / d)) = -(roundedUnits mode true n d : Nat) := by
  have hx : (0 : ℚ) ≤ n / d := by positivity
  obtain ⟨hlt, heq⟩ := part_half (n := n) hd
  obtain ⟨r2, -, -, r3⟩ := roundedUnits_directed n d
  interval_cases mode
  · simp only [roundInt, Int.floor_neg, ceil_quot hd, roundedUnits, roundsUp, Bool.or_eq_true, Bool.and_eq_true,
      decide_eq_true_eq, beq_iff_eq]
    by_cases h0 : n % d = 0
    · have hv : (n : ℚ) / d = (n / d : Nat) := by rw [quot_eq_parts hd, h0]; simp
      have hfr : -((n : ℚ) / d) - ((-((n / d : Nat) : Int) : Int) : ℚ) = 0 := by
        rw [hv, Int.cast_neg, Int.cast_natCast]; ring
      simp only [h0, if_true, hfr, one_half_pos, true_or]
      split <;> omega
    · simp only [if_neg h0]
      have hfr : -((n : ℚ) / d) - ((-((n / d + 1 : Nat) : Int) : Int) : ℚ) = 1 - (n % d : Nat) / d := by
        rw [quot_eq_parts hd, Int.cast_neg, Int.cast_natCast, Nat.cast_succ]; ring
      have l1 : (1 : ℚ) - (n % d : Nat) / d < 1 / 2 ↔ d < 2 * (n % d) := by
        have h3 : ((n % d : Nat) : ℚ) / d ≤ 1 / 2 ↔ 2 * (n % d) ≤ d := by
          rw [le_iff_lt_or_eq, hlt, heq, le_iff_lt_or_eq]
        rw [← not_le (b := d), ← h3, not_le]
        constructor <;> intro h <;> linarith
      have l2 : (1 : ℚ) - (n % d : Nat) / d = 1 / 2 ↔ 2 * (n % d) = d := by
        rw [← heq]; constructor <;> intro h <;> linarith
      rw [hfr]
      simp only [l1, l2]
      split <;> split <;> omega
  · rw [roundedUnits_towardZero, roundInt]
    split
    · next h =>
      have : (n : ℚ) / d = 0 := by linarith
      have h1 := floor_quot (n := n) hd
      rw [this] at h1 ⊢
      simp only [Int.floor_zero] at h1
      simp [← h1]
    · rw [Int.ceil_neg, floor_quot hd]
  · rw [r2, roundInt, Int.ceil_neg, floor_quot hd]
  · rw [r3, roundInt, Int.floor_neg, ceil_quot hd]
    all_goals decide

end

/-- The value of a dyadic number over a power of two. -/
theorem dyQ_quot {v : Dy} (he : v.e < 0) :
    dyQ v = signedQ (decide (v.m < 0)) ((v.m.natAbs : ℚ) / (2 ^ (-v.e).toNat : Nat)) := by
  rw [dyQ_eq_signedQ, zpow_toNat (by omega), zpow_neg, div_inv_eq_mul]

/-- The model rounds a value to the integer of the mode. -/
theorem toInt_eq {mode : Nat} (hm : mode < 4) (v : Dy) : (toInt mode v).1 = roundInt mode (dyQ v) := by
  unfold toInt
  split
  · next h =>
    have hv : dyQ v = ((v.m * (2 ^ v.e.toNat : Nat) : Int) : ℚ) := by rw [dyQ, ← zpow_toNat h]; push_cast; ring
    rw [hv]
    interval_cases mode <;> simp only [roundInt, Int.floor_intCast, Int.ceil_intCast, sub_self, one_half_pos, true_or,
      if_true, ite_self]
  · next h =>
    rw [dyQ_quot (not_le.1 h)]
    have hd : 0 < 2 ^ (-v.e).toNat := by positivity
    by_cases hn : v.m < 0
    · simp only [hn, decide_true, signedQ, if_true]
      rw [roundInt_neg hd hm]; rfl
    · simp only [hn, decide_false, signedQ, if_neg Bool.false_ne_true]
      rw [roundInt_pos hd hm]; rfl

/-- The model says of a rounding whether it is exact. -/
theorem toInt_exact (mode : Nat) (v : Dy) : (toInt mode v).2 = true ↔ ((toInt mode v).1 : ℚ) = dyQ v := by
  unfold toInt
  split
  · next h => simp [dyQ, ← zpow_toNat h]
  · next h =>
    have hd : 0 < 2 ^ (-v.e).toNat := by positivity
    have hr := rounded_eq_quot_iff (n := v.m.natAbs) (q := 0) hd mode (decide (v.m < 0))
    simp only [zpow_zero, mul_one, roundedUnits] at hr
    rw [dyQ_quot (not_le.1 h), decide_eq_true_eq, ← hr]
    by_cases hn : v.m < 0
    · simp only [hn, decide_true, if_true, signedQ, Int.cast_neg, Int.cast_natCast, neg_inj]
    · simp only [hn, decide_false, signedQ, if_neg Bool.false_ne_true, Int.cast_natCast]

theorem roundInt_zero_near {v : ℚ} : |(roundInt 0 v : ℚ) - v| ≤ 1 / 2 ∧
    (|(roundInt 0 v : ℚ) - v| = 1 / 2 → roundInt 0 v % 2 = 0) := by
  have h1 := Int.floor_le v
  have h2 := Int.lt_floor_add_one v
  simp only [roundInt]
  split
  · next h =>
    rw [abs_of_nonpos (by linarith)]
    rcases h with h | ⟨h, he⟩
    · exact ⟨by linarith, fun k => absurd k (by linarith)⟩
    · exact ⟨by linarith, fun _ => he⟩
  · next h =>
    have h3 : 1 / 2 ≤ v - ⌊v⌋ := not_lt.1 fun k => h (.inl k)
    push_cast
    rw [abs_of_nonneg (by linarith)]
    refine ⟨by linarith, fun k => ?_⟩
    have : ¬⌊v⌋ % 2 = 0 := fun k' => h (.inr ⟨by linarith, k'⟩)
    omega

/-- Rounding to nearest leaves a nearest integer, of two the even one. -/
theorem roundInt_nearest (v : ℚ) (k : Int) : |(roundInt 0 v : ℚ) - v| ≤ |(k : ℚ) - v| ∧
    (|(roundInt 0 v : ℚ) - v| = |(k : ℚ) - v| → k ≠ roundInt 0 v → roundInt 0 v % 2 = 0) := by
  obtain ⟨hle, heven⟩ := roundInt_zero_near (v := v)
  by_cases hk : k = roundInt 0 v
  · exact ⟨by rw [hk], fun _ h => absurd hk h⟩
  · have h1 : (1 : ℚ) ≤ |(k : ℚ) - roundInt 0 v| := by
      have : 1 ≤ |k - roundInt 0 v| := Int.one_le_abs (sub_ne_zero.2 hk)
      exact_mod_cast this
    have h2 := abs_sub_le (k : ℚ) v (roundInt 0 v)
    rw [abs_sub_comm v] at h2
    exact ⟨by linarith, fun h _ => heven (by linarith)⟩

end Sys2Proof.Machine
end

section
/-! SUPPORT. The codes of the narrow block formats: their values, the encoding of a value to the nearest code, and the scale byte
of a block (03 R84 to R93, 04 R119, 05 R149). -/

namespace Sys2Proof.Machine

/-! ### The nearest of a row of values -/

/-- The step of a search for the nearest place, an even one of two. -/
def nearerOf (dist : Nat → ℚ) (b i : Nat) : Nat :=
  if dist (i + 1) < dist b then i + 1
  else if dist (i + 1) = dist b then (if (i + 1) % 2 = 0 then i + 1 else b) else b

/-- Where distances fall and then rise, the search ends at a nearest place, of two at the even one. -/
theorem foldl_nearerOf {dist : Nat → ℚ} {n : Nat}
    (h : ∀ i j k, i < j → j < k → k ≤ n → dist i = dist k → dist j < dist i) :
    let b := (List.range n).foldl (nearerOf dist) 0
    b ≤ n ∧ ∀ k ≤ n, dist b ≤ dist k ∧ (dist b = dist k → k ≠ b → b % 2 = 0) := by
  induction n with
  | zero => exact ⟨le_rfl, fun k hk => by obtain rfl := Nat.le_zero.1 hk; exact ⟨le_rfl, fun _ h => absurd rfl h⟩⟩
  | succ n ih =>
    rw [List.range_succ, List.foldl_append]
    obtain ⟨hb, hall⟩ := ih fun i j k hij hjk hk => h i j k hij hjk (by omega)
    generalize (List.range n).foldl (nearerOf dist) 0 = b at hb hall ⊢
    simp only [List.foldl_cons, List.foldl_nil, nearerOf]
    split
    · next hlt =>
      refine ⟨le_rfl, fun k hk => ?_⟩
      rcases Nat.le_or_eq_of_le_succ hk with hk | rfl
      · have := hlt.trans_le (hall k hk).1
        exact ⟨this.le, fun he => absurd he this.ne⟩
      · exact ⟨le_rfl, fun _ h => absurd rfl h⟩
    · next hge =>
      split
      · next heq =>
        have hbn : b = n := by
          by_contra hne
          exact absurd (hall n le_rfl).1 (h b n (n + 1) (by omega) (by omega) le_rfl heq.symm).not_ge
        split
        · next heven =>
          refine ⟨le_rfl, fun k hk => ⟨?_, fun _ _ => heven⟩⟩
          rcases Nat.le_or_eq_of_le_succ hk with hk | rfl
          · rw [heq]; exact (hall k hk).1
          · exact le_rfl
        · next hodd =>
          refine ⟨by omega, fun k hk => ⟨?_, fun _ _ => by omega⟩⟩
          rcases Nat.le_or_eq_of_le_succ hk with hk | rfl
          · exact (hall k hk).1
          · exact heq.ge
      · next hne =>
        refine ⟨by omega, fun k hk => ?_⟩
        rcases Nat.le_or_eq_of_le_succ hk with hk | rfl
        · exact hall k hk
        · exact ⟨not_lt.1 hge, fun he => absurd he.symm hne⟩

/-- The distances from a point to rising values fall and then rise. -/
theorem dist_dip {val : Nat → ℚ} {n : Nat} (hval : ∀ i j, i < j → j ≤ n → val i < val j) (a : ℚ) (i j k : Nat)
    (hij : i < j) (hjk : j < k) (hk : k ≤ n) (h : |a - val i| = |a - val k|) : |a - val j| < |a - val i| := by
  have h1 := hval i j hij (by omega)
  have h2 := hval j k hjk hk
  have hk : a - val i ≤ |a - val i| := le_abs_self _
  have hi : -(a - val k) ≤ |a - val k| := neg_le_abs _
  rcases abs_cases (a - val j) with ⟨e, _⟩ | ⟨e, _⟩ <;> rw [e] <;> linarith

/-! ### The signed F4 types (03 R87) -/

/-- The value of a magnitude code. -/
def magQ (ty m : Nat) : ℚ := dyQ ⟨((f4Mag ty m).1 : Int), (f4Mag ty m).2⟩

theorem magQ_rises {ty : Nat} (h : ty = 1 ∨ ty = 2 ∨ ty = 3) (i j : Nat) (hij : i < j) (hj : j ≤ 7) :
    magQ ty i < magQ ty j := by
  have hu : ∀ n : Int, (0 : ℚ) < 2 ^ n := fun n => by positivity
  have hm : (f4Mag ty i).1 < (f4Mag ty j).1 ∧ (f4Mag ty i).2 = (f4Mag ty j).2 := by
    rcases h with rfl | rfl | rfl <;> interval_cases j <;> interval_cases i <;> decide
  obtain ⟨hm, he⟩ := hm
  rw [magQ, magQ, dyQ, dyQ, he]
  exact mul_lt_mul_of_pos_right (Int.cast_lt.2 (Int.ofNat_lt.2 hm)) (hu _)

theorem magQ_zero {ty : Nat} (h : ty = 1 ∨ ty = 2 ∨ ty = 3) : magQ ty 0 = 0 := by
  rcases h with rfl | rfl | rfl <;> exact dyQ_eq_zero.2 rfl

theorem magQ_pos {ty m : Nat} (h : ty = 1 ∨ ty = 2 ∨ ty = 3) (hm : m ≤ 7) (h0 : m ≠ 0) : 0 < magQ ty m := by
  rw [← magQ_zero h]; exact magQ_rises h 0 m (by omega) hm

/-- The value of a code of a signed F4 type. -/
theorem codeVal_signed {ty c : Nat} (h : ty = 1 ∨ ty = 2 ∨ ty = 3) :
    dyQ (codeVal ty c) = signedQ (bitAt c 3) (magQ ty (c % 8)) := by
  have hc : codeVal ty c = ⟨if bitAt c 3 then -((f4Mag ty (c % 8)).1 : Int) else (f4Mag ty (c % 8)).1, (f4Mag ty (c % 8)).2⟩ := by
    rcases h with rfl | rfl | rfl <;> rfl
  rw [hc, magQ]
  cases bitAt c 3 <;> simp [dyQ, signedQ]

/-- The model finds a nearest magnitude, of two the even one (03 R93). -/
theorem nearMag_spec {ty : Nat} (h : ty = 1 ∨ ty = 2 ∨ ty = 3) (q : Dy) :
    nearMag ty q ≤ 7 ∧ ∀ k ≤ 7, |dyQ q - magQ ty (nearMag ty q)| ≤ |dyQ q - magQ ty k| ∧
      (|dyQ q - magQ ty (nearMag ty q)| = |dyQ q - magQ ty k| → k ≠ nearMag ty q → nearMag ty q % 2 = 0) := by
  have hfold : nearMag ty q = (List.range 7).foldl (nearerOf fun m => |dyQ q - magQ ty m|) 0 := by
    simp only [nearMag, Dy.lt_iff, Dy.eq_iff, dyQ_abs, dyQ_sub]
    rfl
  rw [hfold]
  exact foldl_nearerOf fun i j k hij hjk hk he => dist_dip (magQ_rises h) _ i j k hij hjk hk he

/-! ### The encoding of a value (03 R93) -/

/-- The bits of a code of a format. -/
def codeBits (fmt : Nat) : Nat := if fmt < 4 then 4 else 8

/-- The least and the largest value of a format (03 R87 to R90). -/
def codeLow (fmt : Nat) : ℚ := ([-15 / 2, -6, -8, -12, -128, -255 / 32] : List ℚ).getD fmt 0
def codeHigh (fmt : Nat) : ℚ := ([15 / 2, 6, 8, 12, 127, 255 / 32] : List ℚ).getD fmt 0

/-- A code, and whether it saturated, that is the encoding of a value. -/
structure Encodes (fmt : Nat) (q : ℚ) (r : Nat × Bool) : Prop where
  bound : r.1 < 2 ^ codeBits fmt
  sat : r.2 = true ↔ q < codeLow fmt ∨ codeHigh fmt < q
  low : q < codeLow fmt → dyQ (codeVal fmt r.1) = codeLow fmt
  high : codeHigh fmt < q → dyQ (codeVal fmt r.1) = codeHigh fmt
  zero : dyQ (codeVal fmt r.1) = 0 → r.1 = 0
  nearest : codeLow fmt ≤ q → q ≤ codeHigh fmt → ∀ c, c < 2 ^ codeBits fmt →
    |dyQ (codeVal fmt r.1) - q| ≤ |dyQ (codeVal fmt c) - q| ∧
      (|dyQ (codeVal fmt r.1) - q| = |dyQ (codeVal fmt c) - q| →
        dyQ (codeVal fmt c) ≠ dyQ (codeVal fmt r.1) → r.1 % 2 = 0)

/-- What saturates beyond its ends and is encoded by `near` between them. -/
def saturated (fmt : Nat) (q : ℚ) (low high near : Nat) : Nat × Bool :=
  if codeHigh fmt < q then (high, true) else if q < codeLow fmt then (low, true) else (near, false)

theorem saturated_encodes {fmt : Nat} {q : ℚ} {low high near : Nat} (hlo : dyQ (codeVal fmt low) = codeLow fmt)
    (hhi : dyQ (codeVal fmt high) = codeHigh fmt) (hord : codeLow fmt < 0 ∧ 0 < codeHigh fmt)
    (hends : low < 2 ^ codeBits fmt ∧ high < 2 ^ codeBits fmt)
    (hnear : codeLow fmt ≤ q → q ≤ codeHigh fmt → near < 2 ^ codeBits fmt ∧
      (dyQ (codeVal fmt near) = 0 → near = 0) ∧ ∀ c, c < 2 ^ codeBits fmt →
        |dyQ (codeVal fmt near) - q| ≤ |dyQ (codeVal fmt c) - q| ∧
          (|dyQ (codeVal fmt near) - q| = |dyQ (codeVal fmt c) - q| →
            dyQ (codeVal fmt c) ≠ dyQ (codeVal fmt near) → near % 2 = 0)) :
    Encodes fmt q (saturated fmt q low high near) := by
  obtain ⟨h0, h1⟩ := hord
  obtain ⟨hb0, hb1⟩ := hends
  unfold saturated
  by_cases hq : codeHigh fmt < q
  · rw [if_pos hq]
    exact ⟨hb1, by simp [hq], fun h => absurd (h.trans (h0.trans h1)) hq.not_gt, fun _ => hhi,
      fun h => absurd (hhi.symm.trans h) h1.ne', fun _ h => absurd hq h.not_gt⟩
  · rw [if_neg hq]
    by_cases hq' : q < codeLow fmt
    · rw [if_pos hq']
      exact ⟨hb0, by simp [hq'], fun _ => hlo, fun h => absurd h hq, fun h => absurd (hlo.symm.trans h) h0.ne,
        fun h => absurd hq' h.not_gt⟩
    · rw [if_neg hq']
      obtain ⟨hb, hz, hn⟩ := hnear (not_lt.1 hq') (not_lt.1 hq)
      exact ⟨hb, by simp [hq, hq'], fun h => absurd h hq', fun h => absurd h hq, hz, fun _ _ => hn⟩

/-- In units of `u` from an offset, rounding to nearest leaves a nearest place. -/
theorem linear_nearest {u off q : ℚ} (hu : 0 < u) (k : Int) :
    let n := roundInt 0 (q / u + off)
    |((n : ℚ) - off) * u - q| ≤ |((k : ℚ) - off) * u - q| ∧
      (|((n : ℚ) - off) * u - q| = |((k : ℚ) - off) * u - q| → k ≠ n → n % 2 = 0) := by
  intro n
  have hs : ∀ x : ℚ, |(x - off) * u - q| = |x - (q / u + off)| * u := fun x => by
    rw [← abs_of_pos hu, ← abs_mul, abs_of_pos hu]; congr 1; field_simp; ring
  obtain ⟨h1, h2⟩ := roundInt_nearest (q / u + off) k
  rw [hs, hs]
  exact ⟨mul_le_mul_of_nonneg_right h1 hu.le, fun h => h2 (mul_right_cancel₀ hu.ne' h)⟩

/-- Rounding to nearest keeps between whole ends. -/
theorem roundInt_within {v : ℚ} {lo hi : Int} (hl : (lo : ℚ) ≤ v) (hh : v ≤ hi) : lo ≤ roundInt 0 v ∧ roundInt 0 v ≤ hi := by
  have h1 : lo ≤ ⌊v⌋ := Int.le_floor.2 hl
  simp only [roundInt]
  split
  · exact ⟨h1, by exact_mod_cast (Int.floor_le v).trans hh⟩
  · next h =>
    have hv : (⌊v⌋ : ℚ) < v := lt_of_le_of_ne (Int.floor_le v) fun he => h (.inl (by rw [← he]; norm_num))
    have : ⌊v⌋ < hi := by exact_mod_cast hv.trans_le hh
    omega

theorem codeVal_uni (c : Nat) : dyQ (codeVal 0 c) = (((c % 16 : Nat) : Int) - 15 / 2) * 1 := by
  simp only [codeVal, dyQ]; push_cast; ring

theorem codeVal_a8 (c : Nat) : dyQ (codeVal 4 c) = ((signed 8 c : Int) - 0) * 1 := by
  simp only [codeVal, dyQ]; push_cast; ring

theorem codeVal_nw8 (c : Nat) : dyQ (codeVal 5 c) = (((c % 256 : Nat) : Int) - 255 / 2) * (1 / 16) := by
  simp only [codeVal, dyQ, zpow_neg]; push_cast; ring

/-- Where codes stand for places in units from an offset, the code of the rounded place is a nearest one. -/
theorem linear_code {fmt near : Nat} {u off q : ℚ} (hu : 0 < u) {pos : Nat → Int}
    (hval : ∀ c, dyQ (codeVal fmt c) = ((pos c : ℚ) - off) * u) (hp : pos near = roundInt 0 (q / u + off))
    (hpar : pos near % 2 = 0 → near % 2 = 0) (c : Nat) :
    |dyQ (codeVal fmt near) - q| ≤ |dyQ (codeVal fmt c) - q| ∧
      (|dyQ (codeVal fmt near) - q| = |dyQ (codeVal fmt c) - q| →
        dyQ (codeVal fmt c) ≠ dyQ (codeVal fmt near) → near % 2 = 0) := by
  obtain ⟨h1, h2⟩ := linear_nearest (off := off) (q := q) hu (pos c)
  rw [← hp] at h1 h2
  rw [hval, hval]
  exact ⟨h1, fun he hne => hpar (h2 he fun k => hne (by rw [k]))⟩

/-- A byte that holds a signed number. -/
theorem signed_wrapN {n : Int} (h1 : -128 ≤ n) (h2 : n ≤ 127) :
    signed 8 (wrapN 8 n) = n ∧ wrapN 8 n < 256 ∧ wrapN 8 n % 2 = (n % 2).toNat := by
  simp only [signed, wrapN]
  norm_num
  split <;> omega

theorem encodeNarrow_uni (q : Dy) : Encodes 0 (dyQ q) (encodeNarrow 0 q) := by
  have hr : encodeNarrow 0 q = saturated 0 (dyQ q) 0 15 (roundInt 0 (dyQ q / 1 + 15 / 2)).toNat := by
    have h1 : dyQ ⟨15, -1⟩ = 15 / 2 := by norm_num [dyQ]
    have h2 : dyQ ⟨-15, -1⟩ = -15 / 2 := by norm_num [dyQ]
    simp only [encodeNarrow, saturated, Dy.lt_iff, toInt_eq (show 0 < 4 by decide), dyQ_add, h1, h2, div_one]
    rfl
  rw [hr]
  refine saturated_encodes (by norm_num [dyQ, codeVal, codeLow]) (by norm_num [dyQ, codeVal, codeHigh])
    (by norm_num [codeLow, codeHigh]) (by decide) fun h1 h2 => ?_
  simp only [codeLow, codeHigh, List.getD_cons_zero] at h1 h2
  obtain ⟨hlo, hhi⟩ := roundInt_within (v := dyQ q / 1 + 15 / 2) (lo := 0) (hi := 15) (by push_cast; linarith) (by push_cast; linarith)
  have hb : (roundInt 0 (dyQ q / 1 + 15 / 2)).toNat < 16 := by omega
  refine ⟨hb, fun hz => ?_, fun c _ => linear_code one_pos codeVal_uni (by omega) (by omega) c⟩
  have hm : 2 * (((roundInt 0 (dyQ q / 1 + 15 / 2)).toNat % 16 : Nat) : Int) - 15 = 0 := dyQ_eq_zero.1 hz
  omega

theorem encodeNarrow_nw8 (q : Dy) : Encodes 5 (dyQ q) (encodeNarrow 5 q) := by
  have hr : encodeNarrow 5 q = saturated 5 (dyQ q) 0 255 (roundInt 0 (dyQ q / (1 / 16) + 255 / 2)).toNat := by
    have h1 : dyQ ⟨255, -5⟩ = 255 / 32 := by norm_num [dyQ]
    have h2 : dyQ ⟨-255, -5⟩ = -255 / 32 := by norm_num [dyQ]
    have h3 : dyQ ⟨255, -1⟩ = 255 / 2 := by norm_num [dyQ]
    have h4 : dyQ ⟨q.m, q.e + 4⟩ = dyQ q / (1 / 16) := by rw [dyQ_shift, div_div_eq_mul_div, div_one]; norm_num
    simp only [encodeNarrow, saturated, Dy.lt_iff, toInt_eq (show 0 < 4 by decide), dyQ_add, h1, h2, h3, h4]
    rfl
  rw [hr]
  refine saturated_encodes (by norm_num [dyQ, codeVal, codeLow]) (by norm_num [dyQ, codeVal, codeHigh])
    (by norm_num [codeLow, codeHigh]) (by decide) fun h1 h2 => ?_
  simp only [codeLow, codeHigh, List.getD_cons_zero, List.getD_cons_succ] at h1 h2
  obtain ⟨hlo, hhi⟩ := roundInt_within (v := dyQ q / (1 / 16) + 255 / 2) (lo := 0) (hi := 255) (by push_cast; linarith)
    (by push_cast; linarith)
  have hb : (roundInt 0 (dyQ q / (1 / 16) + 255 / 2)).toNat < 256 := by omega
  refine ⟨hb, fun hz => ?_, fun c _ => linear_code (by norm_num) codeVal_nw8 (by omega) (by omega) c⟩
  have hm : 2 * (((roundInt 0 (dyQ q / (1 / 16) + 255 / 2)).toNat % 256 : Nat) : Int) - 255 = 0 := dyQ_eq_zero.1 hz
  omega

theorem encodeNarrow_a8 (q : Dy) : Encodes 4 (dyQ q) (encodeNarrow 4 q) := by
  have hr : encodeNarrow 4 q = saturated 4 (dyQ q) 0x80 0x7F (wrapN 8 (roundInt 0 (dyQ q / 1 + 0))) := by
    have h1 : dyQ ⟨127, 0⟩ = 127 := by norm_num [dyQ]
    have h2 : dyQ ⟨-128, 0⟩ = -128 := by norm_num [dyQ]
    simp only [encodeNarrow, saturated, Dy.lt_iff, toInt_eq (show 0 < 4 by decide), h1, h2, div_one, add_zero]
    rfl
  rw [hr]
  refine saturated_encodes (by norm_num [dyQ, codeVal, codeLow, signed]) (by norm_num [dyQ, codeVal, codeHigh, signed])
    (by norm_num [codeLow, codeHigh]) (by decide) fun h1 h2 => ?_
  simp only [codeLow, codeHigh, List.getD_cons_zero, List.getD_cons_succ] at h1 h2
  obtain ⟨hlo, hhi⟩ := roundInt_within (v := dyQ q / 1 + 0) (lo := -128) (hi := 127) (by push_cast; linarith) (by push_cast; linarith)
  generalize hn : roundInt 0 (dyQ q / 1 + 0) = n at hlo hhi
  obtain ⟨hs, hb, hpar⟩ := signed_wrapN hlo hhi
  refine ⟨hb, fun hz => ?_, fun c _ => linear_code one_pos codeVal_a8 (hs.trans hn.symm) (fun h => by omega) c⟩
  have hm : signed 8 (wrapN 8 n) = 0 := dyQ_eq_zero.1 hz
  rw [hs] at hm
  rw [hm]; decide

/-- The code of a sign and a magnitude code. -/
def signedCode (neg : Bool) (m : Nat) : Nat := if m = 0 then 0 else if neg then 8 + m else m

theorem signedCode_spec {ty m : Nat} (h : ty = 1 ∨ ty = 2 ∨ ty = 3) (hm : m ≤ 7) (neg : Bool) :
    dyQ (codeVal ty (signedCode neg m)) = signedQ neg (magQ ty m) := by
  rw [codeVal_signed h]
  by_cases h0 : m = 0
  · subst h0
    rw [signedCode, if_pos rfl, Nat.zero_mod, magQ_zero h]
    cases neg <;> simp [signedQ, bitAt]
  · rw [signedCode, if_neg h0]
    have hmod : (if neg then 8 + m else m) % 8 = m := by split <;> omega
    have hbit : bitAt (if neg then 8 + m else m) 3 = neg := by interval_cases m <;> cases neg <;> decide
    rw [hmod, hbit]

/-- The distance of two magnitudes under one sign, and under any signs. -/
theorem abs_signedQ_dist (s t : Bool) {x a : ℚ} (hx : 0 ≤ x) (ha : 0 ≤ a) :
    |signedQ s x - signedQ s a| = |a - x| ∧ |a - x| ≤ |signedQ t x - signedQ s a| ∧
      (t ≠ s → |signedQ t x - signedQ s a| = x + a) := by
  have hsum : ∀ y : ℚ, y = x + a ∨ y = -(x + a) → |y| = x + a := fun y hy => by
    rcases hy with rfl | rfl
    · exact abs_of_nonneg (by linarith)
    · rw [abs_neg, abs_of_nonneg (by linarith)]
  have hle : |a - x| ≤ x + a := abs_le.2 ⟨by linarith, by linarith⟩
  have hsame : |signedQ s x - signedQ s a| = |a - x| := by rw [signedQ_sub, abs_signedQ, abs_sub_comm]
  have hdiff : t ≠ s → |signedQ t x - signedQ s a| = x + a := fun h => by
    apply hsum
    cases s with
    | false =>
      cases t with
      | false => exact absurd rfl h
      | true => right; simp only [signedQ, if_true, if_neg Bool.false_ne_true]; ring
    | true =>
      cases t with
      | false => left; simp only [signedQ, if_true, if_neg Bool.false_ne_true]; ring
      | true => exact absurd rfl h
  refine ⟨hsame, ?_, hdiff⟩
  by_cases h : t = s
  · rw [h, hsame]
  · rw [hdiff h]; exact hle

/-- The distance of an element to itself as a signed magnitude. -/
theorem dyQ_signed_abs (q : Dy) : dyQ q = signedQ (decide (q.m < 0)) |dyQ q| := by
  rw [← dyQ_abs, dyQ_eq_signedQ q]; rfl

theorem encodeNarrow_signed {ty : Nat} (h : ty = 1 ∨ ty = 2 ∨ ty = 3) (q : Dy) : Encodes ty (dyQ q) (encodeNarrow ty q) := by
  have htop : magQ ty 7 = codeHigh ty ∧ codeLow ty = -codeHigh ty := by
    rcases h with rfl | rfl | rfl <;> norm_num [magQ, f4Mag, dyQ, codeHigh, codeLow]
  obtain ⟨htop, hlow⟩ := htop
  have hpos : 0 < codeHigh ty := htop ▸ magQ_pos h le_rfl (by decide)
  have hbits : codeBits ty = 4 := by rcases h with rfl | rfl | rfl <;> rfl
  have hr : encodeNarrow ty q = saturated ty (dyQ q) 15 7
      (signedCode (decide (q.m < 0)) (nearMag ty ⟨(q.m.natAbs : Int), q.e⟩)) := by
    have hnegq : q.m < 0 ↔ dyQ q < 0 := dyQ_lt_zero.symm
    have hm : encodeNarrow ty q = if magQ ty 7 < |dyQ q| then (if decide (q.m < 0) then 15 else 7, true)
        else (signedCode (decide (q.m < 0)) (nearMag ty ⟨(q.m.natAbs : Int), q.e⟩), false) := by
      rw [← dyQ_abs, magQ]
      simp only [← Dy.lt_iff]
      rcases h with rfl | rfl | rfl <;> rfl
    rw [hm, htop, saturated, hlow]
    simp only [decide_eq_true_eq, hnegq]
    rcases lt_or_ge (dyQ q) 0 with hq | hq
    · rw [abs_of_neg hq, if_neg (show ¬codeHigh ty < dyQ q by linarith), if_pos hq]
      exact if_congr (by constructor <;> intro <;> linarith) rfl rfl
    · rw [abs_of_nonneg hq, if_neg (show ¬dyQ q < -codeHigh ty by linarith), if_neg hq.not_gt]
  rw [hr]
  refine saturated_encodes ?_ ?_ ⟨by linarith, hpos⟩ (by rw [hbits]; decide) fun h1 h2 => ?_
  · rw [show 15 = signedCode true 7 from rfl, signedCode_spec h le_rfl, htop, hlow]; rfl
  · rw [show 7 = signedCode false 7 from rfl, signedCode_spec h le_rfl, htop]; rfl
  · obtain ⟨hm, hnear⟩ := nearMag_spec h ⟨(q.m.natAbs : Int), q.e⟩
    rw [dyQ_abs] at hnear
    generalize nearMag ty ⟨(q.m.natAbs : Int), q.e⟩ = m at hm hnear
    have hs : dyQ (codeVal ty (signedCode (decide (q.m < 0)) m)) = signedQ (decide (q.m < 0)) (magQ ty m) :=
      signedCode_spec h hm _
    have hpar : m % 2 = 0 → signedCode (decide (q.m < 0)) m % 2 = 0 := fun h => by
      simp only [signedCode]; split
      · rfl
      · split <;> omega
    refine ⟨?_, fun hz => ?_, fun c _ => ?_⟩
    · rw [hbits]; simp only [signedCode]
      split
      · decide
      · split <;> omega
    · have hm0 : m = 0 := by
        by_contra h0
        have := magQ_pos h hm h0
        rw [hs] at hz
        have := abs_signedQ (decide (q.m < 0)) (magQ ty m)
        rw [hz, abs_zero, abs_of_pos (magQ_pos h hm h0)] at this
        linarith
      rw [hm0]; rfl
    · have hmag : 0 ≤ magQ ty (c % 8) := by
        rcases Nat.eq_zero_or_pos (c % 8) with h0 | h0
        · rw [h0, magQ_zero h]
        · exact (magQ_pos h (by omega) h0.ne').le
      have hmag' : 0 ≤ magQ ty m := by
        rcases Nat.eq_zero_or_pos m with h0 | h0
        · rw [h0, magQ_zero h]
        · exact (magQ_pos h hm h0.ne').le
      obtain ⟨hd, -, -⟩ := abs_signedQ_dist (decide (q.m < 0)) true hmag' (abs_nonneg (dyQ q))
      obtain ⟨-, hc, hopp⟩ := abs_signedQ_dist (decide (q.m < 0)) (bitAt c 3) hmag (abs_nonneg (dyQ q))
      obtain ⟨hle, htie⟩ := hnear (c % 8) (by omega)
      rw [hs, codeVal_signed h, dyQ_signed_abs q, hd]
      refine ⟨hle.trans hc, fun he hne => hpar ?_⟩
      by_cases hcm : c % 8 = m
      · rw [hcm] at hne hopp he
        have hx := he.trans (hopp fun k => hne (by rw [k]))
        obtain ⟨h0, -⟩ := hnear 0 (by omega)
        rw [magQ_zero h, sub_zero, abs_abs] at h0
        have hz : magQ ty m = 0 := by linarith
        by_contra hodd
        exact absurd hz (magQ_pos h hm (by omega)).ne'
      · exact htie (le_antisymm hle (hc.trans he.ge)) hcm

/-- The model encodes a value in every format (03 R93). -/
theorem encodeNarrow_encodes {fmt : Nat} (h : fmt < 6) (q : Dy) : Encodes fmt (dyQ q) (encodeNarrow fmt q) := by
  interval_cases fmt
  · exact encodeNarrow_uni q
  · exact encodeNarrow_signed (.inl rfl) q
  · exact encodeNarrow_signed (.inr (.inl rfl)) q
  · exact encodeNarrow_signed (.inr (.inr rfl)) q
  · exact encodeNarrow_a8 q
  · exact encodeNarrow_nw8 q

end Sys2Proof.Machine
end

section
/-! SUPPORT. Blocks of narrow codes: their bytes, a block encoded at a scale byte, and the scale byte of a block (03 R84 to R93,
04 R119, 05 R149). -/

namespace Sys2Proof.Machine

/-! ### A block's bytes (03 R86) -/

/-- Code `i` of a block written as bytes. -/
def codeOf (f4 : Bool) (bytes : List Nat) (i : Nat) : Nat :=
  if f4 then bytes.getD (i / 2) 0 / 16 ^ (i % 2) % 16 else bytes.getD i 0

theorem packBlock_length (f4 : Bool) (codes : List Nat) (sb : Nat) :
    (packBlock f4 codes sb).length = (if f4 then 16 else 32) + 1 := by
  cases f4 <;> simp [packBlock]

theorem packBlock_scale (f4 : Bool) (codes : List Nat) (sb : Nat) :
    (packBlock f4 codes sb).getD (if f4 then 16 else 32) 0 = sb := by
  cases f4 <;> simp [packBlock]

theorem packBlock_byte (f4 : Bool) (codes : List Nat) (sb : Nat) {i : Nat} (hi : i < if f4 then 16 else 32) :
    (packBlock f4 codes sb).getD i 0 =
      if f4 then codes.getD (2 * i) 0 + 16 * codes.getD (2 * i + 1) 0 else codes.getD i 0 := by
  cases f4
  · rw [packBlock, if_neg Bool.false_ne_true, List.getD_append _ _ _ _ (by simpa using hi), getD_map_range _ _ (by simpa using hi)]
    rfl
  · rw [packBlock, if_pos rfl, List.getD_append _ _ _ _ (by simpa using hi), getD_map_range _ _ (by simpa using hi)]
    rfl

/-- The codes of a block are read back from its bytes. -/
theorem codeOf_packBlock (f4 : Bool) (codes : List Nat) (sb : Nat) (hc : ∀ c ∈ codes, c < if f4 then 16 else 256) {i : Nat}
    (hi : i < 32) : codeOf f4 (packBlock f4 codes sb) i = codes.getD i 0 := by
  cases f4
  · exact packBlock_byte false codes sb hi
  · have hlt : ∀ k, codes.getD k 0 < 16 := fun k => by
      rcases Nat.lt_or_ge k codes.length with h | h
      · rw [List.getD_eq_getElem _ _ h]; exact hc _ (List.getElem_mem h)
      · rw [List.getD_eq_default _ _ h]; decide
    have hb := packBlock_byte true codes sb (i := i / 2) (by simp only [if_true]; omega)
    simp only [if_true] at hb
    have h0 := hlt (2 * (i / 2))
    rcases Nat.mod_two_eq_zero_or_one i with h | h
    · rw [codeOf, if_pos rfl, hb, h, pow_zero, Nat.div_one, Nat.add_mul_mod_self_left, Nat.mod_eq_of_lt h0]
      congr 1; omega
    · rw [codeOf, if_pos rfl, hb, h, pow_one, show 2 * (i / 2) + 1 = i by omega]
      have := hlt i
      omega

theorem nanBlock_eq (f4 : Bool) : nanBlock f4 = List.replicate (if f4 then 16 else 32) 0 ++ [0xFF] := by
  cases f4 <;> decide

/-! ### A block encoded at a scale byte (05 R149) -/

theorem any_not_num {vs : List FVal} : vs.any (fun v => v.isNan || v.isInf) = true ↔ ∃ v ∈ vs, ¬v.num := by
  simp only [List.any_eq_true, FVal.num, Bool.or_eq_true, not_and_or, Bool.not_eq_false]

/-- A value divided by the scale of a scale byte. -/
theorem dyQ_scaled (v : FVal) (sb : Nat) :
    dyQ ⟨v.dy.m, v.dy.e - (sb % 64 : Nat) + 32⟩ = v.q / (2 : ℚ) ^ ((sb % 64 : Nat) - 32 : Int) := by
  rw [show v.dy.e - ((sb % 64 : Nat) : Int) + 32 = v.dy.e + -((sb % 64 : Nat) - 32 : Int) by ring, dyQ_shift, zpow_neg]
  rfl

/-- The codes of a block of values at a scale byte, with whether they saturated. -/
def encodings (t : Ty) (fmt sb : Nat) (xs : List Nat) : List (Nat × Bool) :=
  xs.map fun x => encodeNarrow fmt
    ⟨(unpack (fmtOf t) x).dy.m, (unpack (fmtOf t) x).dy.e - (sb % 64 : Nat) + 32⟩

theorem encodings_getD {t : Ty} {fmt sb : Nat} {xs : List Nat} (hf : fmt < 6) {i : Nat} (hi : i < xs.length) :
    Encodes fmt ((unpack (fmtOf t) (xs.getD i 0)).q / (2 : ℚ) ^ ((sb % 64 : Nat) - 32 : Int))
      ((encodings t fmt sb xs).getD i (0, false)) := by
  rw [← dyQ_scaled, List.getD_eq_getElem xs _ hi, List.getD_eq_getElem _ _ (by simpa [encodings] using hi)]
  simp only [encodings, List.getElem_map]
  exact encodeNarrow_encodes hf _

theorem quantBlock_nan {t : Ty} {fmt sb : Nat} {xs : List Nat} (h : sb = 0xFF ∨ ∃ x ∈ xs, ¬(unpack (fmtOf t) x).num) :
    quantBlock t fmt sb xs = (List.replicate (if fmt < 4 then 16 else 32) 0 ++ [0xFF],
      if ∃ x ∈ xs, (unpack (fmtOf t) x).isSnan = true ∨ (unpack (fmtOf t) x).isInf = true then fNV else 0) := by
  have hc : sb = 0xFF ∨ (xs.map (unpack (fmtOf t))).any (fun v => v.isNan || v.isInf) = true := by
    rw [any_not_num]; simpa using h
  rw [quantBlock, if_pos hc, nanBlock_eq]
  simp

theorem quantBlock_codes {t : Ty} {fmt sb : Nat} {xs : List Nat} (hsb : sb ≠ 0xFF)
    (h : ∀ x ∈ xs, (unpack (fmtOf t) x).num) :
    quantBlock t fmt sb xs = (packBlock (decide (fmt < 4)) ((encodings t fmt sb xs).map Prod.fst) sb,
      if (encodings t fmt sb xs).any Prod.snd then fSAT else 0) := by
  have hc : ¬(sb = 0xFF ∨ (xs.map (unpack (fmtOf t))).any (fun v => v.isNan || v.isInf) = true) := by
    rw [any_not_num]
    rintro (h1 | ⟨v, hv, hn⟩)
    · exact hsb h1
    · obtain ⟨x, hx, rfl⟩ := List.mem_map.1 hv
      exact hn (h x hx)
  rw [quantBlock, if_neg hc]
  simp only [encodings, List.map_map]
  rfl

/-! ### The scale byte of a block (04 R119) -/

/-- The largest value of a format that the scale byte makes room for. -/
def scaleTop (fmt : Nat) : Dy := match fmt with
  | 0 => ⟨15, -1⟩ | 1 => ⟨6, 0⟩ | 2 => ⟨8, 0⟩ | 3 => ⟨12, 0⟩ | 4 => ⟨127, 0⟩ | _ => ⟨255, -5⟩

theorem scaleTop_eq {fmt : Nat} (h : fmt < 6) :
    dyQ (scaleTop fmt) = ([15 / 2, 6, 8, 12, 127, 255 / 32] : List ℚ).getD fmt 0 := by
  interval_cases fmt <;> norm_num [scaleTop, dyQ]

/-- The larger of two magnitudes. -/
def largerMag (b : Dy) (v : FVal) : Dy :=
  if Dy.lt b ⟨(v.dy.m.natAbs : Int), v.dy.e⟩ then ⟨(v.dy.m.natAbs : Int), v.dy.e⟩ else b

theorem foldl_largerMag_le {vs : List FVal} {b : Dy} {B : ℚ} :
    dyQ (vs.foldl largerMag b) ≤ B ↔ dyQ b ≤ B ∧ ∀ v ∈ vs, |v.q| ≤ B := by
  induction vs generalizing b with
  | nil => simp
  | cons v vs ih =>
    rw [List.foldl_cons, ih, largerMag, List.forall_mem_cons, ← and_assoc]
    refine and_congr_left fun _ => ?_
    have hv : dyQ ⟨(v.dy.m.natAbs : Int), v.dy.e⟩ = |v.q| := dyQ_abs v.dy
    split
    · next h =>
      rw [Dy.lt_iff, hv] at h
      rw [hv]
      exact ⟨fun k => ⟨h.le.trans k, k⟩, fun k => k.2⟩
    · next h =>
      rw [Dy.lt_iff, hv, not_lt] at h
      exact ⟨fun k => ⟨k, h.trans k⟩, fun k => k.1⟩

/-- The least scale exponent at which a largest magnitude fits. -/
def leastScale (fmt : Nat) (big : Dy) : Nat :=
  ((List.range (if fmt = 3 then 62 else 63)).find? fun (e : Nat) =>
    Dy.le big ⟨(scaleTop fmt).m, (scaleTop fmt).e + (e : Int) - 32⟩).getD (if fmt = 3 then 62 else 63)

theorem blockScale_eq (t : Ty) (fmt : Nat) (xs : List Nat) : blockScale t fmt xs =
    if (xs.map (unpack (fmtOf t))).any (fun v => v.isNan || v.isInf) = true then 0xFF
    else (if fmt < 4 then fmt else 0) * 64 + leastScale fmt ((xs.map (unpack (fmtOf t))).foldl largerMag Dy.zero) := rfl

theorem leastScale_cases (fmt : Nat) (big : Dy) :
    let le := fun (e : Nat) => Dy.le big ⟨(scaleTop fmt).m, (scaleTop fmt).e + (e : Int) - 32⟩
    let emax := if fmt = 3 then 62 else 63
    leastScale fmt big ≤ emax ∧ (le (leastScale fmt big) = true ∨ leastScale fmt big = emax) ∧
      ∀ k, k < leastScale fmt big → ¬le k = true := by
  intro le emax
  cases hfind : (List.range emax).find? le with
  | none =>
    have hl : leastScale fmt big = emax := congrArg (Option.getD · emax) hfind
    rw [hl]
    exact ⟨le_rfl, .inr rfl, fun k hk => List.find?_eq_none.1 hfind k (List.mem_range.2 hk)⟩
  | some e =>
    have hl : leastScale fmt big = e := congrArg (Option.getD · emax) hfind
    obtain ⟨he, hmem, hlt⟩ := List.find?_range_eq_some.1 hfind
    rw [hl]
    exact ⟨(List.mem_range.1 hmem).le, .inl he, fun k hk => by simpa using hlt k hk⟩

theorem blockScale_nan {t : Ty} {fmt : Nat} {xs : List Nat} (h : ∃ x ∈ xs, ¬(unpack (fmtOf t) x).num) :
    blockScale t fmt xs = 0xFF := by
  have hc : (xs.map (unpack (fmtOf t))).any (fun v => v.isNan || v.isInf) = true := by
    rw [any_not_num]; simpa using h
  rw [blockScale_eq, if_pos hc]

/-- The scale exponent is the least at which the block fits. -/
theorem blockScale_least {t : Ty} {fmt : Nat} {xs : List Nat} (hf : fmt < 6) (h : ∀ x ∈ xs, (unpack (fmtOf t) x).num) :
    let fits := fun (e : Nat) => ∀ x ∈ xs, |(unpack (fmtOf t) x).q| ≤
      ([15 / 2, 6, 8, 12, 127, 255 / 32] : List ℚ).getD fmt 0 * (2 : ℚ) ^ ((e : Int) - 32)
    let emax := if fmt = 3 then 62 else 63
    ∃ e, e ≤ emax ∧ blockScale t fmt xs = (if fmt < 4 then fmt else 0) * 64 + e ∧ (fits e ∨ e = emax) ∧
      ∀ k, k < e → ¬fits k := by
  intro fits emax
  have hc : ¬(xs.map (unpack (fmtOf t))).any (fun v => v.isNan || v.isInf) = true := by
    rw [any_not_num]
    rintro ⟨v, hv, hn⟩
    obtain ⟨x, hx, rfl⟩ := List.mem_map.1 hv
    exact hn (h x hx)
  obtain ⟨hle, hfit, hleast⟩ := leastScale_cases fmt ((xs.map (unpack (fmtOf t))).foldl largerMag Dy.zero)
  have hfits : ∀ e : Nat, Dy.le ((xs.map (unpack (fmtOf t))).foldl largerMag Dy.zero)
      ⟨(scaleTop fmt).m, (scaleTop fmt).e + (e : Int) - 32⟩ = true ↔ fits e := fun e => by
    have hpos : 0 ≤ dyQ (scaleTop fmt) * (2 : ℚ) ^ ((e : Int) - 32) :=
      mul_nonneg (by rw [scaleTop_eq hf]; interval_cases fmt <;> norm_num) (by positivity)
    rw [Dy.le_iff, foldl_largerMag_le, add_sub_assoc, dyQ_shift, dyQ_zero, and_iff_right hpos, List.forall_mem_map, scaleTop_eq hf]
  exact ⟨_, hle, by rw [blockScale_eq, if_neg hc], hfit.imp_left (hfits _).1, fun k hk h => hleast k hk ((hfits k).2 h)⟩

theorem blockScale_lt (t : Ty) (fmt : Nat) (xs : List Nat) : blockScale t fmt xs < 256 := by
  obtain ⟨hle, -, -⟩ := leastScale_cases fmt ((xs.map (unpack (fmtOf t))).foldl largerMag Dy.zero)
  rw [blockScale_eq]
  split
  · decide
  · split at hle <;> split <;> omega

end Sys2Proof.Machine
end

section
/-! O16: RMXA .blk, the bypass of its scale bytes, and QBLK. -/

namespace Sys2Proof.Machine

/-! ### The destination that an op accepts (02 R44) -/

theorem okIn_dst {i : Instr} {o : SlotOp} {sh : OpShape} {q : StreamName} (hok : i.okIn q = true)
    (hs : i.shape = some (o, sh)) : dstOk q sh.dst o.dst = true := by
  rw [Instr.okIn, hs] at hok
  simp only [slotOk, Bool.and_eq_true] at hok
  obtain ⟨-, ⟨⟨⟨⟨⟨⟨⟨⟨-, hd⟩, -⟩, -⟩, -⟩, -⟩, -⟩, -⟩, -⟩⟩ := hok
  exact hd

/-! ### The stages of the bypass at retirement (05 R147, R148) -/

/-- The stages of the scale bypass. -/
def Core.bypass (c : Core) : Option Scales × Option Scales × Option Scales := (c.stage1, c.stage2, c.stage3)

theorem bypass_popQueue (c : Core) (q : QName) : (popQueue c q).bypass = c.bypass := by cases q <;> rfl

theorem bypass_pushTok (q : StreamName) (left : Bool) (c : Core) : (pushTok q left c).bypass = c.bypass := by
  cases q <;> cases left <;> rfl

theorem bypass_takeTokens (q : StreamName) (b : Bundle) (c : Core) : (takeTokens q b c).bypass = c.bypass := by
  have hpop : ∀ left c, (popTok q left c).bypass = c.bypass := fun left c => by cases q <;> cases left <;> rfl
  unfold takeTokens
  simp only [apply_ite Core.bypass, hpop, ite_self]

theorem bypass_renewX (l : List (RegName × Nat)) (c : Core) : (renewX l c).bypass = c.bypass := rfl

theorem bypass_retireCore (b : Bundle) (s : State) (c : Core) : (retireCore b s c).bypass =
    if s.cur.stream = .x ∧ !s.srcStrm.handler.isSome then (s.bnd.scales, c.stage1, c.stage2) else c.bypass := by
  have hshift : ∀ c : Core, (shiftScales s.bnd.scales c).bypass = (s.bnd.scales, c.bypass.1, c.bypass.2.1) := fun _ => rfl
  simp only [retireCore, apply_ite Core.bypass, hshift, bypass_pushTok, bypass_renewX, bypass_takeTokens, bypass_popQueue,
    ite_self]
  rfl

theorem bypass_modStrm (s : State) (f : Stream → Stream) : (s.modStrm f).core.bypass = s.core.bypass := by
  unfold State.core State.modStrm
  rw [core_modStrm_same]
  cases s.cur.stream <;> rfl

theorem bypass_retire (b : Bundle) (s : State) : (retire b s).core.bypass =
    if s.cur.stream = .x ∧ !s.srcStrm.handler.isSome then (s.bnd.scales, s.core.stage1, s.core.stage2)
    else s.core.bypass := by
  rw [← bypass_retireCore b s s.core, ← State.core_modCore s (retireCore b s)]
  exact bypass_modStrm (s.modCore (retireCore b s)) _

/-! ### What the push of a queue may stop with (15 R352) -/

/-- A stop of an access that no cause of rank 1 or 2 is. -/
def AccStop.late : AccStop → Prop
  | .fault c .. => c ≠ 0x01 ∧ c ≠ 0x11 ∧ c ≠ 0x12
  | _ => True

theorem physCheck_late {m : Module} {c : Fin 64} {pa code sub : Nat} (h : physCheck m c pa = some (code, sub)) :
    code = 5 ∨ code = 7 := by
  unfold physCheck at h
  split at h
  · split at h
    · cases h; exact .inl rfl
    · split at h
      · cases h; exact .inr rfl
      · split at h
        · cases h; exact .inr rfl
        · cases h
  · split at h
    · cases h
    · cases h; exact .inl rfl

/-- An access that stops with a fault of a code. -/
theorem stops_five_or_seven {α : Type} {code : Nat} (sub addr : Nat) (l : Option Nat) (h : code = 5 ∨ code = 7) :
    Gives AccStop.late (fun _ : α => True) (.error (.fault code sub addr l)) := by
  simp only [Gives, AccStop.late]
  omega

theorem stops_xlate {α : Type} (cause addr : Nat) : Gives AccStop.late (fun _ : α => True) (.error (xlate cause addr)) :=
  stops_five_or_seven _ _ _ (.inl rfl)

theorem readEntry_late (m : Module) (t : Memory) (c : Fin 64) (addr pa : Nat) :
    Gives AccStop.late (fun _ => True) (readEntry m t c addr pa) := by
  unfold readEntry
  split
  · next h => exact stops_five_or_seven _ _ _ (physCheck_late h)
  · split
    · simp [Gives, AccStop.late]
    · trivial

theorem walkFrom_late (m : Module) (t : Memory) (c : Fin 64) (addr l base : Nat) :
    Gives AccStop.late (fun _ => True) (walkFrom m t c addr l base) := by
  induction l generalizing base with
  | zero => exact stops_xlate ..
  | succ l ih =>
    unfold walkFrom
    dsimp only
    split
    · next h => exact (readEntry_late ..).error h
    · refine if_keeps (stops_xlate ..) (if_keeps (if_keeps (stops_xlate ..) (if_keeps (stops_xlate ..) (ih _))) ?_)
      refine if_keeps (stops_xlate ..) (if_keeps (stops_xlate ..) ?_)
      split
      · next h => exact (readEntry_late ..).error h
      · exact if_keeps (stops_xlate ..) (if_keeps (stops_xlate ..) (if_keeps trivial trivial))

theorem mapping_late (m : Module) (c : Fin 64) (addr : Nat) : Gives AccStop.late (fun _ => True) (mapping m c addr) := by
  unfold mapping
  split
  · exact walkFrom_late ..
  · exact walkFrom_late ..
  · exact walkFrom_late ..

theorem entryAccess_late (m : Module) (c : Fin 64) (k : AccKind) (addr e s : Nat) :
    Gives AccStop.late (fun _ => True) (entryAccess m c k addr e s) := by
  unfold entryAccess
  dsimp only
  refine if_keeps (stops_xlate ..) (if_keeps (stops_xlate ..) ?_)
  split
  · exact stops_xlate ..
  · refine if_keeps trivial ?_
    split
    · next h => exact stops_five_or_seven _ _ _ (physCheck_late h)
    · trivial

theorem translate_late (m : Module) (p : Option XPlace) (c : Fin 64) (k : AccKind) (addr : Nat) :
    Gives AccStop.late (fun _ => True) (translate m p c k addr) := by
  unfold translate
  split
  · split
    · next h => exact (entryAccess_late ..).error h
    · trivial
  · split
    · next h => exact (mapping_late ..).error h
    · split
      · next h => exact (entryAccess_late ..).error h
      · trivial

theorem devLocs_late (pl : Option XPlace) (ctx : Fin 64) (k : AccKind) (ps : List (Nat × Nat)) (m : Module) :
    Gives AccStop.late (fun _ => True) (devLocs m pl ctx k ps) := by
  induction ps generalizing m with
  | nil => trivial
  | cons p ps ih =>
    unfold devLocs
    split
    · next h => exact (translate_late ..).error h
    · split
      · next h => exact (ih _).error h
      · trivial

theorem storeDev_late (m : Module) (pl : Option XPlace) (ctx : Fin 64) (a : Nat) (bs : List Byte) :
    Gives AccStop.late (fun _ => True) (storeDev m none pl ctx a bs) := by
  unfold storeDev
  split
  · next h => exact (devLocs_late ..).error h
  · exact if_keeps trivial trivial

/-- A stop that names no cause ahead of ILLEGAL at a place. -/
def Stop.afterIllegal (place : Nat) (p : Stop) : Prop :=
  ∀ u, p.cause = some u → ¬trapBefore u { code := 1, place := place } = true

theorem afterIllegal_of_rank {place : Nat} {u : Trap} (h : 2 < trapRank u) :
    ¬trapBefore u { code := 1, place := place } = true := by
  have h1 : trapRank { code := 1, place := place } = 2 := rfl
  simp only [trapBefore, h1, Bool.or_eq_true, Bool.and_eq_true, decide_eq_true_eq]
  omega

theorem trapRank_of_late {t : Trap} (h : t.code ≠ 0x01 ∧ t.code ≠ 0x11 ∧ t.code ≠ 0x12) : 2 < trapRank t := by
  obtain ⟨h1, h2, h3⟩ := h
  unfold trapRank
  split <;> simp_all

theorem trapAt_illegal_after {α : Type} (place : Nat) :
    Gives (Stop.afterIllegal place) (fun _ => True) (trapAt place 1 : Except Stop α) := by
  intro u hu
  cases hu
  simp [trapBefore]

theorem trapAt_quota_after {α : Type} (place : Nat) :
    Gives (Stop.afterIllegal place) (fun _ => True) (trapAt place 9 : Except Stop α) := by
  intro u hu
  cases hu
  exact afterIllegal_of_rank (show 2 < 6 by decide)

theorem waiting_after {place : Nat} (s : State) : Gives (Stop.afterIllegal place) (fun _ => True) (waiting s : Res) := by
  intro u hu
  cases hu

theorem accStop_after {α : Type} {place : Nat} (s : State) {e : AccStop} (h : e.late) :
    Gives (Stop.afterIllegal place) (fun _ => True) (accStop s place e : Except Stop α) := by
  cases e with
  | fault c sub a l => intro u hu; cases hu; exact afterIllegal_of_rank (trapRank_of_late h)
  | race a line t w => intro u hu; cases hu; exact afterIllegal_of_rank (show 2 < 7 by decide)
  | quota a => intro u hu; cases hu; exact afterIllegal_of_rank (show 2 < 6 by decide)
  | busy => intro u hu; cases hu
  | tier a => intro u hu; cases hu; exact afterIllegal_of_rank (show 2 < 5 by decide)

/-- The push of a queue stops with no cause that comes before ILLEGAL at its place. -/
theorem pushQueue_after (place : Nat) (q : QName) (e : QEntry) (s : State) :
    Gives (Stop.afterIllegal place) (fun _ => True) (pushQueue place q e s) := by
  unfold pushQueue
  refine if_keeps trivial ?_
  dsimp only
  have hfull : ∀ b : Bool, Gives (Stop.afterIllegal place) (fun _ : State => True)
      (if b then trapAt place 1 else waiting s) := fun _ => if_keeps (trapAt_illegal_after _) (waiting_after _)
  split
  · exact hfull _
  · refine if_keeps (hfull _) ?_
    split
    · next h => exact accStop_after s ((storeDev_late ..).error h)
    · exact if_keeps (trapAt_quota_after _) trivial

/-- ILLEGAL of a slot op at its own place is raised, whatever its push meets. -/
theorem slot_illegal (i : Instr) (s : State) : ∃ t x, slot i s (trapAt (placeCode i.place) 1) = .next t ∧
    t.verdict = .trapped x ∧ x.code = 1 ∧ x.place = placeCode i.place := by
  have hsame : slot i s (trapAt (placeCode i.place) 1) = finish s (withSrcs i s (trapAt (placeCode i.place) 1)) := by
    unfold slot
    cases (slotCode i).bind fun c => dstQueue c.2.dst with
    | none => rfl
    | some q =>
      have hpush := pushQueue_after (placeCode i.place) q { size := 0, data := 0 } s
      dsimp only
      generalize pushQueue (placeCode i.place) q { size := 0, data := 0 } s = r at hpush
      cases r with
      | ok _ => rfl
      | error p =>
        cases hp : p.cause with
        | none =>
          have hfirst : firstCause (trapAt (placeCode i.place) 1) (.error p) = trapAt (placeCode i.place) 1 := by
            simp [trapAt, firstCause, hp]
          rw [hfirst]
        | some u =>
          have hfirst : firstCause (trapAt (placeCode i.place) 1) (.error p) = trapAt (placeCode i.place) 1 := by
            unfold trapAt firstCause
            dsimp only
            rw [hp]
            exact if_neg (hpush u hp)
          rw [hfirst]
  rw [hsame]
  exact ⟨_, _, rfl, rfl, rfl, rfl⟩

end Sys2Proof.Machine
end

section
/-! O16: RMXA .blk, the shift of the bypass, and QBLK. -/

namespace Sys2Proof.Machine

/-! ### RMXA .blk (04 R119, 05 R147) -/

section
variable {s u : State} {o : SlotOp} {a : Val} {fmt : W32}

/-- The scale byte of block `b` of a source tile. -/
def blockScaleAt (o : SlotOp) (fmt : W32) (a : Val) (b : Nat) : Nat :=
  blockScale o.ty fmt.toNat ((List.range 32).map fun j => a.elem o.ty (32 * b + j))

/-- The state in which the scale bytes of a source stand in the bypass. -/
def withScales (s : State) (o : SlotOp) (fmt : W32) (a : Val) (u : State) : State :=
  { u with bnd := { u.bnd with scales := some ⟨fmt.toNat,
    ((List.range (elemsOf s / 32)).map (blockScaleAt o fmt a)).map (BitVec.ofNat 8)⟩ } }

theorem exec_rmxaBlk (hb : o.b = .lit fmt) (hbig : tooBig s o.ty = false) (hcol : colsOf s = 32 ∨ colsOf s = 64)
    (hf : fetch s 4 o.ty o.a = .ok (a, u)) :
    exec (.rmxaBlk o) s = slot (.rmxaBlk o) s (writeTile 4 .n8 o.dst allTrue
      ((List.range (elemsOf s / 32)).map (blockScaleAt o fmt a)) (withScales s o fmt a u)) := by
  have hshape : elemsOf u = elemsOf s := by rw [fetch_frame hf]; rfl
  have hcol' : (!(colsOf s == 32 || colsOf s == 64)) = false := by rcases hcol with h | h <;> simp [h]
  have hexec : exec (.rmxaBlk o) s = execRmxaBlk o s := rfl
  rw [hexec, execRmxaBlk, hbig, hcol', hf, hb]
  simp only [bind, Except.bind, Bool.or_false, Bool.false_eq_true, if_false, hshape]
  rfl

theorem scales_withScales : ((withScales s o fmt a u).bnd.scales.map fun x => (x.format, x.sbs.map BitVec.toNat)) =
    some (fmt.toNat, (List.range (elemsOf s / 32)).map (blockScaleAt o fmt a)) := by
  have hb : ∀ b, BitVec.toNat (BitVec.ofNat 8 (blockScaleAt o fmt a b)) = blockScaleAt o fmt a b := fun b => by
    exact Nat.mod_eq_of_lt (blockScale_lt ..)
  simp only [withScales, Option.map_some, List.map_map, Function.comp_def, hb]

/-- RMXA .blk leaves its scale bytes in the bypass, and in a tile destination where it has one. -/
theorem rmxaBlk_writes (hgo : s.verdict = .go) (hok : (Instr.rmxaBlk o).okIn .x = true)
    (hb : o.b = .lit fmt) (hbig : tooBig s o.ty = false) (hcol : colsOf s = 32 ∨ colsOf s = 64)
    (hf : fetch s 4 o.ty o.a = .ok (a, u)) :
    ∃ t, Goes (.rmxaBlk o) s t ∧ OnlyCore s t ∧
      (t.bnd.scales.map fun x => (x.format, x.sbs.map BitVec.toNat)) =
        some (fmt.toNat, (List.range (elemsOf s / 32)).map (blockScaleAt o fmt a)) ∧
      (o.dst = .none → t.m = s.m) ∧
      (∀ d, o.dst = .v d →
        TileHolds 8 (elemsOf s / 32) (fun _ => true) (blockScaleAt o fmt a) (s.core.vreg d.val) (t.core.vreg d.val) ∧
        (∀ k, k ≠ d.val → t.core.vreg k = s.core.vreg k) ∧ t.core = { s.core with v := t.core.v }) := by
  have hexec := exec_rmxaBlk hb hbig hcol hf
  have hscales := scales_withScales (s := s) (u := u) (o := o) (a := a) (fmt := fmt)
  have hfr := fetch_frame hf
  generalize hw : withScales s o fmt a u = w at hexec hscales
  have hws : w = { s with bnd := w.bnd } := by rw [← hw, withScales, hfr]
  have hwm : w.m = s.m := by rw [hws]
  have hwc : w.core = s.core := by rw [hws]; rfl
  have hwgo : w.verdict = .go := by rw [hws]; exact hgo
  have honly : OnlyCore s w := by rw [hws]; exact ((OnlyStream.refl s).note _).toOnlyCore
  have hdst : (∃ d, o.dst = .v d) ∨ o.dst = .none := by
    have h := okIn_dst hok rfl
    cases hd : o.dst with
    | v d => exact .inl ⟨d, rfl⟩
    | none => exact .inr rfl
    | _ => rw [hd] at h; cases h
  have hn : elemsOf s / 32 ≤ 4096 := by
    have h1 := tyBytes_pos_of_mem (List.mem_append_right _ (okIn_types hok rfl))
    have h2 : elemsOf s * tyBytes o.ty ≤ 4096 := by simpa [tooBig] using hbig
    have h3 : elemsOf s * 1 ≤ elemsOf s * tyBytes o.ty := Nat.mul_le_mul_left _ h1
    omega
  rcases hdst with ⟨d, hd⟩ | hd
  · rw [hd] at hexec
    generalize hes : (List.range (elemsOf s / 32)).map (blockScaleAt o fmt a) = es at hexec
    have hlen : es.length = elemsOf s / 32 := by rw [← hes]; simp
    have hbits : tyBits .n8 * es.length ≤ 32768 := by rw [hlen, show tyBits .n8 = 8 from rfl]; omega
    generalize hnew : mergeTile (tyBits .n8) es.length (w.core.vreg d.val) allTrue es = new
    have hlt : new < 2 ^ 32768 := hnew ▸ mergeTile_lt (w.core.vreg_lt _) hbits
    have hv : writeTile 4 .n8 (.v d) allTrue es w = .ok (setV d new (elsOf (tyBits .n8) es.length allTrue) w) := by
      rw [writeTile, hnew]
    have hc := core_setV d new (elsOf (tyBits .n8) es.length allTrue) w
    have hvc : ∀ k, (setV d new (elsOf (tyBits .n8) es.length allTrue) w).core.vreg k =
        (Tbl.get 0 (Tbl.set 0 s.core.v d.val (BitVec.ofNat 32768 new)) k).toNat := fun k => by rw [hc, hwc]; rfl
    refine ⟨setV d new (elsOf (tyBits .n8) es.length allTrue) w, ⟨?_, ?_⟩, honly.trans (onlyCore_setV d _ _ w), hes ▸ hscales,
      fun h => (Dst.noConfusion (hd.symm.trans h)), fun k hk => ?_⟩
    · rw [hexec, hv, slot_ok]
    · rw [(onlyCore_setV d _ _ w).verdict]; exact hwgo
    · cases hd.symm.trans hk
      refine ⟨?_, fun k hk => ?_, by rw [hc, hwc]⟩
      · rw [hvc, Tbl.get_set_same, BitVec.toNat_ofNat, Nat.mod_eq_of_lt hlt, ← hnew, hwc, ← hlen]
        refine (mergeTile_holds ..).congr (fun e he => bitAt_allTrue (by omega)) fun e he => ?_
        rw [← hes, getD_map_range _ _ (by omega)]
      · rw [hvc, Tbl.get_set_ne _ _ _ hk]; rfl
  · rw [hd] at hexec
    refine ⟨w, ⟨hexec.trans (slot_ok ..), hwgo⟩, honly, hscales, fun _ => hwm, fun d h => ?_⟩
    exact Dst.noConfusion (hd.symm.trans h)

end

/-! ### QBLK (05 R147, R149) -/

section
variable {s u : State} {o : SlotOp} {a : Val}

theorem quantBlock_length (t : Ty) (fmt sb : Nat) (xs : List Nat) : (quantBlock t fmt sb xs).1.length = blockBytes fmt := by
  have hb : blockBytes fmt = (if decide (fmt < 4) then 16 else 32) + 1 := by
    unfold blockBytes; by_cases h : fmt < 4 <;> simp [h]
  rw [hb]
  unfold quantBlock
  dsimp only
  split <;> exact packBlock_length ..

/-- A step that writes bytes and adds flags, as one. -/
theorem writeBytes_bind_addFlags {o : SlotOp} {bs : List Nat} {fl : Flags} {u : State} :
    (do let s ← writeBytes o bs u; Except.ok (addFlags fl s) : Res) =
      (writeTile 5 .n8 o.dst allTrue bs u).map (addFlags fl) := writeTile_bind_addFlags

/-- A block op of slot 3 that writes all its bytes. -/
theorem writesBytes_of {i : Instr} {bs : List Nat} {fl : Flags} (hgo : s.verdict = .go) (hx : s.cur.stream = .x)
    (hu : u = { s with bnd := u.bnd }) (hfit : bs.length ≤ 4096)
    (he : exec i s = slot i s ((writeTile 5 .n8 o.dst allTrue bs u).map (addFlags fl))) :
    WritesElems s i o.dst .n8 bs.length (fun _ => true) (fun e => bs.getD e 0) fl :=
  (writesElems_of hgo hx hu (by rw [show tyBytes .n8 = 1 from rfl]; omega) he).all hfit

/-- QBLK's results, block by block. -/
def qblkResults (s : State) (o : SlotOp) (e : Scales) (a : Val) : List (List Nat × Flags) :=
  (List.range (elemsOf s / 32)).map fun b => quantBlock o.ty o.opx.val (e.sbs.getD b 0).toNat
    ((List.range 32).map fun j => a.elem o.ty (32 * b + j))

theorem exec_qblk {e : Scales} (hbig : tooBig s o.ty = false) (hshape : blockShape s (blockBytes o.opx.val) = true)
    (he : s.srcCore.stage3 = some e) (hfmt : e.format = o.opx.val) (hlen : e.sbs.length = elemsOf s / 32)
    (hf : fetch s 5 o.ty o.a = .ok (a, u)) :
    exec (.qblk o) s = slot (.qblk o) s ((writeTile 5 .n8 o.dst allTrue ((qblkResults s o e a).flatMap Prod.fst) u).map
      (addFlags (orFlags ((qblkResults s o e a).map Prod.snd)))) := by
  have hexec : exec (.qblk o) s = execQblk o s := rfl
  rw [hexec, execQblk, hbig, hshape, he, hf]
  simp only [hfmt, hlen, ne_eq, not_true_eq_false, or_self, if_false, Bool.not_true, Bool.or_self, Bool.false_eq_true,
    ← writeBytes_bind_addFlags]
  rfl

theorem qblk_illegal (h : ∀ e, s.srcCore.stage3 = some e → e.format ≠ o.opx.val ∨ e.sbs.length ≠ elemsOf s / 32) :
    ∃ t x, exec (.qblk o) s = .next t ∧ t.verdict = .trapped x ∧ x.code = 1 ∧ x.place = 5 := by
  have hexec : exec (.qblk o) s = slot (.qblk o) s (trapAt 5 1) := by
    have hx : exec (.qblk o) s = execQblk o s := rfl
    rw [hx, execQblk]
    congr 1
    dsimp only
    split
    · rfl
    cases he : s.srcCore.stage3 with
    | none => rfl
    | some e => exact if_pos (h e he)
  rw [hexec]
  exact slot_illegal (.qblk o) s

theorem qblk_writes {e : Scales} (hgo : s.verdict = .go) (hx : s.cur.stream = .x)
    (hbig : tooBig s o.ty = false) (hshape : blockShape s (blockBytes o.opx.val) = true)
    (he : s.srcCore.stage3 = some e) (hfmt : e.format = o.opx.val) (hlen : e.sbs.length = elemsOf s / 32)
    (hf : fetch s 5 o.ty o.a = .ok (a, u)) :
    WritesElems s (.qblk o) o.dst .n8 ((qblkResults s o e a).flatMap Prod.fst).length (fun _ => true)
      (fun i => ((qblkResults s o e a).flatMap Prod.fst).getD i 0) (orFlags ((qblkResults s o e a).map Prod.snd)) := by
  refine writesBytes_of hgo hx (fetch_frame hf) ?_ (exec_qblk hbig hshape he hfmt hlen hf)
  have hsum : ((qblkResults s o e a).flatMap Prod.fst).length = elemsOf s / 32 * blockBytes o.opx.val := by
    simp [qblkResults, List.length_flatMap, quantBlock_length, Function.comp_def]
  have hle : elemsOf s / 32 * blockBytes o.opx.val ≤ 4096 := by
    simp only [blockShape, Bool.and_eq_true, decide_eq_true_eq] at hshape
    exact hshape.2
  omega

end

/-! ### A block at a scale byte (05 R149) -/

/-- What QBLK makes of a block of 32 values. -/
theorem quantBlock_spec (t : Ty) (fmt sb : Nat) (xs : List Nat) (hf : fmt < 6) (hlen : xs.length = 32) :
    let v := fun (x : Nat) => unpack (fmtOf t) x
    let n := if fmt < 4 then 16 else 32
    let r := quantBlock t fmt sb xs
    let q := fun (i : Nat) => (v (xs.getD i 0)).q / (2 : ℚ) ^ ((sb % 64 : Nat) - 32 : Int)
    let code := fun (i : Nat) => if fmt < 4 then r.1.getD (i / 2) 0 / 16 ^ (i % 2) % 16 else r.1.getD i 0
    sb ≠ 0xFF → (∀ x ∈ xs, (v x).num) → r.1.length = n + 1 ∧ r.1.getD n 0 = sb ∧
      (r.2 = 0 ∨ r.2 = fSAT) ∧ (r.2 = fSAT ↔ ∃ i, i < 32 ∧ (q i < codeLow fmt ∨ codeHigh fmt < q i)) ∧
      ∀ i, i < 32 → ∃ sat, Encodes fmt (q i) (code i, sat) := by
  intro v n r q code hsb hnum
  have hr : r = _ := quantBlock_codes hsb hnum
  have henc : ∀ i, i < 32 → Encodes fmt (q i) ((encodings t fmt sb xs).getD i (0, false)) := fun i hi =>
    encodings_getD hf (by omega)
  have hlenE : (encodings t fmt sb xs).length = 32 := by simp [encodings, hlen]
  generalize encodings t fmt sb xs = es at hr henc hlenE
  have hn : n = if decide (fmt < 4) then 16 else 32 := by simp [n]
  have hlim : (if decide (fmt < 4) then 16 else 256) = 2 ^ codeBits fmt := by
    unfold codeBits; by_cases h : fmt < 4 <;> simp [h]
  have hget : ∀ i, i < 32 → (es.map Prod.fst).getD i 0 = (es.getD i (0, false)).1 := fun i hi => by
    rw [List.getD_eq_getElem _ _ (by simpa [hlenE] using hi), List.getD_eq_getElem _ _ (by omega), List.getElem_map]
  have hcode : ∀ i, i < 32 → code i = (es.getD i (0, false)).1 := fun i hi => by
    have hc := codeOf_packBlock (decide (fmt < 4)) (es.map Prod.fst) sb (i := i) (fun c hc => by
      obtain ⟨x, hx, rfl⟩ := List.mem_map.1 hc
      obtain ⟨k, hk, rfl⟩ := List.getElem_of_mem hx
      have h := (henc k (by omega)).bound
      rw [List.getD_eq_getElem _ _ hk] at h
      rw [hlim]; exact h) hi
    rw [hget i hi] at hc
    rw [← hc]
    simp only [code, codeOf, hr, decide_eq_true_eq]
  have hany : es.any Prod.snd = true ↔ ∃ i, i < 32 ∧ (q i < codeLow fmt ∨ codeHigh fmt < q i) := by
    rw [List.any_eq_true]
    constructor
    · rintro ⟨x, hx, hs⟩
      obtain ⟨k, hk, rfl⟩ := List.getElem_of_mem hx
      have h := (henc k (by omega)).sat
      rw [List.getD_eq_getElem _ _ hk] at h
      exact ⟨k, by omega, h.1 hs⟩
    · rintro ⟨i, hi, h⟩
      have h' := (henc i hi).sat.2 h
      rw [List.getD_eq_getElem _ _ (by omega)] at h'
      exact ⟨_, List.getElem_mem _, h'⟩
  refine ⟨?_, ?_, ?_, ?_, fun i hi => ⟨_, by rw [hcode i hi]; exact henc i hi⟩⟩
  · rw [hr, hn]; exact packBlock_length ..
  · rw [hr, hn]; exact packBlock_scale ..
  · rw [hr]; dsimp only; split
    · exact .inr rfl
    · exact .inl rfl
  · rw [hr, ← hany]; dsimp only
    split
    · next h => exact ⟨fun _ => h, fun _ => rfl⟩
    · next h => exact ⟨fun k => absurd k (by decide), fun k => absurd k h⟩

/-- Settles O16: RMXA .blk and QBLK op by op, the stages at retirement, and a block's scale and codes by the least exponent at
which it fits and the nearest code of each value. -/
theorem blockScalesTravelTheBypass : Obligations.BlockScalesTravelTheBypass := by
  unfold Obligations.BlockScalesTravelTheBypass
  refine ⟨?_, ?_, ?_, ?_, ?_⟩
  · intro s u o a fmt hgo hx hok hb hbig hcol hf
    exact rmxaBlk_writes hgo hok hb hbig hcol hf
  · intro s u o a hgo hx hok hbig hshape nb
    refine ⟨fun e he hfmt hlen hf => ?_, fun h => qblk_illegal h⟩
    have h := qblk_writes hgo hx hbig hshape he hfmt hlen hf
    simp only [qblkResults, List.flatMap_map, List.map_map] at h
    exact h
  · intro s b hx c
    have hby := bypass_retire b s
    refine ⟨fun hh => ?_, fun hh => ?_⟩
    · rw [if_pos ⟨hx, by rw [hh]; rfl⟩] at hby
      simp only [Core.bypass, Prod.mk.injEq] at hby
      obtain ⟨h1, h2, h3⟩ := hby
      exact ⟨h3, h2, h1⟩
    · rw [if_neg fun k => hh (by simpa using k.2)] at hby
      simp only [Core.bypass, Prod.mk.injEq] at hby
      obtain ⟨h1, h2, h3⟩ := hby
      exact ⟨h3, h2, h1⟩
  · intro t fmt xs _ hf
    exact ⟨blockScale_nan, blockScale_least hf⟩
  · intro t fmt sb xs _ hf _ hlen v n r lo hi q code val
    refine ⟨quantBlock_nan, fun hsb hnum => ?_⟩
    obtain ⟨h1, h2, h3, h4, henc⟩ := quantBlock_spec t fmt sb xs hf hlen hsb hnum
    refine ⟨h1, h2, h3, h4, fun i hi => ?_⟩
    obtain ⟨sat, hbound, -, hlow, hhigh, hzero, hnear⟩ := henc i hi
    exact ⟨hbound, hlow, hhigh, hzero, hnear⟩

end Sys2Proof.Machine
end

section
/-! SUPPORT. A quotient rounded once to a format, overflow included (02 R57, 03 R79, R81). -/

namespace Sys2Proof.Machine

/-! ### The formats (03 R78) -/

/-- A format with a sign, exponents and a fraction, as f32, bf16 and f16 are. -/
structure FFmt.Sane (f : FFmt) : Prop where
  fbits : 1 ≤ f.fbits
  ebits : 2 ≤ f.ebits
  place : f.fbits ≤ f.bias

theorem sane_of {f : FFmt} (h : f = .f32 ∨ f = .bf16 ∨ f = .f16) : f.Sane := by
  rcases h with rfl | rfl | rfl <;> exact ⟨by decide, by decide, by decide⟩

theorem inf_eq (f : FFmt) (neg : Bool) : f.inf neg = bitsOf f neg (2 ^ f.ebits - 1) 0 := by
  rw [← bitsOf_eq, FFmt.inf, Nat.add_zero]

section
variable {f : FFmt} (hs : f.Sane)
include hs

theorem FFmt.Sane.expTop : 2 ^ f.ebits - 1 = 2 * f.bias + 1 ∧ 1 ≤ f.bias := by
  obtain ⟨k, hk⟩ := Nat.exists_eq_add_of_le' hs.ebits
  have : 1 ≤ 2 ^ k := Nat.one_le_two_pow
  simp only [FFmt.bias, hk, pow_succ, show k + 2 - 1 = k + 1 by omega]
  omega

theorem FFmt.Sane.maxFin_eq (neg : Bool) : f.maxFin neg = bitsOf f neg (2 ^ f.ebits - 2) (2 ^ f.fbits - 1) := by
  obtain ⟨h1, h2⟩ := hs.expTop
  have h3 : 1 ≤ 2 ^ f.fbits := Nat.one_le_two_pow
  rw [← bitsOf_eq, FFmt.maxFin, FFmt.inf, show 2 ^ f.ebits - 1 = (2 ^ f.ebits - 2) + 1 by omega, Nat.add_mul]
  omega

/-- The largest number of a format. -/
theorem FFmt.Sane.maxFin_q : (unpack f (f.maxFin false)).q = ((2 ^ (f.fbits + 1) : Nat) - 1 : ℚ) * 2 ^ ((f.bias : Int) - f.fbits) := by
  obtain ⟨h1, h2⟩ := hs.expTop
  have h3 : 1 ≤ 2 ^ f.fbits := Nat.one_le_two_pow
  obtain ⟨-, -, hv⟩ := unpack_normal (f := f) (neg := false) (be := 2 ^ f.ebits - 2) (fr := 2 ^ f.fbits - 1)
    (by omega) (by omega) (by omega)
  rw [hs.maxFin_eq, FVal.q, hv, signedQ, if_neg Bool.false_ne_true]
  congr 1
  · rw [← Nat.add_sub_assoc h3, Nat.cast_sub (by omega), ← two_mul, pow_succ, mul_comm (2 ^ f.fbits)]; norm_num
  · congr 1; omega

end

/-- The sign bit of a pattern. -/
def signOf (f : FFmt) (w : Nat) : Bool := bitAt w (f.ebits + f.fbits)

theorem signOf_bitsOf {f : FFmt} {neg : Bool} {be fr : Nat} (hb : be < 2 ^ f.ebits) (hr : fr < 2 ^ f.fbits) :
    signOf f (bitsOf f neg be fr) = neg := (fields_bitsOf hb hr).2.2

/-! ### The pattern of rounded units -/

/-- What an overflow leaves (03 R81). -/
def overflowed (f : FFmt) (mode : Nat) (neg : Bool) : Nat :=
  if (match mode with
    | 0 => true
    | 1 => false
    | 2 => !neg
    | _ => neg) then f.inf neg else f.maxFin neg

theorem overflowed_eq {f : FFmt} {mode : Nat} (hm : mode < 4) (neg : Bool) :
    (toInfinity mode neg → overflowed f mode neg = f.inf neg) ∧ (¬toInfinity mode neg → overflowed f mode neg = f.maxFin neg) := by
  interval_cases mode <;> cases neg <;> simp [toInfinity, overflowed]

theorem signOf_overflowed {f : FFmt} (hs : f.Sane) (mode : Nat) (neg : Bool) : signOf f (overflowed f mode neg) = neg := by
  obtain ⟨h1, h2⟩ := hs.expTop
  have h3 : 1 ≤ 2 ^ f.fbits := Nat.one_le_two_pow
  unfold overflowed
  refine if_keeps (P := fun w => signOf f w = neg) ?_ ?_
  · rw [inf_eq]; exact signOf_bitsOf (by omega) (by omega)
  · rw [hs.maxFin_eq]; exact signOf_bitsOf (by omega) (by omega)

theorem two_zpow_le {a b : Int} : (2 : ℚ) ^ a ≤ 2 ^ b ↔ a ≤ b := zpow_le_zpow_iff_right₀ (by norm_num)
theorem two_zpow_lt {a b : Int} : (2 : ℚ) ^ a < 2 ^ b ↔ a < b := zpow_lt_zpow_iff_right₀ (by norm_num)

theorem natPow_mul_zpow (k : Nat) (q : Int) : ((2 ^ k : Nat) : ℚ) * 2 ^ q = 2 ^ ((k : Int) + q) := by
  rw [Nat.cast_pow, Nat.cast_ofNat, ← zpow_natCast, zpow_add₀ two_ne_zero]

/-- Units of a last place against a power of two. -/
theorem units_ge {U k : Nat} {q t : Int} (hU : 2 ^ k ≤ U) (ht : t ≤ k + q) : (2 : ℚ) ^ t ≤ U * 2 ^ q :=
  calc (2 : ℚ) ^ t ≤ 2 ^ ((k : Int) + q) := two_zpow_le.2 ht
    _ = (2 ^ k : Nat) * 2 ^ q := (natPow_mul_zpow k q).symm
    _ ≤ U * 2 ^ q := mul_le_mul_of_nonneg_right (by exact_mod_cast hU) (by positivity)

theorem units_lt {U k : Nat} {q t : Int} (hU : U < 2 ^ k) (ht : k + q ≤ t) : (U : ℚ) * 2 ^ q < 2 ^ t :=
  calc (U : ℚ) * 2 ^ q < (2 ^ k : Nat) * 2 ^ q := mul_lt_mul_of_pos_right (by exact_mod_cast hU) (by positivity)
    _ = 2 ^ ((k : Int) + q) := natPow_mul_zpow k q
    _ ≤ 2 ^ t := two_zpow_le.2 ht

/-- What packing makes of `U` rounded units of a last place: beyond the largest number they overflow, else the pattern holds
them, with the flags of an inexact and a tiny result. -/
def Packs (f : FFmt) (mode : Nat) (neg : Bool) (U : Nat) (q : Int) (exact : Prop) [Decidable exact] (r : Nat × Flags) : Prop :=
  ((2 : ℚ) ^ (f.bias + 1 : Int) ≤ U * 2 ^ q ∧ r = (overflowed f mode neg, fOF ||| fNX)) ∨
  ((U : ℚ) * 2 ^ q < (2 : ℚ) ^ (f.bias + 1 : Int) ∧ Holds f neg U q r.1 ∧ signOf f r.1 = neg ∧
    r.2 = if exact then 0 else if (U : ℚ) * 2 ^ q < (2 : ℚ) ^ f.emin then fUF ||| fNX else fNX)

/-- Whether a magnitude of a sign overflows in a mode (03 R81). -/
def OverflowsAt (f : FFmt) (mode : Nat) (neg : Bool) (x : ℚ) : Prop :=
  if mode = 0 then ((unpack f (f.maxFin false)).q + (2 : ℚ) ^ (f.bias + 1)) / 2 ≤ x
  else (toInfinity mode neg ∧ (unpack f (f.maxFin false)).q < x) ∨ (¬toInfinity mode neg ∧ (2 : ℚ) ^ (f.bias + 1) ≤ x)

section
variable {f : FFmt} {mode : Nat} {neg : Bool} {q : Int} {n d : Nat} (hs : f.Sane)
include hs

/-- Units with a digit in every place of the fraction are packed with an exponent field. -/
theorem packs_normal {U : Nat} (hq : f.emin - f.fbits ≤ q) (h1 : 2 ^ f.fbits ≤ U) (h2 : U < 2 ^ (f.fbits + 1)) :
    Packs f mode neg U q (n % d = 0)
      (if 2 ^ f.ebits - 1 ≤ (q + f.fbits + f.bias).toNat then (overflowed f mode neg, fOF ||| fNX)
      else (f.signBit neg + (q + f.fbits + f.bias).toNat * 2 ^ f.fbits + (U - 2 ^ f.fbits), if n % d = 0 then (0 : Flags) else fNX)) := by
  obtain ⟨htop, hbias⟩ := hs.expTop
  have hemin : f.emin = 1 - (f.bias : Int) := rfl
  by_cases h : 2 ^ f.ebits - 1 ≤ (q + f.fbits + f.bias).toNat
  · rw [if_pos h]
    exact .inl ⟨units_ge h1 (by omega), rfl⟩
  · rw [if_neg h]
    have hbig : (2 : ℚ) ^ f.emin ≤ U * 2 ^ q := units_ge h1 (by omega)
    refine .inr ⟨units_lt h2 (by push_cast; omega), holds_normal hs.fbits hq h1 h2 h, ?_, by rw [if_neg hbig.not_gt]⟩
    rw [bitsOf_eq]
    exact signOf_bitsOf (by omega) (by rw [pow_succ] at h2; omega)

theorem packUnits_packs (hd : 0 < d) (hq : f.emin - f.fbits ≤ q) (hn : n < 2 ^ (f.fbits + 1) * d)
    (hlow : q = f.emin - f.fbits ∨ 2 ^ f.fbits * d ≤ n) :
    Packs f mode neg (roundedUnits mode neg n d) q (n % d = 0) (packUnits f mode neg q n d) := by
  obtain ⟨htop, hbias⟩ := hs.expTop
  have he := hs.ebits
  have hr0 : n / d < 2 ^ (f.fbits + 1) := (Nat.div_lt_iff_lt_mul hd).2 hn
  obtain ⟨hlo, hhi⟩ := roundedUnits_bounds mode neg n d
  have hemin : f.emin = 1 - (f.bias : Int) := rfl
  generalize hU : roundedUnits mode neg n d = U at hlo hhi
  by_cases hc : 2 ^ (f.fbits + 1) ≤ U
  · have hU2 : U = 2 ^ f.fbits * 2 := by rw [← pow_succ]; omega
    have hp : packUnits f mode neg q n d = if 2 ^ f.ebits - 1 ≤ (q + 1 + f.fbits + f.bias).toNat then
        (overflowed f mode neg, fOF ||| fNX)
        else (f.signBit neg + (q + 1 + f.fbits + f.bias).toNat * 2 ^ f.fbits + (2 ^ f.fbits - 2 ^ f.fbits),
          if n % d = 0 then (0 : Flags) else fNX) := by
      have hhalf : U / 2 = 2 ^ f.fbits := by omega
      simp only [packUnits, hU, hc, decide_true, if_true, hhalf, lt_irrefl, if_false]
      rfl
    have hval : (U : ℚ) * 2 ^ q = (2 ^ f.fbits : Nat) * 2 ^ (q + 1) := by
      rw [hU2, zpow_add_one₀ two_ne_zero]; push_cast; ring
    have hcase := packs_normal (mode := mode) (neg := neg) (q := q + 1) (n := n) (d := d) hs (by omega) le_rfl
      (Nat.pow_lt_pow_right (by omega) (by omega))
    rw [← hp] at hcase
    unfold Packs at hcase ⊢
    rw [hval]
    refine hcase.imp_right fun ⟨h1, ⟨k1, k2, k3, k4, k5⟩, h3⟩ => ⟨h1, ⟨k1, k2, k3, by rw [k4, hval], ?_⟩, h3⟩
    obtain ⟨k, hk⟩ := Nat.exists_eq_add_of_le' hs.fbits
    rw [k5, hU2, hk, pow_succ]; omega
  · by_cases hr : U < 2 ^ f.fbits
    · have hqe : q = f.emin - f.fbits :=
        hlow.resolve_right fun h => by have := (Nat.le_div_iff_mul_le hd).2 h; omega
      have hp : packUnits f mode neg q n d = (f.signBit neg + U, if n % d = 0 then 0 else fUF ||| fNX) := by
        simp only [packUnits, hU, hc, decide_false, Bool.false_eq_true, if_false, hr, if_true]
      have hsmall : (U : ℚ) * 2 ^ q < 2 ^ f.emin := units_lt hr (by omega)
      have hsign : f.signBit neg + U = bitsOf f neg 0 U := by rw [← bitsOf_eq]; ring
      rw [hp]
      refine .inr ⟨hsmall.trans_le (two_zpow_le.2 (by omega)), ?_, ?_, by rw [if_pos hsmall]⟩
      · rw [hqe]; exact holds_low hs.fbits (by omega) hr
      · rw [hsign]; exact signOf_bitsOf (by positivity) hr
    · have hp : packUnits f mode neg q n d = if 2 ^ f.ebits - 1 ≤ (q + f.fbits + f.bias).toNat then
          (overflowed f mode neg, fOF ||| fNX)
          else (f.signBit neg + (q + f.fbits + f.bias).toNat * 2 ^ f.fbits + (U - 2 ^ f.fbits),
            if n % d = 0 then (0 : Flags) else fNX) := by
        simp only [packUnits, hU, hc, decide_false, Bool.false_eq_true, if_false, hr]
        rfl
      rw [hp]
      exact packs_normal hs hq (not_lt.1 hr) (not_le.1 hc)

/-! ### Overflow (03 R81) -/


omit hs in
/-- At the last place of the largest number: rounding reaches the units `T` beyond it. -/
theorem units_reach {T : Nat} (hm : mode < 4) (hd : 0 < d) (hT : 2 ∣ T) (hn : n < T * d) :
    T ≤ roundedUnits mode neg n d ↔
      if mode = 0 then ((T : ℚ) - 1 + T) / 2 ≤ n / d
      else (toInfinity mode neg ∧ (T : ℚ) - 1 < n / d) ∨ (¬toInfinity mode neg ∧ (T : ℚ) ≤ n / d) := by
  have hi : n / d < T := (Nat.div_lt_iff_lt_mul hd).2 hn
  have hV := quot_eq_parts (n := n) hd
  have hp1 := part_lt_one (n := n) hd
  have hp0 : (0 : ℚ) ≤ ((n % d : Nat) : ℚ) / d := by positivity
  have hlt : (n : ℚ) / d < T := by rw [div_lt_iff₀ (by exact_mod_cast hd)]; exact_mod_cast hn
  obtain ⟨hhalf, -⟩ := part_half (n := n) hd
  obtain ⟨r2t, r3f, r2f, r3t⟩ := roundedUnits_directed n d
  have hup : T ≤ (if n % d = 0 then n / d else n / d + 1) ↔ (T : ℚ) - 1 < n / d := by
    rw [hV, sub_lt_iff_lt_add]
    by_cases h0 : n % d = 0
    · rw [if_pos h0, h0, Nat.cast_zero, zero_div, add_zero]
      norm_cast; omega
    · have hpos : (0 : ℚ) < ((n % d : Nat) : ℚ) / d := by have := Nat.pos_of_ne_zero h0; positivity
      rw [if_neg h0]
      refine ⟨fun h => ?_, fun h => ?_⟩
      · have : (T : ℚ) ≤ (n / d : Nat) + 1 := by exact_mod_cast h
        linarith
      · have : (T : ℚ) < (n / d : Nat) + 2 := by linarith
        have : T < n / d + 2 := by exact_mod_cast this
        omega
  have hdown : ¬T ≤ n / d := by omega
  interval_cases mode
  · rw [if_pos rfl]
    have hround : T ≤ roundedUnits 0 neg n d ↔ n / d + 1 = T ∧ ¬2 * (n % d) < d := by
      simp only [roundedUnits, roundsUp, Bool.or_eq_true, Bool.and_eq_true, decide_eq_true_eq, beq_iff_eq]
      split <;> omega
    rw [hround, ← hhalf, not_lt, hV]
    constructor
    · rintro ⟨h1, h2⟩
      have : (T : ℚ) = (n / d : Nat) + 1 := by exact_mod_cast h1.symm
      linarith
    · intro h
      have h1 : (T : ℚ) < (n / d : Nat) + 2 := by linarith
      have h2 : n / d + 1 = T := by
        have : T < n / d + 2 := by exact_mod_cast h1
        omega
      have h3 : (T : ℚ) = (n / d : Nat) + 1 := by exact_mod_cast h2.symm
      exact ⟨h2, by linarith⟩
  · simp [toInfinity, roundedUnits_towardZero, hdown, hlt.not_ge]
  · cases neg
    · simp [toInfinity, r2f, hup]
    · simp [toInfinity, r2t, hdown, hlt.not_ge]
  · cases neg
    · simp [toInfinity, r3f, hdown, hlt.not_ge]
    · simp [toInfinity, r3t, hup]

/-- Rounded units overflow as the mode says. -/
theorem overflows_iff (hm : mode < 4) (hd : 0 < d) (hn : n < 2 ^ (f.fbits + 1) * d)
    (hlow : q = f.emin - f.fbits ∨ 2 ^ f.fbits * d ≤ n) :
    (2 : ℚ) ^ (f.bias + 1 : Int) ≤ (roundedUnits mode neg n d : ℚ) * 2 ^ q ↔
      OverflowsAt f mode neg (n / d * 2 ^ q) := by
  unfold OverflowsAt
  generalize hbigd : (unpack f (f.maxFin false)).q = big
  generalize htopd : (2 : ℚ) ^ (f.bias + 1) = top
  generalize hxd : (n : ℚ) / d * 2 ^ q = x
  obtain ⟨-, hbias⟩ := hs.expTop
  obtain ⟨hlo, hhi⟩ := roundedUnits_bounds mode neg n d
  have hemin : f.emin = 1 - (f.bias : Int) := rfl
  have hr0 : n / d < 2 ^ (f.fbits + 1) := (Nat.div_lt_iff_lt_mul hd).2 hn
  have hu : ∀ p : Int, (0 : ℚ) < 2 ^ p := fun p => by positivity
  have htopz : top = (2 : ℚ) ^ (f.bias + 1 : Int) := by rw [← Nat.cast_succ, zpow_natCast, htopd]
  have htop : top = (2 ^ (f.fbits + 1) : Nat) * 2 ^ ((f.bias : Int) - f.fbits) := by
    rw [natPow_mul_zpow, htopz]; congr 1; push_cast; ring
  have hbig : big = ((2 ^ (f.fbits + 1) : Nat) - 1 : ℚ) * 2 ^ ((f.bias : Int) - f.fbits) :=
    hbigd ▸ hs.maxFin_q
  have hbt : big < top := by rw [hbig, htop]; exact mul_lt_mul_of_pos_right (by linarith) (hu _)
  rw [← htopz]
  rcases lt_trichotomy q ((f.bias : Int) - f.fbits) with hlt | heq | hgt
  · have hb : (2 : ℚ) ^ (f.bias : Int) ≤ big := by
      rw [hbig, ← Nat.cast_pred (by positivity)]
      exact units_ge (k := f.fbits) (by rw [pow_succ]; have := Nat.one_le_two_pow (n := f.fbits); omega) (by omega)
    have hU : (roundedUnits mode neg n d : ℚ) * 2 ^ q < top := by
      rw [htopz]; exact units_lt (k := f.fbits + 2) (by
        have := Nat.one_le_two_pow (n := f.fbits)
        rw [pow_succ]; omega) (by push_cast; omega)
    have hx : x < 2 ^ (f.bias : Int) :=
      calc x = n / d * 2 ^ q := hxd.symm
        _ < (2 ^ (f.fbits + 1) : Nat) * 2 ^ q := mul_lt_mul_of_pos_right
            (by rw [div_lt_iff₀ (by exact_mod_cast hd)]; exact_mod_cast hn) (hu q)
        _ ≤ 2 ^ (f.bias : Int) := by rw [natPow_mul_zpow]; exact two_zpow_le.2 (by push_cast; omega)
    have h1 : ¬(big + top) / 2 ≤ x := by linarith
    have h2 : ¬big < x := by linarith
    have h3 : ¬top ≤ x := by linarith
    simp [hU.not_ge, h1, h2, h3]
  · have hq := hu q
    have hreach := units_reach (mode := mode) (neg := neg) hm hd
      (show 2 ∣ 2 ^ (f.fbits + 1) from dvd_pow_self 2 (by omega)) hn
    rw [heq.symm] at htop hbig
    have h1 : (big + top) / 2 ≤ x ↔ (((2 ^ (f.fbits + 1) : Nat) : ℚ) - 1 + (2 ^ (f.fbits + 1) : Nat)) / 2 ≤ n / d := by
      rw [← hxd, hbig, htop, ← add_mul, mul_div_right_comm, mul_le_mul_iff_left₀ hq]
    have h2 : big < x ↔ ((2 ^ (f.fbits + 1) : Nat) : ℚ) - 1 < n / d := by
      rw [← hxd, hbig, mul_lt_mul_iff_left₀ hq]
    have h3 : top ≤ x ↔ ((2 ^ (f.fbits + 1) : Nat) : ℚ) ≤ n / d := by
      rw [← hxd, htop, mul_le_mul_iff_left₀ hq]
    rw [h1, h2, h3, ← hreach, htop, mul_le_mul_iff_left₀ hq, Nat.cast_le]
  · have hfull : 2 ^ f.fbits ≤ n / d := (Nat.le_div_iff_mul_le hd).2 (hlow.resolve_left (by omega))
    have hU : top ≤ (roundedUnits mode neg n d : ℚ) * 2 ^ q := by
      rw [htopz]; exact units_ge (hfull.trans hlo) (by omega)
    have hx : top ≤ x := by
      rw [htopz, ← hxd]; exact (units_ge hfull (by omega)).trans (units_le_quot hd)
    have h1 : (big + top) / 2 ≤ x := by linarith
    have h2 : big < x := by linarith
    simp only [hU, h1, h2, hx, and_true, em, ite_self]

end

/-! ### A quotient rounded once -/

/-- A signed quotient in units of a last place that is packed so is rounded once (02 R57, 03 R79, R81). -/
theorem roundsTo_of_packs {f : FFmt} {mode : Nat} {neg zneg : Bool} {q : Int} {n d : Nat} {r : Nat × Flags} (hs : f.Sane)
    (hm : mode < 4) (hd : 0 < d) (hn0 : 0 < n) (hn : n < 2 ^ (f.fbits + 1) * d)
    (hlow : q = f.emin - f.fbits ∨ 2 ^ f.fbits * d ≤ n) (hp : Packs f mode neg (roundedUnits mode neg n d) q (n % d = 0) r) :
    RoundsTo f mode zneg (signedQ neg (n / d * 2 ^ q)) r := by
  have hno : NoNumberWithin f (n / d) q := fun x hx hi s => number_outside hd hlow hx hi s
  have hover := overflows_iff (mode := mode) (neg := neg) (q := q) hs hm hd hn hlow
  have hV : (0 : ℚ) < n / d * 2 ^ q := by positivity
  have hneg : decide (signedQ neg (n / d * 2 ^ q) < 0) = neg := by
    cases neg
    · simp [signedQ, hV.le]
    · simp [signedQ, hV]
  have habs : |signedQ neg ((n : ℚ) / d * 2 ^ q)| = n / d * 2 ^ q := by rw [abs_signedQ, abs_of_pos hV]
  have hne : signedQ neg ((n : ℚ) / d * 2 ^ q) ≠ 0 := by rw [← abs_pos, habs]; exact hV
  rcases hp with ⟨hbig, rfl⟩ | ⟨hsmall, ⟨hw, h2, h3, hq, hpar⟩, hsign, hfl⟩
  · have hneq : ¬((overflowed f mode neg, fOF ||| fNX).2 ≠ fOF ||| fNX) := fun h => h rfl
    refine ⟨fun h => absurd h hne, fun _ => ?_, .inr (.inr (.inr rfl)), ?_, fun _ => ?_, fun h => absurd h hneq,
      fun h => absurd h hneq,
      ⟨fun h => absurd h (show fOF ||| fNX ≠ fUF ||| fNX by decide), fun h => absurd h.1 hneq⟩, fun h => absurd h hneq,
      fun h => absurd h hneq, fun h => absurd h hneq, fun h => absurd h hneq⟩
    · rw [hneg]; exact signOf_overflowed hs mode neg
    · rw [hneg, habs]; exact ⟨fun _ => hover.1 hbig, fun _ => rfl⟩
    · rw [hneg]; exact overflowed_eq hm neg
  · have hno' : r.2 ≠ fOF ||| fNX := by
      rw [hfl]
      split
      · decide
      · split <;> decide
    have hexact : r.2 = 0 ↔ n % d = 0 := by
      rw [hfl]
      split
      · next h => exact ⟨fun _ => h, fun _ => rfl⟩
      · next h =>
        refine ⟨fun k => absurd k ?_, fun k => absurd k h⟩
        split <;> decide
    have hqr : (unpack f r.1).q = signedQ neg (roundedUnits mode neg n d * 2 ^ q) := hq
    have hval : (unpack f r.1).q = signedQ neg (n / d * 2 ^ q) ↔ n % d = 0 := by
      rw [hqr, ← rounded_eq_quot_iff (q := q) hd mode neg]
      exact (Function.LeftInverse.injective (signedQ_involutive neg)).eq_iff
    have hx : ∀ x, (unpack f x).q = signedQ neg (signedQ neg (unpack f x).q) := fun x => (signedQ_involutive neg _).symm
    refine ⟨fun h => absurd h hne, fun _ => by rw [hneg]; exact hsign, ?flags, ?ovf, fun h => absurd h hno',
      fun _ => ⟨hw, h2, h3⟩, fun _ => hexact.trans hval.symm, ?tiny, ?nearest, ?towardZero, ?upward, ?downward⟩
    case flags =>
      rw [hfl]
      split
      · exact .inl rfl
      · split
        · exact .inr (.inr (.inl rfl))
        · exact .inr (.inl rfl)
    case ovf =>
      rw [hneg, habs]
      exact ⟨fun h => absurd h hno', fun h => absurd (hover.2 h) hsmall.not_ge⟩
    case tiny =>
      have hpos : (0 : ℚ) ≤ (roundedUnits mode neg n d : ℚ) * 2 ^ q := by positivity
      rw [and_iff_right hno', Ne, hval, hqr, abs_signedQ, abs_of_nonneg hpos, hfl]
      split
      · next h => exact ⟨fun k => absurd k (by decide), fun k => absurd h k.1⟩
      · next h =>
        split
        · next k => exact ⟨fun _ => ⟨h, k⟩, fun _ => rfl⟩
        · next k => exact ⟨fun j => absurd j (by decide), fun j => absurd j.2 k⟩
    case nearest =>
      rintro - rfl x - ⟨hxn, hxi⟩
      have hnear := nearest_units hd neg (hno x hxn hxi neg)
      have hd1 : ∀ y z : ℚ, |signedQ neg y - signedQ neg z| = |y - z| := fun y z => by rw [signedQ_sub, abs_signedQ]
      rw [hqr, hx x, hd1, hd1]
      exact ⟨hnear.1, fun heq hne => hpar.trans (hnear.2 heq fun h => hne (congrArg (signedQ neg) h))⟩
    case towardZero =>
      rintro - rfl
      rw [hqr, habs, abs_signedQ, abs_of_nonneg (by positivity), roundedUnits_towardZero]
      refine ⟨units_le_quot hd, fun x _ ⟨hxn, hxi⟩ hle => ?_⟩
      obtain ⟨s, hs⟩ : ∃ s, |(unpack f x).q| = signedQ s (unpack f x).q := by
        rcases abs_choice (unpack f x).q with h | h
        · exact ⟨false, h⟩
        · exact ⟨true, h⟩
      rw [hs] at hle ⊢
      exact le_units hd (hno x hxn hxi s) hle
    case upward =>
      rintro - rfl
      obtain ⟨hdown, -, hup, -⟩ := roundedUnits_directed n d
      rw [hqr]
      cases neg
      · rw [hup]
        exact ⟨quot_le_units_up hd, fun x _ ⟨hxn, hxi⟩ hle => units_up_le hd (hno x hxn hxi false) hle⟩
      · rw [hdown]
        exact ⟨neg_le_neg (units_le_quot hd), fun x _ ⟨hxn, hxi⟩ hle =>
          neg_le.1 (le_units hd (hno x hxn hxi true) (neg_le.1 hle))⟩
    case downward =>
      rintro - rfl
      obtain ⟨-, hdown, -, hup⟩ := roundedUnits_directed n d
      rw [hqr]
      cases neg
      · rw [hdown]
        exact ⟨units_le_quot hd, fun x _ ⟨hxn, hxi⟩ hle => le_units hd (hno x hxn hxi false) hle⟩
      · rw [hup]
        exact ⟨neg_le_neg (quot_le_units_up hd), fun x _ ⟨hxn, hxi⟩ hle =>
          le_neg.1 (units_up_le hd (hno x hxn hxi true) (le_neg.1 hle))⟩

section
variable {f : FFmt} {mode : Nat} (hs : f.Sane) (hm : mode < 4)
include hs hm

theorem rndMag_roundsTo (neg zneg : Bool) {num den : Nat} (e : Int) (hn : 0 < num) (hd : 0 < den) :
    RoundsTo f mode zneg (signedQ neg (num / den * 2 ^ e)) (rndMag f mode neg num den e) := by
  obtain ⟨hq, hlt, hlow⟩ := lastExp_spec (f := f) (e := e) hn hd
  have hd' := scaledDen_pos (k := e - lastExp f num den e) hd
  have hpos : 0 < scaledNum num (e - lastExp f num den e) := by unfold scaledNum; split <;> positivity
  have hv : (num : ℚ) / den * 2 ^ e = scaledNum num (e - lastExp f num den e) / scaledDen den (e - lastExp f num den e) *
      2 ^ lastExp f num den e := by
    rw [scaled_value, mul_assoc, ← zpow_add₀ two_ne_zero, sub_add_cancel]
  rw [hv, rndMag_eq]
  exact roundsTo_of_packs hs hm hd' hpos hlt hlow (packUnits_packs hs hd' hq hlt hlow)

omit hm in
/-- An exact zero. -/
theorem roundsTo_zero (zneg : Bool) : RoundsTo f mode zneg 0 (f.zero zneg, 0) := by
  have hb := hs.expTop
  obtain ⟨h1, h2, h3, hq, hpar⟩ := holds_zero f zneg hs.fbits (by have := hs.ebits; omega)
  have hv : (unpack f (f.zero zneg)).q = 0 := by
    show dyQ _ = 0
    rw [hq]; cases zneg <;> simp [signedQ]
  have hbig : 0 < (unpack f (f.maxFin false)).q := by
    have : (1 : ℚ) < (2 ^ (f.fbits + 1) : Nat) := by
      exact_mod_cast Nat.one_lt_two_pow (n := f.fbits + 1) (by omega)
    rw [hs.maxFin_q]
    exact mul_pos (by linarith) (by positivity)
  have htop : (0 : ℚ) < 2 ^ (f.bias + 1) := by positivity
  have hne : (0 : Flags) ≠ fOF ||| fNX := by decide
  refine ⟨fun _ => rfl, fun h => absurd rfl h, .inl rfl, ⟨fun h => absurd h hne, fun h => ?_⟩, fun h => absurd h hne,
    fun _ => ⟨h1, h2, h3⟩, fun _ => ⟨fun _ => hv, fun _ => rfl⟩,
    ⟨fun h => absurd h (show (0 : Flags) ≠ fUF ||| fNX by decide), fun h => absurd hv h.2.1⟩,
    fun _ _ x _ _ => ?_, fun _ _ => ?_, fun _ _ => ⟨hv.ge, fun x _ _ h => hv.le.trans h⟩,
    fun _ _ => ⟨hv.le, fun x _ _ h => h.trans hv.ge⟩⟩
  · dsimp only at h
    rw [abs_zero] at h
    split at h
    · linarith
    · rcases h with h | h
      · linarith [h.2]
      · linarith [h.2]
  · rw [hv, sub_zero, abs_zero]
    exact ⟨abs_nonneg _, fun _ _ => hpar⟩
  · rw [hv, abs_zero]
    exact ⟨le_rfl, fun x _ _ h => h⟩

theorem rndDyZ_roundsTo (zneg : Bool) (v : Dy) : RoundsTo f mode zneg (dyQ v) (rndDyZ f mode zneg v) := by
  unfold rndDyZ
  by_cases h : v.m = 0
  · rw [if_pos h, dyQ_eq_zero.2 h]; exact roundsTo_zero hs zneg
  · rw [if_neg h, dyQ_eq_signedQ]
    have := rndMag_roundsTo hs hm (decide (v.m < 0)) zneg v.e (Int.natAbs_pos.2 h) Nat.one_pos
    rwa [Nat.cast_one, div_one] at this

theorem rndQuot_roundsTo (zneg : Bool) (x y : Dy) (hy : y.m ≠ 0) :
    RoundsTo f mode zneg (dyQ x / dyQ y) (rndQuot f mode zneg x y) := by
  unfold rndQuot
  by_cases h : x.m = 0
  · rw [if_pos h, dyQ_eq_zero.2 h, zero_div]; exact roundsTo_zero hs zneg
  · rw [if_neg h]
    have hq : dyQ x / dyQ y = signedQ (decide (x.m < 0) != decide (y.m < 0)) (x.m.natAbs / y.m.natAbs * 2 ^ (x.e - y.e)) := by
      rw [dyQ_eq_signedQ x, dyQ_eq_signedQ y, zpow_sub₀ two_ne_zero]
      by_cases h1 : x.m < 0 <;> by_cases h2 : y.m < 0 <;> simp [h1, h2, signedQ] <;> ring
    rw [hq]
    exact rndMag_roundsTo hs hm _ zneg _ (Int.natAbs_pos.2 h) (Int.natAbs_pos.2 hy)

end

end Sys2Proof.Machine
end

section
/-! SUPPORT. The arithmetic of float values: each result is the exact one rounded once, and the results of NaNs, infinities and
zeros (03 R80, R81, 04 R110). -/

namespace Sys2Proof.Machine

/-! ### Values -/

theorem nvOf_eq (xs : List FVal) : nvOf xs = nvS xs := by
  simp only [nvOf, nvS, List.any_eq_true]

theorem RoundsTo.anySign {f : FFmt} {mode : Nat} {z z' : Bool} {v : ℚ} {r : Nat × Flags} (h : RoundsTo f mode z v r)
    (hv : v ≠ 0) : RoundsTo f mode z' v r :=
  { h with zero := fun k => absurd k hv }

theorem FVal.q_ne_zero {d : Dy} (h : d.m ≠ 0) : (FVal.fin d).q ≠ 0 := fun k => h (dyQ_eq_zero.1 k)

theorem FVal.q_eq_zero {v : FVal} (h : v.num) (hp : v.proper) : v.q = 0 ↔ ∃ n, v = .zero n := by
  rcases FVal.num_cases h hp with ⟨n, rfl⟩ | ⟨d, rfl, hd⟩
  · simp
  · simp [FVal.q_ne_zero hd, -FVal.q_fin]

/-- The sign of a finite value is that of its number. -/
theorem FVal.neg_fin (d : Dy) : (FVal.fin d).neg = decide (dyQ d < 0) := by
  simp only [FVal.neg, dyQ_lt_zero]

section
variable {v : FVal}

theorem negV_num (h : v.num) : (negV v).num := by
  cases v with
  | nan s => exact absurd h (FVal.not_num_nan s)
  | inf n => exact absurd h (FVal.not_num_inf n)
  | _ => exact ⟨rfl, rfl⟩

theorem negV_q : (negV v).q = -v.q := by
  cases v with
  | fin d => exact dyQ_neg d
  | _ => simp [negV, FVal.q, FVal.dy]

theorem negV_proper (h : v.proper) : (negV v).proper := by
  cases v with
  | fin d => exact neg_ne_zero.2 h
  | _ => trivial

theorem negV_neg (h : v.num) (hp : v.proper) : (negV v).neg = !v.neg := by
  rcases FVal.num_cases h hp with ⟨n, rfl⟩ | ⟨d, rfl, hd⟩
  · rfl
  · simp only [negV, FVal.neg, Dy.neg]
    rcases lt_or_gt_of_ne hd with h | h <;> simp [h, h.not_gt]

theorem negV_isNan : (negV v).isNan = v.isNan := by cases v <;> rfl

end

/-! ### Sums, products and quotients of numbers -/

/-- The sign of an exact zero sum of two values of signs `m` and `n` (03 R81). -/
def zeroSign (mode : Nat) (m n : Bool) : Bool := if m = n then m else decide (mode = 3)

section
variable {f : FFmt} {mode : Nat} (hs : f.Sane) (hm : mode < 4)
include hs hm

theorem rndDy_roundsTo (v : Dy) : RoundsTo f mode (mode == 3) (dyQ v) (rndDy f mode v) := rndDyZ_roundsTo hs hm _ v

/-- A sum that the model rounds as a dyadic number: its zero has the sign of a cancellation. -/
theorem rndDy_sum {x y : FVal} (hx : x.num) (hy : y.num) (px : x.proper) (py : y.proper)
    (h : ¬∃ m n, x = .zero m ∧ y = .zero n) {v : Dy} (hv : dyQ v = x.q + y.q) :
    RoundsTo f mode (zeroSign mode x.neg y.neg) (x.q + y.q) (rndDy f mode v) := by
  have hr := rndDy_roundsTo hs hm v
  rw [hv] at hr
  by_cases h0 : x.q + y.q = 0
  · have hsign : zeroSign mode x.neg y.neg = (mode == 3) := by
      rcases FVal.num_cases hx px with ⟨m, rfl⟩ | ⟨c, rfl, hc⟩
      · rcases FVal.num_cases hy py with ⟨n, rfl⟩ | ⟨d, rfl, hd⟩
        · exact absurd ⟨m, n, rfl, rfl⟩ h
        · rw [FVal.q_zero, zero_add] at h0
          exact absurd h0 (FVal.q_ne_zero hd)
      · rcases FVal.num_cases hy py with ⟨n, rfl⟩ | ⟨d, rfl, hd⟩
        · rw [FVal.q_zero, add_zero] at h0
          exact absurd h0 (FVal.q_ne_zero hc)
        · rw [FVal.q_fin, FVal.q_fin] at h0
          have hne : ¬(decide (dyQ c < 0) = decide (dyQ d < 0)) := by
            have := FVal.q_ne_zero hc
            rw [FVal.q_fin] at this
            rw [decide_eq_decide]
            rcases lt_or_gt_of_ne this with k | k
            · exact fun e => absurd (e.1 k) (by linarith)
            · exact fun e => absurd (e.2 (by linarith)) k.not_gt
          rw [FVal.neg_fin, FVal.neg_fin, zeroSign, if_neg hne]
          rfl
    rw [hsign]; exact hr
  · exact hr.anySign h0

theorem addV_roundsTo {x y : FVal} (hx : x.num) (hy : y.num) (px : x.proper) (py : y.proper) :
    RoundsTo f mode (zeroSign mode x.neg y.neg) (x.q + y.q) (addV f mode x y) := by
  by_cases h : ∃ m n, x = .zero m ∧ y = .zero n
  · obtain ⟨m, n, rfl, rfl⟩ := h
    rw [FVal.q_zero, FVal.q_zero, add_zero]
    exact roundsTo_zero hs _
  · have hadd : addV f mode x y = rndDy f mode (Dy.add x.dy y.dy) := by
      rcases FVal.num_cases hx px with ⟨m, rfl⟩ | ⟨c, rfl, hc⟩
      · rcases FVal.num_cases hy py with ⟨n, rfl⟩ | ⟨d, rfl, hd⟩
        · exact absurd ⟨m, n, rfl, rfl⟩ h
        · rfl
      · rcases FVal.num_cases hy py with ⟨n, rfl⟩ | ⟨d, rfl, hd⟩ <;> rfl
    rw [hadd]
    exact rndDy_sum hs hm hx hy px py h (dyQ_add _ _)

theorem mulV_roundsTo {x y : FVal} (hx : x.num) (hy : y.num) (px : x.proper) (py : y.proper) :
    RoundsTo f mode (x.neg != y.neg) (x.q * y.q) (mulV f mode x y) := by
  rcases FVal.num_cases hx px with ⟨m, rfl⟩ | ⟨c, rfl, hc⟩
  · rw [FVal.q_zero, zero_mul]
    rcases FVal.num_cases hy py with ⟨n, rfl⟩ | ⟨d, rfl, hd⟩ <;> exact roundsTo_zero hs _
  · rcases FVal.num_cases hy py with ⟨n, rfl⟩ | ⟨d, rfl, hd⟩
    · rw [FVal.q_zero, mul_zero]; exact roundsTo_zero hs _
    · rw [FVal.q_fin, FVal.q_fin, ← dyQ_mul]
      exact rndDyZ_roundsTo hs hm _ _

theorem divV_roundsTo {x y : FVal} (hx : x.num) (hy : y.num) (px : x.proper) (py : y.proper) (h0 : y.q ≠ 0) :
    RoundsTo f mode (x.neg != y.neg) (x.q / y.q) (divV f mode x y) := by
  rcases FVal.num_cases hy py with ⟨n, rfl⟩ | ⟨d, rfl, hd⟩
  · exact absurd (FVal.q_zero n) h0
  · rcases FVal.num_cases hx px with ⟨m, rfl⟩ | ⟨c, rfl, hc⟩
    · rw [FVal.q_zero, zero_div]; exact roundsTo_zero hs _
    · exact rndQuot_roundsTo hs hm _ c d hd

theorem fmaV_roundsTo {x y z : FVal} (hx : x.num) (hy : y.num) (hz : z.num) (px : x.proper) (py : y.proper) (pz : z.proper) :
    RoundsTo f mode (zeroSign mode (x.neg != y.neg) z.neg) (x.q * y.q + z.q) (fmaV f mode x y z) := by
  have hfma : fmaV f mode x y z = if (Dy.mul x.dy y.dy).m = 0 then addV f mode (.zero (x.neg != y.neg)) z
      else rndDy f mode (Dy.add (Dy.mul x.dy y.dy) z.dy) := by
    rcases FVal.num_cases hx px with ⟨m, rfl⟩ | ⟨c, rfl, -⟩ <;> rcases FVal.num_cases hy py with ⟨n, rfl⟩ | ⟨d, rfl, -⟩ <;>
      rcases FVal.num_cases hz pz with ⟨k, rfl⟩ | ⟨e, rfl, -⟩ <;> rfl
  rw [hfma]
  rcases FVal.num_cases hx px with ⟨m, rfl⟩ | ⟨c, rfl, hc⟩
  · rw [if_pos (show (Dy.mul (FVal.zero m).dy y.dy).m = 0 from zero_mul _), FVal.q_zero, zero_mul,
      ← FVal.q_zero ((FVal.zero m).neg != y.neg)]
    exact addV_roundsTo hs hm (FVal.num_zero _) hz trivial pz
  rcases FVal.num_cases hy py with ⟨n, rfl⟩ | ⟨d, rfl, hd⟩
  · rw [if_pos (show (Dy.mul (FVal.fin c).dy (FVal.zero n).dy).m = 0 from mul_zero _), FVal.q_zero, mul_zero,
      ← FVal.q_zero ((FVal.fin c).neg != (FVal.zero n).neg)]
    exact addV_roundsTo hs hm (FVal.num_zero _) hz trivial pz
  · have hp : (Dy.mul c d).m ≠ 0 := mul_ne_zero hc hd
    have hneg : ((FVal.fin c).neg != (FVal.fin d).neg) = (FVal.fin (Dy.mul c d)).neg := by
      show (decide (c.m < 0) != decide (d.m < 0)) = decide (c.m * d.m < 0)
      rcases lt_or_gt_of_ne hc with k | k <;> rcases lt_or_gt_of_ne hd with j | j
      · simp [k, j, (mul_pos_of_neg_of_neg k j).not_gt]
      · simp [k, j.not_gt, mul_neg_of_neg_of_pos k j]
      · simp [k.not_gt, j, mul_neg_of_pos_of_neg k j]
      · simp [k.not_gt, j.not_gt, (mul_pos k j).not_gt]
    have hq : (FVal.fin c).q * (FVal.fin d).q = (FVal.fin (Dy.mul c d)).q := (dyQ_mul c d).symm
    rw [if_neg (by exact hp), hneg, hq]
    exact rndDy_sum hs hm (FVal.num_fin _) hz (show (Dy.mul c d).m ≠ 0 from hp) pz
      (fun ⟨_, _, h, _⟩ => FVal.noConfusion h) (dyQ_add _ _)

end

/-! ### NaNs and infinities (03 R80) -/

section
variable {f : FFmt} {mode : Nat} {x y z : FVal}

theorem FVal.isNan_iff {v : FVal} : v.isNan = true ↔ ∃ s, v = .nan s := by
  cases v <;> simp [FVal.isNan]

theorem nan_results (h : x.isNan = true ∨ y.isNan = true) :
    addV f mode x y = (f.qnan, nvS [x, y]) ∧ mulV f mode x y = (f.qnan, nvS [x, y]) ∧
      divV f mode x y = (f.qnan, nvS [x, y]) := by
  simp only [FVal.isNan_iff] at h
  rcases h with ⟨s, rfl⟩ | ⟨s, rfl⟩
  · cases y <;> exact ⟨rfl, rfl, rfl⟩
  · cases x <;> exact ⟨rfl, rfl, rfl⟩

theorem sub_nan (h : x.isNan = true ∨ y.isNan = true) : addV f mode x (negV y) = (f.qnan, nvS [x, y]) := by
  have hn : nvS [x, negV y] = nvS [x, y] := by cases y <;> rfl
  rw [(nan_results (h.imp_right fun h => negV_isNan.trans h)).1, hn]

theorem inf_inf_results (m n : Bool) :
    addV f mode (.inf m) (.inf n) = (if m = n then (f.inf m, 0) else (f.qnan, fNV)) ∧
      addV f mode (.inf m) (negV (.inf n)) = (if m = n then (f.qnan, fNV) else (f.inf m, 0)) ∧
      mulV f mode (.inf m) (.inf n) = (f.inf (m != n), 0) ∧ divV f mode (.inf m) (.inf n) = (f.qnan, fNV) := by
  refine ⟨rfl, ?_, rfl, rfl⟩
  cases m <;> cases n <;> rfl

theorem inf_num_results (m : Bool) (hy : y.num) (py : y.proper) :
    addV f mode (.inf m) y = (f.inf m, 0) ∧ addV f mode (.inf m) (negV y) = (f.inf m, 0) ∧
      mulV f mode (.inf m) y = (if y.q = 0 then (f.qnan, fNV) else (f.inf (m != y.neg), 0)) ∧
      divV f mode (.inf m) y = (f.inf (m != y.neg), 0) := by
  rcases FVal.num_cases hy py with ⟨n, rfl⟩ | ⟨d, rfl, hd⟩
  · exact ⟨rfl, rfl, (if_pos (FVal.q_zero n)).symm, rfl⟩
  · exact ⟨rfl, rfl, (if_neg (FVal.q_ne_zero hd)).symm, rfl⟩

theorem num_inf_results (n : Bool) (hx : x.num) (px : x.proper) :
    addV f mode x (.inf n) = (f.inf n, 0) ∧ addV f mode x (negV (.inf n)) = (f.inf !n, 0) ∧
      mulV f mode x (.inf n) = (if x.q = 0 then (f.qnan, fNV) else (f.inf (x.neg != n), 0)) ∧
      divV f mode x (.inf n) = (f.zero (x.neg != n), 0) := by
  rcases FVal.num_cases hx px with ⟨m, rfl⟩ | ⟨d, rfl, hd⟩
  · exact ⟨rfl, rfl, (if_pos (FVal.q_zero m)).symm, rfl⟩
  · exact ⟨rfl, rfl, (if_neg (FVal.q_ne_zero hd)).symm, rfl⟩

theorem div_by_zero (hx : x.num) (px : x.proper) (hy : y.num) (py : y.proper) (h0 : y.q = 0) :
    divV f mode x y = if x.q = 0 then (f.qnan, fNV) else (f.inf (x.neg != y.neg), fDZ) := by
  obtain ⟨n, rfl⟩ := (FVal.q_eq_zero hy py).1 h0
  rcases FVal.num_cases hx px with ⟨m, rfl⟩ | ⟨d, rfl, hd⟩
  · exact (if_pos (FVal.q_zero m)).symm
  · exact (if_neg (FVal.q_ne_zero hd)).symm

/-- A product of an infinity and a zero. -/
def FVal.badProduct (x y : FVal) : Prop := (x.isInf = true ∧ ∃ n, y = .zero n) ∨ (y.isInf = true ∧ ∃ n, x = .zero n)

theorem FVal.isInf_iff {v : FVal} : v.isInf = true ↔ ∃ n, v = .inf n := by
  cases v <;> simp [FVal.isInf]

theorem fmaV_bad (h : x.badProduct y) : fmaV f mode x y z = (f.qnan, fNV) := by
  simp only [FVal.badProduct, FVal.isInf_iff] at h
  rcases h with ⟨⟨m, rfl⟩, n, rfl⟩ | ⟨⟨m, rfl⟩, n, rfl⟩ <;> rfl

/-- Beside the bad product, FMA passes a NaN on and adds to an infinite product. -/
theorem fmaV_good (h : ¬x.badProduct y) : fmaV f mode x y z =
    if x.isNan || y.isNan || z.isNan then (f.qnan, nvS [x, y, z])
    else if x.isInf || y.isInf then addV f mode (.inf (x.neg != y.neg)) z
    else if (Dy.mul x.dy y.dy).m = 0 then addV f mode (.zero (x.neg != y.neg)) z
    else match z with
      | .inf n => (f.inf n, 0)
      | z => rndDy f mode (Dy.add (Dy.mul x.dy y.dy) z.dy) := by
  have hinf : ∀ m n, ¬(x = .inf m ∧ y = .zero n) ∧ ¬(y = .inf m ∧ x = .zero n) := fun m n =>
    ⟨fun ⟨h1, h2⟩ => h (.inl ⟨by rw [h1]; rfl, n, h2⟩), fun ⟨h1, h2⟩ => h (.inr ⟨by rw [h1]; rfl, n, h2⟩)⟩
  unfold fmaV
  cases x with
  | inf m =>
    cases y with
    | zero n => exact absurd ⟨rfl, rfl⟩ (hinf m n).1
    | _ => rfl
  | zero n =>
    cases y with
    | inf m => exact absurd ⟨rfl, rfl⟩ (hinf m n).2
    | _ => rfl
  | _ => cases y <;> rfl

theorem fmaV_inf (hx : x.num) (hy : y.num) (n : Bool) :
    fmaV f mode x y (.inf n) = (f.inf n, 0) := by
  have hp : ¬x.badProduct y := by rintro (⟨h, -⟩ | ⟨h, -⟩) <;> simp_all [FVal.num]
  rw [fmaV_good hp, hx.1, hx.2, hy.1, hy.2]
  simp only [FVal.isNan, Bool.or_self, Bool.false_eq_true, if_false]
  exact if_keeps (P := (· = (f.inf n, (0 : Flags)))) rfl rfl

end

/-! ### The five operations (04 R110) -/

theorem arithmetic_rounds_once (f : FFmt) (mode a b c : Nat) (hf : f = .f32 ∨ f = .bf16 ∨ f = .f16) (hm : mode < 4) :
    let x := unpack f a
    let y := unpack f b
    let z := unpack f c
    let sum := fun (m n : Bool) => if m = n then m else decide (mode = 3)
    let sg := x.neg != y.neg
    let bad := (x.isInf = true ∧ ∃ n, y = .zero n) ∨ (y.isInf = true ∧ ∃ n, x = .zero n)
    (x.isNan = true ∨ y.isNan = true → ∀ r, r = faddB f mode a b ∨ r = fsubB f mode a b ∨ r = fmulB f mode a b ∨
      r = fdivB f mode a b → r = (f.qnan, nvOf [x, y])) ∧
    (x.num → y.num →
      RoundsTo f mode (sum x.neg y.neg) (x.q + y.q) (faddB f mode a b) ∧
      RoundsTo f mode (sum x.neg !y.neg) (x.q - y.q) (fsubB f mode a b) ∧
      RoundsTo f mode sg (x.q * y.q) (fmulB f mode a b) ∧
      (y.q ≠ 0 → RoundsTo f mode sg (x.q / y.q) (fdivB f mode a b)) ∧
      (y.q = 0 → fdivB f mode a b = if x.q = 0 then (f.qnan, fNV) else (f.inf sg, fDZ))) ∧
    (∀ m n, x = .inf m → y = .inf n →
      faddB f mode a b = (if m = n then (f.inf m, 0) else (f.qnan, fNV)) ∧
      fsubB f mode a b = (if m = n then (f.qnan, fNV) else (f.inf m, 0)) ∧
      fmulB f mode a b = (f.inf sg, 0) ∧ fdivB f mode a b = (f.qnan, fNV)) ∧
    (∀ m, x = .inf m → y.num → faddB f mode a b = (f.inf m, 0) ∧ fsubB f mode a b = (f.inf m, 0) ∧
      fmulB f mode a b = (if y.q = 0 then (f.qnan, fNV) else (f.inf sg, 0)) ∧ fdivB f mode a b = (f.inf sg, 0)) ∧
    (∀ n, x.num → y = .inf n → faddB f mode a b = (f.inf n, 0) ∧ fsubB f mode a b = (f.inf !n, 0) ∧
      fmulB f mode a b = (if x.q = 0 then (f.qnan, fNV) else (f.inf sg, 0)) ∧ fdivB f mode a b = (f.zero sg, 0)) ∧
    (bad → fmaB f mode a b c = (f.qnan, fNV)) ∧
    (¬bad → x.isNan = true ∨ y.isNan = true ∨ z.isNan = true → fmaB f mode a b c = (f.qnan, nvOf [x, y, z])) ∧
    (x.num → y.num → z.num → RoundsTo f mode (sum sg z.neg) (x.q * y.q + z.q) (fmaB f mode a b c)) ∧
    (x.num → y.num → ∀ n, z = .inf n → fmaB f mode a b c = (f.inf n, 0)) ∧
    (¬bad → x.isNan = false → y.isNan = false → x.isInf = true ∨ y.isInf = true →
      (z.num ∨ z = .inf sg → fmaB f mode a b c = (f.inf sg, 0)) ∧
      (z = .inf !sg → fmaB f mode a b c = (f.qnan, fNV))) := by
  have hs := sane_of hf
  intro x y z sum sg bad
  have px : x.proper := unpack_proper f a
  have py : y.proper := unpack_proper f b
  have pz : z.proper := unpack_proper f c
  have hadd : faddB f mode a b = addV f mode x y := rfl
  have hsub : fsubB f mode a b = addV f mode x (negV y) := rfl
  have hmul : fmulB f mode a b = mulV f mode x y := rfl
  have hdiv : fdivB f mode a b = divV f mode x y := rfl
  have hfma : fmaB f mode a b c = fmaV f mode x y z := rfl
  rw [hadd, hsub, hmul, hdiv, hfma, nvOf_eq, nvOf_eq]
  clear_value x y z
  refine ⟨fun h r hr => ?_, fun hx hy => ⟨addV_roundsTo hs hm hx hy px py, ?_, mulV_roundsTo hs hm hx hy px py,
    divV_roundsTo hs hm hx hy px py, div_by_zero hx px hy py⟩, ?_, ?_, ?_, fmaV_bad, fun hb h => ?_,
    fun hx hy hz => fmaV_roundsTo hs hm hx hy hz px py pz, ?_, fun hb hx hy h => ?_⟩
  · obtain ⟨h1, h2, h3⟩ := nan_results (f := f) (mode := mode) h
    rcases hr with rfl | rfl | rfl | rfl
    · exact h1
    · exact sub_nan h
    · exact h2
    · exact h3
  · have h := addV_roundsTo hs hm hx (negV_num hy) px (negV_proper py)
    rw [negV_q, negV_neg hy py, ← sub_eq_add_neg] at h
    exact h
  · rintro m n rfl rfl; exact inf_inf_results m n
  · rintro m rfl hy; exact inf_num_results m hy py
  · rintro n hx rfl; exact num_inf_results n hx px
  · rw [fmaV_good hb, if_pos (by simpa [or_assoc] using h)]
  · rintro hx hy n rfl; exact fmaV_inf hx hy n
  · have hgood : z.isNan = false → fmaV f mode x y z = addV f mode (.inf sg) z := fun hz => by
      rw [fmaV_good hb, hx, hy, hz, if_neg (by simp), if_pos (by simpa using h)]
    refine ⟨?_, ?_⟩
    · rintro (hz | rfl)
      · rw [hgood hz.1]; exact (inf_num_results sg hz pz).1
      · rw [hgood rfl, (inf_inf_results sg sg).1, if_pos rfl]
    · rintro rfl
      rw [hgood rfl, (inf_inf_results sg (!sg)).1, if_neg (by simp)]

end Sys2Proof.Machine
end

section
/-! SUPPORT. Float patterns without their sign: their values rise with the pattern, so that a number's pattern is the only one of
its value (03 R78). -/

namespace Sys2Proof.Machine

/-! ### Patterns without a sign -/

/-- A pattern without its sign. -/
def lowOf (f : FFmt) (w : Nat) : Nat := w % 2 ^ (f.ebits + f.fbits)

/-- The value of a number's pattern without its sign. -/
def magOf (f : FFmt) (k : Nat) : ℚ :=
  if k / 2 ^ f.fbits = 0 then k * 2 ^ (f.emin - f.fbits)
  else (2 ^ f.fbits + k % 2 ^ f.fbits : Nat) * 2 ^ (((k / 2 ^ f.fbits : Nat) : Int) - f.bias - f.fbits)

/-- The number of patterns of numbers without a sign. -/
def FFmt.numbers (f : FFmt) : Nat := (2 ^ f.ebits - 1) * 2 ^ f.fbits

/-- The parts of a pattern: exponent and fraction are those of its low part, its value that of them. -/
theorem unpack_low_part (f : FFmt) (w : Nat) : unpack f w =
    if lowOf f w / 2 ^ f.fbits = 2 ^ f.ebits - 1 then
      if lowOf f w % 2 ^ f.fbits = 0 then .inf (signOf f w) else .nan (!bitAt w (f.fbits - 1))
    else if lowOf f w / 2 ^ f.fbits = 0 then
      if lowOf f w % 2 ^ f.fbits = 0 then .zero (signOf f w)
      else .fin ⟨if signOf f w then -((lowOf f w % 2 ^ f.fbits : Nat) : Int) else (lowOf f w % 2 ^ f.fbits : Nat), f.emin - f.fbits⟩
    else .fin ⟨if signOf f w then -((2 ^ f.fbits + lowOf f w % 2 ^ f.fbits : Nat) : Int)
        else (2 ^ f.fbits + lowOf f w % 2 ^ f.fbits : Nat), ((lowOf f w / 2 ^ f.fbits : Nat) : Int) - f.bias - f.fbits⟩ := by
  have he : lowOf f w / 2 ^ f.fbits = fld w f.fbits f.ebits := by
    rw [lowOf, fld, Nat.add_comm, pow_add, Nat.mod_mul_right_div_self]
  have hr : lowOf f w % 2 ^ f.fbits = fld w 0 f.fbits := by
    rw [lowOf, fld, pow_zero, Nat.div_one]
    exact Nat.mod_mod_of_dvd _ (pow_dvd_pow _ (by omega))
  rw [he, hr]
  rfl

/-- A magnitude written with a sign. -/
theorem dyQ_signed (s : Bool) (n : Nat) (e : Int) : dyQ ⟨if s then -(n : Int) else n, e⟩ = signedQ s (n * 2 ^ e) := by
  cases s
  · exact (congrArg (· * (2 : ℚ) ^ e) (Int.cast_natCast n))
  · show ((-(n : Int) : Int) : ℚ) * 2 ^ e = -(n * 2 ^ e)
    rw [Int.cast_neg, Int.cast_natCast, neg_mul]

theorem neg_signed (s : Bool) {n : Nat} (hn : 0 < n) (e : Int) : (FVal.fin ⟨if s then -(n : Int) else n, e⟩).neg = s := by
  cases s
  · exact decide_eq_false (show ¬(n : Int) < 0 by omega)
  · exact decide_eq_true (show -(n : Int) < 0 by omega)

section
variable {f : FFmt}

theorem lowOf_lt (w : Nat) : lowOf f w / 2 ^ f.fbits ≤ 2 ^ f.ebits - 1 := by
  have h1 : lowOf f w < 2 ^ f.ebits * 2 ^ f.fbits := by rw [← pow_add]; exact Nat.mod_lt _ (by positivity)
  have h2 := (Nat.div_lt_iff_lt_mul (by positivity)).2 h1
  omega

theorem numbers_iff (w : Nat) : lowOf f w < f.numbers ↔ lowOf f w / 2 ^ f.fbits ≠ 2 ^ f.ebits - 1 := by
  have h1 := lowOf_lt (f := f) w
  rw [FFmt.numbers, ← Nat.div_lt_iff_lt_mul (by positivity)]
  omega

theorem num_iff (w : Nat) : (unpack f w).num ↔ lowOf f w < f.numbers := by
  rw [numbers_iff, unpack_low_part]
  by_cases h : lowOf f w / 2 ^ f.fbits = 2 ^ f.ebits - 1
  · rw [if_pos h]
    split <;> simp [FVal.num, FVal.isNan, FVal.isInf, h]
  · rw [if_neg h]
    refine ⟨fun _ => h, fun _ => ?_⟩
    refine if_keeps (P := FVal.num) (if_keeps (P := FVal.num) ?_ ?_) ?_ <;> exact ⟨rfl, rfl⟩

theorem notNan_iff (w : Nat) : (unpack f w).isNan = false ↔ lowOf f w ≤ f.numbers := by
  have h1 := lowOf_lt (f := f) w
  have h2 := Nat.div_add_mod (lowOf f w) (2 ^ f.fbits)
  have h3 : 0 < 2 ^ f.fbits := by positivity
  by_cases h : lowOf f w / 2 ^ f.fbits = 2 ^ f.ebits - 1
  · have hk : lowOf f w ≤ f.numbers ↔ lowOf f w % 2 ^ f.fbits = 0 := by
      rw [h, Nat.mul_comm] at h2
      rw [FFmt.numbers]; omega
    rw [hk, unpack_low_part, if_pos h]
    split <;> simp_all [FVal.isNan]
  · have hk := (numbers_iff w).2 h
    exact ⟨fun _ => hk.le, fun _ => ((num_iff w).2 hk).1⟩

/-- The value of a number. -/
theorem unpack_q {w : Nat} (h : lowOf f w < f.numbers) : (unpack f w).q = signedQ (signOf f w) (magOf f (lowOf f w)) := by
  have hk := (numbers_iff w).1 h
  rw [unpack_low_part, if_neg hk, magOf]
  by_cases h0 : lowOf f w / 2 ^ f.fbits = 0
  · have hmod : lowOf f w % 2 ^ f.fbits = lowOf f w := by
      have := Nat.div_add_mod (lowOf f w) (2 ^ f.fbits)
      rw [h0] at this; omega
    rw [if_pos h0, if_pos h0, hmod]
    split
    · next hz => rw [hz]; cases signOf f w <;> simp [signedQ]
    · exact dyQ_signed ..
  · rw [if_neg h0, if_neg h0]
    exact dyQ_signed ..

/-- The sign of what is no NaN is its sign bit. -/
theorem unpack_neg {w : Nat} (h : (unpack f w).isNan = false) : (unpack f w).neg = signOf f w := by
  have hpos : 0 < 2 ^ f.fbits := by positivity
  revert h
  rw [unpack_low_part]
  split
  · split
    · exact fun _ => rfl
    · exact fun h => Bool.noConfusion h
  · split
    · split
      · exact fun _ => rfl
      · next h => exact fun _ => neg_signed _ (Nat.pos_of_ne_zero h) _
    · exact fun _ => neg_signed _ (by omega) _

/-- The value of a pattern in units of its own place. -/
theorem magOf_eq (k : Nat) : magOf f k = (if k / 2 ^ f.fbits = 0 then k else 2 ^ f.fbits + k % 2 ^ f.fbits : Nat) *
    2 ^ (((max (k / 2 ^ f.fbits) 1 : Nat) : Int) - f.bias - f.fbits) := by
  rw [magOf]
  split
  · next h => rw [h]; simp [FFmt.emin]
  · next h => rw [max_eq_left (Nat.pos_of_ne_zero h)]

theorem magOf_strictMono : StrictMono (magOf f) := by
  refine strictMono_nat_of_lt_succ fun k => ?_
  have hpos : 0 < 2 ^ f.fbits := by positivity
  have hu : ∀ p : Int, (0 : ℚ) < 2 ^ p := fun p => by positivity
  have hdm := Nat.div_add_mod k (2 ^ f.fbits)
  have hlt := Nat.mod_lt k hpos
  generalize hb : k / 2 ^ f.fbits = b at hdm
  generalize hr : k % 2 ^ f.fbits = r at hdm hlt
  rw [magOf_eq k, magOf_eq (k + 1), hb, hr]
  by_cases hc : r + 1 < 2 ^ f.fbits
  · have h1 : (k + 1) / 2 ^ f.fbits = b := by
      rw [← hdm, add_assoc, Nat.mul_add_div hpos, Nat.div_eq_of_lt hc, add_zero]
    have h2 : (k + 1) % 2 ^ f.fbits = r + 1 := by rw [← hdm, add_assoc, Nat.mul_add_mod, Nat.mod_eq_of_lt hc]
    rw [h1, h2]
    refine mul_lt_mul_of_pos_right (Nat.cast_lt.2 ?_) (hu _)
    split <;> omega
  · have hr1 : r + 1 = 2 ^ f.fbits := by omega
    have hk : k + 1 = 2 ^ f.fbits * (b + 1) := by rw [Nat.mul_add]; omega
    have h1 : (k + 1) / 2 ^ f.fbits = b + 1 := by rw [hk, Nat.mul_div_cancel_left _ hpos]
    have h2 : (k + 1) % 2 ^ f.fbits = 0 := by rw [hk, Nat.mul_mod_right]
    rw [h1, h2, if_neg (Nat.succ_ne_zero b), add_zero]
    by_cases h0 : b = 0
    · subst h0
      rw [if_pos rfl]
      exact mul_lt_mul_of_pos_right (Nat.cast_lt.2 (by omega)) (hu _)
    · rw [if_neg h0, max_eq_left (by omega), max_eq_left (by omega),
        show (((b + 1 : Nat) : Int) - f.bias - f.fbits) = ((b : Int) - f.bias - f.fbits) + 1 by push_cast; ring,
        zpow_add_one₀ two_ne_zero, mul_comm _ (2 : ℚ), ← mul_assoc]
      refine mul_lt_mul_of_pos_right ?_ (hu _)
      have : 2 ^ f.fbits + r < 2 ^ f.fbits * 2 := by omega
      exact_mod_cast this

theorem magOf_zero : magOf f 0 = 0 := by simp [magOf]

theorem magOf_nonneg (k : Nat) : 0 ≤ magOf f k := magOf_zero (f := f) ▸ magOf_strictMono.monotone (Nat.zero_le k)

theorem abs_unpack_q {w : Nat} (h : lowOf f w < f.numbers) : |(unpack f w).q| = magOf f (lowOf f w) := by
  rw [unpack_q h, abs_signedQ, abs_of_nonneg (magOf_nonneg _)]

/-- A pattern within the width is its sign and its low part. -/
theorem eq_of_sign_low {v w : Nat} (hv : v < 2 ^ f.width) (hw : w < 2 ^ f.width) (h1 : signOf f v = signOf f w)
    (h2 : lowOf f v = lowOf f w) : v = w := by
  have hone : ∀ {u : Nat}, u < 2 ^ f.width → u / 2 ^ (f.ebits + f.fbits) = if signOf f u then 1 else 0 := fun {u} hu => by
    have : u / 2 ^ (f.ebits + f.fbits) < 2 := by
      rw [Nat.div_lt_iff_lt_mul (by positivity), ← pow_succ']
      rwa [FFmt.width, Nat.add_assoc, Nat.add_comm] at hu
    simp only [signOf, bitAt, beq_iff_eq]
    generalize u / 2 ^ (f.ebits + f.fbits) = b at this
    split <;> omega
  have hd : v / 2 ^ (f.ebits + f.fbits) = w / 2 ^ (f.ebits + f.fbits) := by rw [hone hv, hone hw, h1]
  rw [← Nat.div_add_mod v (2 ^ (f.ebits + f.fbits)), ← Nat.div_add_mod w (2 ^ (f.ebits + f.fbits)), hd]
  exact congrArg _ h2

theorem width_eq (f : FFmt) : 2 ^ f.width = 2 ^ (f.ebits + f.fbits) * 2 := by
  rw [← pow_succ, FFmt.width, Nat.add_assoc, Nat.add_comm]

/-- The pattern of a sign and a low part. -/
theorem signBit_add {k : Nat} (hk : k < 2 ^ (f.ebits + f.fbits)) (s : Bool) :
    f.signBit s + k < 2 ^ f.width ∧ signOf f (f.signBit s + k) = s ∧ lowOf f (f.signBit s + k) = k := by
  have hw := width_eq f
  cases s
  · simp [FFmt.signBit, lowOf, signOf, bitAt, Nat.mod_eq_of_lt hk, Nat.div_eq_of_lt hk]
    omega
  · simp [FFmt.signBit, lowOf, signOf, bitAt, Nat.mod_eq_of_lt hk, Nat.add_div_left, Nat.div_eq_of_lt hk]
    omega

/-- The value of a number with the sign bit of its pattern. -/
theorem signOf_of_q {w : Nat} (hw : (unpack f w).num) (h0 : (unpack f w).q ≠ 0) : signOf f w = decide ((unpack f w).q < 0) := by
  rw [← unpack_neg hw.1]
  rcases FVal.num_cases hw (unpack_proper f w) with ⟨m, he⟩ | ⟨d, he, -⟩
  · rw [he] at h0; exact absurd (FVal.q_zero m) h0
  · rw [he]; exact FVal.neg_fin d

/-- A number other than zero has one pattern. -/
theorem pattern_unique {v w : Nat} (hv : v < 2 ^ f.width) (hw : w < 2 ^ f.width) (nv : (unpack f v).num)
    (nw : (unpack f w).num) (h : (unpack f v).q = (unpack f w).q) (h0 : (unpack f w).q ≠ 0) : v = w := by
  have lv := (num_iff v).1 nv
  have lw := (num_iff w).1 nw
  refine eq_of_sign_low hv hw ?_ ((magOf_strictMono (f := f)).injective ?_)
  · rw [signOf_of_q nv (h ▸ h0), signOf_of_q nw h0, h]
  · rw [← abs_unpack_q lv, ← abs_unpack_q lw, h]

variable (hs : f.Sane)
include hs

theorem FFmt.Sane.numbers_lt : f.numbers < 2 ^ (f.ebits + f.fbits) := by
  obtain ⟨h1, h2⟩ := hs.expTop
  rw [FFmt.numbers, pow_add]
  exact Nat.mul_lt_mul_of_pos_right (by omega) (by positivity)

/-- The pattern below all others: the largest number. -/
theorem lowOf_maxFin (neg : Bool) : lowOf f (f.maxFin neg) = f.numbers - 1 ∧ signOf f (f.maxFin neg) = neg := by
  obtain ⟨h1, h2⟩ := hs.expTop
  have h3 : 1 ≤ 2 ^ f.fbits := Nat.one_le_two_pow
  have hn : 0 < f.numbers := Nat.mul_pos (by omega) h3
  have hlt : f.numbers - 1 < 2 ^ (f.ebits + f.fbits) := by
    have : f.numbers ≤ 2 ^ (f.ebits + f.fbits) := by rw [FFmt.numbers, pow_add]; exact Nat.mul_le_mul_right _ (by omega)
    omega
  refine ⟨?_, ?_⟩
  · have : f.maxFin neg = (f.numbers - 1) + (if neg then 1 else 0) * 2 ^ (f.ebits + f.fbits) := by
      rw [FFmt.maxFin, FFmt.inf, FFmt.signBit, ← FFmt.numbers]
      cases neg
      · simp
      · simp only [if_true, one_mul]; omega
    rw [lowOf, this, Nat.add_mul_mod_self_right, Nat.mod_eq_of_lt hlt]
  · rw [hs.maxFin_eq]; exact signOf_bitsOf (by omega) (by omega)

/-- No number of a format lies beyond its largest one. -/
theorem abs_le_maxFin {w : Nat} (h : (unpack f w).num) : |(unpack f w).q| ≤ (unpack f (f.maxFin false)).q := by
  have hw := (num_iff w).1 h
  obtain ⟨hl, hsg⟩ := lowOf_maxFin hs false
  rw [abs_unpack_q hw, unpack_q (by rw [hl]; omega), hl, hsg]
  exact magOf_strictMono.monotone (by omega)

/-! ### A number of the format rounds to itself -/

theorem maxFin_lt_top : (unpack f (f.maxFin false)).q < 2 ^ (f.bias + 1) := by
  have htop : (2 : ℚ) ^ (f.bias + 1) = (2 ^ (f.fbits + 1) : Nat) * 2 ^ ((f.bias : Int) - f.fbits) := by
    rw [natPow_mul_zpow, ← zpow_natCast]; congr 1; push_cast; ring
  rw [hs.maxFin_q, htop]
  exact mul_lt_mul_of_pos_right (by linarith) (by positivity)

/-- Rounding a number of the format leaves its pattern. -/
theorem RoundsTo.of_number {mode : Nat} {z : Bool} {w : Nat} {r : Nat × Flags} (hm : mode < 4) (hw : w < 2 ^ f.width)
    (hn : (unpack f w).num) (h0 : (unpack f w).q ≠ 0) (h : RoundsTo f mode z (unpack f w).q r) : r = (w, 0) := by
  have hno : r.2 ≠ fOF ||| fNX := fun ho => by
    have hb := abs_le_maxFin hs hn
    have ht := maxFin_lt_top hs
    have := h.overflows.1 ho
    dsimp only at this
    split at this
    · linarith
    · rcases this with ⟨-, k⟩ | ⟨-, k⟩ <;> linarith
  obtain ⟨hlt, hnum⟩ := h.number hno
  have hsame : (unpack f r.1).q = (unpack f w).q := by
    interval_cases mode
    · have := (h.nearest hno rfl w hw hn).1
      rw [sub_self, abs_zero] at this
      exact sub_eq_zero.1 (abs_nonpos_iff.1 this)
    · obtain ⟨h1, h2⟩ := h.towardZero hno rfl
      have habs := le_antisymm h1 (h2 w hw hn le_rfl)
      have hr0 : (unpack f r.1).q ≠ 0 := by rw [← abs_pos, habs]; exact abs_pos.2 h0
      have hsign := (signOf_of_q hnum hr0).symm.trans (h.sign h0)
      rw [decide_eq_decide] at hsign
      rcases abs_eq_abs.1 habs with k | k
      · exact k
      · rcases lt_or_gt_of_ne h0 with j | j
        · have := hsign.2 j; linarith
        · exact absurd (hsign.1 (by linarith)) j.not_gt
    · obtain ⟨h1, h2⟩ := h.upward hno rfl
      exact le_antisymm (h2 w hw hn le_rfl) h1
    · obtain ⟨h1, h2⟩ := h.downward hno rfl
      exact le_antisymm h1 (h2 w hw hn le_rfl)
  exact Prod.ext (pattern_unique hlt hw hnum hn hsame h0) ((h.exact hno).2 hsame)

theorem rndDyZ_number {mode : Nat} {z : Bool} {w : Nat} {v : Dy} (hm : mode < 4) (hw : w < 2 ^ f.width)
    (hn : (unpack f w).num) (h0 : (unpack f w).q ≠ 0) (hv : dyQ v = (unpack f w).q) : rndDyZ f mode z v = (w, 0) := by
  have h := rndDyZ_roundsTo hs hm z v
  rw [hv] at h
  exact h.of_number hs hm hw hn h0

/-- What is no NaN is packed again as it was. -/
theorem packV_unpack {w : Nat} (hw : w < 2 ^ f.width) (hn : (unpack f w).isNan = false) : packV f (unpack f w) = w := by
  have hneg := unpack_neg hn
  have hle := (notNan_iff w).1 hn
  have hnum := hs.numbers_lt
  have hfin : (unpack f w).isInf = true → lowOf f w = f.numbers := fun hi => by
    by_contra hne
    have := ((num_iff (f := f) w).2 (by omega)).2
    rw [hi] at this; cases this
  cases hu : unpack f w with
  | nan s => rw [hu] at hn; cases hn
  | inf n =>
    rw [hu] at hneg
    obtain ⟨h1, h2, h3⟩ := signBit_add hnum n
    refine eq_of_sign_low h1 hw ?_ ?_
    · exact h2.trans hneg
    · rw [hfin (by rw [hu]; rfl)]; exact h3
  | zero n =>
    rw [hu] at hneg
    obtain ⟨h1, h2, h3⟩ := signBit_add (f := f) (k := 0) (by positivity) n
    refine eq_of_sign_low h1 hw ?_ ?_
    · exact h2.trans hneg
    · have hz : (unpack f w).q = 0 := by rw [hu]; simp
      have hl := (num_iff w).1 (by rw [hu]; exact FVal.num_zero n)
      have ha := abs_unpack_q hl
      rw [hz, abs_zero, ← magOf_zero (f := f)] at ha
      exact h3.trans (magOf_strictMono.injective ha)
  | fin v =>
    have hnumw : (unpack f w).num := by rw [hu]; exact FVal.num_fin v
    have hp := unpack_proper f w
    rw [hu] at hp
    have hr := rndDyZ_number hs (mode := 0) (z := 0 == 3) (v := v) (by decide) hw hnumw
      (by rw [hu]; exact FVal.q_ne_zero hp) (by rw [hu]; rfl)
    exact congrArg Prod.fst hr

end

end Sys2Proof.Machine
end

section
/-! SUPPORT. Selections, sign operations, scaling, interpolation and conversions of float values (04 R111, R112, 05 R144 to
R146). -/

namespace Sys2Proof.Machine

/-! ### FMIN and FMAX (04 R111) -/

section
variable {f : FFmt} {a b : Nat}

/-- Which operand FMIN and FMAX return. -/
theorem minmaxB_eq (max : Bool) : (minmaxB f max a b).1 =
    if (unpack f a).isNan then (if (unpack f b).isNan then f.qnan else b)
    else if (unpack f b).isNan then a
    else if ltV true (if max then unpack f a else unpack f b) (if max then unpack f b else unpack f a) then b else a := by
  simp only [minmaxB, pickMM]
  cases (unpack f a).isNan with
  | true => cases (unpack f b).isNan <;> rfl
  | false =>
    cases (unpack f b).isNan with
    | true => rfl
    | false =>
      simp only [Bool.and_self, Bool.false_eq_true, if_false]
      cases max with
      | false =>
        simp only [Bool.false_eq_true, if_false]
        cases ltV true (unpack f b) (unpack f a) <;> rfl
      | true =>
        simp only [if_true]
        cases ltV true (unpack f a) (unpack f b) <;> rfl

theorem minmaxB_number (max : Bool) (hx : (unpack f a).isNan = false) (hy : (unpack f b).isNan = false) :
    let w := (minmaxB f max a b).1
    (w = a ∨ w = b) ∧
      (max = true → ¬(unpack f w).less True (unpack f a) ∧ ¬(unpack f w).less True (unpack f b)) ∧
      (max = false → ¬(unpack f a).less True (unpack f w) ∧ ¬(unpack f b).less True (unpack f w)) := by
  have hlt := fun {u v : Nat} (hu : (unpack f u).isNan = false) (hv : (unpack f v).isNan = false) =>
    ltV_iff_rank hu hv (unpack_proper f u) (unpack_proper f v)
  have hw : (minmaxB f max a b).1 =
      if ltV true (if max then unpack f a else unpack f b) (if max then unpack f b else unpack f a) then b else a := by
    rw [minmaxB_eq, hx, hy]; rfl
  intro w
  have hwd : w = _ := hw
  cases max with
  | true =>
    simp only [if_true, hlt hx hy] at hwd
    by_cases h : (unpack f a).rank < (unpack f b).rank
    · rw [if_pos h] at hwd
      rw [hwd, not_less_iff_rank hy hx, not_less_iff_rank hy hy]
      exact ⟨.inr rfl, fun _ => ⟨h.le, le_rfl⟩, fun k => Bool.noConfusion k⟩
    · rw [if_neg h] at hwd
      rw [hwd, not_less_iff_rank hx hx, not_less_iff_rank hx hy]
      exact ⟨.inl rfl, fun _ => ⟨le_rfl, not_lt.1 h⟩, fun k => Bool.noConfusion k⟩
  | false =>
    simp only [Bool.false_eq_true, if_false, hlt hy hx] at hwd
    by_cases h : (unpack f b).rank < (unpack f a).rank
    · rw [if_pos h] at hwd
      rw [hwd, not_less_iff_rank hx hy, not_less_iff_rank hy hy]
      exact ⟨.inr rfl, fun k => Bool.noConfusion k, fun _ => ⟨h.le, le_rfl⟩⟩
    · rw [if_neg h] at hwd
      rw [hwd, not_less_iff_rank hx hx, not_less_iff_rank hy hx]
      exact ⟨.inl rfl, fun k => Bool.noConfusion k, fun _ => ⟨le_rfl, not_lt.1 h⟩⟩

end

/-! ### Operations on the sign, FSCL and FCLP (04 R112) -/

section
variable {f : FFmt} {mode a : Nat} {n : Int}

theorem signOps_nan (h : (unpack f a).isNan = true) :
    fabsB f a = (f.qnan, nvOf [unpack f a]) ∧ fnegB f a = (f.qnan, nvOf [unpack f a]) ∧
      fmovB f a = (f.qnan, nvOf [unpack f a]) ∧ fsclB f mode a n = (f.qnan, nvOf [unpack f a]) := by
  rw [nvOf_eq]
  obtain ⟨s, hs⟩ := FVal.isNan_iff.1 h
  simp only [fabsB, fnegB, fmovB, fsclB, hs]
  cases s <;> exact ⟨rfl, rfl, rfl, rfl⟩

theorem signOps_value (ha : a < 2 ^ f.width) (h : (unpack f a).isNan = false) :
    fabsB f a = (a % 2 ^ (f.ebits + f.fbits), 0) ∧
      fnegB f a = ((a + 2 ^ (f.ebits + f.fbits)) % 2 ^ f.width, 0) ∧ fmovB f a = (a, 0) := by
  have hlow : fld a 0 (f.ebits + f.fbits) = a % 2 ^ (f.ebits + f.fbits) := by rw [fld, pow_zero, Nat.div_one]
  have hsign : f.signBit (!(unpack f a).neg) + fld a 0 (f.ebits + f.fbits) = (a + 2 ^ (f.ebits + f.fbits)) % 2 ^ f.width := by
    rw [unpack_neg h, hlow, FFmt.signBit, signOf, bitAt]
    rw [width_eq] at ha ⊢
    have hdm := Nat.div_add_mod a (2 ^ (f.ebits + f.fbits))
    have hpos : 0 < 2 ^ (f.ebits + f.fbits) := by positivity
    have hml := Nat.mod_lt a hpos
    have hlt : a / 2 ^ (f.ebits + f.fbits) < 2 := by rw [Nat.div_lt_iff_lt_mul hpos, Nat.mul_comm]; exact ha
    generalize 2 ^ (f.ebits + f.fbits) = P at *
    generalize a % P = r at *
    generalize a / P = d at *
    interval_cases d
    · rw [Nat.mod_eq_of_lt (by omega : a + P < P * 2), ← hdm]
      simp; omega
    · rw [← hdm, show P * 1 + r + P = r + P * 2 by ring, Nat.add_mod_right, Nat.mod_eq_of_lt (by omega : r < P * 2)]
      simp
  rw [← hlow, ← hsign]
  simp only [fabsB, fnegB, fmovB]
  cases hu : unpack f a with
  | nan s => rw [hu] at h; cases h
  | _ => exact ⟨rfl, rfl, rfl⟩

theorem fsclB_still (h : (unpack f a).isNan = false) (hp : (unpack f a).isInf = true ∨ (unpack f a).q = 0) :
    fsclB f mode a n = (a, 0) := by
  have hu := unpack_proper f a
  simp only [fsclB]
  cases hx : unpack f a with
  | nan s => rw [hx] at h; cases h
  | fin d =>
    rw [hx] at hp hu
    rcases hp with hp | hp
    · cases hp
    · exact absurd hp (FVal.q_ne_zero hu)
  | _ => rfl

theorem fsclB_roundsTo (hs : f.Sane) (hm : mode < 4) (h : (unpack f a).num) (h0 : (unpack f a).q ≠ 0) :
    RoundsTo f mode false ((unpack f a).q * (2 : ℚ) ^ n) (fsclB f mode a n) := by
  rcases FVal.num_cases h (unpack_proper f a) with ⟨m, hx⟩ | ⟨d, hx, hd⟩
  · rw [hx] at h0; exact absurd (FVal.q_zero m) h0
  · simp only [fsclB, hx, FVal.q_fin]
    rw [← dyQ_shift]
    exact (rndDy_roundsTo hs hm _).anySign fun k => hd ((dyQ_eq_zero (v := ⟨d.m, d.e + n⟩)).1 k)

theorem fclpB_spec (f : FFmt) (a b t : Nat) :
    (fclpB f a b t).2 = nvOf [unpack f a, unpack f b, unpack f t] ∧
      (fclpB f a b t).1 = if (unpack f a).isNan then f.qnan else (minmaxB f true b (minmaxB f false a t).1).1 := by
  rw [nvOf_eq, fclpB]
  split <;> exact ⟨rfl, rfl⟩

end

/-! ### FLRP (04 R112) -/

section
variable {f : FFmt} {mode : Nat} {x y z : FVal}

theorem lrpV_nan (h : x.isNan = true ∨ y.isNan = true ∨ z.isNan = true) : lrpV f mode x y z = (f.qnan, nvS [x, y, z]) := by
  rw [lrpV, if_pos (by simpa [or_assoc] using h)]

theorem lrpV_same_inf (m : Bool) (hz : z.isNan = false) : lrpV f mode (.inf m) (.inf m) z = (f.qnan, fNV) := by
  rw [lrpV, hz]
  cases m <;> rfl

theorem lrpV_zero_inf (hx : x.isNan = false) (hy : y.isNan = false) (n : Bool) (h : x.isInf = true ∨ y.isInf = true) :
    lrpV f mode x y (.zero n) = (f.qnan, fNV) := by
  have hz : (FVal.zero n).isNan = false := rfl
  have hinf : (x.isInf || y.isInf) = true := by simpa using h
  simp only [lrpV, hx, hy, hz, hinf, Bool.or_self, Bool.false_eq_true, if_false, if_true, ite_self, invalid]

theorem lrpV_inf_equal (hx : x.num) (hy : y.num) (h : x.q = y.q) (m : Bool) : lrpV f mode x y (.inf m) = (f.qnan, fNV) := by
  have hz : (FVal.inf m).isNan = false := rfl
  have hd : (Dy.sub y.dy x.dy).m = 0 := dyQ_eq_zero.1 (by rw [dyQ_sub]; exact sub_eq_zero.2 h.symm)
  simp only [lrpV, hx.1, hy.1, hx.2, hy.2, hz, hd, Bool.or_self, Bool.and_self, Bool.false_and, Bool.false_eq_true, if_false,
    if_true, invalid]

theorem lrpV_zero (hx : x.num) (hy : y.num) (n : Bool) : lrpV f mode x y (.zero n) = (packV f x, 0) := by
  have hz : (FVal.zero n).isNan = false := rfl
  simp only [lrpV, hx.1, hy.1, hx.2, hy.2, hz, Bool.or_self, Bool.and_self, Bool.false_and, Bool.false_eq_true, if_false]

theorem lrpV_one {d : Dy} (hx : x.isNan = false) (hy : y.isNan = false) (hd : dyQ d = 1)
    (h : ¬∃ m, x = .inf m ∧ y = .inf m) : lrpV f mode x y (.fin d) = (packV f y, 0) := by
  have hz : (FVal.fin d).isNan = false := rfl
  have hone : Dy.eq d (Dy.ofInt 1) = true := by rw [Dy.eq_iff, hd, dyQ_ofInt, Int.cast_one]
  have hinf : (x.isInf && y.isInf && x.neg == y.neg) = false := by
    cases x with
    | inf m =>
      cases y with
      | inf n =>
        have hmn : m ≠ n := fun k => h ⟨m, rfl, by rw [k]⟩
        exact beq_eq_false_iff_ne.2 hmn
      | _ => rfl
    | _ => rfl
  simp only [lrpV, hx, hy, hz, hinf, hone, Bool.or_self, Bool.false_eq_true, if_false, if_true]

/-- Beside a factor 1, FLRP of numbers rounds the exact sum once. -/
theorem lrpV_fin {d : Dy} (hs : f.Sane) (hm : mode < 4) (hx : x.num) (hy : y.num) (hd : dyQ d ≠ 1) :
    ∃ s, RoundsTo f mode s (x.q + dyQ d * (y.q - x.q)) (lrpV f mode x y (.fin d)) := by
  have hz : (FVal.fin d).isNan = false := rfl
  have hone : Dy.eq d (Dy.ofInt 1) = false := by
    rw [Bool.eq_false_iff, Ne, Dy.eq_iff, dyQ_ofInt, Int.cast_one]; exact hd
  have hsub : dyQ (Dy.sub y.dy x.dy) = y.q - x.q := dyQ_sub _ _
  simp only [lrpV, hx.1, hy.1, hx.2, hy.2, hz, hone, Bool.or_self, Bool.and_self, Bool.false_and, Bool.false_eq_true, if_false]
  by_cases h0 : (Dy.sub y.dy x.dy).m = 0
  · have hzero : y.q - x.q = 0 := by rw [← hsub]; exact dyQ_eq_zero.2 h0
    have hr := fun s => rndDyZ_roundsTo hs hm s (Dy.add x.dy Dy.zero)
    rw [dyQ_add, dyQ_zero] at hr
    rw [hzero, mul_zero]
    simp only [h0, if_true]
    exact ⟨_, hr _⟩
  · have hr := fun s => rndDyZ_roundsTo hs hm s (Dy.add x.dy (Dy.mul d (Dy.sub y.dy x.dy)))
    rw [dyQ_add, dyQ_mul, hsub] at hr
    simp only [h0, if_false]
    exact ⟨_, hr _⟩

end

/-! ### Conversions (05 R144 to R146) -/

section
variable {f g : FFmt} {mode a : Nat}

theorem cvtB_nan (h : (unpack f a).isNan = true) : cvtB f g mode a = (g.qnan, nvOf [unpack f a]) := by
  rw [nvOf_eq]
  obtain ⟨s, hs⟩ := FVal.isNan_iff.1 h
  simp only [cvtB, hs]
  cases s <;> rfl

theorem cvtB_roundsTo (hs : g.Sane) (hm : mode < 4) (h : (unpack f a).num) :
    RoundsTo g mode (unpack f a).neg (unpack f a).q (cvtB f g mode a) := by
  rcases FVal.num_cases h (unpack_proper f a) with ⟨m, hx⟩ | ⟨d, hx, hd⟩
  · simp only [cvtB, hx, FVal.q_zero]
    exact roundsTo_zero hs m
  · simp only [cvtB, hx, FVal.q_fin]
    exact (rndDy_roundsTo hs hm d).anySign fun k => hd (dyQ_eq_zero.1 k)

theorem fmtOf_sane (t : Ty) : (fmtOf t).Sane := sane_of (by cases t <;> simp [fmtOf])

theorem cvifB_roundsTo (hm : mode < 4) (s t : Ty) (b : Nat) :
    RoundsTo (fmtOf s) mode false (valI t b) (cvifB t s mode b) := by
  have h := rndDyZ_roundsTo (fmtOf_sane s) hm false (Dy.ofInt (valI t b))
  rwa [dyQ_ofInt] at h

end

section
variable {s t : Ty} {mode a : Nat}

/-- The ends of an integer type. -/
theorem loI_hiI (t : Ty) (ht : t ∈ tysI) : loI t = (if tySigned t then -2 ^ (tyBits t - 1) else 0) ∧
    hiI t = (if tySigned t then 2 ^ (tyBits t - 1) - 1 else 2 ^ tyBits t - 1) ∧ loI t ≤ 0 ∧ 0 ≤ hiI t := by
  revert ht; cases t <;> decide

theorem cvfiB_nan (h : (unpack (fmtOf s) a).isNan = true) : cvfiB s t mode a = (0, fNV) := by
  obtain ⟨n, hn⟩ := FVal.isNan_iff.1 h
  simp only [cvfiB, hn]

theorem cvfiB_num (hm : mode < 4) (ht : t ∈ tysI) (h : (unpack (fmtOf s) a).num) :
    let v := roundInt mode (unpack (fmtOf s) a).q
    cvfiB s t mode a = if v < loI t then (toW t (loI t), fNV) else if hiI t < v then (toW t (hiI t), fNV)
      else (toW t v, if (v : ℚ) = (unpack (fmtOf s) a).q then 0 else fNX) := by
  intro v
  rcases FVal.num_cases h (unpack_proper _ a) with ⟨m, hx⟩ | ⟨d, hx, hd⟩
  · have hv : v = 0 := by
      show roundInt mode (unpack (fmtOf s) a).q = 0
      rw [hx, FVal.q_zero]
      interval_cases mode <;> simp [roundInt]
    obtain ⟨-, -, h1, h2⟩ := loI_hiI t ht
    rw [hv, if_neg h1.not_gt, if_neg h2.not_gt]
    simp [cvfiB, hx, toW, wrapN]
  · have hv : v = (toInt mode d).1 := by
      show roundInt mode (unpack (fmtOf s) a).q = _
      rw [hx, toInt_eq hm]; rfl
    have he : (((toInt mode d).1 : ℚ) = (FVal.fin d).q) ↔ (toInt mode d).2 = true := (toInt_exact mode d).symm
    simp only [cvfiB, hv, hx, he]

end

/-- A number is itself rounded once, for the sign that its zero has. -/
theorem roundsTo_self {f : FFmt} {mode w : Nat} (hs : f.Sane) (hm : mode < 4) (hw : w < 2 ^ f.width)
    (hn : (unpack f w).num) : ∃ s, RoundsTo f mode s (unpack f w).q (w, 0) := by
  by_cases h0 : (unpack f w).q = 0
  · obtain ⟨m, hm⟩ := (FVal.q_eq_zero hn (unpack_proper f w)).1 h0
    have hp := packV_unpack hs hw hn.1
    rw [hm] at hp
    refine ⟨m, ?_⟩
    rw [h0, ← hp]; exact roundsTo_zero hs m
  · refine ⟨false, ?_⟩
    have h := rndDyZ_roundsTo hs hm false (unpack f w).dy
    rwa [rndDyZ_number hs hm hw hn h0 rfl] at h

/-! ### The statement's second part -/

theorem selections_and_scaling (f : FFmt) (mode a b t : Nat) (n : Int) (hf : f = .f32 ∨ f = .bf16 ∨ f = .f16)
    (hm : mode < 4) (ha : a < 2 ^ f.width) (hb : b < 2 ^ f.width) :
    let x := unpack f a
    let y := unpack f b
    let z := unpack f t
    let low := 2 ^ (f.ebits + f.fbits)
    let nan := (f.qnan, nvOf [x])
    (∀ max, (minmaxB f max a b).2 = nvOf [x, y] ∧
      let w := (minmaxB f max a b).1
      (x.isNan = true → y.isNan = true → w = f.qnan) ∧ (x.isNan = true → y.isNan = false → w = b) ∧
      (x.isNan = false → y.isNan = true → w = a) ∧
      (x.isNan = false → y.isNan = false → (w = a ∨ w = b) ∧
        (max = true → ¬(unpack f w).less True x ∧ ¬(unpack f w).less True y) ∧
        (max = false → ¬x.less True (unpack f w) ∧ ¬y.less True (unpack f w)))) ∧
    (x.isNan = true → fabsB f a = nan ∧ fnegB f a = nan ∧ fmovB f a = nan ∧ fsclB f mode a n = nan) ∧
    (x.isNan = false → fabsB f a = (a % low, 0) ∧ fnegB f a = ((a + low) % 2 ^ f.width, 0) ∧ fmovB f a = (a, 0) ∧
      (x.isInf = true ∨ x.q = 0 → fsclB f mode a n = (a, 0)) ∧
      (x.num → x.q ≠ 0 → RoundsTo f mode false (x.q * (2 : ℚ) ^ n) (fsclB f mode a n))) ∧
    (fclpB f a b t).2 = nvOf [x, y, z] ∧
    (fclpB f a b t).1 = (if x.isNan then f.qnan else (minmaxB f true b (minmaxB f false a t).1).1) ∧
    (x.isNan = true ∨ y.isNan = true ∨ z.isNan = true → flrpB f mode a b t = (f.qnan, nvOf [x, y, z])) ∧
    (x.isNan = false → y.isNan = false → z.isNan = false →
      (∀ m, x = .inf m → y = .inf m → flrpB f mode a b t = (f.qnan, fNV)) ∧
      (z.q = 0 → z.num → x.isInf = true ∨ y.isInf = true → flrpB f mode a b t = (f.qnan, fNV)) ∧
      (z.isInf = true → x.num → y.num → x.q = y.q → flrpB f mode a b t = (f.qnan, fNV)) ∧
      (x.num → y.num → z.num → ∃ s, RoundsTo f mode s (x.q + z.q * (y.q - x.q)) (flrpB f mode a b t)) ∧
      (x.num → z.num → z.q = 0 → y.num → flrpB f mode a b t = (a, 0)) ∧
      (z.q = 1 → ¬(∃ m, x = .inf m ∧ y = .inf m) → flrpB f mode a b t = (b, 0))) := by
  have hs := sane_of hf
  intro x y z low nan
  have pz : z.proper := unpack_proper f t
  have hlrp : flrpB f mode a b t = lrpV f mode x y z := rfl
  refine ⟨fun max => ⟨(nvOf_eq _).symm, ?_⟩, signOps_nan, fun hx => ?_, (fclpB_spec f a b t).1, (fclpB_spec f a b t).2,
    fun h => by rw [hlrp, nvOf_eq]; exact lrpV_nan h, fun hx hy hz => ?_⟩
  · rw [minmaxB_eq]
    refine ⟨fun hx hy => ?_, fun hx hy => ?_, fun hx hy => ?_, fun hx hy => ?_⟩
    · rw [if_pos hx, if_pos hy]
    · rw [if_pos hx, if_neg (by rw [hy]; decide)]
    · rw [if_neg (by rw [hx]; decide), if_pos hy]
    · rw [← minmaxB_eq]; exact minmaxB_number max hx hy
  · obtain ⟨h1, h2, h3⟩ := signOps_value ha hx
    exact ⟨h1, h2, h3, fsclB_still hx, fsclB_roundsTo hs hm⟩
  · rw [hlrp]
    have hpa : packV f x = a := packV_unpack hs ha hx
    have hpb : packV f y = b := packV_unpack hs hb hy
    refine ⟨?_, fun h0 hn hi => ?_, fun hi hxn hyn he => ?_, fun hxn hyn hzn => ?_, fun hxn hzn h0 hyn => ?_, fun h1 hinf => ?_⟩
    · intro m hxm hym; rw [hxm, hym]; exact lrpV_same_inf m hz
    · obtain ⟨m, hm⟩ := (FVal.q_eq_zero hn pz).1 h0
      rw [hm]; exact lrpV_zero_inf hx hy m hi
    · obtain ⟨m, hm⟩ := FVal.isInf_iff.1 hi
      rw [hm]; exact lrpV_inf_equal hxn hyn he m
    · rcases FVal.num_cases hzn pz with ⟨m, h0⟩ | ⟨d, hd, -⟩
      · rw [h0, lrpV_zero hxn hyn, FVal.q_zero, zero_mul, add_zero, hpa]; exact roundsTo_self hs hm ha hxn
      · rw [hd, FVal.q_fin]
        by_cases h1 : dyQ d = 1
        · rw [lrpV_one hx hy h1 (fun ⟨m, hm, _⟩ => FVal.not_num_inf m (hm ▸ hxn)), h1, one_mul, add_sub_cancel, hpb]
          exact roundsTo_self hs hm hb hyn
        · exact lrpV_fin hs hm hxn hyn h1
    · obtain ⟨m, hm⟩ := (FVal.q_eq_zero hzn pz).1 h0
      rw [hm, lrpV_zero hxn hyn, hpa]
    · have hzn : z.num := by
        refine ⟨hz, ?_⟩
        cases hzi : z.isInf with
        | false => rfl
        | true =>
          obtain ⟨m, hm⟩ := FVal.isInf_iff.1 hzi
          rw [hm] at h1; exact absurd (h1.symm.trans dyQ_zero) one_ne_zero
      rcases FVal.num_cases hzn pz with ⟨m, hm⟩ | ⟨d, hd, -⟩
      · rw [hm, FVal.q_zero] at h1; exact absurd h1 zero_ne_one
      · rw [hd, FVal.q_fin] at h1
        rw [hd, lrpV_one hx hy h1 hinf, hpb]

theorem conversions (s t : Ty) (mode a : Nat) (ht : t ∈ tysI) (hm : mode < 4) :
    let x := unpack (fmtOf s) a
    let lo : Int := if tySigned t then -2 ^ (tyBits t - 1) else 0
    let hi : Int := if tySigned t then 2 ^ (tyBits t - 1) - 1 else 2 ^ tyBits t - 1
    let v := roundInt mode x.q
    let pat := fun (n : Int) => (BitVec.ofInt (tyBits t) n).toNat
    (x.isNan = true → cvfiB s t mode a = (0, fNV)) ∧
    (∀ n, x = .inf n → cvfiB s t mode a = (pat (if n then lo else hi), fNV)) ∧
    (x.num → cvfiB s t mode a = if v < lo then (pat lo, fNV) else if hi < v then (pat hi, fNV)
      else (pat v, if (v : ℚ) = x.q then 0 else fNX)) ∧
    (∀ b, RoundsTo (fmtOf s) mode false (valI t b) (cvifB t s mode b)) := by
  intro x lo hi v pat
  obtain ⟨hlo, hhi, -, -⟩ := loI_hiI t ht
  have hpat : ∀ n, pat n = toW t n := fun n => (wrapN_eq_ofInt _ n).symm
  refine ⟨cvfiB_nan, fun n hn => ?_, fun h => ?_, cvifB_roundsTo hm s t⟩
  · have hn' : unpack (fmtOf s) a = .inf n := hn
    rw [hpat]
    simp only [cvfiB, hn', hlo, hhi, lo, hi]
  · rw [hpat, hpat, hpat, cvfiB_num hm ht h, hlo, hhi]

end Sys2Proof.Machine
end

section
/-! O19: DQBK, DCF4, NWSL and NWPK (05 R150 to R153). -/

namespace Sys2Proof.Machine

/-! ### What the four ops write -/

section
variable {s u : State} {o : SlotOp} {bits : Nat}

theorem predFlags_map (pred n : Nat) (r : Nat → Nat × Flags) :
    predFlags pred ((List.range n).map r) = flagsOf n (bitAt pred) fun e => (r e).2 := by
  have hz : (List.range n).zip ((List.range n).map r) = (List.range n).map fun e => (e, r e) := by
    conv_lhs => rw [← List.map_id (List.range n)]
    rw [List.map_map, List.zip_map']; rfl
  simp only [predFlags, flagsOf, List.length_map, List.length_range, hz, List.map_map, Function.comp_def]

/-- The result of DQBK at a place. -/
def dqbkElem (s : State) (o : SlotOp) (bits e : Nat) : Nat × Flags :=
  decodeNarrow (fmtOf o.ty) (rmodeOf s) (blockKind o.opx.val (blockSb o.opx.val bits (e / 32)))
    (blockCode o.opx.val bits (e / 32) (e % 32))

/-- The result of DCF4 at a place. -/
def dcf4Elem (s : State) (o : SlotOp) (bits n e : Nat) : Nat × Flags :=
  rndDyZ (fmtOf o.ty) (rmodeOf s) false ⟨(codeVal o.opx.val (fld bits (8 * e) 8 % 16)).m,
    (codeVal o.opx.val (fld bits (8 * e) 8 % 16)).e + max (-1000) (min 1000 (BitVec.ofNat 32 n).toInt)⟩

/-- An op that writes a result and its flags at every place of the shape. -/
theorem writesTile_results {i : Instr} {place : Nat} {r : Nat → Nat × Flags} (hgo : s.verdict = .go) (hx : s.cur.stream = .x)
    (hu : u = { s with bnd := u.bnd }) (hbig : tooBig s o.ty = false)
    (he : exec i s = slot i s ((writeTile place o.ty o.dst (predOf s o) (((indices s).map r).map Prod.fst) u).map
      (addFlags (predFlags (predOf s o) ((indices s).map r))))) :
    WritesTile s i o.dst o.ty (bitAt (predOf s o)) (fun e => (r e).1)
      (flagsOf (elemsOf s) (bitAt (predOf s o)) fun e => (r e).2) := by
  rw [List.map_map] at he
  rw [← predFlags_map]
  exact writesTile_of hgo hx hu hbig he

theorem exec_dqbk (hbig : tooBig s o.ty = false) (hshape : blockShape s (if o.opx.val = 0 then 17 else 33) = true)
    (hf : fetch s 5 .n8 o.a = .ok (.tile bits, u)) :
    exec (.dqbk o) s = slot (.dqbk o) s ((writeTile 5 o.ty o.dst (predOf s o)
      (((indices s).map (dqbkElem s o bits)).map Prod.fst) u).map
        (addFlags (predFlags (predOf s o) ((indices s).map (dqbkElem s o bits))))) := by
  have hexec : exec (.dqbk o) s = execDqbk o s := rfl
  rw [hexec, execDqbk, hbig, hshape, hf, ← writeTile_bind_addFlags]
  obtain ⟨b, rfl⟩ : ∃ b, u = { s with bnd := b } := ⟨_, fetch_frame hf⟩
  rfl

/-- The exponent that DCF4 adds, saturated. -/
theorem satI_signed (n : Nat) : satI (signed 32 n) (-1000) 1000 = max (-1000) (min 1000 (BitVec.ofNat 32 n).toInt) := by
  rw [signed_eq_toInt, satI]
  split_ifs <;> omega

theorem exec_dcf4 {n : Nat} (hbig : tooBig s o.ty = false) (hf : fetch s 5 .n8 o.a = .ok (.tile bits, u))
    (hn : fetch32 u 5 o.b = .ok n) :
    exec (.dcf4 o) s = slot (.dcf4 o) s ((writeTile 5 o.ty o.dst (predOf s o)
      (((indices s).map (dcf4Elem s o bits n)).map Prod.fst) u).map
        (addFlags (predFlags (predOf s o) ((indices s).map (dcf4Elem s o bits n))))) := by
  have hexec : exec (.dcf4 o) s = execDcf4 o s := rfl
  rw [hexec, execDcf4, hbig, hf, ← writeTile_bind_addFlags]
  obtain ⟨b, rfl⟩ : ∃ b, u = { s with bnd := b } := ⟨_, fetch_frame hf⟩
  simp only [bind, Except.bind, hn, satI_signed, Bool.false_eq_true, if_false]
  rfl

/-- NWSL's results, block by block. -/
def nwslResults (s : State) (o : SlotOp) (bits : Nat) : List (List Nat × Flags) :=
  (List.range (elemsOf s / 32)).map fun b =>
    sliceBlock o.opx.val (blockSb 2 bits b) ((List.range 32).map fun i => blockCode 2 bits b i)

theorem exec_nwsl (hshape : blockShape s 33 = true) (hf : fetch s 5 .n8 o.a = .ok (.tile bits, u)) :
    exec (.nwsl o) s = slot (.nwsl o) s ((writeTile 5 .n8 o.dst allTrue ((nwslResults s o bits).flatMap Prod.fst) u).map
      (addFlags (orFlags ((nwslResults s o bits).map Prod.snd)))) := by
  have hexec : exec (.nwsl o) s = execNwsl o s := rfl
  rw [hexec, execNwsl, hshape, hf, ← writeBytes_bind_addFlags]
  obtain ⟨b, rfl⟩ : ∃ b, u = { s with bnd := b } := ⟨_, fetch_frame hf⟩
  rfl

/-- The codes of block `b` of an NW8 tile. -/
def nwCodes (bits b : Nat) : List Nat := (List.range 32).map fun i => blockCode 2 bits b i

/-- The bytes of plane `p` of block `b`. -/
def planeBytes (bits p b : Nat) : List Nat :=
  let w := planeWord p (nwCodes bits b)
  [w % 256, w / 256 % 256, w / 65536 % 256, w / 16777216]

/-- NWPK's bytes: the planes of all blocks, then their scale bytes. -/
def nwpkBytes (nb bits : Nat) : List Nat :=
  ((List.range 8).flatMap fun p => (List.range nb).flatMap (planeBytes bits p)) ++ (List.range nb).map (blockSb 2 bits)

theorem exec_nwpk (hshape : blockShape s 33 = true) (hf : fetch s 5 .n8 o.a = .ok (.tile bits, u)) :
    exec (.nwpk o) s = slot (.nwpk o) s (writeTile 5 .n8 o.dst allTrue (nwpkBytes (elemsOf s / 32) bits) u) := by
  have hexec : exec (.nwpk o) s = execNwpk o s := rfl
  rw [hexec, execNwpk, hshape, hf]
  obtain ⟨b, rfl⟩ : ∃ b, u = { s with bnd := b } := ⟨_, fetch_frame hf⟩
  rfl

theorem sliceBlock_length (sl sb : Nat) (codes : List Nat) :
    (sliceBlock sl sb codes).1.length = (if sl < 2 then 16 else 32) + 1 := by
  have hf4 : (if decide (sl < 2) then 16 else 32) = if sl < 2 then 16 else 32 := by simp
  rw [← hf4]
  unfold sliceBlock
  dsimp only
  split
  · exact packBlock_length ..
  · exact packBlock_length ..
  · split
    · exact packBlock_length ..
    · exact packBlock_length ..
    · next h0 h1 =>
      have h0' : sl ≠ 0 := h0
      have h1' : sl ≠ 1 := h1
      rw [decide_eq_false (show ¬sl < 2 by omega)]
      split <;> exact packBlock_length ..

theorem blockShape_le {bytes : Nat} (h : blockShape s bytes = true) : elemsOf s / 32 * bytes ≤ 4096 := by
  simp only [blockShape, Bool.and_eq_true, decide_eq_true_eq] at h
  exact h.2

theorem nwsl_writes (hgo : s.verdict = .go) (hx : s.cur.stream = .x) (hshape : blockShape s 33 = true)
    (hf : fetch s 5 .n8 o.a = .ok (.tile bits, u)) :
    WritesElems s (.nwsl o) o.dst .n8 ((nwslResults s o bits).flatMap Prod.fst).length (fun _ => true)
      (fun i => ((nwslResults s o bits).flatMap Prod.fst).getD i 0) (orFlags ((nwslResults s o bits).map Prod.snd)) := by
  refine writesBytes_of hgo hx (fetch_frame hf) ?_ (exec_nwsl hshape hf)
  have hsum : ((nwslResults s o bits).flatMap Prod.fst).length = elemsOf s / 32 * ((if o.opx.val < 2 then 16 else 32) + 1) := by
    simp only [nwslResults, List.length_flatMap, List.map_map, Function.comp_def, sliceBlock_length]
    simp
  rw [hsum]
  exact (Nat.mul_le_mul_left _ (by split <;> omega)).trans (blockShape_le hshape)

/-! ### The bytes of NWPK (05 R153) -/

/-- The place of an element in a row of lists of one length. -/
theorem getD_flatMap_range {α : Type} (g : Nat → List α) (d : α) {n L : Nat} (hL : ∀ p, (g p).length = L) {e : Nat}
    (he : e < n * L) : ((List.range n).flatMap g).getD e d = (g (e / L)).getD (e % L) d := by
  have hlen : ∀ n, ((List.range n).flatMap g).length = n * L := fun n => by simp [List.length_flatMap, hL]
  induction n with
  | zero => omega
  | succ n ih =>
    rw [List.range_succ, List.flatMap_append, List.flatMap_singleton]
    rcases Nat.lt_or_ge e (n * L) with h | h
    · rw [List.getD_append _ _ _ _ (by rw [hlen]; exact h), ih h]
    · have hlt : e - n * L < L := by rw [Nat.succ_mul] at he; omega
      have hpos : 0 < L := by omega
      have hdiv : e / L = n := Nat.div_eq_of_lt_le h (by rw [Nat.mul_comm (n + 1)] at he; rwa [Nat.mul_comm (n + 1)])
      have hmod : e % L = e - n * L := by
        have := Nat.div_add_mod e L
        rw [hdiv, Nat.mul_comm] at this; omega
      rw [List.getD_append_right _ _ _ _ (by rw [hlen]; exact h), hlen, hdiv, hmod]

/-- The number of the bits `g 0`, `g 1`, … below `n`. -/
def bitSum (n : Nat) (g : Nat → Bool) : Nat := ((List.range n).map fun i => if g i then 2 ^ i else 0).sum

theorem bitSum_succ (n : Nat) (g : Nat → Bool) : bitSum (n + 1) g = bitSum n g + if g n then 2 ^ n else 0 := by
  simp [bitSum, List.range_succ]

theorem bitSum_lt (n : Nat) (g : Nat → Bool) : bitSum n g < 2 ^ n := by
  induction n with
  | zero => simp [bitSum]
  | succ n ih => rw [bitSum_succ, pow_succ]; split <;> omega

theorem bitSum_add (a b : Nat) (g : Nat → Bool) : bitSum (a + b) g = bitSum a g + 2 ^ a * bitSum b fun i => g (a + i) := by
  induction b with
  | zero => simp [bitSum]
  | succ b ih =>
    rw [← Nat.add_assoc, bitSum_succ, ih, bitSum_succ, Nat.mul_add, Nat.add_assoc]
    congr 2
    split
    · rw [pow_add]
    · rfl

/-- A byte of a number of bits. -/
theorem bitSum_byte (a b : Nat) (g : Nat → Bool) :
    bitSum (a + 8 + b) g / 2 ^ a % 256 = bitSum 8 fun i => g (a + i) := by
  rw [Nat.add_assoc, bitSum_add, Nat.add_mul_div_left _ _ (by positivity), Nat.div_eq_of_lt (bitSum_lt ..), Nat.zero_add, bitSum_add]
  exact (Nat.add_mul_mod_self_left _ 256 _).trans (Nat.mod_eq_of_lt (bitSum_lt 8 _))

theorem planeWord_eq (bits p b : Nat) : planeWord p (nwCodes bits b) = bitSum 32 fun i => bitAt (blockCode 2 bits b i) (7 - p) := by
  rfl

/-- A byte of a plane. -/
theorem planeBytes_getD (bits p b : Nat) {k : Nat} (hk : k < 4) : (planeBytes bits p b).getD k 0 =
    bitSum 8 fun j => bitAt (blockCode 2 bits b (8 * k + j)) (7 - p) := by
  have hlt := bitSum_lt 32 fun i => bitAt (blockCode 2 bits b i) (7 - p)
  have h := bitSum_byte (8 * k) (24 - 8 * k) fun i => bitAt (blockCode 2 bits b i) (7 - p)
  rw [show 8 * k + 8 + (24 - 8 * k) = 32 by omega] at h
  rw [← h, ← planeWord_eq]
  rw [← planeWord_eq] at hlt
  interval_cases k
  · simp [planeBytes]
  · simp [planeBytes]
  · simp [planeBytes]
  · simp only [planeBytes, List.getD_cons_succ, List.getD_cons_zero]
    norm_num
    omega

theorem planes_length (nb bits : Nat) :
    ((List.range 8).flatMap fun p => (List.range nb).flatMap (planeBytes bits p)).length = 32 * nb := by
  simp only [List.length_flatMap, planeBytes, List.length_cons, List.length_nil]
  simp; ring

theorem nwpkBytes_getD (nb bits : Nat) {e : Nat} (he : e < 33 * nb) : (nwpkBytes nb bits).getD e 0 =
    if e < 32 * nb then bitSum 8 fun k => bitAt (blockCode 2 bits (e % (4 * nb) / 4) (8 * (e % 4) + k)) (7 - e / (4 * nb))
    else blockSb 2 bits (e - 32 * nb) := by
  have hrow : ∀ p, ((List.range nb).flatMap (planeBytes bits p)).length = 4 * nb := fun p => by
    simp only [List.length_flatMap, planeBytes, List.length_cons, List.length_nil]
    simp; ring
  split
  · next h =>
    have hpos : 0 < 4 * nb := by omega
    have hmod : e % (4 * nb) % 4 = e % 4 := Nat.mod_mod_of_dvd _ (Dvd.intro nb rfl)
    rw [nwpkBytes, List.getD_append _ _ _ _ (by rw [planes_length]; exact h),
      getD_flatMap_range _ _ hrow (by omega), getD_flatMap_range _ _ (L := 4) (fun _ => rfl) (by have := Nat.mod_lt e hpos; omega),
      hmod, planeBytes_getD _ _ _ (Nat.mod_lt _ (by decide))]
  · next h =>
    rw [nwpkBytes, List.getD_append_right _ _ _ _ (by rw [planes_length]; omega), planes_length,
      getD_map_range _ _ (by omega)]

theorem nwpk_writes (hgo : s.verdict = .go) (hx : s.cur.stream = .x) (hshape : blockShape s 33 = true)
    (hf : fetch s 5 .n8 o.a = .ok (.tile bits, u)) :
    WritesElems s (.nwpk o) o.dst .n8 (33 * (elemsOf s / 32)) (fun _ => true) (fun e =>
      if e < 32 * (elemsOf s / 32) then
        bitSum 8 fun k => bitAt (blockCode 2 bits (e % (4 * (elemsOf s / 32)) / 4) (8 * (e % 4) + k)) (7 - e / (4 * (elemsOf s / 32)))
      else blockSb 2 bits (e - 32 * (elemsOf s / 32))) 0 := by
  have hle := blockShape_le hshape
  have hlen : (nwpkBytes (elemsOf s / 32) bits).length = 33 * (elemsOf s / 32) := by
    rw [nwpkBytes, List.length_append, planes_length, List.length_map, List.length_range]; ring
  have h := writesElems_plain hgo hx (fetch_frame hf) (by rw [show tyBytes .n8 = 1 from rfl]; omega) (exec_nwpk hshape hf)
  rw [hlen] at h
  exact h.congr (fun e he => bitAt_allTrue (by omega)) fun e he => nwpkBytes_getD _ _ he

end

end Sys2Proof.Machine
end

section
/-! O19: the values of the codes, the decoding of a code at its block's scale, and the slices of an NW8 block (03 R84 to R92,
05 R152). -/

namespace Sys2Proof.Machine

/-! ### The values of the codes (03 R87 to R90) -/

theorem codeVal_f4 {c : Nat} (hc : c < 16) :
    let at_ := fun (l : List ℚ) => (if c < 8 then 1 else -1) * l.getD (c % 8) 0
    dyQ (codeVal 0 c) = c - 15 / 2 ∧ dyQ (codeVal 1 c) = at_ [0, 1 / 2, 1, 3 / 2, 2, 3, 4, 6] ∧
      dyQ (codeVal 2 c) = at_ [0, 1 / 8, 1 / 4, 1 / 2, 1, 2, 4, 8] ∧ dyQ (codeVal 3 c) = at_ [0, 1, 2, 3, 4, 6, 8, 12] := by
  intro at_
  refine ⟨?_, ?_⟩
  · rw [codeVal_uni, Nat.mod_eq_of_lt hc]; push_cast; ring
  · have hbit : bitAt c 3 = decide (¬c < 8) := by interval_cases c <;> decide
    have hval : ∀ ty, ty = 1 ∨ ty = 2 ∨ ty = 3 → dyQ (codeVal ty c) = (if c < 8 then 1 else -1) * magQ ty (c % 8) :=
      fun ty h => by
        rw [codeVal_signed h, hbit, signedQ]
        by_cases h8 : c < 8 <;> simp [h8]
    have hm : c % 8 < 8 := Nat.mod_lt _ (by decide)
    rw [hval 1 (.inl rfl), hval 2 (.inr (.inl rfl)), hval 3 (.inr (.inr rfl))]
    dsimp only [at_]
    generalize c % 8 = k at hm
    refine ⟨congrArg (HMul.hMul _) ?_, congrArg (HMul.hMul _) ?_, congrArg (HMul.hMul _) ?_⟩ <;>
      interval_cases k <;> norm_num [magQ, f4Mag, dyQ]

theorem codeVal_bytes {c : Nat} (hc : c < 256) :
    dyQ (codeVal 4 c) = (if c < 128 then (c : ℚ) else c - 256) ∧ dyQ (codeVal 5 c) = ((c : ℚ) - 255 / 2) / 16 := by
  refine ⟨?_, ?_⟩
  · rw [codeVal_a8, sub_zero, mul_one, signed]
    norm_num [Nat.mod_eq_of_lt hc]
    by_cases h : c < 128
    · rw [if_pos h, if_neg (by omega)]
    · rw [if_neg h, if_pos (by omega)]
  · rw [codeVal_nw8, Nat.mod_eq_of_lt hc]; push_cast; ring

/-! ### Decoding a code (03 R92) -/

/-- A magnitude with no more digits than a format and within its range is rounded without a flag. -/
theorem rndMag_exact {f : FFmt} {mode num : Nat} {neg : Bool} {e : Int} (hs : f.Sane) (hn0 : 0 < num)
    (hn : num < 2 ^ (f.fbits + 1)) (he : f.emin - f.fbits ≤ e) (htop : (num : ℚ) * 2 ^ e < 2 ^ (f.bias + 1 : Int)) :
    (rndMag f mode neg num 1 e).2 = 0 := by
  have hlead : leadExp num 1 ≤ f.fbits := by
    have h1 := (leadExp_spec hn0 Nat.one_pos).1
    have h2 : (2 : ℚ) ^ leadExp num 1 < 2 ^ ((f.fbits + 1 : Nat) : Int) := by
      refine h1.trans_lt ?_
      rw [Nat.cast_one, div_one, zpow_natCast]
      exact_mod_cast hn
    have := two_zpow_lt.1 h2
    push_cast at this; omega
  have hk : 0 ≤ e - lastExp f num 1 e := by
    unfold lastExp
    split <;> omega
  have hden : scaledDen 1 (e - lastExp f num 1 e) = 1 := by rw [scaledDen, if_pos hk]
  have hval := scaled_value (num := num) (den := 1) (k := e - lastExp f num 1 e)
  obtain ⟨hq, hlt, hlow⟩ := lastExp_spec (f := f) (e := e) hn0 Nat.one_pos
  have hp := packUnits_packs (mode := mode) (neg := neg) hs (scaledDen_pos Nat.one_pos) hq hlt hlow
  rw [← rndMag_eq, hden, Nat.mod_one] at hp
  have hunits : roundedUnits mode neg (scaledNum num (e - lastExp f num 1 e)) 1 = scaledNum num (e - lastExp f num 1 e) := by
    have h0 : roundsUp mode neg (scaledNum num (e - lastExp f num 1 e) / 1) 0 1 = false := by
      unfold roundsUp; split <;> simp
    rw [roundedUnits, Nat.mod_one, h0, Nat.div_one]; rfl
  rw [hden, Nat.cast_one, div_one, div_one] at hval
  rw [hunits] at hp
  rcases hp with ⟨hbig, -⟩ | ⟨-, -, -, hfl⟩
  · rw [hval, mul_assoc, ← zpow_add₀ two_ne_zero, sub_add_cancel] at hbig
    exact absurd htop hbig.not_gt
  · rw [hfl, if_pos rfl]

/-- What a code decodes to at a scale. -/
theorem decode_scaled {f : FFmt} {mode fmt sb c : Nat} (hs : f.Sane) (hm : mode < 4) :
    RoundsTo f mode false (dyQ (codeVal fmt c) * (2 : ℚ) ^ ((sb % 64 : Nat) - 32 : Int))
      (decodeNarrow f mode (.scaled fmt (sb % 64)) c) := by
  have h := rndDyZ_roundsTo hs hm false ⟨(codeVal fmt c).m, (codeVal fmt c).e + ((sb % 64 : Nat) - 32 : Int)⟩
  rw [dyQ_shift] at h
  rwa [← add_sub_assoc] at h

/-- Every code has at most eight digits, and an exponent from −5 to 0. -/
theorem codeVal_small {fmt : Nat} (hf : fmt < 6) (c : Nat) :
    (codeVal fmt c).m.natAbs < 256 ∧ -5 ≤ (codeVal fmt c).e ∧ (codeVal fmt c).e ≤ 0 := by
  have hm : c % 8 < 8 := Nat.mod_lt _ (by decide)
  have hf4 : ∀ ty, ty = 1 ∨ ty = 2 ∨ ty = 3 →
      (f4Mag ty (c % 8)).1 < 256 ∧ -5 ≤ (f4Mag ty (c % 8)).2 ∧ (f4Mag ty (c % 8)).2 ≤ 0 :=
    fun ty h => by generalize c % 8 = k at hm; rcases h with rfl | rfl | rfl <;> interval_cases k <;> decide
  have habs : ∀ n : Nat, (if bitAt c 3 then -(n : Int) else n).natAbs = n := fun n => by split <;> omega
  interval_cases fmt
  · simp only [codeVal]; omega
  · exact ⟨(show (codeVal 1 c).m.natAbs = _ from habs _).trans_lt (hf4 1 (.inl rfl)).1, (hf4 1 (.inl rfl)).2⟩
  · exact ⟨(show (codeVal 2 c).m.natAbs = _ from habs _).trans_lt (hf4 2 (.inr (.inl rfl))).1, (hf4 2 (.inr (.inl rfl))).2⟩
  · exact ⟨(show (codeVal 3 c).m.natAbs = _ from habs _).trans_lt (hf4 3 (.inr (.inr rfl))).1, (hf4 3 (.inr (.inr rfl))).2⟩
  · simp only [codeVal, signed]; norm_num; split <;> omega
  · simp only [codeVal]; omega

/-- f32 and bf16 hold every decoded value. -/
theorem decode_exact {f : FFmt} {mode fmt sb c : Nat} (hf : f = .f32 ∨ f = .bf16) (hfmt : fmt < 6) :
    (decodeNarrow f mode (.scaled fmt (sb % 64)) c).2 = 0 := by
  have hs := sane_of (show f = .f32 ∨ f = .bf16 ∨ f = .f16 by tauto)
  obtain ⟨hm, he, he'⟩ := codeVal_small hfmt c
  have hsb : sb % 64 < 64 := Nat.mod_lt _ (by decide)
  have hfacts : 8 ≤ f.fbits + 1 ∧ f.emin - f.fbits ≤ -37 ∧ 40 ≤ f.bias + 1 := by rcases hf with rfl | rfl <;> decide
  obtain ⟨h1, h2, h3⟩ := hfacts
  simp only [decodeNarrow, rndDyZ]
  by_cases h0 : (codeVal fmt c).m = 0
  · rw [if_pos h0]
  · rw [if_neg h0]
    have hlt : (codeVal fmt c).m.natAbs < 2 ^ 8 := hm
    exact rndMag_exact hs (Int.natAbs_pos.2 h0) (hlt.trans_le (Nat.pow_le_pow_right (by decide) h1)) (by omega)
      (units_lt hlt (by omega))

theorem blockKind_cases {cls sb : Nat} (hcls : cls < 3) (hsb : sb < 256) :
    (sb = 0xFF → blockKind cls sb = .nan) ∧ (sb ≠ 0xFF → cls ≠ 0 → 64 ≤ sb → blockKind cls sb = .bad) ∧
      (sb ≠ 0xFF → cls = 0 ∨ sb < 64 → blockKind cls sb = .scaled (if cls = 0 then sb / 64 else 3 + cls) (sb % 64)) := by
  refine ⟨fun h => if_pos h, fun h h0 h64 => ?_, fun h h0 => ?_⟩
  · rw [blockKind, if_neg h, if_neg h0, if_pos (by omega)]
  · rw [blockKind, if_neg h]
    by_cases hc : cls = 0
    · rw [if_pos hc, if_pos hc]
    · have hlt : sb < 64 := h0.resolve_left hc
      rw [if_neg hc, if_neg hc, if_neg (by omega), Nat.mod_eq_of_lt hlt]
      rcases (show cls = 1 ∨ cls = 2 by omega) with rfl | rfl <;> rfl

/-! ### The slices of an NW8 block (05 R152) -/

/-- A block whose codes are each formed from a code. -/
theorem codeOf_map {f4 : Bool} {g : Nat → Nat} {codes : List Nat} {sb : Nat} (hlen : codes.length = 32)
    (hg : ∀ c ∈ codes, g c < if f4 then 16 else 256) {i : Nat} (hi : i < 32) :
    codeOf f4 (packBlock f4 (codes.map g) sb) i = g (codes.getD i 0) := by
  rw [codeOf_packBlock f4 _ sb (fun c hc => by obtain ⟨x, hx, rfl⟩ := List.mem_map.1 hc; exact hg x hx) hi,
    List.getD_eq_getElem _ _ (by simpa [hlen] using hi), List.getElem_map, List.getD_eq_getElem _ _ (by omega)]

/-- The code of the two leading bits of an NW8 code, at scale exponent `e`. -/
def lead2 (e c : Nat) : Nat := (if e = 63 then [0xF, 0xC, 0x4, 0x7] else [0xD, 0xA, 0x2, 0x5]).getD (c / 64) 0

/-- The code of a residual, at scale exponent `e`. -/
def resCode (m e c : Nat) : Nat :=
  if 5 ≤ e then wrapN 8 (resInt m c) else (encodeNarrow 4 ⟨resInt m c, (e : Int) - 5⟩).1

section
variable {sl sb : Nat} {codes : List Nat}

theorem sliceBlock_scaled (h : sb < 64) : sliceBlock sl sb codes =
    if sl = 0 then (packBlock true (codes.map (lead2 sb)) (0xC0 + min sb 62), 0)
    else if sl = 1 then (packBlock true (codes.map (· / 16)) sb, 0)
    else (packBlock false (codes.map (resCode (if sl % 2 = 0 then 2 else 4) sb)) (sb - 5), 0) := by
  have hk : blockKind 2 sb = .scaled 5 sb := by
    rw [blockKind, if_neg (by omega), if_neg (by decide), if_neg (by omega)]; rfl
  unfold sliceBlock
  rw [hk]
  dsimp only
  split
  · rfl
  · rfl
  · next h0 h1 =>
    rw [if_neg h0, if_neg h1]
    by_cases h5 : 5 ≤ sb
    · rw [if_pos h5]
      congr 3; funext c; rw [resCode, if_pos h5]
    · rw [if_neg h5, show sb - 5 = 0 by omega]
      congr 3; funext c; rw [resCode, if_neg h5]

theorem sliceBlock_unscaled :
    (sb = 0xFF → sliceBlock sl sb codes = (List.replicate (if sl < 2 then 16 else 32) 0 ++ [0xFF], 0)) ∧
      (sb ≠ 0xFF → 64 ≤ sb → sb < 256 →
        sliceBlock sl sb codes = (List.replicate (if sl < 2 then 16 else 32) 0 ++ [0xFF], fBAD)) := by
  have hn : nanBlock (decide (sl < 2)) = List.replicate (if sl < 2 then 16 else 32) 0 ++ [0xFF] := by
    rw [nanBlock_eq]; simp
  refine ⟨fun h => ?_, fun h h64 hlt => ?_⟩
  · rw [← hn, h]; rfl
  · rw [← hn]
    have hk : blockKind 2 sb = .bad := (blockKind_cases (by decide) hlt).2.1 h (by decide) h64
    unfold sliceBlock
    rw [hk]

end

/-- The integer form of a residual lies within 63 of zero, and is twice the residual. -/
theorem resInt_spec {m : Nat} (hm : m = 2 ∨ m = 4) (c : Nat) : -63 ≤ resInt m c ∧ resInt m c ≤ 63 ∧
    (resInt m c : ℚ) = 2 * (((c % 2 ^ (8 - m) : Nat) : ℚ) - ((2 : ℚ) ^ (8 - m) - 1) / 2) := by
  have hlt : c % 2 ^ (8 - m) < 2 ^ (8 - m) := Nat.mod_lt _ (by positivity)
  have hr : resInt m c = 2 * ((c % 2 ^ (8 - m) : Nat) : Int) - (2 ^ (8 - m) - 1) := by
    rw [resInt]; rcases hm with rfl | rfl <;> norm_num <;> omega
  generalize c % 2 ^ (8 - m) = r at hlt hr
  rw [hr]
  refine ⟨?_, ?_, by push_cast; ring⟩ <;> rcases hm with rfl | rfl <;> norm_num at hlt ⊢ <;> omega

/-- A slice of residuals: exact at a scale from 2^−27 on, else the nearest A8 code at the least scale. -/
theorem resCode_spec {m e c : Nat} (hm : m = 2 ∨ m = 4) :
    let value := (((c % 2 ^ (8 - m) : Nat) : ℚ) - ((2 : ℚ) ^ (8 - m) - 1) / 2) / 16 * (2 : ℚ) ^ ((e : Int) - 32)
    resCode m e c < 256 ∧
      (5 ≤ e → dyQ (codeVal 4 (resCode m e c)) * (2 : ℚ) ^ (((e - 5 : Nat) : Int) - 32) = value) ∧
      (e < 5 → ∀ k, k < 256 →
        let away := fun (k : Nat) => |dyQ (codeVal 4 k) * (2 : ℚ) ^ (-32 : Int) - value|
        away (resCode m e c) ≤ away k ∧ (away (resCode m e c) = away k → k ≠ resCode m e c → resCode m e c % 2 = 0)) := by
  intro value
  obtain ⟨h1, h2, h3⟩ := resInt_spec hm c
  have hvalue : value = resInt m c * (2 : ℚ) ^ ((e : Int) - 37) := by
    rw [h3, show ((e : Int) - 37) = ((e : Int) - 32) + (-5) by ring, zpow_add₀ two_ne_zero]
    norm_num [value]; ring
  by_cases h5 : 5 ≤ e
  · obtain ⟨hs, hb, -⟩ := signed_wrapN (n := resInt m c) (by omega) (by omega)
    have hc : resCode m e c = wrapN 8 (resInt m c) := if_pos h5
    refine ⟨by rw [hc]; exact hb, fun _ => ?_, fun h => absurd h (by omega)⟩
    rw [hc, codeVal_a8, hs, hvalue, sub_zero, mul_one]
    congr 2; omega
  · have hc : resCode m e c = (encodeNarrow 4 ⟨resInt m c, (e : Int) - 5⟩).1 := if_neg h5
    have henc := encodeNarrow_encodes (fmt := 4) (by decide) ⟨resInt m c, (e : Int) - 5⟩
    rw [hc]
    refine ⟨henc.bound, fun h => absurd h h5, fun _ k hk => ?_⟩
    have hu : (0 : ℚ) < 2 ^ (-32 : Int) := by positivity
    have hval : value = dyQ ⟨resInt m c, (e : Int) - 5⟩ * 2 ^ (-32 : Int) := by
      rw [hvalue, dyQ, mul_assoc, ← zpow_add₀ two_ne_zero]; congr 2; ring
    have hsmall : |dyQ ⟨resInt m c, (e : Int) - 5⟩| ≤ 63 := by
      have hp : (2 : ℚ) ^ ((e : Int) - 5) ≤ 2 ^ (0 : Int) := two_zpow_le.2 (by omega)
      have hr : |((resInt m c : Int) : ℚ)| ≤ 63 := abs_le.2 ⟨by exact_mod_cast h1, by exact_mod_cast h2⟩
      rw [dyQ, abs_mul, abs_of_pos (show (0 : ℚ) < 2 ^ ((e : Int) - 5) by positivity)]
      calc |((resInt m c : Int) : ℚ)| * 2 ^ ((e : Int) - 5) ≤ 63 * 2 ^ (0 : Int) :=
            mul_le_mul hr hp (by positivity) (by norm_num)
        _ = 63 := by norm_num
    obtain ⟨hlo, hhi⟩ := abs_le.1 hsmall
    obtain ⟨hn1, hn2⟩ := henc.nearest (by norm_num [codeLow]; linarith) (by norm_num [codeHigh]; linarith) k hk
    have haway : ∀ j, |dyQ (codeVal 4 j) * (2 : ℚ) ^ (-32 : Int) - value| =
        |dyQ (codeVal 4 j) - dyQ ⟨resInt m c, (e : Int) - 5⟩| * 2 ^ (-32 : Int) := fun j => by
      rw [hval, ← sub_mul, abs_mul, abs_of_pos hu]
    intro away
    simp only [away, haway]
    refine ⟨mul_le_mul_of_nonneg_right hn1 hu.le, fun he hne => hn2 (mul_right_cancel₀ hu.ne' he) fun hv => hne ?_⟩
    have hj : ∀ {a b : Nat}, a < 256 → b < 256 → dyQ (codeVal 4 a) = dyQ (codeVal 4 b) → a = b := fun {a b} ha hb h => by
      rw [codeVal_a8, codeVal_a8, sub_zero, sub_zero, mul_one, mul_one, Int.cast_inj] at h
      simp only [signed] at h
      norm_num at h
      split at h <;> split at h <;> omega
    exact hj hk henc.bound hv

/-- The two leading bits of an NW8 code: twice the scale holds their centre, and at the greatest scale four times. -/
theorem lead2_spec {e c : Nat} (he : e < 64) (hc : c < 256) : lead2 e c < 16 ∧
    dyQ (codeVal 3 (lead2 e c)) * (2 : ℚ) ^ ((((0xC0 + min e 62) % 64 : Nat) : Int) - 32) =
      (((2 ^ 6 * (c / 64) : Nat) : ℚ) + (2 ^ 6 - 1) / 2 - 255 / 2) / 16 * (2 : ℚ) ^ ((e : Int) - 32) := by
  have hk : c / 64 < 4 := by omega
  have hval : ∀ n, n < 16 → dyQ (codeVal 3 n) = (if n < 8 then 1 else -1) * ([0, 1, 2, 3, 4, 6, 8, 12] : List ℚ).getD (n % 8) 0 :=
    fun n hn => (codeVal_f4 hn).2.2.2
  rw [lead2]
  generalize c / 64 = k at hk
  by_cases h63 : e = 63
  · subst h63
    refine ⟨by interval_cases k <;> decide, ?_⟩
    rw [show (2 : ℚ) ^ (((63 : Nat) : Int) - 32) = 2 * 2 ^ ((((0xC0 + min 63 62) % 64 : Nat) : Int) - 32) by norm_num, ← mul_assoc]
    congr 1
    rw [if_pos rfl, hval _ (by interval_cases k <;> decide)]
    interval_cases k <;> norm_num
  · refine ⟨by rw [if_neg h63]; interval_cases k <;> decide, ?_⟩
    rw [show (0xC0 + min e 62) % 64 = e by omega]
    congr 1
    rw [if_neg h63, hval _ (by interval_cases k <;> decide)]
    interval_cases k <;> norm_num

/-- The four leading bits of an NW8 code keep its scale. -/
theorem lead4_spec {c : Nat} (hc : c < 256) :
    dyQ (codeVal 0 (c / 16)) = (((2 ^ 4 * (c / 2 ^ 4) : Nat) : ℚ) + (2 ^ 4 - 1) / 2 - 255 / 2) / 16 := by
  rw [(codeVal_f4 (show c / 16 < 16 by omega)).1]
  push_cast; norm_num; ring

/-- A slice's block: its codes, and its scale byte behind them. -/
theorem slice_packed {f4 : Bool} {g : Nat → Nat} {codes : List Nat} {scale : Nat} (hlen : codes.length = 32)
    (hg : ∀ c ∈ codes, g c < if f4 then 16 else 256) :
    let bytes := packBlock f4 (codes.map g) scale
    bytes.length = (if f4 then 16 else 32) + 1 ∧ bytes.getD (if f4 then 16 else 32) 0 = scale ∧
      ∀ i, i < 32 → codeOf f4 bytes i = g (codes.getD i 0) :=
  ⟨packBlock_length _ _ _, packBlock_scale _ _ _, fun _ hi => codeOf_map hlen hg hi⟩

theorem slices (sl sb : Nat) (codes : List Nat) (hsl : sl < 4) (hsb : sb < 256) (hlen : codes.length = 32)
    (hcodes : ∀ c ∈ codes, c < 256) :
    let m : Nat := if sl % 2 = 0 then 2 else 4
    let n := if sl < 2 then 16 else 32
    let r := sliceBlock sl sb codes
    let code := fun (i : Nat) => if sl < 2 then r.1.getD (i / 2) 0 / 16 ^ (i % 2) % 16 else r.1.getD i 0
    let fmt := if sl = 0 then 3 else if sl = 1 then 0 else 4
    let step : Nat → Nat := fun i => 2 ^ (8 - m) * (codes.getD i 0 / 2 ^ (8 - m))
    let half : ℚ := ((2 : ℚ) ^ (8 - m) - 1) / 2
    let rest := fun (i : Nat) => ((codes.getD i 0 % 2 ^ (8 - m) : Nat) : ℚ) - half
    let value := fun (i : Nat) => (if sl < 2 then (step i : ℚ) + half - 255 / 2 else rest i) / 16 * (2 : ℚ) ^ ((sb : Int) - 32)
    (sb = 0xFF → r = (List.replicate n 0 ++ [0xFF], 0)) ∧
    (sb ≠ 0xFF → 64 ≤ sb → r = (List.replicate n 0 ++ [0xFF], fBAD)) ∧
    (sb < 64 → r.2 = 0 ∧ r.1.length = n + 1 ∧
      r.1.getD n 0 = (if sl = 0 then 0xC0 + min sb 62 else if sl = 1 then sb else sb - 5) ∧
      ∀ i, i < 32 → code i < 256 ∧
        (sl < 2 ∨ 5 ≤ sb →
          dyQ (codeVal fmt (code i)) * (2 : ℚ) ^ (((r.1.getD n 0 % 64 : Nat) : Int) - 32) = value i) ∧
        (2 ≤ sl → sb < 5 → ∀ c, c < 256 →
          let away := fun (c : Nat) => |dyQ (codeVal 4 c) * (2 : ℚ) ^ (-32 : Int) - value i|
          away (code i) ≤ away c ∧ (away (code i) = away c → c ≠ code i → code i % 2 = 0))) := by
  intro m n r code fmt step half rest value
  refine ⟨sliceBlock_unscaled.1, fun h h64 => sliceBlock_unscaled.2 h h64 hsb, fun h64 => ?_⟩
  have hr := sliceBlock_scaled (sl := sl) (codes := codes) h64
  have hcode : ∀ i, code i = codeOf (decide (sl < 2)) r.1 i := fun i => by simp only [codeOf, decide_eq_true_eq]; rfl
  have hget : ∀ i, i < 32 → codes.getD i 0 < 256 := fun i hi => by
    rw [List.getD_eq_getElem _ _ (by omega)]; exact hcodes _ (List.getElem_mem _)
  rcases (by omega : sl = 0 ∨ sl = 1 ∨ 2 ≤ sl) with rfl | rfl | h2
  · obtain ⟨h1, h2, h3⟩ := slice_packed (f4 := true) (g := lead2 sb) (scale := 0xC0 + min sb 62) hlen
      fun c hc => (lead2_spec h64 (hcodes c hc)).1
    rw [if_pos rfl] at hr
    rw [show r = _ from hr] at hcode ⊢
    refine ⟨rfl, h1, h2, fun i hi => ?_⟩
    obtain ⟨hb, hv⟩ := lead2_spec h64 (hget i hi)
    rw [hcode, show codeOf (decide (0 < 2)) _ i = _ from h3 i hi]
    refine ⟨by omega, fun _ => ?_, fun h => absurd h (by decide)⟩
    rw [show n = 16 from rfl, show List.getD _ 16 0 = _ from h2]
    exact hv
  · obtain ⟨h1, h2, h3⟩ := slice_packed (f4 := true) (g := (· / 16)) (scale := sb) hlen fun c hc => by
      have := hcodes c hc; simp only [if_true]; omega
    rw [if_neg (by decide), if_pos rfl] at hr
    rw [show r = _ from hr] at hcode ⊢
    refine ⟨rfl, h1, h2, fun i hi => ?_⟩
    have hb := hget i hi
    rw [hcode, show codeOf (decide (1 < 2)) _ i = _ from h3 i hi]
    refine ⟨by omega, fun _ => ?_, fun h => absurd h (by decide)⟩
    rw [show n = 16 from rfl, show List.getD _ 16 0 = _ from h2, Nat.mod_eq_of_lt h64]
    exact congrArg (· * _) (lead4_spec hb)
  · have hm : m = 2 ∨ m = 4 := by simp only [m]; split <;> simp
    obtain ⟨h1, h2, h3⟩ := slice_packed (f4 := false) (g := resCode m sb) (scale := sb - 5) hlen
      fun c _ => (resCode_spec hm).1
    rw [if_neg (by omega), if_neg (by omega)] at hr
    have hn : n = 32 := if_neg (by omega)
    have hfmt : fmt = 4 := by simp only [fmt]; rw [if_neg (by omega), if_neg (by omega)]
    rw [show r = _ from hr] at hcode ⊢
    rw [hn, hfmt, if_neg (show ¬sl = 0 by omega), if_neg (show ¬sl = 1 by omega)]
    refine ⟨rfl, h1, h2, fun i hi => ?_⟩
    have hvalue : value i = rest i / 16 * (2 : ℚ) ^ ((sb : Int) - 32) := by
      simp only [value]; rw [if_neg (by omega)]
    obtain ⟨hb, hv, hnear⟩ := resCode_spec (e := sb) (c := codes.getD i 0) hm
    rw [hcode, show decide (sl < 2) = false from decide_eq_false (by omega), h3 i hi, hvalue]
    refine ⟨hb, fun h => ?_, fun _ => hnear⟩
    rw [show List.getD _ 32 0 = _ from h2, Nat.mod_eq_of_lt (by omega)]
    exact hv (by omega)

/-- Settles O19, op by op, then by the codes' values and the slices. -/
theorem blockDecodersAndSlices : Obligations.BlockDecodersAndSlices := by
  unfold Obligations.BlockDecodersAndSlices
  refine ⟨fun s u o bits hgo hx hf => ⟨fun _ hbig hshape => ?_, fun _ hbig n hn => ?_, fun _ hshape => ?_, fun _ hshape => ?_⟩,
    fun c hc => codeVal_f4 hc, fun c hc => codeVal_bytes hc, fun f mode cls sb c hf hm hcls hsb _ => ?_, slices⟩
  · exact writesTile_results hgo hx (fetch_frame hf) hbig (exec_dqbk hbig hshape hf)
  · exact writesTile_results hgo hx (fetch_frame hf) hbig (exec_dcf4 hbig hf hn)
  · have h := nwsl_writes hgo hx hshape hf
    simp only [nwslResults, List.flatMap_map, List.map_map] at h
    exact h
  · exact nwpk_writes hgo hx hshape hf
  · intro r fmt
    obtain ⟨hnan, hbad, hsc⟩ := blockKind_cases hcls hsb
    refine ⟨fun h => ?_, fun h h0 h64 => ?_, fun h h0 => ?_⟩
    · simp only [r, hnan h]; rfl
    · simp only [r, hbad h h0 h64]; rfl
    · have hr : r = decodeNarrow f mode (.scaled fmt (sb % 64)) c := by simp only [r, fmt, hsc h h0]
      have hfmt : fmt < 6 := by simp only [fmt]; split <;> omega
      rw [hr]
      exact ⟨decode_scaled (sane_of hf) hm, fun hf' => decode_exact hf' hfmt⟩

end Sys2Proof.Machine
end

section
/-! SUPPORT. The places of a format's floats in their order, and the floats within a bound of a value (05 R154). -/

namespace Sys2Proof.Machine

/-! ### Places and values -/

/-- The value of the float at a place. -/
def keyQ (f : FFmt) (k : Int) : ℚ := signedQ (decide (k < 0)) (magOf f k.natAbs)

section
variable {f : FFmt}

theorem keyQ_strictMono : StrictMono (keyQ f) := by
  intro a b hab
  have hm : ∀ {m n : Nat}, m < n → magOf f m < magOf f n := fun h => magOf_strictMono h
  have h0 := fun k => magOf_nonneg (f := f) k
  unfold keyQ
  by_cases ha : a < 0
  · by_cases hb : b < 0
    · simp only [signedQ, ha, hb, decide_true, if_true]
      exact neg_lt_neg (hm (by omega))
    · simp only [signedQ, ha, hb, decide_true, decide_false, if_true, Bool.false_eq_true, if_false]
      have : magOf f 0 < magOf f a.natAbs := hm (by omega)
      rw [magOf_zero] at this
      linarith [h0 b.natAbs]
  · have hb : ¬b < 0 := by omega
    simp only [signedQ, ha, hb, decide_false, Bool.false_eq_true, if_false]
    exact hm (by omega)

theorem floatKey_eq (w : Nat) : floatKey f w = if signOf f w then -(lowOf f w : Int) else lowOf f w := by
  have h : fld w 0 (f.ebits + f.fbits) = lowOf f w := by rw [fld, pow_zero, Nat.div_one]; rfl
  rw [floatKey, h]; rfl

theorem floatKey_natAbs (w : Nat) : (floatKey f w).natAbs = lowOf f w := by
  rw [floatKey_eq]; split <;> omega

theorem keyQ_floatKey {w : Nat} (h : (unpack f w).num) : keyQ f (floatKey f w) = (unpack f w).q := by
  rw [unpack_q ((num_iff w).1 h), keyQ, floatKey_natAbs, floatKey_eq]
  cases signOf f w
  · simp [show ¬((lowOf f w : Int) < 0) by omega]
  · by_cases h0 : lowOf f w = 0
    · simp [h0, magOf_zero, signedQ]
    · simp [Nat.pos_of_ne_zero h0]

theorem floatKey_num {w : Nat} : (unpack f w).num ↔ (floatKey f w).natAbs < f.numbers := by
  rw [floatKey_natAbs]; exact num_iff w

/-- The float of a place. -/
theorem unpack_key {k : Int} {neg : Bool} (hk : k.natAbs < f.numbers) (hn : f.numbers ≤ 2 ^ (f.ebits + f.fbits))
    (hneg : k ≠ 0 → neg = decide (k < 0)) :
    (unpack f (f.signBit neg + k.natAbs)).num ∧ (unpack f (f.signBit neg + k.natAbs)).q = keyQ f k := by
  obtain ⟨-, h2, h3⟩ := signBit_add (f := f) (hk.trans_le hn) neg
  have hlow : lowOf f (f.signBit neg + k.natAbs) < f.numbers := by rw [h3]; exact hk
  refine ⟨(num_iff _).2 hlow, ?_⟩
  rw [unpack_q hlow, h2, h3, keyQ]
  by_cases h0 : k = 0
  · subst h0; cases neg <;> simp [magOf_zero, signedQ]
  · rw [hneg h0]

theorem floatKey_rounded (mode : Nat) (v : Dy) :
    (if v.m = 0 then 0 else floatKey f (rndMag f mode (decide (v.m < 0)) v.m.natAbs 1 v.e).1) =
      floatKey f (rndDyZ f mode false v).1 := by
  rw [rndDyZ]
  split
  · have h := signBit_add (f := f) (k := 0) (by positivity) false
    rw [floatKey_eq, show (f.zero false, (0 : Flags)).1 = f.signBit false + 0 from rfl, h.2.2]; split <;> rfl
  · rfl

variable (hs : f.Sane)
include hs

theorem FFmt.Sane.numbers_pos : 0 < f.numbers := Nat.mul_pos (by have := hs.expTop; omega) (by positivity)

theorem floatKey_inf : floatKey f (f.inf false) = f.numbers := by
  have h := signBit_add hs.numbers_lt false
  rw [show f.inf false = f.signBit false + f.numbers from rfl, floatKey_eq, h.2.1, h.2.2]; rfl

/-- The numbers of a format: what has no more digits than it and lies in its range. -/
theorem exists_number (neg : Bool) {n : Nat} {e : Int} (hn : n < 2 ^ (f.fbits + 1)) (he : f.emin - f.fbits ≤ e)
    (htop : (n : ℚ) * 2 ^ e < 2 ^ (f.bias + 1 : Int)) :
    ∃ w < 2 ^ f.width, (unpack f w).num ∧ (unpack f w).q = signedQ neg (n * 2 ^ e) := by
  have hr := rndDyZ_roundsTo hs (show 0 < 4 by decide) neg ⟨if neg then -(n : Int) else n, e⟩
  have habs : (if neg then -(n : Int) else n).natAbs = n := by split <;> omega
  have h0 : (rndDyZ f 0 neg ⟨if neg then -(n : Int) else n, e⟩).2 = 0 := by
    by_cases hz : (if neg then -(n : Int) else n) = 0
    · rw [rndDyZ, if_pos hz]
    · rw [rndDyZ, if_neg hz, habs]
      exact rndMag_exact hs (habs ▸ Int.natAbs_pos.2 hz) hn he htop
  rw [dyQ_signed] at hr
  have hno : (rndDyZ f 0 neg ⟨if neg then -(n : Int) else n, e⟩).2 ≠ fOF ||| fNX := by rw [h0]; decide
  obtain ⟨h1, h2⟩ := hr.number hno
  exact ⟨_, h1, h2, (hr.exact hno).1 h0⟩

/-! ### The places within a distance of a value -/

theorem maxFin_q_ge : (2 : ℚ) ^ (f.bias : Int) ≤ (unpack f (f.maxFin false)).q := by
  have h1 : 2 ^ f.fbits ≤ 2 ^ (f.fbits + 1) - 1 := by
    have : 1 ≤ 2 ^ f.fbits := Nat.one_le_two_pow
    omega
  rw [hs.maxFin_q]
  refine (units_ge h1 (q := (f.bias : Int) - f.fbits) (by omega)).trans_eq ?_
  rw [Nat.cast_sub Nat.one_le_two_pow, Nat.cast_one]

/-- No number rounds up to what is above all numbers, nor down to what is below them. -/
theorem numbers_within {w : Nat} (h : (unpack f w).num) :
    -(2 : ℚ) ^ (f.bias + 1) < (unpack f w).q ∧ (unpack f w).q < (2 : ℚ) ^ (f.bias + 1) :=
  abs_lt.1 ((abs_le_maxFin hs h).trans_lt (maxFin_lt_top hs))

/-- The first place within a distance. -/
theorem boundKeys_low {v b : Dy} (hlow : -(2 : ℚ) ^ (f.bias + 1) < dyQ v - dyQ b) :
    let lo := (boundKeys f v b).1
    (-(f.numbers : Int) < lo ∧ lo ≤ f.numbers) ∧ (∀ k, lo ≤ k → k.natAbs < f.numbers → dyQ v - dyQ b ≤ keyQ f k) ∧
      (∀ w, w < 2 ^ f.width → (unpack f w).num → dyQ v - dyQ b ≤ (unpack f w).q → lo ≤ floatKey f w) := by
  have hlo : (boundKeys f v b).1 = floatKey f (rndDyZ f 2 false (Dy.sub v b)).1 := floatKey_rounded 2 _
  have hr := rndDyZ_roundsTo hs (show 2 < 4 by decide) false (Dy.sub v b)
  rw [hlo]
  rw [dyQ_sub] at hr
  generalize rndDyZ f 2 false (Dy.sub v b) = r at hr
  by_cases ho : r.2 = fOF ||| fNX
  · have hpos : ¬dyQ v - dyQ b < 0 := fun h => by
      rcases hr.overflows.1 ho with ⟨k, -⟩ | ⟨-, k⟩
      · simp [toInfinity, h] at k
      · rw [abs_of_neg h] at k; linarith
    have hinf : r.1 = f.inf false := by
      have h := (hr.overflow ho).1 (by simp [toInfinity, hpos])
      rwa [decide_eq_false hpos] at h
    have hbig : (unpack f (f.maxFin false)).q < dyQ v - dyQ b := by
      rcases hr.overflows.1 ho with ⟨-, k⟩ | ⟨k, -⟩
      · rwa [abs_of_nonneg (not_lt.1 hpos)] at k
      · simp [toInfinity, hpos] at k
    have hpos := hs.numbers_pos
    rw [hinf, floatKey_inf hs]
    refine ⟨⟨by omega, le_rfl⟩, fun k h1 h2 => by omega, fun w _ hn hw => ?_⟩
    have := le_trans (le_abs_self _) (abs_le_maxFin hs hn)
    linarith
  · obtain ⟨hw, hn⟩ := hr.number ho
    obtain ⟨h1, h2⟩ := hr.upward ho rfl
    have hk := floatKey_num.1 hn
    refine ⟨by omega, fun k h h' => ?_, fun w hw' hn' h => ?_⟩
    · rw [← keyQ_floatKey hn] at h1
      exact h1.trans (keyQ_strictMono.monotone h)
    · have := h2 w hw' hn' h
      rw [← keyQ_floatKey hn, ← keyQ_floatKey hn'] at this
      exact keyQ_strictMono.le_iff_le.1 this

/-- The last place within a distance. -/
theorem boundKeys_high {v b : Dy} (hhigh : -(2 : ℚ) ^ f.bias ≤ dyQ v + dyQ b) :
    let hi := (boundKeys f v b).2
    hi ≤ f.numbers ∧ (hi = f.numbers → (2 : ℚ) ^ (f.bias + 1) ≤ dyQ v + dyQ b) ∧
      (∀ k, k ≤ hi → k.natAbs < f.numbers → keyQ f k ≤ dyQ v + dyQ b) ∧
      ((2 : ℚ) ^ (f.bias + 1) ≤ dyQ v + dyQ b → hi = f.numbers) ∧
      (∀ w, w < 2 ^ f.width → (unpack f w).num → (unpack f w).q ≤ dyQ v + dyQ b → floatKey f w ≤ hi) := by
  have hbig : Dy.le ⟨1, (f.bias : Int) + 1⟩ (Dy.add v b) = true ↔ (2 : ℚ) ^ (f.bias + 1) ≤ dyQ v + dyQ b := by
    rw [Dy.le_iff, dyQ_add, dyQ, Int.cast_one, one_mul, ← zpow_natCast, Nat.cast_succ]
  have hhi : (boundKeys f v b).2 = if Dy.le ⟨1, (f.bias : Int) + 1⟩ (Dy.add v b) then floatKey f (f.inf false)
      else floatKey f (rndDyZ f 3 false (Dy.add v b)).1 := by
    rw [← floatKey_rounded]; rfl
  rw [hhi, floatKey_inf hs]
  by_cases hb : (2 : ℚ) ^ (f.bias + 1) ≤ dyQ v + dyQ b
  · rw [if_pos (hbig.2 hb)]
    refine ⟨le_rfl, fun _ => hb, fun k _ hk => ?_, fun _ => rfl, fun w _ hn _ => ?_⟩
    · obtain ⟨hn, hq⟩ := unpack_key (neg := decide (k < 0)) hk hs.numbers_lt.le fun _ => rfl
      rw [← hq]
      exact (numbers_within hs hn).2.le.trans hb
    · have := floatKey_num.1 hn; omega
  · rw [if_neg fun h => hb (hbig.1 h)]
    have hr := rndDyZ_roundsTo hs (show 3 < 4 by decide) false (Dy.add v b)
    rw [dyQ_add] at hr
    generalize rndDyZ f 3 false (Dy.add v b) = r at hr
    have ho : r.2 ≠ fOF ||| fNX := fun ho => by
      by_cases hneg : dyQ v + dyQ b < 0
      · rcases hr.overflows.1 ho with ⟨-, k⟩ | ⟨k, -⟩
        · have := maxFin_q_ge hs
          rw [zpow_natCast] at this
          rw [abs_of_neg hneg] at k
          linarith
        · simp [toInfinity, hneg] at k
      · rcases hr.overflows.1 ho with ⟨k, -⟩ | ⟨-, k⟩
        · simp [toInfinity, hneg] at k
        · rw [abs_of_nonneg (not_lt.1 hneg)] at k
          exact hb k
    obtain ⟨hw, hn⟩ := hr.number ho
    obtain ⟨h1, h2⟩ := hr.downward ho rfl
    have hk := floatKey_num.1 hn
    refine ⟨by omega, fun h => by omega, fun k h _ => ?_, fun h => absurd h hb, fun w hw' hn' h => ?_⟩
    · rw [← keyQ_floatKey hn] at h1
      exact (keyQ_strictMono.monotone h).trans h1
    · have := h2 w hw' hn' h
      rw [← keyQ_floatKey hn, ← keyQ_floatKey hn'] at this
      exact keyQ_strictMono.le_iff_le.1 this

/-! ### The float at a place -/

/-- A place of a number gives it, exact only where it is the value; the place above all numbers overflows. -/
theorem atKey_spec {mode : Nat} {v : Dy} {ex : Bool} {k : Int} (hm : mode < 4) (h1 : -(f.numbers : Int) < k) :
    let r := atKey f mode v ex k
    (k < f.numbers → r.2 &&& fOF = 0 ∧ (unpack f r.1).num ∧ (unpack f r.1).q = keyQ f k ∧
      (r.2 = 0 ↔ ex = true ∧ keyQ f k = dyQ v)) ∧
    (k = f.numbers → r.2 &&& fOF ≠ 0 ∧ (r.1 = f.inf false ∨ r.1 = f.maxFin false)) := by
  intro r
  refine ⟨fun hk => ?_, fun hk => ?_⟩
  · have hr : r = if ex && Dy.eq (unpack f (f.signBit (if k = 0 then decide (v.m < 0) else decide (k < 0)) + k.natAbs)).dy v then
        (f.signBit (if k = 0 then decide (v.m < 0) else decide (k < 0)) + k.natAbs, 0)
        else (f.signBit (if k = 0 then decide (v.m < 0) else decide (k < 0)) + k.natAbs,
          if k.natAbs < 2 ^ f.fbits then fUF ||| fNX else fNX) := if_neg (show ¬f.numbers ≤ k.natAbs by omega)
    obtain ⟨hn, hq⟩ := unpack_key (f := f) (k := k) (neg := if k = 0 then decide (v.m < 0) else decide (k < 0)) (by omega)
      hs.numbers_lt.le fun h => if_neg h
    have heq : (ex && Dy.eq (unpack f (f.signBit (if k = 0 then decide (v.m < 0) else decide (k < 0)) + k.natAbs)).dy v) = true ↔
        ex = true ∧ keyQ f k = dyQ v := by
      rw [Bool.and_eq_true, Dy.eq_iff, ← hq]; rfl
    rw [hr]
    by_cases he : ex = true ∧ keyQ f k = dyQ v
    · rw [if_pos (heq.2 he)]
      exact ⟨by simp, hn, hq, fun _ => he, fun _ => rfl⟩
    · rw [if_neg fun h => he (heq.1 h)]
      refine ⟨?_, hn, hq, fun h => ?_, fun h => absurd h he⟩
      · dsimp only; split <;> rfl
      · dsimp only at h; split at h <;> exact absurd h (by decide)
  · have hr : r = rndMag f mode (if k = 0 then decide (v.m < 0) else decide (k < 0)) 1 1 ((f.bias : Int) + 1) :=
      if_pos (show f.numbers ≤ k.natAbs by omega)
    have hpos := hs.numbers_pos
    rw [if_neg (by omega), decide_eq_false (by omega)] at hr
    have hro := rndMag_roundsTo hs hm false false (num := 1) (den := 1) ((f.bias : Int) + 1) one_pos one_pos
    rw [← hr, Nat.cast_one, div_one, one_mul] at hro
    have hp : (0 : ℚ) < 2 ^ ((f.bias : Int) + 1) := by positivity
    have hsq : signedQ false ((2 : ℚ) ^ ((f.bias : Int) + 1)) = 2 ^ ((f.bias : Int) + 1) := rfl
    rw [hsq] at hro
    have htop := maxFin_lt_top hs
    have ho : r.2 = fOF ||| fNX := hro.overflows.2 (by
      have hcast : (2 : ℚ) ^ (f.bias + 1) = 2 ^ ((f.bias : Int) + 1) := by norm_cast
      dsimp only
      rw [hcast] at htop ⊢
      rw [abs_of_pos hp]
      split
      · linarith
      · exact (Classical.em _).imp (fun h => ⟨h, htop⟩) fun h => ⟨h, le_rfl⟩)
    refine ⟨by rw [ho]; decide, ?_⟩
    have h := hro.overflow ho
    rw [decide_eq_false hp.not_gt] at h
    exact (Classical.em _).imp h.1 h.2

/-- What the model returns of the places within a distance of a value. -/
theorem atKey_within {mode : Nat} {v b : Dy} {ex : Bool} {k : Int} (hm : mode < 4)
    (hlow : -(2 : ℚ) ^ (f.bias + 1) < dyQ v - dyQ b) (hhigh : -(2 : ℚ) ^ f.bias ≤ dyQ v + dyQ b)
    (h1 : (boundKeys f v b).1 ≤ k) (h2 : k ≤ (boundKeys f v b).2) :
    let r := atKey f mode v ex k
    (r.2 &&& fOF = 0 → (unpack f r.1).num ∧ |(unpack f r.1).q - dyQ v| ≤ dyQ b ∧
      (r.2 = 0 ↔ ex = true ∧ (unpack f r.1).q = dyQ v)) ∧
    (r.2 &&& fOF ≠ 0 → (2 : ℚ) ^ (f.bias + 1) ≤ dyQ v + dyQ b ∧ (r.1 = f.inf false ∨ r.1 = f.maxFin false)) := by
  intro r
  obtain ⟨⟨hl1, -⟩, hl2, -⟩ := boundKeys_low hs hlow
  obtain ⟨hh1, hh2, hh3, -⟩ := boundKeys_high hs hhigh
  obtain ⟨hin, hout⟩ := atKey_spec hs (v := v) (ex := ex) hm (hl1.trans_le h1)
  rcases lt_or_eq_of_le (h2.trans hh1) with hk | hk
  · obtain ⟨ho, hn, hq, hex⟩ := hin hk
    refine ⟨fun _ => ⟨hn, ?_, by rw [hq]; exact hex⟩, fun h => absurd ho h⟩
    rw [hq]
    have hlo := hl2 k h1 (by omega)
    have hhi := hh3 k h2 (by omega)
    exact abs_le.2 ⟨by linarith, by linarith⟩
  · obtain ⟨ho, hr⟩ := hout hk
    exact ⟨fun h => absurd h ho, fun _ => ⟨hh2 (by omega), hr⟩⟩

end

end Sys2Proof.Machine
end

section
/-! O60: the special functions' bound (05 R154). -/

namespace Sys2Proof.Machine

section
variable {f : FFmt} {v : Dy} {k : Int}

/-- The place of a value's leading bit. -/
theorem leading_place (h1 : (2 : ℚ) ^ k ≤ |dyQ v|) (h2 : |dyQ v| < (2 : ℚ) ^ (k + 1)) :
    (Nat.log2 v.m.natAbs : Int) + v.e = k := by
  have hq : |dyQ v| = v.m.natAbs * 2 ^ v.e := by rw [← dyQ_abs, dyQ, Int.cast_natCast]
  have hm : v.m.natAbs ≠ 0 := fun h => by
    rw [hq, h, Nat.cast_zero, zero_mul] at h1
    exact absurd h1 (not_le.2 (by positivity))
  have hlo := units_ge (q := v.e) (Nat.log2_self_le hm) le_rfl
  have hhi := units_lt (q := v.e) (Nat.lt_log2_self (n := v.m.natAbs)) le_rfl
  rw [← hq] at hlo hhi
  have ha := two_zpow_lt.1 (hlo.trans_lt h2)
  have hb := two_zpow_lt.1 (h1.trans_lt hhi)
  push_cast at hb
  omega

/-- One unit in the last place at a value whose leading bit has place `k`. -/
def unitAt (f : FFmt) (k : Int) : ℚ := (2 : ℚ) ^ (max k f.emin - f.fbits)

theorem boundOf_q (h1 : (2 : ℚ) ^ k ≤ |dyQ v|) (h2 : |dyQ v| < (2 : ℚ) ^ (k + 1)) (n : Nat) :
    dyQ (boundOf f v n none) = n * unitAt f k ∧ ∀ a, dyQ (boundOf f v n (some a)) = max (n * unitAt f k) (dyQ a) := by
  have hu : (ulpAt f v).e = max k f.emin - f.fbits := by
    simp only [ulpAt, leading_place h1 h2]
    split <;> omega
  have hb : dyQ ⟨n, (ulpAt f v).e⟩ = n * unitAt f k := by rw [dyQ, hu, Int.cast_natCast]; rfl
  refine ⟨hb, fun a => ?_⟩
  rw [← hb]
  simp only [boundOf]
  by_cases h : dyQ ⟨n, (ulpAt f v).e⟩ < dyQ a
  · rw [if_pos (Dy.lt_iff.2 h), max_eq_right h.le]
  · rw [if_neg fun k => h (Dy.lt_iff.1 k), max_eq_left (not_lt.1 h)]

/-- A number lies within one unit of every value in range. -/
theorem number_near (hs : f.Sane) (h2 : |dyQ v| < (2 : ℚ) ^ (k + 1))
    (hv : |dyQ v| < (2 : ℚ) ^ (f.bias + 1)) :
    ∃ w < 2 ^ f.width, (unpack f w).num ∧ |(unpack f w).q - dyQ v| ≤ unitAt f k := by
  have hu : 0 < unitAt f k := by unfold unitAt; positivity
  obtain ⟨n, hn⟩ : ∃ n : Nat, (n : Int) = ⌊|dyQ v| / unitAt f k⌋ := ⟨_, Int.toNat_of_nonneg (Int.floor_nonneg.2 (by positivity))⟩
  have hle : (n : ℚ) * unitAt f k ≤ |dyQ v| := by
    rw [← le_div_iff₀ hu]
    exact_mod_cast hn ▸ Int.floor_le (|dyQ v| / unitAt f k)
  have hlt : |dyQ v| < (n + 1) * unitAt f k := by
    rw [← div_lt_iff₀ hu]
    exact_mod_cast hn ▸ Int.lt_floor_add_one (|dyQ v| / unitAt f k)
  have hsmall : n < 2 ^ (f.fbits + 1) := by
    have hk : (2 : ℚ) ^ (k + 1) ≤ (2 ^ (f.fbits + 1) : Nat) * unitAt f k := by
      rw [unitAt, natPow_mul_zpow]
      exact two_zpow_le.2 (by push_cast; omega)
    have := (hle.trans_lt h2).trans_le hk
    exact_mod_cast lt_of_mul_lt_mul_right this hu.le
  obtain ⟨w, hw, hnum, hq⟩ := exists_number hs (decide (v.m < 0)) hsmall (e := max k f.emin - f.fbits) (by omega)
    (by rw [← Nat.cast_succ, zpow_natCast]; exact hle.trans_lt hv)
  refine ⟨w, hw, hnum, ?_⟩
  rw [hq, dyQ_signed_abs v, signedQ_sub, abs_signedQ, abs_le]
  change n * unitAt f k ≤ |dyQ v| at hle
  constructor
  · show -unitAt f k ≤ n * unitAt f k - |dyQ v|
    linarith
  · show n * unitAt f k - |dyQ v| ≤ unitAt f k
    linarith

/-- So the places within a unit or more of a value are not empty. -/
theorem boundKeys_le {b : Dy} (hs : f.Sane) (h2 : |dyQ v| < (2 : ℚ) ^ (k + 1)) (hb : unitAt f k ≤ dyQ b)
    (hlow : -(2 : ℚ) ^ (f.bias + 1) < dyQ v - dyQ b) (hhigh : -(2 : ℚ) ^ f.bias ≤ dyQ v + dyQ b) :
    (boundKeys f v b).1 ≤ (boundKeys f v b).2 := by
  obtain ⟨⟨-, hl⟩, -, hlo⟩ := boundKeys_low hs hlow
  obtain ⟨-, -, -, htop, hhi⟩ := boundKeys_high hs hhigh
  have hu : 0 < unitAt f k := by unfold unitAt; positivity
  by_cases hbig : (2 : ℚ) ^ (f.bias + 1) ≤ dyQ v
  · rw [htop (by linarith)]; exact hl
  · have hpow : (2 : ℚ) ^ f.bias < 2 ^ (f.bias + 1) := pow_lt_pow_right₀ (by norm_num) (Nat.lt_succ_self _)
    obtain ⟨w, hw, hn, hd⟩ := number_near hs h2 (abs_lt.2 ⟨by linarith, not_le.1 hbig⟩)
    obtain ⟨hd1, hd2⟩ := abs_le.1 hd
    exact (hlo w hw hn (by linarith)).trans (hhi w hw hn (by linarith))

end

/-! ### What a special function returns -/

section
variable {fn : SpecFn} {f : FFmt} {mode w : Nat} {v : Dy} {ex : Bool} {k : Int}

/-- All but FRCP and FSQT take the table's value, or in f32 a float within the bound, or in bf16 the one nearest to f32's. -/
theorem specB_f32 (h1 : fn ≠ .rcp) (h2 : fn ≠ .sqt) : specB fn .f32 mode w =
    match specRes fn .f32 w with
    | .bits v fl => (packV .f32 v, fl)
    | .val v ex => bounded .f32 mode v ex (fn.ulps .f32) (fn.absBound .f32) (Config.specialChoice fn.code (4 * w + mode)) := by
  cases fn with
  | rcp => exact absurd rfl h1
  | sqt => exact absurd rfl h2
  | _ => rfl

theorem specB_narrow (hf : f ≠ .f32) (h1 : fn ≠ .rcp) (h2 : fn ≠ .sqt) : specB fn f mode w =
    match specRes fn f w with
    | .bits v fl => (packV f v, fl)
    | .val v ex => atKey f mode v ex (clampKey f v (boundOf f v (fn.ulps f) none)
        (floatKey f (cvtB .f32 f mode (spec32 fn mode (cvtB f .f32 mode w).1).1).1)) := by
  unfold specB
  rw [if_neg hf]
  cases fn with
  | rcp => exact absurd rfl h1
  | sqt => exact absurd rfl h2
  | _ => rfl

/-- A function whose result the table gives. -/
theorem specB_bits {x : FVal} {fl : Flags} (h1 : fn ≠ .rcp) (h2 : fn ≠ .sqt) (h : specRes fn f w = .bits x fl) :
    specB fn f mode w = (packV f x, fl) := by
  by_cases hf : f = .f32
  · subst hf; rw [specB_f32 h1 h2, h]
  · rw [specB_narrow hf h1 h2, h]

/-- A function whose result lies within its bound of a value: the float at a place within it. -/
theorem specB_val (h1 : fn ≠ .rcp) (h2 : fn ≠ .sqt) (h : specRes fn f w = .val v ex)
    (hle : (boundKeys f v (boundOf f v (fn.ulps f) (fn.absBound f))).1 ≤
      (boundKeys f v (boundOf f v (fn.ulps f) (fn.absBound f))).2) :
    ∃ k, (boundKeys f v (boundOf f v (fn.ulps f) (fn.absBound f))).1 ≤ k ∧
      k ≤ (boundKeys f v (boundOf f v (fn.ulps f) (fn.absBound f))).2 ∧ specB fn f mode w = atKey f mode v ex k := by
  by_cases hf : f = .f32
  · subst hf
    have hb : specB fn .f32 mode w =
        bounded .f32 mode v ex (fn.ulps .f32) (fn.absBound .f32) (Config.specialChoice fn.code (4 * w + mode)) := by
      rw [specB_f32 h1 h2, h]
    rw [hb]
    generalize Config.specialChoice fn.code (4 * w + mode) = choice
    generalize hB : boundOf FFmt.f32 v (fn.ulps .f32) (fn.absBound .f32) = b at hle ⊢
    have hbnd : bounded .f32 mode v ex (fn.ulps .f32) (fn.absBound .f32) choice = atKey .f32 mode v ex
        ((boundKeys .f32 v b).1 + ((choice % (((boundKeys .f32 v b).2 - (boundKeys .f32 v b).1).toNat + 1) : Nat) : Int)) := by
      rw [← hB]; rfl
    have hmod : choice % (((boundKeys .f32 v b).2 - (boundKeys .f32 v b).1).toNat + 1) <
      ((boundKeys .f32 v b).2 - (boundKeys .f32 v b).1).toNat + 1 := Nat.mod_lt _ (Nat.succ_pos _)
    exact ⟨_, by omega, by omega, hbnd⟩
  · have hb : ∃ j, specB fn f mode w = atKey f mode v ex (clampKey f v (boundOf f v (fn.ulps f) none) j) :=
      ⟨_, by rw [specB_narrow hf h1 h2, h]⟩
    obtain ⟨j, hj⟩ := hb
    have habs : fn.absBound f = none := if_neg hf
    rw [habs] at hle ⊢
    refine ⟨_, ?_, ?_, hj⟩
    · simp only [clampKey]
      split_ifs <;> omega
    · simp only [clampKey]
      split_ifs <;> omega

/-- The bound of R154: units in the last place, and in f32 for FSIN and FCOS at least 2^−26. -/
def specBound (fn : SpecFn) (f : FFmt) (k : Int) : ℚ :=
  if f = .f32 ∧ (fn = .sin ∨ fn = .cos) then max (fn.ulps f * unitAt f k) ((2 : ℚ) ^ (-26 : Int)) else fn.ulps f * unitAt f k

theorem ulps_within : 1 ≤ fn.ulps f ∧ fn.ulps f ≤ 3 := by
  unfold SpecFn.ulps
  refine if_keeps (P := fun n => 1 ≤ n ∧ n ≤ 3) ?_ (by decide)
  cases fn <;> decide

theorem boundOf_spec (h1 : (2 : ℚ) ^ k ≤ |dyQ v|) (h2 : |dyQ v| < (2 : ℚ) ^ (k + 1)) :
    dyQ (boundOf f v (fn.ulps f) (fn.absBound f)) = specBound fn f k := by
  obtain ⟨hnone, hsome⟩ := boundOf_q (f := f) h1 h2 (fn.ulps f)
  have habs : dyQ ⟨1, -26⟩ = 2 ^ (-26 : Int) := by rw [dyQ, Int.cast_one, one_mul]
  by_cases hc : f = .f32 ∧ (fn = .sin ∨ fn = .cos)
  · have ha : fn.absBound f = some ⟨1, -26⟩ := by
      obtain ⟨rfl, rfl | rfl⟩ := hc <;> rfl
    rw [specBound, if_pos hc, ha, hsome, habs]
  · have ha : fn.absBound f = none := by
      by_cases hf : f = .f32
      · subst hf
        cases fn with
        | sin => exact absurd ⟨rfl, .inl rfl⟩ hc
        | cos => exact absurd ⟨rfl, .inr rfl⟩ hc
        | _ => rfl
      · exact if_neg hf
    rw [specBound, if_neg hc, ha, hnone]

/-- The bound is far below the range of the format. -/
theorem specBound_small (hf : f = .f32 ∨ f = .bf16) (hv : -(2 : ℚ) ^ f.bias ≤ dyQ v) (h1 : (2 : ℚ) ^ k ≤ |dyQ v|) :
    unitAt f k ≤ specBound fn f k ∧ -(2 : ℚ) ^ (f.bias + 1) < dyQ v - specBound fn f k ∧
      -(2 : ℚ) ^ f.bias ≤ dyQ v + specBound fn f k := by
  obtain ⟨hu1, hu3⟩ := ulps_within (fn := fn) (f := f)
  have hb : specBound fn f k = fn.ulps f * unitAt f k ∨
      specBound fn f k = max (fn.ulps f * unitAt f k) ((2 : ℚ) ^ (-26 : Int)) :=
    (Classical.em _).symm.imp (fun h => if_neg h) fun h => if_pos h
  generalize specBound fn f k = b at hb ⊢
  generalize fn.ulps f = units at hu1 hu3 hb
  have hunit : 0 < unitAt f k := by unfold unitAt; positivity
  have hu1 : (1 : ℚ) ≤ units := by exact_mod_cast hu1
  have hu3 : (units : ℚ) ≤ 3 := by exact_mod_cast hu3
  have hle : unitAt f k ≤ b ∧ b ≤ max (4 * unitAt f k) (2 ^ (-26 : Int)) := by
    have h1 : unitAt f k ≤ units * unitAt f k := le_mul_of_one_le_left hunit.le hu1
    have h4 : (units : ℚ) * unitAt f k ≤ 4 * unitAt f k := mul_le_mul_of_nonneg_right (by linarith) hunit.le
    rcases hb with rfl | rfl
    · exact ⟨h1, h4.trans (le_max_left _ _)⟩
    · exact ⟨h1.trans (le_max_left _ _), max_le_max h4 le_rfl⟩
  have hfacts : -26 < (f.bias : Int) ∧ 7 ≤ (f.fbits : Int) ∧ f.emin < f.bias := by rcases hf with rfl | rfl <;> decide
  obtain ⟨hf1, hf2, hf3⟩ := hfacts
  have hfour : 4 * unitAt f k = 2 ^ (max k f.emin - f.fbits + 2) := by
    rw [unitAt, zpow_add₀ two_ne_zero]; norm_num; ring
  have hsucc : (2 : ℚ) ^ (f.bias + 1) = 2 ^ f.bias + 2 ^ f.bias := by rw [pow_succ]; ring
  have hcast : (2 : ℚ) ^ f.bias = 2 ^ (f.bias : Int) := (zpow_natCast _ _).symm
  have h26 : (2 : ℚ) ^ (-26 : Int) < 2 ^ (f.bias : Int) := two_zpow_lt.2 hf1
  refine ⟨hle.1, ?_, by linarith [hle.1]⟩
  rw [hsucc]
  rw [hcast] at hv ⊢
  by_cases hk : k ≤ f.bias
  · have hsmall : b < 2 ^ (f.bias : Int) := hle.2.trans_lt (max_lt (by rw [hfour]; exact two_zpow_lt.2 (by omega)) h26)
    linarith
  · have hbig : (2 : ℚ) ^ (f.bias : Int) < |dyQ v| := (two_zpow_lt.2 (by omega)).trans_le h1
    have hpos : 0 < dyQ v := by
      by_contra h
      rw [abs_of_nonpos (not_lt.1 h)] at hbig
      linarith
    rw [abs_of_pos hpos] at h1 hbig
    have hsmall : b ≤ dyQ v := hle.2.trans (max_le (by rw [hfour]; exact (two_zpow_le.2 (by omega)).trans h1) (h26.trans hbig).le)
    have : (0 : ℚ) < 2 ^ (f.bias : Int) := by positivity
    linarith

theorem special_within_bound (hf : f = .f32 ∨ f = .bf16) (hm : mode < 4) (hr : fn ≠ .rcp) (hq : fn ≠ .sqt)
    (h : specRes fn f w = .val v ex) (hv : -(2 : ℚ) ^ f.bias ≤ dyQ v) (h1 : (2 : ℚ) ^ k ≤ |dyQ v|)
    (h2 : |dyQ v| < (2 : ℚ) ^ (k + 1)) :
    let r := specB fn f mode w
    (r.2 &&& fOF = 0 → (unpack f r.1).num ∧ |(unpack f r.1).q - dyQ v| ≤ specBound fn f k ∧
      (r.2 = 0 ↔ ex = true ∧ (unpack f r.1).q = dyQ v)) ∧
    (r.2 &&& fOF ≠ 0 → (2 : ℚ) ^ (f.bias + 1) ≤ dyQ v + specBound fn f k ∧ (r.1 = f.inf false ∨ r.1 = f.maxFin false)) := by
  intro r
  have hs := sane_of (show f = .f32 ∨ f = .bf16 ∨ f = .f16 by tauto)
  obtain ⟨hle, hlow, hhigh⟩ := specBound_small (fn := fn) hf hv h1
  have hb := boundOf_spec (fn := fn) (f := f) h1 h2
  rw [← hb] at hle hlow hhigh
  obtain ⟨j, hj1, hj2, hj⟩ := specB_val (mode := mode) hr hq h (boundKeys_le hs h2 hle hlow hhigh)
  have hw := atKey_within hs (ex := ex) hm hlow hhigh hj1 hj2
  rw [← hj, hb] at hw
  exact hw

end

end Sys2Proof.Machine
end

section
/-! O60: the special values of the special functions (05 R154). -/

namespace Sys2Proof.Machine

section
variable {f : FFmt} {mode w : Nat} {fn : SpecFn}

/-- The pattern of 1, of one half and of −1. -/
theorem packV_ones (hf : f = .f32 ∨ f = .bf16) : packV f (.fin ⟨1, 0⟩) = f.bias * 2 ^ f.fbits ∧
    packV f (.fin ⟨1, -1⟩) = f.bias * 2 ^ f.fbits - 2 ^ f.fbits ∧
    packV f (.fin ⟨-1, 0⟩) = f.zero true + f.bias * 2 ^ f.fbits := by
  rcases hf with rfl | rfl <;> decide

theorem special_nan (hf : f = .f32 ∨ f = .bf16) (h : (unpack f w).isNan = true) (fn : SpecFn) :
    specB fn f mode w = (f.qnan, nvOf [unpack f w]) := by
  obtain ⟨s, hs⟩ := FVal.isNan_iff.1 h
  have hnv : nvOf [unpack f w] = if s then fNV else 0 := by rw [nvOf_eq, hs]; cases s <;> rfl
  rw [hnv]
  by_cases hr : fn = .rcp
  · subst hr
    rcases hf with rfl | rfl <;> simp only [specB, spec32, if_true, hs] <;> cases s <;> rfl
  · by_cases hq : fn = .sqt
    · subst hq
      rcases hf with rfl | rfl <;> simp only [specB, spec32, if_true, hs] <;> rfl
    · exact specB_bits hr hq (by rw [specRes, hs])

/-- FRCP and FSQT are divisions and square roots. -/
theorem specB_rcp (hf : f = .f32 ∨ f = .bf16) : specB .rcp f mode w = divV f mode (.fin ⟨1, 0⟩) (unpack f w) := by
  rcases hf with rfl | rfl <;> rfl

theorem specB_sqt (hf : f = .f32 ∨ f = .bf16) : specB .sqt f mode w = sqrtV f mode (unpack f w) := by
  rcases hf with rfl | rfl <;> rfl

/-- The result and flags of a value of the table. -/
def tableBits (f : FFmt) : SpecRes → Nat × Flags
  | .bits v fl => (packV f v, fl)
  | .val _ _ => (0, 0)

/-- At a zero and at an infinity all but FRCP and FSQT return the table's value. -/
theorem specB_edge (fn : SpecFn) (ht : fn ≠ .rcp ∧ fn ≠ .sqt) (n : Bool) :
    (unpack f w = .zero n → specB fn f mode w = tableBits f (specEdge fn false n)) ∧
      (unpack f w = .inf n → specB fn f mode w = tableBits f (specEdge fn true n)) := by
  have hbits : ∀ i, ∃ v fl, specEdge fn i n = .bits v fl := fun i => by
    cases fn <;> cases i <;> cases n <;> exact ⟨_, _, rfl⟩
  refine ⟨fun h => ?_, fun h => ?_⟩
  · obtain ⟨v, fl, he⟩ := hbits false
    rw [he]; exact specB_bits ht.1 ht.2 (by rw [specRes, h]; exact he)
  · obtain ⟨v, fl, he⟩ := hbits true
    rw [he]; exact specB_bits ht.1 ht.2 (by rw [specRes, h]; exact he)

theorem special_zero (hf : f = .f32 ∨ f = .bf16) {n : Bool} (h : unpack f w = .zero n) :
    let at_ := fun (fn : SpecFn) => specB fn f mode w
    let one := f.bias * 2 ^ f.fbits
    at_ .exp = (one, 0) ∧ at_ .exp2 = (one, 0) ∧ at_ .log = (f.inf true, fDZ) ∧
      at_ .log2 = (f.inf true, fDZ) ∧ at_ .rcp = (f.inf n, fDZ) ∧ at_ .sqt = (f.zero n, 0) ∧ at_ .rsq = (f.inf n, fDZ) ∧
      at_ .tnh = (f.zero n, 0) ∧ at_ .sig = (one - 2 ^ f.fbits, 0) ∧ at_ .glu = (f.zero n, 0) ∧ at_ .sin = (f.zero n, 0) ∧
      at_ .cos = (one, 0) := by
  intro at_ one
  obtain ⟨hone, hhalf, -⟩ := packV_ones hf
  have hat := fun fn ht => (specB_edge (f := f) (mode := mode) (w := w) fn ht n).1 h
  refine ⟨(hat .exp (by decide)).trans ?_, (hat .exp2 (by decide)).trans ?_, hat .log (by decide), hat .log2 (by decide),
    (specB_rcp hf).trans ?_, (specB_sqt hf).trans (by rw [h]; rfl), hat .rsq (by decide), hat .tnh (by decide),
    (hat .sig (by decide)).trans ?_, hat .glu (by decide), hat .sin (by decide), (hat .cos (by decide)).trans ?_⟩
  case refine_3 => rw [h]; cases n <;> rfl
  case refine_4 => exact congrArg (·, 0) hhalf
  all_goals exact congrArg (·, 0) hone

theorem special_inf (hf : f = .f32 ∨ f = .bf16) {n : Bool} (h : unpack f w = .inf n) :
    let at_ := fun (fn : SpecFn) => specB fn f mode w
    let one := f.bias * 2 ^ f.fbits
    let nan := (f.qnan, fNV)
    at_ .exp = (if n then f.zero false else f.inf false, 0) ∧ at_ .exp2 = at_ .exp ∧
      at_ .rcp = (f.zero n, 0) ∧ at_ .tnh = (f.zero n + one, 0) ∧ at_ .sig = (if n then f.zero false else one, 0) ∧
      at_ .glu = (if n then f.zero true else f.inf false, 0) ∧ at_ .sin = nan ∧ at_ .cos = nan ∧
      (n = false → at_ .log = (f.inf false, 0) ∧ at_ .log2 = (f.inf false, 0) ∧ at_ .sqt = (f.inf false, 0) ∧
        at_ .rsq = (f.zero false, 0)) := by
  intro at_ one nan
  obtain ⟨hone, -, hminus⟩ := packV_ones hf
  have hat := fun fn ht => (specB_edge (f := f) (mode := mode) (w := w) fn ht n).2 h
  refine ⟨(hat .exp (by decide)).trans ?_, (hat .exp2 (by decide)).trans (hat .exp (by decide)).symm,
    (specB_rcp hf).trans ?_, (hat .tnh (by decide)).trans ?_, (hat .sig (by decide)).trans ?_,
    (hat .glu (by decide)).trans ?_, hat .sin (by decide), hat .cos (by decide), fun h0 => ?_⟩
  · cases n <;> rfl
  · rw [h]; cases n <;> rfl
  · cases n
    · exact congrArg (·, 0) (hone.trans (Nat.zero_add _).symm)
    · exact congrArg (·, 0) hminus
  · cases n
    · exact congrArg (·, 0) hone
    · rfl
  · cases n <;> rfl
  · subst h0
    exact ⟨hat .log (by decide), hat .log2 (by decide), (specB_sqt hf).trans (by rw [h]; rfl), hat .rsq (by decide)⟩

/-- Below zero the logarithms and the roots are invalid. -/
theorem special_below (hf : f = .f32 ∨ f = .bf16)
    (h : ((unpack f w).num ∧ (unpack f w).q < 0) ∨ unpack f w = .inf true) :
    specB .log f mode w = (f.qnan, fNV) ∧ specB .log2 f mode w = (f.qnan, fNV) ∧ specB .sqt f mode w = (f.qnan, fNV) ∧
      specB .rsq f mode w = (f.qnan, fNV) := by
  rcases h with ⟨hn, hq⟩ | h
  · rcases FVal.num_cases hn (unpack_proper f w) with ⟨m, he⟩ | ⟨d, he, -⟩
    · rw [he, FVal.q_zero] at hq; exact absurd hq (lt_irrefl 0)
    · rw [he, FVal.q_fin, dyQ_lt_zero] at hq
      have hres : ∀ fn, fn = .log ∨ fn = .log2 ∨ fn = .rsq → specRes fn f w = .nv := fun fn hfn => by
        rw [specRes, he]
        rcases hfn with rfl | rfl | rfl <;> simp only [specFin, if_pos hq]
      refine ⟨specB_bits (by decide) (by decide) (hres _ (by simp)), specB_bits (by decide) (by decide) (hres _ (by simp)),
        (specB_sqt hf).trans ?_, specB_bits (by decide) (by decide) (hres _ (by simp))⟩
      rw [he]
      exact if_pos hq
  · have hat := fun fn ht => (specB_edge (f := f) (mode := mode) (w := w) fn ht true).2 h
    exact ⟨hat .log (by decide), hat .log2 (by decide), (specB_sqt hf).trans (by rw [h]; rfl), hat .rsq (by decide)⟩

/-- The logarithm of one is +0. -/
theorem special_log_one (hn : (unpack f w).num) (h : (unpack f w).q = 1) :
    specB .log f mode w = (f.zero false, 0) ∧ specB .log2 f mode w = (f.zero false, 0) := by
  rcases FVal.num_cases hn (unpack_proper f w) with ⟨m, he⟩ | ⟨d, he, -⟩
  · rw [he, FVal.q_zero] at h; exact absurd h zero_ne_one
  · rw [he, FVal.q_fin] at h
    have hneg : ¬d.m < 0 := fun k => by rw [← dyQ_lt_zero, h] at k; exact absurd k (by norm_num)
    have hone : Dy.eq d ⟨1, 0⟩ = true := by rw [Dy.eq_iff, h]; norm_num [dyQ]
    have hres : ∀ fn, fn = .log ∨ fn = .log2 → specRes fn f w = .bits (.zero false) 0 := fun fn hfn => by
      rw [specRes, he]
      rcases hfn with rfl | rfl <;> simp only [specFin, if_neg hneg, if_pos hone]
    exact ⟨specB_bits (by decide) (by decide) (hres _ (by simp)), specB_bits (by decide) (by decide) (hres _ (by simp))⟩

/-- FRCP is correctly rounded. -/
theorem special_rcp (hf : f = .f32 ∨ f = .bf16) (hm : mode < 4) (hn : (unpack f w).num) (h0 : (unpack f w).q ≠ 0) :
    RoundsTo f mode false (1 / (unpack f w).q) (specB .rcp f mode w) := by
  have hs := sane_of (show f = .f32 ∨ f = .bf16 ∨ f = .f16 by tauto)
  have h := divV_roundsTo hs hm (FVal.num_fin ⟨1, 0⟩) hn (one_ne_zero (α := Int)) (unpack_proper f w) h0
  have h1 : (FVal.fin ⟨1, 0⟩).q = 1 := by norm_num [dyQ]
  rw [h1] at h
  rw [specB_rcp hf]
  exact h.anySign (one_div_ne_zero h0)

/-- A number of the format is packed exactly. -/
theorem packV_q (hs : f.Sane) {n : Int} {e : Int} (hn : n.natAbs < 2 ^ (f.fbits + 1)) (he : f.emin - f.fbits ≤ e)
    (htop : (n.natAbs : ℚ) * 2 ^ e < 2 ^ (f.bias + 1 : Int)) : (unpack f (packV f (.fin ⟨n, e⟩))).q = dyQ ⟨n, e⟩ := by
  have hz := rndDyZ_roundsTo hs (show 0 < 4 by decide) (0 == 3) ⟨n, e⟩
  have h0 : (rndDyZ f 0 (0 == 3) ⟨n, e⟩).2 = 0 := by
    by_cases h : n = 0
    · rw [rndDyZ, if_pos h]
    · rw [rndDyZ, if_neg h]
      exact rndMag_exact hs (Int.natAbs_pos.2 h) hn he htop
  exact (hz.exact (by rw [h0]; decide)).1 h0

/-- 2 to an integer, and the logarithm of an integer power of two, are exact in f32. -/
theorem special_powers {n : Int} (hn : (unpack .f32 w).num) (h1 : -149 ≤ n) (h2 : n < 128) :
    ((unpack .f32 w).q = n → n ≠ 0 →
      (unpack .f32 (specB .exp2 .f32 mode w).1).q = (2 : ℚ) ^ n ∧ (specB .exp2 .f32 mode w).2 = 0) ∧
    ((unpack .f32 w).q = (2 : ℚ) ^ n →
      (unpack .f32 (specB .log2 .f32 mode w).1).q = n ∧ (specB .log2 .f32 mode w).2 = 0) := by
  have hs : FFmt.f32.Sane := sane_of (.inl rfl)
  rcases FVal.num_cases hn (unpack_proper .f32 w) with ⟨m, he⟩ | ⟨d, he, -⟩
  · rw [he, FVal.q_zero]
    exact ⟨fun h h0 => absurd (Int.cast_eq_zero.1 h.symm) h0, fun h => absurd h.symm (by positivity)⟩
  rw [he, FVal.q_fin]
  refine ⟨fun h h0 => ?_, fun h => ?_⟩
  · have hint : toInt 1 d = (n, true) := by
      have hr : roundInt 1 (n : ℚ) = n := by simp [roundInt]
      have hq : (toInt 1 d).1 = n := by rw [toInt_eq (by decide), h, hr]
      exact Prod.ext hq ((toInt_exact 1 d).2 (by rw [hq, h]))
    have hres : specRes .exp2 .f32 w = .bits (.fin ⟨1, n⟩) 0 := by
      rw [specRes, he]
      simp only [specFin, hint]
      rw [if_pos ⟨trivial, h1, h2⟩]; rfl
    rw [specB_bits (by decide) (by decide) hres]
    have hp := packV_q hs (n := 1) (e := n) (by decide) h1 (by
      rw [Int.natAbs_one, Nat.cast_one, one_mul]; exact two_zpow_lt.2 h2)
    exact ⟨hp.trans (by simp [dyQ]), rfl⟩
  · have hpos : 0 < dyQ d := h ▸ by positivity
    have hneg : ¬d.m < 0 := fun k => (dyQ_lt_zero.2 k).not_gt hpos
    have hl : (Nat.log2 d.m.natAbs : Int) + d.e = n := by
      apply leading_place
      · rw [abs_of_pos hpos, h]
      · rw [abs_of_pos hpos, h]; exact two_zpow_lt.2 (by omega)
    by_cases h0 : n = 0
    · subst h0
      rw [(special_log_one hn (by rw [he, FVal.q_fin, h, zpow_zero])).2]
      exact ⟨by rw [show unpack .f32 (FFmt.f32.zero false) = .zero false by decide]; simp, rfl⟩
    · have hone : ¬Dy.eq d ⟨1, 0⟩ = true := fun k => h0 (by
        rw [Dy.eq_iff, h] at k
        have hk : (2 : ℚ) ^ n = 2 ^ (0 : Int) := k.trans (by norm_num [dyQ])
        exact zpow_right_injective₀ (by norm_num) (by norm_num) hk)
      have hpow : d.m = ((2 ^ Nat.log2 d.m.natAbs : Nat) : Int) := by
        have hu : (2 : ℚ) ^ d.e ≠ 0 := by positivity
        have : (d.m : ℚ) = ((2 ^ Nat.log2 d.m.natAbs : Nat) : Int) := by
          refine mul_right_cancel₀ hu ?_
          rw [Int.cast_natCast, natPow_mul_zpow, hl]; exact h
        exact_mod_cast this
      have hres : specRes .log2 .f32 w = .bits (.fin ⟨n, 0⟩) 0 := by
        rw [specRes, he]
        simp only [specFin]
        rw [if_neg hneg, if_neg hone, if_pos hpow, hl]; rfl
      rw [specB_bits (by decide) (by decide) hres]
      have hp := packV_q hs (n := n) (e := 0) (by have : 149 < 2 ^ (FFmt.f32.fbits + 1) := by decide
                                                  omega) (by decide) (by
        rw [zpow_zero, mul_one]
        have : ((n.natAbs : Nat) : ℚ) ≤ (149 : Nat) := by exact_mod_cast (by omega : n.natAbs ≤ 149)
        refine this.trans_lt ?_
        rw [show FFmt.f32.bias = 127 from rfl]; norm_num)
      exact ⟨hp.trans (by simp [dyQ]), rfl⟩

end

end Sys2Proof.Machine
end

section
/-! O60: the square roots (03 R80, 05 R154). The model rounds a value between the two multiples of a small unit that enclose the
root, or the root itself; no float and no mean of two floats lies between them. -/

namespace Sys2Proof.Machine

/-! ### The integer square root -/

theorem sqrtN_spec (n : Nat) : ∀ (k acc : Nat), acc * acc ≤ n → n < (acc + 2 ^ k) * (acc + 2 ^ k) →
    sqrtN n k acc * sqrtN n k acc ≤ n ∧ n < (sqrtN n k acc + 1) * (sqrtN n k acc + 1)
  | 0, acc, h1, h2 => ⟨h1, h2⟩
  | k + 1, acc, h1, h2 => by
    rw [sqrtN]
    have hpow : acc + 2 ^ (k + 1) = acc + 2 ^ k + 2 ^ k := by rw [pow_succ]; ring
    by_cases h : (acc + 2 ^ k) * (acc + 2 ^ k) ≤ n
    · simp only [if_pos h]
      exact sqrtN_spec n k _ h (by rwa [← hpow])
    · simp only [if_neg h]
      exact sqrtN_spec n k _ h1 (not_le.1 h)

/-! ### A value beside a root -/

/-- `t` is the root of `x`, or the middle of the two multiples of the unit that enclose it. -/
structure BesideRoot (x t : ℚ) (s : Nat) (e : Int) : Prop where
  big : 2 ^ 40 ≤ s
  low : (s * (2 : ℚ) ^ e) * (s * 2 ^ e) ≤ x
  high : x < ((s + 1) * (2 : ℚ) ^ e) * ((s + 1) * 2 ^ e)
  root : (s * (2 : ℚ) ^ e) * (s * 2 ^ e) = x → t = s * 2 ^ e
  middle : (s * (2 : ℚ) ^ e) * (s * 2 ^ e) ≠ x → t = (s + 1 / 2) * 2 ^ e

section
variable {x t : ℚ} {s : Nat} {e : Int}

theorem BesideRoot.bounds (h : BesideRoot x t s e) : s * 2 ^ e ≤ t ∧ t ≤ (s + 1 / 2) * 2 ^ e := by
  have hu : (0 : ℚ) < 2 ^ e := by positivity
  by_cases hr : (s * (2 : ℚ) ^ e) * (s * 2 ^ e) = x
  · rw [h.root hr]; exact ⟨le_rfl, mul_le_mul_of_nonneg_right (by linarith) hu.le⟩
  · rw [h.middle hr]; exact ⟨mul_le_mul_of_nonneg_right (by linarith) hu.le, le_rfl⟩

theorem mul_self_le_iff {a b : ℚ} (ha : 0 ≤ a) (hb : 0 ≤ b) : a * a ≤ b * b ↔ a ≤ b :=
  (mul_self_le_mul_self_iff ha hb).symm

/-- Against multiples of the unit the value compares as the root does. -/
theorem BesideRoot.multiple (h : BesideRoot x t s e) (j : Nat) :
    (j * 2 ^ e ≤ t ↔ (j * (2 : ℚ) ^ e) * (j * 2 ^ e) ≤ x) ∧ (t ≤ j * 2 ^ e ↔ x ≤ (j * (2 : ℚ) ^ e) * (j * 2 ^ e)) := by
  have hu : (0 : ℚ) < 2 ^ e := by positivity
  obtain ⟨hb1, hb2⟩ := h.bounds
  have hs : (s : ℚ) * 2 ^ e < (s + 1) * 2 ^ e := mul_lt_mul_of_pos_right (by linarith) hu
  have hm1 : ((s : ℚ) + 1 / 2) * 2 ^ e < (s + 1) * 2 ^ e := mul_lt_mul_of_pos_right (by linarith) hu
  have hm0 : (s : ℚ) * 2 ^ e < (s + 1 / 2) * 2 ^ e := mul_lt_mul_of_pos_right (by linarith) hu
  have hpos : ∀ n : Nat, (0 : ℚ) ≤ n * 2 ^ e := fun n => by positivity
  have hsucc : ((s : ℚ) + 1) * 2 ^ e = ((s + 1 : Nat) : ℚ) * 2 ^ e := by push_cast; rfl
  rcases Nat.lt_or_ge s j with hj | hj
  · have hle : ((s : ℚ) + 1) * 2 ^ e ≤ j * 2 ^ e := by
      rw [hsucc]; exact mul_le_mul_of_nonneg_right (by exact_mod_cast hj) hu.le
    have hsq : ((s + 1) * (2 : ℚ) ^ e) * ((s + 1) * 2 ^ e) ≤ (j * 2 ^ e) * (j * 2 ^ e) := by
      rw [mul_self_le_iff (hsucc ▸ hpos _) (hpos _)]; exact hle
    exact ⟨⟨fun k => by linarith, fun k => by linarith [h.high]⟩, ⟨fun _ => by linarith [h.high], fun _ => by linarith⟩⟩
  · have hle : (j : ℚ) * 2 ^ e ≤ s * 2 ^ e := mul_le_mul_of_nonneg_right (by exact_mod_cast hj) hu.le
    have hsq := (mul_self_le_iff (hpos j) (hpos s)).2 hle
    refine ⟨⟨fun _ => hsq.trans h.low, fun _ => hle.trans hb1⟩, fun k => ?_, fun k => ?_⟩
    · have he : (j : ℚ) * 2 ^ e = s * 2 ^ e := le_antisymm hle (hb1.trans k)
      by_cases hr : (s * (2 : ℚ) ^ e) * (s * 2 ^ e) = x
      · rw [he, hr]
      · rw [h.middle hr, he] at k; linarith
    · have he := le_antisymm hsq (h.low.trans k)
      have hr : (s * (2 : ℚ) ^ e) * (s * 2 ^ e) = x := le_antisymm h.low (k.trans hsq)
      rw [h.root hr]
      exact (mul_self_le_iff (hpos s) (hpos j)).1 he.ge

/-- What has few digits is far below the root or a multiple of twice the unit. -/
theorem digits_cases {U : Nat} {q : Int} (hU : U < 2 ^ 30) :
    (U : ℚ) * 2 ^ q ≤ 2 ^ 30 * 2 ^ e ∨ ∃ j : Nat, (U : ℚ) * 2 ^ q = 2 * j * 2 ^ e := by
  rcases le_or_gt q e with hq | hq
  · left
    exact mul_le_mul (by exact_mod_cast hU.le) (two_zpow_le.2 hq) (by positivity) (by positivity)
  · right
    refine ⟨U * 2 ^ (q - e - 1).toNat, ?_⟩
    push_cast
    rw [← zpow_natCast, Int.toNat_of_nonneg (by omega),
      show q = (q - e - 1) + 1 + e by ring, zpow_add₀ two_ne_zero, zpow_add₀ two_ne_zero]
    norm_num; ring

/-- Against what has few digits the value compares as the root does. -/
theorem BesideRoot.compare (h : BesideRoot x t s e) {U : Nat} {q : Int} (hU : U < 2 ^ 30) :
    (U * 2 ^ q ≤ t ↔ (U * (2 : ℚ) ^ q) * (U * 2 ^ q) ≤ x) ∧ (t ≤ U * 2 ^ q ↔ x ≤ (U * (2 : ℚ) ^ q) * (U * 2 ^ q)) := by
  rcases digits_cases (e := e) (q := q) hU with hsmall | ⟨j, hj⟩
  · have hu : (0 : ℚ) < 2 ^ e := by positivity
    have hlt : (U : ℚ) * 2 ^ q < s * 2 ^ e := by
      have hbig : (2 : ℚ) ^ 40 ≤ s := by exact_mod_cast h.big
      exact hsmall.trans_lt (mul_lt_mul_of_pos_right (lt_of_lt_of_le (by norm_num) hbig) hu)
    have hsq : (U * (2 : ℚ) ^ q) * (U * 2 ^ q) < (s * 2 ^ e) * (s * 2 ^ e) := mul_self_lt_mul_self (by positivity) hlt
    have hb := h.bounds.1
    have hl := h.low
    exact ⟨⟨fun _ => by linarith, fun _ => by linarith⟩, ⟨fun _ => by linarith, fun _ => by linarith⟩⟩
  · have := h.multiple (2 * j)
    rw [Nat.cast_mul, Nat.cast_ofNat] at this
    rw [hj]; exact this

/-- The root itself, against multiples of the unit. -/
theorem BesideRoot.sqrt_le (h : BesideRoot x t s e) (j : Nat) (hj : t ≤ j * 2 ^ e) : √(x : ℝ) ≤ ((j * 2 ^ e : ℚ) : ℝ) := by
  refine Real.sqrt_le_iff.2 ⟨by positivity, ?_⟩
  rw [pow_two]
  exact_mod_cast (h.multiple j).2.1 hj

theorem BesideRoot.le_sqrt (h : BesideRoot x t s e) (j : Nat) (hj : j * 2 ^ e ≤ t) : ((j * 2 ^ e : ℚ) : ℝ) ≤ √(x : ℝ) := by
  refine Real.le_sqrt_of_sq_le ?_
  rw [pow_two]
  exact_mod_cast (h.multiple j).1.1 hj

/-- What is as near to the value as a number is so to the root. -/
theorem BesideRoot.nearest (h : BesideRoot x t s e) {y z : ℚ} {U : Nat} {q : Int} (hU : U < 2 ^ 30) (hz : |z| = U * 2 ^ q)
    (hy : ∃ j : Nat, y = 2 * j * 2 ^ e) (hy2 : y ≤ 3 / 2 * t) (hnear : |y - t| ≤ |z - t|) (hlarge : 2 ^ 30 * 2 ^ e < y) :
    |√(x : ℝ) - (y : ℝ)| ≤ |√(x : ℝ) - (z : ℝ)| := by
  have hu : (0 : ℚ) < 2 ^ e := by positivity
  obtain ⟨i, hi⟩ := hy
  have hbig : (2 : ℚ) ^ 40 ≤ s := by exact_mod_cast h.big
  obtain ⟨hb1, hb2⟩ := h.bounds
  have hlow := h.le_sqrt s hb1
  -- the mean of the two numbers, on the side of the root on which it is of the value
  have key : (z < y → 2 * √(x : ℝ) ≥ y + z) ∧ (y < z → 2 * √(x : ℝ) ≤ y + z) := by
    have hfar : ∀ w : ℚ, w ≤ 2 ^ 30 * 2 ^ e → 2 * √(x : ℝ) ≥ y + w := fun w hw => by
      have h1 : y + w ≤ 2 * (s * 2 ^ e) := by
        have : (3 / 4 + 2 ^ 30) * (2 : ℚ) ^ e ≤ (1 / 2 * s) * 2 ^ e := mul_le_mul_of_nonneg_right (by linarith) hu.le
        linarith
      have h2 : ((y + w : ℚ) : ℝ) ≤ 2 * ((s * 2 ^ e : ℚ) : ℝ) := by exact_mod_cast h1
      push_cast at h2 hlow
      linarith
    rcases lt_or_ge z 0 with hneg | hpos
    · exact ⟨fun _ => hfar z (hneg.le.trans (by positivity)), fun k => absurd (hlarge.trans k) (by
        have : (0 : ℚ) < 2 ^ 30 * 2 ^ e := by positivity
        linarith)⟩
    · rw [abs_of_nonneg hpos] at hz
      rcases digits_cases (e := e) (q := q) hU with hsmall | ⟨j, hj⟩
      · rw [← hz] at hsmall
        exact ⟨fun _ => hfar z hsmall, fun k => by linarith⟩
      · rw [hj] at hz
        have hmean : ((i + j : Nat) : ℚ) * 2 ^ e = (y + z) / 2 := by rw [hi, hz]; push_cast; ring
        refine ⟨fun k => ?_, fun k => ?_⟩
        · have hm : ((i + j : Nat) : ℚ) * 2 ^ e ≤ t := by
            rw [hmean]
            by_contra hc
            rw [abs_of_pos (by linarith : 0 < y - t)] at hnear
            rcases abs_cases (z - t) with ⟨ha, -⟩ | ⟨ha, -⟩ <;> rw [ha] at hnear <;> linarith
          have := h.le_sqrt _ hm
          rw [hmean] at this
          push_cast at this
          linarith
        · have hm : t ≤ ((i + j : Nat) : ℚ) * 2 ^ e := by
            rw [hmean]
            by_contra hc
            rw [abs_of_neg (by linarith : y - t < 0)] at hnear
            rcases abs_cases (z - t) with ⟨ha, -⟩ | ⟨ha, -⟩ <;> rw [ha] at hnear <;> linarith
          have := h.sqrt_le _ hm
          rw [hmean] at this
          push_cast at this
          linarith
  obtain ⟨k1, k2⟩ := key
  rcases lt_trichotomy z y with hlt | heq | hgt
  · have := k1 hlt
    have hlt' : (z : ℝ) < y := by exact_mod_cast hlt
    rw [abs_of_pos (by linarith : 0 < √(x : ℝ) - z)]
    exact abs_le.2 ⟨by linarith, by linarith⟩
  · rw [heq]
  · have := k2 hgt
    have hgt' : (y : ℝ) < z := by exact_mod_cast hgt
    rw [abs_of_neg (by linarith : √(x : ℝ) - z < 0)]
    exact abs_le.2 ⟨by linarith, by linarith⟩

end

/-! ### Rounding a value beside a root -/

section
variable {f : FFmt}

/-- The digits of a number. -/
theorem number_digits {w : Nat} (h : (unpack f w).num) :
    ∃ (U : Nat) (q : Int), U < 2 ^ (f.fbits + 1) ∧ |(unpack f w).q| = U * 2 ^ q := by
  have hlt : lowOf f w % 2 ^ f.fbits < 2 ^ f.fbits := Nat.mod_lt _ (by positivity)
  have hdm := Nat.div_add_mod (lowOf f w) (2 ^ f.fbits)
  rw [abs_unpack_q ((num_iff w).1 h), magOf_eq]
  refine ⟨_, _, ?_, rfl⟩
  rw [pow_succ]
  split
  · next h0 => rw [h0] at hdm; omega
  · omega

/-- A number has a pattern within the width. -/
theorem number_pattern {w : Nat} (h : (unpack f w).num) :
    ∃ u < 2 ^ f.width, (unpack f u).num ∧ (unpack f u).q = (unpack f w).q := by
  have hw := (num_iff w).1 h
  obtain ⟨h1, h2, h3⟩ := signBit_add (f := f) (k := lowOf f w) (Nat.mod_lt _ (by positivity)) (signOf f w)
  refine ⟨_, h1, (num_iff _).2 (by rw [h3]; exact hw), ?_⟩
  rw [unpack_q (by rw [h3]; exact hw), unpack_q hw, h2, h3]

/-- The least magnitude of a number. -/
theorem least_number {w : Nat} (hs : f.Sane) (h : (unpack f w).num) (h0 : (unpack f w).q ≠ 0) :
    (2 : ℚ) ^ (f.emin - f.fbits) ≤ |(unpack f w).q| := by
  have hone : magOf f 1 = 2 ^ (f.emin - f.fbits) := by
    rw [magOf, if_pos (Nat.div_eq_of_lt (Nat.one_lt_two_pow (by have := hs.fbits; omega))), Nat.cast_one, one_mul]
  have hl := abs_unpack_q ((num_iff w).1 h)
  rw [hl, ← hone]
  refine magOf_strictMono.monotone (Nat.one_le_iff_ne_zero.2 fun hz => h0 ?_)
  rw [hz, magOf_zero] at hl
  exact abs_eq_zero.1 hl

variable {x t : ℚ} {s : Nat} {e : Int} {mode : Nat} {r : Nat × Flags}

/-- What a number in range rounds to: no overflow, and no less than the power of two below. -/
theorem rounded_in_range {k : Int} (hs : f.Sane) (hm : mode < 4) (hr : RoundsTo f mode false t r) (hk1 : f.emin ≤ k)
    (hk2 : k < f.bias) (h1 : (2 : ℚ) ^ k ≤ t) (h2 : t < (2 : ℚ) ^ (k + 1)) :
    r.2 ≠ fOF ||| fNX ∧ (2 : ℚ) ^ k ≤ (unpack f r.1).q ∧ (mode = 0 → (unpack f r.1).q ≤ 3 / 2 * t) := by
  have hpos : (0 : ℚ) < 2 ^ k := by positivity
  have hneg : ¬t < 0 := by linarith
  have hsmall : t < 2 ^ (f.bias : Int) := h2.trans_le (two_zpow_le.2 (by omega))
  have hbig := maxFin_q_ge hs
  have htop := maxFin_lt_top hs
  have ho : r.2 ≠ fOF ||| fNX := fun ho => by
    have := hr.overflows.1 ho
    dsimp only at this
    rw [abs_of_nonneg (not_lt.1 hneg)] at this
    split at this
    · linarith
    · rcases this with ⟨-, k⟩ | ⟨-, k⟩ <;> linarith
  obtain ⟨w, hw, hn, hq⟩ := exists_number hs false (n := 1) (e := k) (Nat.one_lt_two_pow (Nat.succ_ne_zero _)) (by omega) (by
    rw [Nat.cast_one, one_mul]; exact two_zpow_lt.2 (by omega))
  rw [Nat.cast_one, one_mul] at hq
  have hq : (unpack f w).q = 2 ^ k := hq
  refine ⟨ho, ?_⟩
  interval_cases mode
  · have h := (hr.nearest ho rfl w hw hn).1
    have hd : |(unpack f w).q - t| = t - 2 ^ k := by rw [hq, abs_sub_comm, abs_of_nonneg (by linarith)]
    rw [hd] at h
    obtain ⟨h3, h4⟩ := abs_le.1 h
    have hdouble : t < 2 * 2 ^ k := by rw [zpow_add_one₀ two_ne_zero] at h2; linarith
    exact ⟨by linarith, fun _ => by linarith⟩
  · have h := (hr.towardZero ho rfl).2 w hw hn (by rw [hq, abs_of_pos hpos, abs_of_nonneg (not_lt.1 hneg)]; exact h1)
    have hsign := hr.sign (by linarith)
    rw [decide_eq_false hneg] at hsign
    have hpq : 0 ≤ (unpack f r.1).q := by
      by_contra hc
      have := signOf_of_q (hr.number ho).2 (by linarith)
      rw [decide_eq_true (not_le.1 hc)] at this
      exact Bool.noConfusion (this.symm.trans hsign)
    rw [hq, abs_of_pos hpos, abs_of_nonneg hpq] at h
    exact ⟨h, fun k => absurd k (by decide)⟩
  · exact ⟨h1.trans (hr.upward ho rfl).1, fun k => absurd k (by decide)⟩
  · have h := (hr.downward ho rfl).2 w hw hn (by rw [hq]; exact h1)
    exact ⟨by rwa [hq] at h, fun k => absurd k (by decide)⟩

/-- The root of a number of the format lies well within its range. -/
theorem root_in_range (hf : f = .f32 ∨ f = .bf16) (h : BesideRoot x t s e) (hlow : (2 : ℚ) ^ (f.emin - f.fbits) ≤ x)
    (hhigh : x < (2 : ℚ) ^ (f.bias + 1 : Int)) :
    ∃ k : Int, f.emin ≤ k ∧ k < f.bias ∧ (2 : ℚ) ^ k ≤ t ∧ t < (2 : ℚ) ^ (k + 1) := by
  have hu : (0 : ℚ) < 2 ^ e := by positivity
  have hs1 : (1 : ℚ) ≤ s := by
    have := h.big
    exact_mod_cast (Nat.one_le_two_pow.trans this)
  obtain ⟨hb1, hb2⟩ := h.bounds
  have hunit : (2 : ℚ) ^ e ≤ s * 2 ^ e := le_mul_of_one_le_left hu.le hs1
  have hpos : 0 < t := by linarith
  obtain ⟨k, hk1, hk2⟩ := exists_mem_Ico_zpow hpos (show (1 : ℚ) < 2 by norm_num)
  refine ⟨k, ?_, ?_, hk1, hk2⟩
  · have hx : x < 2 ^ (2 * k + 4) := by
      have hle : ((s : ℚ) + 1) * 2 ^ e ≤ 2 ^ (k + 2) := by
        rw [show k + 2 = k + 1 + 1 by ring, zpow_add_one₀ two_ne_zero]; linarith
      refine h.high.trans_le ?_
      rw [show 2 * k + 4 = (k + 2) + (k + 2) by ring, zpow_add₀ two_ne_zero]
      exact mul_self_le_mul_self (by positivity) hle
    have := two_zpow_lt.1 (hlow.trans_lt hx)
    have hfacts : 2 * f.emin + 4 ≤ f.emin - f.fbits := by rcases hf with rfl | rfl <;> decide
    omega
  · have hx : (2 : ℚ) ^ (2 * k - 2) ≤ x := by
      have hle : (2 : ℚ) ^ (k - 1) ≤ s * 2 ^ e := by
        rw [zpow_sub_one₀ two_ne_zero]; linarith
      rw [show 2 * k - 2 = (k - 1) + (k - 1) by ring, zpow_add₀ two_ne_zero]
      exact (mul_self_le_mul_self (by positivity) hle).trans h.low
    have := two_zpow_lt.1 (hx.trans_lt hhigh)
    have hfacts : 3 < (f.bias : Int) := by rcases hf with rfl | rfl <;> decide
    omega

/-- What the value beside the root rounds to is the root correctly rounded. -/
theorem rounded_root {w : Nat} (hf : f = .f32 ∨ f = .bf16) (hm : mode < 4) (hn : (unpack f w).num) (hx : (unpack f w).q = x)
    (hpos : 0 < x) (hB : BesideRoot x t s e) (hr : RoundsTo f mode false t r) :
    let y := unpack f r.1
    let near := fun (z : FVal) => |Real.sqrt ((x : ℚ) : ℝ) - ((z.q : ℚ) : ℝ)|
    y.num ∧ 0 < y.q ∧ r.2 = (if y.q * y.q = x then 0 else fNX) ∧
    (mode = 0 → ∀ v, (unpack f v).num → near y ≤ near (unpack f v)) ∧
    (mode = 1 ∨ mode = 3 → y.q * y.q ≤ x ∧ ∀ v, (unpack f v).num → (unpack f v).q * (unpack f v).q ≤ x →
      (unpack f v).q ≤ y.q) ∧
    (mode = 2 → x ≤ y.q * y.q ∧ ∀ v, (unpack f v).num → 0 < (unpack f v).q → x ≤ (unpack f v).q * (unpack f v).q →
      y.q ≤ (unpack f v).q) := by
  intro y near
  have hs := sane_of (show f = .f32 ∨ f = .bf16 ∨ f = .f16 by tauto)
  have hdig : ∀ {U : Nat}, U < 2 ^ (f.fbits + 1) → U < 2 ^ 30 := fun hU =>
    hU.trans_le (Nat.pow_le_pow_right (by decide) (by rcases hf with rfl | rfl <;> decide))
  have hlow : (2 : ℚ) ^ (f.emin - f.fbits) ≤ x := by
    rw [← abs_of_pos hpos, ← hx]
    exact least_number hs hn (by rw [hx]; exact hpos.ne')
  have hhigh : x < (2 : ℚ) ^ (f.bias + 1 : Int) := by
    have := (numbers_within hs hn).2
    rw [hx, ← zpow_natCast, Nat.cast_succ] at this
    exact this
  obtain ⟨k, hk1, hk2, hk3, hk4⟩ := root_in_range hf hB hlow hhigh
  obtain ⟨ho, hge, hle⟩ := rounded_in_range hs hm hr hk1 hk2 hk3 hk4
  obtain ⟨-, hy⟩ := hr.number ho
  have hp : (0 : ℚ) < 2 ^ k := by positivity
  have hyp : 0 < y.q := hp.trans_le hge
  have htp : 0 < t := hp.trans_le hk3
  have hcmp : ∀ v, (unpack f v).num → 0 ≤ (unpack f v).q →
      ((unpack f v).q ≤ t ↔ (unpack f v).q * (unpack f v).q ≤ x) ∧ (t ≤ (unpack f v).q ↔ x ≤ (unpack f v).q * (unpack f v).q) :=
    fun v hv h0 => by
      obtain ⟨U, q, hU, hq⟩ := number_digits hv
      rw [abs_of_nonneg h0] at hq
      rw [hq]; exact hB.compare (hdig hU)
  obtain ⟨hc1, hc2⟩ := hcmp r.1 hy hyp.le
  refine ⟨hy, hyp, ?_, fun h0 v hv => ?_, fun h13 => ?_, fun h2 => ?_⟩
  · have hex : r.2 = 0 ↔ y.q * y.q = x := by
      rw [hr.exact ho]
      exact ⟨fun h => le_antisymm (hc1.1 h.le) (hc2.1 h.ge), fun h => le_antisymm (hc1.2 h.le) (hc2.2 h.ge)⟩
    have htiny : r.2 ≠ fUF ||| fNX := fun h => by
      have hlt := (hr.tiny.1 h).2.2
      rw [abs_of_pos hyp] at hlt
      exact absurd (hge.trans_lt hlt) (not_lt.2 (two_zpow_le.2 hk1))
    split
    · next h => exact hex.2 h
    · next h =>
      rcases hr.flags with k | k | k | k
      · exact absurd (hex.1 k) h
      · exact k
      · exact absurd k htiny
      · exact absurd k ho
  · obtain ⟨u, hu, hun, huq⟩ := number_pattern hv
    obtain ⟨U, q, hU, hq⟩ := number_digits hun
    have hnear := (hr.nearest ho h0 u hu hun).1
    have hu2 : (0 : ℚ) < 2 ^ e := by positivity
    have hbig : (2 : ℚ) ^ 40 ≤ s := by exact_mod_cast hB.big
    have hlarge : 2 ^ 30 * 2 ^ e < y.q := by
      have h1 : (2 : ℚ) ^ 40 * 2 ^ e ≤ s * 2 ^ e := mul_le_mul_of_nonneg_right hbig hu2.le
      have h2 := hB.bounds.1
      have h3 : t < 2 * 2 ^ k := by rw [zpow_add_one₀ two_ne_zero] at hk4; linarith
      have h4 : (2 : ℚ) ^ k ≤ y.q := hge
      norm_num at h1 ⊢; linarith
    have hmult : ∃ j : Nat, y.q = 2 * j * 2 ^ e := by
      obtain ⟨U', q', hU', hq'⟩ := number_digits hy
      rw [abs_of_pos hyp] at hq'
      rcases digits_cases (e := e) (q := q') (hdig hU') with hsmall | ⟨j, hj⟩
      · rw [← hq'] at hsmall; exact absurd hlarge hsmall.not_gt
      · exact ⟨j, hq'.trans hj⟩
    show |√((x : ℚ) : ℝ) - _| ≤ |√((x : ℚ) : ℝ) - (((unpack f v).q : ℚ) : ℝ)|
    rw [← huq]
    exact hB.nearest (hdig hU) hq hmult (hle h0) hnear hlarge
  · have hle : y.q ≤ t ∧ ∀ v, v < 2 ^ f.width → (unpack f v).num → 0 ≤ (unpack f v).q → (unpack f v).q ≤ t →
        (unpack f v).q ≤ y.q := by
      rcases h13 with h1 | h3
      · obtain ⟨ha, hb⟩ := hr.towardZero ho h1
        rw [abs_of_pos hyp, abs_of_pos htp] at ha
        rw [abs_of_pos hyp, abs_of_pos htp] at hb
        exact ⟨ha, fun v hv hvn h0 h => by have := hb v hv hvn (by rwa [abs_of_nonneg h0]); rwa [abs_of_nonneg h0] at this⟩
      · obtain ⟨ha, hb⟩ := hr.downward ho h3
        exact ⟨ha, fun v hv hvn _ h => hb v hv hvn h⟩
    refine ⟨hc1.1 hle.1, fun v hv h => ?_⟩
    rcases lt_or_ge (unpack f v).q 0 with hneg | h0
    · exact hneg.le.trans hyp.le
    · obtain ⟨u, hu, hun, huq⟩ := number_pattern hv
      rw [← huq] at h h0 ⊢
      exact hle.2 u hu hun h0 ((hcmp u hun h0).1.2 h)
  · obtain ⟨ha, hb⟩ := hr.upward ho h2
    refine ⟨hc2.1 ha, fun v hv h0 h => ?_⟩
    obtain ⟨u, hu, hun, huq⟩ := number_pattern hv
    rw [← huq] at h h0 ⊢
    exact hb u hu hun ((hcmp u hun h0.le).2.2 h)

/-- The model's value beside the root of a positive number. -/
theorem sqrtDy_beside {v : Dy} (hv : 0 < v.m) :
    ∃ s e, BesideRoot (dyQ v) (((sqrtDy v).1 : ℚ) * 2 ^ (sqrtDy v).2) s e := by
  obtain ⟨sh, hsh⟩ : ∃ sh, sh = 80 + (if v.e % 2 = 0 then 0 else 1) := ⟨_, rfl⟩
  obtain ⟨n, hn⟩ : ∃ n, n = v.m.natAbs * 2 ^ sh := ⟨_, rfl⟩
  have heven : 2 * ((v.e - sh) / 2) = v.e - sh := by rw [hsh]; push_cast; split <;> omega
  have hbig : 2 ^ 80 ≤ n := by
    rw [hn]
    calc 2 ^ 80 ≤ 2 ^ sh := Nat.pow_le_pow_right (by decide) (by omega)
      _ ≤ v.m.natAbs * 2 ^ sh := Nat.le_mul_of_pos_left _ (by omega)
  have hdy : sqrtDy v = (2 * sqrtN n (Nat.log2 n / 2 + 1) 0 +
      (if sqrtN n (Nat.log2 n / 2 + 1) 0 * sqrtN n (Nat.log2 n / 2 + 1) 0 = n then 0 else 1),
      (v.e - sh) / 2 - 1) := by
    rw [hn, hsh]; rfl
  have hspec := sqrtN_spec n (Nat.log2 n / 2 + 1) 0 (Nat.zero_le _) (by
    rw [Nat.zero_add, ← pow_add]
    exact Nat.lt_log2_self.trans_le (Nat.pow_le_pow_right (by decide) (by omega)))
  rw [hdy]
  generalize sqrtN n (Nat.log2 n / 2 + 1) 0 = s at hspec
  obtain ⟨h1, h2⟩ := hspec
  generalize hE : (v.e - sh) / 2 = E at heven
  have hu : (0 : ℚ) < 2 ^ E := by positivity
  have hx : dyQ v = n * ((2 : ℚ) ^ E * 2 ^ E) := by
    rw [← zpow_add₀ two_ne_zero, show E + E = v.e - sh by omega, hn, dyQ, Nat.cast_mul, Nat.cast_pow, Nat.cast_ofNat, Nat.cast_natAbs,
      abs_of_pos hv, mul_assoc, ← zpow_natCast, ← zpow_add₀ two_ne_zero]
    congr 2; ring
  have hsq : ∀ j : ℚ, (j * (2 : ℚ) ^ E) * (j * 2 ^ E) = (j * j) * ((2 : ℚ) ^ E * 2 ^ E) := fun j => by ring
  have huu : (0 : ℚ) < 2 ^ E * 2 ^ E := by positivity
  have heq : (s * (2 : ℚ) ^ E) * (s * 2 ^ E) = dyQ v ↔ s * s = n := by
    rw [hsq, hx, mul_left_inj' huu.ne']; exact_mod_cast Iff.rfl
  refine ⟨s, E, ?_, ?_, ?_, fun h => ?_, fun h => ?_⟩
  · by_contra hc
    have : (s + 1) * (s + 1) ≤ 2 ^ 40 * 2 ^ 40 := Nat.mul_le_mul (by omega) (by omega)
    omega
  · rw [hsq, hx]
    exact mul_le_mul_of_nonneg_right (by exact_mod_cast h1) huu.le
  · rw [hsq, hx]
    exact mul_lt_mul_of_pos_right (by exact_mod_cast h2) huu
  · rw [if_pos (heq.1 h), zpow_sub_one₀ two_ne_zero]
    push_cast; ring
  · rw [if_neg fun k => h (heq.2 k), zpow_sub_one₀ two_ne_zero]
    push_cast; ring

/-- FSQT is correctly rounded. -/
theorem special_sqt {w : Nat} (hf : f = .f32 ∨ f = .bf16) (hm : mode < 4) (hn : (unpack f w).num) (h0 : 0 < (unpack f w).q) :
    ∃ s e t, BesideRoot (unpack f w).q t s e ∧ RoundsTo f mode false t (specB .sqt f mode w) := by
  have hs := sane_of (show f = .f32 ∨ f = .bf16 ∨ f = .f16 by tauto)
  rcases FVal.num_cases hn (unpack_proper f w) with ⟨m, he⟩ | ⟨d, he, hd⟩
  · rw [he, FVal.q_zero] at h0; exact absurd h0 (lt_irrefl 0)
  · rw [he, FVal.q_fin] at h0 ⊢
    have hneg : ¬d.m < 0 := fun k => (dyQ_lt_zero.2 k).not_gt h0
    obtain ⟨s, e, hB⟩ := sqrtDy_beside (v := d) (by omega)
    have hpos : 0 < (sqrtDy d).1 := by
      have hu : (0 : ℚ) < 2 ^ e := by positivity
      have hbig : (0 : ℚ) < s := by exact_mod_cast (by positivity : 0 < 2 ^ 40).trans_le hB.big
      have ht : (0 : ℚ) < ((sqrtDy d).1 : ℚ) * 2 ^ (sqrtDy d).2 := (mul_pos hbig hu).trans_le hB.bounds.1
      exact_mod_cast pos_of_mul_pos_left ht (by positivity)
    refine ⟨s, e, _, hB, ?_⟩
    have hr := rndMag_roundsTo hs hm false false (num := (sqrtDy d).1) (den := 1) (sqrtDy d).2 hpos one_pos
    rw [Nat.cast_one, div_one] at hr
    have hspec : specB .sqt f mode w = rndMag f mode false (sqrtDy d).1 1 (sqrtDy d).2 := by
      rw [specB_sqt hf, he]
      exact if_neg hneg
    rw [hspec]
    exact hr

end

/-! ### The reciprocal square root -/

/-- FRSQ's value is the reciprocal of the root, or just below it. -/
theorem rsqDy_spec {d : Dy} (hd : 0 < d.m) (hdig : d.m.natAbs < 2 ^ 100) :
    0 < dyQ (rsqDy d).1 ∧ dyQ (rsqDy d).1 * dyQ (rsqDy d).1 * dyQ d ≤ 1 ∧
      ((rsqDy d).2 = true ↔ dyQ (rsqDy d).1 * dyQ (rsqDy d).1 * dyQ d = 1) ∧
      1 < dyQ (rsqDy d).1 * dyQ (rsqDy d).1 * dyQ d * (1 + (2 : ℚ) ^ (-200 : Int)) := by
  obtain ⟨w, hw⟩ : ∃ w : Dy, w = if d.e % 2 = 0 then d else ⟨2 * d.m, d.e - 1⟩ := ⟨_, rfl⟩
  obtain ⟨n, hn⟩ : ∃ n, n = w.m.natAbs := ⟨_, rfl⟩
  have hwm : 0 < w.m ∧ w.m < 2 ^ 101 ∧ 2 * (w.e / 2) = w.e := by
    rw [hw]
    split
    · exact ⟨hd, by omega, by omega⟩
    · exact ⟨by dsimp only; omega, by dsimp only; omega, by dsimp only; omega⟩
  obtain ⟨hw0, hw1, heven⟩ := hwm
  have hn0 : 0 < n := by omega
  have hn1 : n < 2 ^ 101 := by omega
  have hr : rsqDy d = if n = 2 ^ Nat.log2 n ∧ Nat.log2 n % 2 = 0 then (⟨1, -((Nat.log2 n : Int) / 2) - w.e / 2⟩, true)
      else (⟨sqrtN (2 ^ 600 / n) 301 0, -300 - w.e / 2⟩, false) := by
    rw [hn, hw]; rfl
  have hwq : dyQ w = dyQ d := by
    rw [hw]
    split
    · rfl
    · rw [dyQ, dyQ, zpow_sub_one₀ two_ne_zero]; push_cast; ring
  have hval : dyQ d = n * ((2 : ℚ) ^ (w.e / 2) * 2 ^ (w.e / 2)) := by
    rw [← hwq, dyQ, hn, Nat.cast_natAbs, abs_of_pos hw0, ← zpow_add₀ two_ne_zero]
    congr 2; omega
  rw [hr, hval]
  generalize w.e / 2 = E
  have hu : (2 : ℚ) ^ E * 2 ^ (-E) = 1 := by rw [← zpow_add₀ two_ne_zero, add_neg_cancel, zpow_zero]
  by_cases hc : n = 2 ^ Nat.log2 n ∧ Nat.log2 n % 2 = 0
  · rw [if_pos hc]
    obtain ⟨h1, h2⟩ := hc
    generalize Nat.log2 n = l at h1 h2
    have hl : (n : ℚ) = 2 ^ ((l : Int) / 2) * 2 ^ ((l : Int) / 2) := by
      rw [h1, ← zpow_add₀ two_ne_zero, show (l : Int) / 2 + (l : Int) / 2 = l by omega]; push_cast; rw [zpow_natCast]
    have hone : dyQ ⟨1, -((l : Int) / 2) - E⟩ * dyQ ⟨1, -((l : Int) / 2) - E⟩ * (n * (2 ^ E * 2 ^ E)) = 1 := by
      have hz : (2 : ℚ) ^ ((l : Int) / 2) * 2 ^ (-((l : Int) / 2)) = 1 := by rw [← zpow_add₀ two_ne_zero, add_neg_cancel, zpow_zero]
      rw [dyQ, hl, sub_eq_add_neg, zpow_add₀ two_ne_zero, Int.cast_one]
      calc 1 * ((2 : ℚ) ^ (-((l : Int) / 2)) * 2 ^ (-E)) * (1 * (2 ^ (-((l : Int) / 2)) * 2 ^ (-E))) *
            (2 ^ ((l : Int) / 2) * 2 ^ ((l : Int) / 2) * (2 ^ E * 2 ^ E))
          = (2 ^ ((l : Int) / 2) * 2 ^ (-((l : Int) / 2))) ^ 2 * (2 ^ E * 2 ^ (-E)) ^ 2 := by ring
        _ = 1 := by rw [hz, hu]; norm_num
    refine ⟨by rw [dyQ]; positivity, hone.le, ⟨fun _ => hone, fun _ => rfl⟩, ?_⟩
    rw [hone, one_mul]
    exact lt_add_of_pos_right _ (by positivity)
  · rw [if_neg hc]
    have hspec := sqrtN_spec (2 ^ 600 / n) 301 0 (Nat.zero_le _) (by
      have : 2 ^ 600 / n ≤ 2 ^ 600 := Nat.div_le_self _ _
      rw [Nat.zero_add, ← pow_add]
      exact this.trans_lt (Nat.pow_lt_pow_right (by decide) (by decide)))
    generalize sqrtN (2 ^ 600 / n) 301 0 = s at hspec
    obtain ⟨h1, h2⟩ := hspec
    rw [Nat.le_div_iff_mul_le hn0] at h1
    rw [Nat.div_lt_iff_lt_mul hn0] at h2
    have hsq : dyQ ⟨s, -300 - E⟩ * dyQ ⟨s, -300 - E⟩ * (n * (2 ^ E * 2 ^ E)) = (s * s * n : Nat) / (2 ^ 600 : Nat) := by
      have h300 : (2 : ℚ) ^ (-300 : Int) * 2 ^ (-300 : Int) = 1 / (2 ^ 600 : Nat) := by
        rw [← zpow_add₀ two_ne_zero, one_div, Nat.cast_pow, Nat.cast_ofNat, ← zpow_natCast, ← zpow_neg]; rfl
      rw [dyQ, sub_eq_add_neg, zpow_add₀ two_ne_zero, Int.cast_natCast]
      calc (s : ℚ) * (2 ^ (-300 : Int) * 2 ^ (-E)) * (s * (2 ^ (-300 : Int) * 2 ^ (-E))) * (n * (2 ^ E * 2 ^ E))
          = s * s * n * (2 ^ (-300 : Int) * 2 ^ (-300 : Int)) * (2 ^ E * 2 ^ (-E)) ^ 2 := by ring
        _ = (s * s * n : Nat) / (2 ^ 600 : Nat) := by rw [h300, hu]; push_cast; ring
    have hs : 2 ^ 202 ≤ s := by
      by_contra hlt
      have h3 : (s + 1) * (s + 1) ≤ 2 ^ 202 * 2 ^ 202 := Nat.mul_le_mul (by omega) (by omega)
      have h4 : (s + 1) * (s + 1) * n ≤ 2 ^ 202 * 2 ^ 202 * 2 ^ 101 := Nat.mul_le_mul h3 hn1.le
      norm_num at h4 h2
      omega
    have hne : s * s * n ≠ 2 ^ 600 := fun he => by
      obtain ⟨a, -, ha⟩ := (Nat.dvd_prime_pow Nat.prime_two).1 (Dvd.intro_left _ he)
      obtain ⟨b, -, hb⟩ := (Nat.dvd_prime_pow Nat.prime_two).1 (Dvd.intro (s * n) (by rw [← mul_assoc]; exact he))
      rw [ha, hb, ← pow_add, ← pow_add] at he
      have hab := Nat.pow_right_injective le_rfl he
      exact hc (by rw [ha, Nat.log2_two_pow]; exact ⟨rfl, by omega⟩)
    have hp : (0 : ℚ) < (2 ^ 600 : Nat) := by positivity
    have hs0 : (0 : ℚ) < s := by exact_mod_cast (by positivity : 0 < 2 ^ 202).trans_le hs
    rw [hsq]
    refine ⟨mul_pos (Int.cast_pos.2 (Int.natCast_pos.2 (by exact_mod_cast hs0))) (by positivity), ?_,
      ⟨fun h => Bool.noConfusion h, fun h => ?_⟩, ?_⟩
    · rw [div_le_one hp]; exact_mod_cast h1
    · rw [div_eq_one_iff_eq hp.ne'] at h
      exact absurd (by exact_mod_cast h) hne
    · rw [div_mul_eq_mul_div, lt_div_iff₀ hp, one_mul]
      have hpc : (0 : ℚ) < 2 ^ (-200 : Int) := by positivity
      have hgrow : ((s : ℚ) + 1) * (s + 1) ≤ s * s * (1 + 2 ^ (-200 : Int)) := by
        have hs' : (2 : ℚ) ^ 202 ≤ s := by exact_mod_cast hs
        have hfour : (2 : ℚ) ^ 202 * 2 ^ (-200 : Int) = 4 := by norm_num
        generalize (2 : ℚ) ^ (-200 : Int) = c at hfour hpc
        have h4 : 4 * (s : ℚ) ≤ s * s * c := by
          rw [← hfour, mul_assoc (s : ℚ) s c, mul_comm (s : ℚ) (s * c), mul_right_comm, mul_right_comm (s : ℚ) c s]
          exact mul_le_mul_of_nonneg_right (mul_le_mul_of_nonneg_right hs' hs0.le) hpc.le
        have h1 : (1 : ℚ) ≤ s := le_trans (by norm_num) hs'
        linarith
      calc ((2 ^ 600 : Nat) : ℚ) < ((s + 1) * (s + 1) * n : Nat) := by exact_mod_cast h2
        _ = ((s : ℚ) + 1) * (s + 1) * n := by push_cast; ring
        _ ≤ s * s * (1 + 2 ^ (-200 : Int)) * n := mul_le_mul_of_nonneg_right hgrow (by positivity)
        _ = (s * s * n : Nat) * (1 + 2 ^ (-200 : Int)) := by push_cast; ring

end Sys2Proof.Machine
end

section
/-! O60, assembled: the special functions of both formats, and the three parts of the statement. -/

namespace Sys2Proof.Machine

section
variable {f : FFmt} {mode w : Nat}

/-- The digits of a finite pattern's number. -/
theorem unpack_digits {d : Dy} (h : unpack f w = .fin d) : d.m.natAbs < 2 ^ (f.fbits + 1) := by
  have hlt : lowOf f w % 2 ^ f.fbits < 2 ^ f.fbits := Nat.mod_lt _ (by positivity)
  have habs : ∀ {n : Nat} {e : Int}, FVal.fin ⟨if signOf f w then -(n : Int) else n, e⟩ = .fin d → d.m.natAbs = n := by
    rintro n e ⟨rfl⟩
    dsimp only
    split <;> omega
  rw [unpack_low_part] at h
  rw [pow_succ]
  split at h
  · split at h <;> cases h
  · split at h
    · split at h
      · cases h
      · rw [habs h]; omega
    · rw [habs h]; omega

theorem special_rsq (hf : f = .f32 ∨ f = .bf16) {v : Dy} {ex : Bool} (hn : (unpack f w).num) (h0 : 0 < (unpack f w).q)
    (h : specRes .rsq f w = .val v ex) :
    0 < dyQ v ∧ dyQ v * dyQ v * (unpack f w).q ≤ 1 ∧ (ex = true ↔ dyQ v * dyQ v * (unpack f w).q = 1) ∧
      1 < dyQ v * dyQ v * (unpack f w).q * (1 + (2 : ℚ) ^ (-200 : Int)) := by
  rcases FVal.num_cases hn (unpack_proper f w) with ⟨m, he⟩ | ⟨d, he, hd⟩
  · rw [he, FVal.q_zero] at h0; exact absurd h0 (lt_irrefl 0)
  · have hdig := (unpack_digits he).trans_le (Nat.pow_le_pow_right (by decide : 0 < 2)
      (show f.fbits + 1 ≤ 100 by rcases hf with rfl | rfl <;> decide))
    rw [he, FVal.q_fin] at h0 ⊢
    have hneg : ¬d.m < 0 := fun k => (dyQ_lt_zero.2 k).not_gt h0
    have hres : specRes .rsq f w = .val (rsqDy d).1 (rsqDy d).2 := by
      rw [specRes, he]
      exact if_neg hneg
    rw [hres] at h
    obtain ⟨rfl, rfl⟩ := SpecRes.val.inj h
    exact rsqDy_spec (by omega) hdig

/-- The statement's third part. -/
theorem special_functions (f : FFmt) (mode w : Nat) (hf : f = .f32 ∨ f = .bf16) (hm : mode < 4) :
    let x := unpack f w
    let at_ := fun (fn : SpecFn) => specB fn f mode w
    let one := f.bias * 2 ^ f.fbits
    let below := (x.num ∧ x.q < 0) ∨ x = .inf true
    let nan := (f.qnan, fNV)
    (∀ fn, x.isNan = true → at_ fn = (f.qnan, nvOf [x])) ∧
    (∀ n, x = .zero n → at_ .exp = (one, 0) ∧ at_ .exp2 = (one, 0) ∧ at_ .log = (f.inf true, fDZ) ∧
      at_ .log2 = (f.inf true, fDZ) ∧ at_ .rcp = (f.inf n, fDZ) ∧ at_ .sqt = (f.zero n, 0) ∧ at_ .rsq = (f.inf n, fDZ) ∧
      at_ .tnh = (f.zero n, 0) ∧ at_ .sig = (one - 2 ^ f.fbits, 0) ∧ at_ .glu = (f.zero n, 0) ∧ at_ .sin = (f.zero n, 0) ∧
      at_ .cos = (one, 0)) ∧
    (∀ n, x = .inf n → at_ .exp = (if n then f.zero false else f.inf false, 0) ∧ at_ .exp2 = at_ .exp ∧
      at_ .rcp = (f.zero n, 0) ∧ at_ .tnh = (f.zero n + one, 0) ∧ at_ .sig = (if n then f.zero false else one, 0) ∧
      at_ .glu = (if n then f.zero true else f.inf false, 0) ∧ at_ .sin = nan ∧ at_ .cos = nan ∧
      (n = false → at_ .log = (f.inf false, 0) ∧ at_ .log2 = (f.inf false, 0) ∧ at_ .sqt = (f.inf false, 0) ∧
        at_ .rsq = (f.zero false, 0))) ∧
    (below → at_ .log = nan ∧ at_ .log2 = nan ∧ at_ .sqt = nan ∧ at_ .rsq = nan) ∧
    (x.q = 1 → x.num → at_ .log = (f.zero false, 0) ∧ at_ .log2 = (f.zero false, 0)) ∧
    (∀ n : Int, f = .f32 → x.num → -149 ≤ n → n < 128 →
      (x.q = n → n ≠ 0 → (unpack f (at_ .exp2).1).q = (2 : ℚ) ^ n ∧ (at_ .exp2).2 = 0) ∧
      (x.q = (2 : ℚ) ^ n → (unpack f (at_ .log2).1).q = n ∧ (at_ .log2).2 = 0)) ∧
    (x.num → x.q ≠ 0 → RoundsTo f mode false (1 / x.q) (at_ .rcp)) ∧
    (x.num → 0 < x.q →
      let r := at_ .sqt
      let y := unpack f r.1
      let near := fun (z : FVal) => |Real.sqrt ((x.q : ℚ) : ℝ) - ((z.q : ℚ) : ℝ)|
      y.num ∧ 0 < y.q ∧ r.2 = (if y.q * y.q = x.q then 0 else fNX) ∧
      (mode = 0 → ∀ v, (unpack f v).num → near y ≤ near (unpack f v)) ∧
      (mode = 1 ∨ mode = 3 → y.q * y.q ≤ x.q ∧ ∀ v, (unpack f v).num → (unpack f v).q * (unpack f v).q ≤ x.q →
        (unpack f v).q ≤ y.q) ∧
      (mode = 2 → x.q ≤ y.q * y.q ∧ ∀ v, (unpack f v).num → 0 < (unpack f v).q → x.q ≤ (unpack f v).q * (unpack f v).q →
        y.q ≤ (unpack f v).q)) ∧
    (∀ fn v ex, fn ≠ .rcp → fn ≠ .sqt → specRes fn f w = .val v ex → dyQ v ≠ 0 → -(2 : ℚ) ^ f.bias ≤ dyQ v →
      ∀ k : Int, (2 : ℚ) ^ k ≤ |dyQ v| → |dyQ v| < (2 : ℚ) ^ (k + 1) →
      let r := at_ fn
      let units : Nat := if f = .bf16 then 1 else match fn with
        | .tnh | .sig | .sin | .cos => 2
        | .glu | .phi => 3
        | _ => 1
      let ulps : ℚ := units * (2 : ℚ) ^ (max k f.emin - f.fbits)
      let bound := if f = .f32 ∧ (fn = .sin ∨ fn = .cos) then max ulps ((2 : ℚ) ^ (-26 : Int)) else ulps
      (r.2 &&& fOF = 0 → (unpack f r.1).num ∧ |(unpack f r.1).q - dyQ v| ≤ bound ∧
        (r.2 = 0 ↔ ex = true ∧ (unpack f r.1).q = dyQ v)) ∧
      (r.2 &&& fOF ≠ 0 → (2 : ℚ) ^ (f.bias + 1) ≤ dyQ v + bound ∧ (r.1 = f.inf false ∨ r.1 = f.maxFin false))) ∧
    (∀ v ex, x.num → 0 < x.q → specRes .rsq f w = .val v ex → 0 < dyQ v ∧ dyQ v * dyQ v * x.q ≤ 1 ∧
      (ex = true ↔ dyQ v * dyQ v * x.q = 1) ∧ 1 < dyQ v * dyQ v * x.q * (1 + (2 : ℚ) ^ (-200 : Int))) := by
  intro x at_ one below nan
  refine ⟨fun fn h => special_nan hf h fn, fun n h => special_zero hf h, fun n h => special_inf hf h, special_below hf,
    fun h hn => special_log_one hn h, ?_, special_rcp hf hm, fun hn h0 => ?_, ?_, fun v ex hn h0 h => special_rsq hf hn h0 h⟩
  · rintro n rfl hn h1 h2
    exact special_powers hn h1 h2
  · obtain ⟨s, e, t, hB, hr⟩ := special_sqt (mode := mode) hf hm hn h0
    exact rounded_root hf hm hn rfl h0 hB hr
  · intro fn v ex hr hq h _ hv k h1 h2 r units ulps bound
    have hunits : units = fn.ulps f := by
      rcases hf with rfl | rfl <;> cases fn <;> rfl
    have hbound : bound = specBound fn f k := by
      simp only [bound, ulps, hunits, specBound, unitAt]
    rw [hbound]
    exact special_within_bound hf hm hr hq h hv h1 h2

end

/-- Settles O60: operation by operation, each a single rounding of its exact value or a value of its table. -/
theorem floatArithmeticRoundsOnce : Obligations.FloatArithmeticRoundsOnce := by
  unfold Obligations.FloatArithmeticRoundsOnce
  refine ⟨arithmetic_rounds_once, ⟨selections_and_scaling,
    fun f g mode a _ hg hm => ⟨cvtB_nan, fun n h => ?_, cvtB_roundsTo (sane_of hg) hm⟩,
    fun s t mode a _ ht hm => conversions s t mode a ht hm⟩, special_functions⟩
  rw [cvtB, h]

end Sys2Proof.Machine
end

section
/-! O40: the elements of a Kantele (03 R95 to R97, 06 R180, R181). -/

namespace Sys2Proof.Machine

/-! ### One contribution (03 R95) -/

section
variable {x : Acc} {anchor n e : Int}

/-- A contribution of whole units to a live element: the exact sum, saturated. -/
theorem Acc.add_whole (hn : x.nan = false) (ho : x.ovf = false) (he : 0 ≤ e - anchor + 64) :
    x.add anchor (some (n, e)) =
      let v := x.a.toInt + n * 2 ^ (e - anchor + 64).toNat
      if (2 ^ 127 : Int) - 1 < v then { x with a := BitVec.ofInt 128 (2 ^ 127 - 1), ovf := true }
      else if v < -(2 ^ 127 : Int) then { x with a := BitVec.ofInt 128 (-(2 ^ 127)), ovf := true }
      else { x with a := BitVec.ofInt 128 v } := by
  have hin : (x.inexact || (decide (e - anchor + 64 < 0) && decide (n % (2 ^ (-(e - anchor + 64)).toNat : Nat) ≠ 0))) = x.inexact := by
    rw [decide_eq_false (by omega), Bool.false_and, Bool.or_false]
  simp only [Acc.add, hn, ho, Bool.or_self, Bool.false_eq_true, if_false, if_pos he, hin]
  norm_cast

/-- A 128-bit number holds every integer of its range. -/
theorem toInt_ofInt128 {v : Int} (h1 : -(2 : Int) ^ 127 ≤ v) (h2 : v < 2 ^ 127) : (BitVec.ofInt 128 v).toInt = v := by
  rw [BitVec.toInt_ofInt]
  exact Int.bmod_eq_of_le (by norm_num at h1 ⊢; omega) (by norm_num at h2 ⊢; omega)

theorem contribution (x : Acc) (anchor n e : Int) (hn : x.nan = false) (ho : x.ovf = false) (he : 0 ≤ e - anchor + 64) :
    let v := x.a.toInt + n * 2 ^ (e - anchor + 64).toNat
    let y := x.add anchor (some (n, e))
    (-(2 : Int) ^ 127 ≤ v → v < 2 ^ 127 → y.a.toInt = v ∧ y = { x with a := y.a }) ∧
    ((2 : Int) ^ 127 ≤ v → y.a.toInt = 2 ^ 127 - 1 ∧ y.ovf = true) ∧
    (v < -(2 : Int) ^ 127 → y.a.toInt = -2 ^ 127 ∧ y.ovf = true) ∧
    (x.add anchor none).nan = true := by
  have hadd := Acc.add_whole (n := n) hn ho he
  intro v y
  have hy : y = _ := hadd
  refine ⟨fun h1 h2 => ?_, fun h => ?_, fun h => ?_, ?_⟩
  · rw [hy]
    simp only [if_neg (show ¬(2 ^ 127 : Int) - 1 < v by omega), if_neg (show ¬v < -(2 ^ 127 : Int) by omega), v]
    exact ⟨toInt_ofInt128 h1 h2, trivial⟩
  · rw [hy]
    simp only [if_pos (show (2 ^ 127 : Int) - 1 < v by omega), v]
    exact ⟨toInt_ofInt128 (by norm_num) (by norm_num), trivial⟩
  · rw [hy]
    simp only [if_neg (show ¬(2 ^ 127 : Int) - 1 < v by omega), if_pos h, v]
    exact ⟨toInt_ofInt128 (by norm_num) (by norm_num), trivial⟩
  · simp [Acc.add, hn, ho]

end

/-! ### Tables set place by place -/

/-- Of places set once each from what stands there, each takes its own, and no other changes. -/
theorem get_foldl_places {α β : Type} [DecidableEq α] {d : α} {key : β → Nat} {g : β → α → α} {l : List β}
    (hl : (l.map key).Nodup) (t : Tbl α) :
    let w := l.foldl (fun t b => Tbl.set d t (key b) (g b (Tbl.get d t (key b)))) t
    (∀ b ∈ l, Tbl.get d w (key b) = g b (Tbl.get d t (key b))) ∧
      ∀ i, (∀ b ∈ l, key b ≠ i) → Tbl.get d w i = Tbl.get d t i := by
  induction l generalizing t with
  | nil => exact ⟨fun b hb => absurd hb List.not_mem_nil, fun _ _ => rfl⟩
  | cons c l ih =>
    rw [List.map_cons, List.nodup_cons] at hl
    obtain ⟨hc, hl⟩ := hl
    obtain ⟨hin, hout⟩ := ih hl (Tbl.set d t (key c) (g c (Tbl.get d t (key c))))
    refine ⟨fun b hb => ?_, fun i hi => ?_⟩
    · rcases List.mem_cons.1 hb with rfl | hb
      · rw [List.foldl_cons, hout _ fun a ha he => hc (List.mem_map.2 ⟨a, ha, he⟩), Tbl.get_set_same]
      · rw [List.foldl_cons, hin b hb, Tbl.get_set_ne]
        exact fun he => hc (List.mem_map.2 ⟨b, hb, he⟩)
    · rw [List.foldl_cons, hout i fun b hb => hi b (List.mem_cons_of_mem _ hb), Tbl.get_set_ne]
      exact (hi c List.mem_cons_self).symm

/-- The places of the elements of `R` rows and `N` columns, in row-major order. -/
def elementPairs (R N : Nat) : List (Nat × Nat) := (List.range R).product (List.range N)

def elementKey (p : Nat × Nat) : Nat := p.1 * 512 + p.2

theorem mem_elementPairs {R N : Nat} {p : Nat × Nat} : p ∈ elementPairs R N ↔ p.1 < R ∧ p.2 < N := by
  have h := List.pair_mem_product (xs := List.range R) (ys := List.range N) (x := p.1) (y := p.2)
  rw [List.mem_range, List.mem_range] at h
  exact h

theorem elementKeys_nodup {R N : Nat} (hN : N ≤ 512) : ((elementPairs R N).map elementKey).Nodup := by
  refine List.Nodup.map_on (fun p hp q hq he => ?_) (List.nodup_range.product List.nodup_range)
  have h1 := (mem_elementPairs.1 hp).2
  have h2 := (mem_elementPairs.1 hq).2
  simp only [elementKey] at he
  exact Prod.ext (by omega) (by omega)

theorem elementKey_mem {R N : Nat} (hN : N ≤ 512) (i : Nat) :
    (∃ p ∈ elementPairs R N, elementKey p = i) ↔ i / 512 < R ∧ i % 512 < N := by
  refine ⟨fun ⟨p, hp, he⟩ => ?_, fun ⟨h1, h2⟩ => ⟨(i / 512, i % 512), mem_elementPairs.2 ⟨h1, h2⟩, ?_⟩⟩
  · obtain ⟨h1, h2⟩ := mem_elementPairs.1 hp
    simp only [elementKey] at he
    exact ⟨by omega, by omega⟩
  · simp only [elementKey]; omega

/-! ### The contributions of an MMP (06 R180) -/

section
variable {r : Rec} {mode p : Nat} {anchor : Int} {act scales : List Byte} {planes : List (List Nat)}

/-- An element after the contributions of its row and column. -/
def mmpElem (r : Rec) (mode p : Nat) (anchor : Int) (act : List Byte) (planes : List (List Nat)) (scales : List Byte)
    (q : Nat × Nat) (x : Acc) : Acc :=
  ((List.range (mKb r)).flatMap fun kb => blockTerms mode p (actBlock r act q.1 kb)
    (wgtBlock r (planeRange mode p).1 planes scales q.2 kb)).foldl (fun e t => e.add anchor t) (if mStart r then {} else x)

theorem mmpElems_eq (bank : Tbl Acc) : mmpElems r mode p anchor act planes scales bank =
    (elementPairs (mCc r * mM r) (mN r)).foldl (fun t q => Tbl.set {} t (elementKey q)
      (mmpElem r mode p anchor act planes scales q (Tbl.get {} t (elementKey q)))) bank := by
  simp only [elementPairs, List.product, List.foldl_flatMap, List.foldl_map]
  rfl

theorem mmpElems_get (hN : mN r ≤ 512) (bank : Tbl Acc) :
    (∀ row n, row < mCc r * mM r → n < mN r → Tbl.get {} (mmpElems r mode p anchor act planes scales bank) (row * 512 + n) =
      mmpElem r mode p anchor act planes scales (row, n) (Tbl.get {} bank (row * 512 + n))) ∧
    (∀ i, ¬(i / 512 < mCc r * mM r ∧ i % 512 < mN r) →
      Tbl.get {} (mmpElems r mode p anchor act planes scales bank) i = Tbl.get {} bank i) := by
  obtain ⟨hin, hout⟩ := get_foldl_places (d := ({} : Acc)) (g := mmpElem r mode p anchor act planes scales)
    (elementKeys_nodup (R := mCc r * mM r) hN) bank
  rw [← mmpElems_eq] at hin hout
  refine ⟨fun row n h1 h2 => hin (row, n) (mem_elementPairs.2 ⟨h1, h2⟩), fun i hi => hout i fun q hq he => hi ?_⟩
  exact (elementKey_mem hN i).1 ⟨q, hq, he⟩

end

/-! ### The drain of an MDR (03 R97, 06 R181) -/

section
variable {r : Rec} {x : Cluster}

theorem drained_eq (r : Rec) (bank : Tbl Acc) :
    drained r bank = (elementPairs (rR r) (rN r)).map fun q => (elementKey q, Tbl.get {} bank (elementKey q)) := by
  simp only [drained, elementPairs, List.product, List.map_flatMap, List.map_map]
  rfl

/-- Elements in row-major order, by their number. -/
theorem elementPairs_eq_range (R N : Nat) : elementPairs R N = (List.range (R * N)).map fun i => (i / N, i % N) := by
  induction R with
  | zero => simp [elementPairs, List.product]
  | succ R ih =>
    have hrow : (List.range N).map (fun n => (R, n)) = (List.range N).map fun n => ((R * N + n) / N, (R * N + n) % N) := by
      refine List.map_congr_left fun n hn => ?_
      have hn := List.mem_range.1 hn
      rw [Nat.mul_comm R N, Nat.mul_add_div (by omega), Nat.div_eq_of_lt hn, Nat.mul_add_mod, Nat.mod_eq_of_lt hn, Nat.add_zero]
    have hs : elementPairs (R + 1) N = elementPairs R N ++ (List.range N).map fun n => (R, n) := by
      simp [elementPairs, List.product, List.range_succ, List.flatMap_append]
    rw [hs, ih, hrow, Nat.succ_mul, List.range_add, List.map_append, List.map_map]
    rfl

theorem drained_range (r : Rec) (bank : Tbl Acc) : drained r bank = (List.range (rR r * rN r)).map fun i =>
    (i / rN r * 512 + i % rN r, Tbl.get {} bank (i / rN r * 512 + i % rN r)) := by
  rw [drained_eq, elementPairs_eq_range, List.map_map]
  rfl

/-- The elements that MDR clears. -/
theorem cleared_get (hN : rN r ≤ 512) (bank : Tbl Acc) (i : Nat) :
    Tbl.get {} ((drained r bank).foldl (fun b e => Tbl.set {} b e.1 {}) bank) i =
      if i / 512 < rR r ∧ i % 512 < rN r then {} else Tbl.get {} bank i := by
  obtain ⟨hin, hout⟩ := get_foldl_places (d := ({} : Acc)) (g := fun _ _ => {}) (elementKeys_nodup (R := rR r) hN) bank
  rw [drained_eq, List.foldl_map]
  split
  · next h =>
    obtain ⟨q, hq, rfl⟩ := (elementKey_mem hN i).2 h
    exact hin q hq
  · next h => exact hout i fun q hq he => h ((elementKey_mem hN i).1 ⟨q, hq, he⟩)

/-- Bit pairs packed in order are the sum of their weights. -/
theorem packBits_two {n : Nat} (g : Nat → Nat) (hg : ∀ i, g i < 4) :
    packBits 2 ((List.range n).map g) = ((List.range n).map fun i => g i * 4 ^ i).sum := by
  induction n generalizing g with
  | zero => rfl
  | succ n ih =>
    have hfour : ((List.range n).map fun i => g (i + 1) * 4 ^ (i + 1)).sum = 4 * ((List.range n).map fun i => g (i + 1) * 4 ^ i).sum := by
      rw [← List.sum_map_mul_left]
      exact congrArg List.sum (List.map_congr_left fun i _ => by rw [pow_succ]; ring)
    rw [List.range_succ_eq_map, List.map_cons, List.map_map, packBits, List.map_cons, List.map_map, List.sum_cons]
    simp only [Function.comp_def, Nat.succ_eq_add_one, pow_zero, mul_one]
    rw [hfour, ih (fun i => g (i + 1)) fun i => hg (i + 1)]
    exact congrArg (· + _) (Nat.mod_eq_of_lt (hg 0))

end

end Sys2Proof.Machine
end

section
/-! O40: what the commands of a Kantele leave as it was. -/

namespace Sys2Proof.Machine

/-! ### Chains and clusters -/

/-- The chains and the clusters stand. -/
structure SameEngines (m n : Module) : Prop where
  chains : n.chains = m.chains
  clusters : n.clusters = m.clusters

theorem SameEngines.refl (m : Module) : SameEngines m m := ⟨rfl, rfl⟩

theorem SameEngines.trans {a b c : Module} (h : SameEngines a b) (k : SameEngines b c) : SameEngines a c :=
  ⟨k.chains.trans h.chains, k.clusters.trans h.clusters⟩

theorem SameEngines.foldl {α : Type} {f : Module → α → Module} (h : ∀ m a, SameEngines m (f m a)) (l : List α) (m : Module) :
    SameEngines m (l.foldl f m) := by
  induction l generalizing m with
  | nil => exact .refl m
  | cons a l ih => exact (h m a).trans (ih _)

section
variable {m n w : Module}

theorem SameEngines.chain (h : SameEngines m n) (i : ChainId) : n.chain i = m.chain i := by
  rw [Module.chain, h.chains]; rfl

theorem SameEngines.cluster (h : SameEngines m n) (d : Fin 16) (k : Fin 8) : n.cluster d k = m.cluster d k := by
  rw [Module.cluster, h.clusters]; rfl

theorem trackLocs_engines {p : Option Actor} {write : Bool} {a : Nat} {ls : List (Loc × Nat)}
    (h : trackLocs m p write a ls = .ok n) : SameEngines m n := by
  rw [trackLocs_frame h]; exact ⟨rfl, rfl⟩

theorem writeLoc_engines (m : Module) (l : Loc) (bs : List Byte) : SameEngines m (writeLoc m l bs) := by
  cases l with
  | unit c o => simp only [writeLoc]; split <;> exact ⟨rfl, rfl⟩
  | phys pa => simp only [writeLoc]; split <;> exact ⟨rfl, rfl⟩

theorem storeEach_engines {p : Actor} {a k : Nat} {ls : List (Loc × Nat)} {bs : List Byte}
    (h : storeEach p a ls bs k m = .ok n) : SameEngines m n := by
  induction ls generalizing m k bs with
  | nil => cases h; exact .refl _
  | cons l ls ih =>
    simp only [storeEach] at h
    split at h
    · cases h
    split at h
    · cases h
    next hm => exact (trackLocs_engines hm).trans ((writeLoc_engines _ _ _).trans (ih h))

theorem chStore_engines {i : ChainId} {st : Option (Nat × W32)} {a : Nat} {bs : List Byte}
    (h : chStore m i st a bs = .ok n) : SameEngines m n := by
  unfold chStore at h
  dsimp only at h
  split at h
  · cases h
  next ls _ =>
    cases hs : storeEach (chainActor (m.chain i) st) a ls bs 0 m with
    | error e => rw [hs] at h; cases h
    | ok r => rw [hs] at h; cases h; exact storeEach_engines hs

/-! ### The log of checksum mismatches -/

theorem trackedAccess_klog {p : Actor} {line : Nat} {write : Bool} (h : trackedAccess m p line write = .ok n) (d : Fin 16) :
    (n.die d).klog = (m.die d).klog := by
  simp only [trackedAccess] at h
  split at h
  · cases h
  have hk : ∀ t, ((m.modDie (trackedDie line) fun x => { x with tags := Tbl.set {} x.tags (line / 64) t }).die d).klog =
      (m.die d).klog := fun t => by
    rw [Module.die_modDie]
    split
    · next he => rw [he]
    · rfl
  split_ifs at h <;> cases h <;> exact hk _

theorem trackedAll_klog {p : Actor} {write : Bool} {ls : List Nat} (h : trackedAll m p write ls = .ok n) (d : Fin 16) :
    (n.die d).klog = (m.die d).klog := by
  induction ls generalizing m with
  | nil => cases h; rfl
  | cons l ls ih =>
    simp only [trackedAll] at h
    split at h
    · cases h
    · next m' hm => rw [ih h, trackedAccess_klog hm]

theorem trackLocs_klog {p : Option Actor} {write : Bool} {a : Nat} {ls : List (Loc × Nat)}
    (h : trackLocs m p write a ls = .ok n) (d : Fin 16) : (n.die d).klog = (m.die d).klog := by
  unfold trackLocs at h
  split at h
  · cases h; rfl
  · split at h
    · next hm => cases h; exact trackedAll_klog hm d
    · cases h
    · cases h

theorem trackEach_klog {p : Actor} {a k : Nat} {ls : List (Loc × Nat)} (h : trackEach p a ls k m = .ok n) (d : Fin 16) :
    (n.die d).klog = (m.die d).klog := by
  induction ls generalizing m k with
  | nil => cases h; rfl
  | cons l ls ih =>
    simp only [trackEach] at h
    split at h
    · cases h
    next m' hm => rw [ih h, trackLocs_klog hm]

/-- A load leaves the engines and the logs of checksum mismatches. -/
structure LoadKeeps (m n : Module) : Prop where
  engines : SameEngines m n
  klog : ∀ d, (n.die d).klog = (m.die d).klog

theorem LoadKeeps.refl (m : Module) : LoadKeeps m m := ⟨.refl m, fun _ => rfl⟩

theorem LoadKeeps.trans (h : LoadKeeps m n) (k : LoadKeeps n w) : LoadKeeps m w :=
  ⟨h.engines.trans k.engines, fun d => (k.klog d).trans (h.klog d)⟩

theorem chLoad_keeps {i : ChainId} {st : Option (Nat × W32)} {a len : Nat} {bs : List Byte}
    (h : chLoad m i st a len = .ok (bs, n)) : LoadKeeps m n := by
  refine ⟨by rw [chLoad_frame h]; exact ⟨rfl, rfl⟩, fun d => ?_⟩
  unfold chLoad at h
  dsimp only at h
  split at h
  · cases h
  next ls _ =>
    cases hl : loadEach m (chainActor (m.chain i) st) a ls with
    | error e => rw [hl] at h; cases h
    | ok r =>
      rw [hl] at h; cases h
      unfold loadEach at hl
      split at hl
      · cases hl
      split at hl
      · cases hl
      split at hl
      · cases hl
      next hm => cases hl; exact trackEach_klog hm d

/-- A fold of loads. -/
theorem loads_keep {α β : Type} {f : β × Module → α → Except ChStop (β × Module)} {l : List α} {x y : β × Module}
    (hf : ∀ x a y, f x a = .ok y → LoadKeeps x.2 y.2) (h : l.foldlM f x = .ok y) : LoadKeeps x.2 y.2 := by
  induction l generalizing x with
  | nil => cases h; exact .refl _
  | cons a l ih =>
    rw [List.foldlM_cons] at h
    cases hx : f x a with
    | error e => rw [hx] at h; cases h
    | ok z => rw [hx] at h; exact (hf x a z hx).trans (ih h)

theorem loadImageOf_keeps {i : ChainId} {st : Nat × W32} {base stride nb np : Nat} {planes : List (List Nat)} {scales : List Byte}
    (h : loadImageOf m i st base stride nb np = .ok (planes, scales, n)) : LoadKeeps m n := by
  unfold loadImageOf at h
  cases hf : (List.range np).foldlM (fun (a : List (List Nat) × Module) p => do
      let (bs, m) ← chLoad a.2 i (some st) (base + p * stride) (4 * nb)
      .ok (a.1 ++ [words32 nb bs], m)) ([], m) with
  | error e => rw [hf] at h; cases h
  | ok x =>
    rw [hf] at h
    have h1 := loads_keep (fun x p y hy => by
      cases hc : chLoad x.2 i (some st) (base + p * stride) (4 * nb) with
      | error e => rw [hc] at hy; cases hy
      | ok z => rw [hc] at hy; cases hy; exact chLoad_keeps hc) hf
    simp only [bind, Except.bind] at h
    cases hc : chLoad x.2 i (some st) (base + np * stride) nb with
    | error e => rw [hc] at h; cases h
    | ok z =>
      rw [hc] at h
      cases h
      exact h1.trans (chLoad_keeps hc)

end

/-! ### Reports and the end of a chain -/

section
variable {m : Module}

theorem mapStreams_engines (m : Module) (f : Who → Stream → Stream) : SameEngines m (m.mapStreams f) := by
  unfold Module.mapStreams
  refine SameEngines.foldl ?_ _ m
  exact fun _ _ => ⟨rfl, rfl⟩

theorem deposit_engines {d : Fin 16} {img : Line} {clk : Clock} {n : Module} (h : deposit m d img clk = some n) :
    SameEngines m n := by
  have hwake : ∀ (ws : List Who) (m : Module),
      SameEngines m (ws.foldl (fun m w => m.modStrm w fun s => { s with wait := .tupleDone img clk }) m) :=
    SameEngines.foldl fun _ _ => ⟨rfl, rfl⟩
  unfold deposit at h
  dsimp only at h
  split at h
  · cases h; exact ⟨rfl, rfl⟩
  split at h
  · cases h; exact SameEngines.trans (by exact ⟨rfl, rfl⟩) (hwake _ _)
  split at h
  · cases h; exact SameEngines.trans (by exact ⟨rfl, rfl⟩) (hwake _ _)
  split at h
  · cases h
  split at h
  · cases h
  · cases h; exact SameEngines.trans (by exact ⟨rfl, rfl⟩) (hwake _ _)

theorem reportTuple_engines {c : Fin 64} {l : Line} {node f5 : Nat} : SameEngines m (reportTuple m c l node f5) := by
  unfold reportTuple
  dsimp only
  split
  · unfold depositReport
    dsimp only
    split
    · next h => exact deposit_engines h
    · exact ⟨rfl, rfl⟩
  · exact ⟨rfl, rfl⟩

theorem reportInst_engines {c : Fin 64} {g : DevAddr} {node f5 : Nat} : SameEngines m (reportInst m c g node f5) := by
  have hp : ∀ m : Module, SameEngines m (purgePools m c g) := fun m => by
    unfold purgePools
    refine SameEngines.foldl ?_ _ m
    exact fun _ _ => ⟨rfl, rfl⟩
  have ht : ∀ n : Module, SameEngines m n → SameEngines m (modInst n c g fun i => { i with
    reported := true, nodes := i.nodes.filter fun n => !decide (n.st = .waiting) }) := fun n h => ⟨h.chains, h.clusters⟩
  exact ht _ (reportTuple_engines.trans (hp _))

theorem reportChain_engines {i : ChainId} {cause code : Nat} : SameEngines m (reportChain m i cause code) := by
  unfold reportChain
  dsimp only
  split
  · exact if_keeps (P := SameEngines m) reportTuple_engines reportInst_engines
  · split
    · exact reportTuple_engines
    · exact .refl m

theorem deliverTo_engines {src d : Fin 16} {s : Fin 256} {φ : W32} {n : Nat} {drop : Bool} :
    SameEngines m (deliverTo m src d s φ n drop) := by
  refine if_keeps (P := SameEngines m) ?_ ⟨rfl, rfl⟩
  unfold settleSlot
  exact SameEngines.trans (by exact ⟨rfl, rfl⟩) (mapStreams_engines _ _)

/-- The bank of every cluster stands. -/
def SameBanks (m n : Module) : Prop := ∀ d k, (n.cluster d k).bank = (m.cluster d k).bank

theorem SameEngines.banks {n : Module} (h : SameEngines m n) : SameBanks m n := fun d k => by rw [h.cluster]

theorem SameBanks.trans {a b c : Module} (h : SameBanks a b) (k : SameBanks b c) : SameBanks a c :=
  fun d x => (k d x).trans (h d x)

theorem modCluster_banks {d : Fin 16} {k : Fin 8} {f : Cluster → Cluster} (hf : ∀ x, (f x).bank = x.bank) :
    SameBanks m (m.modCluster d k f) := fun e j => by
  rw [Module.modCluster, Module.cluster_setCluster]
  split
  · next h => obtain ⟨rfl, rfl⟩ := h; exact hf _
  · rfl

theorem endChain_banks {i : ChainId} {st : Nat} : SameBanks m (endChain m i st) := by
  have hspent : SameBanks m (if (m.chain i).fired.isSome then dropSpent m (m.chain i) else m) := by
    refine if_keeps (P := SameBanks m) ?_ fun _ _ => rfl
    unfold dropSpent
    split
    · exact modCluster_banks fun _ => rfl
    · exact fun _ _ => rfl
  have hhold : ∀ m : Module, SameBanks m (releaseHold m i) := fun m => by
    unfold releaseHold
    dsimp only
    refine if_keeps (P := SameBanks m) (fun d k => ?_) fun _ _ => rfl
    rw [deliverTo_engines.cluster]; rfl
  exact hspent.trans (hhold _)

/-- The end of a chain keeps its engine record. -/
theorem endChain_record {i : ChainId} {st : Nat} : ((endChain m i st).chain i).record = (m.chain i).record := by
  have hspent : ∀ k, (dropSpent m k).chain i = m.chain i := fun k => by
    unfold dropSpent
    split <;> rfl
  have hhold : ∀ m : Module, ((releaseHold m i).chain i).record = (m.chain i).record := fun m => by
    unfold releaseHold
    dsimp only
    split
    · rw [deliverTo_engines.chain, Module.chain_setChain_same]
    · rfl
  rw [endChain, Module.chain_modChain_same]
  dsimp only
  rw [hhold]
  split
  · rw [hspent]
  · rfl

/-- A stop that does not hold its chain: the chain has stopped with a record of its code, and no bank changes. -/
theorem stopChain_stopped {i : ChainId} {code sub a st : Nat} (hcode : engineHeld code = false) :
    ((stopChain m i code sub a st).chain i).state = 4 ∧
      ((stopChain m i code sub a st).chain i).record = engineRecord m i { m.chain i with state := 4 } code sub a st ∧
      SameBanks m (stopChain m i code sub a st) := by
  have hs : stopChain m i code sub a st = reportChain (endChain (m.setChain i { m.chain i with
      state := 4, record := engineRecord m i { m.chain i with state := 4 } code sub a st }) i 4) i 8 code := by
    rw [stopChain, hcode]; rfl
  rw [hs, reportChain_engines.chain]
  refine ⟨?_, ?_, ?_⟩
  · rw [endChain, Module.chain_modChain_same]
  · rw [endChain_record, Module.chain_setChain_same]
  · exact (endChain_banks (m := m.setChain i _)).trans reportChain_engines.banks

end

end Sys2Proof.Machine
end

section
/-! O40: MMP and MDR from their start to their end (06 R178 to R184, 15 R371). -/

namespace Sys2Proof.Machine

/-! ### The start of an MMP and of an MDR -/

section
variable {s : State} {r : Rec} {p : Nat} {m : Module}

/-- A command that does not go on from an earlier turn starts. -/
theorem exec_mmp_start (h : (s.m.chain s.chain).fired = none) : exec (.mmp r) s = chainOut s (mmpStart r s.m s.chain) := by
  have he : exec (.mmp r) s = command s (mmpStart r) (mmpRun r) := rfl
  rw [he, command, h]; rfl

theorem exec_mdr_start (h : (s.m.chain s.chain).fired = none) : exec (.mdr r) s = chainOut s (mdrStart r s.m s.chain) := by
  have he : exec (.mdr r) s = command s (mdrStart r) (mdrRun r) := rfl
  rw [he, command, h]; rfl

theorem exec_mmp_run {f : List (Nat × W32)} (h : (s.m.chain s.chain).fired = some f) :
    exec (.mmp r) s = chainOut s (mmpRun r s.m s.chain) := by
  have he : exec (.mmp r) s = command s (mmpStart r) (mmpRun r) := rfl
  rw [he, command, h]; rfl

theorem exec_mdr_run {f : List (Nat × W32)} (h : (s.m.chain s.chain).fired = some f) :
    exec (.mdr r) s = chainOut s (mdrRun r s.m s.chain) := by
  have he : exec (.mdr r) s = command s (mdrStart r) (mdrRun r) := rfl
  rw [he, command, h]; rfl

/-- A test of the lease stops with LEASE alone. -/
theorem leaseTest_error {k : Chain} (h : leaseTest m k ≠ .ok ()) : leaseTest m k = .error (.stop 0x13 0 0 0 none) := by
  unfold leaseTest at h ⊢
  split
  · next hc =>
    rw [hc] at h
    dsimp only at h
    split
    · next hl => exact absurd (if_pos hl) h
    · rfl
  · rfl

/-- The anchor of an MMP. -/
def mmpAnchor (r : Rec) (m : Module) (k : Chain) : BitVec 8 :=
  if mAreg r then (m.core k.die (k.core.getD 0)).anchor else BitVec.ofNat 8 (mAnchor r)

theorem mmpStart_refused {i : ChainId} (hok : mmpOk r = true) (hp : planesOf (mMode r) (mMask r) = some p)
    (ha : arrayAccepts (clusterOf ((s.m.chain i).core.getD 0)) (mMode r) p = false) :
    mmpStart r s.m i = .error (.stop 1 0 0 0 none) := by
  simp only [mmpStart, hp, hok, ha]
  rfl

/-- An MMP whose fields, entries and array are right fires, and then is tested for its lease and its anchor. -/
theorem mmpStart_fires {i : ChainId} (hok : mmpOk r = true) (hp : planesOf (mMode r) (mMask r) = some p)
    (ha : arrayAccepts (clusterOf ((s.m.chain i).core.getD 0)) (mMode r) p = true)
    (h1 : entryTest s.m (s.m.chain i) (mAcb r) (actBytes r) true = .ok ())
    (h2 : entryTest s.m (s.m.chain i) (mWcb r) (wgtBytes r (planeRange (mMode r) p).2) true = .ok ())
    (hf : fire s.m i [mAcb r, mWcb r] none = .ok m) :
    mmpStart r s.m i = (leaseTest s.m (s.m.chain i)).bind fun _ =>
      if !mStart r && decide (mmpAnchor r s.m (s.m.chain i) ≠
          (s.m.cluster (s.m.chain i).die (clusterOf ((s.m.chain i).core.getD 0))).anchor) then chIllegal
      else .ok (keepDesc m i 0 [(mmpAnchor r s.m (s.m.chain i)).setWidth 32]) := by
  simp only [mmpStart, hp, hok, ha, h1, h2, hf]
  rfl

/-- What an MMP comes to at its start. -/
theorem mmp_starts (s : State) (r : Rec) (p : Nat) (m : Module) :
    let c := s.chain
    let k := s.m.chain c
    let core := k.core.getD 0
    let anchor : BitVec 8 := if mAreg r then (s.m.core k.die core).anchor else BitVec.ofNat 8 (mAnchor r)
    let same := mStart r = true ∨ anchor = (s.m.cluster k.die (clusterOf core)).anchor
    k.fired = none → mmpOk r = true → planesOf (mMode r) (mMask r) = some p →
    (arrayAccepts (clusterOf core) (mMode r) p = false →
      exec (.mmp r) s = .next { s with m := stopChain s.m c 1 0 0 0 }) ∧
    (arrayAccepts (clusterOf core) (mMode r) p = true → entryTest s.m k (mAcb r) (actBytes r) true = .ok () →
      entryTest s.m k (mWcb r) (wgtBytes r (planeRange (mMode r) p).2) true = .ok () →
      fire s.m c [mAcb r, mWcb r] none = .ok m →
      (leaseTest s.m k ≠ .ok () → exec (.mmp r) s = .next { s with m := stopChain s.m c 0x13 0 0 0 }) ∧
      (leaseTest s.m k = .ok () → ¬same → exec (.mmp r) s = .next { s with m := stopChain s.m c 1 0 0 0 }) ∧
      (leaseTest s.m k = .ok () → same → ∃ w, exec (.mmp r) s = .next { s with m := w } ∧ ChainOnly m w c ∧
        w.chain c = { m.chain c with desc := 0, idxs := [anchor.setWidth 32] })) := by
  intro c k core anchor same hfired hok hp
  have hexec := exec_mmp_start (r := r) hfired
  refine ⟨fun ha => ?_, fun ha h1 h2 hf => ?_⟩
  · rw [hexec, mmpStart_refused hok hp ha]; rfl
  · have hstart := mmpStart_fires hok hp ha h1 h2 hf
    have hsame : (!mStart r && decide (mmpAnchor r s.m k ≠ (s.m.cluster k.die (clusterOf core)).anchor)) = true ↔ ¬same := by
      simp only [same, Bool.and_eq_true, Bool.not_eq_true', decide_eq_true_eq, not_or, Bool.not_eq_true]
      rfl
    refine ⟨fun hl => ?_, fun hl hs => ?_, fun hl hs => ?_⟩
    · rw [hexec, hstart, leaseTest_error hl]; rfl
    · rw [hexec, hstart, hl]
      simp only [Except.bind]
      rw [if_pos (hsame.2 hs)]; rfl
    · refine ⟨keepDesc m c 0 [anchor.setWidth 32], ?_, chainOnly_modChain m c _, ?_⟩
      · rw [hexec, hstart, hl]
        simp only [Except.bind]
        rw [if_neg fun h => hsame.1 h hs]; rfl
      · rw [keepDesc, Module.chain_modChain_same]; rfl

theorem mdr_starts (s : State) (r : Rec) (m : Module) :
    let c := s.chain
    let k := s.m.chain c
    (k.fired = none → mdrOk r = false → exec (.mdr r) s = .next { s with m := stopChain s.m c 1 0 0 0 }) ∧
    (k.fired = none → mdrOk r = true → entryTest s.m k (rOcb r) (rData r + rStatus r) false = .ok () →
      fire s.m c [] (some (rOcb r)) = .ok m →
      (leaseTest s.m k = .ok () → exec (.mdr r) s = .next { s with m := m }) ∧
      (leaseTest s.m k ≠ .ok () → exec (.mdr r) s = .next { s with m := stopChain s.m c 0x13 0 0 0 })) := by
  intro c k
  refine ⟨fun hfired hok => ?_, fun hfired hok he hf => ?_⟩
  · rw [exec_mdr_start hfired, mdrStart, hok]; rfl
  · have hstart : mdrStart r s.m c = (leaseTest s.m k).bind fun _ => .ok m := by
      simp only [mdrStart, hok, Bool.not_true, Bool.false_eq_true, if_false]
      rw [show entryTest s.m (s.m.chain c) (rOcb r) (rData r + rStatus r) false = .ok () from he]
      simp only [hf]
      rfl
    refine ⟨fun hl => ?_, fun hl => ?_⟩
    · rw [exec_mdr_start hfired, hstart, hl]; rfl
    · rw [exec_mdr_start hfired, hstart, leaseTest_error hl]; rfl

end

/-! ### The comparison of checksums (15 R371) -/

section
variable {m : Module} {i : ChainId} {k : Chain}

theorem cluster_modDie (d e : Fin 16) (j : Fin 8) (f : Die → Die) : (m.modDie d f).cluster e j = m.cluster e j := rfl

/-- Up to one mismatch the command goes on: none are left, and one is logged. -/
theorem checksum_passes (h : (m.cluster k.die (clusterOf (k.core.getD 0))).mismatches ≤ 1) :
    let x := m.cluster k.die (clusterOf (k.core.getD 0))
    let w := (checksum m i k).2
    (checksum m i k).1 = false ∧ w.chains = m.chains ∧
      w.cluster k.die (clusterOf (k.core.getD 0)) = { x with mismatches := 0 } ∧
      (x.mismatches = 0 → (w.die k.die).klog = (m.die k.die).klog) ∧
      (x.mismatches = 1 → ∃ e, (w.die k.die).klog = (e :: (m.die k.die).klog).take 16) := by
  intro x w
  have hx : x.mismatches = 0 ∨ x.mismatches = 1 := Nat.le_one_iff_eq_zero_or_eq_one.1 h
  rcases hx with h0 | h1
  · have hw : checksum m i k = (false, m) := if_pos h0
    simp only [w, hw]
    refine ⟨trivial, trivial, ?_, fun _ => trivial, fun h1 => by omega⟩
    rw [← h0]
  · have hw : checksum m i k = (false, (m.modCluster k.die (clusterOf (k.core.getD 0)) fun x => { x with mismatches := 0 }).modDie k.die
        fun y => { y with klog := pushLog y.klog (klogEntry (m.modCluster k.die (clusterOf (k.core.getD 0)) fun x => { x with mismatches := 0 })
          k.die (clusterOf (k.core.getD 0)) 1 i k) }) := by
      simp only [checksum]
      rw [if_neg (show ¬x.mismatches = 0 by omega), if_pos h1]
    simp only [w, hw]
    refine ⟨trivial, rfl, ?_, fun h0 => by omega, fun _ => ?_⟩
    · rw [cluster_modDie, Module.cluster_modCluster_same]
    · rw [Module.die_modDie_same]
      exact ⟨_, rfl⟩

/-- From two mismatches on the command fails, and no bank changes. -/
theorem checksum_fails (h : 2 ≤ (m.cluster k.die (clusterOf (k.core.getD 0))).mismatches) :
    (checksum m i k).1 = true ∧ SameBanks m (checksum m i k).2 := by
  simp only [checksum]
  rw [if_neg (by omega), if_neg (by omega)]
  refine ⟨rfl, fun d j => ?_⟩
  rw [cluster_modDie]
  refine modCluster_banks ?_ d j
  exact fun _ => rfl

end

/-! ### The run of an MMP -/

section
variable {s : State} {r : Rec} {p : Nat} {act scales : List Byte} {planes : List (List Nat)} {m m1 : Module} {i : ChainId}

/-- What an MMP that passes the comparison leaves: its elements added to, its chain performed. -/
def mmpDone (r : Rec) (p : Nat) (act scales : List Byte) (planes : List (List Nat)) (k : Chain) (i : ChainId) (m : Module) : Module :=
  performed ((m.modCluster k.die (clusterOf (k.core.getD 0)) fun x => { x with
      anchor := (k.idxs.getD 0 0).setWidth 8
      bank := mmpElems r (mMode r) p (anchorOf ((k.idxs.getD 0 0).setWidth 8)) act planes scales x.bank }).modChain i fun k =>
        { k with units := mCc r * mM r }) i {
    cmd := r, bytes := wgtBytes r (planeRange (mMode r) p).2, publish := none, flags := if mmpBad r act scales then fBAD else 0
    release := releasedBy k ((if mKeepA r then [] else [mAcb r]) ++ (if mKeepW r then [] else [mWcb r])) }

/-- What one that fails leaves: its chain stopped with KCHECK. -/
def mmpFailed (i : ChainId) (m : Module) : Module :=
  stopChain m.nextFresh.2 i 0x0E 0 0 (Config.freeValue m.fresh % 64 + Config.freeValue m.fresh / 64 % 512 * 2 ^ 16)

/-- An MMP whose operands can be read is performed or fails by the comparison. -/
theorem mmpRun_eq (hp : planesOf (mMode r) (mMask r) = some p)
    (ha : chLoad s.m i (some ((firedEntry s.m (s.m.chain i) (mAcb r)).1, (firedEntry s.m (s.m.chain i) (mAcb r)).2.1))
      (firedEntry s.m (s.m.chain i) (mAcb r)).2.2 (actBytes r) = .ok (act, m))
    (hw : loadImageOf m i ((firedEntry s.m (s.m.chain i) (mWcb r)).1, (firedEntry s.m (s.m.chain i) (mWcb r)).2.1)
      (firedEntry s.m (s.m.chain i) (mWcb r)).2.2 (mStride r) (mBlocks r) (planeRange (mMode r) p).2 = .ok (planes, scales, m1)) :
    mmpRun r s.m i = .ok (if (checksum m1 i (s.m.chain i)).1 then mmpFailed i (checksum m1 i (s.m.chain i)).2
      else mmpDone r p act scales planes (s.m.chain i) i (checksum m1 i (s.m.chain i)).2) := by
  have hp' : (planesOf (mMode r) (mMask r)).getD 8 = p := by rw [hp]; rfl
  simp only [mmpRun, hp']
  rw [ha]
  simp only [bind, Except.bind]
  rw [hw]
  dsimp only
  cases checksum m1 i (s.m.chain i) with
  | mk fails w =>
    cases fails
    · rfl
    · rfl

variable {k : Chain} {x : Cluster}

/-- What a performed MMP leaves. -/
theorem mmpDone_spec (hchain : m.chain i = k) (hx : m.cluster k.die (clusterOf (k.core.getD 0)) = x) :
    let w := mmpDone r p act scales planes k i m
    w.cluster k.die (clusterOf (k.core.getD 0)) = { x with
      anchor := (k.idxs.getD 0 0).setWidth 8
      bank := mmpElems r (mMode r) p (anchorOf ((k.idxs.getD 0 0).setWidth 8)) act planes scales x.bank } ∧
    w.chain i = { k with
      units := mCc r * mM r
      done := some {
        cmd := r, bytes := wgtBytes r (planeRange (mMode r) p).2, publish := none
        flags := if mmpBad r act scales then fBAD else 0
        release := releasedBy k ((if mKeepA r then [] else [mAcb r]) ++ (if mKeepW r then [] else [mWcb r])) } } ∧
    w.dies = m.dies := by
  refine ⟨?_, ?_, rfl⟩
  · have hc : ∀ (n : Module) (q : Perf) (f : Chain → Chain), (performed (n.modChain i f) i q).cluster k.die (clusterOf (k.core.getD 0)) =
        n.cluster k.die (clusterOf (k.core.getD 0)) := fun _ _ _ => rfl
    rw [mmpDone, hc, Module.cluster_modCluster_same, hx]
  · have hc : ∀ f, (m.modCluster k.die (clusterOf (k.core.getD 0)) f).chain i = k := fun _ => hchain
    rw [mmpDone, performed, Module.chain_modChain_same, Module.chain_modChain_same, hc]

theorem mmpFailed_spec : ((mmpFailed i m).chain i).state = 4 ∧
    fld ((mmpFailed i m).chain i).record.w0.toNat 0 8 = 0x0E ∧ SameBanks m (mmpFailed i m) := by
  obtain ⟨h1, h2, h3⟩ := stopChain_stopped (m := m.nextFresh.2) (i := i) (code := 0x0E) (sub := 0) (a := 0)
    (st := Config.freeValue m.fresh % 64 + Config.freeValue m.fresh / 64 % 512 * 2 ^ 16) rfl
  refine ⟨h1, ?_, fun d j => h3 d j⟩
  rw [mmpFailed, h2]
  simp only [engineRecord, fld, BitVec.toNat_ofNat, pow_zero, Nat.div_one]
  omega

end

/-- MMP performed, or stopped by the comparison. -/
theorem mmp_runs (s : State) (r : Rec) (f : List (Nat × W32)) (p : Nat) (act scales : List Byte) (planes : List (List Nat))
    (m m1 : Module) :
    let c := s.chain
    let k := s.m.chain c
    let kl := clusterOf (k.core.getD 0)
    let a := firedEntry s.m k (mAcb r)
    let wt := firedEntry s.m k (mWcb r)
    let np := (planeRange (mMode r) p).2
    let x := s.m.cluster k.die kl
    let anchor : BitVec 8 := (k.idxs.getD 0 0).setWidth 8
    k.fired = some f → planesOf (mMode r) (mMask r) = some p → mN r ≤ 512 →
    chLoad s.m c (some (a.1, a.2.1)) a.2.2 (actBytes r) = .ok (act, m) →
    loadImageOf m c (wt.1, wt.2.1) wt.2.2 (mStride r) (mBlocks r) np = .ok (planes, scales, m1) →
    (x.mismatches ≤ 1 → ∃ w, exec (.mmp r) s = .next { s with m := w } ∧
      let y := w.cluster k.die kl
      y = { x with anchor := anchor, bank := y.bank, mismatches := 0 } ∧
      (∀ row n, row < mCc r * mM r → n < mN r → Tbl.get {} y.bank (row * 512 + n) =
        ((List.range (mKb r)).flatMap fun kb => blockTerms (mMode r) p (actBlock r act row kb)
          (wgtBlock r (planeRange (mMode r) p).1 planes scales n kb)).foldl (fun e t => e.add (anchorOf anchor) t)
          (if mStart r then {} else Tbl.get {} x.bank (row * 512 + n))) ∧
      (∀ i, ¬(i / 512 < mCc r * mM r ∧ i % 512 < mN r) → Tbl.get {} y.bank i = Tbl.get {} x.bank i) ∧
      w.chain c = { k with
        units := mCc r * mM r
        done := some {
          cmd := r, bytes := wgtBytes r np, publish := none, flags := if mmpBad r act scales then fBAD else 0
          release := releasedBy k ((if mKeepA r then [] else [mAcb r]) ++ (if mKeepW r then [] else [mWcb r])) } } ∧
      (x.mismatches = 0 → (w.die k.die).klog = (s.m.die k.die).klog) ∧
      (x.mismatches = 1 → ∃ e, (w.die k.die).klog = (e :: (s.m.die k.die).klog).take 16)) ∧
    (2 ≤ x.mismatches → ∃ w, exec (.mmp r) s = .next { s with m := w } ∧ (w.chain c).state = 4 ∧
      fld (w.chain c).record.w0.toNat 0 8 = 0x0E ∧ (w.cluster k.die kl).bank = x.bank) := by
  intro c k kl a wt np x anchor hfired hp hN ha hw
  have hkeeps := (chLoad_keeps ha).trans (loadImageOf_keeps hw)
  have hx : m1.cluster k.die kl = x := hkeeps.engines.cluster k.die kl
  have hexec : exec (.mmp r) s = .next { s with m := (if (checksum m1 c k).1 then mmpFailed c (checksum m1 c k).2
      else mmpDone r p act scales planes k c (checksum m1 c k).2) } := by
    rw [exec_mmp_run hfired, mmpRun_eq hp ha hw]; rfl
  refine ⟨fun hmis => ?_, fun hmis => ?_⟩
  · obtain ⟨hpass, hchains, hcluster, hlog0, hlog1⟩ := checksum_passes (m := m1) (i := c) (k := k) (by rw [hx]; exact hmis)
    rw [hpass] at hexec
    generalize (checksum m1 c k).2 = n at hexec hchains hcluster hlog0 hlog1
    have hchain : n.chain c = k := by
      have h1 : n.chain c = m1.chain c := by rw [Module.chain, hchains]; rfl
      exact h1.trans (hkeeps.engines.chain c)
    rw [hx] at hcluster hlog0 hlog1
    rw [hkeeps.klog] at hlog0 hlog1
    obtain ⟨hy, hdone, hdies⟩ := mmpDone_spec (r := r) (p := p) (act := act) (scales := scales) (planes := planes) hchain hcluster
    obtain ⟨hin, hout⟩ := mmpElems_get (r := r) (mode := mMode r) (p := p) (anchor := anchorOf anchor) (act := act) (scales := scales)
      (planes := planes) hN x.bank
    have hdie : (mmpDone r p act scales planes k c n).die k.die = n.die k.die := by rw [Module.die, hdies]; rfl
    refine ⟨_, hexec, ?_⟩
    simp only [Bool.false_eq_true, if_false]
    refine ⟨?_, fun row n h1 h2 => ?_, fun i hi => ?_, hdone, fun h => ?_, fun h => ?_⟩
    · rw [hy]
    · rw [hy]; exact hin row n h1 h2
    · rw [hy]; exact hout i hi
    · rw [hdie]; exact hlog0 h
    · rw [hdie]; exact hlog1 h
  · obtain ⟨hfail, hbanks⟩ := checksum_fails (m := m1) (i := c) (k := k) (by rw [hx]; exact hmis)
    rw [hfail] at hexec
    obtain ⟨h1, h2, h3⟩ := mmpFailed_spec (m := (checksum m1 c k).2) (i := c)
    exact ⟨_, hexec, h1, h2, (h3 k.die kl).trans ((hbanks k.die kl).trans (by rw [hx]))⟩

/-! ### The run of an MDR -/

section
variable {s : State} {r : Rec} {m : Module} {i : ChainId}

/-- The bytes that an MDR stores. -/
def mdrBytes (r : Rec) (x : Cluster) : List Byte :=
  let es := drained r x.bank
  let data := (es.map fun e => e.2.drain (fmtOf (rType r)) (anchorOf x.anchor)).flatMap fun v => toBytes (tyBytes (rType r)) v.1
  data ++ List.replicate (rData r - data.length) 0 ++ toBytes (rStatus r)
    (packBits 2 (es.map fun e => (if e.2.inexact then 1 else 0) + (if e.2.ovf then 2 else 0)))

/-- What an MDR that has stored leaves. -/
def mdrDone (r : Rec) (x : Cluster) (k : Chain) (o : Nat) (i : ChainId) (m : Module) : Module :=
  performed ((if rClr r then m.modCluster k.die (clusterOf (k.core.getD 0)) fun y => { y with
      bank := (drained r x.bank).foldl (fun b e => Tbl.set {} b e.1 {}) y.bank } else m).modChain i fun k => { k with units := rR r }) i {
    cmd := r, bytes := rData r + rStatus r, publish := some o, release := []
    flags := orFlags (((drained r x.bank).map fun e => e.2.drain (fmtOf (rType r)) (anchorOf x.anchor)).map Prod.snd) }

theorem mdrRun_eq (r : Rec) (m : Module) (i : ChainId) :
    let k := m.chain i
    let x := m.cluster k.die (clusterOf (k.core.getD 0))
    let o := firedEntry m k (rOcb r)
    mdrRun r m i = (countRows r i (chStore m i (some (o.1, o.2.1)) o.2.2 (mdrBytes r x))).bind fun m =>
      .ok (mdrDone r x k o.1 i m) := rfl

variable {x : Cluster} {k : Chain} {o : Nat}

/-- What an MDR that has stored leaves. -/
theorem mdrDone_spec (hchain : m.chain i = k) (hx : m.cluster k.die (clusterOf (k.core.getD 0)) = x) (hN : rN r ≤ 512) :
    let w := mdrDone r x k o i m
    let y := w.cluster k.die (clusterOf (k.core.getD 0))
    w.chain i = { k with
      units := rR r
      done := some { cmd := r, bytes := rData r + rStatus r, publish := some o, release := []
                     flags := orFlags (((drained r x.bank).map fun e => e.2.drain (fmtOf (rType r)) (anchorOf x.anchor)).map Prod.snd) } } ∧
    (rClr r = false → y = x) ∧
    (rClr r = true → y = { x with bank := y.bank } ∧ ∀ j, Tbl.get {} y.bank j =
      if j / 512 < rR r ∧ j % 512 < rN r then {} else Tbl.get {} x.bank j) := by
  have hcl : ∀ (n : Module) (q : Perf) (f : Chain → Chain), (performed (n.modChain i f) i q).cluster k.die (clusterOf (k.core.getD 0)) =
      n.cluster k.die (clusterOf (k.core.getD 0)) := fun _ _ _ => rfl
  refine ⟨?_, fun h => ?_, fun h => ?_⟩
  · have hc : ∀ (c : Prop) [Decidable c] (f : Cluster → Cluster),
        (if c then m.modCluster k.die (clusterOf (k.core.getD 0)) f else m).chain i = k := fun c _ f =>
      if_keeps (P := fun n : Module => n.chain i = k) hchain hchain
    rw [mdrDone, performed, Module.chain_modChain_same, Module.chain_modChain_same, hc]
  · rw [mdrDone, hcl, h]; exact hx
  · have hy : (mdrDone r x k o i m).cluster k.die (clusterOf (k.core.getD 0)) =
        { x with bank := (drained r x.bank).foldl (fun b e => Tbl.set {} b e.1 {}) x.bank } := by
      rw [mdrDone, hcl, h, if_pos rfl, Module.cluster_modCluster_same, hx]
    rw [hy]
    exact ⟨rfl, cleared_get hN x.bank⟩

/-- The bytes that an MDR stores, element by element. -/
theorem mdrBytes_eq (r : Rec) (x : Cluster) :
    let elem := fun (i : Nat) => Tbl.get {} x.bank (i / rN r * 512 + i % rN r)
    let value := fun (i : Nat) => (elem i).drain (fmtOf (rType r)) (anchorOf x.anchor)
    let all := List.range (rR r * rN r)
    let data := all.flatMap fun i => toBytes (tyBytes (rType r)) (value i).1
    mdrBytes r x = data ++ List.replicate (rData r - data.length) 0 ++ toBytes (rStatus r)
      (all.map fun i => ((if (elem i).inexact then 1 else 0) + if (elem i).ovf then 2 else 0) * 4 ^ i).sum := by
  intro elem value all data
  have hbits : packBits 2 ((drained r x.bank).map fun e => (if e.2.inexact then 1 else 0) + (if e.2.ovf then 2 else 0)) =
      (all.map fun i => ((if (elem i).inexact then 1 else 0) + if (elem i).ovf then 2 else 0) * 4 ^ i).sum := by
    rw [drained_range, List.map_map]
    exact packBits_two _ fun i => by dsimp only [Function.comp]; split <;> split <;> decide
  have hdata : ((drained r x.bank).map fun e => e.2.drain (fmtOf (rType r)) (anchorOf x.anchor)).flatMap
      (fun v => toBytes (tyBytes (rType r)) v.1) = data := by
    rw [drained_range, List.map_map, List.flatMap_map]
    rfl
  rw [mdrBytes]
  simp only [hbits, hdata]

theorem mdrFlags_eq (r : Rec) (x : Cluster) :
    ((drained r x.bank).map fun e => e.2.drain (fmtOf (rType r)) (anchorOf x.anchor)).map Prod.snd =
      (List.range (rR r * rN r)).map fun i =>
        ((Tbl.get {} x.bank (i / rN r * 512 + i % rN r)).drain (fmtOf (rType r)) (anchorOf x.anchor)).2 := by
  rw [drained_range, List.map_map, List.map_map]
  rfl

end

/-- MDR performed, or stopped by its store. -/
theorem mdr_runs (s : State) (r : Rec) (m : Module) :
    let c := s.chain
    let k := s.m.chain c
    let kl := clusterOf (k.core.getD 0)
    let x := s.m.cluster k.die kl
    ∀ f, k.fired = some f → rN r ≤ 512 →
      let o := firedEntry s.m k (rOcb r)
      let elem := fun (i : Nat) => Tbl.get {} x.bank (i / rN r * 512 + i % rN r)
      let value := fun (i : Nat) => (elem i).drain (fmtOf (rType r)) (anchorOf x.anchor)
      let all := List.range (rR r * rN r)
      let data := all.flatMap fun i => toBytes (tyBytes (rType r)) (value i).1
      let bits := (all.map fun i => ((if (elem i).inexact then 1 else 0) + if (elem i).ovf then 2 else 0) * 4 ^ i).sum
      let store := chStore s.m c (some (o.1, o.2.1)) o.2.2
        (data ++ List.replicate (rData r - data.length) 0 ++ toBytes (rStatus r) bits)
      (∀ w n code sub a st, store = .error (.after w n (.stop code sub a st none)) → exec (.mdr r) s = .next { s with
        m := stopChain (w.setChain c { w.chain c with units := min (rR r) (n / (rN r * tyBytes (rType r))) }) c code sub a st }) ∧
      (store = .ok m → ∃ w, exec (.mdr r) s = .next { s with m := w } ∧
        w.chain c = { k with
          units := rR r
          done := some { cmd := r, bytes := rData r + rStatus r, publish := some o.1, release := []
                         flags := orFlags (all.map fun i => (value i).2) } } ∧
        let y := w.cluster k.die kl
        (rClr r = false → y = x) ∧
        (rClr r = true → y = { x with bank := y.bank } ∧ ∀ i, Tbl.get {} y.bank i =
          if i / 512 < rR r ∧ i % 512 < rN r then {} else Tbl.get {} x.bank i)) := by
  intro c k kl x f hfired hN o elem value all data bits store
  have hbytes : mdrBytes r x = data ++ List.replicate (rData r - data.length) 0 ++ toBytes (rStatus r) bits := mdrBytes_eq r x
  have hrun : mdrRun r s.m c = (countRows r c store).bind fun m => .ok (mdrDone r x k o.1 c m) := by
    simp only [store, ← hbytes]
    exact mdrRun_eq r s.m c
  rw [exec_mdr_run hfired, hrun]
  refine ⟨fun w n code sub a st h => ?_, fun h => ?_⟩
  · rw [h]; rfl
  · have hsame := chStore_engines h
    have hspec := mdrDone_spec (r := r) (o := o.1) (hsame.chain c) (hsame.cluster k.die kl) hN
    rw [mdrFlags_eq] at hspec
    rw [h]
    exact ⟨_, rfl, hspec⟩

/-- Settles O40: the start and the run of an MMP, one contribution, and the start and the run of an MDR. -/
theorem kanteleCommandsAccumulateAndDrain : Obligations.KanteleCommandsAccumulateAndDrain := by
  unfold Obligations.KanteleCommandsAccumulateAndDrain
  refine ⟨mmp_starts, mmp_runs, contribution, fun s r m => ?_⟩
  obtain ⟨h1, h2⟩ := mdr_starts s r m
  exact ⟨h1, h2, mdr_runs s r m⟩

end Sys2Proof.Machine
end
